-- ==== Sys2Proof/Word.lean ====
section
/-!
DEFINITION. The words of the block: bytes, 16-, 32- and 64-bit words, 256-bit parameter areas.
-/

namespace Sys2Proof

/-- A byte (R11). -/
abbrev Byte := BitVec 8
/-- A 16-bit field. -/
abbrev Half := BitVec 16
/-- A 32-bit lane or field. -/
abbrev Word32 := BitVec 32
/-- A 64-bit register (R7). -/
abbrev Word := BitVec 64
/-- The 32-byte parameter area or FIELDS area of a packet, byte 0 least significant (R415, R416). -/
abbrev Params := BitVec 256

/-- Sparse data by number: a list of keys and values, keys rising; what an unlisted key reads as is fixed where the table
is declared. -/
abbrev Tbl (α : Type) := List (Nat × α)

end Sys2Proof
end

