-- ==== Sys2Proof/Syntax.lean ====
section
/-!
DEFINITION. The commands of the block, one constructor of `Instr` per row of the opcode table, and the operands they carry.
Encoded instruction fields keep the widths of the spec's encoding tables; agents (tiles, hulls, units, groups) are numbers.
-/

namespace Sys2Proof

/-- What a store or DRAM read meets: no error, a corrected one, or an uncorrectable one (R72, R73, R179). -/
inductive Ecc where
  | ok | corrected | uncorrectable
  deriving DecidableEq, Repr

/-- What the matrix array's residue check meets in an instruction: agreement, or a mismatch at a row, column, group (R104). -/
inductive Residue where
  | agree
  | mismatch (row col group : Nat)
  deriving DecidableEq, Repr

/-- What an engine meets in a command: nothing, a residue mismatch, an uncorrectable error of its structure store or of a private
bank (R232), or a corrected or uncorrectable pod-store error in the fetch of its input (R72, R73). -/
inductive AusErr where
  | ok | mismatch | store | bank | fetchCorrected | fetchUe
  deriving DecidableEq, Repr

/-- Operand fields of a V0 instruction (R109). -/
structure V0 where
  vd : BitVec 6
  va : BitVec 6
  vb : BitVec 6
  vc : BitVec 6
  fmt : BitVec 4
  gm : BitVec 2
  imm : BitVec 10
  deriving DecidableEq, Repr

/-- Operand fields of the transfer form of V1 (R111). -/
structure V1T where
  v : BitVec 6
  sb : BitVec 5
  off : BitVec 16
  gm : BitVec 2
  deriving DecidableEq, Repr

/-- Operand fields of the general form of V1 (R111). -/
structure V1G where
  vd : BitVec 6
  va : BitVec 6
  vb : BitVec 6
  lg : BitVec 4
  fmtS : BitVec 4
  rnd : BitVec 2
  gm : BitVec 2
  fmtD : BitVec 4
  imm6 : BitVec 6
  deriving DecidableEq, Repr

/-- Form R of the scalar slots (R121); `s1` tells slot S1 from S0. -/
structure SR where
  s1 : Bool
  pg : BitVec 3
  rd : BitVec 5
  ra : BitVec 5
  rb : BitVec 5
  deriving DecidableEq, Repr

/-- Form I of the scalar slots (R121). -/
structure SI where
  s1 : Bool
  pg : BitVec 3
  rd : BitVec 5
  imm : BitVec 10
  deriving DecidableEq, Repr

/-- Form C of the scalar slots (R121). -/
structure SC where
  s1 : Bool
  pg : BitVec 3
  pd : BitVec 3
  ra : BitVec 5
  rb : BitVec 5
  deriving DecidableEq, Repr

/-- Form P of the scalar slots (R121). -/
structure SP where
  s1 : Bool
  pg : BitVec 3
  pd : BitVec 3
  pa : BitVec 3
  pb : BitVec 3
  deriving DecidableEq, Repr

/-- The Y slot's fields beside the opcode (R133). -/
structure YF where
  pg : BitVec 3
  so : BitVec 5
  imm : BitVec 7
  deriving DecidableEq, Repr

/-- Where a command packet came from (R416 ORIGIN). -/
inductive Origin where
  | ring (r : Nat)
  | udp (e : Nat)
  deriving DecidableEq, Repr

/-- Which memory unit (R177, R180): a tier A pseudo-channel 0–511 or a tier B channel 0–63. -/
inductive MemUnit where
  | a (c : Nat)
  | b (j : Nat)
  deriving DecidableEq, Repr

/-- What one access to a row of a memory unit meets: its code's result (R179) and the repeats after parity or link errors, 9 where
the 8th repeat fails too (R196). -/
structure Meet where
  unit : MemUnit
  row : Nat
  ecc : Ecc
  retries : Nat
  deriving DecidableEq, Repr

/-- A command packet as firmware holds it after fetching it (R415): its header fields, its parameter area and its tail. -/
structure Cmd where
  org : Origin
  format : Byte
  flags : Byte
  tag : Word32
  tailBytes : Half
  /-- bytes 0x0A–0x1F of the packet -/
  resv : BitVec 176
  params : Params
  tail : List Byte
  /-- what the command's memory accesses meet (the environment's); no part of the packet -/
  meets : List Meet
  deriving DecidableEq, Repr

/-- Where a tensor lies under a residency plan (R84). -/
inductive Level where
  | tileStore | podStore | tierA | tierB
  deriving DecidableEq, Repr

/-- One tensor of an image, with its placement for every fold factor it supports (R84). -/
structure TensorDecl where
  id : Nat
  bytes : Nat
  /-- level, and offset in the store or the tier B window, under each plan, in the order of the image's folds (R84); tier A bases are
  the loader's (log entry 22) -/
  places : List (Level × Nat)
  /-- home tile λ for a tensor in a tile or pod store -/
  home : Nat
  persistent : Bool
  weight : Bool
  input : Bool
  twin : Bool
  carry : Bool
  provenance : Bool
  deriving DecidableEq, Repr

/-- A group listed by the geometry block: its id and this module's logical rank in it. -/
structure GroupUse where
  id : Nat
  rank : Nat
  deriving DecidableEq, Repr

/-- The geometry block of an image. -/
structure Geometry where
  tiles : Nat
  fanins : List Nat
  worldRank : Nat
  groups : List GroupUse
  domains : List Nat
  /-- the block's own bytes, which R20 digests -/
  bytes : List Byte
  deriving DecidableEq, Repr

/-- A declared engine: pod position index (pod of the hull, in ascending order), engine 0–1, private banks (R228). -/
structure EngineDecl where
  podIx : Nat
  eng : Nat
  bankBase : Nat
  bankCount : Nat
  deriving DecidableEq, Repr

/-- One entry of a reseed list (R174). -/
structure Reseed where
  position : Nat
  segment : Nat
  bundle : Nat
  lam : Nat
  rho : Nat
  deriving DecidableEq, Repr

/-- What the image declares for one supported fold factor (R23, R82, R84, R88). -/
structure FoldPlan where
  foldLog2 : Nat
  /-- share of each pod used, in pod order (R82) -/
  podShares : List Nat
  /-- largest metered charge of any 12,000-cycle window, per pod used (R82) -/
  windowPeaks : List Nat
  tileStoreBytes : Nat
  podStoreBytes : Nat
  bundles : Nat
  /-- ticks of a step under this fold (R53) -/
  ticks : Nat
  spineGroups : Nat
  reseeds : List Reseed
  /-- segments 0, 1, … of the schedule: bundles in order (R74, R91) -/
  segments : List (List (BitVec 256))
  deriving DecidableEq, Repr

/-- One entry of the sync table (R134). -/
structure SyncDecl where
  id : Nat
  kind : Nat
  timeout : Nat
  home : Nat
  holdLimit : Nat
  param : Nat
  init : Nat
  /-- bytes 0x0C–0x0F -/
  reserved : Nat
  deriving DecidableEq, Repr

/-- One entry of the collective table (R308). -/
structure CollDecl where
  op : Nat
  group : Nat
  kind : Nat
  fmt : Nat
  startId : Nat
  src : Nat
  dst : Nat
  bytes : Nat
  doneId : Nat
  startAmount : Nat
  /-- DEFER tensor, or ROUNDS for ROTATE -/
  defer : Nat
  deriving DecidableEq, Repr

/-- One entry of the service table (R427). -/
structure ServiceDecl where
  reqTensor : Nat
  ansTensor : Nat
  reqSem : Nat
  ansSem : Nat
  slots : Nat
  deadlineUs : Nat
  /-- the program requests the trailer of R40 with its answers -/
  provenance : Bool
  deriving DecidableEq, Repr

/-- One entry of the evaluation table (R435). -/
structure EvalDecl where
  ticks : Nat
  domains : List Nat
  /-- tensors its schedules write -/
  writes : List Nat
  /-- reseed list for each fold factor, in the order of the image's folds (R174) -/
  reseeds : List (List Reseed)
  deriving DecidableEq, Repr

/-- One shard of the shard table (R268): tensors in layer order, with their coordinate header parts (R280). -/
structure ShardDecl where
  id : Nat
  owner : Nat
  tensors : List Nat
  elemFmt : Nat
  layout : Nat
  shape : List Nat
  origin : List Nat
  extent : List Nat
  /-- none: elementwise rules; some 0: a matrix rule on whole matrices; some b: one that works in blocks of b by b (R262) -/
  matrix : Option Nat
  deriving DecidableEq, Repr

/-- A program image as the loader reads it. The manual gives no container for an image (log entry 5): a command that loads
one carries what the loader reads in the image's bytes. -/
structure Image where
  /-- SHA-256 of the image's bytes (R30 PROGRAM_DIGEST) -/
  digest : BitVec 256
  signatureOk : Bool
  /-- the static timetable checks of R78 that follow addresses and paths through the schedules (slot tables, bank accesses,
  outstanding counts, constant window addresses, state-dependent rules) all hold -/
  staticOk : Bool
  /-- TENSOR of each GATHER or NMU descriptor of the schedules whose TENSOR is constant (R128) -/
  constDescs : List Nat
  /-- pod-store ranges that the schedules address by constants: pod position index, address, bytes (R228) -/
  constStore : List (Nat × Nat × Nat)
  /-- sync-object ids that the schedules name (R78) -/
  constSync : List Nat
  /-- the updates of a step in order: layer's tensor, and whether its gradient's wait comes before it (R258) -/
  updates : List (Nat × Bool)
  geometry : Geometry
  tickPeriodUs : Nat
  stepTicks : Nat
  folds : List FoldPlan
  tensors : List TensorDecl
  annex : List Nat
  engines : List EngineDecl
  sync : List SyncDecl
  coll : List CollDecl
  services : List ServiceDecl
  evals : List EvalDecl
  evalBudget : Nat
  recordBase : Nat
  recordLen : Nat
  /-- checkpoint areas (R360): snapshot area bytes in tier A, drain area base and bytes in tier B -/
  ckptAreas : Option (Nat × Nat × Nat)
  /-- undo area (R261): bytes in tier A -/
  undoArea : Option Nat
  eager : Bool
  shards : List ShardDecl
  /-- buddy pairs (R268) -/
  pairs : List (Nat × Nat)
  computesNorm : Bool
  usesDraws : Bool
  deriving DecidableEq, Repr

/-- Where a near-memory request comes from (R212): descriptor `slot` (0 the oldest) of a tile's queue, or the remote
message at a place of the inbox. -/
inductive NmuSrc where
  | desc (tile q slot : Nat)
  | remote (k : Nat)
  deriving DecidableEq, Repr

/-- A sync request that reaches its object's home (R136): one in flight from a tile of another pod, or one that firmware
makes for a control core or the host. -/
inductive SyncArrival where
  | inFlight (k : Nat)
  | core (src : Nat) (hull op id amount : Nat) (nowait : Bool)
  deriving DecidableEq, Repr

/-- A fabric message (R289). -/
structure Msg where
  dstFid : BitVec 24
  srcFid : BitVec 24
  cls : Nat
  dstHull : Nat
  hops : Nat
  e2e : Word32
  pgen : Word32
  tag : Word
  body : List Byte
  deriving DecidableEq, Repr

/-- A flit as it arrives on a bundle (R284), with what the FEC decoder reports of its codewords. -/
structure Flit where
  /-- bytes 0x00–0xFB, over which the CRC runs -/
  bytes : List Byte
  crc : Word32
  fecCorrected : Nat
  uncorrectable : Bool
  /-- a NAK among the records of a CONTROL flit names the SEQ to replay from -/
  nak : Option (BitVec 12)
  /-- credits for classes 0–3 that a CONTROL flit returns -/
  credits : List Nat
  deriving DecidableEq, Repr

/-- Who reads or writes a register: the host over BAR0, or a control core (R443). -/
inductive Accessor where
  | host
  | core (c : Nat)
  deriving DecidableEq, Repr

/-- A late member's entries carried by a decision message (R321). -/
structure Decision where
  group : Nat
  op : Nat
  step : Nat
  epoch : Nat
  pos : Nat
  /-- KINDs of the entries: 1 DEFERRED_OUT, 2 DROPPED (R32), the second, if any, for the deferred-in term -/
  kinds : List Nat
  deriving DecidableEq, Repr

/-- An exact-lane record (R315): VEC16 values, or the 64-byte verdict of R264. -/
structure ExactRecord where
  group : Nat
  op : Nat
  step : Nat
  pos : Nat
  /-- a second record sent by the heir for a lost position (R325) -/
  heir : Bool
  /-- 320-bit sums, one for VERDICT and sixteen for VEC16 -/
  sums : List (BitVec 320)
  flags : List (BitVec 8)
  requests : Byte
  deriving DecidableEq, Repr

/-- Readings the environment takes for start-up and recovery (R197, R296, R476, R480): units and tiles that fail, the
trained host link, spare lanes switched in. -/
structure Training where
  failA : List Nat
  failB : List Nat
  /-- pods with a tile that fails self-test and is not covered by the spare map -/
  failPods : List Nat
  /-- redundant lanes switched in: (pseudo-channel, lanes used, lanes left) -/
  spares : List (Nat × Nat × Nat)
  linkGen : Nat
  linkWidth : Nat
  firmwareOk : Bool
  firmwareDigest : BitVec 384
  deriving DecidableEq, Repr

/-- An instruction of the test-access port (R477); every code without a name acts as BYPASS. -/
inductive TapInstr where
  | bypass | idcode | sample | extest | extestPulse | extestTrain
  | other (code : Nat)
  deriving DecidableEq, Repr

/-- The commands of the block. -/
inductive Instr where
  -- matrix slot (R97)
  | mLdw (t : Nat) (wb : BitVec 1) (fmt : BitVec 4) (sb : BitVec 5) (off : BitVec 16) (e : List Ecc)
  | mMma (t : Nat) (acc : BitVec 3) (wb : BitVec 1) (fmtA : BitVec 4) (z : Bool) (sb : BitVec 5) (off : BitVec 16)
      (rows1 : BitVec 7) (e : List Ecc) (r : Residue)
  | mDrain (t : Nat) (acc : BitVec 3) (fmtO : BitVec 4) (rnd : BitVec 2) (sb : BitVec 5) (off : BitVec 16)
      (rows1 : BitVec 7) (z : Bool)
  | mDrv (t : Nat) (acc : BitVec 3) (vd : BitVec 6) (row8 : BitVec 4)
  | mAccld (t : Nat) (acc : BitVec 3) (vs : BitVec 6) (row8 : BitVec 4) (int : Bool)
  | mZero (t : Nat) (acc : BitVec 3)
  -- V0 (R109)
  | vFma (t : Nat) (f : V0) | vAdd (t : Nat) (f : V0) | vSub (t : Nat) (f : V0) | vMul (t : Nat) (f : V0)
  | vMax (t : Nat) (f : V0) | vMin (t : Nat) (f : V0) | vCmp (t : Nat) (f : V0) | vSel (t : Nat) (f : V0)
  | vAnd (t : Nat) (f : V0) | vOr (t : Nat) (f : V0) | vXor (t : Nat) (f : V0)
  | vShl (t : Nat) (f : V0) | vShr (t : Nat) (f : V0) | vSra (t : Nat) (f : V0)
  | vRcp (t : Nat) (f : V0) | vRsq (t : Nat) (f : V0) | vSqrt (t : Nat) (f : V0) | vExp2 (t : Nat) (f : V0)
  | vLog2 (t : Nat) (f : V0) | vGsum (t : Nat) (f : V0)
  -- V1 (R112)
  | vLd (t : Nat) (f : V1T) (e : List Ecc) | vSt (t : Nat) (f : V1T)
  | vCvt (t : Nat) (f : V1G) | vPerm (t : Nat) (f : V1G) | vBcast (t : Nat) (f : V1G) | vDraw (t : Nat) (f : V1G)
  | vLgzero (t : Nat) (f : V1G) | vLgacc (t : Nat) (f : V1G) | vLgrd (t : Nat) (f : V1G) | vLgfold (t : Nat) (f : V1G)
  | vLgexp (t : Nat) (f : V1G) | vLgimp (t : Nat) (f : V1G)
  -- scalar slots (R122)
  | sAdd (t : Nat) (f : SR) | sSub (t : Nat) (f : SR) | sMul (t : Nat) (f : SR)
  | sAnd (t : Nat) (f : SR) | sOr (t : Nat) (f : SR) | sXor (t : Nat) (f : SR)
  | sShl (t : Nat) (f : SR) | sShr (t : Nat) (f : SR) | sSra (t : Nat) (f : SR)
  | sMin (t : Nat) (f : SR) | sMax (t : Nat) (f : SR) | sMinu (t : Nat) (f : SR) | sMaxu (t : Nat) (f : SR)
  | sLi (t : Nat) (f : SI) | sLih (t : Nat) (f : SI) | sAddi (t : Nat) (f : SI) | sShli (t : Nat) (f : SI)
  | sShri (t : Nat) (f : SI)
  | sCeq (t : Nat) (f : SC) | sCne (t : Nat) (f : SC) | sClt (t : Nat) (f : SC) | sCge (t : Nat) (f : SC)
  | sCltu (t : Nat) (f : SC) | sCgeu (t : Nat) (f : SC)
  | sPand (t : Nat) (f : SP) | sPor (t : Nat) (f : SP) | sPandn (t : Nat) (f : SP)
  | sLd (t : Nat) (f : SR) (e : Ecc) | sSt (t : Nat) (f : SR)
  | sBr (t : Nat) (s1 : Bool) (pg : BitVec 3) (target : BitVec 13)
  | sRdstat (t : Nat) (f : SI) | sSetfl (t : Nat) (f : SR) | sDraw (t : Nat) (f : SR)
  -- access slot (R126)
  | aEnq (t : Nat) (pg : BitVec 3) (q : BitVec 3) (sd : BitVec 5) (sx : BitVec 5) (e : Ecc)
  | aWait (t : Nat) (pg : BitVec 3) (q : BitVec 3) (n : BitVec 6)
  | aWaitm (t : Nat) (pg : BitVec 3) (mask : BitVec 8)
  | aQstat (t : Nat) (pg : BitVec 3) (q : BitVec 3) (rd : BitVec 5)
  | aPut (t : Nat) (pg : BitVec 3) (ss : BitVec 5) (sdst : BitVec 5) (port : BitVec 5) (n1 : BitVec 10)
      (e : List Ecc)
  | aPget (t : Nat) (pg : BitVec 3) (ss : BitVec 5) (sdst : BitVec 5) (n1 : BitVec 10) (e : List Ecc)
  | aAucmd (t : Nat) (pg : BitVec 3) (sd : BitVec 5) (eng : BitVec 1) (e : Ecc)
  -- sync slot (R133)
  | ySignal (t : Nat) (f : YF) | yAcq (t : Nat) (f : YF) | yArrive (t : Nat) (f : YF) | yBarr (t : Nat) (f : YF)
  | yLease (t : Nat) (f : YF) | yRelease (t : Nat) (f : YF) | yBufget (t : Nat) (f : YF) | yBufput (t : Nat) (f : YF)
  | yEot (t : Nat) (f : YF) | yBsw (t : Nat) (f : YF)
  -- sync homes, descriptors
  | syncRequestArrive (a : SyncArrival)
  | leaseBreak (id : Nat)
  | descriptorRetire (t q slot : Nat) (e : Ecc) (m : List Meet)
  -- memory and near-memory
  | mapoutCopyComplete (u : MemUnit) (ok : Bool)
  | refresh (u : MemUnit)
  | refreshHot (tierB : Bool) (ix : Nat) (hot : Bool) (tempC : Byte)
  | scrubBlock (u : MemUnit) (row : Nat) (e : Ecc) (retries : Nat)
  | reduce (src : NmuSrc) (mismatch : Option Nat) (m : List Meet)
  | reduceHoldRelease (k : Nat) (m : List Meet)
  | update (src : NmuSrc) (mismatch : Option Nat) (m : List Meet)
  | scatterAdd (src : NmuSrc) (mismatch : Option Nat) (m : List Meet)
  | nmuDigest (src : NmuSrc) (m : List Meet)
  | verify (src : NmuSrc) (m : List Meet)
  | snapshot (src : NmuSrc) (m : List Meet)
  | nmuDelta (src : NmuSrc) (m : List Meet)
  | nmuZero (src : NmuSrc) (m : List Meet)
  | nmuScrub (src : NmuSrc) (m : List Meet)
  -- Ausolin engines
  | ausLoad (a : Nat) (e : AusErr) | ausDelta (a : Nat) (e : AusErr)
  | factor (a : Nat) (e : AusErr) | solve (a : Nat) (e : AusErr) | refine (a : Nat) (e : AusErr)
  | invroot (a : Nat) (e : AusErr) | qpIp (a : Nat) (e : AusErr) | qpAdmm (a : Nat) (e : AusErr)
  | ausFree (a : Nat)
  | engineComplete (a : Nat)
  -- ticks and checkpoints
  | tickBegin (h : Nat) (m : List Meet)
  | extractionComplete (h : Nat) (m : List Meet)
  | segmentAck (h seg : Nat)
  | rollbackComplete (h : Nat) (m : List Meet)
  -- time
  | timeGtcSet (v : Word)
  | timeMessage (offset : Int)
  | launchFire (h : Nat)
  | timeTickCfg (v : Word)
  | throttleChange (die : Nat) (tjC : Byte)
  -- Jalvik
  | flitReceive (b : Nat) (f : Flit)
  | messageReceive (b : Nat) (m : Msg)
  | bundleRetrain (b : Nat)
  | laneLoss (b lane : Nat)
  | trainingComplete (b : Nat) (lanes : BitVec 4) (peerFid : BitVec 24) (peerOwner peerPlanOwner : Nat)
  | downTimeout (b : Nat)
  | jvDisable (v : Word)
  -- collectives
  | collOpStart (h op : Nat) (m : List Meet)
  | chunkReceive (h k : Nat) (m : List Meet)
  | lateDecision (h op : Nat)
  | decisionMessage (h : Nat) (d : Decision)
  | exactRecord (h : Nat) (r : ExactRecord)
  | heartbeat (h group : Nat)
  | suspect (h group pos : Nat)
  | reformProposal (h group lostPos proposer : Nat) (votes : List Nat)
  | reformDecision (h group lostPos firstOp step : Nat)
  -- twins
  | twinFeed (h k : Nat) (m : List Meet)
  | twinDigest (h shard role : Nat) (step : Nat) (digest : BitVec 256)
  | layerCopy (h shard layer : Nat) (m : List Meet)
  -- placement and reclaim
  | placementRequest (h : Nat) (gens : List Word32) (forced : Bool)
  | placementSetting (h : Nat) (g : Word32) (step : Nat)
  | resendRequest (h : Nat) (requester : BitVec 24) (g : Word32) (step : Nat)
  | reclaimForceTimeout (h : Nat)
  | foldPoint (h : Nat)
  | evacuationComplete (h : Nat)
  | evacuationTimeout (h : Nat)
  | quiesceComplete (h : Nat)
  | scrubComplete (h : Nat) (failA failB : List Nat)
  | drainEnd (h : Nat)
  -- integrity and hangs
  | probeRunEnd (pass : Bool) (tile check : Nat)
  | queueTimeout (t : Nat)
  | syncTimeout (t : Nat)
  | runaway (t : Nat)
  | overrunRun (h : Nat)
  | recoveryComplete (tr : Training)
  | warmReset (capture : Bool)
  | rstCfg (v : Word)
  | collCfg (v : Word)
  | hullCfg (v : Word)
  | pwrHshare (h : Nat) (v : Word)
  | secCfg (v : Word)
  | attGo (h : BitVec 3)
  -- rings, endpoints, interrupt controller
  | doorbell (r : Nat) (v : Word)
  | commandFetch (r : Nat) (pcieError : Bool) (img : Option Image) (objects : List (List Byte)) (m : List Meet)
  | cmdRhead (r : Nat) (v : Word)
  | ringEnable (r : Nat) (v : Word)
  | ringDisable (r : Nat) (v : Word)
  | endpointEnable (e : Nat) (v : Word)
  | datagramArrival (e : Nat) (src : BitVec 128) (sport : Half) (bytes : List Byte) (m : List Meet)
  | icClaim (c : Nat)
  | icComplete (c : Nat) (id : BitVec 10)
  | clrPending (c id : Nat)
  | setPending (c id : Nat)
  | holdoffExpire (c id : Nat)
  | coreIdle (c : Nat)
  -- command packets (R430)
  | devInfo (c : Cmd) | devHealth (c : Cmd) | timeSetLaunch (c : Cmd) | timeRead (c : Cmd)
  | hullCreate (c : Cmd) | hullGrant (c : Cmd) | hullReclaim (c : Cmd) | hullDestroy (c : Cmd)
  | hullStatus (c : Cmd)
  | progLoad (c : Cmd) (img : Option Image) | progStart (c : Cmd) | progStop (c : Cmd) | progQuery (c : Cmd)
  | svcCall (c : Cmd)
  | serviceAnswer (h svc : Nat) (m : List Meet)
  | serviceDeadline (h svc : Nat)
  | progEval (c : Cmd)
  | memCopy (c : Cmd) | memFill (c : Cmd) | memMapStatus (c : Cmd)
  | grpWrite (c : Cmd) | grpActivate (c : Cmd) | grpRead (c : Cmd)
  | linkPlan (c : Cmd) | linkStatus (c : Cmd)
  | auStructLoad (c : Cmd) | auDelta (c : Cmd) | auSolve (c : Cmd) | auResult (c : Cmd)
  | ckptBegin (c : Cmd) | ckptStatus (c : Cmd)
  | restore (c : Cmd) (objects : List (List Byte))
  | shardExport (c : Cmd)
  | probePod (c : Cmd) | probeNmu (c : Cmd) | bypassPod (c : Cmd) | releasePod (c : Cmd) | mapoutUnit (c : Cmd)
  | bypassBundle (c : Cmd) | releaseBundle (c : Cmd)
  | testContentLoad (c : Cmd) | errLogRead (c : Cmd)
  | dbgAttach (c : Cmd) | dbgPeek (c : Cmd) | hullHalt (c : Cmd) | hullResume (c : Cmd) | coreHalt (c : Cmd)
  | coreResume (c : Cmd)
  | deviceStandby (c : Cmd) | deviceActive (c : Cmd) | podSleep (c : Cmd) | podWake (c : Cmd) | pwrBudgetRead (c : Cmd)
  -- power, pins, start-up
  | sleepEntryComplete (p : Nat)
  | wakeTimer (p : Nat)
  | wakeComplete (p : Nat)
  | pwrEnHigh (refclkSel : Bool) (slotId : BitVec 6)
  | startUpEnd (tr : Training)
  | perst (level : Bool)
  | leak (level : Bool)
  | coolant (inletC outletC : Byte) (flow kpa : Half)
  | thermalTrip (die : Nat) (tjC outletC : Byte)
  -- BAR0
  | bar0InvalidAccess (addr : BitVec 48) (size : Nat) (write : Bool)
  | rcRead (a : Accessor) (off : BitVec 24)
  | registerWrite (a : Accessor) (off : BitVec 24) (v : Word)
  -- the rest stand last: compiled code has no room for more than 244 constructors with fields
  | storeTimeout (h : Nat)
  | newTwinLost (h : Nat)
  | ethPortStateChange (port : Nat) (up : Bool)
  | coreTimer (c : Nat)
  | testAccessInstruction (i : TapInstr)
  | recordPushAck (collector : Nat)
  | collectorRetry (collector : Nat) (reachable : Bool)
  | queuePairError (h port : Nat)
  | peerSignalDetect (b : Nat)
  | vendorExpiry (h : Nat)
  | timeMessageTimeout
  | holdoverTimeout
  | privRetry
  | probeTimeout
  | fwWatchdog
  | watchdogWarning
  | captureComplete
  | recoveryTimeout
  | readmit
  | capRelease
  | attDone
  | startPhaseTimeout
  | powerRemoval
  | inputUndervoltage
  | timeMessageSend
  | railOutOfRegulation
  deriving DecidableEq, Repr

end Sys2Proof
end

