-- ==== Sys2Proof/Machine/Flags.lean ====
section
/-! DEFINITION. The sticky arithmetic flags of a tile (POD_TMXFLAGS, R117) and how operations raise them. -/

namespace Sys2Proof.Machine

/-- POD_TMXFLAGS [6:0] (R117). -/
abbrev Flg := BitVec 7

/-- A NaN from non-NaN operands (R117, bit 0). -/
def fNV : Flg := 1
/-- Overflow to infinity or the largest finite value (R117, bit 1). -/
def fOF : Flg := 2
/-- A subnormal output flushed to zero (R117, bit 2). -/
def fFZ : Flg := 4
/-- A group still saturated at k = 4 (R117, bit 3). -/
def fSAT : Flg := 8
/-- Residue mismatch (R117, bit 4). -/
def fRESIDUE : Flg := 16
/-- Tile-store access beyond 0x2F_FFFF (R117, bit 5). -/
def fTSRANGE : Flg := 32
/-- A long-register element overflowed (R117, bit 6). -/
def fLGOVF : Flg := 64

/-- A flag raised on a condition. -/
def flagIf (b : Bool) (f : Flg) : Flg := if b then f else 0

end Sys2Proof.Machine
end

