-- ==== Sys2Proof/Machine/Tbl.lean ====
section
/-!
DEFINITION. Sparse tables and byte strings: the one way the model reads and writes keyed data, and byte order (R11).
-/

namespace Sys2Proof.Machine

variable {α : Type}

/-- The value listed at a key, if any. -/
def tfind : Tbl α → Nat → Option α
  | [], _ => none
  | (k', v) :: r, k => if k = k' then some v else tfind r k

/-- The value at a key, the default where unlisted. -/
def tget (d : α) (t : Tbl α) (k : Nat) : α := (tfind t k).getD d

/-- Lists a value at a key; keys stay rising. -/
def tput : Tbl α → Nat → α → Tbl α
  | [], k, v => [(k, v)]
  | (k', v') :: r, k, v =>
    if k < k' then (k, v) :: (k', v') :: r
    else if k = k' then (k, v) :: r
    else (k', v') :: tput r k v

/-- Removes a key. -/
def tdel : Tbl α → Nat → Tbl α
  | [], _ => []
  | (k', v') :: r, k => if k = k' then r else (k', v') :: tdel r k

/-- Writes a value in canonical form: the default value removes the entry. -/
def tset [DecidableEq α] (d : α) (t : Tbl α) (k : Nat) (v : α) : Tbl α :=
  if v = d then tdel t k else tput t k v

/-- Several writes in order. -/
def tsets [DecidableEq α] (d : α) (t : Tbl α) (l : List (Nat × α)) : Tbl α :=
  l.foldl (fun t kv => tset d t kv.1 kv.2) t

/-- Every listed value changed. -/
def tmap (f : α → α) (t : Tbl α) : Tbl α := t.map fun kv => (kv.1, f kv.2)

/-- Keys strictly rising, each above a bound. -/
def risingFrom : Option Nat → Tbl α → Bool
  | _, [] => true
  | none, (k, _) :: r => risingFrom (some k) r
  | some b, (k, _) :: r => decide (b < k) && risingFrom (some k) r

/-- The canonical form: keys rising, no entry equal to the default. -/
def twf [DecidableEq α] (d : α) (t : Tbl α) : Bool := risingFrom none t && t.all (fun kv => decide (kv.2 ≠ d))

/-- A list of numbers `n, …, n + len − 1`. -/
def upFrom (n : Nat) : Nat → List Nat
  | 0 => []
  | len + 1 => n :: upFrom (n + 1) len

/-! ## Bytes -/

/-- The number a byte string spells, least significant byte first (R11). -/
def leNat : List Byte → Nat
  | [] => 0
  | b :: r => b.toNat + 256 * leNat r

/-- `n` bytes of a number, least significant first (R11). -/
def natLe : Nat → Nat → List Byte
  | 0, _ => []
  | n + 1, v => BitVec.ofNat 8 v :: natLe n (v / 256)

/-- `n` bytes of a number, most significant first. -/
def natBe (n v : Nat) : List Byte := (natLe n v).reverse

/-- The number a byte string spells, most significant byte first. -/
def beNat (l : List Byte) : Nat := leNat l.reverse

/-- `n` bytes at an address of a sparse byte store; unlisted bytes are zero. -/
def getBytes (t : Tbl Byte) (a n : Nat) : List Byte := (upFrom a n).map (tget 0 t)

/-- Writes bytes at an address. -/
def putBytes (t : Tbl Byte) : Nat → List Byte → Tbl Byte
  | _, [] => t
  | a, b :: r => putBytes (tset 0 t a b) (a + 1) r

/-- `n` zero bytes. -/
def zeros (n : Nat) : List Byte := List.replicate n 0

/-- Bytes `[a, a + n)` of a byte string, zero past its end. -/
def slice (l : List Byte) (a n : Nat) : List Byte :=
  let d := (l.drop a).take n
  d ++ zeros (n - d.length)

/-- The number in `n` bytes at an offset of a byte string. -/
def fieldLe (l : List Byte) (a n : Nat) : Nat := leNat (slice l a n)

/-- Bits `[hi:lo]` of a number. -/
def bitsOf (v hi lo : Nat) : Nat := v / 2 ^ lo % 2 ^ (hi + 1 - lo)

/-- Bit `i` of a number. -/
def bitOf (v i : Nat) : Bool := v / 2 ^ i % 2 == 1

/-- 1 for true. -/
def b2n (b : Bool) : Nat := if b then 1 else 0

/-- A bit `b` at place `i`. -/
def bitAt (b : Bool) (i : Nat) : Nat := if b then 2 ^ i else 0

/-- Field of a parameter area: `n` bytes at an offset (R415). -/
def pf (p : Params) (a n : Nat) : Nat := bitsOf p.toNat (8 * (a + n) - 1) (8 * a)

/-- A FIELDS area from (offset, size in bytes, value) parts. -/
def mkFields (l : List (Nat × Nat × Nat)) : Params :=
  BitVec.ofNat 256 (l.foldl (fun acc f => acc + (f.2.2 % 2 ^ (8 * f.2.1)) * 2 ^ (8 * f.1)) 0)

/-- A signed number from its two's-complement `w`-bit image. -/
def toSigned (w v : Nat) : Int := if v % 2 ^ w < 2 ^ (w - 1) then (v % 2 ^ w : Nat) else ((v % 2 ^ w : Nat) : Int) - 2 ^ w

/-- The two's-complement `w`-bit image of an integer. -/
def ofSigned (w : Nat) (v : Int) : Nat := (v % (2 ^ w : Int)).toNat

/-- Serial-number order of `w`-bit generations (R57): a is newer than b when a − b mod 2^w is in 1 … 2^(w−1) − 1. -/
def newer (w a b : Nat) : Bool :=
  let d := (a + 2 ^ w - b % 2 ^ w) % 2 ^ w
  decide (0 < d ∧ d < 2 ^ (w - 1))

/-- Largest number of a list, 0 for none. -/
def maxOf (l : List Nat) : Nat := l.foldl max 0

/-- The numbers of a list, each at its first place. -/
def dedup (l : List Nat) : List Nat := l.foldl (fun acc a => if acc.contains a then acc else acc ++ [a]) []

/-- Sum of a list. -/
def sumOf (l : List Nat) : Nat := l.foldl (· + ·) 0

/-- A list with an element replaced. -/
def setAt (l : List α) (i : Nat) (v : α) : List α := l.take i ++ (if i < l.length then [v] else []) ++ l.drop (i + 1)

/-- Remove the element at a place. -/
def dropAt (l : List α) (i : Nat) : List α := l.take i ++ l.drop (i + 1)

end Sys2Proof.Machine
end

