-- ==== Sys2Proof/Machine/Num.lean ====
section
/-!
DEFINITION. Number formats, rounding and the exact arithmetic behind every unit (R141–R164). A finite value is a sign, a
magnitude and an exponent: (−1)^neg × m × 2^e.
-/

namespace Sys2Proof.Machine

/-- A decoded value (R145). -/
inductive Val where
  | nan
  | inf (neg : Bool)
  | fin (neg : Bool) (m : Nat) (e : Int)
  deriving DecidableEq, Repr

/-- Rounding modes (R155); stochastic with its 12 bits (R156). -/
inductive Rnd where
  | rne
  | rtz
  | sr (r : Nat)
  deriving DecidableEq, Repr

/-- Kinds of specials (R141). -/
inductive FKind where
  | ieee | e4m3 | finite
  deriving DecidableEq, Repr

/-- A floating-point format (R141): exponent and fraction bits, bias, specials, whether subnormal results are flushed (R158). -/
structure FFmt where
  eb : Nat
  fb : Nat
  bias : Nat
  kind : FKind
  flush : Bool
  deriving DecidableEq, Repr

def fp64 : FFmt := ⟨11, 52, 1023, .ieee, false⟩
def fp32 : FFmt := ⟨8, 23, 127, .ieee, true⟩
def fp16 : FFmt := ⟨5, 10, 15, .ieee, false⟩
def bf16 : FFmt := ⟨8, 7, 127, .ieee, true⟩
def e5m2 : FFmt := ⟨5, 2, 15, .ieee, false⟩
def e4m3 : FFmt := ⟨4, 3, 7, .e4m3, false⟩
def e3m2 : FFmt := ⟨3, 2, 3, .finite, false⟩
def e2m3 : FFmt := ⟨2, 3, 1, .finite, false⟩
def e2m1 : FFmt := ⟨2, 1, 1, .finite, false⟩

/-- The width of a format in bits. -/
def FFmt.bits (f : FFmt) : Nat := 1 + f.eb + f.fb

/-- emin (R141). -/
def FFmt.emin (f : FFmt) : Int := 1 - (f.bias : Int)

/-- The largest finite magnitude: significand and exponent of its last bit (R141). -/
def FFmt.maxFin (f : FFmt) : Nat × Int :=
  match f.kind with
  | .ieee => (2 ^ (f.fb + 1) - 1, (f.bias : Int) - f.fb)
  | .e4m3 => (14, 8 - 3)
  | .finite => (2 ^ (f.fb + 1) - 1, ((2 ^ f.eb - 1 : Nat) : Int) - f.bias - f.fb)

/-- The canonical NaN (R141, R144). -/
def FFmt.canonNaN (f : FFmt) : Nat :=
  match f.kind with
  | .ieee => (2 ^ f.eb - 1) * 2 ^ f.fb + 2 ^ (f.fb - 1)
  | .e4m3 => 0x7F
  | .finite => 0

/-- The code of an infinity. -/
def FFmt.infCode (f : FFmt) (neg : Bool) : Nat := bitAt neg (f.eb + f.fb) + (2 ^ f.eb - 1) * 2 ^ f.fb

/-- Decodes an element (R145); the exponent is that of the last significand bit. -/
def decodeF (f : FFmt) (w : Nat) : Val :=
  let neg := bitOf w (f.eb + f.fb)
  let ex := w / 2 ^ f.fb % 2 ^ f.eb
  let fr := w % 2 ^ f.fb
  if f.kind = .ieee ∧ ex = 2 ^ f.eb - 1 then (if fr = 0 then .inf neg else .nan)
  else if f.kind = .e4m3 ∧ ex = 15 ∧ fr = 7 then .nan
  else if ex = 0 then .fin neg fr (f.emin - f.fb)
  else .fin neg (2 ^ f.fb + fr) ((ex : Int) - f.bias - f.fb)

/-- Number of bits of a magnitude. -/
def bitLen (m : Nat) : Nat := if m = 0 then 0 else Nat.log2 m + 1

/-- `m / 2^sh` rounded (R155, R156). -/
def roundShift (r : Rnd) (m sh : Nat) : Nat :=
  let q := m / 2 ^ sh
  let rem := m % 2 ^ sh
  match r with
  | .rtz => q
  | .rne => if 2 * rem > 2 ^ sh ∨ (2 * rem = 2 ^ sh ∧ q % 2 = 1) then q + 1 else q
  | .sr x =>
    let d := if sh ≥ 12 then rem / 2 ^ (sh - 12) else rem * 2 ^ (12 - sh)
    if d + x ≥ 4096 then q + 1 else q

/-- `m × 2^e` at quantum `2^q`, rounded. -/
def roundTo (r : Rnd) (m : Nat) (e q : Int) : Nat :=
  if q ≤ e then m * 2 ^ (e - q).toNat else roundShift r m (q - e).toNat

/-- Is `m × 2^e` larger than `m' × 2^e'`? -/
def magGt (m : Nat) (e : Int) (m' : Nat) (e' : Int) : Bool :=
  if e ≤ e' then decide (m > m' * 2 ^ (e' - e).toNat) else decide (m * 2 ^ (e - e').toNat > m')

/-- Rounds and encodes a value in a format, with the flags it raises (R155–R159). -/
def encodeF (f : FFmt) (r : Rnd) : Val → Nat × Flg
  | .nan => (f.canonNaN, 0)
  | .inf neg => if f.kind = .e4m3 then (0x7F, fNV) else (f.infCode neg, 0)
  | .fin neg m e =>
    let sg := bitAt neg (f.eb + f.fb)
    if m = 0 then (sg, 0) else
    let ex : Int := e + bitLen m - 1
    let q := if f.flush then ex - f.fb else max (ex - f.fb) (f.emin - f.fb)
    let x := roundTo r m e q
    let (x, q) := if x = 2 ^ (f.fb + 1) then (2 ^ f.fb, q + 1) else (x, q)
    if magGt x q f.maxFin.1 f.maxFin.2 then
      if f.kind = .e4m3 then (sg + 0x7E, fOF)
      else match r with
        | .rtz => (sg + (2 ^ f.eb - 2) * 2 ^ f.fb + (2 ^ f.fb - 1), fOF)
        | _ => (f.infCode neg, fOF)
    else if x < 2 ^ f.fb then (sg + x, 0)
    else if q + f.fb < f.emin then (sg, fFZ)
    else (sg + (q + f.fb + f.bias).toNat * 2 ^ f.fb + (x - 2 ^ f.fb), 0)

/-- Rounds to an integer and saturates to `w` bits (R157, R159, R160). -/
def encodeInt (w : Nat) (r : Rnd) : Val → Nat × Flg
  | .nan => (0, fNV)
  | .inf neg => (if neg then 2 ^ (w - 1) else 2 ^ (w - 1) - 1, fOF)
  | .fin neg m e =>
    let x := roundTo r m e 0
    let lim := if neg then 2 ^ (w - 1) else 2 ^ (w - 1) - 1
    if x > lim then (if neg then 2 ^ (w - 1) else lim, fOF)
    else (ofSigned w (if neg then -(x : Int) else x), 0)

/-- An integer as a value. -/
def valOfInt (i : Int) : Val := .fin (decide (i < 0)) i.natAbs 0

/-! ## Exact operations on values, with NV where a NaN comes from non-NaN operands -/

/-- Negation. -/
def vNeg : Val → Val
  | .nan => .nan
  | .inf n => .inf !n
  | .fin n m e => .fin (!n) m e

/-- The signed magnitude at a common exponent. -/
def scaled (neg : Bool) (m : Nat) (e e0 : Int) : Int :=
  let x : Int := m * 2 ^ (e - e0).toNat
  if neg then -x else x

/-- Exact sum; the sign of an exact zero follows IEEE 754 (R149). -/
def vAdd : Val → Val → Val × Flg
  | .nan, _ => (.nan, 0)
  | _, .nan => (.nan, 0)
  | .inf a, .inf b => if a = b then (.inf a, 0) else (.nan, fNV)
  | .inf a, _ => (.inf a, 0)
  | _, .inf b => (.inf b, 0)
  | .fin n1 m1 e1, .fin n2 m2 e2 =>
    let e0 := min e1 e2
    let s := scaled n1 m1 e1 e0 + scaled n2 m2 e2 e0
    if s = 0 then (.fin (n1 && n2) 0 e0, 0) else (.fin (decide (s < 0)) s.natAbs e0, 0)

/-- Exact product. -/
def vMul : Val → Val → Val × Flg
  | .nan, _ => (.nan, 0)
  | _, .nan => (.nan, 0)
  | .inf a, .inf b => (.inf (a != b), 0)
  | .inf a, .fin b m _ => if m = 0 then (.nan, fNV) else (.inf (a != b), 0)
  | .fin a m _, .inf b => if m = 0 then (.nan, fNV) else (.inf (a != b), 0)
  | .fin a m e, .fin b m' e' => (.fin (a != b) (m * m') (e + e'), 0)

/-- Exact a × b + c. -/
def vFma (a b c : Val) : Val × Flg :=
  let p := vMul a b
  let s := vAdd p.1 c
  match c with
  | .nan => (.nan, 0)
  | _ => (s.1, p.2 ||| s.2)

/-- Zero for comparisons. -/
def isZero : Val → Bool
  | .fin _ 0 _ => true
  | _ => false

/-- a < b on non-NaN values (±0 equal). -/
def vLt : Val → Val → Bool
  | .nan, _ => false
  | _, .nan => false
  | .inf a, .inf b => a && !b
  | .inf a, .fin _ _ _ => a
  | .fin _ _ _, .inf b => !b
  | .fin n1 m1 e1, .fin n2 m2 e2 =>
    let e0 := min e1 e2
    decide (scaled n1 m1 e1 e0 < scaled n2 m2 e2 e0)

/-- a = b on non-NaN values (±0 equal). -/
def vEq : Val → Val → Bool
  | .nan, _ => false
  | _, .nan => false
  | a, b => !vLt a b && !vLt b a

/-- The larger of two values, +0 above −0, NaN if either is NaN (R161). -/
def vMaxOf (a b : Val) : Val :=
  match a, b with
  | .nan, _ => .nan
  | _, .nan => .nan
  | .fin n 0 e, .fin n' 0 _ => .fin (n && n') 0 e
  | a, b => if vLt a b then b else a

/-- The smaller of two values (R161). -/
def vMinOf (a b : Val) : Val :=
  match a, b with
  | .nan, _ => .nan
  | _, .nan => .nan
  | .fin n 0 e, .fin n' 0 _ => .fin (n || n') 0 e
  | a, b => if vLt b a then b else a

/-! ## Quotients, roots, powers: a truncated magnitude with a sticky last bit rounds as the exact result does -/

/-- a / b with sticky bit; b non-zero, `k` result bits beyond the point. -/
def divSticky (m m' k : Nat) : Nat := 2 * (m * 2 ^ k / m') + b2n (m * 2 ^ k % m' != 0)

/-- Quotient (IEEE 754). -/
def vDiv : Val → Val → Val × Flg
  | .nan, _ => (.nan, 0)
  | _, .nan => (.nan, 0)
  | .inf _, .inf _ => (.nan, fNV)
  | .inf a, .fin b _ _ => (.inf (a != b), 0)
  | .fin a _ _, .inf b => (.fin (a != b) 0 0, 0)
  | .fin a m e, .fin b m' e' =>
    if m' = 0 then (if m = 0 then (.nan, fNV) else (.inf (a != b), 0))
    else
      let k := bitLen m' + 70
      (.fin (a != b) (divSticky m m' k) (e - e' - k - 1), 0)

/-- Bitwise integer square root: bits `i − 1 … 0` of the root decided from the top. -/
def isqrtFrom (n : Nat) : Nat → Nat → Nat
  | 0, acc => acc
  | i + 1, acc => let t := acc + 2 ^ i; isqrtFrom n i (if t * t ≤ n then t else acc)

/-- ⌊√n⌋. -/
def isqrt (n : Nat) : Nat := isqrtFrom n (bitLen n / 2 + 1) 0

/-- Square root (IEEE 754). -/
def vSqrt : Val → Val × Flg
  | .nan => (.nan, 0)
  | .inf n => if n then (.nan, fNV) else (.inf false, 0)
  | .fin n m e =>
    if m = 0 then (.fin n 0 e, 0)
    else if n then (.nan, fNV)
    else
      -- an even exponent, and 2 × 70 more bits
      let (m, e) := if e % 2 = 0 then (m, e) else (2 * m, e - 1)
      let x := m * 2 ^ 140
      let r := isqrt x
      (.fin false (2 * r + b2n (r * r != x)) (e / 2 - 71), 0)

/-- Reciprocal square root (IEEE 754 rSqrt). -/
def vRsqrt : Val → Val × Flg
  | .nan => (.nan, 0)
  | .inf n => if n then (.nan, fNV) else (.fin false 0 0, 0)
  | .fin n m e =>
    if m = 0 then (.inf n, 0)
    else if n then (.nan, fNV)
    else
      let (m, e) := if e % 2 = 0 then (m, e) else (2 * m, e - 1)
      -- 1/√m = √(2^{2k} / m) / 2^k; exact only for m a power of four, where the quotient is exact
      let k := bitLen m + 70
      let x := 2 ^ (2 * k) / m
      let r := isqrt x
      (.fin false (2 * r + b2n (r * r * m != 2 ^ (2 * k))) (-(e / 2) - k - 1), 0)

/-- Working bits of the two transcendental functions. -/
def expBits : Nat := 120

/-- 2^(1/2), 2^(1/4), … as fixed-point numbers with `expBits` fraction bits, multiplied where the bits of `f` say. -/
def exp2Prod (f : Nat) : Nat → Nat → Nat → Nat
  | 0, _, acc => acc
  | i + 1, root, acc =>
    let acc := if bitOf f i then acc * root / 2 ^ expBits else acc
    exp2Prod f i (isqrt (root * 2 ^ expBits)) acc

/-- 2^x (R110): exact for integers, else a truncated value with its sticky bit set, since 2^x is then irrational. -/
def vExp2 : Val → Val × Flg
  | .nan => (.nan, 0)
  | .inf n => if n then (.fin false 0 0, 0) else (.inf false, 0)
  | .fin n m e =>
    if m = 0 then (.fin false 1 0, 0)
    else if magGt m e 2000 0 then (.fin false 1 (if n then -2000 else 2000), 0)
    else if !magGt m e 1 (-40) then (.fin false (if n then 2 ^ 80 - 1 else 2 ^ 80 + 1) (-80), 0)
    else
      let j := (max 0 (-e)).toNat
      let x := scaled n m e (-(j : Int))
      let whole := x / 2 ^ j
      let f := (x % 2 ^ j).toNat
      if f = 0 then (.fin false 1 whole, 0)
      else
        let r := exp2Prod f j (isqrt (2 ^ (2 * expBits + 1))) (2 ^ expBits)
        (.fin false (2 * r + 1) (whole - expBits - 1), 0)

/-- Fraction bits of log₂ y for y in [1, 2) as a fixed-point number of 256 bits, `n` bits. -/
def log2Bits : Nat → Nat → Nat → Nat
  | 0, _, acc => acc
  | n + 1, y, acc =>
    let y2 := y * y / 2 ^ 256
    if y2 ≥ 2 ^ 257 then log2Bits n (y2 / 2) (2 * acc + 1) else log2Bits n y2 (2 * acc)

/-- log₂ x (R110): exact for powers of two. -/
def vLog2 : Val → Val × Flg
  | .nan => (.nan, 0)
  | .inf n => if n then (.nan, fNV) else (.inf false, 0)
  | .fin n m e =>
    if m = 0 then (.inf true, 0)
    else if n then (.nan, fNV)
    else
      let l := bitLen m - 1
      let ex : Int := e + l
      if m = 2 ^ l then (valOfInt ex, 0)
      else
        let frac := log2Bits expBits (m * 2 ^ 256 / 2 ^ l) 0
        -- the result lies strictly between t and t + 1 units of 2^-expBits
        let t : Int := ex * 2 ^ expBits + frac
        if t ≥ 0 then (.fin false (2 * t.natAbs + 1) (-(expBits : Int) - 1), 0)
        else (.fin true (2 * t.natAbs - 1) (-(expBits : Int) - 1), 0)

/-! ## FP32 conveniences -/

/-- Rounds an exact result with flags to FP32, nearest even (R110). -/
def toFp32 (x : Val × Flg) : Nat × Flg :=
  let r := encodeF fp32 .rne x.1
  (r.1, x.2 ||| r.2)

/-- FP32 addition of two encodings, nearest even. -/
def addFp32 (a b : Nat) : Nat × Flg := toFp32 (vAdd (decodeF fp32 a) (decodeF fp32 b))

end Sys2Proof.Machine
end

