-- ==== Sys2Proof/Config.lean ====
section
/-!
DEFINITION. What the manual leaves free. A free value is an opaque constant applied to a counter of State
(`State.fresh`), so that no proof can see what it is (log entry 3).
-/

namespace Sys2Proof

/-- The n-th free value: entropy (R184, R451, R449) and results the manual does not state. No body. -/
opaque Config.free : Nat → Word

/-- The result of an operation that the manual gives no result for, as a function of its operands (log entry 3): repeatable,
as R130 and R411 ask of unspecified values. No body. -/
opaque Config.unstated : Nat → List Nat → Word

end Sys2Proof
end

