-- ==== Sys2Proof/Machine/RegTable.lean ====
section
/-!
DEFINITION. The register map of BAR0 (R6, R12): every register of the spec's block maps with its offsets, copies, fields, field types and
reset values, transcribed from the register tables of the sections named in the comments.
-/

namespace Sys2Proof.Machine

/-- Field types (R12). -/
inductive FTy where
  | ro | rw | w1c | rc | wo
  deriving DecidableEq, Repr

/-- A field `[hi:lo]` of a register, with its reset value. -/
structure RField where
  hi : Nat
  lo : Nat
  ty : FTy
  reset : Nat
  deriving DecidableEq, Repr

/-- The registers by name. -/
inductive RegName where
  | timeGtc | timeGtcSet | timeStatus | timeAlignCfg | timeTickCfg | timeEvent | timeHtick | timeHstep | timeHlaunch
  | timeHtickStart | podStatus | podEcc | podTstatus | podTfault | pwrBudget | pwrCost | pwrEvent | pwrOverdrawInfo
  | pwrHshare | pwrPledger | pwrPpeak | podTmxflags | podTmxcount | podSyncSel | podSyncState | memaInfo | memaEvent
  | memaPcsel | memaPcstate | memaPcerr | memaMapoutLast | memaMapoutGtc | memaHwin | memaHdbg | memaStack | membInfo
  | membEvent | membChsel | membChstate | membCherr | membHwin | membHdbg | membPkg | nmuInfo | nmuEvent | nmuBgcfg
  | nmuUsel | nmuUslots | nmuUbg | nmuUscrub | nmuHgen | nmuHstale | ausInfo | ausEvent | ausSsel | ausSinfo
  | ausScostA | ausScostB | ausSsize | ausEstatus | ausEbanks | ausEcount | ausEbusy | jvEvent | jvPlan | jvDisable
  | jvCfg | jvPriv | jvBstatus | jvBerr | collInfo | collEvent | collCfg | collGsel | collGstate | collGcount
  | collGlast | collHshare | hullEvent | hullCfg | hullHstate | hullHsync | hullHslots | hullHgen | hullHreclaim
  | hullHreclaimGtc | intgEvent | intgLognext | intgLogstat | intgHusk | intgResidue | intgProbe | intgProbeGtc
  | intgPodbyp | intgBuserr | intgSlot | rstStatus | rstEvent | rstCfg | rstCtl | rstHang | rstHangGtc | rstHist
  | rstCapStatus | rstCapPage | rstCapWin | cmdInfo | cmdHevent | cmdRcfg | cmdRcbase | cmdRrbase | cmdRstat
  | cmdEcfg | cmdEaddrLo | cmdEaddrHi | cmdEstat | cmdCtail | cmdChead | cmdRtail | cmdRhead | icInfo | icClaim
  | icComplete | icCtl | icState | icPsrc | icSrc | dbgEvent | dbgCtx0 | dbgCtx0End | dbgHclass | dbgHend | secStatus
  | secCfg | secNonce | secEvent | secAttCtl | secAttNonce | secAttDst | secMeas | pwrDstate | pwrPstate
  | pwrPwakeGtc | devId | devStatus | devHostlink | devThermal | devSerial | devEvent
  deriving DecidableEq, Repr

/-- A register: the offset of its first copy, copies `(stride, number)` in up to two directions, and its fields. -/
structure RReg where
  name : RegName
  base : Nat
  stride : Nat
  count : Nat
  stride2 : Nat
  count2 : Nat
  fields : List RField
  deriving DecidableEq, Repr

/-- Block TIME (02_time_and_launch.md). -/
def regsTIME : List RReg := [
  ⟨.timeGtc, 0x010000, 0x0, 1, 0x0, 1, [⟨63, 0, .ro, 0⟩]⟩,
  ⟨.timeGtcSet, 0x010008, 0x0, 1, 0x0, 1, [⟨63, 0, .wo, 0⟩]⟩,
  ⟨.timeStatus, 0x010010, 0x0, 1, 0x0, 1, [⟨1, 0, .ro, 0⟩, ⟨47, 16, .ro, 0⟩]⟩,
  ⟨.timeAlignCfg, 0x010018, 0x0, 1, 0x0, 1, [⟨9, 0, .rw, 200⟩, ⟨31, 16, .rw, 100⟩]⟩,
  ⟨.timeTickCfg, 0x010020, 0x0, 1, 0x0, 1, [⟨13, 0, .rw, 1000⟩, ⟨29, 16, .rw, 250⟩]⟩,
  ⟨.timeEvent, 0x010028, 0x0, 1, 0x0, 1, [⟨0, 0, .w1c, 0⟩, ⟨1, 1, .w1c, 0⟩, ⟨2, 2, .w1c, 0⟩, ⟨3, 3, .w1c, 0⟩, ⟨4, 4, .w1c, 0⟩, ⟨5, 5, .w1c, 0⟩, ⟨6, 6, .w1c, 0⟩]⟩,
  ⟨.timeHtick, 0x010040, 0x20, 4, 0x0, 1, [⟨47, 0, .ro, 0⟩]⟩,
  ⟨.timeHstep, 0x010048, 0x20, 4, 0x0, 1, [⟨39, 0, .ro, 0⟩]⟩,
  ⟨.timeHlaunch, 0x010050, 0x20, 4, 0x0, 1, [⟨63, 0, .ro, 0⟩]⟩,
  ⟨.timeHtickStart, 0x010058, 0x20, 4, 0x0, 1, [⟨63, 0, .ro, 0⟩]⟩]

/-- Block POD (05_bundles_access_sync_scalar.md). -/
def regsPOD : List RReg := [
  ⟨.podStatus, 0x100000, 0x20000, 8, 0x0, 1, [⟨2, 0, .ro, 0⟩, ⟨10, 8, .ro, 0⟩, ⟨16, 16, .ro, 0⟩, ⟨23, 20, .ro, 0⟩, ⟨30, 24, .ro, 0⟩, ⟨31, 31, .ro, 0⟩]⟩,
  ⟨.podEcc, 0x100008, 0x20000, 8, 0x0, 1, [⟨31, 0, .rc, 0⟩, ⟨47, 32, .rc, 0⟩]⟩,
  ⟨.podTstatus, 0x100100, 0x20000, 8, 0x10, 16, [⟨12, 0, .ro, 0⟩, ⟨13, 13, .ro, 0⟩, ⟨14, 14, .ro, 0⟩, ⟨15, 15, .ro, 0⟩, ⟨16, 16, .ro, 1⟩, ⟨17, 17, .ro, 0⟩, ⟨27, 18, .ro, 0⟩]⟩,
  ⟨.podTfault, 0x100108, 0x20000, 8, 0x10, 16, [⟨0, 0, .w1c, 0⟩, ⟨1, 1, .w1c, 0⟩, ⟨2, 2, .w1c, 0⟩, ⟨3, 3, .w1c, 0⟩, ⟨4, 4, .w1c, 0⟩, ⟨5, 5, .w1c, 0⟩, ⟨6, 6, .w1c, 0⟩, ⟨7, 7, .w1c, 0⟩, ⟨8, 8, .w1c, 0⟩, ⟨15, 12, .ro, 0⟩, ⟨28, 16, .ro, 0⟩]⟩,
  ⟨.podTmxflags, 0x100200, 0x20000, 8, 0x10, 16, [⟨0, 0, .w1c, 0⟩, ⟨1, 1, .w1c, 0⟩, ⟨2, 2, .w1c, 0⟩, ⟨3, 3, .w1c, 0⟩, ⟨4, 4, .w1c, 0⟩, ⟨5, 5, .w1c, 0⟩, ⟨6, 6, .w1c, 0⟩]⟩,
  ⟨.podTmxcount, 0x100208, 0x20000, 8, 0x10, 16, [⟨31, 0, .ro, 0⟩, ⟨39, 32, .ro, 0⟩]⟩,
  ⟨.podSyncSel, 0x100400, 0x20000, 8, 0x0, 1, [⟨13, 0, .rw, 0⟩]⟩,
  ⟨.podSyncState, 0x100408, 0x20000, 8, 0x0, 1, [⟨1, 0, .ro, 0⟩, ⟨2, 2, .ro, 0⟩, ⟨3, 3, .ro, 0⟩, ⟨23, 8, .ro, 0⟩, ⟨31, 24, .ro, 0⟩, ⟨63, 32, .ro, 0⟩]⟩]

/-- Block PWR (19_security_debug_power.md). -/
def regsPWR : List RReg := [
  ⟨.pwrBudget, 0x030000, 0x0, 1, 0x0, 1, [⟨12, 0, .ro, 6400⟩, ⟨28, 16, .ro, 800⟩, ⟨44, 32, .ro, 5600⟩]⟩,
  ⟨.pwrCost, 0x030008, 0x0, 1, 0x0, 1, [⟨7, 0, .ro, 32⟩, ⟨15, 8, .ro, 12⟩, ⟨23, 16, .ro, 16⟩, ⟨31, 24, .ro, 48⟩, ⟨39, 32, .ro, 24⟩]⟩,
  ⟨.pwrEvent, 0x030010, 0x0, 1, 0x0, 1, [⟨7, 0, .w1c, 0⟩, ⟨8, 8, .w1c, 0⟩]⟩,
  ⟨.pwrOverdrawInfo, 0x030018, 0x0, 1, 0x0, 1, [⟨2, 0, .ro, 0⟩, ⟨7, 4, .ro, 0⟩, ⟨63, 32, .ro, 0⟩]⟩,
  ⟨.pwrHshare, 0x030040, 0x10, 4, 0x0, 1, [⟨12, 0, .rw, 0⟩, ⟨28, 16, .ro, 0⟩]⟩,
  ⟨.pwrPledger, 0x030100, 0x20, 8, 0x0, 1, [⟨12, 0, .ro, 0⟩, ⟨42, 16, .ro, 0⟩]⟩,
  ⟨.pwrPpeak, 0x030108, 0x20, 8, 0x0, 1, [⟨26, 0, .rc, 0⟩]⟩,
  ⟨.pwrDstate, 0x030800, 0x0, 1, 0x0, 1, [⟨0, 0, .ro, 0⟩, ⟨5, 4, .ro, 0⟩, ⟨15, 8, .ro, 0⟩, ⟨47, 16, .ro, 0⟩]⟩,
  ⟨.pwrPstate, 0x030900, 0x10, 8, 0x0, 1, [⟨2, 0, .ro, 0⟩, ⟨3, 3, .ro, 0⟩, ⟨4, 4, .ro, 0⟩, ⟨10, 8, .ro, 0⟩, ⟨11, 11, .w1c, 0⟩]⟩,
  ⟨.pwrPwakeGtc, 0x030908, 0x10, 8, 0x0, 1, [⟨63, 0, .ro, 0⟩]⟩]

/-- Block MEMA (08_memory_tiers.md). -/
def regsMEMA : List RReg := [
  ⟨.memaInfo, 0x060000, 0x0, 1, 0x0, 1, [⟨9, 0, .ro, 512⟩, ⟨25, 16, .ro, 0⟩, ⟨41, 32, .ro, 0⟩]⟩,
  ⟨.memaEvent, 0x060008, 0x0, 1, 0x0, 1, [⟨0, 0, .w1c, 0⟩, ⟨1, 1, .w1c, 0⟩, ⟨2, 2, .w1c, 0⟩, ⟨3, 3, .w1c, 0⟩, ⟨4, 4, .w1c, 0⟩, ⟨5, 5, .w1c, 0⟩]⟩,
  ⟨.memaPcsel, 0x060010, 0x0, 1, 0x0, 1, [⟨8, 0, .rw, 0⟩]⟩,
  ⟨.memaPcstate, 0x060018, 0x0, 1, 0x0, 1, [⟨1, 0, .ro, 0⟩, ⟨2, 2, .ro, 0⟩, ⟨6, 4, .ro, 0⟩, ⟨10, 8, .ro, 0⟩, ⟨24, 16, .ro, 0⟩, ⟨35, 32, .ro, 0⟩, ⟨39, 36, .ro, 0⟩, ⟨47, 40, .ro, 0⟩]⟩,
  ⟨.memaPcerr, 0x060020, 0x0, 1, 0x0, 1, [⟨31, 0, .rc, 0⟩, ⟨47, 32, .rc, 0⟩, ⟨55, 48, .rc, 0⟩]⟩,
  ⟨.memaMapoutLast, 0x060028, 0x0, 1, 0x0, 1, [⟨8, 0, .ro, 0⟩, ⟨23, 16, .ro, 0⟩, ⟨32, 32, .ro, 0⟩, ⟨41, 33, .ro, 0⟩]⟩,
  ⟨.memaMapoutGtc, 0x060030, 0x0, 1, 0x0, 1, [⟨63, 0, .ro, 0⟩]⟩,
  ⟨.memaHwin, 0x060040, 0x20, 4, 0x0, 1, [⟨27, 0, .ro, 0⟩, ⟨35, 32, .ro, 0⟩, ⟨49, 40, .ro, 0⟩]⟩,
  ⟨.memaHdbg, 0x060048, 0x20, 4, 0x0, 1, [⟨0, 0, .w1c, 0⟩, ⟨31, 16, .ro, 0⟩, ⟨59, 32, .ro, 0⟩]⟩,
  ⟨.memaStack, 0x060100, 0x8, 8, 0x0, 1, [⟨0, 0, .ro, 0⟩, ⟨1, 1, .ro, 0⟩, ⟨10, 4, .ro, 0⟩, ⟨23, 16, .ro, 0⟩, ⟨39, 32, .ro, 0⟩]⟩]

/-- Block MEMB (08_memory_tiers.md). -/
def regsMEMB : List RReg := [
  ⟨.membInfo, 0x070000, 0x0, 1, 0x0, 1, [⟨6, 0, .ro, 64⟩, ⟨22, 16, .ro, 0⟩, ⟨38, 32, .ro, 0⟩, ⟨45, 40, .ro, 0⟩]⟩,
  ⟨.membEvent, 0x070008, 0x0, 1, 0x0, 1, [⟨0, 0, .w1c, 0⟩, ⟨1, 1, .w1c, 0⟩, ⟨2, 2, .w1c, 0⟩, ⟨3, 3, .w1c, 0⟩, ⟨4, 4, .w1c, 0⟩]⟩,
  ⟨.membChsel, 0x070010, 0x0, 1, 0x0, 1, [⟨5, 0, .rw, 0⟩]⟩,
  ⟨.membChstate, 0x070018, 0x0, 1, 0x0, 1, [⟨2, 0, .ro, 0⟩, ⟨3, 3, .ro, 0⟩, ⟨6, 4, .ro, 0⟩, ⟨9, 8, .ro, 0⟩, ⟨21, 16, .ro, 0⟩, ⟨47, 40, .ro, 0⟩]⟩,
  ⟨.membCherr, 0x070020, 0x0, 1, 0x0, 1, [⟨31, 0, .rc, 0⟩, ⟨47, 32, .rc, 0⟩, ⟨55, 48, .rc, 0⟩]⟩,
  ⟨.membHwin, 0x070040, 0x20, 4, 0x0, 1, [⟨28, 0, .ro, 0⟩, ⟨34, 32, .ro, 0⟩, ⟨45, 40, .ro, 0⟩, ⟨54, 48, .ro, 0⟩]⟩,
  ⟨.membHdbg, 0x070048, 0x20, 4, 0x0, 1, [⟨0, 0, .w1c, 0⟩, ⟨31, 16, .ro, 0⟩, ⟨60, 32, .ro, 0⟩]⟩,
  ⟨.membPkg, 0x070100, 0x8, 16, 0x0, 1, [⟨0, 0, .ro, 0⟩, ⟨1, 1, .ro, 0⟩, ⟨6, 4, .ro, 0⟩, ⟨23, 16, .ro, 0⟩]⟩]

/-- Block NMU (09_near_memory_units.md). -/
def regsNMU : List RReg := [
  ⟨.nmuInfo, 0x080000, 0x0, 1, 0x0, 1, [⟨3, 0, .ro, 12⟩, ⟨31, 16, .ro, 64⟩]⟩,
  ⟨.nmuEvent, 0x080008, 0x0, 1, 0x0, 1, [⟨0, 0, .w1c, 0⟩, ⟨1, 1, .w1c, 0⟩, ⟨2, 2, .w1c, 0⟩, ⟨3, 3, .w1c, 0⟩]⟩,
  ⟨.nmuBgcfg, 0x080010, 0x0, 1, 0x0, 1, [⟨7, 0, .rw, 24⟩, ⟨33, 16, .rw, 65536⟩]⟩,
  ⟨.nmuUsel, 0x080018, 0x0, 1, 0x0, 1, [⟨3, 0, .rw, 0⟩, ⟨10, 8, .rw, 0⟩]⟩,
  ⟨.nmuUslots, 0x080020, 0x0, 1, 0x0, 1, [⟨47, 0, .ro, 0⟩]⟩,
  ⟨.nmuUbg, 0x080028, 0x0, 1, 0x0, 1, [⟨1, 0, .ro, 0⟩, ⟨23, 4, .ro, 0⟩, ⟨43, 24, .ro, 0⟩, ⟨63, 44, .ro, 0⟩]⟩,
  ⟨.nmuUscrub, 0x080030, 0x0, 1, 0x0, 1, [⟨31, 0, .ro, 0⟩, ⟨63, 32, .rc, 0⟩]⟩,
  ⟨.nmuHgen, 0x080040, 0x20, 4, 0x0, 1, [⟨31, 0, .ro, 0⟩, ⟨39, 32, .ro, 0⟩]⟩,
  ⟨.nmuHstale, 0x080048, 0x20, 4, 0x0, 1, [⟨31, 0, .rc, 0⟩, ⟨63, 32, .rc, 0⟩]⟩]

/-- Block AUS (10_ausolin_solver.md). -/
def regsAUS : List RReg := [
  ⟨.ausInfo, 0x090000, 0x0, 1, 0x0, 1, [⟨4, 0, .ro, 16⟩, ⟨15, 8, .ro, 22⟩, ⟨23, 16, .ro, 6⟩, ⟨39, 24, .ro, 2048⟩]⟩,
  ⟨.ausEvent, 0x090008, 0x0, 1, 0x0, 1, [⟨0, 0, .w1c, 0⟩, ⟨1, 1, .w1c, 0⟩, ⟨2, 2, .w1c, 0⟩, ⟨31, 16, .w1c, 0⟩]⟩,
  ⟨.ausSsel, 0x090010, 0x0, 1, 0x0, 1, [⟨3, 0, .rw, 0⟩, ⟨13, 8, .rw, 0⟩]⟩,
  ⟨.ausSinfo, 0x090018, 0x0, 1, 0x0, 1, [⟨0, 0, .ro, 0⟩, ⟨2, 1, .ro, 0⟩, ⟨3, 3, .ro, 0⟩, ⟨31, 16, .ro, 0⟩, ⟨47, 32, .ro, 0⟩, ⟨57, 48, .ro, 0⟩]⟩,
  ⟨.ausScostA, 0x090020, 0x0, 1, 0x0, 1, [⟨31, 0, .ro, 0⟩, ⟨63, 32, .ro, 0⟩]⟩,
  ⟨.ausScostB, 0x090028, 0x0, 1, 0x0, 1, [⟨31, 0, .ro, 0⟩, ⟨63, 32, .ro, 0⟩]⟩,
  ⟨.ausSsize, 0x090030, 0x0, 1, 0x0, 1, [⟨31, 0, .ro, 0⟩, ⟨63, 32, .ro, 0⟩]⟩,
  ⟨.ausEstatus, 0x090100, 0x20, 16, 0x0, 1, [⟨1, 0, .ro, 0⟩, ⟨2, 2, .ro, 0⟩, ⟨6, 4, .ro, 0⟩, ⟨10, 8, .ro, 0⟩, ⟨21, 16, .ro, 0⟩, ⟨27, 24, .ro, 0⟩, ⟨43, 32, .ro, 0⟩]⟩,
  ⟨.ausEbanks, 0x090108, 0x20, 16, 0x0, 1, [⟨3, 0, .ro, 0⟩, ⟨8, 4, .ro, 0⟩]⟩,
  ⟨.ausEcount, 0x090110, 0x20, 16, 0x0, 1, [⟨15, 0, .rc, 0⟩, ⟨31, 16, .rc, 0⟩, ⟨47, 32, .rc, 0⟩, ⟨55, 48, .rc, 0⟩]⟩,
  ⟨.ausEbusy, 0x090118, 0x20, 16, 0x0, 1, [⟨47, 0, .rc, 0⟩]⟩]

/-- Block JV (12_jalvik_links.md). -/
def regsJV : List RReg := [
  ⟨.jvEvent, 0x0A0008, 0x0, 1, 0x0, 1, [⟨0, 0, .w1c, 0⟩, ⟨1, 1, .w1c, 0⟩, ⟨2, 2, .w1c, 0⟩, ⟨3, 3, .w1c, 0⟩, ⟨4, 4, .w1c, 0⟩, ⟨5, 5, .w1c, 0⟩, ⟨6, 6, .w1c, 0⟩]⟩,
  ⟨.jvPlan, 0x0A0010, 0x0, 1, 0x0, 1, [⟨0, 0, .ro, 0⟩, ⟨31, 8, .ro, 0⟩, ⟨63, 32, .ro, 0⟩]⟩,
  ⟨.jvDisable, 0x0A0018, 0x0, 1, 0x0, 1, [⟨35, 0, .rw, 0⟩]⟩,
  ⟨.jvCfg, 0x0A0020, 0x0, 1, 0x0, 1, [⟨7, 0, .rw, 16⟩, ⟨39, 16, .rw, 100000⟩]⟩,
  ⟨.jvPriv, 0x0A0028, 0x0, 1, 0x0, 1, [⟨31, 0, .rc, 0⟩, ⟨47, 32, .rc, 0⟩]⟩,
  ⟨.jvBstatus, 0x0A0100, 0x10, 36, 0x0, 1, [⟨2, 0, .ro, 0⟩, ⟨6, 4, .ro, 0⟩, ⟨11, 8, .ro, 0⟩, ⟨21, 16, .ro, 0⟩, ⟨26, 24, .ro, 0⟩, ⟨55, 32, .ro, 0⟩]⟩,
  ⟨.jvBerr, 0x0A0108, 0x10, 36, 0x0, 1, [⟨31, 0, .rc, 0⟩, ⟨47, 32, .rc, 0⟩, ⟨55, 48, .rc, 0⟩, ⟨63, 56, .rc, 0⟩]⟩]

/-- Block COLL (13_collectives.md). -/
def regsCOLL : List RReg := [
  ⟨.collInfo, 0x0B0000, 0x0, 1, 0x0, 1, [⟨12, 0, .ro, 4096⟩, ⟨48, 32, .ro, 65536⟩]⟩,
  ⟨.collEvent, 0x0B0008, 0x0, 1, 0x0, 1, [⟨0, 0, .w1c, 0⟩, ⟨1, 1, .w1c, 0⟩, ⟨2, 2, .w1c, 0⟩, ⟨3, 3, .w1c, 0⟩, ⟨4, 4, .w1c, 0⟩, ⟨5, 5, .w1c, 0⟩]⟩,
  ⟨.collCfg, 0x0B0010, 0x0, 1, 0x0, 1, [⟨9, 0, .rw, 250⟩, ⟨27, 16, .rw, 3000⟩]⟩,
  ⟨.collGsel, 0x0B0018, 0x0, 1, 0x0, 1, [⟨11, 0, .rw, 0⟩]⟩,
  ⟨.collGstate, 0x0B0020, 0x0, 1, 0x0, 1, [⟨1, 0, .ro, 0⟩, ⟨6, 4, .ro, 0⟩, ⟨7, 7, .ro, 0⟩, ⟨9, 8, .ro, 0⟩, ⟨10, 10, .ro, 0⟩, ⟨31, 16, .ro, 0⟩, ⟨47, 32, .ro, 0⟩, ⟨55, 48, .ro, 0⟩, ⟨63, 56, .ro, 0⟩]⟩,
  ⟨.collGcount, 0x0B0028, 0x0, 1, 0x0, 1, [⟨31, 0, .rc, 0⟩, ⟨47, 32, .rc, 0⟩, ⟨63, 48, .rc, 0⟩]⟩,
  ⟨.collGlast, 0x0B0030, 0x0, 1, 0x0, 1, [⟨15, 0, .ro, 0⟩, ⟨31, 16, .ro, 0⟩, ⟨63, 32, .ro, 0⟩]⟩,
  ⟨.collHshare, 0x0B0040, 0x10, 4, 0x0, 1, [⟨6, 0, .ro, 0⟩, ⟨28, 16, .ro, 0⟩]⟩]

/-- Block HULL (14_hulls_and_lending.md). -/
def regsHULL : List RReg := [
  ⟨.hullEvent, 0x020008, 0x0, 1, 0x0, 1, [⟨0, 0, .w1c, 0⟩, ⟨1, 1, .w1c, 0⟩, ⟨2, 2, .w1c, 0⟩, ⟨3, 3, .w1c, 0⟩, ⟨4, 4, .w1c, 0⟩, ⟨5, 5, .w1c, 0⟩]⟩,
  ⟨.hullCfg, 0x020010, 0x0, 1, 0x0, 1, [⟨14, 0, .rw, 2000⟩, ⟨20, 16, .rw, 20⟩]⟩,
  ⟨.hullHstate, 0x020040, 0x40, 4, 0x0, 1, [⟨2, 0, .ro, 0⟩, ⟨15, 8, .ro, 0⟩, ⟨31, 16, .ro, 0⟩, ⟨47, 32, .ro, 0⟩]⟩,
  ⟨.hullHsync, 0x020048, 0x40, 4, 0x0, 1, [⟨13, 0, .ro, 0⟩, ⟨30, 16, .ro, 0⟩]⟩,
  ⟨.hullHslots, 0x020050, 0x40, 4, 0x0, 1, [⟨14, 0, .ro, 0⟩, ⟨30, 16, .ro, 0⟩, ⟨46, 32, .ro, 0⟩]⟩,
  ⟨.hullHgen, 0x020058, 0x40, 4, 0x0, 1, [⟨31, 0, .ro, 0⟩, ⟨47, 32, .ro, 0⟩, ⟨50, 48, .ro, 0⟩]⟩,
  ⟨.hullHreclaim, 0x020060, 0x40, 4, 0x0, 1, [⟨3, 0, .ro, 0⟩, ⟨6, 4, .ro, 0⟩, ⟨7, 7, .ro, 0⟩, ⟨8, 8, .ro, 0⟩, ⟨9, 9, .ro, 0⟩, ⟨15, 10, .ro, 0⟩]⟩,
  ⟨.hullHreclaimGtc, 0x020068, 0x40, 4, 0x0, 1, [⟨63, 0, .ro, 0⟩]⟩]

/-- Block INTG (16_integrity.md). -/
def regsINTG : List RReg := [
  ⟨.intgEvent, 0x0C0008, 0x0, 1, 0x0, 1, [⟨0, 0, .w1c, 0⟩, ⟨1, 1, .w1c, 0⟩, ⟨2, 2, .w1c, 0⟩, ⟨3, 3, .w1c, 0⟩, ⟨4, 4, .w1c, 0⟩, ⟨5, 5, .w1c, 0⟩, ⟨6, 6, .w1c, 0⟩, ⟨7, 7, .w1c, 0⟩]⟩,
  ⟨.intgLognext, 0x0C0010, 0x0, 1, 0x0, 1, [⟨63, 0, .ro, 0⟩]⟩,
  ⟨.intgLogstat, 0x0C0018, 0x0, 1, 0x0, 1, [⟨12, 0, .ro, 0⟩, ⟨28, 16, .ro, 0⟩, ⟨63, 32, .rc, 0⟩]⟩,
  ⟨.intgHusk, 0x0C0020, 0x0, 1, 0x0, 1, [⟨31, 0, .rc, 0⟩, ⟨63, 32, .rc, 0⟩]⟩,
  ⟨.intgResidue, 0x0C0028, 0x0, 1, 0x0, 1, [⟨31, 0, .rc, 0⟩, ⟨47, 32, .rc, 0⟩, ⟨63, 48, .rc, 0⟩]⟩,
  ⟨.intgProbe, 0x0C0030, 0x0, 1, 0x0, 1, [⟨2, 0, .ro, 0⟩, ⟨3, 3, .ro, 0⟩, ⟨7, 4, .ro, 0⟩, ⟨10, 8, .ro, 0⟩, ⟨63, 32, .ro, 0⟩]⟩,
  ⟨.intgProbeGtc, 0x0C0038, 0x0, 1, 0x0, 1, [⟨63, 0, .ro, 0⟩]⟩,
  ⟨.intgPodbyp, 0x0C0040, 0x0, 1, 0x0, 1, [⟨7, 0, .ro, 0⟩]⟩,
  ⟨.intgBuserr, 0x0C0048, 0x0, 1, 0x0, 1, [⟨47, 0, .ro, 0⟩, ⟨48, 48, .ro, 0⟩, ⟨49, 49, .ro, 0⟩]⟩,
  ⟨.intgSlot, 0x0C0100, 0x8, 8, 0x0, 1, [⟨0, 0, .ro, 0⟩, ⟨1, 1, .ro, 0⟩, ⟨31, 16, .ro, 0⟩, ⟨63, 32, .ro, 0⟩]⟩]

/-- Block RST (17_hang_reset_recovery.md). -/
def regsRST : List RReg := [
  ⟨.rstStatus, 0x0D0000, 0x0, 1, 0x0, 1, [⟨2, 0, .ro, 1⟩, ⟨7, 4, .ro, 0⟩, ⟨9, 8, .ro, 0⟩]⟩,
  ⟨.rstEvent, 0x0D0008, 0x0, 1, 0x0, 1, [⟨0, 0, .w1c, 0⟩, ⟨1, 1, .w1c, 0⟩, ⟨2, 2, .w1c, 0⟩, ⟨3, 3, .w1c, 0⟩]⟩,
  ⟨.rstCfg, 0x0D0010, 0x0, 1, 0x0, 1, [⟨15, 0, .rw, 200⟩, ⟨31, 16, .rw, 1200⟩, ⟨39, 32, .rw, 16⟩]⟩,
  ⟨.rstCtl, 0x0D0018, 0x0, 1, 0x0, 1, [⟨0, 0, .wo, 0⟩, ⟨1, 1, .wo, 0⟩, ⟨2, 2, .wo, 0⟩, ⟨3, 3, .wo, 0⟩]⟩,
  ⟨.rstHang, 0x0D0020, 0x0, 1, 0x0, 1, [⟨3, 0, .ro, 0⟩, ⟨6, 4, .ro, 0⟩, ⟨10, 8, .ro, 0⟩, ⟨14, 12, .ro, 0⟩, ⟨19, 16, .ro, 0⟩, ⟨23, 20, .ro, 0⟩, ⟨37, 24, .ro, 0⟩, ⟨52, 40, .ro, 0⟩, ⟨53, 53, .ro, 0⟩, ⟨63, 63, .ro, 0⟩]⟩,
  ⟨.rstHangGtc, 0x0D0028, 0x0, 1, 0x0, 1, [⟨63, 0, .ro, 0⟩]⟩,
  ⟨.rstHist, 0x0D0030, 0x8, 3, 0x0, 1, [⟨63, 0, .ro, 0⟩]⟩,
  ⟨.rstCapStatus, 0x0D0048, 0x0, 1, 0x0, 1, [⟨0, 0, .ro, 0⟩, ⟨15, 8, .ro, 0⟩, ⟨63, 16, .ro, 0⟩]⟩,
  ⟨.rstCapPage, 0x0D0050, 0x0, 1, 0x0, 1, [⟨9, 0, .rw, 0⟩]⟩,
  ⟨.rstCapWin, 0x0D1000, 0x8, 512, 0x0, 1, [⟨63, 0, .ro, 0⟩]⟩]

/-- Block CMD (18_commands_and_interrupts.md). -/
def regsCMD : List RReg := [
  ⟨.cmdInfo, 0x050000, 0x0, 1, 0x0, 1, [⟨3, 0, .ro, 8⟩, ⟨8, 4, .ro, 16⟩, ⟨26, 16, .ro, 1024⟩]⟩,
  ⟨.cmdHevent, 0x050008, 0x0, 1, 0x0, 1, [⟨7, 0, .w1c, 0⟩, ⟨8, 8, .w1c, 0⟩, ⟨9, 9, .w1c, 0⟩, ⟨10, 10, .w1c, 0⟩]⟩,
  ⟨.cmdRcfg, 0x050100, 0x20, 8, 0x0, 1, [⟨0, 0, .rw, 0⟩, ⟨1, 1, .rw, 0⟩, ⟨5, 2, .rw, 4⟩, ⟨9, 6, .rw, 4⟩, ⟨12, 10, .rw, 0⟩, ⟨31, 16, .rw, 0⟩, ⟨33, 32, .ro, 0⟩]⟩,
  ⟨.cmdRcbase, 0x050108, 0x20, 8, 0x0, 1, [⟨63, 12, .rw, 0⟩]⟩,
  ⟨.cmdRrbase, 0x050110, 0x20, 8, 0x0, 1, [⟨63, 12, .rw, 0⟩]⟩,
  ⟨.cmdRstat, 0x050118, 0x20, 8, 0x0, 1, [⟨6, 0, .ro, 0⟩, ⟨63, 32, .rc, 0⟩]⟩,
  ⟨.cmdEcfg, 0x050400, 0x40, 16, 0x0, 1, [⟨0, 0, .rw, 0⟩, ⟨1, 1, .rw, 0⟩, ⟨15, 8, .rw, 128⟩, ⟨31, 16, .rw, 0⟩, ⟨47, 32, .rw, 0⟩, ⟨50, 48, .rw, 0⟩]⟩,
  ⟨.cmdEaddrLo, 0x050408, 0x40, 16, 0x0, 1, [⟨63, 0, .rw, 0⟩]⟩,
  ⟨.cmdEaddrHi, 0x050410, 0x40, 16, 0x0, 1, [⟨63, 0, .rw, 0⟩]⟩,
  ⟨.cmdEstat, 0x050418, 0x40, 16, 0x0, 1, [⟨31, 0, .rc, 0⟩, ⟨47, 32, .rc, 0⟩, ⟨63, 48, .rc, 0⟩]⟩,
  ⟨.cmdCtail, 0x051000, 0x1000, 8, 0x0, 1, [⟨31, 0, .rw, 0⟩]⟩,
  ⟨.cmdChead, 0x051008, 0x1000, 8, 0x0, 1, [⟨31, 0, .ro, 0⟩]⟩,
  ⟨.cmdRtail, 0x051010, 0x1000, 8, 0x0, 1, [⟨31, 0, .ro, 0⟩]⟩,
  ⟨.cmdRhead, 0x051018, 0x1000, 8, 0x0, 1, [⟨31, 0, .rw, 0⟩]⟩]

/-- Block IC (18_commands_and_interrupts.md). -/
def regsIC : List RReg := [
  ⟨.icInfo, 0x040000, 0x0, 1, 0x0, 1, [⟨3, 0, .ro, 8⟩, ⟨21, 16, .ro, 63⟩, ⟨41, 32, .ro, 1022⟩]⟩,
  ⟨.icClaim, 0x040100, 0x40, 8, 0x0, 1, [⟨9, 0, .rc, 0⟩, ⟨23, 16, .rc, 0⟩]⟩,
  ⟨.icComplete, 0x040108, 0x40, 8, 0x0, 1, [⟨9, 0, .wo, 0⟩]⟩,
  ⟨.icCtl, 0x040110, 0x40, 8, 0x0, 1, [⟨2, 0, .rw, 0⟩, ⟨13, 4, .rw, 0⟩, ⟨23, 16, .rw, 0⟩]⟩,
  ⟨.icState, 0x040118, 0x40, 8, 0x0, 1, [⟨0, 0, .ro, 0⟩, ⟨1, 1, .ro, 0⟩, ⟨2, 2, .ro, 0⟩, ⟨3, 3, .w1c, 0⟩, ⟨15, 8, .ro, 0⟩]⟩,
  ⟨.icPsrc, 0x041008, 0x200, 8, 0x8, 63, [⟨2, 0, .rw, 0⟩, ⟨3, 3, .rw, 0⟩, ⟨4, 4, .rw, 0⟩, ⟨6, 6, .ro, 0⟩, ⟨7, 7, .ro, 0⟩, ⟨23, 16, .ro, 0⟩, ⟨32, 32, .wo, 0⟩, ⟨33, 33, .wo, 0⟩]⟩,
  ⟨.icSrc, 0x042200, 0x8, 959, 0x0, 1, [⟨2, 0, .rw, 0⟩, ⟨3, 3, .rw, 0⟩, ⟨4, 4, .rw, 0⟩, ⟨6, 6, .ro, 0⟩, ⟨7, 7, .ro, 0⟩, ⟨10, 8, .rw, 0⟩, ⟨23, 16, .ro, 0⟩, ⟨32, 32, .wo, 0⟩, ⟨33, 33, .wo, 0⟩]⟩]

/-- Block DBG (19_security_debug_power.md). -/
def regsDBG : List RReg := [
  ⟨.dbgEvent, 0x0E0008, 0x0, 1, 0x0, 1, [⟨0, 0, .w1c, 0⟩, ⟨1, 1, .w1c, 0⟩, ⟨2, 2, .w1c, 0⟩, ⟨3, 3, .w1c, 0⟩]⟩,
  ⟨.dbgCtx0, 0x0E0010, 0x0, 1, 0x0, 1, [⟨1, 0, .ro, 0⟩, ⟨15, 8, .ro, 0⟩]⟩,
  ⟨.dbgCtx0End, 0x0E0018, 0x0, 1, 0x0, 1, [⟨63, 0, .ro, 0⟩]⟩,
  ⟨.dbgHclass, 0x0E0040, 0x10, 4, 0x0, 1, [⟨1, 0, .ro, 0⟩, ⟨2, 2, .ro, 0⟩, ⟨3, 3, .ro, 0⟩, ⟨4, 4, .ro, 0⟩]⟩,
  ⟨.dbgHend, 0x0E0048, 0x10, 4, 0x0, 1, [⟨63, 0, .ro, 0⟩]⟩]

/-- Block SEC (19_security_debug_power.md). -/
def regsSEC : List RReg := [
  ⟨.secStatus, 0x0F0000, 0x0, 1, 0x0, 1, [⟨1, 0, .ro, 0⟩, ⟨2, 2, .ro, 0⟩, ⟨63, 32, .ro, 0⟩]⟩,
  ⟨.secCfg, 0x0F0008, 0x0, 1, 0x0, 1, [⟨0, 0, .rw, 0⟩]⟩,
  ⟨.secNonce, 0x0F0010, 0x0, 1, 0x0, 1, [⟨63, 0, .ro, 0⟩]⟩,
  ⟨.secEvent, 0x0F0018, 0x0, 1, 0x0, 1, [⟨0, 0, .w1c, 0⟩, ⟨1, 1, .w1c, 0⟩, ⟨2, 2, .w1c, 0⟩]⟩,
  ⟨.secAttCtl, 0x0F0020, 0x0, 1, 0x0, 1, [⟨2, 0, .wo, 0⟩, ⟨3, 3, .wo, 0⟩]⟩,
  ⟨.secAttNonce, 0x0F0028, 0x8, 4, 0x0, 1, [⟨63, 0, .rw, 0⟩]⟩,
  ⟨.secAttDst, 0x0F0048, 0x0, 1, 0x0, 1, [⟨63, 12, .rw, 0⟩]⟩,
  ⟨.secMeas, 0x0F0100, 0x40, 5, 0x8, 6, [⟨63, 0, .ro, 0⟩]⟩]

/-- Block DEV (20_module_electrical_startup.md). -/
def regsDEV : List RReg := [
  ⟨.devId, 0x000000, 0x0, 1, 0x0, 1, [⟨15, 0, .ro, 30496⟩, ⟨23, 16, .ro, 161⟩, ⟨27, 24, .ro, 8⟩]⟩,
  ⟨.devStatus, 0x000008, 0x0, 1, 0x0, 1, [⟨2, 0, .ro, 1⟩, ⟨7, 4, .ro, 1⟩, ⟨11, 8, .ro, 0⟩, ⟨16, 16, .ro, 0⟩]⟩,
  ⟨.devHostlink, 0x000010, 0x0, 1, 0x0, 1, [⟨3, 0, .ro, 0⟩, ⟨8, 4, .ro, 0⟩]⟩,
  ⟨.devThermal, 0x000018, 0x0, 1, 0x0, 1, [⟨7, 0, .ro, 0⟩, ⟨15, 8, .ro, 0⟩, ⟨31, 16, .ro, 0⟩, ⟨47, 32, .ro, 0⟩]⟩,
  ⟨.devSerial, 0x000020, 0x8, 2, 0x0, 1, [⟨63, 0, .ro, 0⟩]⟩,
  ⟨.devEvent, 0x000030, 0x0, 1, 0x0, 1, [⟨0, 0, .w1c, 0⟩, ⟨1, 1, .w1c, 0⟩, ⟨2, 2, .w1c, 0⟩]⟩]

/-- The register map. -/
def regMap : List RReg :=
  regsTIME ++ regsPOD ++ regsPWR ++ regsMEMA ++ regsMEMB ++ regsNMU ++ regsAUS ++ regsJV ++ regsCOLL ++ regsHULL ++ regsINTG ++ regsRST ++ regsCMD ++ regsIC ++ regsDBG ++ regsSEC ++ regsDEV

/-- Does a register have a copy at an offset? -/
def RReg.at (r : RReg) (off : Nat) : Bool :=
  let d := off - r.base
  let i := if r.stride = 0 then 0 else d / r.stride
  let d2 := d - i * r.stride
  let j := if r.stride2 = 0 then 0 else d2 / r.stride2
  decide (r.base ≤ off ∧ i < r.count ∧ j < r.count2 ∧ r.base + i * r.stride + j * r.stride2 = off)

/-- The register at an offset. -/
def regAt (off : Nat) : Option RReg := regMap.find? (fun r => r.at off)

/-- Indices (first, second) of the copy at an offset. -/
def RReg.ix (r : RReg) (off : Nat) : Nat × Nat :=
  let d := off - r.base
  let i := if r.stride = 0 then 0 else d / r.stride
  (i, if r.stride2 = 0 then 0 else (d - i * r.stride) / r.stride2)

/-- The reset value of a register word (R14). -/
def RReg.resetWord (r : RReg) : Nat := r.fields.foldl (fun acc f => acc + f.reset * 2 ^ f.lo) 0

/-- The mask of a field. -/
def RField.mask (f : RField) : Nat := (2 ^ (f.hi + 1 - f.lo) - 1) * 2 ^ f.lo

/-- The mask of a register's fields of one type. -/
def RReg.maskOf (r : RReg) (ty : FTy) : Nat :=
  r.fields.foldl (fun acc f => if f.ty = ty then acc + f.mask else acc) 0

/-- Reset word at an offset, zero where no register lies (R8). -/
def resetAt (off : Nat) : Word :=
  match regAt off with
  | some r => BitVec.ofNat 64 r.resetWord
  | none => 0

end Sys2Proof.Machine
end

