-- ==== Sys2Proof/Machine/State.lean ====
section
/-!
DEFINITION. The state of the block as plain data, and its reset. A field's docstring gives its width, the rule that names it
and its reset value ("=" before the value); `Tbl` fields are empty at reset and read as the stated default where unlisted.
-/

namespace Sys2Proof.Machine

/-- Faults of a step. Raised by no command of this model: every rule gives its command a next state. It is here because
`Host.Core` asks for the type; safe. -/
inductive Fault where
  /-- raised by nothing -/
  | unused
  deriving DecidableEq, Repr

/-- Refusals of a step. -/
inductive Refusal where
  /-- Raised by exec's arm of a command that has no meaning yet; safe. -/
  | notModelled (mnemonic : String)
  deriving DecidableEq, Repr

/-! ## Tiles -/

/-- A source of the A or Y slot on which a tile is stalled (R70, R129, R135). -/
inductive Wait where
  /-- A.WAIT Q, N -/
  | queue (q n : Nat)
  /-- A.WAITM mask -/
  | queues (mask : BitVec 8)
  /-- a waiting Y operation on an object -/
  | sync (id : Nat)
  /-- a waiting Y operation granted at its home, earlier Y operations of the tile not yet in effect (R138) -/
  | granted (id : Nat)
  deriving DecidableEq, Repr

/-- Where a result lands when it becomes usable (R93). -/
inductive Dest where
  | sreg (i : Nat) (v : Word)
  | preg (i : Nat) (v : Bool)
  /-- lanes of a vector register: register, list of (lane, value) -/
  | vreg (i : Nat) (ls : Tbl Word32)
  /-- elements of an accumulator: (row × 128 + column, value, tag) -/
  | acc (i : Nat) (es : List (Nat × Word32 × BitVec 3))
  /-- the type of an accumulator (M.MMA, M.ACCLD, M.ZERO) -/
  | accType (i : Nat) (int : Bool)
  /-- an accumulator zeroed whole, with its tags (M.ZERO) -/
  | accZero (i : Nat)
  /-- a column of a weight buffer: bytes, then scale bytes -/
  | wcol (wb col : Nat) (bytes scales : List Byte)
  /-- bytes written to the tile store: the write's own bank access, then readable 5 cycles later (M.DRAIN) -/
  | write (addr : Nat) (bytes : List Byte)
  /-- bytes of the tile store that become readable -/
  | store (addr : Nat) (bytes : List Byte)
  /-- elements of a long register: (element, value, flags) -/
  | lgreg (i : Nat) (es : List (Nat × BitVec 320 × BitVec 4))
  /-- sums into elements of a long register (V.LGACC, V.LGIMP), to which the next such instruction adds before they are usable:
  (element, value, flags) (R116) -/
  | lgadd (i : Nat) (es : List (Nat × BitVec 320 × BitVec 4))
  | flags (f : BitVec 7)
  | drawCtx (domain : Half) (tensor : BitVec 20)
  deriving DecidableEq, Repr

/-- A result on its way: issue cycles left until it is usable, and the issue-cycle stamp of its instruction: of two results
usable in one cycle, the later-issued one stands (R93, R94). -/
structure Pend where
  left : Nat
  stamp : Nat
  dest : Dest
  deriving DecidableEq, Repr

/-- An M.LDW in progress: next column (R99, R100). -/
structure LdwRun where
  stamp : Nat
  wb : Nat
  scaled : Bool
  base : Nat
  col : Nat
  /-- what the columns still to be read meet, [] none -/
  ecc : List Ecc
  deriving DecidableEq, Repr

/-- An M.MMA in progress: next row (R99, R100). -/
structure MmaRun where
  stamp : Nat
  acc : Nat
  wb : Nat
  fmt : BitVec 4
  z : Bool
  base : Nat
  rows : Nat
  row : Nat
  ecc : List Ecc
  res : Residue
  deriving DecidableEq, Repr

/-- A drain-side instruction in progress (R99, R105): next beat. -/
inductive DrainRun where
  | drain (stamp acc : Nat) (fmt : BitVec 4) (rnd : BitVec 2) (int : Bool) (base rows : Nat) (z : Bool) (beat : Nat)
  /-- the rows still to go, converted from what was read at issue, each with the flags it raises -/
  | drv (stamp vd beat : Nat) (rows : List (Tbl Word32 × BitVec 7))
  /-- the 1,024 lanes as read at issue -/
  | accld (stamp acc row8 : Nat) (int : Bool) (lanes : Tbl Word32) (beat : Nat)
  deriving DecidableEq, Repr

/-- A V.LD or V.ST in progress: next 256-byte part (R112); a store carries its bytes as read at issue. -/
structure XferRun where
  stamp : Nat
  load : Bool
  v : Nat
  addr : Nat
  parts : Nat
  part : Nat
  data : List Byte
  ecc : List Ecc
  deriving DecidableEq, Repr

/-- An A.PUT or A.PGET in progress: next granule (R132). -/
structure PutRun where
  get : Bool
  port : Nat
  src : Nat
  dst : Nat
  n : Nat
  k : Nat
  ecc : List Ecc
  deriving DecidableEq, Repr

/-- A queue descriptor as A.ENQ read it (R127), with its progress (R408 bytes 0x1E–0x1F) and outcome. -/
structure Desc where
  kind : Nat
  flags : Byte
  syncId : Nat
  tensor : Nat
  /-- byte offset within the tensor, s[SX] added -/
  offset : Nat
  loc : Nat
  length : Nat
  aux : Nat
  count : Nat
  /-- the 32 bytes as read -/
  image : List Byte
  /-- the 64-byte request block of an NMU descriptor -/
  block : List Byte
  /-- the bank that was inactive at enqueue, for BANK -/
  bank : Bool
  pgen : Word32
  /-- checks 3 of R128 failed: retires with BAD_PARAM, not performed -/
  bad : Bool
  completed : Bool
  issued : Bool
  status : Byte
  deriving DecidableEq, Repr

/-- A decoupling queue (R64, R129, R131). -/
structure Queue where
  /-- unretired descriptors, oldest first, at most 64 -/
  descs : List Desc
  /-- retired descriptors that no met wait covers yet, in enqueue order -/
  uncovered : List Desc
  /-- status word [7:0] -/
  first : Byte
  /-- status word [15:8] -/
  count : Byte
  deriving DecidableEq, Repr

/-- An empty queue. -/
def Queue.empty : Queue := { descs := [], uncovered := [], first := 0, count := 0 }

/-- A long-register element (R114). -/
structure LgElem where
  val : BitVec 320
  /-- PINF, NINF, NAN, OVF -/
  fl : BitVec 4
  deriving DecidableEq, Repr

/-- One tile (R64, R89, R95, R117, R118). -/
structure Tile where
  /-- s0–s31, 64 bits; R118; = 0 (DESIGN CHOICE at reset, zero at PROG_START) -/
  s : Tbl Word
  /-- p0–p7; R118; = 0 -/
  p : BitVec 8
  /-- v0–v63, 1,024 lanes of 32 bits, key 1024·reg + lane; R95, R108; = 0 -/
  v : Tbl Word32
  /-- acc0–acc7, 128 × 128 × 32 bits, key 16384·acc + 128·row + column; R95; = 0 -/
  acc : Tbl Word32
  /-- 3-bit scale tag of each element; R95; = 0 -/
  tag : Tbl (BitVec 3)
  /-- accumulator types, bit i set INT32; R105; = FP32 -/
  accInt : BitVec 8
  /-- weight buffers wb0, wb1, key 16384·wb + 128·column + byte; R95; = 0 -/
  wbuf : Tbl Byte
  /-- scales of the weight buffers, key 1024·wb + 8·column + j; R96; = 0 -/
  wscale : Tbl Byte
  /-- recorded formats of wb0 and wb1; R100; = 0 -/
  wfmt0 : BitVec 4
  wfmt1 : BitVec 4
  /-- lg0–lg15, 16 elements, key 16·reg + element; R114; = 0 -/
  lg : Tbl LgElem
  /-- POD_TMXFLAGS [6:0]; R117; = 0 -/
  flags : BitVec 7
  /-- POD_TMXCOUNT.SAT_RETRIES; R117; = 0 -/
  satRetries : Nat
  /-- SAT_RETRIES that firmware sums per step (R103, R30); = 0 -/
  stepRetries : Nat
  /-- POD_TMXCOUNT.RESIDUE; R117; = 0 -/
  residues : Nat
  /-- draw context; R125, R169; = 0 -/
  drawDomain : Half
  drawTensor : BitVec 20
  /-- lane-seed block of the last reseed; lane i holds it jumped i times, then advanced by its draws; R170–R173; = 0 -/
  laneA : Word
  laneB : Word
  /-- draws each lane has made since the reseed; R106, R173; = 0 -/
  laneDraws : Tbl Nat
  /-- tile store, 3 MiB; R64; = 0 (DESIGN CHOICE) -/
  store : Tbl Byte
  /-- instruction bank 0, 256 KiB; R64, R74; = 0 (DESIGN CHOICE) -/
  bank0 : Tbl Byte
  /-- instruction bank 1; = 0 (DESIGN CHOICE) -/
  bank1 : Tbl Byte
  /-- decoupling queues q0–q7; R64; = empty -/
  queues : Tbl Queue
  /-- POD_TSTATUS.PC; R89; = 0 -/
  pc : BitVec 13
  /-- target of a taken branch of this cycle's bundle; R123; = none -/
  branch : Option (BitVec 13)
  /-- POD_TSTATUS.BANK; = 0 -/
  bank : Bool
  /-- POD_TSTATUS.SWITCH_PENDING; R77; = 0 -/
  switchPending : Bool
  /-- queue wait of the A slot on which the tile is stalled, the tick-closing wait where Y.EOT stands beside it; R70, R139; = none -/
  wait : Option Wait
  /-- waiting Y operation on which the tile is stalled; R70; = none -/
  syncWait : Option Wait
  /-- cycles until a resumed tile issues again; R70; = 0 -/
  resumeIn : Nat
  /-- Y.EOT executed, marker not yet left; R139; = 0 -/
  eot : Bool
  /-- FROZEN; R79, R405; = 0 -/
  frozen : Bool
  /-- the tile holds a position of a running program; R74; = 0 -/
  live : Bool
  /-- position j of the fold; R22; = 0 -/
  position : Nat
  /-- logical tile of the current pass and its pass number; R22, R124; = 0 -/
  lam : Nat
  pass : Nat
  /-- schedule segment that the active bank holds; R74, R174; = 0 -/
  segment : Nat
  /-- sync status; R138; = DONE -/
  syncStatus : Byte
  /-- stamp of the Y operation whose status it holds; R138; = 0 -/
  syncStamp : Nat
  /-- Y operations not yet in effect at their homes; R138; = 0 -/
  syncsOut : Nat
  /-- results on their way; R93; = none -/
  pend : List Pend
  ldw : Option LdwRun
  mma : Option MmaRun
  drain : Option DrainRun
  xfer : Option XferRun
  puts : List PutRun
  /-- slots of this cycle's bundle already issued (M, V0, V1, S0, S1, A, Y); R91; = 0 -/
  slots : BitVec 7
  /-- destination registers named in this cycle's bundle (kind, number); R92, R120; = none -/
  dests : List (Nat × Nat)
  /-- tile-store banks accessed in this cycle; R78, R98; = none -/
  banks : List Nat
  /-- issue cycles in the current tick; R403; = 0 -/
  issued : Nat
  /-- issue cycles since the program's start: the stamp of instructions (model's own); = 0 -/
  cyc : Nat
  /-- the next bundle would lie past bundle 8,191; R123; = 0 -/
  past : Bool
  /-- a stochastic V.CVT of this cycle, whose draws follow those of the M slot; R106; = none -/
  cvtNow : Option V1G
  /-- POD_TFAULT [8:0]; R89; = 0 -/
  tfault : BitVec 9
  /-- POD_TFAULT.QUEUE; = 0 -/
  faultQueue : BitVec 3
  /-- POD_TFAULT.FAULT_PC; = 0 -/
  faultPc : BitVec 13
  /-- GTC at the start of the stall; R406, R409; = 0 -/
  stallGtc : Nat
  /-- hang-timer time counted since the start of the stall, in eighteenths of a nanosecond; R402; = 0 -/
  waited : Nat
  deriving DecidableEq, Repr

/-- A tile as it is at reset, and as an unlisted tile reads. -/
def Tile.init : Tile :=
  { s := [], p := 0, v := [], acc := [], tag := [], accInt := 0, wbuf := [], wscale := [], wfmt0 := 0, wfmt1 := 0,
    lg := [], flags := 0, satRetries := 0, stepRetries := 0, residues := 0, drawDomain := 0, drawTensor := 0,
    laneA := 0, laneB := 0, laneDraws := [], store := [], bank0 := [], bank1 := [], queues := [], pc := 0,
    branch := none, bank := false, switchPending := false, wait := none, syncWait := none, resumeIn := 0, eot := false,
    frozen := false, live := false, position := 0, lam := 0, pass := 0, segment := 0, syncStatus := 0, syncStamp := 0, syncsOut := 0, pend := [],
    ldw := none, mma := none, drain := none, xfer := none, puts := [], slots := 0, dests := [], banks := [],
    issued := 0, cyc := 0, past := false, cvtNow := none, tfault := 0, faultQueue := 0, faultPc := 0, stallGtc := 0, waited := 0 }

/-! ## Pods and sync objects -/

/-- POD_STATUS.STATE (R89, R459). -/
inductive PodState where
  | off | idle | active | test | fused
  deriving DecidableEq, Repr

/-- A granule on its way to a destination port (R68, R132). -/
structure Landing where
  left : Nat
  /-- 0–15 a tile, 16 the pod store -/
  port : Nat
  addr : Nat
  bytes : List Byte
  deriving DecidableEq, Repr

/-- A sync operation on its way to its home, or waiting there (R135, R136). -/
structure SyncReq where
  /-- pod cycles left for an own-pod operation; none for one carried over the spine -/
  left : Option Nat
  /-- issuing physical tile, or none for a control core or the host -/
  tile : Option Nat
  src : Nat
  hull : Nat
  /-- Y opcode (R133) -/
  op : Nat
  id : Nat
  /-- amount, or buffer index -/
  amount : Nat
  nowait : Bool
  rd : Nat
  /-- stamp of its issue cycle -/
  stamp : Nat
  /-- GTC at which it was issued; R409 -/
  gtc : Nat
  deriving DecidableEq, Repr

/-- One pod (R64, R65, R83, R89, R459–R461). -/
structure Pod where
  /-- POD_STATUS.STATE; R89; = OFF (FUSED for a fused pod) -/
  state : PodState
  /-- owning hull, 0 if none; R89; = 0 -/
  hull : Nat
  /-- pod store, 16 MiB; R64; = 0 (DESIGN CHOICE) -/
  store : Tbl Byte
  /-- SPARE_IN, SPARE_FOR; R89; = 0 -/
  spareIn : Bool
  spareFor : BitVec 4
  /-- POSITION_BASE; R89; = 0 -/
  posBase : Nat
  /-- cycles of hold left; R102; = 0 -/
  hold : Nat
  /-- tile-clock cycles, by which the ledger's window moves; R83; = 0 -/
  cycle : Nat
  /-- cycles since the tick's begin; R90 TICK_CYCLE; = 0 -/
  tickCycle : Nat
  /-- metered charges (cycle, token-cycles) of the last 12,000 cycles; R83; = none -/
  ledger : List (Nat × Nat)
  /-- PWR_PLEDGER.POD_SHARE; R90; = 0 -/
  share : Nat
  /-- PWR_PPEAK.PEAK; R90; = 0 -/
  peak : Nat
  /-- granules between ports; R68; = none -/
  landings : List Landing
  /-- own-pod sync operations on their way; R68; = none -/
  reqs : List SyncReq
  /-- pod-store banks accessed in this cycle; R78; = none -/
  banks : List Nat
  /-- PWR_PSTATE fields; R468; = 0 -/
  wakeMask : BitVec 3
  entering : Bool
  waking : Bool
  wakeCause : BitVec 3
  aborted : Bool
  /-- PWR_PWAKE_GTC; R468; = 0 -/
  wakeGtc : Nat
  /-- state to come back to after device STANDBY; R462; = OFF -/
  standbyState : PodState
  /-- reply owed when a sleep or wake ends; R463; = none -/
  owes : Option Cmd
  /-- GTC at which a probe or a bypass of the pod was accepted that takes it from its hull at a fold point; R392, R394; = none -/
  leaving : Option Nat
  /-- commands (grants, probes) that wait for the pod to reach IDLE; R460; = none -/
  waiting : List (Nat × Cmd)
  deriving DecidableEq, Repr

/-- A pod at reset. -/
def Pod.init : Pod :=
  { state := .off, hull := 0, store := [], spareIn := false, spareFor := 0, posBase := 0, hold := 0, cycle := 0, tickCycle := 0,
    ledger := [], share := 0, peak := 0, landings := [], reqs := [], banks := [], wakeMask := 0, entering := false,
    waking := false, wakeCause := 0, aborted := false, wakeGtc := 0, standbyState := .off, owes := none, leaving := none, waiting := [] }

/-- A sync object (R134, R135, R137). -/
structure SyncObj where
  /-- 0 counter semaphore, 1 barrier, 2 lease, 3 buffer pool -/
  kind : Nat
  hull : Nat
  /-- home logical tile and the pod that holds it (R71) -/
  home : Nat
  pod : Nat
  timeout : Nat
  holdLimit : Nat
  param : Nat
  init : Nat
  /-- VALUE of a counter, ARRIVED of a barrier -/
  value : Nat
  gen : Half
  broken : Bool
  /-- lease holder's source number -/
  holder : Option Nat
  /-- tick boundaries passed since the grant -/
  heldTicks : Nat
  /-- former holders of broken grants, whose next release completes with LEASE_BROKEN -/
  former : List Nat
  /-- indices of a pool that are granted -/
  held : List Nat
  /-- waiting requests, in service order -/
  waiters : List SyncReq
  deriving DecidableEq, Repr

/-! ## Memory -/

/-- A 4 KiB block of tier A or tier B with its husk slot (R177, R180, R376). An unlisted block is unwritten and zero. -/
structure Blk where
  husk : Word
  data : Tbl Byte
  deriving DecidableEq, Repr

/-- A copy-on-write mark of a block (R217): the block's key, and the snapshot block's key; `copied` once a write made the
copy and cleared the mark. -/
structure Mark where
  hull : Nat
  tierB : Bool
  key : Nat
  dstB : Bool
  dst : Nat
  copied : Bool
  deriving DecidableEq, Repr

/-- A memory unit (R177–R200, R205, R206). -/
structure UnitS where
  /-- 0 FREE, 1 IN_EXTENT, 2 MAPPED_OUT, 3 COPY_TARGET, 4 CONTEXT0; R205, R206; = 0 -/
  state : Nat
  copySource : Bool
  hull : Nat
  extent : Nat
  slot : Nat
  sparesUsed : Nat
  sparesLeft : Nat
  /-- map-out cause of R197; = 0 -/
  cause : Nat
  /-- replacement chosen for a map-out copy in progress; R199; = none -/
  replacement : Option Nat
  /-- cause of the map-out in progress -/
  pendingCause : Nat
  trigger : Nat
  /-- GTC of the last exhausted parity retry and of the last uncorrectable error; R197; = none -/
  lastParity : Option Nat
  lastUncorr : Option Nat
  /-- last refresh; R190; = 0 -/
  refreshed : Nat
  /-- next row of the background scrub; R220; = 0 -/
  scrubRow : Nat
  /-- MEMA_PCERR or MEMB_CHERR counts; = 0 -/
  corrected : Nat
  parityRetries : Nat
  uncorr : Nat
  deriving DecidableEq, Repr

/-- A unit at reset. -/
def UnitS.init : UnitS :=
  { state := 0, copySource := false, hull := 0, extent := 0, slot := 0, sparesUsed := 0, sparesLeft := 0, cause := 0,
    replacement := none, pendingCause := 0, trigger := 0, lastParity := none, lastUncorr := none, refreshed := 0,
    scrubRow := 0, corrected := 0, parityRetries := 0, uncorr := 0 }

/-- The two tiers, stacks and packages (R177–R206). -/
structure MemS where
  /-- tier A blocks, key 261632·unit + row; R177; = unwritten -/
  a : Tbl Blk
  /-- tier B blocks, key 4186112·channel + row; R180; = unwritten -/
  b : Tbl Blk
  unitsA : Tbl UnitS
  unitsB : Tbl UnitS
  /-- channel of context 0; R180; = 0 until training -/
  fwChannel : Nat
  /-- MEMA_INFO.PC_USABLE, MEMB_INFO.CH_USABLE, set at the end of training; = 0 -/
  usableA : Nat
  usableB : Nat
  /-- training done; MEMA_STACK.TRAINED, MEMB_PKG.TRAINED; = 0 -/
  trained : Bool
  /-- stacks and packages at double-rate refresh: bit s, bit 8 + p; R190; = 0 -/
  hot : BitVec 24
  /-- last temperature readouts, key s or 8 + p; = 0 -/
  temp : Tbl Byte
  marks : List Mark
  /-- map-outs waiting for the one in progress: (trigger GTC, unit, cause); R200; = none -/
  mapoutQueue : List (Nat × MemUnit × Nat)
  /-- the map-out in progress; = none -/
  mapout : Option MemUnit
  /-- what accesses of the command at work are still to meet (model's own); = none -/
  meets : List Meet
  /-- a write of the command at work was lost; one of its accesses is held by a map-out (model's own); = 0 -/
  lost : Bool
  stuck : Bool
  deriving DecidableEq, Repr

/-! ## Near-memory units -/

/-- An open REDUCE target (R212). -/
structure RTarget where
  hull : Nat
  tensor : Nat
  offset : Nat
  length : Nat
  count : Nat
  fmt : Nat
  /-- 0 current content, 1 INIT, 2 EMPTY -/
  start : Nat
  /-- next SEQ to be applied -/
  next : Nat
  /-- contributions that came ahead of their turn, by SEQ -/
  staged : Tbl (List Byte)
  /-- tiles' descriptors that wait for its completion: (SEQ, tile, queue) -/
  owners : List (Nat × Nat × Nat)
  /-- SEQs of which a part ended with FAULT (R207) -/
  failed : List Nat
  deriving DecidableEq, Repr

/-- A REDUCE request held at its sender (R209): the oldest like descriptor of a tile's queue, or a message of the inbox. -/
inductive HeldReq where
  | desc (tile q : Nat) (image : List Byte)
  | msg (src : BitVec 24) (cls : Nat) (e2e : Word32)
  deriving DecidableEq, Repr

/-- Near-memory units (R207–R224). -/
structure NmuS where
  /-- owner of slot group i of every unit, groups 0–14: 0 context 0, 1–4 hull; R208, R224; = 0 -/
  slots : Tbl Nat
  targets : List RTarget
  /-- requests held at their senders for want of staging or targets; R209; = none -/
  held : List HeldReq
  /-- background level, key 8·unit + owner; R218, R219; = 0 -/
  level : Tbl Nat
  /-- backlogs in blocks (scrub, drain, probe), key 8·unit + owner; a scrub ahead of its pace counts below zero; R219; = 0 -/
  backlog : Tbl (Int × Nat × Nat)
  /-- GTC up to which scrub work has fallen due (R220); = 0 -/
  scrubMark : Nat
  /-- NMU_USCRUB.PASSES and CORRECTED per unit; R224; = 0 -/
  passes : Tbl Nat
  scrubCorrected : Tbl Nat
  /-- units whose probe run failed, until the next warm reset; R392; = none -/
  failed : List Nat
  deriving DecidableEq, Repr

/-! ## Ausolin engines -/

/-- A resident structure (R233–R235). -/
structure AStruct where
  kind : Nat
  banded : Bool
  n : Nat
  m : Nat
  stages : Nat
  refine : Nat
  /-- SIGMA, RHO, RHO_EQ, ALPHA, DELTA_P, DELTA_D -/
  params : List Word
  /-- panel (width, stage) -/
  panels : List (Nat × Nat)
  perm : List Nat
  /-- (row panel, column panel, values row-major) -/
  blocks : List (Nat × Nat × List Word)
  /-- DENSE: lower triangle by rows -/
  dense : List Word
  q : List Word
  l : List Word
  u : List Word
  x0 : List Word
  /-- values changed since the last factor -/
  dirty : Bool
  /-- warm starts: last returned x; last x, s, y of QP_ADMM (R242, R243) -/
  warmX : Option (List Word)
  warmS : Option (List Word × List Word × List Word)
  bytes : Nat
  deriving DecidableEq, Repr

/-- An accepted command block (R247) with where its output goes. -/
structure ACmd where
  /-- the 64 bytes -/
  block : List Byte
  /-- physical tile that issued it; none on the firmware path -/
  tile : Option Nat
  hull : Nat
  /-- firmware path: the input as fetched from the window, window offset of the output, and ticket -/
  input : List Byte
  outOff : Nat
  ticket : Nat
  /-- compute done: status, cause, header fields and payload ready for write-back -/
  done : Bool
  status : Byte
  cause : Byte
  iterations : Nat
  returned : Nat
  cycles : Nat
  panel : Word32
  rp : Word
  rd : Word
  c : Word
  merit : Word
  payload : List Word
  /-- the AU_STRUCT_LOAD or AU_DELTA that is owed its reply when the work ends; R256 -/
  owed : Option Cmd
  deriving DecidableEq, Repr

/-- One engine (R225–R257). -/
structure Engine where
  /-- 0 CMD, 1 TILE; R227; = 0 -/
  tileMode : Bool
  /-- private banks; R228, R257; = 0 -/
  bankBase : Nat
  bankCount : Nat
  /-- resident structures by handle; R233; = none -/
  structs : Tbl AStruct
  /-- accepted commands, oldest first; R225; = none -/
  queue : List ACmd
  /-- tile-path commands sent, not yet accepted: (cycles left, block, tile); R249; = none -/
  sent : List (Nat × List Byte × Nat)
  /-- 0 idle, 1 fetch, 2 compute, 3 write-back; = 0 -/
  phase : Nat
  /-- granules still to be fetched (phase 1) or written back (phase 3), or engine cycles left of a computed result (phase 2);
  R226; = 0 -/
  left : Nat
  /-- cycles until the last granule written back is readable (R249); = 0 -/
  settle : Nat
  /-- input fetched so far (R226); = none -/
  fetched : List Byte
  nextTicket : Nat
  /-- results of the 16 most recent tickets; R255 -/
  results : List ACmd
  /-- AUS_ECOUNT and AUS_EBUSY; = 0 -/
  cDone : Nat
  cPartial : Nat
  cNan : Nat
  cFault : Nat
  busy : Nat
  deriving DecidableEq, Repr

/-- An engine at reset. -/
def Engine.init : Engine :=
  { tileMode := false, bankBase := 0, bankCount := 0, structs := [], queue := [], sent := [], phase := 0, left := 0,
    settle := 0, fetched := [], nextTicket := 1,
    results := [], cDone := 0, cPartial := 0, cNan := 0, cFault := 0, busy := 0 }

/-! ## Hulls and programs -/

/-- HULL_HSTATE.STATE (R335). -/
inductive HullState where
  | free | granted | running | draining | scrubbing
  deriving DecidableEq, Repr

/-- An extent of a window (R182, R183). -/
structure Extent where
  units : List Nat
  key : Word
  /-- grant that appended it -/
  grant : Nat
  deriving DecidableEq, Repr

/-- A live grant (R337). -/
structure Grant where
  id : Nat
  pods : BitVec 8
  unitsA : Nat
  unitsB : Nat
  spine : BitVec 15
  nmu : BitVec 15
  share : Nat
  syncCount : Nat
  /-- lender of a LOAN, while owed; R339 -/
  lender : Option Nat
  deriving DecidableEq, Repr

/-- A reclaim accepted (R340–R344). -/
structure Reclaim where
  grant : Grant
  forceMs : Nat
  forceNow : Bool
  gtc : Nat
  /-- 1 WAIT_FOLD, 2 FOLD, 3 QUIESCE, 4 SCRUB, 5 REGRANT -/
  phase : Nat
  forced : Bool
  stopped : Bool
  /-- resources taken from the hull at the fold point, out of the free pool until scrubbed -/
  removedA : List Nat
  removedB : List Nat
  removedPods : BitVec 8
  /-- sync partition taken: base, count -/
  removedSync : Nat × Nat
  /-- GTC of the fold point (R343) -/
  foldGtc : Nat
  deriving DecidableEq, Repr

/-- A checkpoint of a hull (R360–R372). -/
structure Ckpt where
  /-- 0 NONE, 1 ARMED, 2 EXTRACT, 3 DRAIN, 4 COMPLETE, 5 FAILED -/
  state : Nat
  cause : Nat
  full : Bool
  wantFull : Bool
  /-- boundary asked for; none for the next -/
  armedStep : Option Nat
  step : Nat
  id : Word
  target : Nat
  parentStep : Word
  parentId : Word
  /-- object bytes, formed when extraction completes -/
  object : List Byte
  sent : Nat
  /-- segments acknowledged -/
  acked : List Nat
  /-- trailer sent -/
  trailer : Bool
  lastAckGtc : Nat
  /-- reference husks of the previous completed checkpoint: (tensor, block, husk) -/
  reference : List (Nat × Nat × Word)
  /-- delta blocks of the cut: (tensor, block, husk, payload) -/
  delta : List (Nat × Nat × Word × List Byte)
  /-- a first checkpoint after a start or restore, or after a failure, is FULL (R363) -/
  mustFull : Bool
  deriving DecidableEq, Repr

/-- No checkpoint. -/
def Ckpt.init : Ckpt :=
  { state := 0, cause := 0, full := false, wantFull := false, armedStep := none, step := 0, id := 0, target := 0,
    parentStep := 0, parentId := 0, object := [], sent := 0, acked := [], trailer := false, lastAckGtc := 0,
    reference := [], delta := [], mustFull := true }

/-- A chunk of a collective landed at this member (R308, R314). -/
structure Chunk where
  phase : Nat
  stage : Nat
  piece : Nat
  chunk : Nat
  /-- sender's position -/
  sender : Nat
  /-- its LATE_COUNT (R317) -/
  lateCount : Nat
  /-- EMPTY: the partial holds no term -/
  empty : Bool
  /-- LAST: the digest of the piece (R318) -/
  digest : Option Word
  payload : List Byte
  deriving DecidableEq, Repr

/-- One open or completed collective operation of a hull in the current step (R310–R328). -/
structure OpRun where
  op : Nat
  /-- START acquisitions: the member's contribution is ready; one per round for ROTATE -/
  starts : Nat
  /-- what lay in SRC at the acquisition, and its deferred-in term -/
  contrib : List Byte
  deferIn : Option (List Byte)
  openGtc : Nat
  firstMsgGtc : Option Nat
  /-- final pieces in place at this member -/
  pieces : List Nat
  chunks : List Chunk
  /-- partials and pieces sent: (phase, stage, piece, destination position) -/
  sent : List (Nat × Nat × Nat × Nat)
  /-- largest LATE_COUNT of a result -/
  lateCount : Nat
  decisions : List Decision
  /-- this member decided late: policy 1 DEFER, 2 DROP -/
  decided : Option Nat
  records : List ExactRecord
  done : Bool
  /-- rounds of ROTATE completed -/
  rounds : Nat
  deriving DecidableEq, Repr

/-- The verdict of a step (R264–R267). -/
structure Verdict where
  sum : BitVec 320
  vflags : BitVec 4
  requests : Byte
  skipped : Bool
  cause : Nat
  step : Nat
  deriving DecidableEq, Repr

/-- Twin state of a shard copy (R273). -/
inductive TwinState where
  | paired | suspect | single | onboarding | probation | lost
  deriving DecidableEq, Repr

/-- A shard copy that firmware holds a state for (R268–R277). -/
structure ShardS where
  id : Nat
  /-- owner role on this module (true), twin role (false) -/
  owner : Bool
  state : TwinState
  mismatches : Nat
  layersCopied : Nat
  copiedStep : Nat
  /-- own and peer digests of a step: (step, digest) -/
  own : Option (Nat × BitVec 256)
  peer : Option (Nat × BitVec 256)
  deriving DecidableEq, Repr

/-- A service call in progress (R428, R429). -/
structure Call where
  svc : Nat
  k : Nat
  cmd : Cmd
  landed : Nat
  /-- its reply was already given (late) -/
  replied : Bool
  /-- the answer is there, and an integrity event of the hull was recorded since the start of the tick that produced it (R387) -/
  dirty : Bool
  deriving DecidableEq, Repr

/-- An entry of the resend ledger (R348). -/
structure LedgerEntry where
  step : Nat
  msg : Msg
  deriving DecidableEq, Repr

/-- Where a tile stands at a step boundary (R347, model's own): fetch position and instruction banks. -/
structure TileMark where
  pc : BitVec 13
  bank : Bool
  segment : Nat
  bank0 : Tbl Byte
  bank1 : Tbl Byte
  deriving DecidableEq, Repr

/-- A loaded program and its run (R51–R55, R432–R437). -/
structure Prog where
  image : Image
  /-- index into image.folds of the fold in force -/
  foldLog2 : Nat
  /-- geometry digest formed at load (R20) -/
  geoDigest : BitVec 256
  /-- content of each listed group as it was digested (R20, R306) -/
  groupsAs : List (Nat × List Byte)
  /-- annex tensors moved to tier B (R85) -/
  spilled : List Nat
  /-- base offsets of tensors as placed: (tensor, level, base) (tensor base table, R84) -/
  placed : List (Nat × Level × Nat)
  /-- pods held, window limits and share at load (R437) -/
  loadedPods : Nat
  loadedLimits : Nat × Nat
  loadedShare : Nat
  /-- 1 loaded, 2 waiting for launch, 3 running, 4 stopped (R434) -/
  state : Nat
  reason : Nat
  stopStatus : Byte
  replay : List (List Byte)
  isReplay : Bool
  rehome : Bool
  evalsDone : Nat
  /-- ticks of the current step done, first tick and start GTC (R30) -/
  tickInStep : Nat
  firstTick : Nat
  gtcStart : Nat
  slipNs : Nat
  /-- admitted evaluation runs of the open window, and run in progress (R54, R436) -/
  evals : List Nat
  evalTicks : Nat
  evalRun : Option (Nat × Nat)
  /-- entries of the step record so far (R32) -/
  entries : List Word
  verdict : Option Verdict
  prevState : BitVec 256
  ops : List OpRun
  /-- deferred-out contributions of the last step: (op, group, rank) (R34) -/
  deferred : List (Nat × Nat × Nat)
  /-- blocks of twin tensors that the feed has brought in this step: (tensor, block) (R269) -/
  fed : List (Nat × Nat)
  overruns : Nat
  restarts : Nat
  /-- the step in progress is run again after a restart (R347); messages of the abandoned attempt are not sent again (R348) -/
  rerun : Bool
  /-- the hull stands at a boundary that it had left once: the restart of a step brought it back (R347) -/
  reopened : Bool
  /-- record-log wait in force (R29) -/
  logWait : Bool
  /-- step slots not yet drained (R29) -/
  undrained : List Nat
  /-- PROG_STOPs accepted and not yet in effect: at once when the holds end (true), or at the boundary; R433 -/
  stops : List (Bool × Cmd)
  calls : List Call
  /-- next request number per service -/
  nextK : Tbl Nat
  restored : Bool
  twinOnly : Bool
  /-- re-home block (R275): SURVIVOR, LOST, START_STEP, BYTES_PER_STEP, and the bytes copied in the step -/
  survivor : Nat
  lostRank : Nat
  rehomeStart : Nat
  rehomeBytes : Nat
  copiedBytes : Nat
  /-- 0 a tick runs, 1 the step boundary has passed and the next step's first tick has not begun, 2 the start's first tick has not
  begun (R51, R53) -/
  between : Nat
  /-- emergency throttle was above level 0 during part of the tick (R52) -/
  throttled : Bool
  /-- INPUT_DIGEST of the step in progress (R30) -/
  inputDigest : BitVec 256
  /-- the undo copies of a skipped step are restored (R261) -/
  rollback : Bool
  shards : List ShardS
  ledger : List LedgerEntry
  /-- sync objects as they stood at the step boundary (R347) -/
  boundarySync : Tbl SyncObj
  /-- where each tile stood at the step boundary (R347) -/
  boundaryTiles : Tbl TileMark
  /-- evaluation runs of the window being run (R54) -/
  evalQueue : List Nat
  /-- the last step record written (R28) -/
  record : List Byte
  /-- GTC at which the last step boundary passed -/
  boundaryGtc : Nat
  /-- integrity events of the hull since the start of its tick (R387) -/
  dirtyTick : Bool
  deriving DecidableEq, Repr

/-- One hull (R334–R359). -/
structure Hull where
  state : HullState
  /-- OWNER_ID; = 0 -/
  owner : Half
  k0 : Word
  k1 : Word
  pgen : Word32
  grants : List Grant
  extA : List Extent
  extB : List Extent
  /-- LIMIT of the windows in bytes; R182; = 0 -/
  limitA : Nat
  limitB : Nat
  /-- PWR_HSHARE.SHARE, STANDING; R90; = 0 -/
  share : Nat
  standing : Nat
  syncBase : Nat
  syncCount : Nat
  spine : BitVec 15
  nmu : BitVec 15
  prog : Option Prog
  /-- hull tick number; R56; = 0 -/
  tick : Nat
  /-- step number; R56; = 0 -/
  step : Nat
  /-- TIME_HLAUNCH; = 0 -/
  launch : Nat
  armed : Bool
  /-- what TIME_HLAUNCH reads once an armed launch is cancelled: the last fired G or the last anchor; = 0 -/
  lastLaunch : Nat
  /-- TIME_HTICK_START; = 0 -/
  tickStart : Nat
  reclaims : List Reclaim
  /-- HULL_HRECLAIM of the current or last reclaim: grant, forced, stopped, returned, phase, GTC; = 0 -/
  lastGrant : Nat
  lastForced : Bool
  lastStopped : Bool
  lastReturned : Bool
  lastGtc : Nat
  ckpt : Ckpt
  /-- debug class 0 NONE, 1 TENANT, 2 VENDOR; R450; = 0 -/
  dbg : Nat
  tenantEver : Bool
  vendorEver : Bool
  halted : Bool
  notAfter : Nat
  /-- firmware holds in force: bit 0 fold point, 1 placement round, 2 map-out, 3 probe refold, 4 record log; R402; = 0 -/
  holds : BitVec 5
  /-- pods were granted to the running hull and are used from its next step boundary; R338; = false -/
  newPods : Bool
  /-- the fold point is forced: it is taken at the next tick boundary; R341; = false -/
  foldForced : Bool
  /-- units of extents that a hull fault removed (R200), by grant, until they are scrubbed with it -/
  orphans : List (Nat × MemUnit)
  /-- resend requests that wait for the generation they name; R348; = none -/
  resends : List (BitVec 24 × Word32 × Nat)
  /-- generation setting received, to be adopted at a boundary: (G, step); R346; = none -/
  setting : Option (Word32 × Nat)
  /-- unwritten reads per tier: flag, count, first block (MEMA_HDBG, MEMB_HDBG); R195; = 0 -/
  unwrittenA : Bool × Nat × Nat
  unwrittenB : Bool × Nat × Nat
  /-- NMU_HSTALE; = 0 -/
  stale : Nat
  dup : Nat
  deriving DecidableEq, Repr

/-- A hull that is FREE (R335). -/
def Hull.init : Hull :=
  { state := .free, owner := 0, k0 := 0, k1 := 0, pgen := 0, grants := [], extA := [], extB := [], limitA := 0,
    limitB := 0, share := 0, standing := 0, syncBase := 0, syncCount := 0, spine := 0, nmu := 0, prog := none,
    tick := 0, step := 0, launch := 0, armed := false, lastLaunch := 0, tickStart := 0, reclaims := [], lastGrant := 0,
    lastForced := false, lastStopped := false, lastReturned := false, lastGtc := 0, ckpt := Ckpt.init, dbg := 0,
    tenantEver := false, vendorEver := false, halted := false, notAfter := 0, holds := 0, newPods := false, foldForced := false,
    orphans := [], resends := [], setting := none,
    unwrittenA := (false, 0, 0), unwrittenB := (false, 0, 0), stale := 0, dup := 0 }

/-! ## Time, links, groups -/

/-- TIME_STATUS.STATE (R46). -/
inductive Align where
  | unset | coarse | locked | holdover
  deriving DecidableEq, Repr

/-- Global time (R44–R48). -/
structure TimeS where
  /-- TIME_GTC, 64 bits; R44; = 0 -/
  gtc : Nat
  /-- eighteenths of a nanosecond counted towards the next count (model's own, log entry 2); = 0 -/
  frac : Nat
  align : Align
  /-- TIME_STATUS.OFFSET_NS; = 0 -/
  offset : Int
  /-- correction still to be slewed in; R45, R46; = 0 -/
  slew : Int
  /-- parts per million counted towards the next corrected count (model's own); = 0 -/
  slewAcc : Nat
  /-- consecutive messages within and outside the bound; R46; = 0 -/
  good : Nat
  bad : Nat
  lastMsg : Nat
  holdStart : Nat
  /-- set by TIME_GTC_SET since cold boot; R46; = 0 -/
  wasSet : Bool
  deriving DecidableEq, Repr

/-- JV_BSTATUS.STATE (R296). -/
inductive BState where
  | unused | down | training | up | disabled
  deriving DecidableEq, Repr

/-- A message on a bundle (R286, R288): flits not yet sent, and the SEQ of the last one sent. -/
structure OutMsg where
  msg : Msg
  left : Nat
  last : BitVec 12
  deriving DecidableEq, Repr

/-- One bundle (R283–R300). -/
structure Bundle where
  state : BState
  width : Nat
  lanes : BitVec 4
  neighbour : Nat
  owner : Nat
  reach : Nat
  minWidth : Nat
  peerFid : BitVec 24
  downGtc : Nat
  /-- next SEQ expected, next SEQ to send; R284; = 0 -/
  rxSeq : Nat
  txSeq : Nat
  /-- next flit slot; R285; = 0 -/
  slot : Nat
  /-- unacknowledged flits: SEQ; R286; = none -/
  retry : List (BitVec 12)
  /-- credits for classes 0–3; R288; = 384, 256, 64, 64 when UP -/
  credits : List Nat
  /-- messages queued or unacknowledged on the bundle, oldest first -/
  outq : List OutMsg
  /-- replays started and symbols corrected in the current millisecond, and its start; R287; = 0 -/
  msStart : Nat
  msReplays : Nat
  msFec : Nat
  /-- JV_BERR; = 0 -/
  fec : Nat
  replays : Nat
  retrains : Nat
  uncorr : Nat
  deriving DecidableEq, Repr

/-- A bundle at reset. -/
def Bundle.init : Bundle :=
  { state := .unused, width := 0, lanes := 0, neighbour := 0, owner := 0, reach := 0, minWidth := 1, peerFid := 0,
    downGtc := 0, rxSeq := 0, txSeq := 0, slot := 0, retry := [], credits := [], outq := [], msStart := 0,
    msReplays := 0, msFec := 0, fec := 0, replays := 0, retrains := 0, uncorr := 0 }

/-- An installed link plan (R292). -/
structure Plan where
  root : Bool
  fid : BitVec 24
  timeUp : Nat
  timeAlt : Nat
  planId : Word32
  /-- NEIGHBOUR, OWNER, REACH, MIN_WIDTH of bundles 0–35 -/
  bundles : List (Nat × Nat × Nat × Nat)
  /-- FID, LEVEL, KIND -/
  neighbours : List (BitVec 24 × Nat × Nat)
  /-- FID_VALUE, PREFIX_LEN, NEXT -/
  routes : List (BitVec 24 × Nat × List Nat)
  deriving DecidableEq, Repr

/-- The fabric (R282–R303). -/
structure JvS where
  plan : Option Plan
  bundles : Tbl Bundle
  /-- JV_DISABLE; survives the warm reset; = 0 -/
  disable : BitVec 36
  /-- E2E_SEQ already delivered: (SRC_FID, CLASS, E2E_SEQ), newest first; R290; = none -/
  seen : List (BitVec 24 × Nat × Word32)
  /-- next E2E_SEQ per (DST_FID, CLASS); R289; = 0 -/
  nextE2e : List (BitVec 24 × Nat × Word32)
  /-- data messages with no UP group; R294; = none -/
  waiting : List Msg
  /-- privileged messages with no UP bundle; R299; = none -/
  privWait : List Msg
  /-- messages delivered to this module and not yet taken by their user; = none -/
  inbox : List Msg
  /-- rotation position per hull; R307; = 0 -/
  rotation : Tbl Nat
  deriving DecidableEq, Repr

/-- A group-table entry (R304–R307). -/
structure Group where
  /-- 0 FREE, 1 WRITTEN, 2 ACTIVE -/
  state : Nat
  hull : Nat
  compat : Bool
  world : Bool
  /-- 0 WAIT, 1 DEFER, 2 DROP -/
  policy : Nat
  members : Nat
  myPos : Nat
  n1 : Nat
  n2 : Nat
  n3 : Nat
  chunkLog2 : Nat
  share : Nat
  lateUs : Nat
  rosterOff : Nat
  /-- (WORLD_RANK, FID, HEIR) by position -/
  roster : List (Nat × BitVec 24 × Nat)
  epoch : Byte
  /-- lost positions, each with the operation and step from which the alternate order runs -/
  lost : List (Nat × Nat × Nat)
  opsDone : Nat
  decisions : Nat
  stale : Nat
  /-- COLL_GLAST -/
  lastPos : Nat
  lastOp : Nat
  lastStep : Nat
  /-- last time a message of a neighbour position came: (position, GTC); R323 -/
  heard : Tbl Nat
  lastBeat : Nat
  deriving DecidableEq, Repr

/-- A FREE entry. -/
def Group.init : Group :=
  { state := 0, hull := 0, compat := false, world := false, policy := 0, members := 0, myPos := 0, n1 := 0, n2 := 0,
    n3 := 0, chunkLog2 := 0, share := 0, lateUs := 0, rosterOff := 0, roster := [], epoch := 0, lost := [],
    opsDone := 0, decisions := 0, stale := 0, lastPos := 0, lastOp := 0, lastStep := 0, heard := [], lastBeat := 0 }

/-! ## Rings, interrupts, log, reset, security -/

/-- CMD_RCFG.STATE (R423). -/
inductive RingState where
  | disabled | running | draining | fault
  deriving DecidableEq, Repr

/-- A command fetched and not yet started (R421): its opcode, fetch GTC, and what the environment supplied with it. -/
structure HeldCmd where
  cmd : Cmd
  op : Nat
  gtc : Nat
  img : Option Image
  objects : List (List Byte)
  deriving DecidableEq, Repr

/-- A host ring (R419–R423, R444). -/
structure Ring where
  state : RingState
  /-- ENABLE as last written -/
  en : Bool
  operator : Bool
  cmdLog2 : Nat
  rplLog2 : Nat
  core : Nat
  caller : Half
  cbase : Word
  rbase : Word
  ctail : Word32
  chead : Word32
  rtail : Word32
  rhead : Word32
  /-- commands fetched, not replied, oldest first, each with its opcode; R420; = none -/
  inProgress : List (Cmd × Nat)
  /-- those of them that have not started; R421; = none -/
  held : List HeldCmd
  replied : Nat
  deriving DecidableEq, Repr

/-- A ring at reset. -/
def Ring.init : Ring :=
  { state := .disabled, en := false, operator := false, cmdLog2 := 4, rplLog2 := 4, core := 0, caller := 0, cbase := 0, rbase := 0,
    ctail := 0, chead := 0, rtail := 0, rhead := 0, inProgress := [], held := [], replied := 0 }

/-- A UDP endpoint (R425, R426, R444). -/
structure Endpoint where
  enable : Bool
  port : Nat
  prefixLen : Nat
  udpPort : Half
  caller : Half
  core : Nat
  addrLo : Word
  addrHi : Word
  /-- TAGs of the 64 most recent commands with the reply if formed, newest first -/
  recent : List (Word32 × Option (List Byte) × BitVec 128 × Half)
  /-- commands accepted that have not started: the endpoint's core is halted (R457); = none -/
  held : List HeldCmd
  accepted : Nat
  dropped : Nat
  duplicates : Nat
  deriving DecidableEq, Repr

/-- An endpoint at reset. -/
def Endpoint.init : Endpoint :=
  { enable := false, port := 0, prefixLen := 128, udpPort := 0, caller := 0, core := 0, addrLo := 0, addrHi := 0,
    recent := [], held := [], accepted := 0, dropped := 0, duplicates := 0 }

/-- An interrupt source (R439, R445). -/
structure IrqSrc where
  prio : BitVec 3
  enable : Bool
  moderated : Bool
  pending : Bool
  active : Bool
  /-- core that claimed it -/
  activeOn : Nat
  target : BitVec 3
  count : Byte
  /-- hold-off start (R439) -/
  holdStart : Nat
  /-- hold-off has elapsed since its start -/
  elapsed : Bool
  deriving DecidableEq, Repr

/-- A source at reset. -/
def IrqSrc.init : IrqSrc :=
  { prio := 0, enable := false, moderated := false, pending := false, active := false, activeOn := 0, target := 0,
    count := 0, holdStart := 0, elapsed := false }

/-- A control core's interrupt bank and debug halt (R439, R445, R457). -/
structure CoreS where
  threshold : BitVec 3
  holdoffUs : BitVec 10
  countMin : Byte
  latch : Bool
  idle : Bool
  err : Bool
  halted : Bool
  deriving DecidableEq, Repr

/-- A core at reset. -/
def CoreS.init : CoreS :=
  { threshold := 0, holdoffUs := 0, countMin := 0, latch := false, idle := false, err := false, halted := false }

/-- An error record (R396). -/
structure ErrRec where
  seq : Nat
  gtc : Nat
  cls : Nat
  severity : Nat
  source : Nat
  hull : Nat
  pod : Nat
  tile : Nat
  code : Nat
  pc : Word32
  detail : List Byte
  /-- read by ERR_LOG_READ, or pushed to every configured collector (R398) -/
  consumed : Bool
  deriving DecidableEq, Repr

/-- A collector (R400): configured, reachable, SEQ of the next record to push. -/
structure Collector where
  configured : Bool
  reachable : Bool
  next : Nat
  deriving DecidableEq, Repr

/-- RST_STATUS.DEV_STATE (R413, R414). -/
inductive DevState where
  | cold | init | ready | degraded | recovering | outOfService
  deriving DecidableEq, Repr

/-- Reset and hang state (R402–R414). -/
structure RstS where
  dev : DevState
  phase : Nat
  startPhase : Nat
  /-- GTCs of counted resets, newest first, at most 3 -/
  hist : List Nat
  /-- out-of-service flag of the non-volatile store; R413; = 0 -/
  oosFlag : Bool
  /-- the hang in progress: (trigger, capture wanted, others, escalate); = none -/
  hang : Option (Nat × Bool × Nat × Bool)
  /-- SEQ of the HANG record of the last hang -/
  hangSeq : Nat
  /-- capture buffer, 4 MiB; R408; = 0 -/
  cap : Tbl Byte
  capHeld : Bool
  capDropped : Nat
  capSeq : Nat
  /-- DEV_STATUS.DEGRADED; R482; = 0 -/
  degraded : BitVec 4
  bscanUsed : Bool
  deriving DecidableEq, Repr

/-- Probe runs and slots (R389–R395, R401). -/
structure ProbeS where
  /-- 0 none, 1 WAIT_FOLD, 2 RUNNING, 3 PASS, 4 FAIL, 5 ABORTED -/
  state : Nat
  nmu : Bool
  target : Nat
  slot : Nat
  version : Word32
  gtc : Nat
  /-- hull the pod left for the run, 0 if none -/
  hull : Nat
  share : Nat
  durationMs : Nat
  deriving DecidableEq, Repr

/-- Content of a probe slot (R389, R390, R401). -/
structure SlotS where
  kind : Nat
  version : Nat
  durationMs : Nat
  share : Nat
  bytes : Nat
  deriving DecidableEq, Repr

/-- Security state (R446–R453, R467). -/
structure SecS where
  /-- 0 MEASURING, 1 VERIFIED, 2 FAILED; = 0 -/
  state : Nat
  secVersion : Word32
  /-- M0–M4, 48 bytes each; R447; = 0 -/
  meas : List (BitVec 384)
  nonce : Word
  /-- attestation in progress for a hull; = none -/
  att : Option Nat
  /-- debug class of context 0, NOT_AFTER, and CTX0_VENDOR_EVER; = 0 -/
  ctx0 : Nat
  ctx0End : Nat
  ctx0Ever : Bool
  /-- content-signing and vendor debug public keys (x then y, 384 bits each); R389, R447 -/
  contentKey : BitVec 768
  debugKey : BitVec 768
  certDigest : BitVec 384
  islandDigest : BitVec 384
  deriving DecidableEq, Repr

/-- Identity and board (R469–R486). -/
structure BoardS where
  /-- fused pods, bit p; R3; = 0 (A8) -/
  fused : BitVec 8
  serial : BitVec 128
  slotId : BitVec 6
  enterprise : Word32
  jep106 : Half
  fwBuild : Half
  /-- DEV_HOSTLINK; = 0 -/
  linkGen : Nat
  linkWidth : Nat
  /-- coolant readings; R485, R486; = 0 -/
  inletC : Byte
  outletC : Byte
  flow : Half
  kpa : Half
  /-- the readings of the last COOLANT were out of the limits of R479; = 0 -/
  coolBad : Bool
  /-- module power, highest junction °C; = 0 -/
  powerMw : Word32
  tj : Byte
  /-- junction temperature of die 0, 1, 2 (hub); = 0 -/
  tjDie : Tbl Byte
  /-- Ethernet ports and management port up; = 0 -/
  eth0 : Bool
  eth1 : Bool
  mgmt : Bool
  /-- throttle level; R464; = 0, and the GTC of its last change, = none -/
  throttle : Nat
  throttleGtc : Option Nat
  standby : Bool
  /-- pins PWR_EN, PWR_GOOD, PERST_N, THERMTRIP_N, LEAK_N, and REFCLK_SEL as sampled at PWR_GOOD; R471; = high (the inputs
  PERST_N, LEAK_N and REFCLK_SEL: DESIGN CHOICE, their pull-ups); ALERT_N is not stored: it follows DEV_EVENT -/
  pwrEn : Bool
  pwrGood : Bool
  perstN : Bool
  thermtripN : Bool
  leakN : Bool
  refclkSel : Bool
  /-- watchdog: GTC of the last service; R403; = 0 -/
  wdogGtc : Nat
  /-- test-access port instruction; R477; = IDCODE (PRESUMED, IEEE 1149.1) -/
  tap : TapInstr
  deriving DecidableEq, Repr

/-- What the block puts out on its interfaces, in order. -/
inductive Out where
  | reply (org : Origin) (tag : Word32) (op : Nat) (status : Byte) (fields : Params)
  | datagram (e : Nat) (dst : BitVec 128) (port : Half) (bytes : List Byte)
  | msix (vector : Nat)
  | irq (core id : Nat)
  | msg (bundle : Nat) (m : Msg)
  /-- a NAK naming the next SEQ expected (R286), in the bundle's next control slot -/
  | nak (bundle : Nat) (seq : BitVec 12)
  /-- the unacknowledged flits sent again, in order, from the SEQ a NAK names (R286) -/
  | replay (bundle : Nat) (seqs : List (BitVec 12))
  | priv (kind : String) (hull group : Nat) (vals : List Nat)
  | push (collector seq : Nat)
  | segment (port hull seg : Nat)
  | trailer (hull : Nat)
  | pin (name : String) (level : Bool)
  /-- the 32 bits of IDCODE, bit 0 first (R477) -/
  | tdo (word : Word32)
  /-- what a read with a row of its own returned (R12) -/
  | regRead (a : Accessor) (off : Nat) (v : Word)
  deriving DecidableEq, Repr

/-- The state of the block. -/
structure State where
  /-- commands waiting, first in first out; = empty -/
  pending : List Instr
  /-- tiles by physical index; R4; = `Tile.init` -/
  tiles : Tbl Tile
  /-- pods 0–7; = `Pod.init` -/
  pods : Tbl Pod
  /-- sync objects by id 0–16,383; R134; = none exists -/
  sync : Tbl SyncObj
  /-- sync requests carried over the spine; R69, R71; = none -/
  spine : List SyncReq
  mem : MemS
  nmu : NmuS
  /-- engines 0–15; R225 -/
  aus : Tbl Engine
  /-- hulls 1–4 -/
  hulls : Tbl Hull
  time : TimeS
  jv : JvS
  /-- group table, ids 0–4,095; R304; = FREE -/
  groups : Tbl Group
  rings : Tbl Ring
  endpoints : Tbl Endpoint
  /-- interrupt sources: shared id, or 2048 + 64·core + id for a private one; R438 -/
  irqs : Tbl IrqSrc
  cores : Tbl CoreS
  /-- error log, oldest first, at most 4,096; R398; = empty -/
  log : List ErrRec
  /-- INTG_LOGNEXT.SEQ; = 0 -/
  nextSeq : Nat
  collectors : List Collector
  rst : RstS
  probe : ProbeS
  slots : Tbl SlotS
  /-- highest version ever loaded per KIND; R390; = 0 -/
  maxVersion : Tbl Nat
  /-- bypassed pods, INTG_PODBYP; R394; = 0 -/
  bypass : BitVec 8
  sec : SecS
  board : BoardS
  /-- registers of BAR0 held as words: event flags, counters, configuration; key the BAR0 offset; = the Reset column -/
  regs : Tbl Word
  /-- host memory as the bus shows it (the environment's); = 0 (DESIGN CHOICE) -/
  host : Tbl Byte
  /-- what went out on the interfaces, newest first (the model's own) -/
  out : List Out
  /-- index of the next free value (the model's own, log entry 3) -/
  fresh : Nat
  /-- failures of the cycle in progress, oldest first, by hull: the hulls freeze at its end (R79, the model's own); = none -/
  faults : List (Nat × ErrRec)
  deriving DecidableEq, Repr

/-- The block right after a cold boot's register reset (R14, R414: DEV_STATE reads INIT, START_PHASE reads 1). -/
def State.reset : State where
  pending := []
  tiles := []
  pods := []
  sync := []
  spine := []
  mem := { a := [], b := [], unitsA := [], unitsB := [], fwChannel := 0, usableA := 0, usableB := 0, trained := false,
           hot := 0, temp := [], marks := [], mapoutQueue := [], mapout := none, meets := [], lost := false, stuck := false }
  nmu := { slots := [], targets := [], held := [], level := [], backlog := [], scrubMark := 0, passes := [], scrubCorrected := [], failed := [] }
  aus := []
  hulls := []
  time := { gtc := 0, frac := 0, align := .unset, offset := 0, slew := 0, slewAcc := 0, good := 0, bad := 0,
            lastMsg := 0, holdStart := 0, wasSet := false }
  jv := { plan := none, bundles := [], disable := 0, seen := [], nextE2e := [], waiting := [], privWait := [],
          inbox := [], rotation := [] }
  groups := []
  rings := []
  endpoints := []
  irqs := []
  cores := []
  log := []
  nextSeq := 0
  collectors := []
  rst := { dev := .init, phase := 0, startPhase := 1, hist := [], oosFlag := false, hang := none, hangSeq := 0,
           cap := [], capHeld := false, capDropped := 0, capSeq := 0, degraded := 0, bscanUsed := false }
  probe := { state := 0, nmu := false, target := 0, slot := 0, version := 0, gtc := 0, hull := 0, share := 0,
             durationMs := 0 }
  slots := []
  maxVersion := []
  bypass := 0
  sec := { state := 0, secVersion := 0, meas := [0, 0, 0, 0, 0], nonce := 0, att := none, ctx0 := 0, ctx0End := 0,
           ctx0Ever := false, contentKey := 0, debugKey := 0, certDigest := 0, islandDigest := 0 }
  board := { fused := 0, serial := 0, slotId := 0, enterprise := 0, jep106 := 0, fwBuild := 0, linkGen := 0,
             linkWidth := 0, inletC := 0, outletC := 0, flow := 0, kpa := 0, coolBad := false, powerMw := 0, tj := 0,
             tjDie := [], eth0 := false, eth1 := false, mgmt := false, throttle := 0, throttleGtc := none, standby := false,
             pwrEn := true, pwrGood := true, perstN := true, thermtripN := true, leakN := true, refclkSel := true,
             wdogGtc := 0, tap := .idcode }
  regs := []
  host := []
  out := []
  fresh := 0
  faults := []

end Sys2Proof.Machine
end

