-- ==== Sys2Proof/Machine/Ops.lean ====
section
/-!
DEFINITION. The operations every command shares: access to the parts of the state, register words and events, interrupts (R438–R442),
error records (R396–R398), replies (R416, R420), and the stop of a program (R79, R335).
-/

namespace Sys2Proof.Machine

/-- The outcome of a command. -/
abbrev Outcome := Host.Outcome State Fault Refusal

/-! ## Parts of the state -/

def State.tile (s : State) (t : Nat) : Tile := tget Tile.init s.tiles t
def State.setTile (s : State) (t : Nat) (x : Tile) : State := { s with tiles := tput s.tiles t x }
def State.pod (s : State) (p : Nat) : Pod := tget Pod.init s.pods p
def State.setPod (s : State) (p : Nat) (x : Pod) : State := { s with pods := tput s.pods p x }
def State.hull (s : State) (h : Nat) : Hull := tget Hull.init s.hulls h
def State.setHull (s : State) (h : Nat) (x : Hull) : State := { s with hulls := tput s.hulls h x }
def State.eng (s : State) (a : Nat) : Engine := tget Engine.init s.aus a
def State.setEng (s : State) (a : Nat) (x : Engine) : State := { s with aus := tput s.aus a x }
def State.group (s : State) (g : Nat) : Group := tget Group.init s.groups g
def State.setGroup (s : State) (g : Nat) (x : Group) : State := { s with groups := tput s.groups g x }
def State.ring (s : State) (r : Nat) : Ring := tget Ring.init s.rings r
def State.setRing (s : State) (r : Nat) (x : Ring) : State := { s with rings := tput s.rings r x }
def State.endp (s : State) (e : Nat) : Endpoint := tget Endpoint.init s.endpoints e
def State.setEndp (s : State) (e : Nat) (x : Endpoint) : State := { s with endpoints := tput s.endpoints e x }
def State.irq (s : State) (k : Nat) : IrqSrc := tget IrqSrc.init s.irqs k
def State.setIrq (s : State) (k : Nat) (x : IrqSrc) : State := { s with irqs := tput s.irqs k x }
def State.core (s : State) (c : Nat) : CoreS := tget CoreS.init s.cores c
def State.setCore (s : State) (c : Nat) (x : CoreS) : State := { s with cores := tput s.cores c x }
def State.bundle (s : State) (b : Nat) : Bundle := tget Bundle.init s.jv.bundles b
def State.setBundle (s : State) (b : Nat) (x : Bundle) : State :=
  { s with jv := { s.jv with bundles := tput s.jv.bundles b x } }
def State.unitA (s : State) (c : Nat) : UnitS := tget UnitS.init s.mem.unitsA c
def State.setUnitA (s : State) (c : Nat) (x : UnitS) : State :=
  { s with mem := { s.mem with unitsA := tput s.mem.unitsA c x } }
def State.unitB (s : State) (j : Nat) : UnitS := tget UnitS.init s.mem.unitsB j
def State.setUnitB (s : State) (j : Nat) (x : UnitS) : State :=
  { s with mem := { s.mem with unitsB := tput s.mem.unitsB j x } }
/-- A unit of either tier. -/
def State.unit (s : State) : MemUnit → UnitS
  | .a c => s.unitA c
  | .b j => s.unitB j
def State.setUnit (s : State) (u : MemUnit) (x : UnitS) : State :=
  match u with
  | .a c => s.setUnitA c x
  | .b j => s.setUnitB j x

/-- Something the block puts out. -/
def State.emit (s : State) (o : Out) : State := { s with out := o :: s.out }

/-- A free value, and the state that has used it (log entry 3). -/
def State.free (s : State) : Word × State := (Config.free s.fresh, { s with fresh := s.fresh + 1 })

/-- The pod of a physical tile (R4). -/
def podOf (t : Nat) : Nat := t / 16

/-- The hull numbers. -/
def hullNos : List Nat := [1, 2, 3, 4]

/-! ## Register words -/

/-- The stored word of a register. -/
def State.reg (s : State) (off : Nat) : Nat := (tget (resetAt off) s.regs off).toNat
def State.setReg (s : State) (off v : Nat) : State := { s with regs := tput s.regs off (BitVec.ofNat 64 v) }
/-- A field of a stored word. -/
def State.regF (s : State) (off hi lo : Nat) : Nat := bitsOf (s.reg off) hi lo
/-- Sets bits of a stored word. -/
def State.regOr (s : State) (off mask : Nat) : State := s.setReg off (s.reg off ||| mask)
/-- Replaces a field of a stored word. -/
def State.setRegF (s : State) (off hi lo v : Nat) : State :=
  let w := s.reg off
  s.setReg off (w - bitsOf w hi lo * 2 ^ lo + v % 2 ^ (hi + 1 - lo) * 2 ^ lo)
/-- Adds to a saturating count field. -/
def State.regSat (s : State) (off hi lo n : Nat) : State :=
  s.setRegF off hi lo (min (s.regF off hi lo + n) (2 ^ (hi + 1 - lo) - 1))

/-- The block of the address map that a register offset lies in (R6). -/
def offsetBlock (off : Nat) : Nat := off / 0x10000

/-- While the device recovers or starts up, only the blocks DEV, TIME, CMD, INTG and RST are open (R410, R480); without power none is. -/
def State.blockOpen (s : State) (off : Nat) : Bool :=
  match s.rst.dev with
  | .cold => false
  | .init | .recovering => [0x00, 0x01, 0x05, 0x0C, 0x0D].contains (offsetBlock off)
  | _ => true

/-- The device runs. -/
def State.inService (s : State) : Bool := s.rst.dev == .ready || s.rst.dev == .degraded

/-- Offsets of the event registers. -/
def evTime : Nat := 0x010028
def evHull : Nat := 0x020008
def evPwr : Nat := 0x030010
def evCmd : Nat := 0x050008
def evMemA : Nat := 0x060008
def evMemB : Nat := 0x070008
def evNmu : Nat := 0x080008
def evAus : Nat := 0x090008
def evJv : Nat := 0x0A0008
def evColl : Nat := 0x0B0008
def evIntg : Nat := 0x0C0008
def evRst : Nat := 0x0D0008
def evDbg : Nat := 0x0E0008
def evSec : Nat := 0x0F0018
def evDev : Nat := 0x000030

/-! ## Interrupts (R438–R442) -/

/-- A source's number on its core: shared id, or private id for keys from 2,048 (key 2048 + 64·core + id). -/
def srcId (key : Nat) : Nat := if key ≥ 2048 then (key - 2048) % 64 else key

/-- The core a source delivers to. -/
def srcCore (key : Nat) (x : IrqSrc) : Nat := if key ≥ 2048 then (key - 2048) / 64 else x.target.toNat

/-- Key of a private source. -/
def privKey (c id : Nat) : Nat := 2048 + 64 * c + id

/-- A core is idle when it is in WFI with no source active on it (R439). -/
def State.coreIdleNow (s : State) (c : Nat) : Bool :=
  (s.core c).idle && !(s.irqs.any fun kx => kx.2.active && kx.2.activeOn == c)

/-- A release condition of a moderated source holds (R439). -/
def State.released (s : State) (key : Nat) (x : IrqSrc) : Bool :=
  let c := srcCore key x
  let k := s.core c
  s.coreIdleNow c || (decide (k.countMin ≠ 0 ∧ x.count.toNat ≥ k.countMin.toNat)) || x.elapsed

/-- A source is eligible (R439). -/
def State.eligible (s : State) (key : Nat) (x : IrqSrc) : Bool :=
  x.enable && x.pending && decide (x.prio.toNat > (s.core (srcCore key x)).threshold.toNat) && !x.active
    && (!x.moderated || s.released key x)

/-- The core's interrupt input (R439). -/
def State.asserted (s : State) (c : Nat) : Bool := s.irqs.any fun kx => srcCore kx.1 kx.2 == c && s.eligible kx.1 kx.2

/-- LATCH records any assertion (R439). -/
def State.icLatch (s : State) : State :=
  (upFrom 0 8).foldl (fun s c => if s.asserted c then s.setCore c { s.core c with latch := true } else s) s

/-- Starts a source's hold-off now (R439). -/
def State.startHoldoff (s : State) (key : Nat) (x : IrqSrc) : IrqSrc :=
  { x with holdStart := s.time.gtc, elapsed := decide ((s.core (srcCore key x)).holdoffUs = 0) }

/-- One event of a source (R439): PENDING, COUNT, and the hold-off start if PENDING was clear while not ACTIVE. -/
def State.signal (s : State) (key : Nat) : State :=
  let x := s.irq key
  let x' := if !x.pending && !x.active then s.startHoldoff key x else x
  (s.setIrq key { x' with pending := true, count := if x.count = 255 then 255 else x.count + 1 }).icLatch

/-- A block raises a shared interrupt. -/
def State.raise (s : State) (id : Nat) : State := s.signal id

/-- Sets a bit of an event register and raises its interrupt. -/
def State.event (s : State) (off bit id : Nat) : State := (s.regOr off (2 ^ bit)).raise id

/-- Sets bits of CMD_HEVENT; MSI-X vector 8 for each bit going from 0 to 1 (R424). -/
def State.hevent (s : State) (bit : Nat) : State :=
  if bitOf (s.reg evCmd) bit then s else (s.regOr evCmd (2 ^ bit)).emit (.msix 8)

/-! ## Error records (R396–R398) -/

/-- A record without number and time. -/
def mkRec (cls sev src hull pod tile code : Nat) (detail : List Byte) : ErrRec :=
  { seq := 0, gtc := 0, cls := cls, severity := sev, source := src, hull := hull, pod := pod, tile := tile, code := code,
    pc := 0xFFFFFFFF, detail := detail, consumed := false }

/-- The 64 bytes of a record (R396). -/
def ErrRec.bytes (r : ErrRec) : List Byte :=
  natLe 8 r.seq ++ natLe 8 r.gtc ++ natLe 1 r.cls ++ natLe 1 r.severity ++ natLe 2 r.source ++ natLe 1 r.hull
    ++ natLe 1 r.pod ++ natLe 1 r.tile ++ natLe 1 0 ++ natLe 2 r.code ++ natLe 2 0 ++ natLe 4 r.pc.toNat
    ++ slice r.detail 0 32

/-- A collector's next record: the one it is to get, or the oldest held where that is gone. -/
def State.pushNext (s : State) (k : Collector) : Option ErrRec := s.log.find? fun r => decide (k.next ≤ r.seq)

/-- Offers a reachable collector its next record. -/
def State.pushTo (s : State) (i : Nat) : State :=
  match s.collectors[i]? with
  | some k =>
    match s.pushNext k with
    | some r => if k.configured ∧ k.reachable then s.emit (.push i r.seq) else s
    | none => s
  | none => s

/-- A new record goes to the collectors that wait for nothing older (R400). -/
def State.pushNew (s : State) (seq : Nat) : State :=
  (upFrom 0 s.collectors.length).foldl (fun (s : State) i =>
    match s.collectors[i]?.bind s.pushNext with
    | some r => if r.seq = seq then s.pushTo i else s
    | none => s) s

/-- Appends a record; the log holds the last 4,096; one overwritten before it is consumed is lost (R398). -/
def State.log1 (s : State) (r : ErrRec) : State :=
  let r := { r with seq := s.nextSeq, gtc := s.time.gtc }
  let l := s.log ++ [r]
  let s := { s with log := l.drop (l.length - 4096), nextSeq := s.nextSeq + 1 }
  let s := s.pushNew r.seq
  match l with
  | o :: _ => if l.length > 4096 ∧ o.consumed = false then (s.regSat 0x0C0018 63 32 1).event evIntg 5 581 else s
  | [] => s

/-! ## Replies (R416, R420, R422, R424, R426) -/

def sDONE : Byte := 0x00
def sACCEPTED : Byte := 0x01
def sBADOPCODE : Byte := 0x10
def sBADPARAM : Byte := 0x11
def sNORES : Byte := 0x12
def sDENIED : Byte := 0x13
def sBUSY : Byte := 0x14
def sLEASEBROKEN : Byte := 0x15
def sWAKEABORT : Byte := 0x16
def sPARTIAL : Byte := 0x20
def sNAN : Byte := 0x21
def sFAULT : Byte := 0x30
def sOOS : Byte := 0x31

/-- ORIGIN (R416). -/
def originByte : Origin → Nat
  | .ring r => r
  | .udp e => e + 0x10

/-- The 64 bytes of a reply (R416). -/
def replyBytes (c : Cmd) (op : Nat) (st : Byte) (gtc tail : Nat) (f : Params) : List Byte :=
  natLe 2 op ++ [st] ++ natLe 1 (originByte c.org) ++ natLe 4 c.tag.toNat ++ natLe 8 gtc ++ natLe 2 tail ++ zeros 14
    ++ natLe 32 f.toNat

/-- A ring that drains becomes DISABLED once every fetched command has replied (R423). -/
def Ring.settle (x : Ring) : Ring :=
  match x.state with
  | .draining => if x.inProgress.isEmpty then { x with state := .disabled } else x
  | _ => x

/-- A fault of R420: the ring stops fetching and posting (R423). -/
def State.ringFault (s : State) (r : Nat) : State :=
  let x := s.ring r
  match x.state with
  | .running | .draining => (s.setRing r { x with state := .fault, held := [] }).hevent r
  | _ => s

/-- The one reply of a command: written at RTAIL of its ring with MSI-X for NOTIFY, or sent to the datagram's source. A command
outstanding at a freeze gets none (R407). -/
def State.reply (s : State) (c : Cmd) (op : Nat) (st : Byte) (f : Params) (tail : List Byte := []) : State :=
  if s.rst.dev = .cold ∨ s.rst.dev = .recovering then s
  else
    let s := s.emit (.reply c.org c.tag op st f)
    let b := replyBytes c op st s.time.gtc tail.length f
    match c.org with
    | .ring r =>
      let x := s.ring r
      match x.state with
      | .running | .draining =>
        if !s.board.perstN then s.ringFault r else
        let size := 2 ^ x.rplLog2
        let a := x.rbase.toNat + 64 * (x.rtail.toNat % size)
        let s := { s with host := putBytes s.host a b }
        let s := s.setRing r (Ring.settle { x with rtail := x.rtail + 1, inProgress := x.inProgress.erase (c, op),
                                                   replied := min (x.replied + 1) 0xFFFFFFFF })
        if c.flags.toNat % 2 = 1 then s.emit (.msix r) else s
      | _ => s
    | .udp e =>
      let x := s.endp e
      match x.recent.find? (fun q => q.1 == c.tag) with
      | some q =>
        let s := s.setEndp e { x with recent := x.recent.map fun q =>
          if q.1 == c.tag then (q.1, some (b ++ tail), q.2.2.1, q.2.2.2) else q }
        s.emit (.datagram e q.2.2.1 q.2.2.2 (b ++ tail))
      | none => s

/-- An ENV record (R397, R479): 1 coolant, 2 leak, 3 throttle change, 4 trip. -/
def State.envRec (s : State) (cond sev : Nat) : State :=
  let b := s.board
  s.log1 (mkRec 0x0F sev 0x0600 0 0xFF 0xFF 0 (natLe 1 cond ++ [b.inletC, b.outletC] ++ natLe 2 b.flow.toNat ++ natLe 2 b.kpa.toNat
    ++ [b.tj] ++ natLe 1 b.throttle))

/-! ## Checkpoint failure and the stop of a program -/

/-- Adds to, or takes from, the drain backlog of a unit for an owner (R219). -/
def State.drainAt (s : State) (h u : Nat) (f : Nat → Nat) : State :=
  let k := 8 * u + h
  let b := tget (0, 0, 0) s.nmu.backlog k
  { s with nmu := { s.nmu with backlog := tset (0, 0, 0) s.nmu.backlog k (b.1, f b.2.1, b.2.2) } }

/-- An owner's drain backlog is gone on every unit: its checkpoint failed, or its delta list is formed anew. -/
def State.drainClear (s : State) (h : Nat) : State := (upFrom 0 12).foldl (fun (s : State) u => s.drainAt h u fun _ => 0) s

/-- A checkpoint fails: its state, and a record of class CKPT with the cause (R365, R397). -/
def State.ckptFail (s : State) (h cause : Nat) : State :=
  let x := s.hull h
  let c := x.ckpt
  let s := s.setHull h { x with ckpt := { c with state := 5, cause := cause, mustFull := true, object := [], delta := [] } }
  (s.drainClear h).log1 (mkRec 0x0D 2 0x0600 h 0xFF 0xFF cause (natLe 8 c.id.toNat ++ natLe 8 c.step ++ natLe 1 cause))

/-- The pods of a hull, ascending. -/
def State.podsOf (s : State) (h : Nat) : List Nat := (upFrom 0 8).filter fun p => (s.pod p).hull == h

/-- The physical tiles that hold a position of the hull's program. -/
def State.tilesOf (s : State) (h : Nat) : List Nat :=
  (upFrom 0 128).filter fun t => (s.tile t).live && (s.pod (podOf t)).hull == h

/-- Store writes that were made and are not yet readable, in issue order. -/
def Tile.madeWrites (x : Tile) : Tbl Byte :=
  x.pend.foldl (fun st p => match p.dest with | .store a b => putBytes st a b | _ => st) x.store

/-- A tile stops as a freeze does (R79, R95, R107): results not yet usable are discarded, shifts abandoned; what was already
written to the tile store stands (log entry 10). -/
def Tile.halt (x : Tile) (freeze : Bool) : Tile :=
  { x with live := false, frozen := freeze || x.frozen, store := x.madeWrites, pend := [], ldw := none, mma := none,
           drain := none, xfer := none, puts := [], slots := 0, dests := [], banks := [], branch := none, cvtNow := none }

/-- An engine with its commands abandoned (R251). -/
def Engine.idled (e : Engine) : Engine := { e with queue := [], sent := [], phase := 0, left := 0, settle := 0, fetched := [] }

/-- A TILE-mode engine stops: commands abandoned, structures freed (R227, R251); its banks are no longer in force (R252). -/
def Engine.release (e : Engine) : Engine :=
  if e.tileMode then { e.idled with tileMode := false, bankBase := 0, bankCount := 0, structs := [] } else e

/-- What a hull's program looks like once it has stopped. -/
def Prog.halted (p : Prog) (reason : Nat) (st : Byte) : Prog :=
  { p with state := 4, reason := reason, stopStatus := st, stops := [], logWait := false, evalRun := none,
           ops := [] }

/-- A hull's program stops (R335): the hull is GRANTED, tiles halt, its ACTIVE pods are IDLE (R459), declared engines are
released; an armed launch is cancelled; an armed checkpoint fails with cause STOPPED (R365); a PROG_STOP that waited replies. A
`freeze` (R79, R405) sets FROZEN in every tile of the hull. -/
def State.stopHull (s : State) (h reason : Nat) (st : Byte) (freeze : Bool) : State :=
  let x := s.hull h
  match x.state, x.prog with
  | .running, some p =>
    let waiting := p.stops
    let s := (s.tilesOf h).foldl (fun s t => s.setTile t ((s.tile t).halt freeze)) s
    let s := if freeze then (s.podsOf h).foldl (fun s p => (upFrom (16 * p) 16).foldl (fun s t =>
        s.setTile t { s.tile t with frozen := true }) s) s else s
    let s := (s.podsOf h).foldl (fun s p =>
      let y := s.pod p
      let s := (s.setEng (2 * p) ((s.eng (2 * p)).release)).setEng (2 * p + 1) ((s.eng (2 * p + 1)).release)
      s.setPod p { y with state := if y.state = .active then .idle else y.state, reqs := y.reqs.filter (·.tile.isNone),
                           landings := [], hold := 0 }) s
    let s := { s with spine := s.spine.filter fun q => q.hull != h,
                      nmu := { s.nmu with targets := s.nmu.targets.filter fun q => q.hull != h } }
    let s := s.setHull h { x with state := .granted, prog := some (p.halted reason st), armed := false,
                                  launch := if x.armed then x.lastLaunch else x.launch, holds := 0 }
    let s := if x.ckpt.state = 1 then s.ckptFail h 6 else s
    waiting.foldl (fun (s : State) (c : Bool × Cmd) => s.reply c.2 0x0302 sDONE 0) s
  | _, _ => s

/-! ## Contract failures (R78, R79) -/

/-- Bits of POD_TFAULT (R89). -/
def tfBadBundle : Nat := 0
def tfCollision : Nat := 1
def tfBank : Nat := 2
def tfBound : Nat := 3
def tfOverflow : Nat := 4
def tfInFlight : Nat := 5
def tfBusy : Nat := 6
def tfStoreUe : Nat := 7
def tfOverdraw : Nat := 8

/-- Records a fault in a tile's POD_TFAULT; FAULT_PC is that of the first fault since the register was cleared. -/
def Tile.fault (x : Tile) (bit : Nat) (q : Option Nat) : Tile :=
  { x with tfault := x.tfault ||| BitVec.ofNat 9 (2 ^ bit),
           faultPc := if x.tfault = 0 then x.pc else x.faultPc,
           faultQueue := match q with | some q => BitVec.ofNat 3 q | none => x.faultQueue }

/-- PC field of an error record: bundle index and bank. -/
def Tile.recPc (x : Tile) : Word32 := BitVec.ofNat 32 (x.pc.toNat + bitAt x.bank 13)

/-- The hull's program stops with FAULT as under R79: marked, logged with a record, interrupt 98 raised. -/
def State.faultHull (s : State) (h : Nat) (r : ErrRec) : State :=
  ((s.stopHull h 3 sFAULT true).log1 r).raise 98

/-- A failure of the cycle in progress: its hull freezes at the cycle's end (R79). -/
def State.faultLater (s : State) (h : Nat) (r : ErrRec) : State := { s with faults := s.faults ++ [(h, r)] }

/-- A hull's failures of a cycle take effect: it stops once, and each has its record (R79). -/
def State.freezeHull (s : State) (rs : List (Nat × ErrRec)) (h : Nat) : State :=
  let mine := rs.filter fun r => r.1 == h
  if mine.isEmpty then s
  else (mine.foldl (fun (s : State) r => s.log1 r.2) (s.stopHull h 3 sFAULT true)).raise 98

/-- The end of a cycle: the hulls that failed in it freeze (R79), in the order of their first failures. -/
def State.freezeFaults (s : State) : State :=
  if s.faults.isEmpty then s
  else
    let rs := s.faults
    (dedup (rs.map (·.1))).foldl (fun s h => s.freezeHull rs h) { s with faults := [] }

/-- A contract failure of a tile: recorded in POD_TFAULT, and the owning hull stops at the end of the cycle (R79). -/
def State.contract (s : State) (t bit : Nat) (q : Option Nat := none) : State :=
  let x := (s.tile t).fault bit q
  let s := s.setTile t x
  let p := podOf t
  let h := (s.pod p).hull
  s.faultLater h { mkRec 0x06 2 x.lam h p (t % 16) bit (natLe 4 x.tfault.toNat ++ natLe 1 x.faultQueue.toNat)
                  with pc := x.recPc }

/-- An uncorrectable store error met by a tile's access (R73); the record's syndrome is a free value (log entry 3). -/
def State.storeUe (s : State) (t addr : Nat) : State :=
  let p := podOf t
  let s := s.setTile t ((s.tile t).fault tfStoreUe none)
  let s := s.regSat (0x100008 + 0x20000 * p) 47 32 1
  let h := (s.pod p).hull
  let f := s.free
  f.2.faultLater h { mkRec 0x02 2 (s.tile t).lam h p (t % 16) 0 (natLe 8 addr ++ natLe 8 f.1.toNat)
                    with pc := (s.tile t).recPc }

/-- A corrected store error counts in POD_ECC (R72). -/
def State.storeCe (s : State) (p : Nat) : State := s.regSat (0x100008 + 0x20000 * p) 31 0 1

/-! ## Sync status -/

/-- Enters a status into a tile's sync status: the first other than DONE in issue order stands (R138). -/
def Tile.sync (x : Tile) (st : Byte) (stamp : Nat) : Tile :=
  if st ≠ 0 ∧ (x.syncStatus = 0 ∨ stamp < x.syncStamp) then { x with syncStatus := st, syncStamp := stamp } else x

/-- The tick period P in microseconds (R49). -/
def State.periodUs (s : State) : Nat := s.regF 0x010020 13 0

end Sys2Proof.Machine
end

