-- ==== Sys2Proof/Machine/Operands.lean ====
section
/-!
DEFINITION. Operand forms of the bundle's slots: scalar registers and predicates (R118), tile-store addresses and accesses (R98, R78),
lane groups (R108), matrix classes and element places (R96), format codes (R109, R111).
-/

namespace Sys2Proof.Machine

/-! ## Scalar registers -/

/-- s[i]; s0 reads as zero (R118). -/
def Tile.sreg (x : Tile) (i : BitVec 5) : Word := if i = 0 then 0 else tget 0 x.s i.toNat

/-- p[i]; p0 reads as one (R118). -/
def Tile.preg (x : Tile) (i : BitVec 3) : Bool := i == 0 || x.p.getLsbD i.toNat

/-- Writes s[i]; a write to s0 has no effect (R118). -/
def Tile.setS (x : Tile) (i : Nat) (v : Word) : Tile := if i = 0 then x else { x with s := tset 0 x.s i v }

/-- Writes p[i]; a write to p0 has no effect (R118). -/
def Tile.setP (x : Tile) (i : Nat) (b : Bool) : Tile :=
  if i = 0 then x
  else { x with p := if b then x.p ||| BitVec.ofNat 8 (2 ^ i) else x.p &&& ~~~(BitVec.ofNat 8 (2 ^ i)) }

/-! ## The tile store -/

/-- End of the tile store (R64, R98). -/
def tsEnd : Nat := 0x300000

/-- End of the pod store (R64). -/
def psEnd : Nat := 0x1000000

/-- A tile-store address: s[SB] with bits [5:0] taken as zero plus 64 × OFF, mod 2^22 (R98). -/
def Tile.tsAddr (x : Tile) (sb : BitVec 5) (off : BitVec 16) : Nat :=
  ((x.sreg sb).toNat / 64 * 64 + off.toNat * 64) % 2 ^ 22

/-- Bytes of the tile store; zero at and above 0x30_0000 (R98). -/
def Tile.tsRead (x : Tile) (a n : Nat) : List Byte :=
  (upFrom a n).map fun i => if i < tsEnd then tget 0 x.store i else 0

/-- Writes bytes of the tile store; without effect at and above 0x30_0000 (R98). -/
def Tile.tsWrite (x : Tile) (a : Nat) (b : List Byte) : Tile := { x with store := putBytes x.store a (b.take (tsEnd - a)) }

/-- Adds a result on its way, behind those of instructions issued earlier or together (R93). -/
def pendInsert (p : Pend) : List Pend → List Pend
  | [] => [p]
  | q :: r => if q.stamp ≤ p.stamp then q :: pendInsert p r else p :: q :: r

/-- A result usable `left` issue cycles from now, of an instruction with a stamp. -/
def Tile.pendAt (x : Tile) (stamp left : Nat) (d : Dest) : Tile :=
  { x with pend := pendInsert { left := left, stamp := stamp, dest := d } x.pend }

/-- Flags raised by an instruction, usable with its result (log entry 9). -/
def Tile.pendFlags (x : Tile) (stamp left : Nat) (f : Flg) : Tile :=
  if f = 0 then x else x.pendAt stamp left (.flags f)

/-- The 64-byte granules of a byte range. -/
def granules (a n : Nat) : List Nat := if n = 0 then [] else upFrom (a / 64) ((a + n - 1) / 64 + 1 - a / 64)

/-- Does a list hold a number twice? -/
def hasDup : List Nat → Bool
  | [] => false
  | a :: r => r.contains a || hasDup r

/-- Accesses of granules in this cycle, one per bank (R78, R98); `own` granules are a scale word read with its operand,
which does not conflict with that operand (log entry 4). None on a conflict. A granule past the store sets TS_RANGE. -/
def Tile.access (x : Tile) (gs own : List Nat) : Option Tile :=
  let inr := fun g => decide (g < tsEnd / 64)
  let bs := (gs.filter inr).map (· % 8)
  let os := (own.filter inr).map (· % 8)
  if hasDup bs || (bs ++ os).any (x.banks.contains ·) then none
  else
    let x := { x with banks := bs ++ os ++ x.banks }
    some (if (gs ++ own).all inr then x else x.pendFlags x.cyc 1 fTSRANGE)

/-! ## In-flight ranges (R78, R127) -/

/-- Operation of an NMU descriptor's request block (R210). -/
def Desc.op (d : Desc) : Nat := fieldLe d.block 0 1

/-- Ranges of the tile store a descriptor will write: start and length. -/
def Desc.dests (d : Desc) : List (Nat × Nat) :=
  if d.bad then []
  else match d.kind with
    | 1 => if d.flags.toNat / 2 % 4 = 0 then [(d.loc, d.length)] else []
    | 3 => [(d.loc, d.length)]
    | 4 => if d.op = 4 then [(d.loc, 32)] else if d.op = 5 then [(d.loc, 16)] else []
    | _ => []

/-- Ranges of the tile store a descriptor reads. -/
def Desc.srcs (d : Desc) : List (Nat × Nat) :=
  if d.bad then []
  else match d.kind with
    | 2 => if d.flags.toNat / 4 % 2 = 0 then [(d.loc, d.length)] else []
    | 3 => [(d.aux, 4 * d.count)]
    | 4 => if d.op = 1 then [(d.loc, d.length)]
           else if d.op = 3 then [(d.loc, d.length), (fieldLe d.block 0x18 4, 4 * fieldLe d.block 6 2)] else []
    | _ => []

/-- Ranges of the pod store a POD descriptor writes or reads. -/
def Desc.podRange (d : Desc) (write : Bool) : List (Nat × Nat) :=
  if d.bad || d.flags.toNat / 4 % 2 = 0 then []
  else if d.kind = (if write then 1 else 2) then [(d.loc, d.length)] else []

/-- Do two byte ranges meet? -/
def meet (a n : Nat) (r : Nat × Nat) : Bool := decide (a < r.1 + r.2 ∧ r.1 < a + n)

/-- Descriptors of a tile that no met wait covers yet. -/
def Tile.open_ (x : Tile) : List Desc := x.queues.flatMap fun q => q.2.uncovered ++ q.2.descs

/-- Is an access of the tile store to data of a descriptor before its covering wait (R78)? -/
def Tile.inFlight (x : Tile) (write : Bool) (a n : Nat) : Bool :=
  x.open_.any fun d => d.dests.any (meet a n) || (write && d.srcs.any (meet a n))

/-- Likewise for a pod-store access, over the pod's tiles. -/
def State.podInFlight (s : State) (p : Nat) (write : Bool) (a n : Nat) : Bool :=
  (upFrom (16 * p) 16).any fun t => (s.tile t).open_.any fun d =>
    (d.podRange true).any (meet a n) || (write && (d.podRange false).any (meet a n))

/-! ## Lanes and groups -/

/-- Number of groups GM selects, from group 0 (R108). -/
def gmGroups (gm : BitVec 2) : Nat :=
  if gm = 0 then 16 else if gm = 1 then 8 else if gm = 2 then 4 else 1

/-- The lanes GM selects. -/
def gmLanes (gm : BitVec 2) : List Nat := upFrom 0 (64 * gmGroups gm)

/-- Lane ℓ of v[i]. -/
def Tile.lane (x : Tile) (i l : Nat) : Word32 := tget 0 x.v (1024 * i + l)

/-- Lanes of a vector register written. -/
def Tile.setLanes (x : Tile) (i : Nat) (ls : Tbl Word32) : Tile :=
  { x with v := tsets 0 x.v (ls.map fun lv => (1024 * i + lv.1, lv.2)) }

/-! ## Matrix formats (R96) -/

/-- Classes of matrix formats. -/
inductive MClass where
  | f16 | f8 | m8 | m4 | i8 | i4
  deriving DecidableEq, Repr

/-- The class of a format code; none for the drain-only and unused codes (R96). -/
def mClass (c : BitVec 4) : Option MClass :=
  match c.toNat with
  | 0 | 1 => some .f8
  | 2 | 3 => some .f16
  | 4 | 5 | 6 | 7 | 9 => some .m8
  | 8 => some .m4
  | 10 => some .i8
  | 11 => some .i4
  | _ => none

/-- K (R96). -/
def MClass.k : MClass → Nat
  | .f16 => 64
  | .m4 | .i4 => 256
  | _ => 128

/-- Integer classes accumulate in INT32 (R96). -/
def MClass.int : MClass → Bool
  | .i8 | .i4 => true
  | _ => false

/-- Classes with scale words (R100). -/
def MClass.scaled : MClass → Bool
  | .m8 | .m4 => true
  | _ => false

/-- Classes with saturation retry (R96). -/
def MClass.retry : MClass → Bool
  | .f16 | .f8 => false
  | _ => true

/-- Bits of an element of a format code. -/
def mBits (c : BitVec 4) : Nat :=
  match c.toNat with
  | 2 | 3 => 16
  | 6 | 7 => 6
  | 8 | 11 => 4
  | _ => 8

/-- Element k of a 128-byte row or column (R96), as its code. -/
def mElem (c : BitVec 4) (row : List Byte) (k : Nat) : Nat :=
  let b := mBits c
  let lo := b * k
  leNat ((row.drop (lo / 8)).take 3) / 2 ^ (lo % 8) % 2 ^ b

/-- An element's value (R141, R143, R145); FP formats and MXINT8. -/
def mDecode (c : BitVec 4) (w : Nat) : Val :=
  match c.toNat with
  | 0 | 4 => decodeF e4m3 w
  | 1 | 5 => decodeF e5m2 w
  | 2 => decodeF bf16 w
  | 3 => decodeF fp16 w
  | 6 => decodeF e2m3 w
  | 7 => decodeF e3m2 w
  | 8 => decodeF e2m1 w
  | _ => let q := toSigned 8 w; .fin (decide (q < 0)) q.natAbs (-6)

/-- Fraction bits of a format's elements (R145). -/
def mFrac (c : BitVec 4) : Nat :=
  match c.toNat with
  | 0 | 4 => 3
  | 1 | 5 | 7 => 2
  | 2 => 7
  | 3 => 10
  | 6 => 3
  | 8 => 1
  | _ => 6

/-- An integer element's value (R142). -/
def mInt (c : BitVec 4) (w : Nat) : Int := toSigned (mBits c) w

/-! ## V1 and drain formats (R105, R111) -/

/-- Formats of V1 codes and drain outputs. -/
inductive VFmt where
  | f32 | bf | f16 | e43 | e52 | i32 | i8 | f64
  deriving DecidableEq, Repr

/-- V1 format codes (R111). -/
def vFmt (c : BitVec 4) : Option VFmt :=
  match c.toNat with
  | 0 => some .f32
  | 1 => some .bf
  | 2 => some .f16
  | 3 => some .e43
  | 4 => some .e52
  | 5 => some .i32
  | 6 => some .i8
  | 7 => some .f64
  | _ => none

/-- Drain output codes (R96, R105). -/
def drainFmt (c : BitVec 4) : Option VFmt :=
  match c.toNat with
  | 0 => some .e43
  | 1 => some .e52
  | 2 => some .bf
  | 3 => some .f16
  | 10 => some .i8
  | 12 => some .f32
  | 13 => some .i32
  | _ => none

/-- Width in bits. -/
def VFmt.bits : VFmt → Nat
  | .f32 | .i32 => 32
  | .bf | .f16 => 16
  | .e43 | .e52 | .i8 => 8
  | .f64 => 64

/-- Decodes an element. -/
def VFmt.decode (f : VFmt) (w : Nat) : Val :=
  match f with
  | .f32 => decodeF fp32 w
  | .bf => decodeF bf16 w
  | .f16 => decodeF fp16 w
  | .e43 => decodeF e4m3 w
  | .e52 => decodeF e5m2 w
  | .i32 => valOfInt (toSigned 32 w)
  | .i8 => valOfInt (toSigned 8 w)
  | .f64 => decodeF fp64 w

/-- Rounds and encodes an element. -/
def VFmt.encode (f : VFmt) (r : Rnd) (v : Val) : Nat × Flg :=
  match f with
  | .f32 => encodeF fp32 r v
  | .bf => encodeF bf16 r v
  | .f16 => encodeF fp16 r v
  | .e43 => encodeF e4m3 r v
  | .e52 => encodeF e5m2 r v
  | .i32 => encodeInt 32 r v
  | .i8 => encodeInt 8 r v
  | .f64 => encodeF fp64 r v

/-- Exact conversions, for which RND must be 0b00 (R161). -/
def exactCvt (src dst : VFmt) : Bool :=
  match dst, src with
  | .f32, .bf | .f32, .f16 | .f32, .e43 | .f32, .e52 | .f32, .i8 => true
  | .f16, .e43 | .f16, .e52 | .f16, .i8 => true
  | .bf, .e43 | .bf, .e52 | .bf, .i8 => true
  | .i32, .i8 => true
  | _, _ => false

/-- The rounding mode of an RND field; `r` the 12 bits of a stochastic draw (R105). -/
def rndOf (rnd : BitVec 2) (r : Nat) : Rnd := if rnd = 0 then .rne else if rnd = 1 then .sr r else .rtz

end Sys2Proof.Machine
end

