-- ==== Sys2Proof/Machine/Rng.lean ====
section
/-! DEFINITION. Random streams (R165–R174): the origin function, counter blocks, lane generators and their jump. -/

namespace Sys2Proof.Machine

/-- Rotation left of a 64-bit word. -/
def rotl64 (x : Word) (n : Nat) : Word := x.rotateLeft n

/-- The rotation constants of R166. -/
def originRot : List Nat := [14, 52, 23, 5, 37, 25, 46, 12, 58, 9, 33, 40]

/-- One round of the origin function (R166). -/
def originRound (k0 k1 : Word) (x : Word × Word) (r : Nat × Nat) : Word × Word :=
  let x0 := x.1 + x.2
  let x1 := rotl64 x.2 r.2 ^^^ x0
  if r.1 % 4 = 3 then
    let j := r.1 / 4
    let kk := fun i => if i % 2 = 0 then k0 else k1
    (x0 + kk (j + 1), x1 + kk j + BitVec.ofNat 64 (j + 1))
  else (x0, x1)

/-- The origin function (R166). -/
def origin (k0 k1 c0 c1 : Word) : Word × Word :=
  ((upFrom 0 12).zip originRot).foldl (originRound k0 k1) (c0 ^^^ k0, c1 ^^^ k1)

/-- The sampling block of a domain, step, tensor and block index (R167). -/
def samplingBlock (k0 k1 : Word) (domain step tensor ix : Nat) : Word × Word :=
  origin k0 k1 (BitVec.ofNat 64 (domain % 2 ^ 16 + step % 2 ^ 40 * 2 ^ 16))
    (BitVec.ofNat 64 (tensor % 2 ^ 20 + ix % 2 ^ 44 * 2 ^ 20))

/-- The lane-seed block (R167). -/
def laneSeedBlock (k0 k1 : Word) (domain step lam rho : Nat) : Word × Word :=
  origin k0 k1 (BitVec.ofNat 64 (domain % 2 ^ 16 + step % 2 ^ 40 * 2 ^ 16 + 1 * 2 ^ 56))
    (BitVec.ofNat 64 (0xFFFFF + lam % 128 * 2 ^ 20 + rho % 2 ^ 32 * 2 ^ 32))

/-- STREAM_KEY_CHECK (R168). -/
def keyCheck (k0 k1 : Word) : Word := (origin k0 k1 0xFF00000000000000 0).1

/-- Word x mod 4 of a block (R169). -/
def blockWord (b : Word × Word) (x : Nat) : Word32 :=
  let w := if x % 4 < 2 then b.1 else b.2
  if x % 2 = 0 then w.truncate 32 else (w >>> 32).truncate 32

/-- V.DRAW's word for an element index (R169). -/
def drawWord (k0 k1 : Word) (domain step tensor x : Nat) : Word32 :=
  blockWord (samplingBlock k0 k1 domain step tensor (x / 4)) x

/-- The 12 bits of a lane state's next draw (R170). -/
def laneOut (ab : Word × Word) : Nat := ((ab.1 + rotl64 ab.2 29) >>> 52).toNat

/-- A lane state advanced by one draw (R170). -/
def laneNext (ab : Word × Word) : Word × Word :=
  let t := ab.1 ^^^ ab.2
  (rotl64 ab.1 24 ^^^ t ^^^ (t <<< 16), rotl64 t 37)

/-- A lane state advanced by n draws. -/
def laneAdvance : Nat → Word × Word → Word × Word
  | 0, ab => ab
  | n + 1, ab => laneAdvance n (laneNext ab)

/-- The jump over 2^64 draws: one bit of a constant (R172). -/
def jumpBit (w : Word) (st : (Word × Word) × (Word × Word)) (bit : Nat) : (Word × Word) × (Word × Word) :=
  let j := if w.getLsbD bit then (st.1.1 ^^^ st.2.1, st.1.2 ^^^ st.2.2) else st.1
  (j, laneNext st.2)

/-- The jump function (R172). -/
def jump (ab : Word × Word) : Word × Word :=
  let s := (upFrom 0 64).foldl (jumpBit 0xDF900294D8F554A5) ((0, 0), ab)
  ((upFrom 0 64).foldl (jumpBit 0x170865DF4B3201FC) s).1

/-- A state jumped i times (R173). -/
def jumpN : Nat → Word × Word → Word × Word
  | 0, ab => ab
  | i + 1, ab => jumpN i (jump ab)

/-- The seed a reseed takes from the lane-seed block (R173). -/
def reseedState (b : Word × Word) : Word × Word := if b.1 = 0 ∧ b.2 = 0 then (1, 0) else b

/-- The 12 bits of draw number n (from 0) of lane i since a reseed with the given seed (R170, R173). -/
def laneDraw (seed : Word × Word) (i n : Nat) : Nat := laneOut (laneAdvance n (jumpN i seed))

end Sys2Proof.Machine
end

