-- ==== Sys2Proof/Machine/Tile.lean ====
section
/-!
DEFINITION. How a tile issues the slots of a bundle (R91–R94, R119, R120), what an activation is charged (R80, R83), lane draws (R106)
and how results become usable (R93).
-/

namespace Sys2Proof.Machine

/-- Slot numbers, in the order of the bundle (R91). -/
def slM : Nat := 0
def slV0 : Nat := 1
def slV1 : Nat := 2
def slS0 : Nat := 3
def slS1 : Nat := 4
def slA : Nat := 5
def slY : Nat := 6

/-- A tile takes part in its pod's timetable in this cycle: it holds a position of a running program that no firmware hold, debug
halt, freeze or pod hold keeps from issuing (R70, R79, R102, R402, R456). -/
def State.onTimetable (s : State) (t : Nat) : Bool :=
  let x := s.tile t
  let p := s.pod (podOf t)
  let h := s.hull p.hull
  decide (t < 128) && x.live && !x.frozen && p.hold == 0 && p.state == .active && h.state == .running && !h.halted
    && h.holds == 0

/-- The tile issues a bundle in this cycle: not stalled on a wait, not between a wait's completion and its c + 2, not at its marker;
a bundle that already issued a slot goes on to its end (R70, R139). -/
def State.issuesNow (s : State) (t : Nat) : Bool :=
  let x := s.tile t
  s.onTimetable t && x.resumeIn == 0 && ((x.wait.isNone && x.syncWait.isNone && !x.eot) || x.slots != 0)

/-- Slot k of the bundle of this cycle can still be issued: the sender names a bundle's slots in slot order (log entry 2). -/
def State.slotOpen (s : State) (t k : Nat) : Bool := s.issuesNow t && decide ((s.tile t).slots.toNat < 2 ^ k)

/-- Destination kinds of R92 and R120: accumulator, weight buffer, vector, long, scalar register, predicate. -/
def dkAcc : Nat := 0
def dkWb : Nat := 1
def dkV : Nat := 2
def dkLg : Nat := 3
def dkS : Nat := 4
def dkP : Nat := 5

/-- Issues slot k of a tile's bundle: nothing where the tile issues no bundle; BAD_BUNDLE where the slot's fields or the bundle's
destinations break R92 or R120, and no further slot of it is performed; else the slot's own effect. -/
def State.slot (s : State) (t k : Nat) (ok : Bool) (dests : List (Nat × Nat)) (f : State → State) : State :=
  if s.slotOpen t k then
    let x := s.tile t
    if ok && !(dests.any x.dests.contains) then
      f (s.setTile t { x with slots := x.slots ||| BitVec.ofNat 7 (2 ^ k), dests := dests ++ x.dests })
    else (s.setTile t { x with slots := 0x7F }).contract t tfBadBundle
  else s

/-- Changes a tile. -/
def State.updTile (s : State) (t : Nat) (f : Tile → Tile) : State := s.setTile t (f (s.tile t))

/-- A result of the instruction issued now, usable after `lat` issue cycles, with the flags it raises. -/
def State.result (s : State) (t lat : Nat) (d : Dest) (f : Flg) : State :=
  s.updTile t fun x => (x.pendAt x.cyc lat d).pendFlags x.cyc lat f

/-- Accesses the tile store in this cycle: a bank conflict or an in-flight access is a contract failure and the access is not
performed (R78, R79). `rs` byte ranges, `own` the scale word's granules. -/
def State.tsAccess (s : State) (t : Nat) (write : Bool) (rs : List (Nat × Nat)) (own : List (Nat × Nat))
    (f : State → State) : State :=
  let x := s.tile t
  if (rs ++ own).any fun r => x.inFlight write r.1 r.2 then s.contract t tfInFlight
  else match x.access (rs.flatMap fun r => granules r.1 r.2) (own.flatMap fun r => granules r.1 r.2) with
    | none => s.contract t tfBank
    | some x => f (s.setTile t x)

/-- What the next part of an operation meets, and what is left for the parts after it. -/
def nextEcc (l : List Ecc) : Ecc := l.headD .ok

/-- What a store read meets (R72, R73). -/
def State.tsEcc (s : State) (t a : Nat) (e : Ecc) (f : State → State) : State :=
  match e with
  | .ok => f s
  | .corrected => f (s.storeCe (podOf t))
  | .uncorrectable => s.storeUe t a

/-! ## Power tokens (R80, R83) -/

/-- Length of the ledger's window in cycles. -/
def ledgerWindow : Nat := 12000

/-- Metered charges within the most recent 12,000 cycles. -/
def Pod.ledgerSum (p : Pod) : Nat :=
  sumOf ((p.ledger.filter fun c => decide (p.cycle < c.1 + ledgerWindow)).map (·.2))

/-- Charges token-cycles to a pod's ledger for an activation of a tile; an overdraw is not performed, is recorded and stops the
hull (R83). -/
def State.charge (s : State) (t n : Nat) (f : State → State) : State :=
  let p := podOf t
  let x := s.pod p
  let sum := x.ledgerSum + n
  if sum > ledgerWindow * x.share then
    let first := s.regF evPwr 7 0 = 0
    let s := (s.regOr evPwr (2 ^ p)).raise 96
    let s := if first then s.setReg 0x030018 (p + 16 * (t % 16) + 2 ^ 32 * (x.tickCycle % 2 ^ 32)) else s
    s.contract t tfOverdraw
  else
    let led := (x.ledger.filter fun c => decide (x.cycle < c.1 + ledgerWindow)) ++ [(x.cycle, n)]
    f (s.setPod p { x with ledger := led, peak := max x.peak sum })

/-! ## Lane draws (R106, R173) -/

/-- The next 12 bits of a lane's generator, and the tile after the draw. -/
def Tile.draw (x : Tile) (lane : Nat) : Nat × Tile :=
  let n := tget 0 x.laneDraws lane
  (laneDraw (x.laneA, x.laneB) lane n, { x with laneDraws := tset 0 x.laneDraws lane (n + 1) })

/-! ## Results become usable (R93) -/

/-- Adds a term exactly into a long-register element; past the 320-bit bounds it takes the bound and sets OVF (R114). -/
def lgAdd (e : LgElem) (term : Int) (fl : BitVec 4) : LgElem × Flg :=
  let sum := e.val.toInt + term
  let hi : Int := 2 ^ 319 - 1
  let lo : Int := -(2 ^ 319)
  if sum > hi then ({ val := BitVec.ofInt 320 hi, fl := e.fl ||| fl ||| 8 }, fLGOVF)
  else if sum < lo then ({ val := BitVec.ofInt 320 lo, fl := e.fl ||| fl ||| 8 }, fLGOVF)
  else ({ val := BitVec.ofInt 320 sum, fl := e.fl ||| fl }, 0)

/-- The default long-register element. -/
def lgZero : LgElem := { val := 0, fl := 0 }

/-- A result lands. -/
def Tile.land (x : Tile) : Dest → Tile
  | .sreg i v => x.setS i v
  | .preg i b => x.setP i b
  | .vreg i ls => x.setLanes i ls
  | .acc i es =>
    { x with acc := tsets 0 x.acc (es.map fun e => (16384 * i + e.1, e.2.1)),
             tag := tsets 0 x.tag (es.map fun e => (16384 * i + e.1, e.2.2)) }
  | .accType i int =>
    { x with accInt := if int then x.accInt ||| BitVec.ofNat 8 (2 ^ i) else x.accInt &&& ~~~(BitVec.ofNat 8 (2 ^ i)) }
  | .accZero i =>
    { x with acc := x.acc.filter fun kv => kv.1 / 16384 != i, tag := x.tag.filter fun kv => kv.1 / 16384 != i }
  | .wcol wb col bs sc =>
    { x with wbuf := putBytes x.wbuf (16384 * wb + 128 * col) bs,
             wscale := putBytes x.wscale (1024 * wb + 8 * col) sc }
  | .write a b => x.pendAt x.cyc 5 (.store a b)
  | .store a b => x.tsWrite a b
  | .lgreg i es => { x with lg := tsets lgZero x.lg (es.map fun e => (16 * i + e.1, { val := e.2.1, fl := e.2.2 })) }
  | .lgadd i es => { x with lg := tsets lgZero x.lg (es.map fun e => (16 * i + e.1, { val := e.2.1, fl := e.2.2 })) }
  | .flags f => { x with flags := x.flags ||| f }
  | .drawCtx d ten => { x with drawDomain := d, drawTensor := ten }

/-- An issue cycle ends: every result on its way comes one cycle nearer; the next cycle has issued no slot and accessed no bank. -/
def Tile.age (x : Tile) : Tile :=
  { x with pend := x.pend.map fun p => { p with left := p.left - 1 }, slots := 0, dests := [], banks := [],
           cyc := x.cyc + 1, issued := x.issued + 1 }

/-- An issue cycle begins: the results that have come land in issue order (R93). A stall, a hold or the marker keeps them on their
way until the next issue cycle (R94). -/
def Tile.enter (x : Tile) : Tile :=
  let now := x.pend.filter fun p => p.left == 0
  now.foldl (fun x p => x.land p.dest) { x with pend := x.pend.filter fun p => p.left != 0 }

/-- Store writes of the drain side that fall in the cycle a tile enters (R99). -/
def Tile.writesNow (x : Tile) : List (Nat × Nat) :=
  x.pend.filterMap fun p => match p.dest with
    | .write a b => if p.left = 0 then some (a, b.length) else none
    | _ => none

/-- A tile enters an issue cycle; the drain side's writes of that cycle access their banks (R98). -/
def State.enter (s : State) (t : Nat) : State :=
  let ws := (s.tile t).writesNow
  if ws.isEmpty then s.updTile t Tile.enter
  else s.tsAccess t true ws [] fun s => s.updTile t Tile.enter

end Sys2Proof.Machine
end

