-- ==== Sys2Proof/Machine/Matrix.lean ====
section
/-!
DEFINITION. The matrix slot (R95–R107) and the group arithmetic behind it (R145–R154).
-/

namespace Sys2Proof.Machine

/-! ## Group sums (R146–R148) -/

/-- The value of a group: an exact magnitude with the exponent of its last bit, an infinity, or a NaN with the flag it raises. -/
inductive GVal where
  | fin (s : Int) (e : Int)
  | inf (neg : Bool)
  | nan (f : Flg)
  deriving DecidableEq, Repr

/-- A value with a block scale applied: X = 0xFF makes it NaN (R143). -/
def scaleVal (v : Val) (x : Option Nat) : Val :=
  match x, v with
  | none, v => v
  | some 0xFF, _ => .nan
  | some x, .fin n m e => .fin n m (e + (x : Int) - 127)
  | some _, v => v

/-- The contribution of 32 products in the FP32 classes (R146, R147). -/
def groupSum (a w : List Val) : GVal :=
  let ps := (a.zip w).map fun p => vMul p.1 p.2
  let anyNan := (a ++ w).any (· == .nan)
  let isInf := fun (n : Bool) => ps.any fun p => p.1 == .inf n
  if anyNan then .nan 0
  else if ps.any (fun p => p.2 != 0) || (isInf true && isInf false) then .nan fNV
  else if isInf true then .inf true
  else if isInf false then .inf false
  else
    let fs := ps.filterMap fun p => match p.1 with
      | .fin n m e => if m = 0 then none else some (n, m, e)
      | _ => none
    match fs with
    | [] => .fin 0 0
    | f :: r =>
      let top := r.foldl (fun acc x => max acc x.2.2) f.2.2
      let s := fs.foldl (fun (acc : Int) x =>
        let u : Int := (x.2.1 * 8 / 2 ^ (top - x.2.2).toNat : Nat)
        if x.1 then acc - u else acc + u) 0
      .fin s (top - 3)

/-- The contribution of 32 products in the integer classes (R148). -/
def groupSumInt (a w : List Int) : GVal := .fin ((a.zip w).foldl (fun acc p => acc + p.1 * p.2) 0) 0

/-! ## From group to accumulator (R149–R153) -/

/-- An attempt to add a group into an element at a tag: the new stored bits, flags, and whether it saturates (R149, R151);
`retry` whether the class has saturation retry. -/
def addGroup (int retry : Bool) (x : Nat) (g : GVal) (t : Nat) : Nat × Flg × Bool :=
  if int then
    match g with
    | .fin s _ =>
      let d : Int := s.natAbs / 2 ^ t
      let y := toSigned 32 x + (if s < 0 then -d else d)
      (ofSigned 32 y, 0, decide (y < -(2 ^ 31) ∨ y > 2 ^ 31 - 1))
    | _ => (x, 0, false)
  else
    match g with
    | .nan f => (fp32.canonNaN, f, false)
    | .inf n =>
      let r := toFp32 (vAdd (decodeF fp32 x) (.inf n))
      (r.1, r.2, false)
    | .fin s e =>
      let gv : Val := if s = 0 then .fin false 0 0 else .fin (decide (s < 0)) s.natAbs (e - t)
      let g32 := encodeF fp32 .rne gv
      let r := toFp32 (vAdd (decodeF fp32 x) (decodeF fp32 g32.1))
      let fl := g32.2 ||| r.2
      let stored := match decodeF fp32 x with | .fin .. => true | _ => false
      (r.1, fl, retry && stored && fl &&& fOF != 0)

/-- scale_down (R152). -/
def scaleDown (int : Bool) (x k : Nat) : Nat × Flg :=
  if int then
    let v := toSigned 32 x
    let d : Int := v.natAbs / 2 ^ k
    (ofSigned 32 (if v < 0 then -d else d), 0)
  else
    match decodeF fp32 x with
    | .fin n m e => encodeF fp32 .rne (.fin n m (e - k))
    | _ => (x, 0)

/-- The sign of the unsaturated sum (R153). -/
def sumNeg (int : Bool) (x : Nat) (g : GVal) (t : Nat) : Bool :=
  match g with
  | .fin s e =>
    if int then decide (toSigned 32 x * 2 ^ t + s < 0)
    else match vAdd (decodeF fp32 x) (.fin (decide (s < 0)) s.natAbs (e - t)) with
      | (.fin n _ _, _) => n
      | _ => false
  | _ => false

/-- The saturated value (R153). -/
def satValue (int neg : Bool) : Nat :=
  if int then (if neg then 0x80000000 else 0x7FFFFFFF) else (if neg then 0xFF7FFFFF else 0x7F7FFFFF)

/-- What a group does to an element: stored bits, tag, flags, attempts repeated (0 to 4) (R152). -/
structure GroupEffect where
  x : Nat
  tag : Nat
  fl : Flg
  attempts : Nat
  deriving DecidableEq, Repr

/-- The attempts k, k + 1, … 4 (R152); `n` of them remain. -/
def retryFrom (int : Bool) (x tag : Nat) (g : GVal) : Nat → Nat → GroupEffect
  | 0, _ => { x := satValue int (sumNeg int x g tag), tag := tag, fl := fSAT, attempts := 4 }
  | n + 1, k =>
    if tag + k ≤ 7 then
      let d := scaleDown int x k
      let r := addGroup int true d.1 g (tag + k)
      if r.2.2 then retryFrom int x tag g n (k + 1)
      else { x := r.1, tag := tag + k, fl := d.2 ||| r.2.1, attempts := k }
    else retryFrom int x tag g n (k + 1)

/-- Adds a group into an element, with saturation retry in the classes that have it (R149, R151, R152). -/
def accGroup (int retry : Bool) (x tag : Nat) (g : GVal) : GroupEffect :=
  let r := addGroup int retry x g tag
  if r.2.2 && retry then retryFrom int x tag g 4 1 else { x := r.1, tag := tag, fl := r.2.1, attempts := 0 }

/-- What a row leaves: elements (column, bits, tag), flags, the largest number of attempts, groups repeated. -/
structure RowEffect where
  es : List (Nat × Word32 × BitVec 3)
  fl : Flg
  hold : Nat
  retries : Nat
  deriving DecidableEq, Repr

/-- Groups j = 0, 1, … of a row and a column, added in ascending order (R100, R150). -/
def accGroups (int retry : Bool) (gs : List GVal) (e : GroupEffect) : GroupEffect × Nat :=
  gs.foldl (fun acc g =>
    let r := accGroup int retry acc.1.x acc.1.tag g
    ({ r with fl := acc.1.fl ||| r.fl, attempts := max acc.1.attempts r.attempts }, acc.2 + b2n (r.attempts != 0)))
    (e, 0)

/-- Splits a list into runs of 32. -/
def by32 {α : Type} (n : Nat) (l : List α) : List (List α) := (upFrom 0 n).map fun j => (l.drop (32 * j)).take 32

/-- The group values of a row against a column: formats, bytes and scale bytes of each. -/
def rowGroups (c : MClass) (fa fw : BitVec 4) (row scA col scW : List Byte) : List GVal :=
  let n := c.k / 32
  let ks := upFrom 0 c.k
  if c.int then
    ((by32 n (ks.map fun k => mInt fa (mElem fa row k))).zip (by32 n (ks.map fun k => mInt fw (mElem fw col k)))).map
      fun p => groupSumInt p.1 p.2
  else
    let sc := fun (s : List Byte) (k : Nat) => if c.scaled then some ((s.getD (k / 32) 0).toNat) else none
    ((by32 n (ks.map fun k => scaleVal (mDecode fa (mElem fa row k)) (sc scA k))).zip
      (by32 n (ks.map fun k => scaleVal (mDecode fw (mElem fw col k)) (sc scW k)))).map fun p => groupSum p.1 p.2

/-- Column n of a weight buffer as usable now (R93, R96). -/
def Tile.wcol (x : Tile) (wb n : Nat) : List Byte × List Byte :=
  (getBytes x.wbuf (16384 * wb + 128 * n) 128, getBytes x.wscale (1024 * wb + 8 * n) 8)

/-- The recorded format of a weight buffer (R100). -/
def Tile.wfmt (x : Tile) (wb : Nat) : BitVec 4 := if wb = 0 then x.wfmt0 else x.wfmt1

/-- Row i of an M.MMA from its input bytes (R100). -/
def Tile.mmaRow (x : Tile) (m : MmaRun) (c : MClass) (row sc : List Byte) : RowEffect :=
  (upFrom 0 128).foldl (fun acc n =>
    let k := 16384 * m.acc + 128 * m.row + n
    let w := x.wcol m.wb n
    let e0 : GroupEffect :=
      if m.z then { x := 0, tag := 0, fl := 0, attempts := 0 }
      else { x := (tget 0 x.acc k).toNat, tag := (tget 0 x.tag k).toNat, fl := 0, attempts := 0 }
    let r := accGroups c.int c.retry (rowGroups c m.fmt (x.wfmt m.wb) row sc w.1 w.2) e0
    { es := acc.es ++ [(128 * m.row + n, BitVec.ofNat 32 r.1.x, BitVec.ofNat 3 r.1.tag)], fl := acc.fl ||| r.1.fl,
      hold := max acc.hold r.1.attempts, retries := acc.retries + r.2 })
    { es := [], fl := 0, hold := 0, retries := 0 }

/-! ## Rows and columns in progress (R99, R107) -/

/-- A residue mismatch of an array: flag, counts, event, record of class RESIDUE, and the hull stops (R104, R382). The record's
attempt and residues are free values (log entry 3). -/
def State.arrayResidue (s : State) (t row col group : Nat) : State :=
  let p := podOf t
  let s := s.updTile t fun x => { x with flags := x.flags ||| fRESIDUE, residues := min (x.residues + 1) 0xFF }
  let s := (s.event evIntg 1 577).regSat 0x0C0028 31 0 1
  let h := (s.pod p).hull
  let f := s.free
  f.2.faultLater h { mkRec 0x05 2 (s.tile t).lam h p (t % 16) 0
                      (natLe 1 row ++ natLe 1 col ++ natLe 1 group ++ natLe 3 f.1.toNat)
                    with pc := (s.tile t).recPc }

/-- The next column of an M.LDW. -/
def State.ldwBeat (s : State) (t : Nat) : State :=
  match (s.tile t).ldw with
  | none => s
  | some l =>
    let a := l.base + 128 * l.col
    let b := l.base + 16384 + 8 * l.col
    s.tsAccess t false [(a, 128)] (if l.scaled then [(b, 8)] else []) fun s =>
    s.tsEcc t a (nextEcc l.ecc) fun s => s.updTile t fun x =>
      let x := x.pendAt l.stamp 6 (.wcol l.wb l.col (x.tsRead a 128) (if l.scaled then x.tsRead b 8 else zeros 8))
      { x with ldw := if l.col = 127 then none else some { l with col := l.col + 1, ecc := l.ecc.drop 1 } }

/-- The next row of an M.MMA. The accumulator's type is recorded as each row lands, a cycle that the manual does not name (R100, log entry
90). -/
def State.mmaBeat (s : State) (t : Nat) : State :=
  match (s.tile t).mma with
  | none => s
  | some m =>
    match mClass m.fmt with
    | none => s
    | some c =>
      let a := m.base + 128 * m.row
      let b := m.base + 128 * m.rows + 8 * m.row
      s.charge t 32 fun s =>
      s.tsAccess t false [(a, 128)] (if c.scaled then [(b, 8)] else []) fun s =>
      s.tsEcc t a (nextEcc m.ecc) fun s =>
      match m.res with
      | .mismatch r col g =>
        if r = m.row then s.arrayResidue t r col g
        else mmaRowDone s c m a b
      | .agree => mmaRowDone s c m a b
where
  /-- The row's products and their effect. -/
  mmaRowDone (s : State) (c : MClass) (m : MmaRun) (a b : Nat) : State :=
    let x := s.tile t
    let r := x.mmaRow m c (x.tsRead a 128) (if c.scaled then x.tsRead b 8 else [])
    let x := ((x.pendAt m.stamp 8 (.acc m.acc r.es)).pendAt m.stamp 8 (.accType m.acc c.int)).pendFlags m.stamp 8 r.fl
    let x := { x with satRetries := min (x.satRetries + r.retries) 0xFFFFFFFF, stepRetries := x.stepRetries + r.retries,
                      mma := if m.row + 1 < m.rows then some { m with row := m.row + 1, ecc := m.ecc.drop 1 } else none }
    let p := s.pod (podOf t)
    -- the hold begins in the next cycle; holds raised together overlap (R102)
    (s.setTile t x).setPod (podOf t) { p with hold := max p.hold r.hold }

/-- An accumulator element's value, its tag applied (R154). -/
def accVal (int : Bool) (x tag : Nat) : Val :=
  if int then let v := toSigned 32 x; .fin (decide (v < 0)) v.natAbs tag
  else match decodeF fp32 x with
    | .fin n m e => .fin n m (e + tag)
    | v => v

/-- The converted bytes of a drained row, its flags, and the tile after its draws (R105, R106). -/
def Tile.drainRow (x : Tile) (acc i : Nat) (int : Bool) (f : VFmt) (rnd : BitVec 2) : List Byte × Flg × Tile :=
  (upFrom 0 128).foldl (fun st n =>
    let k := 16384 * acc + 128 * i + n
    let d := if rnd = 1 then st.2.2.draw (128 * (i % 8) + n) else (0, st.2.2)
    let r := f.encode (rndOf rnd d.1) (accVal int (tget 0 x.acc k).toNat (tget 0 x.tag k).toNat)
    (st.1 ++ natLe (f.bits / 8) r.1, st.2.1 ||| r.2, d.2)) ([], 0, x)

/-- The elements of a row at zero. -/
def zeroRow (i : Nat) : List (Nat × Word32 × BitVec 3) := (upFrom 0 128).map fun n => (128 * i + n, 0, 0)

/-- Row r of an M.DRV as 32-bit lanes, its tags applied, and the flags it raises (R105, R154). -/
def Tile.drvRow (x : Tile) (acc row8 r : Nat) : Tbl Word32 × Flg :=
  let int := x.accInt.getLsbD acc
  let vs := (upFrom 0 128).map fun n =>
    let k := 16384 * acc + 128 * (8 * row8 + r) + n
    (if int then VFmt.i32 else VFmt.f32).encode .rne (accVal int (tget 0 x.acc k).toNat (tget 0 x.tag k).toNat)
  (((upFrom 0 128).zip vs).map fun p => (128 * r + p.1, BitVec.ofNat 32 p.2.1), vs.foldl (fun f v => f ||| v.2) 0)

/-- The next beat of a drain-side instruction. A row of 512 bytes is written whole once its first cycle has come, also where the drain is
abandoned in its second (R99, log entry 89). -/
def Tile.drainBeat (x : Tile) : Tile :=
  match x.drain with
  | none => x
  | some (.drain st acc fmt rnd int base rows z beat) =>
    match drainFmt fmt with
    | none => { x with drain := none }
    | some f =>
      let w := if f.bits = 32 then 2 else 1
      let i := beat / w
      let x := { x with drain := if beat + 1 < rows * w then some (.drain st acc fmt rnd int base rows z (beat + 1)) else none }
      if beat % w ≠ 0 then x
      else
        let r := x.drainRow acc i int f rnd
        let a := base + i * (16 * f.bits)
        let x := r.2.2.pendFlags st 4 r.2.1
        let x := (x.pendAt st 4 (.write a (r.1.take 256)))
        let x := if w = 2 then x.pendAt st 5 (.write (a + 256) (r.1.drop 256)) else x
        if z then x.pendAt st 1 (.acc acc (zeroRow i)) else x
  | some (.drv st vd beat rows) =>
    match rows with
    | [] => { x with drain := none }
    | r :: rest =>
      let x := (x.pendAt st (12 - beat) (.vreg vd r.1)).pendFlags st (12 - beat) r.2
      { x with drain := if rest.isEmpty then none else some (.drv st vd (beat + 1) rest) }
  | some (.accld st acc row8 int lanes beat) =>
    let i := 8 * row8 + beat
    let es := (upFrom 0 128).map fun n => (128 * i + n, tget 0 lanes (128 * beat + n), (0 : BitVec 3))
    let x := (x.pendAt st (10 - beat) (.acc acc es)).pendAt st (10 - beat) (.accType acc int)
    { x with drain := if beat < 7 then some (.accld st acc row8 int lanes (beat + 1)) else none }

/-- The matrix array's shifts move on by one column or row (R99, R107). -/
def State.shiftBeat (s : State) (t : Nat) : State := ((s.ldwBeat t).mmaBeat t).updTile t Tile.drainBeat

/-! ## Meanings -/

/-- M.LDW (R97, R99, R100): records the format at once and takes the shift side from column 0. -/
def execMLdw (t : Nat) (wb : BitVec 1) (fmt : BitVec 4) (sb : BitVec 5) (off : BitVec 16) (e : List Ecc) (s : State) : Outcome :=
  .next (s.slot t slM (mClass fmt).isSome [(dkWb, wb.toNat)] fun s => s.updTile t fun x =>
    { x with wfmt0 := if wb = 0 then fmt else x.wfmt0, wfmt1 := if wb = 1 then fmt else x.wfmt1,
             ldw := some { stamp := x.cyc, wb := wb.toNat, scaled := (mClass fmt).any MClass.scaled,
                           base := x.tsAddr sb off, col := 0, ecc := e } })

/-- M.MMA (R92, R97, R99, R100): its format's class must be that of the weight buffer; it takes the compute side from row 0. -/
def execMMma (t : Nat) (acc : BitVec 3) (wb : BitVec 1) (fmtA : BitVec 4) (z : Bool) (sb : BitVec 5) (off : BitVec 16)
    (rows1 : BitVec 7) (e : List Ecc) (r : Residue) (s : State) : Outcome :=
  .next (s.slot t slM ((mClass fmtA).isSome && mClass fmtA == mClass ((s.tile t).wfmt wb.toNat)) [(dkAcc, acc.toNat)]
    fun s => s.updTile t fun x =>
      { x with mma := some { stamp := x.cyc, acc := acc.toNat, wb := wb.toNat, fmt := fmtA, z := z, base := x.tsAddr sb off,
                             rows := rows1.toNat + 1, row := 0, ecc := e, res := r } })

/-- RND and FMT_O suit the accumulator's type (R92, R105, R161). -/
def drainOk (int : Bool) (fmtO : BitVec 4) (rnd : BitVec 2) : Bool :=
  match drainFmt fmtO with
  | none => false
  | some f => rnd != 3 && (rnd == 0 || !((f == .f32 && !int) || (f == .i32 && int)))

/-- M.DRAIN (R97, R99, R105): takes the drain side from row 0. -/
def execMDrain (t : Nat) (acc : BitVec 3) (fmtO : BitVec 4) (rnd : BitVec 2) (sb : BitVec 5) (off : BitVec 16)
    (rows1 : BitVec 7) (z : Bool) (s : State) : Outcome :=
  .next (s.slot t slM (drainOk ((s.tile t).accInt.getLsbD acc.toNat) fmtO rnd) [(dkAcc, acc.toNat)] fun s =>
    s.updTile t fun x =>
      { x with drain := some (.drain x.cyc acc.toNat fmtO rnd (x.accInt.getLsbD acc.toNat) (x.tsAddr sb off)
                               (rows1.toNat + 1) z 0) })

/-- M.DRV (R93, R97, R99, R105): eight accumulator rows, read at issue, to a vector register. -/
def execMDrv (t : Nat) (acc : BitVec 3) (vd : BitVec 6) (row8 : BitVec 4) (s : State) : Outcome :=
  .next (s.slot t slM true [(dkV, vd.toNat)] fun s => s.updTile t fun x =>
    { x with drain := some (.drv x.cyc vd.toNat 0 ((upFrom 0 8).map (x.drvRow acc.toNat row8.toNat))) })

/-- The lanes of a vector register, by lane. -/
def Tile.vregOf (x : Tile) (i : Nat) : Tbl Word32 :=
  (x.v.filter fun kv => kv.1 / 1024 == i).map fun kv => (kv.1 % 1024, kv.2)

/-- M.ACCLD (R97, R99, R105): eight accumulator rows from a vector register read at issue. -/
def execMAccld (t : Nat) (acc : BitVec 3) (vs : BitVec 6) (row8 : BitVec 4) (int : Bool) (s : State) : Outcome :=
  .next (s.slot t slM true [(dkAcc, acc.toNat)] fun s => s.updTile t fun x =>
    { x with drain := some (.accld x.cyc acc.toNat row8.toNat int (x.vregOf vs.toNat) 0) })

/-- M.ZERO (R97, R99, R105): the accumulator, its tags and its type, from cycle 1. -/
def execMZero (t : Nat) (acc : BitVec 3) (s : State) : Outcome :=
  .next (s.slot t slM true [(dkAcc, acc.toNat)] fun s => s.updTile t fun x =>
    let x := { x with drain := none }
    (x.pendAt x.cyc 1 (.accZero acc.toNat)).pendAt x.cyc 1 (.accType acc.toNat false))

end Sys2Proof.Machine
end

