-- ==== Sys2Proof/Machine/Scalar.lean ====
section
/-! DEFINITION. The scalar slots S0 and S1 (R118–R125). -/

namespace Sys2Proof.Machine

/-- A destination that counts for R120: not s0 or p0. -/
def scalarDest (kind i : Nat) : List (Nat × Nat) := if i = 0 then [] else [(kind, i)]

/-- Issues a guarded instruction of a slot: with a zero guard it has no effect (R119). -/
def State.guarded (s : State) (t k : Nat) (pg : BitVec 3) (ok : Bool) (dests : List (Nat × Nat)) (f : State → State) : State :=
  s.slot t k ok dests fun s => if (s.tile t).preg pg then f s else s

/-- The slot of a scalar instruction. -/
def scalarSlot (s1 : Bool) : Nat := if s1 then slS1 else slS0

/-- A form R operation that writes rd (R121, R122). -/
def State.sR (s : State) (t : Nat) (f : SR) (lat : Nat) (g : Word → Word → Word) : State :=
  s.guarded t (scalarSlot f.s1) f.pg true (scalarDest dkS f.rd.toNat) fun s =>
    let x := s.tile t
    s.result t lat (.sreg f.rd.toNat (g (x.sreg f.ra) (x.sreg f.rb))) 0

/-- A form I operation that writes rd. -/
def State.sI (s : State) (t : Nat) (f : SI) (ok : Bool) (g : Word → BitVec 10 → Word) : State :=
  s.guarded t (scalarSlot f.s1) f.pg ok (scalarDest dkS f.rd.toNat) fun s =>
    s.result t 1 (.sreg f.rd.toNat (g ((s.tile t).sreg f.rd) f.imm)) 0

/-- A form C operation that writes pd. -/
def State.sC (s : State) (t : Nat) (f : SC) (g : Word → Word → Bool) : State :=
  s.guarded t (scalarSlot f.s1) f.pg true (scalarDest dkP f.pd.toNat) fun s =>
    let x := s.tile t
    s.result t 1 (.preg f.pd.toNat (g (x.sreg f.ra) (x.sreg f.rb))) 0

/-- A form P operation that writes pd. -/
def State.sP (s : State) (t : Nat) (f : SP) (g : Bool → Bool → Bool) : State :=
  s.guarded t (scalarSlot f.s1) f.pg true (scalarDest dkP f.pd.toNat) fun s =>
    let x := s.tile t
    s.result t 1 (.preg f.pd.toNat (g (x.preg f.pa) (x.preg f.pb))) 0

/-- S.ADD. -/
def execSAdd (t : Nat) (f : SR) (s : State) : Outcome := .next (s.sR t f 1 (· + ·))
/-- S.SUB. -/
def execSSub (t : Nat) (f : SR) (s : State) : Outcome := .next (s.sR t f 1 (· - ·))
/-- S.MUL: 3 cycles. -/
def execSMul (t : Nat) (f : SR) (s : State) : Outcome := .next (s.sR t f 3 (· * ·))
/-- S.AND. -/
def execSAnd (t : Nat) (f : SR) (s : State) : Outcome := .next (s.sR t f 1 (· &&& ·))
/-- S.OR. -/
def execSOr (t : Nat) (f : SR) (s : State) : Outcome := .next (s.sR t f 1 (· ||| ·))
/-- S.XOR. -/
def execSXor (t : Nat) (f : SR) (s : State) : Outcome := .next (s.sR t f 1 (· ^^^ ·))
/-- S.SHL. -/
def execSShl (t : Nat) (f : SR) (s : State) : Outcome := .next (s.sR t f 1 fun a b => a <<< (b.toNat % 64))
/-- S.SHR. -/
def execSShr (t : Nat) (f : SR) (s : State) : Outcome := .next (s.sR t f 1 fun a b => a >>> (b.toNat % 64))
/-- S.SRA. -/
def execSSra (t : Nat) (f : SR) (s : State) : Outcome := .next (s.sR t f 1 fun a b => a.sshiftRight (b.toNat % 64))
/-- S.MIN, signed. -/
def execSMin (t : Nat) (f : SR) (s : State) : Outcome := .next (s.sR t f 1 fun a b => if b.slt a then b else a)
/-- S.MAX, signed. -/
def execSMax (t : Nat) (f : SR) (s : State) : Outcome := .next (s.sR t f 1 fun a b => if a.slt b then b else a)
/-- S.MINU. -/
def execSMinu (t : Nat) (f : SR) (s : State) : Outcome := .next (s.sR t f 1 fun a b => if b.ult a then b else a)
/-- S.MAXU. -/
def execSMaxu (t : Nat) (f : SR) (s : State) : Outcome := .next (s.sR t f 1 fun a b => if a.ult b then b else a)

/-- S.LI. -/
def execSLi (t : Nat) (f : SI) (s : State) : Outcome := .next (s.sI t f true fun _ i => i.signExtend 64)
/-- S.LIH. -/
def execSLih (t : Nat) (f : SI) (s : State) : Outcome := .next (s.sI t f true fun r i => (r <<< 10) ||| i.zeroExtend 64)
/-- S.ADDI. -/
def execSAddi (t : Nat) (f : SI) (s : State) : Outcome := .next (s.sI t f true fun r i => r + i.signExtend 64)
/-- S.SHLI: IMM10[9:6] zero. -/
def execSShli (t : Nat) (f : SI) (s : State) : Outcome :=
  .next (s.sI t f (decide (f.imm.toNat < 64)) fun r i => r <<< i.toNat)
/-- S.SHRI: IMM10[9:6] zero. -/
def execSShri (t : Nat) (f : SI) (s : State) : Outcome :=
  .next (s.sI t f (decide (f.imm.toNat < 64)) fun r i => r >>> i.toNat)

/-- S.CEQ. -/
def execSCeq (t : Nat) (f : SC) (s : State) : Outcome := .next (s.sC t f (· == ·))
/-- S.CNE. -/
def execSCne (t : Nat) (f : SC) (s : State) : Outcome := .next (s.sC t f (· != ·))
/-- S.CLT. -/
def execSClt (t : Nat) (f : SC) (s : State) : Outcome := .next (s.sC t f BitVec.slt)
/-- S.CGE. -/
def execSCge (t : Nat) (f : SC) (s : State) : Outcome := .next (s.sC t f fun a b => b.sle a)
/-- S.CLTU. -/
def execSCltu (t : Nat) (f : SC) (s : State) : Outcome := .next (s.sC t f BitVec.ult)
/-- S.CGEU. -/
def execSCgeu (t : Nat) (f : SC) (s : State) : Outcome := .next (s.sC t f fun a b => b.ule a)

/-- S.PAND. -/
def execSPand (t : Nat) (f : SP) (s : State) : Outcome := .next (s.sP t f (· && ·))
/-- S.POR. -/
def execSPor (t : Nat) (f : SP) (s : State) : Outcome := .next (s.sP t f (· || ·))
/-- S.PANDN. -/
def execSPandn (t : Nat) (f : SP) (s : State) : Outcome := .next (s.sP t f fun a b => a && !b)

/-- The address of S.LD and S.ST: (ra + rb) mod 2^22, bits [2:0] taken as zero (R122). -/
def Tile.sAddr (x : Tile) (f : SR) : Nat := (x.sreg f.ra + x.sreg f.rb).toNat % 2 ^ 22 / 8 * 8

/-- S.LD (R122): 5 cycles. -/
def execSLd (t : Nat) (f : SR) (e : Ecc) (s : State) : Outcome :=
  .next (s.guarded t (scalarSlot f.s1) f.pg true (scalarDest dkS f.rd.toNat) fun s =>
    let a := (s.tile t).sAddr f
    s.tsAccess t false [(a, 8)] [] fun s => s.tsEcc t a e fun s =>
      s.result t 5 (.sreg f.rd.toNat (BitVec.ofNat 64 (leNat ((s.tile t).tsRead a 8)))) 0)

/-- S.ST (R122): readable 5 cycles after issue. -/
def execSSt (t : Nat) (f : SR) (s : State) : Outcome :=
  .next (s.guarded t (scalarSlot f.s1) f.pg true [] fun s =>
    let a := (s.tile t).sAddr f
    let v := (s.tile t).sreg f.rd
    s.tsAccess t true [(a, 8)] [] fun s => s.result t 5 (.store a (natLe 8 v.toNat)) 0)

/-- S.BR (R123): in S1 it makes the bundle invalid. -/
def execSBr (t : Nat) (s1 : Bool) (pg : BitVec 3) (target : BitVec 13) (s : State) : Outcome :=
  .next (s.guarded t (scalarSlot s1) pg (!s1) [] fun s => s.updTile t fun x => { x with branch := some target })

/-- The item IMM10 of S.RDSTAT (R124). -/
def State.statItem (s : State) (t i : Nat) : Word :=
  let x := s.tile t
  let h := s.hull (s.pod (podOf t)).hull
  let ofProg := fun (f : Prog → Nat) => match h.prog with | some p => f p | none => 0
  match i with
  | 0 => BitVec.ofNat 64 x.lam
  | 1 => BitVec.ofNat 64 x.pass
  | 2 => BitVec.ofNat 64 (ofProg Prog.foldLog2)
  | 3 => BitVec.ofNat 64 h.step
  | 4 => BitVec.ofNat 64 (ofProg fun p => p.image.geometry.worldRank)
  | 5 => x.syncStatus.zeroExtend 64
  | _ => x.flags.zeroExtend 64

/-- S.RDSTAT (R124): item 5 sets the sync status to DONE, item 7 clears the flags. -/
def execSRdstat (t : Nat) (f : SI) (s : State) : Outcome :=
  let i := f.imm.toNat
  .next (s.guarded t (scalarSlot f.s1) f.pg (decide (i < 8)) (scalarDest dkS f.rd.toNat) fun s =>
    let v := s.statItem t i
    let s := s.result t 1 (.sreg f.rd.toNat v) 0
    s.updTile t fun x =>
      { x with syncStatus := if i = 5 then 0 else x.syncStatus, flags := if i = 7 then 0 else x.flags })

/-- S.SETFL (R122): RD and RB zero. -/
def execSSetfl (t : Nat) (f : SR) (s : State) : Outcome :=
  .next (s.guarded t (scalarSlot f.s1) f.pg (f.rd == 0 && f.rb == 0) [] fun s => s.updTile t fun x =>
    x.pendFlags x.cyc 1 ((x.sreg f.ra).truncate 7))

/-- The stream domains of the program that runs: the image's, or the evaluation entry's own (R125, R169, R435). -/
def Prog.domains (p : Prog) : List Nat :=
  match p.evalRun with
  | some r => match p.image.evals[r.1]? with | some e => e.domains | none => []
  | none => p.image.geometry.domains

/-- S.DRAW (R125): a domain outside the geometry block's list is outside the hull. -/
def execSDraw (t : Nat) (f : SR) (s : State) : Outcome :=
  .next (s.guarded t (scalarSlot f.s1) f.pg (f.rd == 0) [] fun s =>
    let x := s.tile t
    let d : Half := (x.sreg f.ra).truncate 16
    let listed := match (s.hull (s.pod (podOf t)).hull).prog with
      | some p => p.domains.contains d.toNat
      | none => false
    if listed then s.result t 1 (.drawCtx d ((x.sreg f.rb).truncate 20)) 0
    else s.contract t tfBound)

end Sys2Proof.Machine
end

