-- ==== Sys2Proof/Machine/Vector.lean ====
section
/-! DEFINITION. The vector slots V0 and V1 (R108–R116, R155–R163, R169). -/

namespace Sys2Proof.Machine

/-! ## V0 (R109, R110) -/

/-- V0 formats (R109). -/
inductive V0Fmt where
  | f32 | bf | i32
  deriving DecidableEq, Repr

/-- V0 format codes (R109). -/
def v0Fmt (c : BitVec 4) : Option V0Fmt :=
  match c.toNat with
  | 0 => some .f32
  | 1 => some .bf
  | 2 => some .i32
  | _ => none

/-- An operation on values in one floating-point format, rounded once to nearest even (R110). -/
def inFmt (f : FFmt) (op : Val → Val → Val → Val × Flg) (a b c : Nat) : Nat × Flg :=
  let v := op (decodeF f a) (decodeF f b) (decodeF f c)
  let r := encodeF f .rne v.1
  (r.1, v.2 ||| r.2)

/-- A lane computed as two BF16 halves (R110). -/
def onHalves (f : Nat → Nat → Nat → Nat × Flg) (a b c : Nat) : Nat × Flg :=
  let lo := f (a % 65536) (b % 65536) (c % 65536)
  let hi := f (a / 65536) (b / 65536) (c / 65536)
  (lo.1 + 65536 * hi.1, lo.2 ||| hi.2)

/-- A lane of a V0 operation: its meaning on values, and on signed integers. -/
def v0Lane (f : V0Fmt) (op : Val → Val → Val → Val × Flg) (iop : Int → Int → Int) (a b c : Nat) : Nat × Flg :=
  match f with
  | .f32 => inFmt fp32 op a b c
  | .bf => onHalves (inFmt bf16 op) a b c
  | .i32 => (ofSigned 32 (iop (toSigned 32 a) (toSigned 32 b)), 0)

/-- Lane results of a register, with every flag raised. -/
def laneMap (ls : List Nat) (f : Nat → Nat × Flg) : Tbl Word32 × Flg :=
  ls.foldl (fun acc l => let r := f l; (acc.1 ++ [(l, BitVec.ofNat 32 r.1)], acc.2 ||| r.2)) ([], 0)

/-- Lane ℓ of v[i] as a number. -/
def Tile.laneN (x : Tile) (i : BitVec 6) (l : Nat) : Nat := (x.lane i.toNat l).toNat

/-- Issues a V0 operation: with GM 0b00 it charges 12 tokens (R108); its result lands after `lat` cycles (R109). -/
def State.v0 (s : State) (t : Nat) (f : V0) (ok : Bool) (lat : Nat) (g : Tile → Tbl Word32 × Flg) : State :=
  s.slot t slV0 ok [(dkV, f.vd.toNat)] fun s =>
    let go := fun (s : State) =>
      let r := g (s.tile t)
      s.result t lat (.vreg f.vd.toNat r.1) r.2
    if f.gm = 0 then s.charge t 12 go else go s

/-- A V0 operation lane by lane on va, vb, vc. -/
def State.v0Map (s : State) (t : Nat) (f : V0) (ok : Bool) (lat : Nat) (g : Nat → Nat → Nat → Nat × Flg) : State :=
  s.v0 t f ok lat fun x => laneMap (gmLanes f.gm) fun l => g (x.laneN f.va l) (x.laneN f.vb l) (x.laneN f.vc l)

/-- A V0 arithmetic operation in the format of FMT. -/
def State.v0Arith (s : State) (t : Nat) (f : V0) (ok : Bool) (lat : Nat) (op : Val → Val → Val → Val × Flg)
    (iop : Int → Int → Int) : State :=
  s.v0Map t f (ok && (v0Fmt f.fmt).isSome && f.imm == 0) lat (v0Lane ((v0Fmt f.fmt).getD .f32) op iop)

/-- V.FMA (R109): FP32 and BF16. -/
def execVFma (t : Nat) (f : V0) (s : State) : Outcome :=
  .next (s.v0Arith t f (decide (f.fmt.toNat < 2)) 4 vFma (fun a _ => a))

/-- V.ADD (R109, R160). -/
def execVAdd (t : Nat) (f : V0) (s : State) : Outcome :=
  .next (s.v0Arith t f (f.vc == 0) 4 (fun a b _ => vAdd a b) (· + ·))

/-- V.SUB (R109, R160). -/
def execVSub (t : Nat) (f : V0) (s : State) : Outcome :=
  .next (s.v0Arith t f (f.vc == 0) 4 (fun a b _ => vAdd a (vNeg b)) (· - ·))

/-- V.MUL (R109, R160). -/
def execVMul (t : Nat) (f : V0) (s : State) : Outcome :=
  .next (s.v0Arith t f (f.vc == 0) 4 (fun a b _ => vMul a b) (· * ·))

/-- V.MAX (R109, R161). -/
def execVMax (t : Nat) (f : V0) (s : State) : Outcome :=
  .next (s.v0Arith t f (f.vc == 0) 2 (fun a b _ => (vMaxOf a b, 0)) max)

/-- V.MIN (R109, R161). -/
def execVMin (t : Nat) (f : V0) (s : State) : Outcome :=
  .next (s.v0Arith t f (f.vc == 0) 2 (fun a b _ => (vMinOf a b, 0)) min)

/-- Condition IMM[2:0] of V.CMP on floating-point values: a NaN makes it true only for NE and UNORD (R109, R110). -/
def condF (c : Nat) (a b : Val) : Bool :=
  let un := a == .nan || b == .nan
  match c with
  | 0 => vEq a b
  | 1 => un || !vEq a b
  | 2 => vLt a b
  | 3 => vLt a b || vEq a b
  | 4 => vLt b a
  | 5 => vLt b a || vEq a b
  | _ => un

/-- Condition IMM[2:0] of V.CMP on integers, signed (R161). -/
def condI (c : Nat) (a b : Int) : Bool :=
  match c with
  | 0 => a == b
  | 1 => a != b
  | 2 => decide (a < b)
  | 3 => decide (a ≤ b)
  | 4 => decide (b < a)
  | 5 => decide (b ≤ a)
  | _ => false

/-- All ones of a width where a condition holds. -/
def onesIf (w : Nat) (b : Bool) : Nat × Flg := (if b then 2 ^ w - 1 else 0, 0)

/-- V.CMP (R109): in BF16 each half gives all ones or zero (log entry 11). -/
def execVCmp (t : Nat) (f : V0) (s : State) : Outcome :=
  let c := f.imm.toNat % 8
  .next (s.v0Map t f ((v0Fmt f.fmt).isSome && f.vc == 0 && decide (f.imm.toNat < 7)) 2 fun a b d =>
    match (v0Fmt f.fmt).getD .f32 with
    | .f32 => onesIf 32 (condF c (decodeF fp32 a) (decodeF fp32 b))
    | .bf => onHalves (fun a b _ => onesIf 16 (condF c (decodeF bf16 a) (decodeF bf16 b))) a b d
    | .i32 => onesIf 32 (condI c (toSigned 32 a) (toSigned 32 b)))

/-- V.SEL (R109): raw lanes. -/
def execVSel (t : Nat) (f : V0) (s : State) : Outcome :=
  .next (s.v0Map t f (f.fmt == 0 && f.imm == 0) 2 fun a b c => (if c ≠ 0 then a else b, 0))

/-- A bitwise V0 operation (R109). -/
def State.v0Bits (s : State) (t : Nat) (f : V0) (g : Nat → Nat → Nat) : State :=
  s.v0Map t f (f.fmt == 0 && f.vc == 0 && f.imm == 0) 2 fun a b _ => (g a b, 0)

/-- V.AND. -/
def execVAnd (t : Nat) (f : V0) (s : State) : Outcome := .next (s.v0Bits t f (· &&& ·))
/-- V.OR. -/
def execVOr (t : Nat) (f : V0) (s : State) : Outcome := .next (s.v0Bits t f (· ||| ·))
/-- V.XOR. -/
def execVXor (t : Nat) (f : V0) (s : State) : Outcome := .next (s.v0Bits t f (· ^^^ ·))

/-- A shift by IMM[4:0] (R109). -/
def State.v0Shift (s : State) (t : Nat) (f : V0) (g : Word32 → Nat → Word32) : State :=
  s.v0Map t f (f.fmt == 0 && f.vb == 0 && f.vc == 0 && decide (f.imm.toNat < 32)) 2 fun a _ _ =>
    ((g (BitVec.ofNat 32 a) f.imm.toNat).toNat, 0)

/-- V.SHL. -/
def execVShl (t : Nat) (f : V0) (s : State) : Outcome := .next (s.v0Shift t f fun a n => a <<< n)
/-- V.SHR. -/
def execVShr (t : Nat) (f : V0) (s : State) : Outcome := .next (s.v0Shift t f fun a n => a >>> n)
/-- V.SRA. -/
def execVSra (t : Nat) (f : V0) (s : State) : Outcome := .next (s.v0Shift t f fun a n => a.sshiftRight n)

/-- A function of one FP32 operand, correctly rounded, 12 cycles (R109, R110). -/
def State.v0Fn (s : State) (t : Nat) (f : V0) (g : Val → Val × Flg) : State :=
  s.v0Map t f (f.fmt == 0 && f.vb == 0 && f.vc == 0 && f.imm == 0) 12 fun a _ _ => toFp32 (g (decodeF fp32 a))

/-- V.RCP. -/
def execVRcp (t : Nat) (f : V0) (s : State) : Outcome := .next (s.v0Fn t f fun a => vDiv (valOfInt 1) a)
/-- V.RSQ. -/
def execVRsq (t : Nat) (f : V0) (s : State) : Outcome := .next (s.v0Fn t f vRsqrt)
/-- V.SQRT. -/
def execVSqrt (t : Nat) (f : V0) (s : State) : Outcome := .next (s.v0Fn t f vSqrt)
/-- V.EXP2. -/
def execVExp2 (t : Nat) (f : V0) (s : State) : Outcome := .next (s.v0Fn t f vExp2)
/-- V.LOG2. -/
def execVLog2 (t : Nat) (f : V0) (s : State) : Outcome := .next (s.v0Fn t f vLog2)

/-- One level of V.GSUM's tree: adjacent pairs added (R110). -/
def pairSum : List Nat → List Nat × Flg
  | a :: b :: r =>
    let x := addFp32 a b
    let y := pairSum r
    (x.1 :: y.1, x.2 ||| y.2)
  | l => (l, 0)

/-- `n` levels of the tree (R110). -/
def treeSum : Nat → List Nat → Nat × Flg
  | 0, l => (l.headD 0, 0)
  | n + 1, l =>
    let p := pairSum l
    let r := treeSum n p.1
    (r.1, p.2 ||| r.2)

/-- The 64 lanes of group g of v[i]. -/
def Tile.groupLanes (x : Tile) (i : BitVec 6) (g : Nat) : List Nat := (upFrom (64 * g) 64).map (x.laneN i)

/-- The lanes of a group: the given first lanes, then zeros. -/
def groupOf (g : Nat) (first : List Nat) : Tbl Word32 :=
  (upFrom 0 64).map fun m => (64 * g + m, BitVec.ofNat 32 (first.getD m 0))

/-- Results group by group over the groups GM selects. -/
def groupMap (gm : BitVec 2) (f : Nat → List Nat × Flg) : Tbl Word32 × Flg :=
  (upFrom 0 (gmGroups gm)).foldl (fun acc g => let r := f g; (acc.1 ++ groupOf g r.1, acc.2 ||| r.2)) ([], 0)

/-- V.GSUM (R109, R110): six levels. -/
def execVGsum (t : Nat) (f : V0) (s : State) : Outcome :=
  .next (s.v0 t f (f.fmt == 0 && f.vb == 0 && f.vc == 0 && f.imm == 0) 14 fun x =>
    groupMap f.gm fun g => let r := treeSum 6 (x.groupLanes f.va g); ([r.1], r.2))

/-! ## V1 transfers (R111, R112) -/

/-- Cycles of a transfer (R112). -/
def xferParts (gm : BitVec 2) : Nat := gmGroups gm

/-- V.LD: takes the transfer path from part 0. -/
def execVLd (t : Nat) (f : V1T) (e : List Ecc) (s : State) : Outcome :=
  .next (s.slot t slV1 true [(dkV, f.v.toNat)] fun s => s.updTile t fun x =>
    { x with xfer := some { stamp := x.cyc, load := true, v := f.v.toNat, addr := x.tsAddr f.sb f.off,
                            parts := xferParts f.gm, part := 0, data := [], ecc := e } })

/-- The bytes of a vector register's first lanes (R108). -/
def Tile.vBytes (x : Tile) (i : BitVec 6) (lanes : Nat) : List Byte :=
  (upFrom 0 lanes).flatMap fun l => natLe 4 (x.laneN i l)

/-- V.ST: its lanes are read at issue (R93). -/
def execVSt (t : Nat) (f : V1T) (s : State) : Outcome :=
  .next (s.slot t slV1 true [] fun s => s.updTile t fun x =>
    { x with xfer := some { stamp := x.cyc, load := false, v := f.v.toNat, addr := x.tsAddr f.sb f.off,
                            parts := xferParts f.gm, part := 0, data := x.vBytes f.v (64 * gmGroups f.gm), ecc := [] } })

/-- The next 256-byte part of a transfer (R112): a loaded part is usable at cycle T + 5 of the instruction, a stored one is
readable 5 cycles after its write. -/
def State.xferBeat (s : State) (t : Nat) : State :=
  match (s.tile t).xfer with
  | none => s
  | some r =>
    let a := r.addr + 256 * r.part
    let next : Option XferRun := if r.part + 1 < r.parts then some { r with part := r.part + 1, ecc := r.ecc.drop 1 } else none
    s.tsAccess t (!r.load) [(a, 256)] [] fun s =>
      if r.load then
        s.tsEcc t a (nextEcc r.ecc) fun s => s.updTile t fun x =>
          let b := x.tsRead a 256
          let ls : Tbl Word32 := (upFrom 0 64).map fun m => (64 * r.part + m, BitVec.ofNat 32 (fieldLe b (4 * m) 4))
          { x.pendAt r.stamp (r.parts + 5 - r.part) (.vreg r.v ls) with xfer := next }
      else s.updTile t fun x =>
        { x.pendAt r.stamp 5 (.store a (slice r.data (256 * r.part) 256)) with xfer := next }

/-! ## V1 conversions (R113, R155–R161) -/

/-- Elements of a conversion: as many as the selected lanes hold of the source for equal widths or a narrowing one, 1,024 for a
widening one (R113). -/
def cvtCount (src dst : VFmt) (gm : BitVec 2) : Nat :=
  if dst.bits > src.bits then 1024 else 64 * gmGroups gm * (32 / src.bits)

/-- Element e of packed values of a width (R113). -/
def Tile.packed (x : Tile) (i : BitVec 6) (bits e : Nat) : Nat :=
  let per := 32 / bits
  x.laneN i (e / per) / 2 ^ (bits * (e % per)) % 2 ^ bits

/-- Every converted element in ascending order, with flags, and the tile after its draws (R106). -/
def Tile.cvtElems (x : Tile) (va : BitVec 6) (src dst : VFmt) (rnd gm : BitVec 2) : List Nat × Flg × Tile :=
  (upFrom 0 (cvtCount src dst gm)).foldl (fun st e =>
    let d := if rnd = 1 then st.2.2.draw (e % 1024) else (0, st.2.2)
    let r := dst.encode (rndOf rnd d.1) (src.decode (x.packed va src.bits e))
    (st.1 ++ [r.1], st.2.1 ||| r.2, d.2)) ([], 0, x)

/-- Packs elements of a width into lanes. -/
def packLanes (bits : Nat) (es : List Nat) (lanes : Nat) : List Nat :=
  let per := 32 / bits
  (upFrom 0 lanes).map fun l => (upFrom 0 per).foldl (fun acc k => acc + es.getD (per * l + k) 0 * 2 ^ (bits * k)) 0

/-- The conversion itself, landing 4 cycles after issue. Lanes past a packed result of another width are zero (R113). -/
def Tile.cvt (x : Tile) (f : V1G) : Tile :=
  match vFmt f.fmtS, vFmt f.fmtD with
  | some src, some dst =>
    let lanes := 64 * gmGroups f.gm
    let r := x.cvtElems f.va src dst f.rnd f.gm
    let ls : Tbl Word32 := ((upFrom 0 lanes).zip (packLanes dst.bits r.1 lanes)).map fun p => (p.1, BitVec.ofNat 32 p.2)
    (r.2.2.pendAt x.cyc 4 (.vreg f.vd.toNat ls)).pendFlags x.cyc 4 r.2.1
  | _, _ => x

/-- V.CVT's field rules (R112, R113, R161). -/
def cvtOk (f : V1G) : Bool :=
  match vFmt f.fmtS, vFmt f.fmtD with
  | some src, some dst =>
    src != dst && src != .f64 && dst != .f64 && f.rnd != 3 && (f.rnd == 0 || !exactCvt src dst)
      && (src.bits == dst.bits || f.gm == 0) && f.vb == 0 && f.lg == 0 && f.imm6 == 0
  | _, _ => false

/-- V.CVT (R112): a stochastic one draws after the M slot of the same cycle (R106). -/
def execVCvt (t : Nat) (f : V1G) (s : State) : Outcome :=
  .next (s.slot t slV1 (cvtOk f) [(dkV, f.vd.toNat)] fun s => s.updTile t fun x =>
    if f.rnd = 1 then { x with cvtNow := some f } else x.cvt f)

/-- The stochastic conversion of this cycle, after the M slot's draws. -/
def Tile.cvtBeat (x : Tile) : Tile :=
  match x.cvtNow with
  | some f => { x.cvt f with cvtNow := none }
  | none => x

/-! ## V1 moves and draws (R112) -/

/-- A V1 operation that writes lanes of vd. -/
def State.v1 (s : State) (t : Nat) (f : V1G) (ok : Bool) (lat : Nat) (g : Tile → Tbl Word32 × Flg) : State :=
  s.slot t slV1 ok [(dkV, f.vd.toNat)] fun s =>
    let r := g (s.tile t)
    s.result t lat (.vreg f.vd.toNat r.1) r.2

/-- Fields LG, FMT_S, RND and FMT_D are zero. -/
def plainV1 (f : V1G) : Bool := f.lg == 0 && f.fmtS == 0 && f.rnd == 0 && f.fmtD == 0

/-- V.PERM (R112). -/
def execVPerm (t : Nat) (f : V1G) (s : State) : Outcome :=
  .next (s.v1 t f (plainV1 f && f.imm6 == 0) 3 fun x => laneMap (gmLanes f.gm) fun l =>
    (x.laneN f.va (l / 64 * 64 + x.laneN f.vb l % 64), 0))

/-- V.BCAST (R112). -/
def execVBcast (t : Nat) (f : V1G) (s : State) : Outcome :=
  .next (s.v1 t f (plainV1 f && f.vb == 0) 2 fun x => laneMap (gmLanes f.gm) fun l =>
    (x.laneN f.va (l / 64 * 64 + f.imm6.toNat), 0))

/-- The step number draws use: in the evaluation window after step n, n (R169). -/
def Hull.drawStep (x : Hull) : Nat :=
  match x.prog with
  | some p => if p.evalRun.isSome then x.step - 1 else x.step
  | none => x.step

/-- V.DRAW (R112, R169). -/
def execVDraw (t : Nat) (f : V1G) (s : State) : Outcome :=
  let h := s.hull (s.pod (podOf t)).hull
  .next (s.v1 t f (plainV1 f && f.vb == 0 && f.imm6 == 0) 6 fun x => laneMap (gmLanes f.gm) fun l =>
    ((drawWord h.k0 h.k1 x.drawDomain.toNat h.drawStep x.drawTensor.toNat (x.laneN f.va l)).toNat, 0))

/-! ## Exact accumulation (R114–R116, R162, R163) -/

/-- Element g of lg[i]. -/
def Tile.lgElem (x : Tile) (i : BitVec 4) (g : Nat) : LgElem := tget lgZero x.lg (16 * i.toNat + g)

/-- The term and flags an FP32 value adds (R114, R162). -/
def lgTerm (w : Nat) : Int × BitVec 4 :=
  match decodeF fp32 w with
  | .nan => (0, 4)
  | .inf n => (0, if n then 2 else 1)
  | .fin n m e => let v : Int := (m * 2 ^ (e + 149).toNat : Nat); (if n then -v else v, 0)

/-- The exact sum and flags of a list of FP32 values. -/
def lgSum (ws : List Nat) : Int × BitVec 4 :=
  ws.foldl (fun acc w => let r := lgTerm w; (acc.1 + r.1, acc.2 ||| r.2)) (0, 0)

/-- A V1 operation on lg[LG]. -/
def State.v1Lg (s : State) (t : Nat) (f : V1G) (ok : Bool) (lat : Nat) (g : Tile → Dest × Flg) : State :=
  s.slot t slV1 ok [(dkLg, f.lg.toNat)] fun s =>
    let r := g (s.tile t)
    s.result t lat r.1 r.2

/-- What an addition to element g of lg[i] adds to: the sum of the V.LGACC or V.LGIMP before it, usable or not (R116), also where a
V.LGZERO or V.LGFOLD lies between (log entry 91), else the element as it stands (R93). -/
def Tile.lgBase (x : Tile) (i : BitVec 4) (g : Nat) : LgElem :=
  match x.pend.reverse.findSome? (fun p => match p.dest with
    | .lgadd j es => if j = i.toNat then es.find? (fun e => e.1 == g) else none
    | _ => none) with
  | some e => { val := e.2.1, fl := e.2.2 }
  | none => x.lgElem i g

/-- Exact additions into the elements of the selected groups (R112, R114, R116): the sums and the flags raised. -/
def Tile.lgSums (x : Tile) (f : V1G) (term : Nat → Int × BitVec 4) : Dest × Flg :=
  let rs := (upFrom 0 (gmGroups f.gm)).map fun g => (g, lgAdd (x.lgBase f.lg g) (term g).1 (term g).2)
  (.lgadd f.lg.toNat (rs.map fun r => (r.1, r.2.1.val, r.2.1.fl)), rs.foldl (fun a r => a ||| r.2.2) 0)

/-- V.LGZERO (R112): the whole register, GM 0b00. -/
def execVLgzero (t : Nat) (f : V1G) (s : State) : Outcome :=
  .next (s.v1Lg t f (f.vd == 0 && f.va == 0 && f.vb == 0 && f.fmtS == 0 && f.rnd == 0 && f.gm == 0 && f.fmtD == 0
      && f.imm6 == 0) 1 fun _ => (.lgreg f.lg.toNat ((upFrom 0 16).map fun g => (g, 0, 0)), 0))

/-- V.LGACC (R112, R114, R116). -/
def execVLgacc (t : Nat) (f : V1G) (s : State) : Outcome :=
  .next (s.v1Lg t f (f.vd == 0 && f.vb == 0 && f.fmtS == 0 && f.rnd == 0 && f.fmtD == 0 && f.imm6 == 0) 6 fun x =>
    x.lgSums f fun g => lgSum (x.groupLanes f.va g))

/-- Reads an element out (R115): its encoding and the flags raised. -/
def lgRead (f : FFmt) (e : LgElem) : Nat × Flg :=
  let pinf := e.fl.getLsbD 0
  let ninf := e.fl.getLsbD 1
  let nan := e.fl.getLsbD 2
  let v := e.val.toInt
  if nan || (pinf && ninf) then (f.canonNaN, flagIf (!nan) fNV)
  else if pinf then (f.infCode false, 0)
  else if ninf then (f.infCode true, 0)
  else if e.fl.getLsbD 3 then (f.infCode (decide (v < 0)), 0)
  else encodeF f .rne (.fin (decide (v < 0)) v.natAbs (-149))

/-- V.LGRD (R112, R115, R163). -/
def execVLgrd (t : Nat) (f : V1G) (s : State) : Outcome :=
  .next (s.v1 t f (f.va == 0 && f.vb == 0 && f.fmtS == 0 && f.rnd == 0 && (f.fmtD == 0 || f.fmtD == 7) && f.imm6 == 0) 8
    fun x => groupMap f.gm fun g =>
      let r := lgRead (if f.fmtD = 0 then fp32 else fp64) (x.lgElem f.lg g)
      (if f.fmtD = 0 then [r.1] else [r.1 % 2 ^ 32, r.1 / 2 ^ 32], r.2))

/-- The folded element (R112, R163): exact sum, flags ORed, the bound and OVF past the range. -/
def Tile.lgFold (x : Tile) (i : BitVec 4) : LgElem × Flg :=
  let es := (upFrom 0 16).map (x.lgElem i)
  lgAdd { val := 0, fl := es.foldl (fun f e => f ||| e.fl) 0 } (es.foldl (fun (a : Int) e => a + e.val.toInt) 0) 0

/-- V.LGFOLD (R112, R163): the whole register, GM 0b00. -/
def execVLgfold (t : Nat) (f : V1G) (s : State) : Outcome :=
  .next (s.slot t slV1 (f.vd == 0 && f.va == 0 && f.vb == 0 && f.fmtS == 0 && f.rnd == 0 && f.gm == 0 && f.fmtD == 0
      && f.imm6 == 0) [(dkLg, f.lg.toNat)] fun s =>
    let r := (s.tile t).lgFold f.lg
    s.result t 10 (.lgreg f.lg.toNat ((0, r.1.val, r.1.fl) :: (upFrom 1 15).map fun g => (g, 0, 0))) r.2)

/-- V.LGEXP (R112). -/
def execVLgexp (t : Nat) (f : V1G) (s : State) : Outcome :=
  .next (s.v1 t f (f.va == 0 && f.vb == 0 && f.fmtS == 0 && f.rnd == 0 && f.fmtD == 0 && f.imm6 == 0) 4 fun x =>
    groupMap f.gm fun g =>
      let e := x.lgElem f.lg g
      ((upFrom 0 10).map (fun j => e.val.toNat / 2 ^ (32 * j) % 2 ^ 32) ++ [e.fl.toNat], 0))

/-- V.LGIMP (R112, R114). -/
def execVLgimp (t : Nat) (f : V1G) (s : State) : Outcome :=
  .next (s.v1Lg t f (f.vd == 0 && f.vb == 0 && f.fmtS == 0 && f.rnd == 0 && f.fmtD == 0 && f.imm6 == 0) 6 fun x =>
    x.lgSums f fun g =>
      let ls := x.groupLanes f.va g
      (toSigned 320 ((ls.take 10).foldr (fun w acc => w + 2 ^ 32 * acc) 0), BitVec.ofNat 4 (ls.getD 10 0)))

end Sys2Proof.Machine
end

