-- ==== Sys2Proof/Machine/Bundle.lean ====
section
/-!
DEFINITION. The encoding of bundles (R91, R92, R97, R109, R111, R112, R119–R122, R126, R133): 256 bits to the slots' instructions, and
which bundles are validly encoded. What an instruction meets (errors) is no part of its bits.
-/

namespace Sys2Proof.Machine

/-- Bits `[hi:lo]` of a word as an operand field. -/
def fld (w n hi lo : Nat) : BitVec n := BitVec.ofNat n (bitsOf w hi lo)

/-- An instruction if the bits that its opcode does not use are zero. -/
def given (b : Bool) (i : Instr) : Option (List Instr) := if b then some [i] else none

/-- The M slot (R97): no instruction for a NOP, none at all for bits that encode nothing. -/
def decodeM (t w : Nat) : Option (List Instr) :=
  let z := fun (hi : Nat) => bitsOf w hi 0 == 0
  let acc := fld w 3 43 41
  match bitsOf w 47 44 with
  | 0 => if w = 0 then some [] else none
  | 1 => given (z 17) (.mLdw t (fld w 1 43 43) (fld w 4 42 39) (fld w 5 38 34) (fld w 16 33 18) [])
  | 2 => given (z 6) (.mMma t acc (fld w 1 40 40) (fld w 4 39 36) (bitOf w 35) (fld w 5 34 30) (fld w 16 29 14) (fld w 7 13 7) [] .agree)
  | 3 => given (z 5) (.mDrain t acc (fld w 4 40 37) (fld w 2 36 35) (fld w 5 34 30) (fld w 16 29 14) (fld w 7 13 7) (bitOf w 6))
  | 4 => given (z 30) (.mDrv t acc (fld w 6 40 35) (fld w 4 34 31))
  | 5 => given (z 29) (.mAccld t acc (fld w 6 40 35) (fld w 4 34 31) (bitOf w 30))
  | 6 => given (z 40) (.mZero t acc)
  | _ => none

/-- The fields of a V0 instruction (R109). -/
def v0Fields (w : Nat) : V0 :=
  { vd := fld w 6 39 34, va := fld w 6 33 28, vb := fld w 6 27 22, vc := fld w 6 21 16, fmt := fld w 4 15 12, gm := fld w 2 11 10,
    imm := fld w 10 9 0 }

/-- The V0 slot (R109). -/
def decodeV0 (t w : Nat) : Option (List Instr) :=
  let f := v0Fields w
  let one := fun (i : Instr) => some [i]
  match bitsOf w 47 40 with
  | 0 => if w = 0 then some [] else none
  | 0x01 => one (.vFma t f) | 0x02 => one (.vAdd t f) | 0x03 => one (.vSub t f) | 0x04 => one (.vMul t f)
  | 0x05 => one (.vMax t f) | 0x06 => one (.vMin t f) | 0x07 => one (.vCmp t f) | 0x08 => one (.vSel t f)
  | 0x09 => one (.vAnd t f) | 0x0A => one (.vOr t f) | 0x0B => one (.vXor t f) | 0x0C => one (.vShl t f)
  | 0x0D => one (.vShr t f) | 0x0E => one (.vSra t f) | 0x10 => one (.vRcp t f) | 0x11 => one (.vRsq t f)
  | 0x12 => one (.vSqrt t f) | 0x13 => one (.vExp2 t f) | 0x14 => one (.vLog2 t f) | 0x18 => one (.vGsum t f)
  | _ => none

/-- The fields of V1's transfer form and general form (R111). -/
def v1tFields (w : Nat) : V1T := { v := fld w 6 39 34, sb := fld w 5 33 29, off := fld w 16 28 13, gm := fld w 2 11 10 }
def v1gFields (w : Nat) : V1G :=
  { vd := fld w 6 39 34, va := fld w 6 33 28, vb := fld w 6 27 22, lg := fld w 4 21 18, fmtS := fld w 4 17 14, rnd := fld w 2 13 12,
    gm := fld w 2 11 10, fmtD := fld w 4 9 6, imm6 := fld w 6 5 0 }

/-- The V1 slot (R111, R112). -/
def decodeV1 (t w : Nat) : Option (List Instr) :=
  let f := v1gFields w
  let tz := !bitOf w 12 && bitsOf w 9 0 == 0
  let one := fun (i : Instr) => some [i]
  match bitsOf w 47 40 with
  | 0 => if w = 0 then some [] else none
  | 0x20 => given tz (.vLd t (v1tFields w) []) | 0x21 => given tz (.vSt t (v1tFields w))
  | 0x28 => one (.vCvt t f) | 0x29 => one (.vPerm t f) | 0x2A => one (.vBcast t f) | 0x30 => one (.vDraw t f)
  | 0x38 => one (.vLgzero t f) | 0x39 => one (.vLgacc t f) | 0x3A => one (.vLgrd t f) | 0x3B => one (.vLgfold t f)
  | 0x3C => one (.vLgexp t f) | 0x3D => one (.vLgimp t f)
  | _ => none

/-- Forms R, I, C and P of the S slots (R121). -/
def srFields (s1 : Bool) (w : Nat) : SR :=
  { s1 := s1, pg := fld w 3 17 15, rd := fld w 5 14 10, ra := fld w 5 9 5, rb := fld w 5 4 0 }
def siFields (s1 : Bool) (w : Nat) : SI := { s1 := s1, pg := fld w 3 17 15, rd := fld w 5 14 10, imm := fld w 10 9 0 }
def scFields (s1 : Bool) (w : Nat) : SC :=
  { s1 := s1, pg := fld w 3 17 15, pd := fld w 3 12 10, ra := fld w 5 9 5, rb := fld w 5 4 0 }
def spFields (s1 : Bool) (w : Nat) : SP :=
  { s1 := s1, pg := fld w 3 17 15, pd := fld w 3 12 10, pa := fld w 3 7 5, pb := fld w 3 2 0 }

/-- An S slot (R121, R122). -/
def decodeS (t : Nat) (s1 : Bool) (w : Nat) : Option (List Instr) :=
  let r := srFields s1 w
  let i := siFields s1 w
  let c := scFields s1 w
  let p := spFields s1 w
  let top := bitsOf w 14 13 == 0
  let pz := top && bitsOf w 9 8 == 0 && bitsOf w 4 3 == 0
  let one := fun (i : Instr) => some [i]
  match bitsOf w 23 18 with
  | 0 => if w = 0 then some [] else none
  | 0x01 => one (.sAdd t r) | 0x02 => one (.sSub t r) | 0x03 => one (.sMul t r) | 0x04 => one (.sAnd t r)
  | 0x05 => one (.sOr t r) | 0x06 => one (.sXor t r) | 0x07 => one (.sShl t r) | 0x08 => one (.sShr t r)
  | 0x09 => one (.sSra t r) | 0x0A => one (.sMin t r) | 0x0B => one (.sMax t r) | 0x0C => one (.sMinu t r)
  | 0x0D => one (.sMaxu t r) | 0x10 => one (.sLi t i) | 0x11 => one (.sLih t i) | 0x12 => one (.sAddi t i)
  | 0x13 => one (.sShli t i) | 0x14 => one (.sShri t i)
  | 0x18 => given top (.sCeq t c) | 0x19 => given top (.sCne t c) | 0x1A => given top (.sClt t c) | 0x1B => given top (.sCge t c)
  | 0x1C => given top (.sCltu t c) | 0x1D => given top (.sCgeu t c)
  | 0x1E => given pz (.sPand t p) | 0x1F => given pz (.sPor t p) | 0x20 => given pz (.sPandn t p)
  | 0x24 => one (.sLd t r .ok) | 0x25 => one (.sSt t r)
  | 0x28 => given top (.sBr t s1 (fld w 3 17 15) (fld w 13 12 0))
  | 0x2C => one (.sRdstat t i) | 0x2D => one (.sSetfl t r) | 0x2E => one (.sDraw t r)
  | _ => none

/-- The A slot (R126). -/
def decodeA (t w : Nat) : Option (List Instr) :=
  let pg := fld w 3 33 31
  let q := fld w 3 30 28
  let z := fun (hi lo : Nat) => bitsOf w hi lo == 0
  match bitsOf w 39 34 with
  | 0 => if w = 0 then some [] else none
  | 1 => given (z 17 0) (.aEnq t pg q (fld w 5 27 23) (fld w 5 22 18) .ok)
  | 2 => given (z 27 6) (.aWait t pg q (fld w 6 5 0))
  | 3 => given (z 30 8) (.aWaitm t pg (fld w 8 7 0))
  | 4 => given (z 22 0) (.aQstat t pg q (fld w 5 27 23))
  | 5 => given (z 5 0) (.aPut t pg (fld w 5 30 26) (fld w 5 25 21) (fld w 5 20 16) (fld w 10 15 6) [])
  | 6 => given (z 20 16 && z 5 0) (.aPget t pg (fld w 5 30 26) (fld w 5 25 21) (fld w 10 15 6) [])
  | 7 => given (z 30 28 && z 22 1) (.aAucmd t pg (fld w 5 27 23) (fld w 1 0 0) .ok)
  | _ => none

/-- The Y slot (R133). -/
def decodeY (t w : Nat) : Option (List Instr) :=
  let f : YF := { pg := fld w 3 14 12, so := fld w 5 11 7, imm := fld w 7 6 0 }
  let one := fun (i : Instr) => some [i]
  match bitsOf w 19 15 with
  | 0 => if w = 0 then some [] else none
  | 0x01 => one (.ySignal t f) | 0x02 => one (.yAcq t f) | 0x03 => one (.yArrive t f) | 0x04 => one (.yBarr t f)
  | 0x05 => one (.yLease t f) | 0x06 => one (.yRelease t f) | 0x07 => one (.yBufget t f) | 0x08 => one (.yBufput t f)
  | 0x10 => one (.yEot t f) | 0x11 => one (.yBsw t f)
  | _ => none

/-- The instructions of a bundle, in slot order (R91); none where FORMAT or a slot encodes nothing. -/
def decodeBundle (t w : Nat) : Option (List Instr) :=
  if bitsOf w 255 252 ≠ 1 then none
  else
    match decodeM t (bitsOf w 47 0), decodeV0 t (bitsOf w 95 48), decodeV1 t (bitsOf w 143 96), decodeS t false (bitsOf w 167 144),
        decodeS t true (bitsOf w 191 168), decodeA t (bitsOf w 231 192), decodeY t (bitsOf w 251 232) with
    | some m, some v0, some v1, some s0, some s1, some a, some y => some (m ++ v0 ++ v1 ++ s0 ++ s1 ++ a ++ y)
    | _, _, _, _, _, _, _ => none

/-- V0 field rules (R109): the format codes an operation allows, and its unused fields. -/
def v0Ok : Instr → Bool
  | .vFma _ f => decide (f.fmt.toNat < 2) && f.imm == 0
  | .vAdd _ f | .vSub _ f | .vMul _ f | .vMax _ f | .vMin _ f => decide (f.fmt.toNat < 3) && f.vc == 0 && f.imm == 0
  | .vCmp _ f => decide (f.fmt.toNat < 3) && f.vc == 0 && decide (f.imm.toNat < 7)
  | .vSel _ f => f.fmt == 0 && f.imm == 0
  | .vAnd _ f | .vOr _ f | .vXor _ f => f.fmt == 0 && f.vc == 0 && f.imm == 0
  | .vShl _ f | .vShr _ f | .vSra _ f => f.fmt == 0 && f.vb == 0 && f.vc == 0 && decide (f.imm.toNat < 32)
  | .vRcp _ f | .vRsq _ f | .vSqrt _ f | .vExp2 _ f | .vLog2 _ f | .vGsum _ f => f.fmt == 0 && f.vb == 0 && f.vc == 0 && f.imm == 0
  | _ => true

/-- V1 field rules (R112, R113). -/
def v1Ok : Instr → Bool
  | .vCvt _ f => cvtOk f
  | .vPerm _ f => plainV1 f && f.imm6 == 0
  | .vBcast _ f => plainV1 f && f.vb == 0
  | .vDraw _ f => plainV1 f && f.vb == 0 && f.imm6 == 0
  | .vLgzero _ f | .vLgfold _ f =>
    f.vd == 0 && f.va == 0 && f.vb == 0 && f.fmtS == 0 && f.rnd == 0 && f.gm == 0 && f.fmtD == 0 && f.imm6 == 0
  | .vLgacc _ f | .vLgimp _ f => f.vd == 0 && f.vb == 0 && f.fmtS == 0 && f.rnd == 0 && f.fmtD == 0 && f.imm6 == 0
  | .vLgrd _ f => f.va == 0 && f.vb == 0 && f.fmtS == 0 && f.rnd == 0 && (f.fmtD == 0 || f.fmtD == 7) && f.imm6 == 0
  | .vLgexp _ f => f.va == 0 && f.vb == 0 && f.fmtS == 0 && f.rnd == 0 && f.fmtD == 0 && f.imm6 == 0
  | _ => true

/-- Field rules of the other slots (R97, R105, R122–R124, R126, R129, R132, R133); M.DRAIN's for some accumulator type, since the type
is state (R92). -/
def slotOk : Instr → Bool
  | .mLdw _ _ fmt _ _ _ => (mClass fmt).isSome
  | .mMma _ _ _ fmt _ _ _ _ _ _ => (mClass fmt).isSome
  | .mDrain _ _ fmt rnd _ _ _ _ => drainOk true fmt rnd || drainOk false fmt rnd
  | .sShli _ f | .sShri _ f => decide (f.imm.toNat < 64)
  | .sBr _ s1 _ _ => !s1
  | .sRdstat _ f => decide (f.imm.toNat < 8)
  | .sSetfl _ f => f.rd == 0 && f.rb == 0
  | .sDraw _ f => f.rd == 0
  | .aWaitm _ _ m => m != 0
  | .aPut _ _ _ _ port _ _ => decide (port.toNat < 17)
  | .ySignal _ f | .yAcq _ f => f.imm != 0
  | .yArrive _ f | .yBarr _ f | .yLease _ f | .yRelease _ f => f.imm == 0
  | .yBufget _ f => !f.imm.getLsbD 6
  | .yBufput _ f => decide (f.imm.toNat < 32)
  | .yEot _ f | .yBsw _ f => f.so == 0 && f.imm == 0
  | i => v0Ok i && v1Ok i

/-- The destination registers a slot names (R92, R120). -/
def slotDests : Instr → List (Nat × Nat)
  | .mLdw _ wb _ _ _ _ => [(dkWb, wb.toNat)]
  | .mMma _ acc _ _ _ _ _ _ _ _ | .mDrain _ acc _ _ _ _ _ _ | .mAccld _ acc _ _ _ | .mZero _ acc => [(dkAcc, acc.toNat)]
  | .mDrv _ _ vd _ => [(dkV, vd.toNat)]
  | .vFma _ f | .vAdd _ f | .vSub _ f | .vMul _ f | .vMax _ f | .vMin _ f | .vCmp _ f | .vSel _ f | .vAnd _ f | .vOr _ f | .vXor _ f
  | .vShl _ f | .vShr _ f | .vSra _ f | .vRcp _ f | .vRsq _ f | .vSqrt _ f | .vExp2 _ f | .vLog2 _ f | .vGsum _ f => [(dkV, f.vd.toNat)]
  | .vLd _ f _ => [(dkV, f.v.toNat)]
  | .vCvt _ f | .vPerm _ f | .vBcast _ f | .vDraw _ f | .vLgrd _ f | .vLgexp _ f => [(dkV, f.vd.toNat)]
  | .vLgzero _ f | .vLgacc _ f | .vLgfold _ f | .vLgimp _ f => [(dkLg, f.lg.toNat)]
  | .sAdd _ f | .sSub _ f | .sMul _ f | .sAnd _ f | .sOr _ f | .sXor _ f | .sShl _ f | .sShr _ f | .sSra _ f | .sMin _ f | .sMax _ f
  | .sMinu _ f | .sMaxu _ f | .sLd _ f _ => scalarDest dkS f.rd.toNat
  | .sLi _ f | .sLih _ f | .sAddi _ f | .sShli _ f | .sShri _ f | .sRdstat _ f => scalarDest dkS f.rd.toNat
  | .sCeq _ f | .sCne _ f | .sClt _ f | .sCge _ f | .sCltu _ f | .sCgeu _ f => scalarDest dkP f.pd.toNat
  | .sPand _ f | .sPor _ f | .sPandn _ f => scalarDest dkP f.pd.toNat
  | .aQstat _ _ _ rd => scalarDest dkS rd.toNat
  | .yBufget _ f => scalarDest dkS (f.imm.toNat % 32)
  | _ => []

/-- No pair of a list stands in it twice. -/
def allApart : List (Nat × Nat) → Bool
  | [] => true
  | a :: r => !r.contains a && allApart r

/-- A bundle is validly encoded (R92, R120), but for the rules that depend on recorded state. -/
def bundleOk (w : Nat) : Bool :=
  match decodeBundle 0 w with
  | some is => is.all slotOk && allApart (is.flatMap slotDests)
  | none => false

/-- The bundle at the fetch position of a tile's active bank (R91). -/
def Tile.bundle (x : Tile) : Nat := leNat (getBytes (if x.bank then x.bank1 else x.bank0) (32 * x.pc.toNat) 32)

end Sys2Proof.Machine
end

