-- ==== Sys2Proof/Machine/Access.lean ====
section
/-! DEFINITION. The access slot: descriptors, waits, pod-network transfers, engine commands (R126–R132, R210, R211). -/

namespace Sys2Proof.Machine

/-! ## Tensors of a program -/

/-- A tensor's declaration. -/
def imgTensor (i : Image) (id : Nat) : Option TensorDecl := i.tensors.find? fun d => d.id == id

/-- Bytes of a tensor of a program, 0 if it has none of that id. -/
def Prog.bytesOf (p : Prog) (id : Nat) : Nat := match imgTensor p.image id with | some d => d.bytes | none => 0

/-- Level and base of a tensor under the plan in force (tensor base table, R84). -/
def Prog.place (p : Prog) (id : Nat) : Option (Level × Nat) := (p.placed.find? fun e => e.1 == id).map (·.2)

/-- A tensor lies in tier A or tier B. -/
def Prog.inMemory (p : Prog) (id : Nat) : Bool :=
  match p.place id with
  | some (.tierA, _) | some (.tierB, _) => true
  | _ => false

/-- Does a byte range of a pod store reach a private bank of its engines (R228)? -/
def State.inPrivate (s : State) (p a n : Nat) : Bool :=
  [s.eng (2 * p), s.eng (2 * p + 1)].any fun e => meet a n (1048576 * e.bankBase, 1048576 * e.bankCount)

/-! ## Descriptor checks (R127, R128, R210, R211) -/

/-- Is a request block valid for its operation (R210, R211, R215), on queue `q` with this LOCAL and LENGTH? -/
def nmuOk (b : List Byte) (q loc len : Nat) : Bool :=
  let op := fieldLe b 0 1
  let fmt := fieldLe b 1 1
  let fl := fieldLe b 2 1
  let rule := fieldLe b 3 1
  let z := fun (a n : Nat) => fieldLe b a n == 0
  let t2 := decide (fieldLe b 0x08 4 < 2 ^ 20)
  let t3 := decide (fieldLe b 0x0C 4 < 2 ^ 20)
  let t4 := decide (fieldLe b 0x10 4 < 2 ^ 20)
  let out := decide (q < 4)
  let inStore := fun (n : Nat) => decide (loc % 64 = 0 ∧ loc + n ≤ tsEnd)
  match op with
  | 1 => !out && decide (fmt < 3) && decide (fl % 2 + fl / 4 % 2 < 2) && fl / 2 % 2 == 0 && decide (fl < 8) && rule == 0
      && z 0x08 12 && z 0x14 2 && z 0x18 40 && inStore len
      && decide (1 ≤ fieldLe b 6 2 + 65536 * fieldLe b 0x17 1 ∧ fieldLe b 6 2 + 65536 * fieldLe b 0x17 1 ≤ 131072)
      && decide (fieldLe b 0x16 1 < 2)
  | 2 => !out && decide (fmt < 2) && (fl == 0 || (fl == 2 && fmt == 1)) && decide (rule < 4) && z 4 4 && t2 && t3 && t4
      && z 0x16 2 && loc == 0 && z 0x3C 4
      && (rule == 1 || z 0x10 4) && (rule != 3 || z 0x0C 4)
  | 3 => !out && decide (fmt < 3) && fl == 0 && rule == 0 && z 4 2 && z 0x08 12 && z 0x14 2 && z 0x16 2 && z 0x1C 36
      && inStore len && decide (8 ≤ fieldLe b 6 2 ∧ fieldLe b 6 2 ≤ 4096 ∧ fieldLe b 6 2 % 8 = 0)
      && len == 32 * fieldLe b 6 2 && decide (fieldLe b 0x18 4 + 4 * fieldLe b 6 2 ≤ tsEnd)
  | 4 => out && z 1 63 && inStore 32
  | 5 => out && z 1 63 && inStore 16
  | 6 => !out && z 1 7 && t2 && z 0x0C 12 && z 0x20 32 && loc == 0
  | 7 => !out && z 1 7 && t2 && z 0x0C 12 && z 0x20 32 && loc == 0
  | 8 => !out && z 1 63 && loc == 0
  | 9 => !out && z 1 63 && loc == 0
  | _ => false

/-- Check 3 of R128 on a descriptor image for queue `q`; `mem` whether its tensor lies in tier A or B. -/
def descOk (d : Desc) (q : Nat) (mem : Bool) : Bool :=
  let im := d.image
  let fl := d.flags.toNat
  let bank := fl / 2 % 2 == 1
  let pod := fl / 4 % 2 == 1
  let lenOk := decide (d.length % 256 = 0 ∧ 256 ≤ d.length ∧ d.length ≤ 16777216)
  let room := if bank then 0x40000 else if pod then psEnd else tsEnd
  decide (fl < 8) && decide (fieldLe im 2 2 < 2 ^ 14) && decide (fieldLe im 4 4 < 2 ^ 20) && fieldLe im 0x1E 2 == 0
    && !(bank && pod)
    && (match d.kind with
      | 1 => decide (q < 4) && lenOk && d.aux == 0 && d.count == 0 && decide (d.loc % 64 = 0 ∧ d.loc + d.length ≤ room)
      | 2 => decide (4 ≤ q) && !bank && lenOk && d.aux == 0 && d.count == 0
          && decide (d.loc % 64 = 0 ∧ d.loc + d.length ≤ room)
      | 3 => decide (q < 4) && !bank && !pod && mem && decide (1 ≤ d.count ∧ d.count ≤ 4096) && d.length == 32 * d.count
          && decide (d.loc % 32 = 0 ∧ d.loc + d.length ≤ tsEnd ∧ d.aux + 4 * d.count ≤ tsEnd)
      | 4 => !bank && !pod && mem && lenOk && d.count == 0 && nmuOk d.block q d.loc d.length
      | _ => false)

/-- A descriptor from its 32 bytes, the request block it names, and s[SX] (R127). -/
def descOf (im block : List Byte) (sx : Word) (bank : Bool) (pgen : Word32) : Desc :=
  { kind := fieldLe im 0 1, flags := BitVec.ofNat 8 (fieldLe im 1 1), syncId := fieldLe im 2 2 % 2 ^ 14,
    tensor := fieldLe im 4 4 % 2 ^ 20, offset := (fieldLe im 8 8 + sx.toNat) % 2 ^ 64, loc := fieldLe im 0x10 4,
    length := fieldLe im 0x14 4, aux := fieldLe im 0x18 4, count := fieldLe im 0x1C 2, image := im, block := block,
    bank := bank, pgen := pgen, bad := false, completed := false, issued := false, status := 0 }

/-- An id lies in a hull's partition of the sync objects (R134). -/
def Hull.ownsSync (x : Hull) (id : Nat) : Bool := decide (x.syncBase ≤ id ∧ id < x.syncBase + x.syncCount)

/-- Queue q of a tile. -/
def Tile.queue (x : Tile) (q : Nat) : Queue := tget Queue.empty x.queues q
def Tile.setQueue (x : Tile) (q : Nat) (v : Queue) : Tile := { x with queues := tput x.queues q v }

/-- A.ENQ after its reads: the checks of R128 in order, then the queue. -/
def State.enqueue (s : State) (t q : Nat) (d : Desc) : State :=
  let x := s.tile t
  let h := s.hull (s.pod (podOf t)).hull
  let qu := x.queue q
  match h.prog with
  | none => s
  | some p =>
    if qu.descs.length ≥ 64 then s.contract t tfOverflow (some q)
    else if d.offset + d.length > p.bytesOf d.tensor || (d.flags.toNat % 2 == 1 && !h.ownsSync d.syncId) then
      s.contract t tfBound (some q)
    else
      -- a POD descriptor never reaches a private bank (R228): it is invalid (log entry 19)
      let priv := d.flags.toNat / 4 % 2 == 1 && s.inPrivate (podOf t) d.loc d.length
      let d := { d with bad := !descOk d q (p.inMemory d.tensor) || priv }
      s.setTile t (x.setQueue q { qu with descs := qu.descs ++ [d] })

/-- A.ENQ (R127, R128): reads the descriptor, and an NMU descriptor's request block, in its issue cycle; `e` is what those reads
meet. -/
def execAEnq (t : Nat) (pg q : BitVec 3) (sd sx : BitVec 5) (e : Ecc) (s : State) : Outcome :=
  .next (s.guarded t slA pg true [] fun s =>
    let x := s.tile t
    let a := (x.sreg sd).toNat % 2 ^ 22 / 32 * 32
    let im := x.tsRead a 32
    let nmu := fieldLe im 0 1 == 4
    let b := fieldLe im 0x18 4 % 2 ^ 22 / 64 * 64
    s.tsAccess t false ((a, 32) :: (if nmu then [(b, 64)] else [])) [] fun s => s.tsEcc t a e fun s =>
      let h := s.hull (s.pod (podOf t)).hull
      s.enqueue t q.toNat (descOf im (if nmu then x.tsRead b 64 else []) (x.sreg sx) (!x.bank) h.pgen))

/-! ## Waits (R129, R131) -/

/-- The queues a wait selects. -/
def Wait.queueNos : Wait → List Nat
  | .queue q _ => [q]
  | .queues m => (upFrom 0 8).filter fun q => m.getLsbD q
  | _ => []

/-- Is a queue wait met? -/
def Tile.waitMet (x : Tile) : Wait → Bool
  | .queue q n => decide ((x.queue q).descs.length ≤ n)
  | .queues m => (Wait.queues m).queueNos.all fun q => (x.queue q).descs.isEmpty
  | _ => false

/-- The status word takes the descriptors a met wait newly covers (R131). -/
def Queue.cover (q : Queue) : Queue :=
  let bad := (q.uncovered.map (·.status)).filter (· != 0)
  { q with uncovered := [], first := if q.first = 0 then bad.headD 0 else q.first,
           count := BitVec.ofNat 8 (min 255 (q.count.toNat + bad.length)) }

/-- A met wait covers its queues' retired descriptors. -/
def Tile.cover (x : Tile) (w : Wait) : Tile :=
  w.queueNos.foldl (fun x q => x.setQueue q (x.queue q).cover) x

/-- A wait of the A slot: met in its issue cycle it does not stall; else the tile stalls (R70, R129). -/
def State.waitOn (s : State) (t : Nat) (w : Wait) : State :=
  s.updTile t fun x => if x.waitMet w then x.cover w else { x with wait := some w, stallGtc := s.time.gtc, waited := 0 }

/-- A.WAIT (R129). -/
def execAWait (t : Nat) (pg q : BitVec 3) (n : BitVec 6) (s : State) : Outcome :=
  .next (s.guarded t slA pg true [] fun s => s.waitOn t (.queue q.toNat n.toNat))

/-- A.WAITM (R129): a zero mask is invalid. -/
def execAWaitm (t : Nat) (pg : BitVec 3) (mask : BitVec 8) (s : State) : Outcome :=
  .next (s.guarded t slA pg (mask != 0) [] fun s => s.waitOn t (.queues mask))

/-- A stalled tile issues again two cycles after its last wait is met (R70); at the marker it does not (R139). -/
def Tile.resume (x : Tile) : Tile :=
  if x.wait.isNone && x.syncWait.isNone && !x.eot then { x with resumeIn := 2 } else x

/-- A queue of a tile changed: a queue wait that is now met is over (R70, R129). -/
def Tile.wakeA (x : Tile) : Tile :=
  match x.wait with
  | some w => if x.waitMet w then ({ x.cover w with wait := none }).resume else x
  | none => x

/-- A.QSTAT (R131): reads the status word and clears it. -/
def execAQstat (t : Nat) (pg q : BitVec 3) (rd : BitVec 5) (s : State) : Outcome :=
  .next (s.guarded t slA pg true (scalarDest dkS rd.toNat) fun s =>
    let qu := (s.tile t).queue q.toNat
    let s := s.result t 1 (.sreg rd.toNat (BitVec.ofNat 64 (qu.first.toNat + 256 * qu.count.toNat))) 0
    s.updTile t fun x => x.setQueue q.toNat { qu with first := 0, count := 0 })

/-! ## Pod-network transfers (R132) -/

/-- A.PUT: a PORT of 17 or more is invalid. -/
def execAPut (t : Nat) (pg : BitVec 3) (ss sdst port : BitVec 5) (n1 : BitVec 10) (e : List Ecc) (s : State) : Outcome :=
  .next (s.guarded t slA pg (decide (port.toNat < 17)) [] fun s => s.updTile t fun x =>
    let dst := (x.sreg sdst).toNat / 64 * 64
    { x with puts := x.puts ++ [{ get := false, port := port.toNat, src := (x.sreg ss).toNat % 2 ^ 22 / 64 * 64,
                                  dst := dst % (if port.toNat = 16 then 2 ^ 24 else 2 ^ 22), n := n1.toNat + 1, k := 0,
                                  ecc := e }] })

/-- A.PGET. -/
def execAPget (t : Nat) (pg : BitVec 3) (ss sdst : BitVec 5) (n1 : BitVec 10) (e : List Ecc) (s : State) : Outcome :=
  .next (s.guarded t slA pg true [] fun s => s.updTile t fun x =>
    { x with puts := x.puts ++ [{ get := true, port := t % 16, src := (x.sreg ss).toNat % 2 ^ 24 / 64 * 64,
                                  dst := (x.sreg sdst).toNat % 2 ^ 22 / 64 * 64, n := n1.toNat + 1, k := 0, ecc := e }] })

/-- A granule on its way to a port of a pod. -/
def State.land1 (s : State) (p : Nat) (l : Landing) : State :=
  let x := s.pod p
  s.setPod p { x with landings := x.landings ++ [l] }

/-- A granule arrives (R132): a landing, no access. -/
def State.landNow (s : State) (p : Nat) (l : Landing) : State :=
  if l.port = 16 then
    let x := s.pod p
    s.setPod p { x with store := putBytes x.store l.addr l.bytes }
  else s.updTile (16 * p + l.port) fun x => x.tsWrite l.addr l.bytes

/-- The pod-store bank of a byte address: 16 banks of 1 MiB in address order (R64, R228; log entry 75). -/
def psBank (a : Nat) : Nat := a / 1048576

/-- A pod store access of a tile: one per bank and cycle (R78). -/
def State.psAccess (s : State) (t : Nat) (write : Bool) (a : Nat) (f : State → State) : State :=
  let p := podOf t
  let x := s.pod p
  let b := psBank a
  if s.podInFlight p write a 64 then s.contract t tfInFlight
  else if x.banks.contains b || s.inPrivate p a 64 then s.contract t tfBank
  else f (s.setPod p { x with banks := b :: x.banks })

/-- An uncorrectable pod-store error met by a tile's access (R73), or a corrected one (R72). -/
def State.psEcc (s : State) (t a : Nat) (e : Ecc) (f : State → State) : State :=
  match e with
  | .ok => f s
  | .corrected => f (s.storeCe (podOf t))
  | .uncorrectable => s.storeUe t a

/-- Granule k of a transfer moves in this cycle (R132). -/
def State.putBeat (s : State) (t : Nat) (r : PutRun) : State :=
  let p := podOf t
  let a := r.src + 64 * r.k
  let d := r.dst + 64 * r.k
  if r.get then
    let a := a % 2 ^ 24
    s.psAccess t false a fun s => s.psEcc t a (nextEcc r.ecc) fun s =>
      if (s.tile t).inFlight true d 64 then s.contract t tfInFlight
      else s.land1 p { left := 14, port := r.port, addr := d, bytes := getBytes (s.pod p).store a 64 }
  else
    s.tsAccess t false [(a, 64)] [] fun s => s.tsEcc t a (nextEcc r.ecc) fun s =>
      let b := (s.tile t).tsRead a 64
      if r.port = 16 then
        let d := d % 2 ^ 24
        if s.podInFlight p true d 64 then s.contract t tfInFlight
        else if s.inPrivate p d 64 then s.contract t tfBank
        else s.land1 p { left := 10, port := 16, addr := d, bytes := b }
      else if (s.tile (16 * p + r.port)).inFlight true d 64 then s.contract t tfInFlight
      else s.land1 p { left := 3, port := r.port, addr := d, bytes := b }

/-- Transfers of a tile after this cycle's granules. -/
def Tile.putsNext (x : Tile) : Tile :=
  { x with puts := x.puts.filterMap fun r => if r.k + 1 < r.n then some { r with k := r.k + 1, ecc := r.ecc.drop 1 } else none }

/-- A.AUCMD (R132): the 64-byte block is read at issue and accepted 6 cycles later. -/
def execAAucmd (t : Nat) (pg : BitVec 3) (sd : BitVec 5) (eng : BitVec 1) (e : Ecc) (s : State) : Outcome :=
  .next (s.guarded t slA pg true [] fun s =>
    let a := ((s.tile t).sreg sd).toNat % 2 ^ 22 / 64 * 64
    s.tsAccess t false [(a, 64)] [] fun s => s.tsEcc t a e fun s =>
      let k := 2 * podOf t + eng.toNat
      let x := s.eng k
      s.setEng k { x with sent := x.sent ++ [(6, (s.tile t).tsRead a 64, t)] })

end Sys2Proof.Machine
end

