-- ==== Sys2Proof/Machine/Hash.lean ====
section
/-!
DEFINITION. Checks and digests: CRC-32C (R377), SHA-256 and SHA-384 (R20, R39, R389, R447), ECDSA over NIST P-384 (R389, R452).
The manual names these standards; their round constants and curve parameters are the standards' own (log entry 12).
-/

namespace Sys2Proof.Machine

/-! ## CRC-32C (R377) -/

/-- One bit of the reflected CRC. -/
def crcBit (c : Word32) : Word32 := if c.getLsbD 0 then (c >>> 1) ^^^ 0x82F63B78 else c >>> 1

/-- One byte of the CRC. -/
def crcByte (c : Word32) (b : Byte) : Word32 :=
  let c := c ^^^ b.zeroExtend 32
  crcBit (crcBit (crcBit (crcBit (crcBit (crcBit (crcBit (crcBit c)))))))

/-- CRC-32C of a byte string. -/
def crc32c (l : List Byte) : Word32 := l.foldl crcByte 0xFFFFFFFF ^^^ 0xFFFFFFFF

/-! ## SHA-256 and SHA-384 -/

/-- The greatest r of at most `n` bits with r^k ≤ x, bit by bit from the top. -/
def rootFrom (k x : Nat) : Nat → Nat → Nat
  | 0, acc => acc
  | n + 1, acc => rootFrom k x n (if (acc + 2 ^ n) ^ k ≤ x then acc + 2 ^ n else acc)

/-- The first `bits` bits of the fractional part of the k-th root of p, a number below 512: the standard takes its constants so. -/
def fracRoot (k bits p : Nat) : Nat := rootFrom k (p * 2 ^ (k * bits)) (bits + 5) 0 % 2 ^ bits

/-- The first 80 primes, 2 to 409: no number from 2 to 20 divides one but itself. -/
def shaPrimes : List Nat := (upFrom 2 408).filter fun n => (upFrom 2 19).all fun d => n == d || n % d != 0

/-- Constants from the k-th roots of primes. -/
def shaRoots (w k : Nat) (ps : List Nat) : List (BitVec w) := ps.map fun p => BitVec.ofNat w (fracRoot k w p)

/-- Round constants of SHA-256: cube roots of the first 64 primes. -/
def sha256K : List (BitVec 32) := shaRoots 32 3 (shaPrimes.take 64)

/-- Round constants of SHA-384: cube roots of the first 80 primes. -/
def sha512K : List (BitVec 64) := shaRoots 64 3 shaPrimes

/-- The initial hash value of SHA-256: square roots of the first 8 primes. -/
def sha256H : List (BitVec 32) := shaRoots 32 2 (shaPrimes.take 8)

/-- The initial hash value of SHA-384: square roots of the 9th to 16th prime. -/
def sha384H : List (BitVec 64) := shaRoots 64 2 ((shaPrimes.drop 8).take 8)

/-- The rotation and shift amounts of a SHA-2 function: Σ0, Σ1, σ0, σ1 (the last of σ a shift). -/
structure ShaRot where
  a : Nat × Nat × Nat
  e : Nat × Nat × Nat
  s0 : Nat × Nat × Nat
  s1 : Nat × Nat × Nat
  deriving DecidableEq, Repr

def rot256 : ShaRot := ⟨(2, 13, 22), (6, 11, 25), (7, 18, 3), (17, 19, 10)⟩
def rot512 : ShaRot := ⟨(28, 34, 39), (14, 18, 41), (1, 8, 7), (19, 61, 6)⟩

variable {w : Nat}

/-- Σ: three rotations. -/
def shaBig (x : BitVec w) (r : Nat × Nat × Nat) : BitVec w := x.rotateRight r.1 ^^^ x.rotateRight r.2.1 ^^^ x.rotateRight r.2.2

/-- σ: two rotations and a shift. -/
def shaSmall (x : BitVec w) (r : Nat × Nat × Nat) : BitVec w := x.rotateRight r.1 ^^^ x.rotateRight r.2.1 ^^^ (x >>> r.2.2)

/-- The message schedule, newest word first: `n` more words. -/
def shaSchedule (r : ShaRot) : Nat → List (BitVec w) → List (BitVec w)
  | 0, l => l
  | n + 1, l =>
    shaSchedule r n ((shaSmall (l.getD 1 0) r.s1 + l.getD 6 0 + shaSmall (l.getD 14 0) r.s0 + l.getD 15 0) :: l)

/-- One round. -/
def shaRound (r : ShaRot) (v : List (BitVec w)) (kw : BitVec w × BitVec w) : List (BitVec w) :=
  match v with
  | [a, b, c, d, e, f, g, h] =>
    let t1 := h + shaBig e r.e + ((e &&& f) ^^^ (~~~e &&& g)) + kw.1 + kw.2
    let t2 := shaBig a r.a + ((a &&& b) ^^^ (a &&& c) ^^^ (b &&& c))
    [t1 + t2, a, b, c, d + t1, e, f, g]
  | v => v

/-- One block of 16 words. -/
def shaBlock (r : ShaRot) (ks : List (BitVec w)) (h ws : List (BitVec w)) : List (BitVec w) :=
  let sched := (shaSchedule r (ks.length - 16) ws.reverse).reverse
  (h.zip ((ks.zip sched).foldl (shaRound r) h)).map fun p => p.1 + p.2

/-- Padding to whole blocks of `blk` bytes with a length field of `len` bytes. -/
def shaPad (blk len : Nat) (l : List Byte) : List Byte :=
  let n := l.length
  l ++ [0x80] ++ zeros ((2 * blk - 1 - len - n % blk) % blk) ++ natBe len (8 * n)

/-- The blocks of a padded message, `n` of them, of 16 words of `b` bytes. -/
def shaBlocks (r : ShaRot) (ks : List (BitVec w)) (b : Nat) : Nat → List Byte → List (BitVec w) → List (BitVec w)
  | 0, _, h => h
  | n + 1, l, h =>
    let ws := (upFrom 0 16).map fun i => BitVec.ofNat w (beNat ((l.drop (b * i)).take b))
    shaBlocks r ks b n (l.drop (16 * b)) (shaBlock r ks h ws)

/-- SHA-256 of a byte string, as 32 bytes. -/
def sha256Bytes (l : List Byte) : List Byte :=
  let p := shaPad 64 8 l
  (shaBlocks rot256 sha256K 4 (p.length / 64) p sha256H).flatMap fun x => natBe 4 x.toNat

/-- SHA-256 as a number whose byte 0 is the digest's first byte. -/
def sha256 (l : List Byte) : BitVec 256 := BitVec.ofNat 256 (leNat (sha256Bytes l))

/-- SHA-384 of a byte string, as 48 bytes. -/
def sha384Bytes (l : List Byte) : List Byte :=
  let p := shaPad 128 16 l
  ((shaBlocks rot512 sha512K 8 (p.length / 128) p sha384H).take 6).flatMap fun x => natBe 8 x.toNat

/-- SHA-384 as a number whose byte 0 is the digest's first byte. -/
def sha384 (l : List Byte) : BitVec 384 := BitVec.ofNat 384 (leNat (sha384Bytes l))

/-! ## ECDSA over NIST P-384 -/

/-- The field prime of P-384. -/
def p384P : Nat := 2 ^ 384 - 2 ^ 128 - 2 ^ 96 + 2 ^ 32 - 1
/-- The curve's coefficient b. -/
def p384B : Nat :=
  0xb3312fa7e23ee7e4988e056be3f82d19181d9c6efe8141120314088f5013875ac656398d8a2ed19d2a85c8edd3ec2aef
/-- The group order. -/
def p384N : Nat :=
  0xffffffffffffffffffffffffffffffffffffffffffffffffc7634d81f4372ddf581a0db248b0a77aecec196accc52973
/-- The base point. -/
def p384G : Nat × Nat :=
  (0xaa87ca22be8b05378eb1c71ef320ad746e1d3b628ba79b9859f741e082542a385502f25dbf55296c3a545e3872760ab7,
   0x3617de4a96262c6f5d9e98bf9292dc29f8f41dbd289a147ce9da3113b5f0b8c00a60b1ce1d7e819d7a431d7c90ea0e5f)

/-- `b^e mod m`, exponent bits from the top. -/
def powModFrom (b e m : Nat) : Nat → Nat → Nat
  | 0, acc => acc
  | i + 1, acc =>
    let acc := acc * acc % m
    powModFrom b e m i (if bitOf e i then acc * b % m else acc)

/-- `b^e mod m` for exponents below 2^384. -/
def powMod (b e m : Nat) : Nat := powModFrom (b % m) e m 384 (1 % m)

/-- The inverse modulo a prime. -/
def invMod (a m : Nat) : Nat := powMod a (m - 2) m

/-- a − b mod p. -/
def subMod (a b m : Nat) : Nat := (a + (m - b % m)) % m

/-- A point in Jacobian coordinates; z = 0 at infinity. -/
structure JPoint where
  x : Nat
  y : Nat
  z : Nat
  deriving DecidableEq, Repr

/-- Doubling (a = −3). -/
def JPoint.double (q : JPoint) : JPoint :=
  let p := p384P
  if q.z = 0 ∨ q.y = 0 then ⟨1, 1, 0⟩
  else
    let d := q.z * q.z % p
    let g := q.y * q.y % p
    let b := q.x * g % p
    let al := 3 * (subMod q.x d p * ((q.x + d) % p)) % p
    let x := subMod (al * al) (8 * b) p
    let z := subMod (subMod ((q.y + q.z) ^ 2) g p) d p
    ⟨x, subMod (al * subMod (4 * b) x p) (8 * g * g) p, z⟩

/-- Addition. -/
def JPoint.add (q r : JPoint) : JPoint :=
  let p := p384P
  if q.z = 0 then r
  else if r.z = 0 then q
  else
    let zz := q.z * q.z % p
    let ww := r.z * r.z % p
    let u1 := q.x * ww % p
    let u2 := r.x * zz % p
    let s1 := q.y * (r.z * ww % p) % p
    let s2 := r.y * (q.z * zz % p) % p
    if u1 = u2 then (if s1 = s2 then q.double else ⟨1, 1, 0⟩)
    else
      let h := subMod u2 u1 p
      let t := subMod s2 s1 p
      let hh := h * h % p
      let hhh := h * hh % p
      let v := u1 * hh % p
      let x := subMod (subMod (t * t) hhh p) (2 * v) p
      ⟨x, subMod (t * subMod v x p) (s1 * hhh) p, q.z * r.z % p * h % p⟩

/-- A multiple of a point, bits from the top. -/
def JPoint.mulFrom (q : JPoint) (k : Nat) : Nat → JPoint → JPoint
  | 0, acc => acc
  | i + 1, acc =>
    let acc := acc.double
    JPoint.mulFrom q k i (if bitOf k i then acc.add q else acc)

/-- A multiple of a point. -/
def JPoint.mul (q : JPoint) (k : Nat) : JPoint := q.mulFrom k 384 ⟨1, 1, 0⟩

/-- ECDSA verification: public key (x, y), signature (r, s), digest e as a number. -/
def ecdsaOk (qx qy r s e : Nat) : Bool :=
  let p := p384P
  let n := p384N
  let onCurve := decide (qx < p ∧ qy < p) && (qy * qy % p == (qx * qx % p * qx + subMod p384B (3 * qx) p) % p)
  if onCurve && decide (1 ≤ r ∧ r < n ∧ 1 ≤ s ∧ s < n) then
    let w := invMod s n
    let q := JPoint.add (JPoint.mul ⟨p384G.1, p384G.2, 1⟩ (e % n * w % n)) (JPoint.mul ⟨qx, qy, 1⟩ (r * w % n))
    if q.z = 0 then false
    else
      let zi := invMod q.z p
      q.x * (zi * zi % p) % p % n == r
  else false

/-- A signature field of 96 bytes (r then s, big-endian, R389) over SHA-384 of a message; the key's x then y, 384 bits each. -/
def sigOk (key : BitVec 768) (sig msg : List Byte) : Bool :=
  let k := natBe 96 key.toNat
  ecdsaOk (beNat (k.take 48)) (beNat (k.drop 48)) (beNat (slice sig 0 48)) (beNat (slice sig 48 48)) (beNat (sha384Bytes msg))

end Sys2Proof.Machine
end

