-- ==== Sys2Proof/Machine/Phys.lean ====
section
/-!
DEFINITION. The device physical address map (R9, R10, R177, R180, R198): what lies at an address, which addresses are assigned, and the
rejected access.
-/

namespace Sys2Proof.Machine

/-! ## Units of the tiers (R177, R180) -/

/-- Data blocks of a unit. -/
def blkPer (tierB : Bool) : Nat := if tierB then 4186112 else 261632

/-- Units of a tier. -/
def unitCount (tierB : Bool) : Nat := if tierB then 64 else 512

/-- A unit by tier and number. -/
def unitOf (tierB : Bool) (n : Nat) : MemUnit := if tierB then .b n else .a n
def unitTier : MemUnit → Bool
  | .a _ => false
  | .b _ => true
def unitNo : MemUnit → Nat
  | .a c => c
  | .b j => j

/-- A unit number exists. -/
def unitIn (u : MemUnit) : Bool := decide (unitNo u < unitCount (unitTier u))

/-- The near-memory unit that serves a unit (R207). -/
def nmuOf : MemUnit → Nat
  | .a c => c / 64
  | .b j => 8 + j / 16

/-- Bytes of a unit's physical range, and of its data area: U of R183. -/
def unitBytes (tierB : Bool) : Nat := if tierB then 0x400000000 else 0x40000000
def dataBytes (tierB : Bool) : Nat := if tierB then 0x3FE000000 else 0x3FE00000

/-- First physical address of a unit. -/
def unitBase (u : MemUnit) : Nat := (if unitTier u then 0x010000000000 else 0) + unitNo u * unitBytes (unitTier u)

/-- Physical address of a data block, and of its husk's slot. -/
def blockAddr (u : MemUnit) (row : Nat) : Nat := unitBase u + 4096 * row
def huskAddr (u : MemUnit) (row : Nat) : Nat := unitBase u + dataBytes (unitTier u) + 8 * row

/-! ## The map (R9) -/

/-- What lies at a device physical address. -/
inductive PhysHome where
  /-- a byte of a data block -/
  | data (u : MemUnit) (row off : Nat)
  /-- a byte of a husk -/
  | husk (u : MemUnit) (row off : Nat)
  /-- the unused end of a husk region -/
  | spare (u : MemUnit) (off : Nat)
  | podStore (p off : Nat)
  /-- a control register, by BAR0 offset -/
  | register (off : Nat)
  deriving DecidableEq, Repr

/-- What lies at a byte of a unit's range. -/
def unitHome (u : MemUnit) (o : Nat) : PhysHome :=
  let d := dataBytes (unitTier u)
  if o < d then .data u (o / 4096) (o % 4096)
  else if o - d < 8 * blkPer (unitTier u) then .husk u ((o - d) / 8) ((o - d) % 8)
  else .spare u (o - d - 8 * blkPer (unitTier u))

/-- What lies at an address; none outside the ranges of R9. -/
def physHome (a : Nat) : Option PhysHome :=
  if a < 0x8000000000 then some (unitHome (.a (a / 0x40000000)) (a % 0x40000000))
  else if 0x010000000000 ≤ a ∧ a < 0x020000000000 then
    some (unitHome (.b ((a - 0x010000000000) / 0x400000000)) ((a - 0x010000000000) % 0x400000000))
  else if 0x040000000000 ≤ a ∧ a < 0x040008000000 then some (.podStore ((a - 0x040000000000) / 0x1000000) ((a - 0x040000000000) % 0x1000000))
  else if 0x080000000000 ≤ a ∧ a < 0x080001000000 then some (.register (a - 0x080000000000))
  else none

/-- The unit whose range an address lies in. -/
def PhysHome.unit? : PhysHome → Option MemUnit
  | .data u _ _ => some u
  | .husk u _ _ => some u
  | .spare u _ => some u
  | _ => none

/-- An address is assigned: in a range of the map, neither in the range of a unit that is mapped out (R198) nor in the pod store of a
fused pod (R3, R10). -/
def State.physAssigned (s : State) (a : Nat) : Bool :=
  match physHome a with
  | none => false
  | some (.podStore p _) => !s.board.fused.getLsbD p
  | some (.register _) => true
  | some x => match x.unit? with | some u => (s.unit u).state != 2 | none => true

/-- A rejected access of firmware or a near-memory unit to an unassigned address (R10): BUS record of space 1, INTG_BUSERR with PHYS,
INTG_EVENT.BUS_ERR. -/
def State.physReject (s : State) (src h : Nat) (write : Bool) (a size : Nat) : State :=
  let s := s.log1 (mkRec 0x01 0 src h 0xFF 0xFF 0 (natLe 8 a ++ natLe 1 size ++ natLe 1 (b2n write) ++ natLe 1 1))
  (s.setReg 0x0C0048 (a % 2 ^ 48 + bitAt write 48 + 2 ^ 49)).event evIntg 7 583

/-- The fused pods of a module as built (R3): none on an A8, one on each compute die on an A6. -/
def fusedLegal (m : BitVec 8) : Bool :=
  m == 0 || (((upFrom 0 4).filter m.getLsbD).length == 1 && ((upFrom 4 4).filter m.getLsbD).length == 1)

end Sys2Proof.Machine
end

