-- ==== Sys2Proof/Machine/Mem.lean ====
section
/-!
DEFINITION. The memory tiers (R177–R200, R220) and the husk (R376–R380): where a window's byte lives, reading and writing blocks, errors,
map-out, refresh, scrub.
-/

namespace Sys2Proof.Machine

/-! ## The husk (R376, R377, R193) -/

/-- Bits [63:32] of a husk: tensor id and block index. -/
def huskTag (tensor index : Nat) : Nat := tensor % 2 ^ 20 + index % 4096 * 2 ^ 20

/-- The husk of a payload with a tag. -/
def huskOf (payload : List Byte) (tag : Nat) : Word := BitVec.ofNat 64 ((crc32c payload).toNat + tag * 2 ^ 32)

/-- CRC-32C of 4,096 zero bytes. -/
def zeroCrc : Nat := 0x98F94189

/-- The unwritten marker (R193): a zero payload, tensor id 0xF_FFFF, block index 0xFFF. -/
def unwrittenHusk : Word := BitVec.ofNat 64 (zeroCrc + huskTag 0xFFFFF 0xFFF * 2 ^ 32)

/-- An unwritten block; an unlisted block reads as this. -/
def Blk.unwritten : Blk := { husk := unwrittenHusk, data := [] }

/-- The payload of a block. -/
def Blk.payload (b : Blk) : List Byte := getBytes b.data 0 4096

/-- A block that holds the unwritten marker. -/
def Blk.isUnwritten (b : Blk) : Bool := b.husk == unwrittenHusk

/-- What a check of a block finds. -/
inductive Check where
  | pass
  /-- code 1 CRC, 2 tag; the husk expected and the one stored -/
  | fail (code : Nat) (expected stored : Word)
  /-- no data to check: the access met an uncorrectable error (R179, R196) or a unit whose probe failed (R392) -/
  | uncorr
  deriving DecidableEq, Repr

/-- Checks a block against the tag a request expects; no tag where only the payload is checked (R378, R220). -/
def Blk.check (b : Blk) (tag : Option Nat) : Check :=
  if b.isUnwritten then (if b.data.isEmpty then .pass else .fail 1 (huskOf b.payload 0xFFFFFFFF) b.husk)
  else
    let stored := b.husk.toNat / 2 ^ 32
    let want := huskOf b.payload (tag.getD stored)
    if want.toNat % 2 ^ 32 ≠ b.husk.toNat % 2 ^ 32 then .fail 1 want b.husk
    else if want ≠ b.husk then .fail 2 want b.husk
    else .pass

/-- A block with a payload and a tag. -/
def Blk.of (payload : List Byte) (tag : Nat) : Blk :=
  let p := slice payload 0 4096
  { husk := huskOf p tag, data := putBytes [] 0 p }

/-! ## Where a window's block lives (R177, R180, R182, R183) -/

/-- Events of a tier's register block, and its first interrupt. -/
def memEv (tierB : Bool) : Nat := if tierB then evMemB else evMemA
def memIrq (tierB : Bool) : Nat := if tierB then 160 else 128

/-- The rotation of a row (R183). -/
def rowRotation (key : Word) (r n : Nat) : Nat :=
  let x := (BitVec.ofNat 64 r ^^^ key) * 0x9E3779B97F4A7C15
  (x ^^^ (x >>> 31)).toNat % n

/-- Place of a block in a list of extents: extent, slot, unit, row (R183); `b` counts blocks from the first of them. -/
def locate (per : Nat) : List Extent → Nat → Nat → Option (Nat × Nat × Nat × Nat)
  | [], _, _ => none
  | e :: r, i, b =>
    let n := e.units.length
    if b < n * per then
      let c := (b % n + rowRotation e.key (b / n) n) % n
      some (i, c, e.units.getD c 0, b / n)
    else locate per r (i + 1) (b - n * per)

/-- Start of extent i in blocks: S_i / 4096 (R182). -/
def extStart (per : Nat) (es : List Extent) (i : Nat) : Nat := sumOf ((es.take i).map fun e => e.units.length * per)

/-- The extents and limit of a hull's window. -/
def Hull.exts (x : Hull) (tierB : Bool) : List Extent := if tierB then x.extB else x.extA
def Hull.limit (x : Hull) (tierB : Bool) : Nat := if tierB then x.limitB else x.limitA

/-- Unit and row of a window block below LIMIT. -/
def Hull.find (x : Hull) (tierB : Bool) (wb : Nat) : Option (Nat × Nat) :=
  if wb * 4096 < x.limit tierB then (locate (blkPer tierB) (x.exts tierB) 0 wb).map fun p => (p.2.2.1, p.2.2.2) else none

/-! ## Blocks -/

/-- The block at a unit and row. -/
def State.blk (s : State) (tierB : Bool) (key : Nat) : Blk := tget Blk.unwritten (if tierB then s.mem.b else s.mem.a) key

/-- Stores a block; a block like an unlisted one is unlisted. -/
def State.setBlk (s : State) (tierB : Bool) (key : Nat) (b : Blk) : State :=
  if tierB then { s with mem := { s.mem with b := tset Blk.unwritten s.mem.b key b } }
  else { s with mem := { s.mem with a := tset Blk.unwritten s.mem.a key b } }

/-- Copies a marked block to its snapshot block before it is first written (R217). The copy is itself a write of that block, so a
marked snapshot block is copied first. `n` bounds the marks. -/
def State.copyOut : Nat → Bool → Nat → State → State
  | 0, _, _, s => s
  | n + 1, tierB, key, s =>
    let hit := fun (m : Mark) => m.tierB == tierB && m.key == key && !m.copied
    match s.mem.marks.find? hit with
    | none => s
    | some m =>
      let old := s.blk tierB key
      let s := { s with mem := { s.mem with marks := s.mem.marks.map fun k => if k = m then { k with copied := true } else k } }
      State.copyOut n tierB key ((State.copyOut n m.dstB m.dst s).setBlk m.dstB m.dst old)

/-- A write of a block: the first write to a marked one copies it to its snapshot block first (R217). -/
def State.putBlk (s : State) (tierB : Bool) (key : Nat) (b : Blk) : State :=
  (State.copyOut (s.mem.marks.length + 1) tierB key s).setBlk tierB key b

/-- A rejected access past LIMIT (R185): a record of class BUS; its access size is a free value (log entry 3). -/
def State.reject (s : State) (h : Nat) (tierB write : Bool) (off : Nat) : State :=
  let f := s.free
  f.2.log1 (mkRec 0x01 0 0x0600 h 0xFF 0xFF 0 (natLe 8 off ++ natLe 1 f.1.toNat ++ natLe 1 (b2n write)
    ++ natLe 1 (if tierB then 3 else 2)))

/-- A read of an unwritten block under debug class tenant or vendor (R195). -/
def State.sawUnwritten (s : State) (h : Nat) (tierB : Bool) (wb : Nat) : State :=
  let x := s.hull h
  if x.dbg = 0 then s
  else
    let f := fun (u : Bool × Nat × Nat) => if u.1 then (true, min (u.2.1 + 1) 0xFFFF, u.2.2) else (true, min (u.2.1 + 1) 0xFFFF, wb)
    s.setHull h (if tierB then { x with unwrittenB := f x.unwrittenB } else { x with unwrittenA := f x.unwrittenA })

/-- A check failure found on a path of R380: event, counts, record; the source as the path has it. -/
def State.huskFail (s : State) (src h pod tile tensor index : Nat) (c : Check) : State :=
  match c with
  | .pass | .uncorr => s
  | .fail code want stored =>
    let s := if code = 1 then s.regSat 0x0C0020 31 0 1 else s.regSat 0x0C0020 63 32 1
    let s := s.setHull h { s.hull h with prog := (s.hull h).prog.map fun p => { p with dirtyTick := true } }
    (s.event evIntg 0 576).log1
      (mkRec 0x04 2 src h pod tile code (natLe 4 tensor ++ natLe 8 index ++ natLe 8 want.toNat ++ natLe 8 stored.toNat))

/-! ## Map-out (R197–R200) -/

/-- Units that can be granted. -/
def State.freeUnits (s : State) (tierB : Bool) : List Nat :=
  (upFrom 0 (unitCount tierB)).filter fun n => (s.unit (unitOf tierB n)).state == 0

/-- Lowest and highest channel of a hull's tier B extents (R182). -/
def Hull.rangeB (x : Hull) : Option (Nat × Nat) :=
  match x.extB.flatMap (·.units) with
  | [] => none
  | u :: r => some (r.foldl min u, r.foldl max u)

/-- The replacement R199 chooses: the lowest free unit of the tier, in tier B one next to the hull's range. -/
def State.replacementFor (s : State) (tierB : Bool) (h : Nat) : Option Nat :=
  if tierB then
    match (s.hull h).rangeB with
    | some (lo, hi) => (s.freeUnits true).find? fun n => n + 1 == lo || n == hi + 1
    | none => none
  else (s.freeUnits false).head?

/-- Context 0 holds the highest-numbered channel that is not mapped out (R180), of those in no extent. -/
def State.pickFw (s : State) : State :=
  if (s.unitB s.mem.fwChannel).state = 4 then s
  else
    match (s.freeUnits true).getLast? with
    | some j => { s.setUnitB j { s.unitB j with state := 4 } with mem := { (s.setUnitB j { s.unitB j with state := 4 }).mem with fwChannel := j } }
    | none => s

/-- A unit leaves service for good (R198): state, event, interrupt and, in tier A, the last map-out registers (R205). -/
def State.mapOut (s : State) (u : MemUnit) (cause trigger : Nat) (repl : Option Nat) : State :=
  let tb := unitTier u
  let x := s.unit u
  let s := s.setUnit u { x with state := 2, cause := cause, hull := 0, extent := 0, slot := 0, copySource := false,
                                replacement := none, pendingCause := 0 }
  let s := { s with mem := if tb then { s.mem with usableB := s.mem.usableB - 1 } else { s.mem with usableA := s.mem.usableA - 1 } }
  let s := if tb then s else
    (s.setReg 0x060028 (unitNo u + cause * 2 ^ 16 + bitAt repl.isSome 32 + repl.getD 0 * 2 ^ 33)).setReg 0x060030 trigger
  let s := if x.state = 4 then s.pickFw else s
  s.event (memEv tb) 2 (memIrq tb + 2)

/-- The hull fault of R200: the extent is removed, LIMIT falls to its start, the program stops with FAULT. -/
def State.mapOutFail (s : State) (u : MemUnit) (cause trigger : Nat) : State :=
  let tb := unitTier u
  let x := s.unit u
  let h := x.hull
  let y := s.hull h
  let es := y.exts tb
  let start := 4096 * extStart (blkPer tb) es x.extent
  let units := match es[x.extent]? with | some e => e.units | none => []
  let left := match es[x.extent]? with
    | some e => (e.units.filter (· != unitNo u)).map fun n => (e.grant, unitOf tb n)
    | none => []
  let y := { y with orphans := y.orphans ++ left }
  let s := s.setHull h (if tb then { y with extB := dropAt es x.extent, limitB := min y.limitB start }
                        else { y with extA := dropAt es x.extent, limitA := min y.limitA start })
  let s := units.foldl (fun s n =>
    s.setUnit (unitOf tb n) { s.unit (unitOf tb n) with state := 1, hull := 0, extent := 0, slot := 0 }) s
  -- the extents after the removed one move down a place
  let s := (dropAt es x.extent).drop x.extent |>.flatMap (·.units) |>.foldl (fun s n =>
    let y := s.unit (unitOf tb n)
    s.setUnit (unitOf tb n) { y with extent := y.extent - 1 }) s
  let s := s.mapOut u cause trigger none
  let s := s.event (memEv tb) 3 (memIrq tb + 3)
  s.faultHull h (mkRec 0x03 2 (0x0200 + nmuOf u) h 0xFF 0xFF 0 (natLe 2 (unitNo u) ++ natLe 1 cause ++ natLe 8 0 ++ natLe 4 0))

/-- Is the extent that holds a unit being removed by a reclaim (R200)? -/
def State.extentLeaving (s : State) (u : MemUnit) : Bool :=
  let x := s.hull (s.unit u).hull
  x.reclaims.any fun r => decide (2 ≤ r.phase)
    && ((if unitTier u then x.extB else x.extA).any fun e => e.grant == r.grant.id && e.units.contains (unitNo u))

/-- A map-out begins (R199): at once where the unit lies in no extent, else by a copy to a replacement. -/
def State.mapOutStart (s : State) (u : MemUnit) (cause trigger : Nat) : State :=
  let x := s.unit u
  if x.state = 2 then s
  else if x.state ≠ 1 ∨ x.hull = 0 then s.mapOut u cause trigger none
  else
    match s.replacementFor (unitTier u) x.hull with
    | none => s.mapOutFail u cause trigger
    | some n =>
      if s.extentLeaving u then s.mapOutFail u cause trigger
      else
        let s := s.setUnit u { x with copySource := true, replacement := some n, pendingCause := cause, trigger := trigger }
        let r := unitOf (unitTier u) n
        let s := s.setUnit r { s.unit r with state := 3 }
        { s with mem := { s.mem with mapout := some u } }

/-- A trigger of R197: served now, or after the map-outs before it (R200). -/
def State.mapOutTrigger (s : State) (u : MemUnit) (cause : Nat) : State :=
  let x := s.unit u
  if x.state = 2 ∨ s.mem.mapout = some u ∨ (s.mem.mapoutQueue.any fun q => q.2.1 == u) then s
  else if unitTier u ∧ (cause = 2 ∨ cause = 3) then s.setUnit u { x with pendingCause := cause }
  else if s.mem.mapout.isSome then
    -- in order of trigger GTC, ties by unit number
    let before := s.mem.mapoutQueue.filter fun q => q.1 < s.time.gtc || (q.1 == s.time.gtc && unitNo q.2.1 ≤ unitNo u)
    let after := s.mem.mapoutQueue.filter fun q => !(q.1 < s.time.gtc || (q.1 == s.time.gtc && unitNo q.2.1 ≤ unitNo u))
    { s with mem := { s.mem with mapoutQueue := before ++ [(s.time.gtc, u, cause)] ++ after } }
  else s.mapOutStart u cause s.time.gtc

/-- Serves waiting triggers until one needs a copy. -/
def State.mapOutNext : Nat → State → State
  | 0, s => s
  | n + 1, s =>
    match s.mem.mapout, s.mem.mapoutQueue with
    | none, (g, u, c) :: r => State.mapOutNext n (State.mapOutStart { s with mem := { s.mem with mapoutQueue := r } } u c g)
    | _, _ => s

/-- Moves a unit's blocks to another. -/
def moveBlocks (per src dst : Nat) (t : Tbl Blk) : Tbl Blk :=
  (t.filter fun kv => kv.1 / per == src).foldl (fun t kv => tset Blk.unwritten t (per * dst + kv.1 % per) kv.2)
    (t.filter fun kv => kv.1 / per != src && kv.1 / per != dst)

/-- The copy of R199 ends: the replacement takes the slot. -/
def State.mapOutCopied (s : State) (u : MemUnit) (n : Nat) : State :=
  let tb := unitTier u
  let per := blkPer tb
  let old := unitNo u
  let x := s.unit u
  let re := fun (k : Nat) => if k / per = old then per * n + k % per else k
  let m := s.mem
  let marks := m.marks.map fun (k : Mark) =>
    { k with key := if k.tierB = tb then re k.key else k.key, dst := if k.dstB = tb then re k.dst else k.dst }
  let s := { s with mem := { m with a := if tb then m.a else moveBlocks per old n m.a,
                                    b := if tb then moveBlocks per old n m.b else m.b, marks := marks } }
  let fix := fun (es : List Extent) => es.map fun e => { e with units := e.units.map fun v => if v = old then n else v }
  let y := s.hull x.hull
  let s := s.setHull x.hull (if tb then { y with extB := fix y.extB } else { y with extA := fix y.extA })
  let r := unitOf tb n
  let s := s.setUnit r { s.unit r with state := 1, hull := x.hull, extent := x.extent, slot := x.slot }
  s.mapOut u x.pendingCause x.trigger (some n)

/-- MAPOUT_COPY_COMPLETE (R199, R200): the copy has ended, `ok` unless it met an uncorrectable block. Every block is checked on the
way (R379). -/
def execMapoutCopyComplete (u : MemUnit) (ok : Bool) (s : State) : Outcome :=
  .next (if s.mem.mapout ≠ some u ∨ !s.inService then s
    else
      let x := s.unit u
      let per := blkPer (unitTier u)
      let clean := (if unitTier u then s.mem.b else s.mem.a).all fun kv => kv.1 / per != unitNo u || kv.2.check none == .pass
      let s' := { s with mem := { s.mem with mapout := none } }
      let s' := match x.replacement with
        | some n =>
          if ok && clean && !s.extentLeaving u then s'.mapOutCopied u n
          else
            let r := unitOf (unitTier u) n
            let f := s'.setUnit r { s'.unit r with state := 0 }
            f.mapOutFail u x.pendingCause x.trigger
        | none => s'
      s'.mapOutNext (s'.mem.mapoutQueue.length))

/-! ## Errors (R179, R196) -/

/-- A record of class MEM. -/
def memRec (s : State) (u : MemUnit) (h sev cause row count : Nat) : State :=
  s.log1 (mkRec 0x03 sev (0x0200 + nmuOf u) h 0xFF 0xFF 0 (natLe 2 (unitNo u) ++ natLe 1 cause ++ natLe 8 (4096 * row) ++ natLe 4 count))

/-- A corrected error (R179). -/
def State.memCorrected (s : State) (u : MemUnit) : State :=
  let x := s.unit u
  s.setUnit u { x with corrected := min (x.corrected + 1) 0xFFFFFFFF }

/-- An uncorrectable error (R179): event and interrupt; two within 24 h map the unit out (R197). -/
def State.memUncorr (s : State) (u : MemUnit) (h row : Nat) : State :=
  let x := s.unit u
  let again := match x.lastUncorr with | some g => decide (s.time.gtc - g ≤ 86400000000000) | none => false
  let s := s.setUnit u { x with uncorr := min (x.uncorr + 1) 0xFF, lastUncorr := some s.time.gtc }
  let s := s.setHull h { s.hull h with prog := (s.hull h).prog.map fun p => { p with dirtyTick := true } }
  let s := memRec (s.event (memEv (unitTier u)) 0 (memIrq (unitTier u))) u h 2 (if again then 3 else 0) row 1
  if again then s.mapOutTrigger u 3 else s

/-- Repeats after a parity or link error (R196); the ninth failure is an uncorrectable error. -/
def State.memRetries (s : State) (u : MemUnit) (h row n : Nat) : State :=
  let x := s.unit u
  let s := s.setUnit u { x with parityRetries := min (x.parityRetries + min n 8) 0xFFFF }
  if n ≤ 8 then s
  else
    let again := match x.lastParity with | some g => decide (s.time.gtc - g ≤ 1000000000) | none => false
    let s := s.setUnit u { s.unit u with lastParity := some s.time.gtc }
    let s := s.event (memEv (unitTier u)) 1 (memIrq (unitTier u) + 1)
    let s := if again then s.mapOutTrigger u 2 else s
    s.memUncorr u h row

/-- What an access to a unit meets: true where it goes on with data. -/
def State.memEcc (s : State) (u : MemUnit) (h row : Nat) (e : Ecc) (retries : Nat) : Bool × State :=
  let s := if retries = 0 then s else s.memRetries u h row retries
  if retries > 8 then (false, s)
  else match e with
    | .ok => (true, s)
    | .corrected => (true, s.memCorrected u)
    | .uncorrectable => (false, s.memUncorr u h row)

/-! ## Accesses to a unit -/

/-- A unit's blocks answer every request with FAULT: the probe of its near-memory unit failed (R392). -/
def State.unitFailed (s : State) (u : MemUnit) : Bool := s.nmu.failed.contains (nmuOf u)

/-- How an access to a row of a unit ends. -/
inductive Served where
  | done
  /-- no data, or nothing written: FAULT -/
  | lost
  /-- the unit's range is unassigned (R198): a read gives zeros, a write has no effect -/
  | unassigned
  deriving DecidableEq, Repr

/-- What the command at work meets at a row of a unit: the first entry of its list for that row, which is then used up. -/
def State.takeMeet (s : State) (u : MemUnit) (row : Nat) : Ecc × Nat × State :=
  match s.mem.meets.findIdx? fun m => m.unit == u && m.row == row with
  | none => (.ok, 0, s)
  | some i =>
    match s.mem.meets[i]? with
    | some m => (m.ecc, m.retries, { s with mem := { s.mem with meets := dropAt s.mem.meets i } })
    | none => (.ok, 0, s)

/-- A request to a unit that is being copied is held (R199): the command as a whole waits (`State.meeting`). -/
def State.holdAt (s : State) (u : MemUnit) : State :=
  if (s.unit u).copySource then { s with mem := { s.mem with stuck := true } } else s

/-- An access of the command at work to a row of a unit: what it meets is the first entry of the command's list for that row, a row not
listed meets nothing (R179, R196). A write of a whole block reads nothing that an error could lose. -/
def State.access (s : State) (h : Nat) (u : MemUnit) (row : Nat) (write whole : Bool) : Served × State :=
  if !s.physAssigned (blockAddr u row) then (.unassigned, s.physReject (0x0200 + nmuOf u) h write (blockAddr u row) 256)
  else if (s.unit u).copySource then (.lost, s.holdAt u)
  else if s.unitFailed u then (.lost, s)
  else
    let k := s.takeMeet u row
    let r := k.2.2.memEcc u h row (if whole then .ok else k.1) k.2.1
    (if r.1 then .done else .lost, r.2)

/-- A command whose accesses meet what `m` lists, in order. Where one of them is held by a map-out the command has no effect yet: it is
issued again once the unit is replaced (R199, log entry 77). -/
def State.meeting (s : State) (m : List Meet) (f : State → State) : State :=
  let r := f { s with mem := { s.mem with meets := m, lost := false, stuck := false } }
  if r.mem.stuck then s else { r with mem := { r.mem with meets := [], lost := false, stuck := false } }

/-! ## Reading and writing windows (R183, R185, R186, R193–R195) -/

/-- A block of a window as an access finds it: its content, zeros past LIMIT or where nothing is assigned; none where it is lost. -/
def State.fetchBlk (s : State) (h : Nat) (tierB : Bool) (wb : Nat) : State × Option Blk :=
  match (s.hull h).find tierB wb with
  | none => (s.reject h tierB false (4096 * wb), some Blk.unwritten)
  | some (u, row) =>
    let r := s.access h (unitOf tierB u) row false false
    match r.1 with
    | .done =>
      let b := r.2.blk tierB (blkPer tierB * u + row)
      (if b.isUnwritten then r.2.sawUnwritten h tierB wb else r.2, some b)
    | .lost => (r.2, none)
    | .unassigned => (r.2, some Blk.unwritten)

/-- Fetches a block and checks it against a tag (R379); none asks for no tag. -/
def State.checkBlk (s : State) (h : Nat) (tierB : Bool) (wb : Nat) (tag : Option Nat) : State × Blk × Check :=
  match s.fetchBlk h tierB wb with
  | (s, some b) => (s, b, b.check tag)
  | (s, none) => (s, Blk.unwritten, .uncorr)

/-- What a read of window blocks gives: the state after it, the payload up to a failing block, and that block's index and finding. -/
structure ReadOut where
  st : State
  data : List Byte
  bad : Option (Nat × Check)

/-- Reads blocks of a tensor whose base block in a window is `base`, checking each (R379); R185 past LIMIT. -/
def readBlocks (h : Nat) (tierB : Bool) (base tensor : Nat) : List Nat → ReadOut → ReadOut
  | [], o => o
  | i :: r, o =>
    match o.bad with
    | some _ => o
    | none =>
      match o.st.checkBlk h tierB (base + i) (some (huskTag tensor i)) with
      | (st, b, .pass) => readBlocks h tierB base tensor r { st := st, data := o.data ++ b.payload, bad := none }
      | (st, _, c) => { st := st, data := o.data, bad := some (i, c) }

/-- The blocks a byte range touches. -/
def blocksOf (off len : Nat) : List Nat := if len = 0 then [] else upFrom (off / 4096) ((off + len - 1) / 4096 + 1 - off / 4096)

/-- Bytes `[off, off + len)` of a tensor in a window: cut from whole checked blocks; short where a block failed. -/
def State.readRange (s : State) (h : Nat) (tierB : Bool) (base tensor off len : Nat) : ReadOut :=
  let o := readBlocks h tierB (base / 4096) tensor (blocksOf off len) { st := s, data := [], bad := none }
  { o with data := (o.data.drop (off % 4096)).take len }

/-- Puts a block into a window as an access does; a write that is lost is noted. -/
def State.storeBlk (s : State) (h : Nat) (tierB : Bool) (wb lo : Nat) (whole : Bool) (f : Blk → Blk) : State :=
  match (s.hull h).find tierB wb with
  | none => s.reject h tierB true (4096 * wb + lo)
  | some (u, row) =>
    let key := blkPer tierB * u + row
    let r := s.access h (unitOf tierB u) row true whole
    match r.1 with
    | .done => r.2.putBlk tierB key (f (r.2.blk tierB key))
    | .lost => { r.2 with mem := { r.2.mem with lost := true } }
    | .unassigned => r.2

/-- A block with bytes merged into its content, under a tag's husk (R186). -/
def Blk.merged (b : Blk) (tag lo : Nat) (bytes : List Byte) : Blk :=
  let d := putBytes b.data lo bytes
  { husk := huskOf (getBytes d 0 4096) tag, data := d }

/-- Writes the part of a block that a byte range covers, merged with its content, with the tag's husk (R186). -/
def State.writePart (s : State) (h : Nat) (tierB : Bool) (wb tag lo : Nat) (bytes : List Byte) : State :=
  s.storeBlk h tierB wb lo (bytes.length == 4096) fun b => b.merged tag lo bytes

/-- Writes bytes at an offset of a tensor in a window, block by block. -/
def State.writeRange (s : State) (h : Nat) (tierB : Bool) (base tensor off : Nat) (bytes : List Byte) : State :=
  (blocksOf off bytes.length).foldl (fun s i =>
    let lo := max off (4096 * i)
    let hi := min (off + bytes.length) (4096 * (i + 1))
    s.writePart h tierB (base / 4096 + i) (huskTag tensor i) (lo - 4096 * i) ((bytes.drop (lo - off)).take (hi - lo))) s

/-- Zero-fills part of a window: whole blocks take the unwritten marker, a block covered in part is merged (R193, R211). -/
def State.zeroRange (s : State) (h : Nat) (tierB : Bool) (base tensor off len : Nat) : State :=
  (blocksOf off len).foldl (fun s i =>
    let lo := max off (4096 * i)
    let hi := min (off + len) (4096 * (i + 1))
    if hi - lo = 4096 then s.storeBlk h tierB (base / 4096 + i) 0 true fun _ => Blk.unwritten
    else s.writePart h tierB (base / 4096 + i) (huskTag tensor i) (lo - 4096 * i) (zeros (hi - lo))) s

/-- One narrow read of 32 bytes (R187, R381): no husk check; zeros from an unwritten block, none where the access is lost. -/
def State.narrowRead (s : State) (h : Nat) (tierB : Bool) (a : Nat) : State × Option (List Byte) :=
  let r := s.fetchBlk h tierB (a / 4096)
  (r.1, r.2.map fun b => getBytes b.data (a % 4096) 32)

/-! ## Refresh and scrub (R190, R220) -/

/-- REFRESH (R190): changes no bit; the time of the unit's refresh. -/
def execRefresh (u : MemUnit) (s : State) : Outcome :=
  .next (if unitIn u && s.mem.trained then s.setUnit u { s.unit u with refreshed := s.time.gtc } else s)

/-- REFRESH_HOT (R190): a stack's or package's readout; HOT set raises the interrupt. -/
def execRefreshHot (tierB : Bool) (ix : Nat) (hot : Bool) (tempC : Byte) (s : State) : Outcome :=
  .next (if ix < (if tierB then 16 else 8) ∧ s.rst.dev ≠ .cold then
      let k := if tierB then 8 + ix else ix
      let was := s.mem.hot.getLsbD k
      let bit := BitVec.ofNat 24 (2 ^ k)
      let s := { s with mem := { s.mem with hot := if hot then s.mem.hot ||| bit else s.mem.hot &&& ~~~bit,
                                            temp := tset 0 s.mem.temp k tempC } }
      if hot && !was then s.event (memEv tierB) 4 (memIrq tierB + 4) else s
    else s)

/-- A mismatch that scrub or VERIFY finds (R211, R220): event, interrupt and a record of class HUSK; nothing stops. -/
def State.huskFound (s : State) (u : MemUnit) (h tensor index : Nat) (c : Check) : State :=
  match c with
  | .pass | .uncorr => s
  | .fail code want stored =>
    let s := if code = 1 then s.regSat 0x0C0020 31 0 1 else s.regSat 0x0C0020 63 32 1
    (s.event evNmu 1 257).log1 (mkRec 0x04 1 (0x0200 + nmuOf u) h 0xFF 0xFF code
      (natLe 4 tensor ++ natLe 8 index ++ natLe 8 want.toNat ++ natLe 8 stored.toNat))

/-- The memory units that a near-memory unit serves and that are not mapped out, in ascending physical order. -/
def State.servedUnits (s : State) (n : Nat) : List MemUnit :=
  ((if n < 8 then (upFrom (64 * n) 64).map .a else (upFrom (16 * (n - 8)) 16).map .b)).filter fun u => (s.unit u).state != 2

/-- The owner whose background share a unit's scrub uses (R218, R208): its hull, else context 0. -/
def State.scrubOwner (s : State) (u : MemUnit) : Nat := (s.unit u).hull

/-- Blocks that a unit's scrub has had to read by a GTC, at an even pace. -/
def scrubDue (gtc per hours : Nat) : Nat := gtc * per / (max 1 hours * 3600000000000)

/-- Blocks of a unit whose scrub has fallen due since the last account. -/
def State.scrubOwed (s : State) (u : MemUnit) : Nat :=
  let hours := s.regF 0x080010 7 0
  let per := blkPer (unitTier u)
  if (s.unit u).state = 2 then 0 else scrubDue s.time.gtc per hours - scrubDue s.nmu.scrubMark per hours

/-- Scrub work that has fallen due since the last account joins the owners' backlogs. -/
def State.accrueScrub (s : State) : State :=
  let add := fun (s : State) (u : MemUnit) =>
    let n := s.scrubOwed u
    if n = 0 then s
    else
      let k := 8 * nmuOf u + s.scrubOwner u
      let b := tget (0, 0, 0) s.nmu.backlog k
      { s with nmu := { s.nmu with backlog := tset (0, 0, 0) s.nmu.backlog k (b.1 + n, b.2) } }
  let s := (upFrom 0 512).foldl (fun s c => add s (.a c)) s
  let s := (upFrom 0 64).foldl (fun s j => add s (.b j)) s
  { s with nmu := { s.nmu with scrubMark := s.time.gtc } }

/-- An owner's scrub backlog on a near-memory unit (R219): blocks past due; none while the scrub is ahead of its pace. -/
def State.scrubBacklog (s : State) (n owner : Nat) : Nat :=
  let owed := sumOf (((s.servedUnits n).filter fun u => s.scrubOwner u == owner).map s.scrubOwed)
  ((tget (0, 0, 0) s.nmu.backlog (8 * n + owner)).1 + owed).toNat

/-- One block of a scrub (R220): the code's result, then the husk of a written block or the zero payload of an unwritten one, against
the tag `tag` where the request names one (R211, R378). The stack's severity reports that the scrub reads name no effect. -/
def State.scrubOne (s : State) (u : MemUnit) (row : Nat) (e : Ecc) (retries : Nat) (tag : Option Nat) : State :=
  let h := (s.unit u).hull
  let key := blkPer (unitTier u) * unitNo u + row
  let r := s.memEcc u h row e retries
  if !r.1 then r.2
  else
    let s := if e = .corrected then
        let n := nmuOf u
        { r.2 with nmu := { r.2.nmu with
          scrubCorrected := tput r.2.nmu.scrubCorrected n (min (tget 0 r.2.nmu.scrubCorrected n + 1) 0xFFFFFFFF) } }
      else r.2
    let b := s.blk (unitTier u) key
    let k := b.check tag
    let at_ := tag.getD (b.husk.toNat / 2 ^ 32)
    s.huskFound u h (at_ % 2 ^ 20) (at_ / 2 ^ 20) k

/-- Where the scrub of a near-memory unit stands: the first of its units that the pass has not finished (R220). -/
def State.scrubUnit? (s : State) (n : Nat) : Option MemUnit :=
  (s.servedUnits n).find? fun u => decide ((s.unit u).scrubRow < blkPer (unitTier u))

/-- A pass that has read every unit in service is complete, and the next begins. -/
def State.scrubWrap (s : State) (n : Nat) : State :=
  if (s.scrubUnit? n).isSome || (s.servedUnits n).isEmpty then s
  else
    let s := (s.servedUnits n).foldl (fun s u => s.setUnit u { s.unit u with scrubRow := 0 }) s
    { s with nmu := { s.nmu with passes := tput s.nmu.passes n ((tget 0 s.nmu.passes n + 1) % 2 ^ 32) } }

/-- SCRUB_BLOCK (R220): the next block of a near-memory unit's pass, in ascending physical order; a block out of that order is not
scrubbed. -/
def execScrubBlock (u : MemUnit) (row : Nat) (e : Ecc) (retries : Nat) (s : State) : Outcome :=
  .next (
    let n := nmuOf u
    let s := s.scrubWrap n
    if unitIn u && s.mem.trained && s.inService && !s.board.standby && s.scrubUnit? n == some u && decide (row = (s.unit u).scrubRow) then
      let k := 8 * n + s.scrubOwner u
      let bl := tget (0, 0, 0) s.nmu.backlog k
      let s := { s with nmu := { s.nmu with backlog := tset (0, 0, 0) s.nmu.backlog k (bl.1 - 1, bl.2) } }
      let s := s.setUnit u { s.unit u with scrubRow := row + 1 }
      (s.scrubOne u row e retries none).scrubWrap n
    else s)

end Sys2Proof.Machine
end

