-- ==== Sys2Proof/Machine/SyncObj.lean ====
section
/-! DEFINITION. The sync slot and the homes of sync objects (R133–R139, R128 signals). -/

namespace Sys2Proof.Machine

/-! ## At a home (R135) -/

/-- Opcodes of the Y slot (R133). -/
def yoSignal : Nat := 1
def yoAcq : Nat := 2
def yoArrive : Nat := 3
def yoBarr : Nat := 4
def yoLease : Nat := 5
def yoRelease : Nat := 6
def yoBufget : Nat := 7
def yoBufput : Nat := 8

/-- Does an operation wait (R133)? -/
def yWaits (op : Nat) : Bool := op == yoAcq || op == yoBarr || op == yoLease || op == yoBufget

/-- The kind of object an operation needs (R135). -/
def yKind (op : Nat) : Nat := if op ≤ 2 then 0 else if op ≤ 4 then 1 else if op ≤ 6 then 2 else 3

/-- The register value Y.BUFGET gets from NO_RESOURCE (R135). -/
def noBuffer : Word := 0xFFFFFFFFFFFFFFFF

/-- An operation's answer to its sender: status, and for Y.BUFGET the register value. -/
structure Answer where
  req : SyncReq
  st : Byte
  val : Option Word
  deriving DecidableEq, Repr

/-- The next generation. -/
def SyncObj.advance (o : SyncObj) : SyncObj := { o with gen := o.gen + 1 }

/-- The lowest free index of a pool (R135). -/
def SyncObj.lowestFree (o : SyncObj) : Option Nat := (upFrom 0 o.param).find? fun i => !o.held.contains i

/-- A request that the object can meet now: the object after it and the answer (R135). -/
def SyncObj.tryGrant (o : SyncObj) (r : SyncReq) : Option (SyncObj × Answer) :=
  if r.op = yoAcq then
    if r.amount ≤ o.value then some ({ o with value := o.value - r.amount }.advance, ⟨r, sDONE, none⟩) else none
  else if r.op = yoLease then
    if o.holder.isNone then
      some ({ o with holder := some r.src, heldTicks := 0, broken := false, former := o.former.filter (· != r.src) }.advance,
            ⟨r, sDONE, none⟩)
    else none
  else if r.op = yoBufget then
    match o.lowestFree with
    | some i => some ({ o with held := i :: o.held }.advance, ⟨r, sDONE, some (BitVec.ofNat 64 i)⟩)
    | none => none
  else none

/-- Waiters are served from the head, in strict arrival order (R135); `n` bounds the number served. -/
def SyncObj.serve : Nat → SyncObj → List Answer → SyncObj × List Answer
  | 0, o, l => (o, l)
  | n + 1, o, l =>
    match o.waiters with
    | [] => (o, l)
    | r :: rest =>
      match o.tryGrant r with
      | some (o', a) => SyncObj.serve n { o' with waiters := rest } (l ++ [a])
      | none => (o, l)

/-- An arrival at a barrier (R135): at EXPECTED every waiting Y.BARR completes. -/
def SyncObj.arrive (o : SyncObj) : SyncObj × List Answer :=
  if o.value + 1 ≥ o.param then
    ({ o with value := 0, waiters := [] }.advance, o.waiters.map fun r => ⟨r, sDONE, none⟩)
  else ({ o with value := o.value + 1 }, [])

/-- Adds to a counter; past the bound it takes the bound with BAD_PARAM (R135). -/
def SyncObj.add (o : SyncObj) (n : Nat) : SyncObj × Byte :=
  if o.value + n > 0xFFFFFFFF then ({ o with value := 0xFFFFFFFF }, sBADPARAM) else ({ o with value := o.value + n }, sDONE)

/-- An operation takes effect at an object of its kind (R135, R137): the object and every answer. -/
def SyncObj.apply (o : SyncObj) (r : SyncReq) : SyncObj × List Answer :=
  if yKind r.op ≠ o.kind then (o, [⟨r, sBADPARAM, none⟩])
  else if r.op = yoSignal then
    let a := o.add r.amount
    let b := SyncObj.serve a.1.waiters.length a.1 []
    (b.1, ⟨r, a.2, none⟩ :: b.2)
  else if r.op = yoArrive then
    let a := o.arrive
    (a.1, ⟨r, sDONE, none⟩ :: a.2)
  else if r.op = yoBarr then { o with waiters := o.waiters ++ [r] }.arrive
  else if r.op = yoRelease then
    if o.former.contains r.src then ({ o with former := o.former.filter (· != r.src) }, [⟨r, sLEASEBROKEN, none⟩])
    else if o.holder = some r.src then
      let b := SyncObj.serve o.waiters.length { o with holder := none } []
      (b.1, ⟨r, sDONE, none⟩ :: b.2)
    else (o, [⟨r, sDENIED, none⟩])
  else if r.op = yoBufput then
    if o.held.contains r.amount then
      let b := SyncObj.serve o.waiters.length { o with held := o.held.erase r.amount } []
      (b.1, ⟨r, sDONE, none⟩ :: b.2)
    else (o, [⟨r, sBADPARAM, none⟩])
  else if o.waiters.isEmpty then
    match o.tryGrant r with
    | some (o', a) => (o', [a])
    | none =>
      if r.op = yoBufget ∧ r.nowait then (o, [⟨r, sNORES, some noBuffer⟩])
      else ({ o with waiters := [r] }, [])
  else if r.op = yoBufget ∧ r.nowait ∧ o.lowestFree.isNone then (o, [⟨r, sNORES, some noBuffer⟩])
  else ({ o with waiters := o.waiters ++ [r] }, [])

/-! ## Back at the tile (R70, R138) -/

/-- An operation of a tile is answered: its status enters the sync status, a pool index its register, and a waiting one completes
once every earlier Y operation of the tile is in effect. -/
def Tile.answered (x : Tile) (a : Answer) : Tile :=
  let x := (x.sync a.st a.req.stamp)
  let x := match a.val with | some v => x.setS a.req.rd v | none => x
  let x := { x with syncsOut := x.syncsOut - 1,
                    syncWait := if yWaits a.req.op then some (.granted a.req.id) else x.syncWait }
  match x.syncWait with
  | some (.granted _) => if x.syncsOut = 0 then ({ x with syncWait := none }).resume else x
  | _ => x

/-- An answer reaches its sender; a control core's or the host's request leaves an output. -/
def State.answer (s : State) (a : Answer) : State :=
  match a.req.tile with
  | some t => if (s.tile t).live then s.updTile t fun x => x.answered a else s
  | none => s.emit (.priv "sync" a.req.hull a.req.id [a.req.src, a.st.toNat, (a.val.getD 0).toNat])

/-- A request takes effect at its object's home (R134, R135). -/
def State.syncEffect (s : State) (r : SyncReq) : State :=
  match tfind s.sync r.id with
  | some o =>
    if o.hull ≠ r.hull then s.answer ⟨r, sBADPARAM, none⟩
    else
      let b := o.apply r
      b.2.foldl State.answer { s with sync := tput s.sync r.id b.1 }
  | none => s.answer ⟨r, sBADPARAM, none⟩

/-- An increment by 1 of a counter semaphore by a descriptor or an engine (R128, R249): false where no counter has the id, or where
the sum passes the bound (R135). -/
def State.signalCounter (s : State) (id : Nat) : State × Bool :=
  match tfind s.sync id with
  | some o =>
    if o.kind ≠ 0 then (s, false)
    else
      let a := o.add 1
      let b := SyncObj.serve a.1.waiters.length a.1 []
      (b.2.foldl State.answer { s with sync := tput s.sync id b.1 }, a.2 == sDONE)
  | none => (s, false)

/-! ## The Y slot (R133, R138) -/

/-- Sends an operation of a tile to the object's home: 8 pod cycles inside the own pod (R68), else over the spine (R71). An id
outside the hull's partition is outside the hull (R78). -/
def State.ySend (s : State) (t op id amount : Nat) (nowait : Bool) (rd : Nat) : State :=
  let x := s.tile t
  let p := podOf t
  let h := (s.pod p).hull
  if !(s.hull h).ownsSync id then s.contract t tfBound
  else
    let own := match tfind s.sync id with | some o => o.pod == p | none => true
    let r : SyncReq := { left := if own then some 8 else none, tile := some t, src := x.lam, hull := h, op := op, id := id,
                         amount := amount, nowait := nowait, rd := rd, stamp := x.cyc, gtc := s.time.gtc }
    let s := s.setTile t { x with syncsOut := x.syncsOut + 1,
                                  syncWait := if yWaits op then some (.sync id) else x.syncWait,
                                  stallGtc := if yWaits op then s.time.gtc else x.stallGtc,
                                  waited := if yWaits op then 0 else x.waited }
    if own then
      let y := s.pod p
      s.setPod p { y with reqs := y.reqs ++ [r] }
    else { s with spine := s.spine ++ [r] }

/-- The object named by SO (R133). -/
def Tile.soId (x : Tile) (so : BitVec 5) : Nat := (x.sreg so).toNat % 2 ^ 14

/-- Issues a Y operation on an object. -/
def State.yOp (s : State) (t : Nat) (f : YF) (ok : Bool) (dests : List (Nat × Nat)) (op : Nat) (amount : Tile → Nat)
    (nowait : Bool) (rd : Nat) : State :=
  s.guarded t slY f.pg ok dests fun s => s.ySend t op ((s.tile t).soId f.so) (amount (s.tile t)) nowait rd

/-- Y.SIGNAL: amount 1–127. -/
def execYSignal (t : Nat) (f : YF) (s : State) : Outcome :=
  .next (s.yOp t f (f.imm != 0) [] yoSignal (fun _ => f.imm.toNat) false 0)
/-- Y.ACQ: amount 1–127; waits. -/
def execYAcq (t : Nat) (f : YF) (s : State) : Outcome :=
  .next (s.yOp t f (f.imm != 0) [] yoAcq (fun _ => f.imm.toNat) false 0)
/-- Y.ARRIVE. -/
def execYArrive (t : Nat) (f : YF) (s : State) : Outcome := .next (s.yOp t f (f.imm == 0) [] yoArrive (fun _ => 0) false 0)
/-- Y.BARR: waits. -/
def execYBarr (t : Nat) (f : YF) (s : State) : Outcome := .next (s.yOp t f (f.imm == 0) [] yoBarr (fun _ => 0) false 0)
/-- Y.LEASE: waits. -/
def execYLease (t : Nat) (f : YF) (s : State) : Outcome := .next (s.yOp t f (f.imm == 0) [] yoLease (fun _ => 0) false 0)
/-- Y.RELEASE. -/
def execYRelease (t : Nat) (f : YF) (s : State) : Outcome :=
  .next (s.yOp t f (f.imm == 0) [] yoRelease (fun _ => 0) false 0)
/-- Y.BUFGET: IMM7[4:0] the register, [5] NOWAIT, [6] zero. -/
def execYBufget (t : Nat) (f : YF) (s : State) : Outcome :=
  let rd := f.imm.toNat % 32
  .next (s.yOp t f (!f.imm.getLsbD 6) (scalarDest dkS rd) yoBufget (fun _ => 0) (f.imm.getLsbD 5) rd)
/-- Y.BUFPUT: IMM7[4:0] names the register holding the index; [6:5] zero. -/
def execYBufput (t : Nat) (f : YF) (s : State) : Outcome :=
  .next (s.yOp t f (decide (f.imm.toNat < 32)) [] yoBufput (fun x => (x.sreg (BitVec.ofNat 5 f.imm.toNat)).toNat) false 0)

/-- Y.EOT (R139): the tile comes to its end-of-tick marker. -/
def execYEot (t : Nat) (f : YF) (s : State) : Outcome :=
  .next (s.guarded t slY f.pg (f.so == 0 && f.imm == 0) [] fun s => s.updTile t fun x => { x with eot := true })
/-- Y.BSW (R139): requests a bank switch at the next tick boundary. -/
def execYBsw (t : Nat) (f : YF) (s : State) : Outcome :=
  .next (s.guarded t slY f.pg (f.so == 0 && f.imm == 0) [] fun s => s.updTile t fun x => { x with switchPending := true })

/-! ## Requests over the spine, and lease breaks (R136, R137) -/

/-- A request arrives at its object's home in this cycle: requests of one cycle take effect at its end in order of source number
(R136); where no object has the id there is no home, and it is answered at once. -/
def State.syncArrive (s : State) (r : SyncReq) : State :=
  match tfind s.sync r.id with
  | some o =>
    let y := s.pod o.pod
    s.setPod o.pod { y with reqs := y.reqs ++ [{ r with left := some 1 }] }
  | none => s.syncEffect r

/-- SYNC_REQUEST_ARRIVE (R136): a request of a tile in another pod, in the order the spine delivers them for one object of
a tile (R138), or one firmware makes, arrives at its object's home. -/
def execSyncRequestArrive (a : SyncArrival) (s : State) : Outcome :=
  .next (match a with
    | .inFlight k =>
      match s.spine[k]? with
      | some r =>
        -- a tile's operations on one object take effect in issue order (R138)
        if (s.spine.take k).any fun q => q.tile == r.tile && q.id == r.id then s
        else State.syncArrive { s with spine := dropAt s.spine k } r
      | none => s
    | .core src hull op id amount nowait =>
      if 1 ≤ op ∧ op ≤ 8 ∧ s.rst.dev ≠ .cold then
        s.syncArrive { left := none, tile := none, src := src, hull := hull, op := op, id := id, amount := amount,
                       nowait := nowait, rd := 0, stamp := 0, gtc := s.time.gtc }
      else s)

/-- A lease is broken (R137): freed, BROKEN set, waiters complete with LEASE_BROKEN, an error record of class SYNC. -/
def State.breakLease (s : State) (id : Nat) : State :=
  match tfind s.sync id with
  | some o =>
    match o.holder with
    | some src =>
      if o.kind = 2 then
        let o' := { o with holder := none, broken := true, waiters := [], former := src :: o.former }.advance
        let s := (o.waiters.map fun r => (⟨r, sLEASEBROKEN, none⟩ : Answer)).foldl State.answer { s with sync := tput s.sync id o' }
        s.log1 (mkRec 0x0A 2 src o.hull o.pod 0xFF 0 (natLe 2 id ++ natLe 2 src ++ natLe 2 o'.gen.toNat))
      else s
    | none => s
  | none => s

/-- LEASE_BREAK (R137): a lease held past its HOLD_LIMIT in tick boundaries. -/
def execLeaseBreak (id : Nat) (s : State) : Outcome :=
  .next (match tfind s.sync id with
    | some o => if o.holdLimit ≠ 0 ∧ o.heldTicks > o.holdLimit then s.breakLease id else s
    | none => s)

end Sys2Proof.Machine
end

