-- ==== Sys2Proof/Machine/Desc.lean ====
section
/-! DEFINITION. Descriptors at work and their retirement (R127–R131, R73, R75, R379–R381). -/

namespace Sys2Proof.Machine

/-! ## Where logical tiles are (R22) -/

/-- The physical tile at a position of a hull's running program. -/
def State.tileAt (s : State) (h j : Nat) : Option Nat := (s.tilesOf h).find? fun t => (s.tile t).position == j

/-- The physical tile that runs a logical tile. -/
def State.tileOfLam (s : State) (h lam : Nat) : Option Nat :=
  match (s.hull h).prog with
  | some p => s.tileAt h (lam / 2 ^ p.foldLog2)
  | none => none

/-! ## Results of a descriptor -/

/-- The state after a descriptor's work and the status it completes with. -/
abbrev Work := State × Byte

/-- A failed husk check on a path of a running program: record, and the hull stops as for STORE_UE with POD_TFAULT unchanged (R380). -/
def State.huskStop (s : State) (src h pod tile tensor index : Nat) (c : Check) : State :=
  ((s.huskFail src h pod tile tensor index c).stopHull h 3 sFAULT true).raise 98

/-- An uncorrectable pod-store error met by an access that is not a tile's (R73): counted and recorded, the pod's hull stops. -/
def State.podUe (s : State) (p addr : Nat) : State :=
  let s := s.regSat (0x100008 + 0x20000 * p) 47 32 1
  let h := (s.pod p).hull
  let f := s.free
  f.2.faultHull h (mkRec 0x02 2 0x0600 h p 0xFF 0 (natLe 8 addr ++ natLe 8 f.1.toNat))

/-- A store read by a descriptor: a tile store's error is the owning tile's (R73), a pod store's is nobody's. -/
def State.storeEcc (s : State) (tile : Option Nat) (p addr : Nat) (e : Ecc) : Bool × State :=
  match e with
  | .ok => (true, s)
  | .corrected => (true, s.storeCe p)
  | .uncorrectable => (false, match tile with | some t => s.storeUe t addr | none => s.podUe p addr)

/-- Reads a tensor range for a tile's descriptor, from wherever the plan places the tensor (R84, R127). The bytes that can be
delivered come with DONE, or with FAULT after a failed check, which stops the hull (R380), or an uncorrectable error, which does not
(R179). -/
def State.tensorFetch (s : State) (t h : Nat) (pr : Prog) (tensor off len : Nat) (e : Ecc) : State × List Byte × Byte :=
  let lam := (s.tile t).lam
  let mem := fun (tierB : Bool) (base : Nat) =>
    let o := s.readRange h tierB base tensor off len
    match o.bad with
    | none => (o.st, o.data, sDONE)
    | some (_, .uncorr) => (o.st, o.data, sFAULT)
    | some (i, c) => (o.st.huskStop lam h (podOf t) (t % 16) tensor i c, o.data, sFAULT)
  match pr.place tensor with
  | some (.tierA, base) => mem false base
  | some (.tierB, base) => mem true base
  | some (lvl, base) =>
    let home := match imgTensor pr.image tensor with | some d => d.home | none => 0
    match s.tileOfLam h home with
    | none => (s, zeros len, sDONE)
    | some ht =>
      let own := if lvl = .tileStore then some ht else none
      let r := s.storeEcc own (podOf ht) (base + off) e
      if !r.1 then (r.2, [], sFAULT)
      else (r.2, if lvl = .tileStore then (r.2.tile ht).tsRead (base + off) len
                 else getBytes (r.2.pod (podOf ht)).store (base + off) len, sDONE)
  | none => (s, zeros len, sDONE)

/-- Writes a tensor range. -/
def State.tensorStore (s : State) (h : Nat) (pr : Prog) (tensor off : Nat) (b : List Byte) : State :=
  match pr.place tensor with
  | some (.tierA, base) => s.writeRange h false base tensor off b
  | some (.tierB, base) => s.writeRange h true base tensor off b
  | some (lvl, base) =>
    let home := match imgTensor pr.image tensor with | some d => d.home | none => 0
    match s.tileOfLam h home with
    | none => s
    | some ht =>
      if lvl = .tileStore then s.updTile ht fun x => x.tsWrite (base + off) b
      else
        let y := s.pod (podOf ht)
        s.setPod (podOf ht) { y with store := putBytes y.store (base + off) b }
  | none => s

/-- Writes bytes of an instruction bank. -/
def Tile.bankWrite (x : Tile) (bank : Bool) (a : Nat) (b : List Byte) : Tile :=
  if bank then { x with bank1 := putBytes x.bank1 a b } else { x with bank0 := putBytes x.bank0 a b }

/-- READ (R127): lands in the tile store, the own pod store, or the bank that was inactive at enqueue; if that bank is active
now, nothing is written, BANK_BUSY is recorded and the status is BUSY (R75). BANK_BUSY is no queue-related fault in the model: QUEUE of
R89 keeps its value (log entry 78). -/
def State.doRead (s : State) (t h : Nat) (pr : Prog) (d : Desc) (e : Ecc) : Work :=
  let bank := d.flags.toNat / 2 % 2 == 1
  let pod := d.flags.toNat / 4 % 2 == 1
  if bank && d.bank == (s.tile t).bank then (s.updTile t fun x => x.fault tfBusy none, sBUSY)
  else
    let r := s.tensorFetch t h pr d.tensor d.offset d.length e
    let s := r.1
    if bank then (s.updTile t fun x => x.bankWrite d.bank d.loc r.2.1, r.2.2)
    else if pod then
      let y := s.pod (podOf t)
      (s.setPod (podOf t) { y with store := putBytes y.store d.loc r.2.1 }, r.2.2)
    else (s.updTile t fun x => x.tsWrite d.loc r.2.1, r.2.2)

/-- WRITE (R127, R379): FAULT where the store's word or a block of the tensor is lost. -/
def State.doWrite (s : State) (t h : Nat) (pr : Prog) (d : Desc) (e : Ecc) : Work :=
  let pod := d.flags.toNat / 4 % 2 == 1
  let r := s.storeEcc (if pod then none else some t) (podOf t) d.loc e
  if !r.1 then (r.2, sFAULT)
  else
    let b := if pod then getBytes (r.2.pod (podOf t)).store d.loc d.length else (r.2.tile t).tsRead d.loc d.length
    let s := r.2.tensorStore h pr d.tensor d.offset b
    (s, if s.mem.lost then sFAULT else sDONE)

/-- The status of parts, in order: the first that is not DONE (R207). -/
def firstBad (a b : Byte) : Byte := if a = sDONE then b else a

/-- GATHER (R127, R128): an entry outside the tensor lands zeros and makes the status BAD_PARAM, one that is lost lands nothing and makes
it FAULT; the first of them stands. -/
def State.doGather (s : State) (t h : Nat) (pr : Prog) (d : Desc) : Work :=
  match pr.place d.tensor with
  | some (lvl, base) =>
    let tierB := lvl == .tierB
    let idx := (upFrom 0 d.count).map fun i => fieldLe ((s.tile t).tsRead (d.aux + 4 * i) 4) 0 4
    let size := pr.bytesOf d.tensor
    (upFrom 0 d.count).zip idx |>.foldl (fun (acc : Work) ix =>
      let off := d.offset + 32 * ix.2
      if off + 32 > size then (acc.1.updTile t fun x => x.tsWrite (d.loc + 32 * ix.1) (zeros 32), firstBad acc.2 sBADPARAM)
      else
        match acc.1.narrowRead h tierB (base + off) with
        | (s, some b) => (s.updTile t fun x => x.tsWrite (d.loc + 32 * ix.1) b, acc.2)
        | (s, none) => (s, firstBad acc.2 sFAULT)) (s, sDONE)
  | none => (s, sDONE)

/-- A descriptor's work. -/
def State.doDesc (s : State) (t h : Nat) (pr : Prog) (d : Desc) (e : Ecc) : Work :=
  if d.bad then (s, sBADPARAM)
  else match d.kind with
    | 1 => s.doRead t h pr d e
    | 2 => s.doWrite t h pr d e
    | _ => s.doGather t h pr d

/-! ## Retirement (R128, R129) -/

/-- The oldest descriptors whose work is done retire; SIGNAL after DONE increments its counter (R128). `n` bounds their number. -/
def State.retireFront (t q : Nat) : Nat → State → State
  | 0, s => s
  | n + 1, s =>
    let qu := (s.tile t).queue q
    match qu.descs with
    | d :: rest =>
      if d.completed then
        let sig := d.status = 0 ∧ d.flags.toNat % 2 = 1
        let r := if sig then s.signalCounter d.syncId else (s, true)
        let d := if r.2 then d else { d with status := sBADPARAM }
        State.retireFront t q n (r.1.updTile t fun x =>
          x.setQueue q { x.queue q with descs := rest, uncovered := qu.uncovered ++ [d] })
      else s
    | [] => s

/-- A descriptor's work is complete with a status: it and those behind it retire in order, and waits are met (R129, R70). -/
def State.descDone (s : State) (t q slot : Nat) (st : Byte) : State :=
  if !(s.tile t).live || (s.tile t).frozen then s
  else
    let s := s.updTile t fun x =>
      let qu := x.queue q
      match qu.descs[slot]? with
      | some d => x.setQueue q { qu with descs := setAt qu.descs slot { d with completed := true, status := st } }
      | none => x
    (s.retireFront t q ((s.tile t).queue q).descs.length).updTile t Tile.wakeA

/-- Do two descriptors' memory ranges overlap? -/
def Desc.overlaps (d e : Desc) : Bool := d.tensor == e.tensor && meet d.offset d.length (e.offset, e.length)

/-- A request of an earlier placement generation is dropped and counted (R58, R221). -/
def State.countStale (s : State) (h : Nat) : State :=
  let x := s.hull h
  s.setHull h { x with stale := min (x.stale + 1) 0xFFFFFFFF }

/-- Marks a descriptor's request as gone to its unit. -/
def State.descIssued (s : State) (t q slot : Nat) : State :=
  s.updTile t fun x =>
    let qu := x.queue q
    match qu.descs[slot]? with
    | some d => x.setQueue q { qu with descs := setAt qu.descs slot { d with issued := true } }
    | none => x

/-- DESCRIPTOR_RETIRE (R129): the work of descriptor `slot` of a queue (0 the oldest) completes: performed after every older
descriptor of the queue whose range overlaps (R130), held while a unit it addresses is mapped out (R199). A near-memory request's
work is its own command's; here it only retires. A GATHER, which near-memory units serve too (R211), is dropped where its generation is
stale, and then never retires (R221). -/
def execDescriptorRetire (t q slot : Nat) (e : Ecc) (m : List Meet) (s : State) : Outcome :=
  .next (s.meeting m fun s =>
    let x := s.tile t
    let h := (s.pod (podOf t)).hull
    match (s.hull h).prog, (x.queue q).descs[slot]? with
    | some pr, some d =>
      if !x.live || x.frozen || decide ((s.hull h).state ≠ .running) then s
      else if d.completed then (s.retireFront t q (x.queue q).descs.length).updTile t Tile.wakeA
      else if ((x.queue q).descs.take slot).any fun o => !o.completed && o.overlaps d then s
      else if d.issued ∨ (d.kind = 4 ∧ !d.bad) then s
      else if d.kind = 3 ∧ !d.bad ∧ d.pgen ≠ (s.hull h).pgen then (s.descIssued t q slot).countStale h
      else
        let w := s.doDesc t h pr d e
        w.1.descDone t q slot w.2
    | _, _ => s)

end Sys2Proof.Machine
end

