-- ==== Sys2Proof/Machine/Net.lean ====
section
/-!
DEFINITION. Sending over the fabric (R288–R294, R298, R299): routes, bundles' queues and credits, privileged messages.
-/

namespace Sys2Proof.Machine

/-- This module's fabric id, 0 with no plan. -/
def State.fid (s : State) : BitVec 24 := match s.jv.plan with | some p => p.fid | none => 0

/-- Index of the neighbour with a fabric id. -/
def Plan.neighbourOf (p : Plan) (dst : BitVec 24) : Option Nat := p.neighbours.findIdx? fun n => n.1 == dst

/-- The route entry of the longest matching prefix, the lower index on a tie (R294). -/
def Plan.routeFor (p : Plan) (dst : BitVec 24) : Option (List Nat) :=
  let hit := p.routes.filter fun r => r.1.toNat / 2 ^ (24 - r.2.1) == dst.toNat / 2 ^ (24 - r.2.1)
  let best := maxOf (hit.map fun r => r.2.1)
  ((hit.find? fun r => r.2.1 == best).map (·.2.2)).map fun l => l.filter (· != 0xFF)

/-- UP bundles to a neighbour, of an owner or of any. -/
def State.upTo (s : State) (nb : Nat) (owner : Option Nat) : List Nat :=
  (upFrom 0 36).filter fun b =>
    let x := s.bundle b
    x.state == .up && x.neighbour == nb && (match owner with | some o => x.owner == o | none => true)

/-- Flits of a message (R284, R289). -/
def flitsOf (m : Msg) : Nat := (32 + m.body.length + 247) / 248

/-- Flits queued on a bundle. -/
def Bundle.queued (x : Bundle) : Nat := x.retry.length + sumOf (x.outq.map (·.left))

/-- The bundle of a group with the fewest flits queued, the lower number on a tie. -/
def State.lightest (s : State) (bs : List Nat) : Option Nat :=
  match bs with
  | [] => none
  | b :: r => some (r.foldl (fun a c => if (s.bundle c).queued < (s.bundle a).queued then c else a) b)

/-- The bundle a message leaves on (R294): the neighbour itself, else the first NEXT with an UP bundle of the owner. -/
def State.routeBundle (s : State) (owner : Nat) (dst : BitVec 24) : Option Nat :=
  match s.jv.plan with
  | none => none
  | some p =>
    let nbs := match p.neighbourOf dst with
      | some n => [n]
      | none => (p.routeFor dst).getD []
    (nbs.find? fun n => !(s.upTo n (some owner)).isEmpty).bind fun n => s.lightest (s.upTo n (some owner))

/-- The next DATA slot: control slots are every 41st (R285). -/
def nextSlot (s : Nat) : Nat := if (s + 1) % 41 = 40 then s + 2 else s + 1

/-- Sends up to `k` flits of the message at place `i`: SEQs into the retry buffer, credits taken (R286, R288). -/
def Bundle.sendFlits (x : Bundle) (i : Nat) : Nat → Bundle
  | 0 => x
  | k + 1 =>
    match x.outq[i]? with
    | some o =>
      let c := o.msg.cls
      let cr := x.credits.getD c 0
      let q := BitVec.ofNat 12 x.txSeq
      if o.left = 0 ∨ cr = 0 ∨ x.retry.length ≥ 1024 then x
      else
        ({ x with outq := setAt x.outq i { o with left := o.left - 1, last := q }, retry := x.retry ++ [q],
                  txSeq := (x.txSeq + 1) % 4096, credits := setAt x.credits c (cr - 1), slot := nextSlot x.slot }).sendFlits i k
    | none => x

/-! ## The rotation (R307) -/

/-- Entries of the rotation that a group takes: ⌊64 i / s⌋ for each i, or the next free entry, cyclically. -/
def placeShare (g share : Nat) (rot : Tbl Nat) : Tbl Nat :=
  (upFrom 0 share).foldl (fun rot i =>
    match ((upFrom 0 64).map fun k => (64 * i / share + k) % 64).find? fun e => (tfind rot e).isNone with
    | some e => tput rot e g
    | none => rot) rot

/-- A hull's rotation: its ACTIVE groups placed in ascending id. Each activation and deactivation rebuilds it, so it is a function of the
group table. -/
def State.rotationOf (s : State) (h : Nat) : Tbl Nat :=
  s.groups.foldl (fun rot (e : Nat × Group) => if e.2.hull = h ∧ e.2.state = 2 then placeShare e.1 e.2.share rot else rot) []

/-- Entries that a hull's ACTIVE groups ask for. -/
def State.shareUsed (s : State) (h : Nat) : Nat :=
  sumOf (s.groups.map fun (e : Nat × Group) => if e.2.hull = h ∧ e.2.state = 2 then e.2.share else 0)

/-- A queued message whose flits have not all gone. -/
def OutMsg.ready (o : OutMsg) (cls : Nat) : Bool := o.msg.cls == cls && decide (0 < o.left)

/-- The class-0 message that goes next on a bundle at a message boundary: the oldest chunk of the first group in the rotation, stepped
onwards from its last entry, that has one; with the rotation's new entry. A group no longer in the rotation sends oldest first. -/
def State.nextChunk (s : State) (x : Bundle) : Option (Nat × Nat) :=
  let h := x.owner
  let last := tget 63 s.jv.rotation h
  let rot := s.rotationOf h
  let turn := ((upFrom 1 64).map fun k => (last + k) % 64).findSome? fun e =>
    (tfind rot e).bind fun g => (x.outq.findIdx? fun o => o.ready 0 && o.msg.tag.toNat % 4096 == g).map fun i => (i, e)
  match turn with
  | some t => some t
  | none => (x.outq.findIdx? fun o => o.ready 0).map fun i => (i, last)

/-- The message of a class that sends flits next, with the rotation's entry: the one in progress, else by the rotation in class 0, else
the oldest. -/
def State.nextOut (s : State) (b cls : Nat) : Option (Nat × Nat) :=
  let x := s.bundle b
  let last := tget 63 s.jv.rotation x.owner
  match x.outq.findIdx? fun o => o.ready cls && decide (o.left < flitsOf o.msg) with
  | some i => some (i, last)
  | none => if cls = 0 then s.nextChunk x else (x.outq.findIdx? fun o => o.ready cls).map fun i => (i, last)

/-- A class sends messages, each whole before the next, while it has credit and the retry buffer has room; at most `n` of them. -/
def State.pumpClass (b cls : Nat) : Nat → State → State
  | 0, s => s
  | n + 1, s =>
    match s.nextOut b cls with
    | some (i, e) =>
      let x := s.bundle b
      let y := x.sendFlits i (match x.outq[i]? with | some o => o.left | none => 0)
      let s := s.setBundle b y
      let s := if cls = 0 then { s with jv := { s.jv with rotation := tput s.jv.rotation x.owner e } } else s
      match y.outq[i]? with
      | some o => if o.left = 0 then State.pumpClass b cls n (s.emit (.msg b o.msg)) else s
      | none => s
    | none => s

/-- A bundle that is UP sends what it can of each class (R288). -/
def State.pump (s : State) (b : Nat) : State :=
  match (s.bundle b).state with
  | .up => [0, 1, 2, 3].foldl (fun (s : State) cls => State.pumpClass b cls (s.bundle b).outq.length s) s
  | _ => s

/-- Puts a message on a bundle. -/
def State.putOn (s : State) (b : Nat) (m : Msg) : State :=
  let x := s.bundle b
  (s.setBundle b { x with outq := x.outq ++ [{ msg := m, left := flitsOf m, last := 0 }] }).pump b

/-- A hull message leaves by its route, or waits where its group has no UP bundle (R294). -/
def State.sendMsg (s : State) (m : Msg) : State :=
  match s.routeBundle m.dstHull m.dstFid with
  | some b => s.putOn b m
  | none => { s with jv := { s.jv with waiting := s.jv.waiting ++ [m] } }

/-- Takes the next E2E_SEQ to a destination in a class (R289). -/
def State.takeE2e (s : State) (dst : BitVec 24) (cls : Nat) : Word32 × State :=
  let n := match s.jv.nextE2e.find? fun e => e.1 == dst && e.2.1 == cls with | some e => e.2.2 | none => 0
  let rest := s.jv.nextE2e.filter fun e => !(e.1 == dst && e.2.1 == cls)
  (n, { s with jv := { s.jv with nextE2e := (dst, cls, n + 1) :: rest } })

/-- Sends a new message of a hull and keeps it in the resend ledger (R348). In a re-run, a message whose destination and TAG match
a ledger entry of the step is not sent again. -/
def State.send (s : State) (h cls : Nat) (dst : BitVec 24) (tag : Word) (body : List Byte) : State :=
  let x := s.hull h
  let again := match x.prog with
    | some p => p.rerun && p.ledger.any fun l => l.step == x.step && l.msg.dstFid == dst && l.msg.cls == cls && l.msg.tag == tag
    | none => false
  if again then s
  else
    let e := s.takeE2e dst cls
    let m : Msg := { dstFid := dst, srcFid := s.fid, cls := cls, dstHull := h, hops := 0, e2e := e.1,
                     pgen := if cls < 3 then x.pgen else 0, tag := tag, body := body }
    let s := e.2
    let keep := fun (p : Prog) => if cls < 2 then { p with ledger := p.ledger ++ [{ step := x.step, msg := m }] } else p
    (s.setHull h { s.hull h with prog := (s.hull h).prog.map keep }).sendMsg m

/-! ## Privileged messages (R299) -/

/-- Kinds of privileged messages; their bodies have no layout in the manual: here the kind, then each value in 8 bytes
(log entry 14). -/
def pkTime : Nat := 0
def pkDecision : Nat := 1
def pkRecord : Nat := 2
def pkResult : Nat := 3
def pkBeat : Nat := 4
def pkProposal : Nat := 5
def pkReform : Nat := 6
def pkTwin : Nat := 7
def pkRequest : Nat := 8
def pkSetting : Nat := 9
def pkResend : Nat := 10

/-- The body of a privileged message. -/
def privBody (kind : Nat) (vals : List Nat) : List Byte := BitVec.ofNat 8 kind :: vals.flatMap (natLe 8)

/-- Offers a privileged message to the links: by its route, else through the first neighbour with an UP bundle (interrupt 387,
REROUTED, where a relayed message is counted once: `State.relay`), else it waits (interrupt 388). -/
def State.offerPriv (s : State) (m : Msg) : State :=
  match s.routeBundle m.dstHull m.dstFid with
  | some b => s.emit (.msg b m)
  | none =>
    let nbs := upFrom 0 (match s.jv.plan with | some p => p.neighbours.length | none => 0)
    match (nbs.find? fun n => !(s.upTo n none).isEmpty).bind fun n => s.lightest (s.upTo n none) with
    | some b => ((if m.srcFid = s.fid then s.regSat 0x0A0028 31 0 1 else s).event evJv 3 387).emit (.msg b m)
    | none => ({ s with jv := { s.jv with privWait := s.jv.privWait ++ [m] } }).event evJv 4 388

/-- Sends a privileged message with a body, HOPS starting from 4. -/
def State.sendPrivBody (s : State) (h : Nat) (dst : BitVec 24) (body : List Byte) : State :=
  let e := s.takeE2e dst 4
  e.2.offerPriv { dstFid := dst, srcFid := s.fid, cls := 4, dstHull := h, hops := 4, e2e := e.1, pgen := 0, tag := 0, body := body }

/-- Sends a privileged message of a hull. -/
def State.sendPriv (s : State) (h : Nat) (dst : BitVec 24) (kind : Nat) (vals : List Nat) : State :=
  s.sendPrivBody h dst (privBody kind vals)

end Sys2Proof.Machine
end

