-- ==== Sys2Proof/Machine/Nmu.lean ====
section
/-!
DEFINITION. Near-memory units (R207–R222): requests, REDUCE in SEQ order, UPDATE, SCATTER_ADD, DIGEST, VERIFY, SNAPSHOT, DELTA,
ZERO, SCRUB.
-/

namespace Sys2Proof.Machine

/-! ## Requests -/

/-- A request as it reaches its unit. -/
structure NReq where
  hull : Nat
  desc : Desc
  /-- tile, queue and slot of a tile's descriptor; none for a remote contribution -/
  at_ : Option (Nat × Nat × Nat)
  data : List Byte
  deriving Repr

/-- Tier and base of a tensor in a window. -/
def Prog.memPlace (p : Prog) (id : Nat) : Option (Bool × Nat) :=
  match p.place id with
  | some (.tierA, b) => some (false, b)
  | some (.tierB, b) => some (true, b)
  | _ => none

/-- Which request a command names, if it waits for its unit: enqueued in order before nothing that overlaps it (R130), or a
remote REDUCE message (R212), whose body is a descriptor, its request block, the payload and the payload's husks (log entry 15). -/
def State.nmuFind (s : State) (op : Nat) : NmuSrc → Option NReq
  | .desc t q slot =>
    let x := s.tile t
    let h := (s.pod (podOf t)).hull
    let ds := (x.queue q).descs
    match ds[slot]? with
    | some d =>
      let blocked := (ds.take slot).any fun o => !o.completed && o.overlaps d && !(op == 1 && o.op == 1 && o.issued)
      if x.live && !x.frozen && decide ((s.hull h).state = .running) && d.kind == 4 && d.op == op && !d.bad && !d.completed
          && !d.issued && !blocked then
        some { hull := h, desc := d, at_ := some (t, q, slot),
               data := if op = 1 ∨ op = 3 then x.tsRead d.loc d.length else [] }
      else none
    | none => none
  | .remote k =>
    match s.jv.inbox[k]? with
    | some m =>
      let d := descOf (slice m.body 0 32) (slice m.body 32 64) 0 false m.pgen
      if op = 1 ∧ d.op = 1 ∧ d.kind = 4 ∧ m.cls = 0 ∧ (s.hull m.dstHull).state = .running then
        some { hull := m.dstHull, desc := d, at_ := none, data := (m.body.drop 96).take d.length }
      else none
    | none => none

/-- Takes a message out of the inbox. -/
def State.takeInbox (s : State) (k : Nat) : State := { s with jv := { s.jv with inbox := dropAt s.jv.inbox k } }

/-- The request is at its unit: its descriptor is marked, its message taken. -/
def State.nmuTake (s : State) (src : NmuSrc) : State :=
  match src with
  | .desc t q slot => s.descIssued t q slot
  | .remote k => s.takeInbox k

/-- The request ends with a status. -/
def State.nmuEnd (s : State) (r : NReq) (st : Byte) : State :=
  match r.at_ with
  | some (t, q, slot) => s.descDone t q slot st
  | none => s

/-- The near-memory unit that serves a block of a window (R207). -/
def State.unitAt (s : State) (h : Nat) (tierB : Bool) (wb : Nat) : Nat :=
  match (s.hull h).find tierB wb with
  | some p => nmuOf (unitOf tierB p.1)
  | none => if tierB then 8 else 0

/-- The parts of a byte range of a tensor, one a block: block index, offset and bytes (R207). -/
def partsOf (off len : Nat) : List (Nat × Nat × Nat) :=
  (blocksOf off len).map fun i =>
    let lo := max off (4096 * i)
    (i, lo, min (off + len) (4096 * (i + 1)) - lo)

/-- What the parts of a request have come to: the state, the status of the lowest block that did not complete, and whether the hull
stops for one of them (R380, R383). -/
structure Parts where
  st : State
  status : Byte
  stop : Bool

/-- A part fails for a block that it could not use: recorded where the block's check failed (R380), FAULT alone where the access was
lost (R179, R392). -/
def Parts.fail (p : Parts) (h u tensor i : Nat) (c : Check) : Parts :=
  { st := p.st.huskFail (0x0200 + u) h 0xFF 0xFF tensor i c, status := firstBad p.status sFAULT, stop := p.stop || c != .uncorr }

/-- A near-memory residue mismatch in a part (R383): it ends with FAULT and the hull stops as under R380. -/
def Parts.residue (p : Parts) (h u : Nat) : Parts :=
  let s := (p.st.event evIntg 1 577).regSat 0x0C0028 63 48 1
  let f := s.free
  { st := f.2.log1 (mkRec 0x05 2 (0x0200 + u) h 0xFF 0xFF 0 (natLe 6 f.1.toNat)), status := firstBad p.status sFAULT, stop := true }

/-- A part has written: FAULT where the write was lost. -/
def Parts.wrote (p : Parts) : Parts :=
  if p.st.mem.lost then
    { p with st := { p.st with mem := { p.st.mem with lost := false } }, status := firstBad p.status sFAULT }
  else p

/-- Parts of a request not yet begun. -/
def State.parts (s : State) : Parts := { st := s, status := sDONE, stop := false }

/-- The stop of a hull for a failed part. -/
def State.partStop (s : State) (h : Nat) (stop : Bool) : State := if stop then (s.stopHull h 3 sFAULT true).raise 98 else s

/-- Every part has completed: so has the request (R207). -/
def Parts.close (p : Parts) (r : NReq) : State := (p.st.nmuEnd r p.status).partStop r.hull p.stop

/-- A request of an operation: dropped when stale (R58, R221), else performed by `f` with tier and base of its tensor. -/
def State.nmuRun (s : State) (op : Nat) (src : NmuSrc) (f : State → NReq → Prog → Bool → Nat → State) : State :=
  match s.nmuFind op src with
  | none => s
  | some r =>
    match (s.hull r.hull).prog with
    | none => s
    | some pr =>
      match pr.memPlace r.desc.tensor with
      | none => if r.at_.isNone then (s.nmuTake src).event evNmu 3 259 else s
      | some (tierB, base) =>
        if r.desc.pgen ≠ (s.hull r.hull).pgen then (s.nmuTake src).countStale r.hull
        else f s r pr tierB base

/-! ## Element arithmetic (R213, R215) -/

/-- Bytes of an element of FMT. -/
def nWidth (fmt : Nat) : Nat := if fmt = 1 then 2 else 4

/-- The elements of a byte string; `n` bounds their number. -/
def elemsOf (w : Nat) : Nat → List Byte → List Nat
  | 0, _ => []
  | n + 1, l => leNat (l.take w) :: elemsOf w n (l.drop w)

/-- All elements of a byte string. -/
def elems (w : Nat) (l : List Byte) : List Nat := elemsOf w (l.length / w) l

/-- BF16 widened to FP32. -/
def widen (fmt x : Nat) : Nat := if fmt = 1 then x * 65536 else x

/-- FP32 to BF16, nearest even. -/
def toBf16 (r : Rnd) (x : Nat) : Nat := (encodeF bf16 r (decodeF fp32 x)).1

/-- add (R213): the sum and whether INT32 saturated. -/
def nAdd (fmt a b : Nat) : Nat × Bool :=
  match fmt with
  | 0 => ((addFp32 a b).1, false)
  | 1 => (toBf16 .rne (addFp32 (widen 1 a) (widen 1 b)).1, false)
  | _ =>
    let x := toSigned 32 a + toSigned 32 b
    if x > 2147483647 then (0x7FFFFFFF, true) else if x < -2147483648 then (0x80000000, true) else (ofSigned 32 x, false)

/-- A first term taken into an empty target (R212). -/
def nFirst (fmt a : Nat) : Nat :=
  match fmt with
  | 0 => (encodeF fp32 .rne (decodeF fp32 a)).1
  | 1 => (encodeF bf16 .rne (decodeF bf16 a)).1
  | _ => a

/-- A term enters the running value, which may be empty (R212). -/
def nTerm (fmt : Nat) (x : Option (List Byte)) (c : List Byte) : List Byte × Bool :=
  let w := nWidth fmt
  match x with
  | none => ((elems w c).flatMap fun a => natLe w (nFirst fmt a), false)
  | some t =>
    let rs := ((elems w t).zip (elems w c)).map fun p => nAdd fmt p.1 p.2
    (rs.flatMap fun p => natLe w p.1, rs.any (·.2))

def fl32Mul (a b : Nat) : Nat := (toFp32 (vMul (decodeF fp32 a) (decodeF fp32 b))).1
def fl32Add (a b : Nat) : Nat := (addFp32 a b).1
def fl32Sub (a b : Nat) : Nat := (toFp32 (vAdd (decodeF fp32 a) (vNeg (decodeF fp32 b)))).1
def fl32Div (a b : Nat) : Nat := (toFp32 (vDiv (decodeF fp32 a) (decodeF fp32 b))).1
def fl32Sqrt (a : Nat) : Nat := (toFp32 (vSqrt (decodeF fp32 a))).1

/-- sign of an FP32 value as FP32, sign(±0) = 0; a NaN gives the canonical NaN. -/
def fl32Sign (a : Nat) : Nat :=
  match decodeF fp32 a with
  | .nan => fp32.canonNaN
  | .inf neg => if neg then 0xBF800000 else 0x3F800000
  | .fin neg m _ => if m = 0 then 0 else if neg then 0xBF800000 else 0x3F800000

/-! ## REDUCE (R209, R212–R214) -/

/-- Slot groups of a unit that an owner holds (R208). -/
def State.slotGroups (s : State) (h : Nat) : Nat := ((upFrom 0 15).filter fun i => tget 0 s.nmu.slots i == h).length

/-- The parts of a target: the unit that serves each block, and its bytes (R207). -/
def State.targetParts (s : State) (t : RTarget) : List (Nat × Nat) :=
  match (s.hull t.hull).prog with
  | some pr =>
    match pr.memPlace t.tensor with
    | some (tierB, base) => (partsOf t.offset t.length).map fun p => (s.unitAt t.hull tierB (base / 4096 + p.1), p.2.2)
    | none => []
  | none => []

/-- Bytes of a target's range that a unit serves. -/
def State.targetBytes (s : State) (t : RTarget) (u : Nat) : Nat :=
  sumOf (((s.targetParts t).filter fun p => p.1 == u).map (·.2))

/-- SEQ, COUNT, FMT and start of a REDUCE request block (R210); start 1 INIT, 2 EMPTY. -/
def reduceSeq (b : List Byte) : Nat := fieldLe b 4 2 + 65536 * fieldLe b 0x16 1
def reduceCount (b : List Byte) : Nat := fieldLe b 6 2 + 65536 * fieldLe b 0x17 1
def reduceStart (b : List Byte) : Nat := if fieldLe b 2 1 % 2 = 1 then 1 else if fieldLe b 2 1 / 4 % 2 = 1 then 2 else 0

/-- Is this the target of a request? -/
def RTarget.isFor (t : RTarget) (r : NReq) : Bool :=
  t.hull == r.hull && t.tensor == r.desc.tensor && t.offset == r.desc.offset && t.length == r.desc.length

/-- Room in the owner's share for one more target, or for a staged contribution to it, at every unit that serves a part of the target
(R209). A collective hop's own targets take no room there (log entry 94). -/
def State.nmuRoom (s : State) (t : RTarget) (opening staging : Bool) : Bool :=
  let g := s.slotGroups t.hull
  let mine := s.nmu.targets.filter fun x => x.hull == t.hull
  (dedup ((s.targetParts t).map (·.1))).all fun u =>
    let same := mine.filter fun x => 0 < s.targetBytes x u
    let held := sumOf (same.map fun x => x.staged.length * s.targetBytes x u)
    (!opening || decide (same.length < 16 * g)) &&
      (!staging || decide (held + s.targetBytes t u ≤ g * (if u < 8 then 4 else 1) * 1048576))

/-- One part of a contribution applied to its block of a target (R212, R379). -/
def reducePart (t : RTarget) (tierB : Bool) (base : Nat) (c : List Byte) (p : Parts) (k : Nat × Nat × Nat) : Parts :=
  let part := slice c (k.2.1 - t.offset) k.2.2
  let put := fun (s : State) (x : Option (List Byte)) =>
    let v := nTerm t.fmt x part
    let s := if v.2 then s.event evNmu 3 259 else s
    Parts.wrote { p with st := s.writeRange t.hull tierB base t.tensor k.2.1 v.1 }
  if t.next = 0 ∧ t.start = 2 then put p.st none
  else if t.next = 0 ∧ t.start = 1 then put p.st (some (zeros k.2.2))
  else
    let o := p.st.readRange t.hull tierB base t.tensor k.2.1 k.2.2
    match o.bad with
    | some b => Parts.fail { p with st := o.st } t.hull (o.st.unitAt t.hull tierB (base / 4096 + k.1)) t.tensor b.1 b.2
    | none => put o.st (some o.data)

/-- One contribution applied to a target's range, part by part. -/
def State.reduceApply (s : State) (t : RTarget) (tierB : Bool) (base : Nat) (c : List Byte) : Parts :=
  (partsOf t.offset t.length).foldl (reducePart t tierB base c) s.parts

/-- Applies a contribution, then the staged ones that follow it in SEQ order; `n` bounds them. The last component says that the hull
stops. -/
def State.reduceRun (tierB : Bool) (base : Nat) : Nat → State → RTarget → List Byte → State × RTarget × Bool
  | 0, s, t, _ => (s, t, false)
  | n + 1, s, t, c =>
    let a := s.reduceApply t tierB base c
    let t := { t with next := t.next + 1, failed := if a.status = sDONE then t.failed else t.failed ++ [t.next] }
    if a.stop then (a.st, t, true)
    else
      match tfind t.staged t.next with
      | some c' => State.reduceRun tierB base n a.st { t with staged := tdel t.staged t.next } c'
      | none => (a.st, t, false)

/-- Twins of the owned shards that a tensor belongs to: (shard, buddy's rank) (R268, R269). -/
def Prog.feeds (p : Prog) (tensor : Nat) : List Nat :=
  (p.shards.filter fun sh => sh.owner && (sh.state == .paired || sh.state == .suspect || sh.state == .onboarding || sh.state == .probation)
    && p.image.shards.any fun d => d.id == sh.id && d.tensors.contains tensor
      -- while a new twin is onboarding, only the layers already copied are fed (R275)
      && (sh.state != .onboarding || decide ((d.tensors.findIdx? (· == tensor)).getD 0 < sh.layersCopied))).map (·.id)

/-- World rank of the buddy of this module's rank (R268). -/
def Prog.buddy (p : Prog) : Option Nat :=
  let r := p.image.geometry.worldRank
  (p.image.pairs.find? fun q => q.1 == r || q.2 == r).map fun q => if q.1 = r then q.2 else q.1

/-- Fabric id of a world rank, from the rosters of the hull's groups. -/
def State.fidOf (s : State) (h rank : Nat) : Option (BitVec 24) :=
  s.groups.findSome? fun g => if g.2.hull = h ∧ g.2.state = 2 then (g.2.roster.find? fun e => e.1 == rank).map (·.2.1) else none

/-- Body of a message that carries blocks: payload, then one husk per block (R316, R269). -/
def blockBody (tensor first : Nat) (payload : List Byte) : List Byte :=
  payload ++ (upFrom 0 ((payload.length + 4095) / 4096)).flatMap fun i =>
    natLe 8 (huskOf (slice payload (4096 * i) 4096) (huskTag tensor (first + i))).toNat

/-- The twin feed of a completed target (R269), in messages of at most 64 KiB; its TAG has no layout in the manual (log entry 15):
tensor in [19:0], first block in [51:20]. Each block is checked as it is read and then sent with the husk that it holds, or that of a zero block
where it is unwritten (R194); one that cannot be read stops the hull (R380). -/
def State.twinFeed (s : State) (h : Nat) (tierB : Bool) (base tensor off len : Nat) : State :=
  match (s.hull h).prog with
  | some p =>
    if (p.feeds tensor).isEmpty then s
    else
      match p.buddy.bind (s.fidOf h) with
      | some fid =>
        let first := off / 4096
        let n := (off + len + 4095) / 4096 - first
        (upFrom 0 ((n + 15) / 16)).foldl (fun s k =>
          let b := first + 16 * k
          let o := s.readRange h tierB base tensor (4096 * b) (4096 * min 16 (n - 16 * k))
          match o.bad with
          | some bad => o.st.huskStop (0x0200 + o.st.unitAt h tierB (base / 4096 + bad.1)) h 0xFF 0xFF tensor bad.1 bad.2
          | none => o.st.send h 1 fid (BitVec.ofNat 64 (tensor + b * 2 ^ 20)) (blockBody tensor b o.data)) s
      | none => s
  | none => s

/-- The oldest issued, uncompleted REDUCE descriptor of a queue for a target and SEQ. -/
def Tile.reduceSlot (x : Tile) (q : Nat) (t : RTarget) (seq : Nat) : Option Nat :=
  (x.queue q).descs.findIdx? fun d => d.kind == 4 && d.op == 1 && d.issued && !d.completed && d.tensor == t.tensor
    && d.offset == t.offset && d.length == t.length && reduceSeq d.block == seq

/-- A target is complete (R214): its descriptors complete, with FAULT where a part of their contribution did (R207), and the twin is
fed. -/
def State.reduceDone (s : State) (t : RTarget) (tierB : Bool) (base : Nat) : State :=
  let s := t.owners.foldl (fun s o =>
    match (s.tile o.2.1).reduceSlot o.2.2 t o.1 with
    | some slot => s.descDone o.2.1 o.2.2 slot (if t.failed.contains o.1 then sFAULT else sDONE)
    | none => s) s
  if !t.failed.isEmpty then s else s.twinFeed t.hull tierB base t.tensor t.offset t.length

/-- A contribution that is not taken (R214). -/
def State.reduceRefuse (s : State) (r : NReq) (dup : Bool) : State :=
  let s := if dup then
      let x := s.hull r.hull
      (s.setHull r.hull { x with dup := min (x.dup + 1) 0xFFFFFFFF }).event evNmu 2 258
    else s
  match r.at_ with
  | some _ => s.nmuEnd r sBADPARAM
  | none => s.event evNmu 3 259

/-- Husks of a remote contribution, checked on landing (R379). -/
def remoteHusks (s : State) (src : NmuSrc) (r : NReq) : Option (Nat × Check) :=
  match src with
  | .desc _ _ _ => none
  | .remote k =>
    let body := match s.jv.inbox[k]? with | some m => m.body | none => []
    (upFrom 0 ((r.data.length + 4095) / 4096)).findSome? fun i =>
      let ix := r.desc.offset / 4096 + i
      let want := huskOf (slice r.data (4096 * i) 4096) (huskTag r.desc.tensor ix)
      let got := BitVec.ofNat 64 (fieldLe body (96 + r.data.length + 8 * i) 8)
      if want.toNat % 2 ^ 32 ≠ got.toNat % 2 ^ 32 then some (ix, .fail 1 want got)
      else if want ≠ got then some (ix, .fail 2 want got) else none

/-- A request that one finding ends: FAULT, and the hull stops (R380, R383). -/
def State.nmuHusk (s : State) (r : NReq) (u tensor : Nat) (b : Nat × Check) : State := (s.parts.fail r.hull u tensor b.1 b.2).close r

/-- The parts of a request's range in a tensor. -/
def NReq.parts (r : NReq) : List (Nat × Nat × Nat) := partsOf r.desc.offset r.desc.length

/-- The request's residue mismatch, if its arithmetic meets one in a block of its range (R383): the unit that serves the block. -/
def State.residueUnit (s : State) (r : NReq) (tierB : Bool) (base : Nat) (mismatch : Option Nat) : Option Nat :=
  match mismatch with
  | some b => if r.parts.any fun k => k.1 == b then some (s.unitAt r.hull tierB (base / 4096 + b)) else none
  | none => none

/-- A REDUCE request at its units. -/
def State.reduceAt (s : State) (src : NmuSrc) (mismatch : Option Nat) (r : NReq) (pr : Prog) (tierB : Bool) (base : Nat) : State :=
  let b := r.desc.block
  let seq := reduceSeq b
  let count := reduceCount b
  let fresh : RTarget := { hull := r.hull, tensor := r.desc.tensor, offset := r.desc.offset, length := r.desc.length,
                           count := count, fmt := fieldLe b 1 1, start := reduceStart b, next := 0, staged := [], owners := [], failed := [] }
  let open_ := s.nmu.targets.find? fun t => t.isFor r
  let t := open_.getD fresh
  let others := s.nmu.targets.filter fun t => !t.isFor r
  let wellFormed := match r.at_ with
    | some _ => true
    | none => nmuOk b 4 0 r.desc.length && decide (r.desc.offset + r.desc.length ≤ pr.bytesOf r.desc.tensor
        ∧ r.desc.length % 256 = 0 ∧ r.desc.length = r.data.length ∧ r.desc.length ≠ 0)
  if !wellFormed ∨ seq ≥ count ∨ t.count ≠ count ∨ t.fmt ≠ fieldLe b 1 1 ∨ t.start ≠ reduceStart b then
    (s.nmuTake src).reduceRefuse r false
  else if seq < t.next ∨ (tfind t.staged seq).isSome then (s.nmuTake src).reduceRefuse r true
  else if !(s.nmuRoom t open_.isNone (decide (seq ≠ t.next))) then
    let k : HeldReq := match src with
      | .desc tile q _ => .desc tile q r.desc.image
      | .remote k => match s.jv.inbox[k]? with | some m => .msg m.srcFid m.cls m.e2e | none => .msg 0 0 0
    if s.nmu.held.contains k then s else { s with nmu := { s.nmu with held := s.nmu.held ++ [k] } }
  else
    match remoteHusks s src r with
    | some bad => (s.nmuTake src).nmuHusk r (s.unitAt r.hull tierB (base / 4096 + bad.1)) r.desc.tensor bad
    | none =>
      let s := s.nmuTake src
      let t := match r.at_ with
        | some (tile, q, _) => { t with owners := t.owners ++ [(seq, tile, q)] }
        | none => t
      match s.residueUnit r tierB base mismatch with
      | some u => (s.parts.residue r.hull u).close r
      | none =>
        if seq ≠ t.next then
          { s with nmu := { s.nmu with targets := others ++ [{ t with staged := tput t.staged seq r.data }] } }
        else
          let o := State.reduceRun tierB base (t.staged.length + 1) s t r.data
          if o.2.2 then (o.1.nmuEnd r sFAULT).partStop r.hull true
          else if o.2.1.next = t.count then
            State.reduceDone { o.1 with nmu := { o.1.nmu with targets := others } } o.2.1 tierB base
          else { o.1 with nmu := { o.1.nmu with targets := others ++ [o.2.1] } }

/-- REDUCE: a contribution reaches its units. -/
def execReduce (src : NmuSrc) (mismatch : Option Nat) (m : List Meet) (s : State) : Outcome :=
  .next (s.meeting m fun s => s.nmuRun 1 src fun s r pr tierB base => s.reduceAt src mismatch r pr tierB base)

/-- The request that a held entry stands for. -/
def State.heldSrc (s : State) : HeldReq → Option NmuSrc
  | .desc t q im =>
    (((s.tile t).queue q).descs.findIdx? fun d => d.image == im && !d.issued && !d.completed).map fun k => .desc t q k
  | .msg f c e => (s.jv.inbox.findIdx? fun m => m.srcFid == f && m.cls == c && m.e2e == e).map .remote

/-- REDUCE_HOLD_RELEASE (R209): held request `k` is offered again; it stays held where its owner's share is still full. -/
def execReduceHoldRelease (k : Nat) (m : List Meet) (s : State) : Outcome :=
  .next (s.meeting m fun s => match s.nmu.held[k]? with
    | some r =>
      let src := s.heldSrc r
      let s := { s with nmu := { s.nmu with held := dropAt s.nmu.held k } }
      match src with
      | some src => s.nmuRun 1 src fun s r pr tierB base => s.reduceAt src none r pr tierB base
      | none => s
    | none => s)

/-! ## UPDATE (R215, R216) -/

/-- The ten FP32 words of PARAMS. -/
def updateParam (b : List Byte) (i : Nat) : Nat := fieldLe b (0x18 + 4 * i) 4

/-- One element of an update: p, m and v after it, p in FP32. -/
def updateElem (rule : Nat) (w : Nat → Nat) (p g m v : Nat) : Nat × Nat × Nat :=
  let lr := w 0; let b1 := w 1; let b2 := w 2; let eps := w 3; let wd := w 4; let c1 := w 5; let c2 := w 6
  let ob1 := w 7; let ob2 := w 8
  match rule with
  | 0 =>
    let m := fl32Add (fl32Mul b1 m) g
    (fl32Sub p (fl32Mul lr (fl32Add m (fl32Mul wd p))), m, v)
  | 1 =>
    let m := fl32Add (fl32Mul b1 m) (fl32Mul ob1 g)
    let v := fl32Add (fl32Mul b2 v) (fl32Mul (fl32Mul ob2 g) g)
    let u := fl32Div (fl32Mul m c1) (fl32Add (fl32Sqrt (fl32Mul v c2)) eps)
    (fl32Sub p (fl32Mul lr (fl32Add u (fl32Mul wd p))), m, v)
  | 2 =>
    let u := fl32Sign (fl32Add (fl32Mul b1 m) (fl32Mul ob1 g))
    (fl32Sub p (fl32Mul lr (fl32Add u (fl32Mul wd p))), fl32Add (fl32Mul b2 m) (fl32Mul ob2 g), v)
  | _ => (fl32Add p (fl32Mul lr g), m, v)

/-- The operand ranges of an update: (tensor, offset, bytes): p, g, then m and v where the rule uses them. -/
def updateRanges (d : Desc) : List (Nat × Nat × Nat) :=
  let b := d.block
  let w := nWidth (fieldLe b 1 1)
  let mo := fun (t : Nat) => (t, d.offset * 4 / w, d.length * 4 / w)
  let rule := fieldLe b 3 1
  [(d.tensor, d.offset, d.length), (fieldLe b 8 4, d.offset, d.length)]
    ++ (if rule = 3 then [] else [mo (fieldLe b 0x0C 4)]) ++ (if rule = 1 then [mo (fieldLe b 0x10 4)] else [])

/-- Reads several tensor ranges, stopping at a failing block. -/
def readAll (h : Nat) (pr : Prog) : List (Nat × Nat × Nat) → State → State × List (List Byte) × Option (Nat × Nat × Check)
  | [], s => (s, [], none)
  | (t, o, n) :: r, s =>
    let a := match pr.memPlace t with
      | some (tierB, base) => s.readRange h tierB base t o n
      | none => { st := s, data := [], bad := none }
    match a.bad with
    | some (i, c) => (a.st, [], some (t, i, c))
    | none =>
      let q := readAll h pr r a.st
      (q.1, a.data :: q.2.1, q.2.2)

/-- The rounding of p in BF16 (R216). -/
def updateRound (x : Hull) (d : Desc) (i : Nat) (p : Nat) : Nat :=
  let b := d.block
  if fieldLe b 1 1 = 0 then p
  else if fieldLe b 2 1 / 2 % 2 = 1 then
    let word := drawWord x.k0 x.k1 (fieldLe b 0x14 2) x.drawStep d.tensor ((d.offset + 2 * i) / 2)
    toBf16 (.sr (word.toNat / 2 ^ 20)) p
  else toBf16 .rne p

/-- The first update of a shard in a step waits until both sides hold and have compared each other's digest of the step before
(R271). -/
def State.twinWait (s : State) (h tensor : Nat) : Bool :=
  let x := s.hull h
  match x.prog with
  | some p => p.shards.any fun sh =>
      (sh.state == .paired || sh.state == .probation)
        && (p.image.shards.any fun d => d.id == sh.id && d.tensors.contains tensor)
        && (match sh.own with
          | some o => o.1 + 1 == x.step && (match sh.peer with | some q => q.1 != o.1 | none => true)
          | none => false)
  | none => false

/-- The elements of an update from its operands' bytes: p as rounded, then m and v. -/
def updateOut (x : Hull) (d : Desc) (ops : List (List Byte)) : List (Nat × Nat × Nat) :=
  let fmt := fieldLe d.block 1 1
  let w := nWidth fmt
  let at_ := fun (k width i : Nat) => fieldLe (ops.getD k []) (width * i) width
  (upFrom 0 (d.length / w)).map fun i =>
    let e := updateElem (fieldLe d.block 3 1) (updateParam d.block) (widen fmt (at_ 0 w i)) (widen fmt (at_ 1 w i)) (at_ 2 4 i)
      (at_ 3 4 i)
    (updateRound x d i e.1, e.2)

/-- Writes p, then m and v where the rule has them (R215). -/
def State.updateWrite (s : State) (h : Nat) (pr : Prog) (tierB : Bool) (base : Nat) (d : Desc) (out : List (Nat × Nat × Nat)) : State :=
  let rs := updateRanges d
  let w := nWidth (fieldLe d.block 1 1)
  let s := s.writeRange h tierB base d.tensor d.offset (out.flatMap fun e => natLe w e.1)
  let put := fun (s : State) (k : Nat) (f : Nat × Nat → Nat) =>
    match rs[k]? with
    | some (t, o, _) =>
      match pr.memPlace t with
      | some (tb, bs) => s.writeRange h tb bs t o (out.flatMap fun e => natLe 4 (f e.2))
      | none => s
    | none => s
  put (put s 2 (·.1)) 3 (·.2)

/-- Does this module hold a tensor as a twin tensor (R268)? -/
def Prog.isTwinTensor (p : Prog) (tensor : Nat) : Bool :=
  p.shards.any fun q => !q.owner && p.image.shards.any fun d => d.id == q.id && d.tensors.contains tensor

/-- The twin's update waits on the feed of its gradient's blocks in the step (R269, log entry 81). -/
def Prog.feedWait (p : Prog) (d : Desc) : Bool :=
  let g := fieldLe d.block 8 4
  p.isTwinTensor g && (blocksOf d.offset d.length).any fun i => !p.fed.contains (g, i)

/-- The part of an UPDATE that a block of p is. -/
def updatePart (r : NReq) (pr : Prog) (tierB : Bool) (base : Nat) (residue : Option Nat) (p : Parts) (k : Nat × Nat × Nat) : Parts :=
  let d := { r.desc with offset := k.2.1, length := k.2.2 }
  let u := p.st.unitAt r.hull tierB (base / 4096 + k.1)
  let a := readAll r.hull pr (updateRanges d) p.st
  match a.2.2 with
  | some (t, i, c) => Parts.fail { p with st := a.1 } r.hull u t i c
  | none =>
    if residue = some k.1 then Parts.residue { p with st := a.1 } r.hull u
    else Parts.wrote { p with st := a.1.updateWrite r.hull pr tierB base d (updateOut (a.1.hull r.hull) d a.2.1) }

/-- UPDATE: an operand tensor outside tier A and tier B, or past its extent, is BAD_PARAM (log entry 16). -/
def execUpdate (src : NmuSrc) (mismatch : Option Nat) (m : List Meet) (s : State) : Outcome :=
  .next (s.meeting m fun s => s.nmuRun 2 src fun s r pr tierB base =>
    if s.twinWait r.hull r.desc.tensor || pr.feedWait r.desc then s
    else
      let s := s.nmuTake src
      if !((updateRanges r.desc).all fun q => pr.inMemory q.1 && decide (q.2.1 + q.2.2 ≤ pr.bytesOf q.1)) then s.nmuEnd r sBADPARAM
      else (r.parts.foldl (updatePart r pr tierB base mismatch) s.parts).close r)

/-! ## SCATTER_ADD (R188, R211) -/

/-- One row of a SCATTER_ADD: row `ix.1` of the contribution goes to row `ix.2` of the tensor; the byte is the status of a row outside
the tensor. -/
def scatterRow (r : NReq) (size fmt : Nat) (tierB : Bool) (base : Nat) (residue : Option Nat) (a : Parts × Byte) (ix : Nat × Nat) :
    Parts × Byte :=
  let d := r.desc
  let off := d.offset + 32 * ix.2
  if off + 32 > size then (a.1, sBADPARAM)
  else
    let o := a.1.st.readRange r.hull tierB base d.tensor off 32
    let u := o.st.unitAt r.hull tierB (base / 4096 + off / 4096)
    match o.bad with
    | some bad => (Parts.fail { a.1 with st := o.st } r.hull u d.tensor bad.1 bad.2, a.2)
    | none =>
      if residue = some (off / 4096) then (Parts.residue { a.1 with st := o.st } r.hull u, a.2)
      else
        let v := nTerm fmt (some o.data) (slice r.data (32 * ix.1) 32)
        let s := if v.2 then o.st.event evNmu 3 259 else o.st
        (Parts.wrote { a.1 with st := s.writeRange r.hull tierB base d.tensor off v.1 }, a.2)

/-- SCATTER_ADD: rows in ascending order; a row outside the tensor is not done and makes the status BAD_PARAM (log entry 16), unless a
part inside it failed: that one has the lower block index (R207). -/
def execScatterAdd (src : NmuSrc) (mismatch : Option Nat) (m : List Meet) (s : State) : Outcome :=
  .next (s.meeting m fun s => s.nmuRun 3 src fun s r pr tierB base =>
    let s := s.nmuTake src
    let b := r.desc.block
    let n := fieldLe b 6 2
    let tile := match r.at_ with | some q => s.tile q.1 | none => Tile.init
    let idx := elems 4 (tile.tsRead (fieldLe b 0x18 4) (4 * n))
    let o := ((upFrom 0 n).zip idx).foldl (scatterRow r (pr.bytesOf r.desc.tensor) (fieldLe b 1 1) tierB base mismatch) (s.parts, sDONE)
    Parts.close { o.1 with status := firstBad o.1.status o.2 } r)

/-! ## DIGEST, VERIFY, ZERO, SCRUB -/

/-- Writes bytes at LOCAL of the request's tile. -/
def State.nmuReturn (s : State) (r : NReq) (b : List Byte) : State :=
  match r.at_ with
  | some (t, _, _) => s.updTile t fun x => x.tsWrite r.desc.loc b
  | none => s

/-- The husk a reader sees of a block: that of the written block, or of a zero payload with the tag where unwritten (R194). -/
def Blk.huskFor (b : Blk) (tag : Nat) : Word := if b.isUnwritten then huskOf (zeros 4096) tag else b.husk

/-- Husks of a tensor's blocks in a window, each block checked: the state, the husks in order, and the failing blocks. -/
def huskList (h : Nat) (tierB : Bool) (base tensor : Nat) : List Nat → State → State × List Word × List (Nat × Check)
  | [], s => (s, [], [])
  | i :: r, s =>
    match s.checkBlk h tierB (base / 4096 + i) (some (huskTag tensor i)) with
    | (s, b, .pass) =>
      let q := huskList h tierB base tensor r s
      (q.1, b.huskFor (huskTag tensor i) :: q.2.1, q.2.2)
    | (s, _, c) =>
      let q := huskList h tierB base tensor r s
      (q.1, q.2.1, (i, c) :: q.2.2)

/-- DIGEST: the region digest of the range's blocks (R39), 32 bytes at LOCAL; none where a part failed. -/
def execNmuDigest (src : NmuSrc) (m : List Meet) (s : State) : Outcome :=
  .next (s.meeting m fun s => s.nmuRun 4 src fun s r _ tierB base =>
    let d := r.desc
    let a := huskList r.hull tierB base d.tensor (blocksOf d.offset d.length) (s.nmuTake src)
    if a.2.2.isEmpty then (a.1.nmuReturn r (sha256Bytes (a.2.1.flatMap fun w => natLe 8 w.toNat))).nmuEnd r sDONE
    else
      (a.2.2.foldl (fun (p : Parts) b => p.fail r.hull (p.st.unitAt r.hull tierB (base / 4096 + b.1)) d.tensor b.1 b.2) a.1.parts).close r)

/-- One block of a VERIFY: a failing block is recorded and listed; one that is lost fails its part. -/
def verifyBlock (r : NReq) (tierB : Bool) (base : Nat) (a : Parts × List Nat) (i : Nat) : Parts × List Nat :=
  let d := r.desc
  match a.1.st.checkBlk r.hull tierB (base / 4096 + i) (some (huskTag d.tensor i)) with
  | (s, _, .pass) => ({ a.1 with st := s }, a.2)
  | (s, _, .uncorr) => (Parts.fail { a.1 with st := s } r.hull 0 d.tensor i .uncorr, a.2)
  | (s, _, c) =>
    match (s.hull r.hull).find tierB (base / 4096 + i) with
    | some u => ({ a.1 with st := s.huskFound (unitOf tierB u.1) r.hull d.tensor i c }, a.2 ++ [i - d.offset / 4096])
    | none => ({ a.1 with st := s }, a.2)

/-- VERIFY: the number of failing blocks and the index, within the range, of the first; each failing block is recorded. -/
def execVerify (src : NmuSrc) (m : List Meet) (s : State) : Outcome :=
  .next (s.meeting m fun s => s.nmuRun 5 src fun s r _ tierB base =>
    let d := r.desc
    let o := (blocksOf d.offset d.length).foldl (verifyBlock r tierB base) ((s.nmuTake src).parts, [])
    let first := match o.2 with | i :: _ => i | [] => 0xFFFFFFFFFFFFFFFF
    if o.1.status = sDONE then (o.1.st.nmuReturn r (natLe 8 o.2.length ++ natLe 8 first)).nmuEnd r sDONE else o.1.close r)

/-- ZERO (R193, R211). -/
def execNmuZero (src : NmuSrc) (m : List Meet) (s : State) : Outcome :=
  .next (s.meeting m fun s => s.nmuRun 8 src fun s r _ tierB base =>
    (Parts.wrote { (s.nmuTake src).parts with
      st := (s.nmuTake src).zeroRange r.hull tierB base r.desc.tensor r.desc.offset r.desc.length }).close r)

/-- One block of a SCRUB request: as R220 scrubs it, against the tag that the request names. -/
def scrubPart (r : NReq) (tierB : Bool) (base : Nat) (p : Parts) (i : Nat) : Parts :=
  match (p.st.hull r.hull).find tierB (base / 4096 + i) with
  | none => { p with st := p.st.reject r.hull tierB false (base + 4096 * i) }
  | some (n, row) =>
    let u := unitOf tierB n
    let s := p.st.holdAt u
    if s.unitFailed u then Parts.fail { p with st := s } r.hull (nmuOf u) r.desc.tensor i .uncorr
    else
      let k := s.takeMeet u row
      let st := k.2.2.scrubOne u row k.1 k.2.1 (some (huskTag r.desc.tensor i))
      if k.1 = .uncorrectable ∨ k.2.1 > 8 then Parts.fail { p with st := st } r.hull (nmuOf u) r.desc.tensor i .uncorr else { p with st := st }

/-- SCRUB (R211, R220): every block of the range at once; a mismatch is recorded as for VERIFY, a block whose error cannot be corrected
makes the status FAULT (R179). -/
def execNmuScrub (src : NmuSrc) (m : List Meet) (s : State) : Outcome :=
  .next (s.meeting m fun s => s.nmuRun 9 src fun s r _ tierB base =>
    ((blocksOf r.desc.offset r.desc.length).foldl (scrubPart r tierB base) (s.nmuTake src).parts).close r)

/-! ## SNAPSHOT and DELTA (R217) -/

/-- Physical key of a tensor's block: tier and key. -/
def State.blockKey (s : State) (h : Nat) (pr : Prog) (tensor i : Nat) : Option (Bool × Nat) :=
  match pr.memPlace tensor with
  | some (tierB, base) => ((s.hull h).find tierB (base / 4096 + i)).map fun p => (tierB, blkPer tierB * p.1 + p.2)
  | none => none

/-- Marks a block copy-on-write; one still marked keeps its mark (R217). -/
def State.mark (s : State) (h : Nat) (src dst : Bool × Nat) : State :=
  let hit := fun (m : Mark) => m.hull == h && m.tierB == src.1 && m.key == src.2
  if s.mem.marks.any fun m => hit m && !m.copied then s
  else
    let m : Mark := { hull := h, tierB := src.1, key := src.2, dstB := dst.1, dst := dst.2, copied := false }
    { s with mem := { s.mem with marks := s.mem.marks.filter (fun m => !hit m) ++ [m] } }

/-- A request reaches a block's unit: held where the unit is being copied (R199). -/
def State.holdKey (s : State) (k : Bool × Nat) : State := s.holdAt (unitOf k.1 (k.2 / blkPer k.1))

/-- SNAPSHOT: block i of the range goes, when first written, to the block at OFFSET2 + 4096·i of TENSOR2. -/
def execSnapshot (src : NmuSrc) (m : List Meet) (s : State) : Outcome :=
  .next (s.meeting m fun s => s.nmuRun 6 src fun s r pr _ _ =>
    let d := r.desc
    let t2 := fieldLe d.block 8 4
    let o2 := fieldLe d.block 0x18 8
    let n := (blocksOf d.offset d.length).length
    let s := s.nmuTake src
    if !pr.inMemory t2 || decide (o2 % 4096 ≠ 0 ∨ o2 + 4096 * n > pr.bytesOf t2) then s.nmuEnd r sBADPARAM
    else
      let s := (upFrom 0 n).foldl (fun s k =>
        match s.blockKey r.hull pr d.tensor (d.offset / 4096 + k), s.blockKey r.hull pr t2 (o2 / 4096 + k) with
        | some a, some b => ((s.holdKey a).holdKey b).mark r.hull a b
        | _, _ => s) s
      s.nmuEnd r sDONE)

/-- The snapshot copy that holds a block's content of the cut, if the block was copied. -/
def State.cutMark (s : State) (h : Nat) (k : Bool × Nat) : Option Mark :=
  s.mem.marks.find? fun m => m.hull == h && m.tierB == k.1 && m.key == k.2 && m.copied

/-- Where the content of the cut for a block lies: in the snapshot copy if the block was copied, else in the block itself (R217). -/
def State.cutKey (s : State) (h : Nat) (k : Bool × Nat) : Bool × Nat :=
  match s.cutMark h k with
  | some m => (m.dstB, m.dst)
  | none => k

/-- The content of the cut for a block. -/
def State.cutBlock (s : State) (h : Nat) (k : Bool × Nat) : Blk := s.blk (s.cutKey h k).1 (s.cutKey h k).2

/-- The content of the cut for a block, as an access reads and checks it; a read of an unwritten block of a window is seen (R195). -/
def State.readCut (s : State) (h : Nat) (tierB : Bool) (wb : Nat) (k : Bool × Nat) (tag : Nat) : State × Blk × Check :=
  let c := s.cutKey h k
  let r := s.access h (unitOf c.1 (c.2 / blkPer c.1)) (c.2 % blkPer c.1) false false
  match r.1 with
  | .done =>
    let b := r.2.blk c.1 c.2
    (if b.isUnwritten then r.2.sawUnwritten h tierB wb else r.2, b, b.check (some tag))
  | .unassigned => (r.2, Blk.unwritten, .pass)
  | .lost => (r.2, Blk.unwritten, .uncorr)

/-- Clears a block's mark. -/
def State.unmark (s : State) (h : Nat) (k : Bool × Nat) : State :=
  { s with mem := { s.mem with marks := s.mem.marks.filter fun m => !(m.hull == h && m.tierB == k.1 && m.key == k.2) } }

/-- The unit that reads delta block `k` of a hull's delta list for transmission: that of block `k` of the drain area (log entry 79). -/
def State.drainUnit (s : State) (h k : Nat) : Nat :=
  match (s.hull h).prog.bind fun p => p.image.ckptAreas with
  | some a => s.unitAt h true (a.2.1 / 4096 + k)
  | none => 8

/-- One block of a DELTA: its content of the cut is checked and its husk compared with the list's; a block that differs goes on
the delta list, its new husk is recorded, and the mark is cleared. -/
def deltaBlock (r : NReq) (pr : Prog) (tierB : Bool) (base t2 o2 : Nat) (p : Parts) (k : Nat) : Parts :=
  let d := r.desc
  let i := d.offset / 4096 + k
  let s := p.st
  let u := s.unitAt r.hull tierB (base / 4096 + i)
  match s.blockKey r.hull pr d.tensor i, pr.memPlace t2 with
  | some key, some (tb, bs) =>
    match s.readCut r.hull tierB (base / 4096 + i) key (huskTag d.tensor i) with
    | (s, b, .pass) =>
      let hk := b.huskFor (huskTag d.tensor i)
      let o := s.readRange r.hull tb bs t2 (o2 + 8 * k) 8
      match o.bad with
      | some bad => Parts.fail { p with st := o.st } r.hull u t2 bad.1 bad.2
      | none =>
        let x := o.st.hull r.hull
        let s := if fieldLe o.data 0 8 = hk.toNat then o.st
          else (o.st.setHull r.hull { x with ckpt := { x.ckpt with delta := x.ckpt.delta ++ [(d.tensor, i, hk, b.payload)] } }).drainAt r.hull
            (o.st.drainUnit r.hull x.ckpt.delta.length) (· + 1)
        Parts.wrote { p with st := (s.writeRange r.hull tb bs t2 (o2 + 8 * k) (natLe 8 hk.toNat)).unmark r.hull key }
    | (s, _, c) => Parts.fail { p with st := s } r.hull u d.tensor i c
  | none, _ => { p with st := s.reject r.hull tierB false (base + 4096 * i) }
  | _, none => p

/-- DELTA, in ascending block order. -/
def execNmuDelta (src : NmuSrc) (m : List Meet) (s : State) : Outcome :=
  .next (s.meeting m fun s => s.nmuRun 7 src fun s r pr tierB base =>
    let d := r.desc
    let t2 := fieldLe d.block 8 4
    let o2 := fieldLe d.block 0x18 8
    let n := (blocksOf d.offset d.length).length
    let s := s.nmuTake src
    if !pr.inMemory t2 || decide (o2 + 8 * n > pr.bytesOf t2) then s.nmuEnd r sBADPARAM
    else ((upFrom 0 n).foldl (deltaBlock r pr tierB base t2 o2) s.parts).close r)

end Sys2Proof.Machine
end

