-- ==== Sys2Proof/Machine/Solver.lean ====
section
/-!
DEFINITION. What an Ausolin engine computes (R230–R246): binary64 arithmetic, structures, factorisation, solves, refinement, inverse
roots, quadratic programs and the cost model. Numbers are binary64 encodings. Orders the manual leaves to inference: log entry 17.
-/

namespace Sys2Proof.Machine

/-! ## Arithmetic (R230) -/

/-- A result in binary64, nearest even. -/
def toF64 (x : Val × Flg) : Nat := (encodeF fp64 .rne x.1).1
def dv (a : Nat) : Val := decodeF fp64 a
def dAdd (a b : Nat) : Nat := toF64 (vAdd (dv a) (dv b))
def dNeg (a : Nat) : Nat := toF64 (vNeg (dv a), 0)
def dSub (a b : Nat) : Nat := toF64 (vAdd (dv a) (vNeg (dv b)))
def dMul (a b : Nat) : Nat := toF64 (vMul (dv a) (dv b))
def dFma (a b c : Nat) : Nat := toF64 (vFma (dv a) (dv b) (dv c))
def dDiv (a b : Nat) : Nat := toF64 (vDiv (dv a) (dv b))
def dSqrt (a : Nat) : Nat := toF64 (vSqrt (dv a))
/-- 1. -/
def d1 : Nat := 0x3FF0000000000000
def dInf : Nat := 0x7FF0000000000000
def dNaN : Nat := 0x7FF8000000000000
def dRcp (a : Nat) : Nat := dDiv d1 a
def dAbs (a : Nat) : Nat := if a / 2 ^ 52 % 2 ^ 11 = 2047 ∧ a % 2 ^ 52 ≠ 0 then dNaN else a % 2 ^ 63
def dLt (a b : Nat) : Bool := vLt (dv a) (dv b)
def dLe (a b : Nat) : Bool := match dv a, dv b with | .nan, _ => false | _, .nan => false | x, y => vLt x y || vEq x y
def dMax (a b : Nat) : Nat := toF64 (vMaxOf (dv a) (dv b), 0)
def dMin (a b : Nat) : Nat := toF64 (vMinOf (dv a) (dv b), 0)
def dFinite (a : Nat) : Bool := a / 2 ^ 52 % 2 ^ 11 != 2047
/-- A small integer. -/
def dOfNat (n : Nat) : Nat := toF64 (valOfInt n, 0)

/-- A dot product: one FMA chain in ascending order from +0 (R231). -/
def dDot (l : List (Nat × Nat)) : Nat := l.foldl (fun acc p => dFma p.1 p.2 acc) 0
/-- The largest of a list, +0 for none. -/
def dMaxOf (l : List Nat) : Nat := l.foldl dMax 0

/-- Pairs of neighbours added, one level of the tree. -/
def dPairs : List Nat → List Nat
  | a :: b :: r => dAdd a b :: dPairs r
  | l => l

/-- A vector reduction (R231): 64 lane sums in ascending order from +0, then the fixed tree. -/
def dReduce (l : List Nat) : Nat :=
  let lanes := (upFrom 0 64).map fun j =>
    ((upFrom 0 ((l.length + 63) / 64)).filterMap fun k => l[j + 64 * k]?).foldl dAdd 0
  (dPairs (dPairs (dPairs (dPairs (dPairs (dPairs lanes)))))).headD 0

/-! ## Structures (R233–R235) -/

/-- The dimension D of R234. -/
def AStruct.dim (st : AStruct) : Nat := if st.kind = 2 then st.n + st.m else st.n

/-- First position of a panel. -/
def AStruct.start (st : AStruct) (p : Nat) : Nat := sumOf ((st.panels.take p).map (·.1))
def AStruct.width (st : AStruct) (p : Nat) : Nat := (st.panels.getD p (0, 0)).1
/-- The panel of a position. -/
def AStruct.panelOf (st : AStruct) (i : Nat) : Nat :=
  ((upFrom 0 st.panels.length).find? fun p => decide (i < st.start p + st.width p)).getD 0
/-- The position of an original index. -/
def AStruct.posOf (st : AStruct) (o : Nat) : Nat := (st.perm.findIdx? (· == o)).getD 0

/-- The block pattern of K. -/
def AStruct.kBlocks (st : AStruct) : List (Nat × Nat) := st.blocks.map fun b => (b.1, b.2.1)

/-- Rows below the diagonal of a block column. -/
def colRows (bs : List (Nat × Nat)) (k : Nat) : List Nat := (bs.filter fun b => b.2 == k && decide (k < b.1)).map (·.1)

/-- Pairs (I, J) with k < J ≤ I of a block column. -/
def colPairs (bs : List (Nat × Nat)) (k : Nat) : List (Nat × Nat) :=
  let rs := colRows bs k
  rs.flatMap fun i => (rs.filter fun j => decide (j ≤ i)).map fun j => (i, j)

/-- The factor pattern (R235). -/
def AStruct.lBlocks (st : AStruct) : List (Nat × Nat) :=
  (upFrom 0 st.panels.length).foldl (fun bs k =>
    (colPairs bs k).foldl (fun bs p => if bs.contains p then bs else bs ++ [p]) bs) st.kBlocks

/-- The updates U: (h_I, h_J, w_k). -/
def AStruct.updates (st : AStruct) : List (Nat × Nat × Nat) :=
  let bs := st.lBlocks
  (upFrom 0 st.panels.length).flatMap fun k => (colPairs bs k).map fun p => (st.width p.1, st.width p.2, st.width k)

/-- Entries of a block pattern, a diagonal block as w(w + 1)/2. -/
def AStruct.entriesOf (st : AStruct) (bs : List (Nat × Nat)) : Nat :=
  sumOf (bs.map fun b => if b.1 = b.2 then st.width b.1 * (st.width b.1 + 1) / 2 else st.width b.1 * st.width b.2)

def AStruct.symBytes (st : AStruct) : Nat :=
  128 + 4 * st.panels.length + 2 * st.dim + 8 * (st.kBlocks.length + st.lBlocks.length)

def AStruct.valBytes (st : AStruct) : Nat :=
  let v := match st.kind with | 2 => 24 * st.dim | 3 => 5 * st.n * st.n | _ => 66 * st.dim
  8 * (st.entriesOf st.kBlocks + st.entriesOf st.lBlocks + v)

/-- KKT non-zeros (R236). -/
def AStruct.nonZeros (st : AStruct) : Nat :=
  sumOf (st.kBlocks.map fun b => if b.1 = b.2 then st.width b.1 * st.width b.1 else 2 * st.width b.1 * st.width b.2)

/-- The stored value at positions i ≥ j; none for a structural zero. -/
def AStruct.at_ (st : AStruct) (i j : Nat) : Option Nat :=
  let pi := st.panelOf i
  let pj := st.panelOf j
  (st.blocks.find? fun b => b.1 == pi && b.2.1 == pj).map fun b =>
    (b.2.2.getD ((i - st.start pi) * st.width pj + (j - st.start pj)) 0).toNat

/-- The stored value of a symmetric entry by original indices. -/
def AStruct.entry (st : AStruct) (r c : Nat) : Option Nat :=
  let i := st.posOf r
  let j := st.posOf c
  st.at_ (max i j) (min i j)

/-- Stored entries of a row, by ascending original column below a bound. -/
def AStruct.row (st : AStruct) (r lo hi : Nat) : List (Nat × Nat) :=
  (upFrom lo (hi - lo)).filterMap fun c => (st.entry r c).map fun v => (c, v)

/-- Element of the DENSE matrix. -/
def AStruct.denseAt (st : AStruct) (i j : Nat) : Nat :=
  let a := max i j
  let b := min i j
  (st.dense.getD (a * (a + 1) / 2 + b) 0).toNat

/-! ### Structure images (R233, R234, R236) -/

/-- `n` little-endian words of `w` bytes at an offset. -/
def words (b : List Byte) (off w n : Nat) : List Nat := (upFrom 0 n).map fun i => fieldLe b (off + w * i) w

/-- A list has no repeat and holds every number below `n`. -/
def isPerm (l : List Nat) (n : Nat) : Bool := l.length == n && (upFrom 0 n).all fun i => l.contains i

/-- Blocks sorted by (COL, ROW), strictly. -/
def blocksSorted : List (Nat × Nat) → Bool
  | a :: b :: r => decide (a.2 < b.2 ∨ (a.2 = b.2 ∧ a.1 < b.1)) && blocksSorted (b :: r)
  | _ => true

/-- STAGE does not decrease. -/
def stagesRise : List (Nat × Nat) → Bool
  | a :: b :: r => decide (a.2 ≤ b.2) && stagesRise (b :: r)
  | _ => true

/-- The rules of R234 on tables. -/
def AStruct.tablesOk (st : AStruct) : Bool :=
  let np := st.panels.length
  let primal := fun (p : Nat) => (upFrom (st.start p) (st.width p)).all fun k => decide (st.perm.getD k 0 < st.n)
  let dual := fun (p : Nat) => (upFrom (st.start p) (st.width p)).all fun k => decide (st.n ≤ st.perm.getD k 0)
  st.panels.all (fun p => decide (1 ≤ p.1 ∧ p.1 ≤ 64)) && sumOf (st.panels.map (·.1)) == st.dim && isPerm st.perm st.dim
    && st.kBlocks.all (fun b => decide (b.2 ≤ b.1 ∧ b.1 < np)) && blocksSorted st.kBlocks
    && (upFrom 0 np).all (fun p => st.kBlocks.contains (p, p))
    && (!st.banded || (stagesRise st.panels && st.kBlocks.all fun b =>
          decide ((st.panels.getD b.1 (0, 0)).2 ≤ (st.panels.getD b.2 (0, 0)).2 + 1)))
    && (st.kind != 2 || ((upFrom 0 np).all (fun p => primal p || dual p)
          && st.kBlocks.all (fun b => b.1 == b.2 || !(dual b.1 && dual b.2))
          && (upFrom 0 np).all (fun p => !dual p || (upFrom 0 (st.width p)).all fun i => (upFrom 0 (i + 1)).all fun j =>
                ((st.at_ (st.start p + i) (st.start p + j)).getD 0) % 2 ^ 63 == 0)))

/-- Block entries with their values, one after another from an offset. -/
def blockVals (st : AStruct) (b : List Byte) : Nat → List (Nat × Nat) → List (Nat × Nat × List Word) × Nat
  | off, [] => ([], off)
  | off, (i, j) :: r =>
    let n := st.width i * st.width j
    let q := blockVals st b (off + 8 * n) r
    ((i, j, (words b off 8 n).map (BitVec.ofNat 64)) :: q.1, q.2)

/-- Parses a structure image; none where it breaks R233, R234 or a BAD_PARAM limit of R236. -/
def parseStruct (b : List Byte) : Option AStruct :=
  let kind := fieldLe b 2 1
  let fl := fieldLe b 3 1
  let n := fieldLe b 4 2
  let m := fieldLe b 6 2
  let np := fieldLe b 8 2
  let stages := fieldLe b 0xA 2
  let nb := fieldLe b 0xC 4
  let w64 := fun (l : List Nat) => l.map (BitVec.ofNat 64)
  let head : AStruct := { kind := kind, banded := fl % 2 = 1, n := n, m := m, stages := stages, refine := fieldLe b 0x10 1,
                          params := w64 (words b 0x18 8 6), panels := [], perm := [], blocks := [], dense := [], q := [],
                          l := [], u := [], x0 := [], dirty := true, warmX := none, warmS := none, bytes := b.length }
  let okHead := fieldLe b 0 2 == 1 && decide (kind < 4 ∧ fl < 2) && fieldLe b 0x11 7 == 0 && leNat (slice b 0x48 56) == 0
    && (if kind = 2 then decide (1 ≤ n ∧ n ≤ 8192 ∧ m ≤ 16384 ∧ 1 ≤ stages ∧ stages ≤ 512 ∧ head.refine ≤ 4)
        else m == 0 && stages == 0 && head.refine == 0 && leNat (slice b 0x18 48) == 0
          && decide (1 ≤ n ∧ n ≤ (if kind = 3 then 512 else 24576)))
    && (kind != 3 || (np == 0 && nb == 0))
  if !okHead || decide (b.length < 128) then none
  else if kind = 3 then
    let k := n * (n + 1) / 2
    if b.length = 128 + 8 * k then some { head with dense := w64 (words b 128 8 k) } else none
  else
    let d := head.dim
    let o1 := 128 + 4 * np
    let o2 := o1 + 2 * d
    let o3 := o2 + 8 * nb
    if b.length < o3 then none
    else
      let zerosOk := (upFrom 0 np).all (fun p => fieldLe b (128 + 4 * p + 1) 1 == 0)
        && (upFrom 0 nb).all fun k => fieldLe b (o2 + 8 * k + 4) 4 == 0
      let st := { head with panels := (upFrom 0 np).map fun p => (fieldLe b (128 + 4 * p) 1, fieldLe b (128 + 4 * p + 2) 2),
                            perm := words b o1 2 d }
      let keys := (upFrom 0 nb).map fun k => (fieldLe b (o2 + 8 * k) 2, fieldLe b (o2 + 8 * k + 2) 2)
      let v := blockVals st b o3 keys
      let st := { st with blocks := v.1 }
      let st := if kind = 2 then
          { st with q := w64 (words b v.2 8 n), l := w64 (words b (v.2 + 8 * n) 8 m), u := w64 (words b (v.2 + 8 * (n + m)) 8 m),
                    x0 := w64 (words b (v.2 + 8 * (n + 2 * m)) 8 n) }
        else st
      let total := v.2 + (if kind = 2 then 8 * (2 * n + 2 * m) else 0)
      if zerosOk && b.length == total && st.tablesOk && decide (st.nonZeros ≤ 2097152) then some st else none

/-! ## Costs (R246) -/

def ceilDiv (a b : Nat) : Nat := (a + b - 1) / b
def kV (k : Nat) : Nat := 4 + ceilDiv k 64
def kRd (k : Nat) : Nat := 28 + ceilDiv k 64
def kDv (k : Nat) : Nat := 21 + k

def AStruct.cF (st : AStruct) : Nat :=
  if st.kind = 3 then 0
  else
    let pv := if st.kind = 0 then 28 else 22
    sumOf (st.panels.map fun p => p.1 * (pv + 4) + ceilDiv (p.1 * p.1 * p.1) 384)
      + sumOf ((st.lBlocks.filter fun b => b.1 != b.2).map fun b => 4 + ceilDiv (st.width b.1 * st.width b.2 * st.width b.2) 64)
      + sumOf (st.updates.map fun t => 4 + ceilDiv (t.1 * t.2.1 * t.2.2) 64)

def AStruct.cT (st : AStruct) : Nat :=
  sumOf (st.lBlocks.map fun b => 8 + ceilDiv (2 * st.width b.1 * st.width b.2) 64) + kV st.dim

def AStruct.cM (st : AStruct) : Nat :=
  sumOf (st.kBlocks.map fun b =>
    4 + (if b.1 = b.2 then ceilDiv (st.width b.1 * st.width b.2) 64 else ceilDiv (2 * st.width b.1 * st.width b.2) 64))

def mmCost (d : Nat) : Nat := d * (4 + ceilDiv (d * d) 64)

/-- Sides of a QP (R242): (row, lower?, bound), rows ascending, the lower side first. -/
def AStruct.sides (st : AStruct) : List (Nat × Bool × Nat) :=
  (upFrom 0 st.m).flatMap fun i =>
    let l := (st.l.getD i 0).toNat
    let u := (st.u.getD i 0).toNat
    if vEq (dv l) (dv u) then [] else
      (if dFinite l then [(i, true, l)] else []) ++ (if dFinite u then [(i, false, u)] else [])

/-- C_SETUP, C_ITER and C_OUT of an operation (R246); `r` NRHS, or p of INVROOT; `refactor` whether SOLVE factors first. -/
def AStruct.costs (st : AStruct) (op r : Nat) (refactor : Bool) : Nat × Nat × Nat :=
  let d := st.dim
  let cf := if refactor then st.cF else 0
  match op with
  | 3 => (st.cF, 0, 0)
  | 4 => (cf + r * st.cT, 0, kV (r * d))
  | 5 => (cf + r * st.cT + r * (st.cM + kRd d), r * (st.cM + st.cT + kRd d + 2 * kV d), kV (r * d))
  | 6 => (kRd (d * d) + kDv 2 + 3 * kV (d * d), (r + 1) * mmCost d + 2 * kV (d * d) + kRd (d * d), kV (d * d))
  | 7 =>
    let j := st.sides.length
    let rr := st.refine
    (st.cM + 3 * kRd d + kDv j + 8 * kV (d + j),
     st.cF + (2 + 2 * rr) * st.cT + (3 + 2 * rr) * st.cM + 3 * kDv j + 8 * kRd (d + j) + 24 * kV (d + j), kV d + 3 * kRd d)
  | 8 =>
    (st.cF + kDv st.m + st.cM + 3 * kRd d + 4 * kV d,
     (1 + st.refine) * st.cT + (2 + st.refine) * st.cM + 3 * kRd d + 12 * kV d, kV d + 3 * kRd d)
  | _ => (0, 0, 0)

/-! ## Factorisation and solves (R239) -/

/-- A factor: L by 65,536·i + j, W likewise, and r by position. -/
structure Factor where
  l : Tbl Nat
  w : Tbl Nat
  r : Tbl Nat
  deriving Repr

/-- What stops a computation: cause and panel (R245). -/
abbrev Stop := Nat × Nat

def fkey (i j : Nat) : Nat := 65536 * i + j

/-- Whether a pivot fails (R245): by the kind, and in QP by whether its position is primal. -/
def AStruct.pivotBad (st : AStruct) (k acc : Nat) : Option Nat :=
  if !dFinite acc || acc % 2 ^ 63 == 0 then some 18
  else
    let neg := decide (2 ^ 63 ≤ acc)
    match st.kind with
    | 0 => if neg then some 19 else none
    | 2 => if neg == decide (st.perm.getD k 0 < st.n) then some 19 else none
    | _ => none

/-- One column of a factorisation. `kv` gives K, `bs` the factor pattern by positions' panels. -/
def AStruct.column (st : AStruct) (pan : Nat → Nat) (bs : List (Nat × Nat)) (kv : Nat → Nat → Nat) (f : Factor) (k : Nat) :
    Except Stop Factor :=
  let stored := fun (i j : Nat) => bs.contains (pan i, pan j)
  let chain := fun (i k : Nat) =>
    ((upFrom 0 k).filter fun j => stored i j && stored k j).foldl
      (fun acc j => dFma (dNeg (tget 0 f.w (fkey i j))) (tget 0 f.l (fkey k j)) acc) (kv i k)
  let acc := chain k k
  match st.pivotBad k acc with
  | some c => .error (c, pan k)
  | none =>
    let d := if st.kind = 0 then dSqrt acc else acc
    let r := dRcp d
    let rows := (upFrom (k + 1) (st.dim - (k + 1))).filter fun i => stored i k
    let col := rows.map fun i => (i, dMul (chain i k) r)
    .ok { l := col.foldl (fun t c => tput t (fkey c.1 k) c.2) f.l,
          w := col.foldl (fun t c => tput t (fkey c.1 k) (if st.kind = 0 then c.2 else dMul c.2 d)) f.w,
          r := tput f.r k r }

/-- Factors the matrix with lower entries `kv` at positions. -/
def AStruct.factor (st : AStruct) (kv : Nat → Nat → Nat) : Except Stop Factor :=
  let pans := (upFrom 0 st.dim).map st.panelOf
  let bs := st.lBlocks
  (upFrom 0 st.dim).foldl (fun f k => f.bind fun f => st.column (fun i => pans.getD i 0) bs kv f k)
    (.ok { l := [], w := [], r := [] })

/-- Solves with a factor, by positions (R239). -/
def AStruct.solvePos (st : AStruct) (f : Factor) (b : List Nat) : List Nat :=
  let pans := (upFrom 0 st.dim).map st.panelOf
  let bs := st.lBlocks
  let stored := fun (i j : Nat) => bs.contains (pans.getD i 0, pans.getD j 0)
  let chol := st.kind == 0
  let fwd := (upFrom 0 st.dim).foldl (fun (z : List Nat) k =>
    let v := ((upFrom 0 k).filter fun j => stored k j).foldl
      (fun acc j => dFma (dNeg (tget 0 f.l (fkey k j))) (z.getD j 0) acc) (b.getD k 0)
    z ++ [if chol then dMul v (tget 0 f.r k) else v]) []
  let mid := if chol then fwd else (upFrom 0 st.dim).map fun k => dMul (fwd.getD k 0) (tget 0 f.r k)
  ((upFrom 0 st.dim).reverse).foldl (fun (x : List Nat) k =>
    let v := ((upFrom (k + 1) (st.dim - (k + 1))).filter fun i => stored i k).foldl
      (fun acc i => dFma (dNeg (tget 0 f.l (fkey i k))) (x.getD i 0) acc) (x.getD k 0)
    setAt x k (if chol then dMul v (tget 0 f.r k) else v)) mid

/-- Solves with right-hand side and solution in original order. -/
def AStruct.solve (st : AStruct) (f : Factor) (b : List Nat) : List Nat :=
  let x := st.solvePos f ((upFrom 0 st.dim).map fun k => b.getD (st.perm.getD k 0) 0)
  (upFrom 0 st.dim).map fun o => x.getD (st.posOf o) 0

/-- K of the structure's own values, by positions. -/
def AStruct.plainK (st : AStruct) (i j : Nat) : Nat := (st.at_ i j).getD 0

/-- Kv for the structure's own values (R231: ascending original index). -/
def AStruct.times (st : AStruct) (v : List Nat) : List Nat :=
  (upFrom 0 st.dim).map fun i => dDot ((st.row i 0 st.dim).map fun p => (p.2, v.getD p.1 0))

/-! ## What a command computes -/

/-- The outcome of a compute phase: status code and cause, iterations, returned iterate, cycles, panel, residuals, payload, and the
structure afterwards. -/
structure ARes where
  st : AStruct
  status : Nat
  cause : Nat
  iterations : Nat
  returned : Nat
  cycles : Nat
  panel : Nat
  rp : Nat
  rd : Nat
  c : Nat
  merit : Nat
  payload : List Nat
  deriving Repr

/-- A finished command without residuals. -/
def ARes.plain (st : AStruct) (cycles : Nat) (payload : List Nat) : ARes :=
  { st := st, status := 0, cause := 0, iterations := 0, returned := 0, cycles := cycles, panel := 0xFFFFFFFF, rp := 0, rd := 0,
    c := 0, merit := 0, payload := payload }

/-- NAN_RESULT (R245): every value of the payload and the residuals the canonical NaN. -/
def ARes.nan (st : AStruct) (cause panel k ret cycles n : Nat) : ARes :=
  { st := st, status := 0x21, cause := cause, iterations := k, returned := ret, cycles := cycles,
    panel := if cause = 18 ∨ cause = 19 then panel else 0xFFFFFFFF, rp := dNaN, rd := dNaN, c := dNaN, merit := dNaN,
    payload := List.replicate n dNaN }

/-- An iterate with its residuals, merit and whether it converges. -/
structure Iter (α : Type) where
  val : α
  rp : Nat
  rd : Nat
  c : Nat
  merit : Nat
  conv : Bool

/-- Where the loop of R244 ended. -/
structure LoopEnd (α : Type) where
  status : Nat
  cause : Nat
  k : Nat
  ret : Nat
  t : Nat
  best : Iter α
  last : Iter α

/-- The loop of R244 from iterate `k`; `fuel` bounds the iterations (ITER_MAX). -/
def loopFrom {α : Type} (next : α → Except Stop (Iter α)) (itMax deadline cIter cOut : Nat) :
    Nat → Nat → Nat → Nat → Iter α → Iter α → Except (Stop × Nat) (LoopEnd α)
  | fuel, k, t, best, bi, cur =>
    if cur.conv then .ok ⟨0, 0, k, k, t, cur, cur⟩
    else if k = itMax then .ok ⟨0x20, 2, k, best, t, bi, cur⟩
    else if deadline ≠ 0 ∧ t + cIter + cOut > deadline then .ok ⟨0x20, 1, k, best, t, bi, cur⟩
    else
      match fuel with
      | 0 => .ok ⟨0x20, 2, k, best, t, bi, cur⟩
      | fuel + 1 =>
        match next cur.val with
        | .error e => .error (e, k)
        | .ok it =>
          let better := dLt it.merit bi.merit
          loopFrom next itMax deadline cIter cOut fuel (k + 1) (t + cIter) (if better then k + 1 else best)
            (if better then it else bi) it

/-- All values finite, or cause 20. -/
def finiteOr (l : List Nat) (a : Except Stop α) : Except Stop α := if l.all dFinite then a else .error (20, 0)

/-- The stored entries are finite (cause 16); the rest of a diagonal block is not read (R234). -/
def AStruct.finiteK (st : AStruct) : Bool :=
  st.blocks.all fun b =>
    let w := st.width b.2.1
    (upFrom 0 b.2.2.length).all fun k => (b.1 == b.2.1 && decide (k / w < k % w)) || dFinite (b.2.2.getD k 0).toNat

/-- FACTOR: its one kernel is C_F, which finds every cause (R245). -/
def AStruct.runFactor (st : AStruct) : ARes :=
  if !st.finiteK then ARes.nan st 16 0 0 0 st.cF 0
  else
    match st.factor st.plainK with
    | .error e => ARes.nan st e.1 e.2 0 0 st.cF 0
    | .ok _ => ARes.plain { st with dirty := false } st.cF []

/-- Columns of a right-hand side. -/
def columnsOf (d r : Nat) (l : List Nat) : List (List Nat) := (upFrom 0 r).map fun j => (l.drop (d * j)).take d

/-- SOLVE of `r` columns. -/
def AStruct.runSolve (st : AStruct) (r : Nat) (rhs : List Nat) (unstated : Nat) : ARes :=
  let c := st.costs 4 r st.dirty
  let n := r * st.dim
  if !st.finiteK || !rhs.all dFinite then ARes.nan st 16 0 0 0 unstated n
  else
    match st.factor st.plainK with
    | .error e => ARes.nan st e.1 e.2 0 0 (st.cF + c.2.2) n
    | .ok f =>
      let x := (columnsOf st.dim r rhs).flatMap fun b => st.solve f b
      if x.all dFinite then ARes.plain { st with dirty := false } (c.1 + c.2.2) x
      else ARes.nan { st with dirty := false } 20 0 0 0 unstated n

/-- The residual of REFINE for a set of columns. -/
def AStruct.refineIter (st : AStruct) (eps : Nat) (rhs x : List Nat) (r : Nat) : Except Stop (Iter (List Nat)) :=
  let e := (columnsOf st.dim r x).zip (columnsOf st.dim r rhs) |>.flatMap fun p =>
    (p.2.zip (st.times p.1)).map fun q => dAbs (dSub q.1 q.2)
  let rp := dMaxOf e
  finiteOr (x ++ e) (.ok { val := x, rp := rp, rd := 0, c := 0, merit := dDiv rp eps, conv := dLe rp eps })

/-- The result of a loop for operations with one residual. -/
def loopRes (st : AStruct) (cOut : Nat) (n unstated : Nat) (payload : α → List Nat) :
    Except (Stop × Nat) (LoopEnd α) → ARes
  | .error e => ARes.nan st e.1.1 e.1.2 e.2 e.2 unstated n
  | .ok o => { ARes.plain st (o.t + cOut) (payload o.best.val) with
                 status := o.status, cause := o.cause, iterations := o.k, returned := o.ret, rp := o.best.rp, rd := o.best.rd,
                 c := o.best.c, merit := o.best.merit }

/-- REFINE. -/
def AStruct.runRefine (st : AStruct) (r itMax deadline eps : Nat) (rhs : List Nat) (unstated : Nat) : ARes :=
  let c := st.costs 5 r st.dirty
  let n := r * st.dim
  if !st.finiteK || !rhs.all dFinite then ARes.nan st 16 0 0 0 unstated n
  else
    match st.factor st.plainK with
    | .error e => ARes.nan st e.1 e.2 0 0 (st.cF + c.2.2) n
    | .ok f =>
      let st := { st with dirty := false }
      let x0 := (columnsOf st.dim r rhs).flatMap fun b => st.solve f b
      let next := fun (x : List Nat) =>
        let y := (columnsOf st.dim r x).zip (columnsOf st.dim r rhs) |>.flatMap fun p =>
          let res := (p.2.zip (st.times p.1)).map fun q => dSub q.1 q.2
          (p.1.zip (st.solve f res)).map fun q => dAdd q.1 q.2
        st.refineIter eps rhs y r
      match st.refineIter eps rhs x0 r with
      | .error e => ARes.nan st e.1 e.2 0 0 unstated n
      | .ok i0 => loopRes st c.2.2 n unstated id (loopFrom next itMax deadline c.2.1 c.2.2 itMax 0 c.1 0 i0 i0)

/-! ## Inverse roots (R240) -/

/-- A product of d × d matrices (R231). -/
def matMul (d : Nat) (a b : List Nat) : List Nat :=
  (upFrom 0 d).flatMap fun i => (upFrom 0 d).map fun j =>
    dDot ((upFrom 0 d).map fun k => (a.getD (d * i + k) 0, b.getD (d * k + j) 0))

/-- An INVROOT iterate: X and M, with the residual max |M − I|. -/
def invIter (d eps : Nat) (x m : List Nat) : Except Stop (Iter (List Nat × List Nat)) :=
  let e := (upFrom 0 d).flatMap fun i => (upFrom 0 d).map fun j =>
    dAbs (dSub (m.getD (d * i + j) 0) (if i = j then d1 else 0))
  let rp := dMaxOf e
  finiteOr (x ++ m ++ e) (.ok { val := (x, m), rp := rp, rd := 0, c := 0, merit := dDiv rp eps, conv := dLe rp eps })

/-- INVROOT with p = 2 or 4. -/
def AStruct.runInvroot (st : AStruct) (p itMax deadline eps : Nat) (unstated : Nat) : ARes :=
  let d := st.n
  let c := st.costs 6 p false
  let a := (upFrom 0 d).flatMap fun i => (upFrom 0 d).map fun j => st.denseAt i j
  let sums := (upFrom 0 d).map fun j => dReduce ((upFrom 0 d).map fun i => dAbs (a.getD (d * i + j) 0))
  let norm := dMaxOf sums
  if !a.all dFinite || norm == 0 then ARes.nan st 16 0 0 0 unstated (d * d)
  else
    let p1 := dOfNat (p + 1)
    let c0 := dSqrt (dMul (dMul p1 norm) 0x3FE0000000000000)
    let cc := if p = 4 then dSqrt c0 else c0
    let x := (upFrom 0 d).flatMap fun i => (upFrom 0 d).map fun j => if i = j then dRcp cc else 0
    let sc := dRcp (dMul cc cc)
    let m1 := a.map fun v => dMul v sc
    let m := if p = 4 then m1.map fun v => dMul v sc else m1
    let inv := if p = 4 then 0x3FD0000000000000 else 0x3FE0000000000000
    let next := fun (xm : List Nat × List Nat) =>
      let t := (upFrom 0 d).flatMap fun i => (upFrom 0 d).map fun j =>
        dMul (dSub (if i = j then p1 else 0) (xm.2.getD (d * i + j) 0)) inv
      let tm := matMul d t (matMul d t xm.2)
      invIter d eps (matMul d xm.1 t) (if p = 4 then matMul d t (matMul d t tm) else tm)
    match invIter d eps x m with
    | .error e => ARes.nan st e.1 e.2 0 0 unstated (d * d)
    | .ok i0 =>
      loopRes st c.2.2 (d * d) unstated (·.1) (loopFrom next itMax deadline c.2.1 c.2.2 itMax 0 c.1 0 i0 i0)

/-! ## Quadratic programs (R241–R243) -/

/-- QP parameters in header order: SIGMA, RHO, RHO_EQ, ALPHA, DELTA_P, DELTA_D. -/
def AStruct.param (st : AStruct) (i : Nat) : Nat := (st.params.getD i 0).toNat
def AStruct.lo (st : AStruct) (i : Nat) : Nat := (st.l.getD i 0).toNat
def AStruct.hi (st : AStruct) (i : Nat) : Nat := (st.u.getD i 0).toNat
/-- Row i is an equality. -/
def AStruct.isEq (st : AStruct) (i : Nat) : Bool := vEq (dv (st.lo i)) (dv (st.hi i))
/-- Row i is free. -/
def AStruct.isFree (st : AStruct) (i : Nat) : Bool := !st.isEq i && !dFinite (st.lo i) && !dFinite (st.hi i)

/-- The rows of P and of A, and the columns of A, as (index, value) lists. -/
structure QpRows where
  p : List (List (Nat × Nat))
  a : List (List (Nat × Nat))
  at_ : List (List (Nat × Nat))

def AStruct.qpRows (st : AStruct) : QpRows :=
  { p := (upFrom 0 st.n).map fun i => st.row i 0 st.n,
    a := (upFrom 0 st.m).map fun i => st.row (st.n + i) 0 st.n,
    at_ := (upFrom 0 st.n).map fun j => (st.row j st.n (st.n + st.m)).map fun e => (e.1 - st.n, e.2) }

/-- Rows times a vector. -/
def rowsDot (rows : List (List (Nat × Nat))) (v : List Nat) : List Nat :=
  rows.map fun r => dDot (r.map fun e => (e.2, v.getD e.1 0))

/-- EPS_P, EPS_D, EPS_C. -/
abbrev Eps := Nat × Nat × Nat

/-- r_p, r_d, c, merit and convergence of (x, y) (R241). -/
def AStruct.qpResid (st : AStruct) (rows : QpRows) (eps : Eps) (x y : List Nat) : Nat × Nat × Nat × Nat × Bool :=
  let ax := rowsDot rows.a x
  let rp := dMaxOf ((upFrom 0 st.m).map fun i =>
    let v := ax.getD i 0
    dMax (dMax (dSub (st.lo i) v) (dSub v (st.hi i))) 0)
  let px := rowsDot rows.p x
  let aty := rowsDot rows.at_ y
  let rd := dMaxOf ((upFrom 0 st.n).map fun j =>
    dAbs (dAdd (dAdd (px.getD j 0) (st.q.getD j 0).toNat) (aty.getD j 0)))
  let term := fun (mult bound v : Nat) =>
    if mult % 2 ^ 63 == 0 then 0 else if !dFinite bound then dInf else dMul mult (dAbs (dSub bound v))
  let c := dMaxOf ((upFrom 0 st.m).map fun i =>
    let v := ax.getD i 0
    let yi := y.getD i 0
    dAdd (term (dMax yi 0) (st.hi i) v) (term (dMax (dNeg yi) 0) (st.lo i) v))
  let merit := dMax (dMax (dDiv rp eps.1) (dDiv rd eps.2.1)) (dDiv c eps.2.2)
  (rp, rd, c, merit, dLe rp eps.1 && dLe rd eps.2.1 && dLe c eps.2.2)

/-- A residual is not finite (cause 20); c may be +∞ by its definition in R241. -/
def residBad (q : Nat × Nat × Nat × Nat × Bool) : Bool := !dFinite q.1 || !dFinite q.2.1 || dAbs q.2.2.1 == dNaN

/-- Checks 16 and 17 of R245. -/
def AStruct.qpBad (st : AStruct) : Option Nat :=
  if !(st.finiteK && st.q.all (fun v => dFinite v.toNat) && st.x0.all (fun v => dFinite v.toNat)) then some 16
  else if (upFrom 0 st.m).any fun i => !dLe (st.lo i) (st.hi i) || st.lo i == dInf || st.hi i == dInf + 2 ^ 63 then some 17
  else none

/-- The KKT matrix at positions: P with `dp` added to its diagonal, dual diagonal `dd i`; a free row's entries are zero where
`cut`. -/
def AStruct.kkt (st : AStruct) (dp : Nat) (dd : Nat → Nat) (cut : Nat → Bool) (i j : Nat) : Nat :=
  let oi := st.perm.getD i 0
  let oj := st.perm.getD j 0
  if i = j then (if oi < st.n then dAdd ((st.at_ i j).getD 0) dp else dd (oi - st.n))
  else if (st.n ≤ oi && cut (oi - st.n)) || (st.n ≤ oj && cut (oj - st.n)) then 0
  else (st.at_ i j).getD 0

/-- The product of a KKT matrix and a vector in original order. -/
def AStruct.kktTimes (st : AStruct) (kv : Nat → Nat → Nat) (v : List Nat) : List Nat :=
  let pos := (upFrom 0 st.dim).map st.posOf
  (upFrom 0 st.dim).map fun r => dDot ((upFrom 0 st.dim).filterMap fun c =>
    let i := pos.getD r 0
    let j := pos.getD c 0
    if (st.at_ (max i j) (min i j)).isSome || r == c then some (kv (max i j) (min i j), v.getD c 0) else none)

/-- A KKT solve with REFINE steps against another matrix. -/
def AStruct.kktSolve (st : AStruct) (f : Factor) (ref : Nat → Nat → Nat) (b : List Nat) : List Nat :=
  (upFrom 0 st.refine).foldl (fun x _ =>
    let res := (b.zip (st.kktTimes ref x)).map fun q => dSub q.1 q.2
    (x.zip (st.solve f res)).map fun q => dAdd q.1 q.2) (st.solve f b)

/-- State of an interior-point iterate: x, y of equality rows (by row), s and lam by side. -/
structure Ip where
  x : List Nat
  yE : List Nat
  s : List Nat
  lam : List Nat

/-- +1 or −1 as binary64. -/
def sideSign (lower : Bool) : Nat := if lower then d1 else d1 + 2 ^ 63

/-- The returned y of an iterate (R242). -/
def AStruct.ipY (st : AStruct) (sides : List (Nat × Bool × Nat)) (w : Ip) : List Nat :=
  (upFrom 0 st.m).map fun i =>
    if st.isEq i then w.yE.getD i 0
    else if st.isFree i then 0
    else
      let tot := (sides.zip w.lam).foldl (fun acc p => if p.1.1 = i then dFma (sideSign p.1.2.1) p.2 acc else acc) 0
      dNeg tot

/-- A step direction: dx, dy, ds, dlam. -/
structure IpStep where
  dx : List Nat
  dy : List Nat
  ds : List Nat
  dlam : List Nat

/-- step(tau, kap) of R242. -/
def AStruct.ipStep (st : AStruct) (rows : QpRows) (sides : List (Nat × Bool × Nat)) (w : Ip) (tau : Nat) (kap : List Nat) :
    Except Stop IpStep :=
  let ax := rowsDot rows.a w.x
  let px := rowsDot rows.p w.x
  let nj := sides.length
  let side := fun (k : Nat) => sides.getD k (0, true, 0)
  let g := fun (k : Nat) => sideSign (side k).2.1
  let ks := upFrom 0 nj
  let rx := (upFrom 0 st.n).map fun c =>
    let col := rows.at_.getD c []
    let eq := dDot ((col.filter fun e => st.isEq e.1).map fun e => (e.2, w.yE.getD e.1 0))
    let sd := dDot (ks.filterMap fun k => (col.find? fun e => e.1 == (side k).1).map fun e => (dMul (g k) (w.lam.getD k 0), e.2))
    dSub (dAdd (dAdd (px.getD c 0) (st.q.getD c 0).toNat) eq) sd
  let r := ks.map fun k => dFma (g k) (dSub (ax.getD (side k).1 0) (side k).2.2) (dNeg (w.s.getD k 0))
  let ls := ks.map fun k => dDiv (w.lam.getD k 0) (w.s.getD k 0)
  let h := ks.map fun k =>
    dFma (ls.getD k 0) (r.getD k 0)
      (dSub (dDiv (dSub tau (kap.getD k 0)) (w.s.getD k 0)) (w.lam.getD k 0))
  let sumSides := fun (i : Nat) (v : Nat → Nat) => ks.foldl (fun acc k => if (side k).1 = i then dAdd acc (v k) else acc) 0
  let wI := (upFrom 0 st.m).map fun i => sumSides i fun k => ls.getD k 0
  let dI := fun (reg : Bool) (i : Nat) =>
    if st.isFree i then d1
    else if st.isEq i then (if reg then st.param 5 else 0)
    else if reg then dAdd (dRcp (wI.getD i 0)) (st.param 5) else dRcp (wI.getD i 0)
  let rhs := (upFrom 0 st.m).map fun i =>
    if st.isFree i then 0
    else if st.isEq i then dNeg (dSub (ax.getD i 0) (st.lo i))
    else dDiv (sumSides i fun k => dMul (g k) (h.getD k 0)) (wI.getD i 0)
  let kv := st.kkt (st.param 4) (fun i => dNeg (dI true i)) st.isFree
  let kr := st.kkt 0 (fun i => dNeg (dI false i)) st.isFree
  match st.factor kv with
  | .error e => .error e
  | .ok f =>
    let sol := st.kktSolve f kr (rx.map dNeg ++ rhs)
    let dx := sol.take st.n
    let adx := rowsDot rows.a dx
    let ds := ks.map fun k => dFma (g k) (adx.getD (side k).1 0) (dNeg (r.getD k 0))
    let dlam := ks.map fun k => dFma (dNeg (dMul (ls.getD k 0) (g k))) (adx.getD (side k).1 0) (h.getD k 0)
    finiteOr (sol ++ ds ++ dlam) (.ok { dx := dx, dy := sol.drop st.n, ds := ds, dlam := dlam })

/-- alpha(d) of R242. -/
def ipAlpha (w : Ip) (d : IpStep) : Nat :=
  let lim := fun (v dv : List Nat) => (v.zip dv).filterMap fun p => if dLt p.2 0 then some (dNeg (dDiv p.1 p.2)) else none
  (lim w.s d.ds ++ lim w.lam d.dlam).foldl dMin d1

/-- An interior-point iterate with its residuals. -/
def AStruct.ipIter (st : AStruct) (rows : QpRows) (sides : List (Nat × Bool × Nat)) (eps : Eps) (w : Ip) : Except Stop (Iter Ip) :=
  let y := st.ipY sides w
  let q := st.qpResid rows eps w.x y
  if !(w.x ++ w.yE ++ w.s ++ w.lam).all dFinite || residBad q then .error (20, 0)
  else .ok { val := w, rp := q.1, rd := q.2.1, c := q.2.2.1, merit := q.2.2.2.1, conv := q.2.2.2.2 }

/-- One iteration of QP_IP. -/
def AStruct.ipNext (st : AStruct) (rows : QpRows) (sides : List (Nat × Bool × Nat)) (eps : Eps) (w : Ip) : Except Stop (Iter Ip) :=
  let nj := sides.length
  let cnt := dOfNat nj
  let mu := if nj = 0 then 0 else dDiv (dReduce ((w.s.zip w.lam).map fun p => dMul p.1 p.2)) cnt
  (st.ipStep rows sides w 0 (List.replicate nj 0)).bind fun a1 =>
    let al := ipAlpha w a1
    let mu1 := if nj = 0 then 0 else
      dDiv (dReduce ((upFrom 0 nj).map fun k =>
        dMul (dFma al (a1.ds.getD k 0) (w.s.getD k 0)) (dFma al (a1.dlam.getD k 0) (w.lam.getD k 0)))) cnt
    let q := dDiv mu1 mu
    let tau := if nj = 0 then 0 else dMul (dMul (dMul q q) q) mu
    (st.ipStep rows sides w tau ((a1.ds.zip a1.dlam).map fun p => dMul p.1 p.2)).bind fun d =>
      let a := dMin d1 (dMul 0x3FEFAE147AE147AE (ipAlpha w d))
      let up := fun (v dv : List Nat) => (upFrom 0 v.length).map fun k => dFma a (dv.getD k 0) (v.getD k 0)
      st.ipIter rows sides eps { x := up w.x d.dx, yE := (upFrom 0 st.m).map fun i =>
                                    if st.isEq i then dFma a (d.dy.getD i 0) (w.yE.getD i 0) else 0,
                                  s := up w.s d.ds, lam := up w.lam d.dlam }

/-- QP_IP (R242, R244, R245). -/
def AStruct.runIp (st : AStruct) (warm : Bool) (itMax deadline : Nat) (eps : Eps) (unstated : Nat) : ARes :=
  let n := st.n + st.m
  let c := st.costs 7 0 false
  match st.qpBad with
  | some k => ARes.nan st k 0 0 0 unstated n
  | none =>
    let rows := st.qpRows
    let sides := st.sides
    let x := ((if warm then st.warmX else none).getD st.x0).map (·.toNat)
    let ax := rowsDot rows.a x
    let s := sides.map fun sd => dMax (dMul (sideSign sd.2.1) (dSub (ax.getD sd.1 0) sd.2.2)) d1
    let w0 : Ip := { x := x, yE := List.replicate st.m 0, s := s, lam := List.replicate sides.length d1 }
    match st.ipIter rows sides eps w0 with
    | .error e => ARes.nan st e.1 e.2 0 0 unstated n
    | .ok i0 =>
      match loopFrom (st.ipNext rows sides eps) itMax deadline c.2.1 c.2.2 itMax 0 c.1 0 i0 i0 with
      | .error e => ARes.nan st e.1.1 e.1.2 e.2 e.2 unstated n
      | .ok o =>
        let st := { st with warmX := some (o.best.val.x.map (BitVec.ofNat 64)), dirty := false }
        loopRes st c.2.2 n unstated (fun w => w.x ++ st.ipY sides w) (.ok o)

/-- State of an ADMM iterate. -/
structure Admm where
  x : List Nat
  s : List Nat
  y : List Nat

/-- An ADMM iterate with its residuals. -/
def AStruct.admmIter (st : AStruct) (rows : QpRows) (eps : Eps) (w : Admm) : Except Stop (Iter Admm) :=
  let q := st.qpResid rows eps w.x w.y
  if !(w.x ++ w.s ++ w.y).all dFinite || residBad q then .error (20, 0)
  else .ok { val := w, rp := q.1, rd := q.2.1, c := q.2.2.1, merit := q.2.2.2.1, conv := q.2.2.2.2 }

/-- QP_ADMM (R243–R245). -/
def AStruct.runAdmm (st : AStruct) (warm : Bool) (itMax deadline : Nat) (eps : Eps) (unstated : Nat) : ARes :=
  let n := st.n + st.m
  let c := st.costs 8 0 false
  match st.qpBad with
  | some k => ARes.nan st k 0 0 0 unstated n
  | none =>
    let rows := st.qpRows
    let rho := (upFrom 0 st.m).map fun i => st.param (if st.isEq i then 2 else 1)
    let rinv := rho.map dRcp
    let clamp := fun (v : List Nat) => (upFrom 0 st.m).map fun i => dMin (dMax (v.getD i 0) (st.lo i)) (st.hi i)
    let kv := st.kkt (st.param 0) (fun i => dNeg (rinv.getD i 0)) (fun _ => false)
    match st.factor kv with
    | .error e => ARes.nan st e.1 e.2 0 0 (kDv st.m + st.cF + c.2.2) n
    | .ok f =>
      let st := { st with dirty := false }
      let x0 := st.x0.map (·.toNat)
      let cold : Admm := { x := x0, s := clamp (rowsDot rows.a x0), y := List.replicate st.m 0 }
      let w0 := match (if warm then st.warmS else none) with
        | some (x, s, y) => { x := x.map (·.toNat), s := s.map (·.toNat), y := y.map (·.toNat) }
        | none => cold
      let yr := fun (w : Admm) (i : Nat) => dMul (w.y.getD i 0) (rinv.getD i 0)
      let next := fun (w : Admm) =>
        let rhs := ((upFrom 0 st.n).map fun j => dFma (st.param 0) (w.x.getD j 0) (dNeg (st.q.getD j 0).toNat))
          ++ ((upFrom 0 st.m).map fun i => dSub (w.s.getD i 0) (yr w i))
        let xn := (st.kktSolve f kv rhs).take st.n
        let ax := rowsDot rows.a xn
        let al := st.param 3
        let sh := (upFrom 0 st.m).map fun i => dFma al (ax.getD i 0) (dMul (dSub d1 al) (w.s.getD i 0))
        let sn := clamp ((upFrom 0 st.m).map fun i => dAdd (sh.getD i 0) (yr w i))
        let y := (upFrom 0 st.m).map fun i => dFma (rho.getD i 0) (dSub (sh.getD i 0) (sn.getD i 0)) (w.y.getD i 0)
        st.admmIter rows eps { x := xn, s := sn, y := y }
      match st.admmIter rows eps w0 with
      | .error e => ARes.nan st e.1 e.2 0 0 unstated n
      | .ok i0 =>
        match loopFrom next itMax deadline c.2.1 c.2.2 itMax 0 c.1 0 i0 i0 with
        | .error e => ARes.nan st e.1.1 e.1.2 e.2 e.2 unstated n
        | .ok o =>
          let wd := fun (l : List Nat) => l.map (BitVec.ofNat 64)
          let st := { st with warmX := some (wd o.best.val.x), warmS := some (wd o.last.val.x, wd o.last.val.s, wd o.last.val.y) }
          loopRes st c.2.2 n unstated (fun w => w.x ++ w.y) (.ok o)

/-! ## Delta packets (R237, R238) -/

/-- One entry of a packet: (TARGET, ROW, COL, VALUE), none where a reserved byte is not zero. -/
def deltaEntry (b : List Byte) (k : Nat) : Option (Nat × Nat × Nat × Nat) :=
  let o := 16 + 16 * k
  if fieldLe b (o + 1) 1 = 0 ∧ fieldLe b (o + 6) 2 = 0 then
    some (fieldLe b o 1, fieldLe b (o + 2) 2, fieldLe b (o + 4) 2, fieldLe b (o + 8) 8)
  else none

/-- Does an entry pass the checks of R238? -/
def AStruct.deltaOk (st : AStruct) (e : Nat × Nat × Nat × Nat) : Bool :=
  let t := e.1; let r := e.2.1; let c := e.2.2.1; let v := e.2.2.2
  let qp := st.kind == 2
  match t with
  | 0 =>
    if st.kind = 3 then decide (c ≤ r ∧ r < st.n)
    else decide (c ≤ r ∧ r < st.dim) && (st.entry r c).isSome && (!qp || decide (c < st.n))
  | 1 | 4 => qp && decide (r < st.n) && c == 0
  | 2 | 3 => qp && decide (r < st.m) && c == 0
  | 5 => qp && decide (r < 6) && c == 0 && dFinite v && dLt 0 v && (r != 3 || dLt v (dOfNat 2))
  | _ => false

/-- Applies an entry. -/
def AStruct.deltaPut (st : AStruct) (e : Nat × Nat × Nat × Nat) : AStruct :=
  let t := e.1; let r := e.2.1; let c := e.2.2.1; let v := BitVec.ofNat 64 e.2.2.2
  match t with
  | 0 =>
    if st.kind = 3 then { st with dense := setAt st.dense (r * (r + 1) / 2 + c) v, dirty := true }
    else
      let i := max (st.posOf r) (st.posOf c)
      let j := min (st.posOf r) (st.posOf c)
      let pi := st.panelOf i
      let pj := st.panelOf j
      let k := (i - st.start pi) * st.width pj + (j - st.start pj)
      { st with blocks := st.blocks.map fun b => if b.1 = pi ∧ b.2.1 = pj then (b.1, b.2.1, setAt b.2.2 k v) else b, dirty := true }
  | 1 => { st with q := setAt st.q r v, dirty := true }
  | 2 => { st with l := setAt st.l r v, dirty := true }
  | 3 => { st with u := setAt st.u r v, dirty := true }
  | 4 => { st with x0 := setAt st.x0 r v, dirty := true }
  | _ => { st with params := setAt st.params r v, dirty := true }

/-- A delta packet: the structure after it and its number of entries, or none where it is refused. -/
def AStruct.delta (st : AStruct) (b : List Byte) : Option (AStruct × Nat) :=
  let n := fieldLe b 4 4
  if fieldLe b 0 2 ≠ 1 ∨ fieldLe b 2 2 ≠ 0 ∨ fieldLe b 8 8 ≠ 0 ∨ n = 0 ∨ n > 131072 ∨ b.length ≠ 16 + 16 * n then none
  else
    let es := (upFrom 0 n).filterMap (deltaEntry b)
    if es.length = n ∧ es.all st.deltaOk then some (es.foldl AStruct.deltaPut st, n) else none

end Sys2Proof.Machine
end

