-- ==== Sys2Proof/Machine/Aus.lean ====
section
/-!
DEFINITION. Ausolin engines at work (R225–R251): command blocks, the operation at the head of an engine's queue, write-back and signal.
-/

namespace Sys2Proof.Machine

/-- An engine number exists: its pod is not fused (R3, R225). -/
def State.engineIn (s : State) (a : Nat) : Bool := decide (a < 16) && !s.board.fused.getLsbD (a / 2)

/-- An engine works: it exists and no debug halt of its hull holds it. -/
def State.engineRuns (s : State) (a : Nat) : Bool :=
  s.engineIn a && !((s.eng a).tileMode && (s.hull (s.pod (a / 2)).hull).halted)

/-! ## Command blocks (R247, R236) -/

/-- The kinds an operation accepts (R239–R243). -/
def opKinds (op : Nat) : List Nat :=
  match op with
  | 3 | 4 | 5 => [0, 1]
  | 6 => [3]
  | 7 | 8 => [2]
  | _ => [0, 1, 2, 3]

/-- A positive EPS, +∞ included (R241). -/
def epsOk (v : Nat) : Bool := dLt 0 v

/-- The field rules of R247 that need no structure; `tile` for the tile path. -/
def ausBlockOk (b : List Byte) (tile : Bool) : Bool :=
  let op := fieldLe b 0 1
  let fl := fieldLe b 2 1
  let arg := fieldLe b 3 1
  let it := fieldLe b 6 2
  let dl := fieldLe b 8 4
  let inn := fieldLe b 0xC 4
  let inBytes := fieldLe b 0x10 4
  let out := fieldLe b 0x14 4
  let eps := fun (k : Nat) => fieldLe b (0x18 + 8 * k) 8
  let iter := decide (5 ≤ op ∧ op ≤ 8)
  let qp := op == 7 || op == 8
  decide (1 ≤ op ∧ op ≤ 9 ∧ fieldLe b 1 1 < 64) && decide (fl < 4) && (qp || decide (fl < 2)) && decide (fieldLe b 4 2 < 2 ^ 14)
    && (if op = 4 ∨ op = 5 then decide (1 ≤ arg ∧ arg ≤ 64) else if op = 6 then arg == 2 || arg == 4 else arg == 0)
    && (if iter then it != 0 else it == 0 && dl == 0)
    && (if tile then decide (inn % 64 = 0 ∧ inn + inBytes ≤ psEnd ∧ out % 64 = 0 ∧ out < psEnd) else inn == 0 && out == 0)
    && (if op = 1 ∨ op = 2 ∨ op = 4 ∨ op = 5 then inBytes != 0 else inBytes == 0)
    && (if op ≤ 3 ∨ op = 9 then out == 0 else true)
    && (if iter then epsOk (eps 0) else eps 0 == 0)
    && (if qp then epsOk (eps 1) && epsOk (eps 2) else eps 1 == 0 && eps 2 == 0)
    && leNat (slice b 0x30 16) == 0

/-- The rules that need the structure: its kind, the input's length and the DEADLINE (R236, R247). -/
def ausStructOk (b : List Byte) (st : AStruct) : Bool :=
  let op := fieldLe b 0 1
  let arg := fieldLe b 3 1
  let dl := fieldLe b 8 4
  let c := st.costs op arg st.dirty
  (opKinds op).contains st.kind && (!(op == 4 || op == 5) || fieldLe b 0x10 4 == arg * st.dim * 8)
    && (dl == 0 || decide (c.1 + c.2.2 ≤ dl))

/-- Payload values of an operation's output (R248). -/
def ausPayload (op arg : Nat) (st : AStruct) : Nat :=
  match op with
  | 4 | 5 => arg * st.dim
  | 6 => st.n * st.n
  | 7 | 8 => st.n + st.m
  | _ => 0

/-- Symbolic and value bytes that an engine's structures use. -/
def Engine.used (e : Engine) : Nat × Nat :=
  (sumOf (e.structs.map fun x => x.2.symBytes), sumOf (e.structs.map fun x => x.2.valBytes))

/-! ## The head of a queue -/

/-- A command's op. -/
def ACmd.op (c : ACmd) : Nat := fieldLe c.block 0 1
def ACmd.handle (c : ACmd) : Nat := fieldLe c.block 1 1

/-- Source number of an engine (R225). -/
def ausSrc (a : Nat) : Nat := 0x0100 + a

/-- Outcome counts and event of a command that ended (R257). -/
def State.ausCount (s : State) (a : Nat) (st : Byte) (cycles : Nat) : State :=
  let e := s.eng a
  let e := { e with busy := min (e.busy + cycles) (2 ^ 48 - 1) }
  let ev := fun (s : State) (bit id : Nat) => (s.event evAus bit id).regOr evAus (2 ^ (16 + a))
  if st = sDONE then s.setEng a { e with cDone := min (e.cDone + 1) 0xFFFF }
  else if st = sPARTIAL then ev (s.setEng a { e with cPartial := min (e.cPartial + 1) 0xFFFF }) 1 321
  else if st = sNAN then ev (s.setEng a { e with cNan := min (e.cNan + 1) 0xFFFF }) 0 320
  else if st = sFAULT then ev (s.setEng a { e with cFault := min (e.cFault + 1) 0xFF }) 2 322
  else s.setEng a e

/-- The 64 bytes of an output header (R248). -/
def ACmd.header (c : ACmd) : List Byte :=
  [c.status, c.cause] ++ natLe 1 c.op ++ natLe 1 c.handle ++ natLe 4 c.iterations ++ natLe 4 c.returned ++ natLe 4 c.cycles
    ++ natLe 4 c.panel.toNat ++ natLe 4 c.ticket ++ natLe 8 c.rp.toNat ++ natLe 8 c.rd.toNat ++ natLe 8 c.c.toNat
    ++ natLe 8 c.merit.toNat ++ zeros 8

/-- An output: header and payload (R248). -/
def ACmd.output (c : ACmd) : List Byte := c.header ++ c.payload.flatMap fun w => natLe 8 w.toNat

/-- Write-back begins (R226): on the tile path one granule for each 64 bytes of an output that the operation has and that lies in
the pod store outside every private bank (R248, R250). -/
def State.ausWriteStart (s : State) (a : Nat) (c : ACmd) : State :=
  let n := c.output.length
  let dst := fieldLe c.block 0x14 4
  let writes := c.tile.isSome && (decide (4 ≤ c.op ∧ c.op ≤ 8) || c.status == sBADPARAM) && decide (dst + n ≤ psEnd)
    && !s.inPrivate (a / 2) dst n
  s.setEng a { s.eng a with phase := 3, left := if writes then ceilDiv n 64 else 0, settle := 0 }

/-- The head of an engine's queue has its result: after its engine cycles, write-back follows. -/
def State.ausFinish (s : State) (a : Nat) (c : ACmd) : State :=
  let e := s.eng a
  let c := { c with done := true }
  let s := s.setEng a { e with queue := c :: e.queue.drop 1, phase := 2, left := c.cycles }
  (if c.cycles = 0 then s.ausWriteStart a c else s).ausCount a c.status c.cycles

/-- A refused command (R250): BAD_PARAM, nothing performed. -/
def State.ausRefuse (s : State) (a : Nat) (c : ACmd) : State :=
  s.ausFinish a { c with status := sBADPARAM, cause := 0, panel := 0xFFFFFFFF }

/-- A command that a check of R232 ends: cause 32 or 33; in TILE mode the hull stops as for STORE_UE. -/
def State.ausFault (s : State) (a : Nat) (c : ACmd) (mismatch : Bool) : State :=
  let cause := if mismatch then 32 else 33
  let s := s.ausFinish a { c with status := sFAULT, cause := BitVec.ofNat 8 cause, panel := 0xFFFFFFFF }
  let r := mkRec 0x0B 2 (ausSrc a) c.hull (a / 2) 0xFF cause
    (natLe 1 a ++ natLe 1 c.handle ++ natLe 1 c.op ++ natLe 1 cause ++ natLe 4 c.ticket)
  let s := if (s.eng a).tileMode then s.faultLater c.hull r else s.log1 r
  let s := if mismatch then
      let f := s.free
      ((f.2.event evIntg 1 577).regSat 0x0C0028 47 32 1).log1
        (mkRec 0x05 2 (ausSrc a) c.hull (a / 2) 0xFF 0 (natLe 6 f.1.toNat))
    else s
  s.setHull c.hull { s.hull c.hull with prog := (s.hull c.hull).prog.map fun p => { p with dirtyTick := true } }

/-- What a command meets (R72, R73, R232): a private bank is a bank of the pod store, so its error counts there too; an uncorrectable
error in the fetch of a tile-path input stops the pod's hull, and the command is not performed. -/
def State.ausMeet (s : State) (a : Nat) (c : ACmd) (e : AusErr) (f : State → State) : State :=
  match e with
  | .ok => f s
  | .mismatch => s.ausFault a c true
  | .store => s.ausFault a c false
  | .bank => (s.regSat (0x100008 + 0x20000 * (a / 2)) 47 32 1).ausFault a c false
  | .fetchCorrected => f (if c.tile.isSome then s.storeCe (a / 2) else s)
  | .fetchUe => if c.tile.isSome then s.podUe (a / 2) (fieldLe c.block 0xC 4) else f s

/-- The input of a command: what the tile path fetched from the pod store (R226). -/
def State.ausInput (s : State) (a : Nat) (c : ACmd) : List Byte :=
  match c.tile with
  | some _ => (s.eng a).fetched.take (fieldLe c.block 0x10 4)
  | none => c.input

/-- The head of an engine's queue, if its input is fetched, its work is still to be done and its OP is `op`. -/
def State.ausHead (s : State) (a op : Nat) : Option ACmd :=
  if !s.engineRuns a || (s.eng a).phase != 2 then none
  else
    match (s.eng a).queue with
    | c :: _ => if c.done || c.op != op then none else some c
    | [] => none

/-- A result of `Solver` in the command that asked for it. -/
def ACmd.withRes (c : ACmd) (r : ARes) : ACmd :=
  { c with status := BitVec.ofNat 8 r.status, cause := BitVec.ofNat 8 r.cause, iterations := r.iterations, returned := r.returned,
           cycles := r.cycles, panel := BitVec.ofNat 32 r.panel, rp := BitVec.ofNat 64 r.rp, rd := BitVec.ofNat 64 r.rd,
           c := BitVec.ofNat 64 r.c, merit := BitVec.ofNat 64 r.merit, payload := r.payload.map (BitVec.ofNat 64) }

/-- Engine cycles of a command that a NaN cause ended inside a phase whose kernels have no stated order (log entry 17). -/
def nanCycles (c : ACmd) (st : AStruct) : Nat :=
  (Config.unstated 17 (leNat c.block :: (st.blocks.flatMap fun b => b.2.2.map (·.toNat)) ++ st.dense.map (·.toNat)
    ++ (st.q ++ st.l ++ st.u ++ st.x0).map (·.toNat))).toNat % 2 ^ 32

/-- An operation on a resident structure: a bad block, an empty handle or a wrong kind is refused (R250). -/
def State.ausOp (s : State) (a op : Nat) (e : AusErr) (f : AStruct → ACmd → List Byte → ARes) : State :=
  match s.ausHead a op with
  | none => s
  | some c =>
    match tfind (s.eng a).structs c.handle with
    | none => s.ausRefuse a c
    | some st =>
      if !ausBlockOk c.block c.tile.isSome || !ausStructOk c.block st then s.ausRefuse a c
      else
        s.ausMeet a c e fun s =>
          let r := f st c (s.ausInput a c)
          let x := s.eng a
          (s.setEng a { x with structs := tput x.structs c.handle r.st }).ausFinish a (c.withRes r)

/-- Fields of a block that the algorithms take. -/
def ACmd.arg (c : ACmd) : Nat := fieldLe c.block 3 1
def ACmd.itMax (c : ACmd) : Nat := fieldLe c.block 6 2
def ACmd.deadline (c : ACmd) : Nat := fieldLe c.block 8 4
def ACmd.eps (c : ACmd) (k : Nat) : Nat := fieldLe c.block (0x18 + 8 * k) 8
def ACmd.warm (c : ACmd) : Bool := fieldLe c.block 2 1 / 2 % 2 == 1

/-- Why a structure cannot be loaded: symbolic or value bytes missing (R236). -/
def Engine.loadShort (e : Engine) (st : AStruct) : Nat :=
  let u := e.used
  max (u.1 + st.symBytes - 2097152) (u.2 + st.valBytes - e.bankCount * 1048576)

/-- LOAD (R233–R236, R252). -/
def execAusLoad (a : Nat) (e : AusErr) (s : State) : Outcome :=
  .next (match s.ausHead a 1 with
    | none => s
    | some c =>
      let b := s.ausInput a c
      match ausBlockOk c.block c.tile.isSome, parseStruct b with
      | true, some st =>
        s.ausMeet a c e fun s =>
          let x := s.eng a
          if (tfind x.structs c.handle).isSome || decide (0 < x.loadShort st) then s.ausRefuse a c
          else
            (s.setEng a { x with structs := tput x.structs c.handle st }).ausFinish a
              (c.withRes (ARes.plain st (st.cF + 64 + ceilDiv b.length 64) []))
      | _, _ => s.ausRefuse a c)

/-- DELTA (R237, R238). -/
def execAusDelta (a : Nat) (e : AusErr) (s : State) : Outcome :=
  .next (match s.ausHead a 2 with
    | none => s
    | some c =>
      let x := s.eng a
      match (tfind x.structs c.handle).bind (fun st => st.delta (s.ausInput a c)), ausBlockOk c.block c.tile.isSome with
      | some r, true =>
        s.ausMeet a c e fun s =>
          (s.setEng a { s.eng a with structs := tput (s.eng a).structs c.handle r.1 }).ausFinish a
            (c.withRes (ARes.plain r.1 (16 + 4 * r.2) []))
      | _, _ => s.ausRefuse a c)

/-- FACTOR (R239). -/
def execFactor (a : Nat) (e : AusErr) (s : State) : Outcome :=
  .next (s.ausOp a 3 e fun st _ _ => st.runFactor)
/-- SOLVE (R239). -/
def execSolve (a : Nat) (e : AusErr) (s : State) : Outcome :=
  .next (s.ausOp a 4 e fun st c b => st.runSolve c.arg (words b 0 8 (c.arg * st.dim)) (nanCycles c st))
/-- REFINE (R239, R244). -/
def execRefine (a : Nat) (e : AusErr) (s : State) : Outcome :=
  .next (s.ausOp a 5 e fun st c b =>
    st.runRefine c.arg c.itMax c.deadline (c.eps 0) (words b 0 8 (c.arg * st.dim)) (nanCycles c st))
/-- INVROOT (R240, R244). -/
def execInvroot (a : Nat) (e : AusErr) (s : State) : Outcome :=
  .next (s.ausOp a 6 e fun st c _ => st.runInvroot c.arg c.itMax c.deadline (c.eps 0) (nanCycles c st))
/-- QP_IP (R242, R244). -/
def execQpIp (a : Nat) (e : AusErr) (s : State) : Outcome :=
  .next (s.ausOp a 7 e fun st c _ => st.runIp c.warm c.itMax c.deadline (c.eps 0, c.eps 1, c.eps 2) (nanCycles c st))
/-- QP_ADMM (R243, R244). -/
def execQpAdmm (a : Nat) (e : AusErr) (s : State) : Outcome :=
  .next (s.ausOp a 8 e fun st c _ => st.runAdmm c.warm c.itMax c.deadline (c.eps 0, c.eps 1, c.eps 2) (nanCycles c st))

/-- FREE: an empty handle is refused (R250). -/
def execAusFree (a : Nat) (s : State) : Outcome :=
  .next (match s.ausHead a 9 with
    | none => s
    | some c =>
      let x := s.eng a
      match tfind x.structs c.handle, ausBlockOk c.block c.tile.isSome with
      | some st, true =>
        (s.setEng a { x with structs := tdel x.structs c.handle }).ausFinish a (c.withRes (ARes.plain st 0 []))
      | _, _ => s.ausRefuse a c)

/-! ## Acceptance and write-back (R248–R250, R254) -/

/-- An accepted command with nothing computed yet. -/
def ACmd.fresh (block : List Byte) (tile : Option Nat) (hull : Nat) (input : List Byte) (outOff ticket : Nat) : ACmd :=
  { block := block, tile := tile, hull := hull, input := input, outOff := outOff, ticket := ticket, done := false, status := 0,
    cause := 0, iterations := 0, returned := 0, cycles := 0, panel := 0xFFFFFFFF, rp := 0, rd := 0, c := 0, merit := 0, payload := [], owed := none }

/-- The engine turns to the next command (R226): a tile's input is fetched granule by granule, firmware has moved its own; one whose
OP names no operation is refused at once (R250). -/
def State.ausSettle (s : State) (a : Nat) : State :=
  let e := { s.eng a with fetched := [], settle := 0 }
  match e.queue with
  | [] => s.setEng a { e with phase := 0, left := 0 }
  | c :: _ =>
    if c.op = 0 ∨ 9 < c.op then (s.setEng a e).ausRefuse a c
    else
      let n := if c.tile.isSome ∧ ausBlockOk c.block true then ceilDiv (fieldLe c.block 0x10 4) 64 else 0
      s.setEng a { e with phase := if n = 0 then 2 else 1, left := n }

/-- An idle engine turns to its queue. -/
def State.ausStart (s : State) (a : Nat) : State := if (s.eng a).phase = 0 then s.ausSettle a else s

/-- Acceptance of a tile's block 6 cycles after A.AUCMD (R249); a full queue is QUEUE_OVERFLOW with the QUEUE field unchanged (R236). -/
def State.ausAccept (s : State) (a : Nat) (block : List Byte) (t : Nat) : State :=
  let e := s.eng a
  if !e.tileMode then s
  else if e.queue.length ≥ 4 then s.contract t tfOverflow
  else (s.setEng a { e with queue := e.queue ++ [ACmd.fresh block (some t) (s.pod (podOf t)).hull [] 0 0] }).ausStart a

/-- The tag of a window block that a command writes without naming a tensor (log entry 18): that of the tensor the loaded program
places there, else the one the block carries, else an unstated one. -/
def State.winTag (s : State) (h : Nat) (tierB : Bool) (wb : Nat) : Nat :=
  let byProg := match (s.hull h).prog with
    | some p => p.placed.findSome? fun e =>
        if (e.2.1 = (if tierB then Level.tierB else Level.tierA)) ∧ e.2.2 / 4096 ≤ wb ∧ wb * 4096 < e.2.2 + p.bytesOf e.1 then
          some (huskTag e.1 (wb - e.2.2 / 4096)) else none
    | none => none
  match byProg with
  | some t => t
  | none =>
    match (s.hull h).find tierB wb with
    | some (u, row) =>
      let b := s.blk tierB (blkPer tierB * u + row)
      if b.isUnwritten then (Config.unstated 18 [h, b2n tierB, wb]).toNat % 2 ^ 32 else b.husk.toNat / 2 ^ 32
    | none => 0

/-- Writes bytes to a window at an offset, with the tags of `winTag`. -/
def State.winWrite (s : State) (h : Nat) (tierB : Bool) (off : Nat) (bytes : List Byte) : State :=
  (blocksOf off bytes.length).foldl (fun s i =>
    let lo := max off (4096 * i)
    let hi := min (off + bytes.length) (4096 * (i + 1))
    s.writePart h tierB i (s.winTag h tierB i) (lo - 4096 * i) ((bytes.drop (lo - off)).take (hi - lo))) s

/-- Costs A and B of a structure with C_OUT (R252): of REFINE at NRHS 1, INVROOT, or QP_IP and QP_ADMM. The p at which INVROOT's cost is
reported is not stated: 2 or 4, an unstated choice (log entry 28). -/
def AStruct.report (st : AStruct) : (Nat × Nat) × (Nat × Nat) × Nat :=
  let p := if (Config.unstated 28 []).toNat % 2 = 0 then 2 else 4
  let a := match st.kind with
    | 2 => st.costs 7 1 true
    | 3 => st.costs 6 p true
    | _ => st.costs 5 1 true
  let b := if st.kind = 2 then st.costs 8 1 true else (0, 0, 0)
  ((a.1, a.2.1), (b.1, b.2.1), a.2.2)

/-- Reply fields of AU_STRUCT_LOAD (R252). -/
def AStruct.fields (st : AStruct) : List (Nat × Nat × Nat) :=
  let r := st.report
  [(0, 4, r.1.1), (4, 4, r.1.2), (8, 4, r.2.1.1), (0xC, 4, r.2.1.2), (0x10, 4, r.2.2), (0x14, 4, st.valBytes)]

/-- An engine whose last structure is freed has no banks in force (R252). -/
def Engine.dropBanks (e : Engine) : Engine :=
  if !e.tileMode && e.structs.isEmpty then { e with bankBase := 0, bankCount := 0 } else e

/-- The reply of an AU_STRUCT_LOAD or AU_DELTA whose work has ended (R252, R253, R256). -/
def State.ausReply (s : State) (a : Nat) (c : ACmd) (d : Cmd) : State :=
  if c.status ≠ 0 then s.reply d (if c.op = 2 then 0x0601 else 0x0600) c.status 0
  else
    match c.op with
    | 2 => s.reply d 0x0601 sDONE (mkFields [(0, 4, fieldLe c.input 4 4)])
    | 1 =>
      match tfind (s.eng a).structs c.handle with
      | some st => s.reply d 0x0600 sDONE (mkFields st.fields)
      | none => s.reply d 0x0600 sDONE 0
    | _ => (s.setEng a (s.eng a).dropBanks).reply d 0x0600 sDONE 0

/-- ENGINE_COMPLETE (R248–R250, R254): write-back of the finished head of the queue has ended, its last granule readable; the tile
path signals SYNC_ID, if a counter homed in the pod; the firmware path keeps the result under its ticket. -/
def execEngineComplete (a : Nat) (s : State) : Outcome :=
  .next (s.meeting [] fun s => match (s.eng a).queue with
    | c :: rest =>
      let x := s.eng a
      if x.phase ≠ 3 ∨ x.left ≠ 0 ∨ x.settle ≠ 0 ∨ s.engineRuns a = false then s
      else
        let p := a / 2
        let s := match c.tile with
          | some _ =>
            let sig := fieldLe c.block 2 1 % 2 == 1
            let home := match tfind s.sync (fieldLe c.block 4 2 % 2 ^ 14) with
              | some o => o.pod == p && o.hull == c.hull
              | none => false
            if sig && home then (s.signalCounter (fieldLe c.block 4 2 % 2 ^ 14)).1 else s
          | none =>
            match c.owed with
            | some d => s.ausReply a c d
            | none => s.winWrite c.hull true c.outOff c.output
        let e := s.eng a
        let c := if s.mem.lost then { c with status := sFAULT } else c
        let res := if c.tile.isNone ∧ c.owed.isNone then (c :: e.results).take 16 else e.results
        (s.setEng a { e with queue := rest, results := res }).ausSettle a
    | [] => s)

end Sys2Proof.Machine
end

