-- ==== Sys2Proof/Machine/Coll.lean ====
section
/-!
DEFINITION. Collectives (R304–R328, R264–R267): rings, partials and results, the exact lane, late decisions, re-forms. The fields that
the manual's messages do not lay out are those of log entries 14 and 20.
-/

namespace Sys2Proof.Machine

/-! ## Entries and groups -/

/-- The collective-table entry of an operation. -/
def Prog.coll (p : Prog) (op : Nat) : Option CollDecl := p.image.coll.find? fun e => e.op == op

/-- Kinds of R309. -/
def ckAllReduce : Nat := 1
def ckReduceScatter : Nat := 2
def ckAllGather : Nat := 3
def ckDirect : Nat := 4
def ckRotate : Nat := 5
def ckExact : Nat := 6

/-- Is a step and operation at or after another? -/
def notBefore (step op step0 op0 : Nat) : Bool := decide (step0 < step ∨ (step0 = step ∧ op0 ≤ op))

/-- Positions lost for an operation of a step (R324). -/
def Group.lostFor (g : Group) (step op : Nat) : List Nat :=
  (g.lost.filter fun l => notBefore step op l.2.2 l.2.1).map (·.1)

/-- What an operation runs with at this member. -/
structure CCtx where
  h : Nat
  g : Group
  gid : Nat
  e : CollDecl
  step : Nat
  lost : List Nat

/-- The context of an operation of a hull. -/
def State.cctx (s : State) (h op : Nat) : Option CCtx :=
  let x := s.hull h
  (x.prog.bind fun p => p.coll op).map fun e =>
    let g := s.group e.group
    { h := h, g := g, gid := e.group, e := e, step := x.step, lost := g.lostFor x.step op }

def CCtx.me (c : CCtx) : Nat := c.g.myPos
def CCtx.n (c : CCtx) : Nat := c.g.members
def CCtx.alive (c : CCtx) (p : Nat) : Bool := !c.lost.contains p
/-- Bytes of a final piece (R309). -/
def CCtx.piece (c : CCtx) : Nat := if c.e.kind = ckAllGather ∨ c.e.kind = ckRotate then c.e.bytes else c.e.bytes / c.n
/-- Level sizes; in compatibility mode one ring (R313). -/
def CCtx.n1 (c : CCtx) : Nat := if c.g.compat then c.n else c.g.n1
def CCtx.n2 (c : CCtx) : Nat := if c.g.compat then 1 else c.g.n2
def CCtx.n3 (c : CCtx) : Nat := if c.g.compat then 1 else c.g.n3
/-- Coordinates of a position: q = a + N1 (b + N2 c). -/
def CCtx.ca (c : CCtx) (q : Nat) : Nat := q % c.n1
def CCtx.cb (c : CCtx) (q : Nat) : Nat := q / c.n1 % c.n2
def CCtx.cc (c : CCtx) (q : Nat) : Nat := q / (c.n1 * c.n2)
def CCtx.pos (c : CCtx) (a b k : Nat) : Nat := a + c.n1 * (b + c.n2 * k)

/-! ## Orders (R312, R313, R325) -/

/-- The order in which piece j collects its terms in a ring of n: j + 1 round to j; in compatibility mode j round to j − 1. -/
def ringOrder (n j : Nat) (compat : Bool) : List Nat := (upFrom (if compat then 0 else 1) n).map fun k => (j + k) % n

/-- Stage 1 of piece q in the ring (b, c): the surviving positions in order; the last holds the result. -/
def CCtx.order1 (c : CCtx) (q b k : Nat) : List Nat :=
  ((ringOrder c.n1 (c.ca q) c.g.compat).map fun a => c.pos a b k).filter c.alive
/-- Stage 2 in the rings of c: the holders of stage 1, in order of b; a stand-in takes a lost holder's place. -/
def CCtx.order2 (c : CCtx) (q k : Nat) : List Nat :=
  (ringOrder c.n2 (c.cb q) false).filterMap fun b => (c.order1 q b k).getLast?
/-- Stage 3. -/
def CCtx.order3 (c : CCtx) (q : Nat) : List Nat := (ringOrder c.n3 (c.cc q) false).filterMap fun k => (c.order2 q k).getLast?

/-- The order of a stage 1–3 that a position belongs to, if any; each position is in at most one ring of a stage. -/
def CCtx.orderOf (c : CCtx) (st q p : Nat) : Option (List Nat) :=
  let l := match st with
    | 1 => c.order1 q (c.cb p) (c.cc p)
    | 2 => ((upFrom 0 c.n3).map fun k => c.order2 q k).find? (·.contains p) |>.getD []
    | _ => c.order3 q
  if l.contains p then some l else none

/-- The position that holds piece q where none is lost: in compatibility mode a summed piece ends one position before its own (R313). -/
def CCtx.homeOf (c : CCtx) (q : Nat) : Nat :=
  if c.g.compat ∧ (c.e.kind = ckAllReduce ∨ c.e.kind = ckReduceScatter) then (q + c.n - 1) % c.n else q

/-- The position that ends holding piece q: its holder or its stand-in. -/
def CCtx.holder (c : CCtx) (q : Nat) : Option Nat :=
  if c.e.kind = ckDirect then (((upFrom 0 c.n).map fun k => (q + c.n - k) % c.n).find? c.alive)
  else if c.e.kind = ckAllGather then (if c.alive q then some q else none)
  else (c.order3 q).getLast?

/-- Who stands for a position in the all-gather: itself, or the last surviving position before it in its stage-1 ring. -/
def CCtx.rep (c : CCtx) (p : Nat) : Option Nat :=
  ((upFrom 0 c.n1).map fun k => c.pos ((c.ca p + c.n1 - k) % c.n1) (c.cb p) (c.cc p)).find? c.alive

/-- The chains along which the all-gather carries piece q: (stage 1–3, positions in order) (R312, R313). -/
def CCtx.chains (c : CCtx) (q : Nat) : List (Nat × List Nat) :=
  if c.e.kind = ckDirect then
    match c.holder q with
    | some f => (upFrom 0 c.n).filterMap fun p => if c.alive p && p != f then some (1, [f, p]) else none
    | none => []
  else
    let head := (c.holder q).toList
    let q := c.homeOf q
    let third := (3, dedup (head ++ (upFrom 1 (c.n3 - 1)).filterMap fun k => c.rep (c.pos (c.ca q) (c.cb q) ((c.cc q + k) % c.n3))))
    let second := (upFrom 0 c.n3).map fun k =>
      (2, dedup ((upFrom 0 c.n2).filterMap fun b =>
        if b = 0 ∧ k = c.cc q then head.head? else c.rep (c.pos (c.ca q) ((c.cb q + b) % c.n2) k)))
    let first := (upFrom 0 c.n3).flatMap fun k => (upFrom 0 c.n2).map fun b =>
      (1, dedup ((if b = c.cb q ∧ k = c.cc q then head else (c.rep (c.pos (c.ca q) b k)).toList)
        ++ ((upFrom 1 (c.n1 - 1)).map fun a => c.pos ((c.ca q + a) % c.n1) b k).filter c.alive))
    [third] ++ second ++ first

/-- Whom this member sends piece q to in the all-gather: (stage, position). -/
def CCtx.nexts (c : CCtx) (q : Nat) : List (Nat × Nat) :=
  (c.chains q).filterMap fun ch =>
    match ch.2.findIdx? (· == c.me) with
    | some i => (ch.2[i + 1]?).map fun p => (ch.1, p)
    | none => none

/-! ## Runs -/

/-- A run of an operation with nothing done. -/
def OpRun.fresh (op gtc : Nat) : OpRun :=
  { op := op, starts := 0, contrib := [], deferIn := none, openGtc := gtc, firstMsgGtc := none, pieces := [], chunks := [], sent := [],
    lateCount := 0, decisions := [], decided := none, records := [], done := false, rounds := 0 }

/-- The run of an operation in this step. -/
def Prog.opRun (p : Prog) (op gtc : Nat) : OpRun := (p.ops.find? fun r => r.op == op).getD (OpRun.fresh op gtc)

/-- Runs with one replaced. -/
def putRun (l : List OpRun) (r : OpRun) : List OpRun :=
  if l.any fun q => q.op == r.op then l.map fun q => if q.op = r.op then r else q else l ++ [r]

def State.opRun (s : State) (h op : Nat) : OpRun :=
  match (s.hull h).prog with | some p => p.opRun op s.time.gtc | none => OpRun.fresh op s.time.gtc
def State.setRun (s : State) (h : Nat) (r : OpRun) : State :=
  s.setHull h { s.hull h with prog := (s.hull h).prog.map fun p => { p with ops := putRun p.ops r } }

/-- An operation is open: acquired or decided, not complete (R310). -/
def OpRun.isOpen (r : OpRun) : Bool := !r.done && (decide (0 < r.starts) || r.decided.isSome)

/-- The supplied record of a step in replay. -/
def Prog.replayRecord (p : Prog) (step : Nat) : Option (List Byte) :=
  if !p.isReplay then none else p.replay.find? fun r => fieldLe r 8 8 % 2 ^ 40 == step

/-- Entries of the supplied record of a step in replay (R42). -/
def Prog.replayEntries (p : Prog) (step : Nat) : Option (List Word) :=
  (p.replayRecord step).map fun r =>
    (upFrom 0 (fieldLe r 0xC8 2)).map fun i => BitVec.ofNat 64 (fieldLe r (0x100 + 8 * i) 8)

/-- An entry of the step record (R32). -/
def entryWord (group kind rank op : Nat) : Word := BitVec.ofNat 64 (group % 4096 + kind % 16 * 2 ^ 12 + rank % 65536 * 2 ^ 16 + op % 65536 * 2 ^ 32)

/-- Adds an entry to the record of the step in progress. -/
def State.addEntry (s : State) (h : Nat) (w : Word) : State :=
  s.setHull h { s.hull h with prog := (s.hull h).prog.map fun p => { p with entries := p.entries ++ [w] } }

/-- What a replay says of this member's contribution: 1 deferred, 2 dropped. -/
def Prog.replayDecided (p : Prog) (step : Nat) (c : CCtx) : Option Nat :=
  match p.replayEntries step with
  | some es =>
    if es.contains (entryWord c.gid 1 c.me c.e.op) then some 1
    else if es.contains (entryWord c.gid 2 c.me c.e.op) then some 2 else none
  | none => none

/-- The decision that holds for this member: its own, or the record's in replay. -/
def State.decidedOf (s : State) (c : CCtx) (r : OpRun) : Option Nat :=
  match (s.hull c.h).prog with
  | some p => if p.isReplay then p.replayDecided c.step c else r.decided
  | none => none

/-- A rank's contribution was deferred out of this operation in the step before (R34). -/
def State.deferredIn (s : State) (c : CCtx) (pos : Nat) : Bool :=
  match (s.hull c.h).prog with
  | some p => p.deferred.contains (c.e.op, c.gid, pos)
  | none => false

/-! ## Partials (R312–R317) -/

/-- A value on its way: none EMPTY, with its LATE_COUNT. -/
abbrev Partial := Option (List Byte) × Nat

/-- Adds terms in SEQ order, an absent one adding nothing (R212, R312, R213): the sum of a hop's REDUCE target, which starts empty; EMPTY
where every SEQ is absent, and then stored as +0 (`State.placePiece`). -/
def sumTerms (fmt : Nat) (x : Option (List Byte)) (terms : List (Option (List Byte))) : Option (List Byte) :=
  terms.foldl (fun x t => match t with | some t => some (nTerm fmt x t).1 | none => x) x

/-- Does an addition of INT32 terms saturate (R213)? -/
def satTerms (fmt : Nat) (x : Option (List Byte)) (terms : List (Option (List Byte))) : Bool :=
  (terms.foldl (fun (a : Option (List Byte) × Bool) t =>
    match t with
    | some t => let v := nTerm fmt a.1 t; (some v.1, a.2 || v.2)
    | none => a) (x, false)).2

/-- The rank that takes a position's share (R305), and whether this member is it. -/
def CCtx.heirOf (c : CCtx) (q : Nat) : Nat := (c.g.roster.getD q (0, 0, 0)).2.2
def CCtx.myRank (c : CCtx) : Nat := (c.g.roster.getD c.me (0, 0, 0)).1
/-- The lost positions whose heir this member is. -/
def CCtx.heirFor (c : CCtx) : List Nat := c.lost.filter fun q => c.heirOf q == c.myRank
/-- The position of a world rank in the group. -/
def CCtx.posOf (c : CCtx) (rank : Nat) : Option Nat := (upFrom 0 c.n).find? fun p => (c.g.roster.getD p (0, 0, 0)).1 == rank

/-- Chunk size of a group. -/
def CCtx.chunk (c : CCtx) : Nat := 2 ^ c.g.chunkLog2
/-- Chunks of a piece. -/
def CCtx.chunks (c : CCtx) : Nat := (c.piece + c.chunk - 1) / c.chunk

/-- A piece that has landed whole from a sender. -/
def OpRun.landed (r : OpRun) (c : CCtx) (phase stage piece sender : Nat) : Option Partial :=
  let l := r.chunks.filter fun k => k.phase == phase && k.stage == stage && k.piece == piece && k.sender == sender
  match l.find? fun k => k.empty with
  | some k => some (none, k.lateCount)
  | none =>
    if (upFrom 0 c.chunks).all fun i => l.any fun k => k.chunk == i then
      some (some ((upFrom 0 c.chunks).flatMap fun i => match l.find? (fun k => k.chunk == i) with | some k => k.payload | none => []),
            maxOf (l.map (·.lateCount)))
    else none

/-- This member's own terms of piece q at stage 1: current then deferred-in, and 1 if the current one is absent by decision; none
while its contribution is not ready. -/
def State.ownTerms (s : State) (c : CCtx) (r : OpRun) (q : Nat) : Option (List (Option (List Byte)) × Nat) :=
  let cut := fun (l : List Byte) => (l.drop (q * c.piece)).take c.piece
  match s.decidedOf c r with
  | some _ => some ([none, none], 1)
  | none => if r.starts = 0 then none else some ([some (cut r.contrib), r.deferIn.map cut], 0)

/-- The partial that this member forms of piece q at a stage, with whether its sum saturated: its place in the order's ring, the
incoming partial, and its terms; at stages 2 and 3 its term is the stage result it holds. None while an input is missing. -/
def State.partialAt (s : State) (c : CCtx) (r : OpRun) (q : Nat) : Nat → Option (Partial × Bool)
  | 0 => none
  | st + 1 =>
    match c.orderOf (st + 1) q c.me with
    | none => none
    | some order =>
      let i := (order.findIdx? (· == c.me)).getD 0
      let incoming : Option Partial := if i = 0 then some (none, 0) else r.landed c 0 st q (order.getD (i - 1) 0)
      let own : Option (List (Option (List Byte)) × Nat) :=
        if st = 0 then s.ownTerms c r q
        else (s.partialAt c r q st).map fun p => ([p.1.1], p.1.2)
      match incoming, own with
      | some inc, some o =>
        some ((sumTerms c.e.fmt inc.1 o.1, inc.2 + o.2), satTerms c.e.fmt inc.1 o.1)
      | _, _ => none

/-- DIRECT: the sum at the holder of piece q (R314); a deferred-in term travels with STAGE 1. -/
def State.directAt (s : State) (c : CCtx) (r : OpRun) (q : Nat) : Option (Partial × Bool) :=
  let terms := ((upFrom 0 c.n).filter c.alive).flatMap fun p =>
    let get := fun (st : Nat) =>
      if p = c.me then (s.ownTerms c r q).map fun o => ((o.1.getD st none, if st = 0 then o.2 else 0) : Partial)
      else r.landed c 2 st q p
    get 0 :: (if s.deferredIn c p then [get 1] else [])
  if terms.all (·.isSome) then
    let ts := terms.filterMap id
    some ((sumTerms c.e.fmt none (ts.map (·.1)), sumOf (ts.map (·.2))), satTerms c.e.fmt none (ts.map (·.1)))
  else none

/-- The REDUCE target of a hop is open (R312, R224): one of the incoming partial and this member's own terms is there, the other not;
in DIRECT, some of the terms. -/
def State.hopOpen (s : State) (c : CCtx) (r : OpRun) (q stage : Nat) : Bool :=
  let own := if stage ≤ 1 then (s.ownTerms c r q).isSome else (s.partialAt c r q (stage - 1)).isSome
  if c.e.kind = ckDirect then
    stage == 1 && c.holder q == some c.me && (s.directAt c r q).isNone
      && (own || ((upFrom 0 c.n).any fun p => (r.landed c 2 0 q p).isSome))
  else
    match c.orderOf stage q c.me with
    | some order =>
      match (order.findIdx? (· == c.me)).getD 0 with
      | 0 => false
      | i + 1 => (r.landed c 0 (stage - 1) q (order.getD i 0)).isSome != own
    | none => false

/-- Open targets of a hull's collective hops. -/
def State.hopTargets (s : State) (h : Nat) : Nat :=
  match (s.hull h).prog with
  | some p =>
    sumOf (p.image.coll.map fun e =>
      match s.cctx h e.op with
      | some c =>
        let r := s.opRun h e.op
        if r.done ∨ ¬(e.kind = ckAllReduce ∨ e.kind = ckReduceScatter ∨ e.kind = ckDirect) then 0
        else ((upFrom 0 c.n).flatMap fun q => (upFrom 1 3).filter fun st => s.hopOpen c r q st).length
      | none => 0)
  | none => 0

/-! ## Sending (R316, R318) -/

/-- First block index of a piece's husk tags: its place in the operation's tensor (log entry 20). -/
def CCtx.firstBlock (c : CCtx) (piece : Nat) : Nat := if c.e.kind = ckRotate then 0 else piece * c.piece / 4096

/-- The contribution digest of a piece (R318). -/
def CCtx.digest (c : CCtx) (piece : Nat) (v : Option (List Byte)) : Nat :=
  match v with
  | none => 0
  | some b =>
    leNat ((sha256Bytes ((upFrom 0 (b.length / 4096)).flatMap fun i =>
      natLe 8 (huskOf (slice b (4096 * i) 4096) (huskTag c.e.dst (c.firstBlock piece + i))).toNat)).take 8)

/-- TAG of a class-0 message (R316). -/
def CCtx.tag (c : CCtx) (piece chunk phase stage : Nat) (empty last : Bool) : Word :=
  BitVec.ofNat 64 (c.gid % 4096 + c.e.op * 2 ^ 12 + piece * 2 ^ 28 + chunk * 2 ^ 44 + phase * 2 ^ 56 + stage * 2 ^ 58
    + bitAt empty 60 + bitAt last 61)

/-- Fabric id of a position; past the roster, of the world rank that the number exceeds it by: an heir outside the group (R305). -/
def State.collFid (s : State) (c : CCtx) (dst : Nat) : BitVec 24 :=
  if dst < c.n then (c.g.roster.getD dst (0, 0, 0)).2.1 else (s.fidOf c.h (dst - c.n)).getD 0

/-- Sends a piece to a position in its chunks; an EMPTY one is one chunk without payload. -/
def State.collSend (s : State) (c : CCtx) (dst phase stage piece : Nat) (v : Partial) : State :=
  let fid := s.collFid c dst
  let trailer := fun (last : Bool) =>
    natLe 8 (if last then c.digest piece v.1 else 0) ++ natLe 4 v.2 ++ natLe 2 c.me ++ natLe 1 c.g.epoch.toNat ++ zeros 17
  match v.1 with
  | none => s.send c.h 0 fid (c.tag piece 0 phase stage true true) (trailer true)
  | some b =>
    (upFrom 0 c.chunks).foldl (fun s i =>
      let last := i + 1 == c.chunks
      let part := (b.drop (i * c.chunk)).take c.chunk
      s.send c.h 0 fid (c.tag piece i phase stage false last)
        (blockBody c.e.dst (c.firstBlock piece + i * c.chunk / 4096) part ++ trailer last)) s

/-- Sends a piece once. -/
def State.sendOnce (s : State) (c : CCtx) (dst phase stage piece : Nat) (v : Partial) : State :=
  let r := s.opRun c.h c.e.op
  if r.sent.contains (phase, stage, piece, dst) then s
  else (s.setRun c.h { r with sent := r.sent ++ [(phase, stage, piece, dst)] }).collSend c dst phase stage piece v

/-! ## Tensors of the operation -/

/-- Reads the start of a tensor of the program. -/
def State.collRead (s : State) (h : Nat) (p : Prog) (tensor off len : Nat) : ReadOut :=
  match p.memPlace tensor with
  | some (tierB, base) => s.readRange h tierB base tensor off len
  | none => { st := s, data := zeros len, bad := none }

/-- A write of the program's own machinery that was lost stops the hull, as one whose check fails does (R380, log entry 77). -/
def State.stopIfLost (s : State) (h tensor index : Nat) : State :=
  if s.mem.lost then State.huskStop { s with mem := { s.mem with lost := false } } 0x0600 h 0xFF 0xFF tensor index .uncorr else s

/-- Writes to a tensor of the program. -/
def State.collWrite (s : State) (h tensor off : Nat) (b : List Byte) : State :=
  match (s.hull h).prog.bind fun p => p.memPlace tensor with
  | some (tierB, base) => (s.writeRange h tierB base tensor off b).stopIfLost h tensor (off / 4096)
  | none => s

/-- Where a final piece lands in DST, if this member keeps it (R309). -/
def CCtx.place (c : CCtx) (q : Nat) : Option Nat :=
  if c.e.kind = ckReduceScatter then
    if c.homeOf q = c.me then some 0 else if c.heirFor.contains (c.homeOf q) then some c.piece else none
  else some (q * c.piece)

/-- A final piece is in place at this member, with its LATE_COUNT; `sum` where this member's near-memory unit formed it: that completes
the piece's last REDUCE target, and an owned shard's blocks go to the twin (R269, R312). -/
def State.placePiece (s : State) (c : CCtx) (q : Nat) (v : Partial) (sum : Bool) : State :=
  let b := v.1.getD (zeros c.piece)
  let s := match c.place q with
    | some off =>
      let s := s.collWrite c.h c.e.dst off b
      match (if sum then (s.hull c.h).prog.bind fun p => p.memPlace c.e.dst else none) with
      | some (tierB, base) => s.twinFeed c.h tierB base c.e.dst off c.piece
      | none => s
    | none => s
  let r := s.opRun c.h c.e.op
  s.setRun c.h { r with pieces := r.pieces ++ [q], lateCount := max r.lateCount v.2 }

/-! ## Completion (R310, R322) -/

/-- Pieces this member must have in place. -/
def CCtx.needed (c : CCtx) : List Nat :=
  if c.e.kind = ckReduceScatter then
    (upFrom 0 c.n).filter fun q => (c.place q).isSome
  else (upFrom 0 c.n).filter fun q => (c.holder q).isSome

/-- The increment of DONE_ID, and the counts. -/
def State.collDone (s : State) (c : CCtx) : State :=
  let s := (s.signalCounter c.e.doneId).1
  let g := s.group c.gid
  s.setGroup c.gid { g with opsDone := min (g.opsDone + 1) 0xFFFFFFFF }

/-- DEFERRED_IN for each contribution deferred out of the operation in the step before, unless a decision drops it (R322) or its
position is lost (R325): it is then not added, and misses its slot (R34). -/
def State.listDeferredIn (s : State) (c : CCtx) (r : OpRun) : State :=
  match (s.hull c.h).prog with
  | some p =>
    (p.deferred.filter fun d => d.1 == c.e.op && d.2.1 == c.gid).foldl (fun s d =>
      if !c.alive d.2.2 || (r.decisions.any fun k => k.pos == d.2.2) || (d.2.2 == c.me && (s.decidedOf c r).isSome) then s
      else s.addEntry c.h (entryWord c.gid 3 d.2.2 c.e.op)) s
  | none => s

/-- The program runs in replay mode (R42). -/
def State.inReplay (s : State) (h : Nat) : Bool := match (s.hull h).prog with | some p => p.isReplay | none => false

/-- Reads for the engine: none where a block cannot be used, and the hull stops (R380, log entry 77). -/
def State.collTake (s : State) (h : Nat) (p : Prog) (tensor off len : Nat) : State × Option (List Byte) :=
  let o := s.collRead h p tensor off len
  match o.bad with
  | some b => (o.st.huskStop 0x0600 h 0xFF 0xFF tensor b.1 b.2, none)
  | none => (o.st, some o.data)

/-- The bytes of a final piece this member holds; none where they cannot be read. -/
def State.heldPiece (s : State) (c : CCtx) (q : Nat) : State × Option Partial :=
  let r := s.opRun c.h c.e.op
  match (s.hull c.h).prog with
  | some p =>
    match c.place q with
    | some off =>
      let o := s.collTake c.h p c.e.dst off c.piece
      (o.1, o.2.map fun b => (some b, r.lateCount))
    | none => (s, some ((s.partialAt c r q 3).map (·.1) |>.getD (none, 0)))
  | none => (s, some (none, 0))

/-- Sends a final piece this member holds, once. -/
def State.sendHeld (s : State) (c : CCtx) (dst stage q : Nat) : State :=
  if (s.opRun c.h c.e.op).sent.contains (1, stage, q, dst) then s
  else
    match s.heldPiece c q with
    | (s, some v) => s.sendOnce c dst 1 stage q v
    | (s, none) => s

/-- In replay the module of a lost rank receives from its heir each result piece that it would otherwise hold, once the heir has
completed the operation (R327). -/
def State.heirSends (s : State) (c : CCtx) : State :=
  if !s.inReplay c.h then s
  else c.heirFor.foldl (fun s q =>
    let qs := if c.e.kind = ckReduceScatter then c.needed.filter (fun k => c.homeOf k == q) else c.needed
    qs.foldl (fun s k => s.sendHeld c q 0 k) s) s

/-- Completes an operation whose results, digests and decision messages are all here (R310, R321). -/
def State.collComplete (s : State) (c : CCtx) : State :=
  let r := s.opRun c.h c.e.op
  let replay := s.inReplay c.h
  let heldAll := c.needed.all fun q => r.pieces.contains q
  let ready := if c.e.kind = ckExact then false
    else heldAll && (decide (0 < r.starts) || (s.decidedOf c r).isSome) && (replay || decide (r.lateCount ≤ r.decisions.length))
  if r.done || !ready || c.e.kind == ckRotate then s
  else (((s.listDeferredIn c r).setRun c.h { r with done := true }).collDone c).heirSends c

/-! ## The exact lane (R315, R264–R267) -/

/-- The root: position 0, or its lowest surviving child (R324). -/
def treeRoot (n : Nat) (lost : List Nat) : Nat :=
  if lost.contains 0 then (((upFrom 1 16).filter (· < n)).find? fun p => !lost.contains p).getD 0 else 0

/-- The parent of a surviving position; children of a lost position reattach to its parent (R324). -/
def treeParent (n : Nat) (lost : List Nat) : Nat → Nat → Nat
  | 0, _ => treeRoot n lost
  | k + 1, p =>
    let q := (p - 1) / 16
    if q = 0 then treeRoot n lost else if lost.contains q then treeParent n lost k q else q

def CCtx.root (c : CCtx) : Nat := treeRoot c.n c.lost
def CCtx.parent (c : CCtx) (p : Nat) : Nat := treeParent c.n c.lost 8 p
/-- Surviving children of a position. -/
def CCtx.children (c : CCtx) (p : Nat) : List Nat :=
  (upFrom 0 c.n).filter fun q => c.alive q && q != p && q != c.root && c.parent q == p

/-- Fabric id of a position. -/
def CCtx.fid (c : CCtx) (p : Nat) : BitVec 24 := (c.g.roster.getD p (0, 0, 0)).2.1

/-- Sums records exactly, flags and requests by OR; OVF where a total passes the range (R266). -/
def addRecords (a b : ExactRecord) : ExactRecord :=
  let n := max a.sums.length b.sums.length
  let s := (upFrom 0 n).map fun i =>
    let t := (a.sums.getD i 0).toInt + (b.sums.getD i 0).toInt
    let ovf := decide (t < -(2 ^ 319 : Int) ∨ (2 ^ 319 : Int) ≤ t)
    (BitVec.ofInt 320 t, (a.flags.getD i 0 ||| b.flags.getD i 0) ||| (if ovf then 8 else 0))
  { a with sums := s.map (·.1), flags := s.map (·.2), requests := a.requests ||| b.requests }

/-- This member's own record from the 64 bytes in SRC (R264, R315). -/
def CCtx.ownRecord (c : CCtx) (b : List Byte) : ExactRecord :=
  if c.e.fmt = 0x11 then
    { group := c.gid, op := c.e.op, step := c.step, pos := c.me, heir := false, sums := [BitVec.ofNat 320 (fieldLe b 0 40)],
      flags := [BitVec.ofNat 8 (fieldLe b 0x28 1 % 16)], requests := BitVec.ofNat 8 (fieldLe b 0x29 1) }
  else
    let ts := (upFrom 0 16).map fun i => lgTerm (fieldLe b (4 * i) 4)
    { group := c.gid, op := c.e.op, step := c.step, pos := c.me, heir := false, sums := ts.map fun t => BitVec.ofInt 320 t.1,
      flags := ts.map fun t => t.2.setWidth 8, requests := 0 }

/-- REFORM_SKIP entries of a step (R38, R326): at the operation from which an alternate order first runs, counted in REFORM_COUNT, and
in a later step at the group's first operation, not counted. -/
def State.reformEntries (s : State) (p : Prog) (step : Nat) : List (Word × Bool) :=
  (dedup (p.image.coll.map (·.group))).flatMap fun gid =>
    (s.group gid).lost.filterMap fun l =>
      if l.2.2 = step then some (entryWord gid 4 l.1 l.2.1, true)
      else if l.2.2 < step then (p.image.coll.find? fun e => e.group == gid).map fun e => (entryWord gid 4 l.1 e.op, false)
      else none

/-- A contribution deferred out of the step before is not yet in the entries, as DEFERRED_IN or DROPPED. -/
def Prog.unlisted (p : Prog) (d : Nat × Nat × Nat) : Bool :=
  !p.entries.contains (entryWord d.2.1 3 d.2.2 d.1) && !p.entries.contains (entryWord d.2.1 2 d.2.2 d.1)

/-- Entries that the step's record will hold, by what is known now (R37): each deferred contribution gives one (R34). -/
def State.entryTotal (s : State) (h : Nat) (p : Prog) : Nat :=
  p.entries.length + (s.reformEntries p (s.hull h).step).length + (p.deferred.filter p.unlisted).length

/-- A module whose entries for the step exceed 32 raises the skip request RECORD_FULL in the verdict record it sends (R37, R264). -/
def State.recordFull (s : State) (h : Nat) (r : ExactRecord) : ExactRecord :=
  match (s.hull h).prog with
  | some p => if s.entryTotal h p > 32 ∧ r.sums.length = 1 then { r with requests := r.requests ||| 1 } else r
  | none => r

/-- The values of a record in a privileged message. -/
def recordVals (r : ExactRecord) : List Nat :=
  [r.group, r.op, r.step, r.pos, b2n r.heir, r.requests.toNat] ++ r.flags.map (·.toNat)
    ++ r.sums.flatMap fun v => (upFrom 0 5).map fun i => v.toNat / 2 ^ (64 * i) % 2 ^ 64

/-- The decision fields of a reduced verdict (R266). -/
def verdictOf (step : Nat) (r : ExactRecord) : Verdict :=
  let fl := (r.flags.headD 0).setWidth 4
  let cause := if fl ≠ 0 then 1 else if r.requests.getLsbD 0 then 2 else if r.requests.getLsbD 1 then 3 else 0
  { sum := r.sums.headD 0, vflags := fl, requests := r.requests, skipped := decide (cause ≠ 0), cause := cause, step := step }

/-- The 64 bytes of a reduced verdict (R264). -/
def Verdict.bytes (v : Verdict) : List Byte :=
  natLe 40 v.sum.toNat ++ natLe 1 v.vflags.toNat ++ natLe 1 v.requests.toNat ++ natLe 1 (b2n v.skipped) ++ natLe 1 v.cause ++ zeros 4
    ++ natLe 8 (v.step % 2 ^ 40) ++ zeros 8

/-- The verdict a replay takes from its record: SKIPPED and SKIP_CAUSE (R42). -/
def Prog.replayVerdict (p : Prog) (v : Verdict) : Verdict :=
  match p.replayRecord v.step with
    | some r => { v with skipped := fieldLe r 4 1 % 2 == 1, cause := fieldLe r 0xCA 1 }
    | none => v

/-- The result of an EXACT operation lands at this member and goes on to its children; the operation completes. -/
def State.exactResult (s : State) (c : CCtx) (res : ExactRecord) : State :=
  let r := s.opRun c.h c.e.op
  if r.done then s
  else
    let down := c.children c.me ++ (if s.inReplay c.h then c.heirFor else [])
    let s := down.foldl (fun s p => s.sendPriv c.h (c.fid p) pkResult (recordVals { res with pos := c.me })) s
    let s := if c.e.fmt = 0x11 then
        let x := s.hull c.h
        match x.prog with
        | some p =>
          let v := p.replayVerdict (verdictOf c.step res)
          (s.setHull c.h { x with prog := some { p with verdict := some v } }).collWrite c.h c.e.dst 0 v.bytes
        | none => s
      else
        s.collWrite c.h c.e.dst 0 ((res.sums.zip res.flags).flatMap fun e =>
          natLe 4 (lgRead fp32 { val := e.1, fl := e.2.setWidth 4 }).1)
    (s.setRun c.h { s.opRun c.h c.e.op with done := true }).collDone c

/-- The records an EXACT member must have: its own, one from each child, and one as heir for each position it stands for (R325). -/
def CCtx.exactReady (c : CCtx) (r : OpRun) : Bool :=
  let from_ := fun (p : Nat) (heir : Bool) => r.records.any fun k => k.pos == p && k.heir == heir
  let heirs := if c.g.world ∧ c.e.fmt = 0x11 then
      c.lost.filter fun p => (c.g.roster.getD p (0, 0, 0)).2.2 == (c.g.roster.getD c.me (0, 0, 0)).1
    else []
  decide (0 < r.starts) && from_ c.me false && (c.children c.me).all (fun p => from_ p false) && (heirs.isEmpty || from_ c.me true)

/-- Up the tree, or at the root down again. A lost position that runs on in replay sends nothing (R327). -/
def State.exactProgress (s : State) (c : CCtx) : State :=
  let r := s.opRun c.h c.e.op
  if r.done || !c.alive c.me || !c.exactReady r || r.sent.contains (9, 0, 0, 0) then s
  else
    let tot := match r.records with
      | a :: l => l.foldl addRecords a
      | [] => c.ownRecord []
    let tot := s.recordFull c.h tot
    let s := s.setRun c.h { r with sent := r.sent ++ [(9, 0, 0, 0)] }
    if c.me = c.root then s.exactResult c { tot with pos := c.me, heir := false }
    else s.sendPriv c.h (c.fid (c.parent c.me)) pkRecord (recordVals { tot with pos := c.me, heir := false })

/-! ## Progress of an operation -/

/-- Earlier operations of the group in this step are complete at this member (R310). -/
def State.turn (s : State) (c : CCtx) : Bool :=
  match (s.hull c.h).prog with
  | some p => (p.image.coll.filter fun e => e.group == c.gid && decide (e.op < c.e.op)).all fun e => (p.opRun e.op 0).done
  | none => false

/-- Stages that have work for piece q at this member. -/
def State.reduceSteps (s : State) (c : CCtx) (q : Nat) : State :=
  (upFrom 1 3).foldl (fun s st =>
    match c.orderOf st q c.me, s.partialAt c (s.opRun c.h c.e.op) q st with
    | some order, some v =>
      let i := (order.findIdx? (· == c.me)).getD 0
      let r := s.opRun c.h c.e.op
      let formed := r.sent.any fun k => k.1 == 8 && k.2.1 == st && k.2.2.1 == q
      let s := if formed then s
        else
          let s := s.setRun c.h { r with sent := r.sent ++ [(8, st, q, 0)] }
          if v.2 then s.event evNmu 3 259 else s
      match order[i + 1]? with
      | some nx => s.sendOnce c nx 0 (st - 1) q v.1
      | none => if st = 3 ∧ !(s.opRun c.h c.e.op).pieces.contains q then s.placePiece c q v.1 true else s
    | _, _ => s) s

/-- The all-gather's part of this member for piece q; in REDUCE_SCATTER a lost position's piece goes from its stand-in to its heir, in the
group or outside it (R305, R325). -/
def State.gatherSteps (s : State) (c : CCtx) (q : Nat) : State :=
  let r := s.opRun c.h c.e.op
  if !r.pieces.contains q then s
  else if c.e.kind = ckReduceScatter then
    let home := c.homeOf q
    if c.lost.contains home ∧ c.holder q = some c.me then
      let dst := (c.posOf (c.heirOf home)).getD (c.n + c.heirOf home)
      if dst = c.me then s else s.sendHeld c dst 0 q
    else s
  else (c.nexts q).foldl (fun s d => s.sendHeld c d.2 (d.1 - 1) q) s

/-- DIRECT: this member's terms go out, and a holder sums; a lost position that runs on in replay sends none (R327). -/
def State.directSteps (s : State) (c : CCtx) (q : Nat) : State :=
  let r := s.opRun c.h c.e.op
  match c.holder q, (if c.alive c.me then s.ownTerms c r q else none) with
  | some f, some o =>
    if f ≠ c.me then
      let s := s.sendOnce c f 2 0 q (o.1.getD 0 none, o.2)
      if s.deferredIn c c.me then s.sendOnce c f 2 1 q (o.1.getD 1 none, 0) else s
    else if r.pieces.contains q then s
    else
      match s.directAt c r q with
      | some v => (if v.2 then s.event evNmu 3 259 else s).placePiece c q v.1 true
      | none => s
  | _, _ => s

/-- ROTATE (R328): round k lands the block of position (p − k) in ring order, counted over survivors. -/
def CCtx.rotateSource (c : CCtx) (k : Nat) : Option Nat :=
  let ring := (upFrom 0 c.n).filter c.alive
  match ring.findIdx? (· == c.me) with
  | some i => if k < ring.length then ring[(i + ring.length - k) % ring.length]? else none
  | none => none

/-- The successor in ring order. -/
def CCtx.rotateNext (c : CCtx) : Option Nat :=
  let ring := (upFrom 0 c.n).filter c.alive
  match ring.findIdx? (· == c.me) with
  | some i => if ring.length ≤ 1 then none else ring[(i + 1) % ring.length]?
  | none => none

/-- Sends and lands what the started rounds allow; `n` bounds the rounds. -/
def State.rotateSteps (c : CCtx) : Nat → State → State
  | 0, s => s
  | n + 1, s =>
    let r := s.opRun c.h c.e.op
    let k := r.rounds + 1
    if r.starts < k ∨ r.done then s
    else
      let slot := fun (k : Nat) => k % 2 * (c.e.bytes + 4096)
      let src := if k = 1 then c.me else (c.rotateSource (k - 1)).getD c.me
      let s := match c.rotateNext, (s.hull c.h).prog with
        | some nx, some p =>
          if k = 1 then s.sendOnce c nx 3 0 src (some r.contrib, 0)
          else if (c.rotateSource (k - 1)).isNone ∨ r.sent.contains (3, 0, src, nx) then s
          else match s.collTake c.h p c.e.dst (slot (k - 1)) c.e.bytes with
            | (s, some b) => s.sendOnce c nx 3 0 src (some b, 0)
            | (s, none) => s
        | _, _ => s
      let finish := fun (s : State) =>
        let r := s.opRun c.h c.e.op
        let r := { r with rounds := k, done := k == c.e.defer % 65536 }
        let s := (s.setRun c.h r)
        if r.done then s.collDone c else (s.signalCounter c.e.doneId).1
      match c.rotateSource k with
      | none => State.rotateSteps c n (finish (s.collWrite c.h c.e.dst (slot k + c.e.bytes) (zeros 4096)))
      | some p =>
        let prev := (c.rotateSource 1).getD 0
        match (s.opRun c.h c.e.op).landed c 3 0 p prev with
        | some v =>
          let s := s.collWrite c.h c.e.dst (slot k) (v.1.getD (zeros c.e.bytes))
          let s := s.collWrite c.h c.e.dst (slot k + c.e.bytes) (natLe 2 p ++ natLe 1 1 ++ zeros 4093)
          State.rotateSteps c n (finish s)
        | none => s

/-- Everything this member can do for an operation now. -/
def State.progressOp (s : State) (h op : Nat) : State :=
  match s.cctx h op with
  | none => s
  | some c =>
    if !s.turn c || (s.opRun h op).done || c.g.state != 2 then s
    else
      let qs := upFrom 0 c.n
      let s := match c.e.kind with
        | 1 | 2 => qs.foldl (fun (s : State) q => (s.reduceSteps c q).gatherSteps c q) s
        | 3 =>
          let r := s.opRun h op
          let s := if c.alive c.me ∧ 0 < r.starts ∧ !r.pieces.contains c.me then s.placePiece c c.me (some r.contrib, 0) false else s
          qs.foldl (fun (s : State) q => s.gatherSteps c q) s
        | 4 => qs.foldl (fun (s : State) q => (s.directSteps c q).gatherSteps c q) s
        | 5 => State.rotateSteps c (c.e.defer % 65536 + 1) s
        | _ => s.exactProgress c
      s.collComplete c

/-- Progress of every operation of a group, in OP order: one that completes lets the next begin. -/
def State.progressGroup (s : State) (h gid : Nat) : State :=
  match (s.hull h).prog with
  | some p => (p.image.coll.filter fun e => e.group == gid).foldl (fun s e => s.progressOp h e.op) s
  | none => s

/-! ## COLL_OP_START (R310, R322) -/

/-- A record of class COLL. -/
def State.collRec (s : State) (h gid op piece sender step : Nat) : State :=
  s.log1 (mkRec 0x08 2 0x0600 h 0xFF 0xFF 0 (natLe 2 gid ++ natLe 2 op ++ natLe 2 piece ++ natLe 2 sender ++ natLe 8 step))

/-- Bytes the engine reads of SRC (R309). -/
def CCtx.srcBytes (c : CCtx) : Nat := c.e.bytes

/-- COLL_OP_START: the engine acquires START_ID by START_AMOUNT. A group that is not ACTIVE stops the program with FAULT. -/
def execCollOpStart (h op : Nat) (m : List Meet) (s : State) : Outcome :=
  .next (s.meeting m fun s =>
    let x := s.hull h
    match s.cctx h op, x.prog, x.state with
    | some c, some p, .running =>
      let r := s.opRun h op
      let more := if c.e.kind = ckRotate then decide (r.starts < c.e.defer % 65536 ∧ r.starts = r.rounds) else r.starts == 0
      if !more then s
      else if c.g.state ≠ 2 ∨ c.g.hull ≠ h then
        (((s.stopHull h 3 sFAULT true).collRec h c.gid op 0 0 c.step).raise 98)
      else
        match tfind s.sync c.e.startId with
        | some o =>
          let ready := o.kind == 0 && o.hull == h && o.waiters.isEmpty && decide (c.e.startAmount ≤ o.value)
          if !ready then s
          else
            let s := { s with sync := tput s.sync c.e.startId { o with value := o.value - c.e.startAmount }.advance }
            let src := s.collRead h p c.e.src 0 c.srcBytes
            let need := c.e.kind != ckRotate || r.starts == 0
            match (if need then src.bad else none) with
            | some (i, k) => src.st.huskStop 0x0600 h 0xFF 0xFF c.e.src i k
            | none =>
              let late := s.decidedOf c r
              let s := if need then src.st else s
              let s := if late = some 1 then s.collWrite h c.e.defer 0 src.data else s
              let due := s.deferredIn c c.me && c.e.defer != 0 && decide (c.e.kind ≠ ckRotate)
              let dr := if due then s.collTake h p c.e.defer 0 c.srcBytes else (s, none)
              if due && dr.2.isNone then dr.1
              else
                let s := dr.1
                let r := { r with starts := r.starts + 1, contrib := if need then src.data else r.contrib,
                                  deferIn := if late.isSome then none else dr.2,
                                  openGtc := if r.starts = 0 then s.time.gtc else r.openGtc,
                                  records := if c.e.kind = ckExact then r.records ++ [c.ownRecord src.data] else r.records }
                (s.setRun h r).progressGroup h c.gid
        | none => s
    | _, _, _ => s)

/-! ## CHUNK_RECEIVE (R316–R318) -/

/-- A chunk message of the inbox, read. -/
structure ChunkIn where
  gid : Nat
  op : Nat
  epoch : Byte
  chunk : Chunk
  husks : List Word

/-- Reads a class-0 collective message. -/
def readChunk (m : Msg) : ChunkIn :=
  let t := m.tag.toNat
  let n := (m.body.length - 32) / 4104
  let tr := 4104 * n
  let last := bitOf t 61
  { gid := t % 4096, op := bitsOf t 27 12, epoch := BitVec.ofNat 8 (fieldLe m.body (tr + 14) 1),
    chunk := { phase := bitsOf t 57 56, stage := bitsOf t 59 58, piece := bitsOf t 43 28, chunk := bitsOf t 55 44,
               sender := fieldLe m.body (tr + 12) 2, lateCount := fieldLe m.body (tr + 8) 4, empty := bitOf t 60,
               digest := if last then some (BitVec.ofNat 64 (fieldLe m.body tr 8)) else none, payload := m.body.take (4096 * n) },
    husks := (upFrom 0 n).map fun i => BitVec.ofNat 64 (fieldLe m.body (4096 * n + 8 * i) 8) }

/-- The first failing block of a chunk. -/
def chunkBad (c : CCtx) (k : ChunkIn) : Option (Nat × Check) :=
  (upFrom 0 k.husks.length).findSome? fun i =>
    let ix := c.firstBlock k.chunk.piece + k.chunk.chunk * c.chunk / 4096 + i
    let want := huskOf (slice k.chunk.payload (4096 * i) 4096) (huskTag c.e.dst ix)
    let got := k.husks.getD i 0
    if want.toNat % 2 ^ 32 ≠ got.toNat % 2 ^ 32 then some (ix, .fail 1 want got)
    else if want ≠ got then some (ix, .fail 2 want got) else none

/-- The landed piece's digest disagrees with the one sent (R318). -/
def OpRun.digestBad (r : OpRun) (c : CCtx) (k : Chunk) : Bool :=
  match r.landed c k.phase k.stage k.piece k.sender with
  | some v =>
    match (r.chunks.filter fun q => q.phase == k.phase && q.stage == k.stage && q.piece == k.piece && q.sender == k.sender).findSome? (·.digest) with
    | some d => d.toNat != c.digest k.piece v.1
    | none => false
  | none => false

/-- A final piece that has landed in the all-gather goes into place. -/
def State.landGather (s : State) (c : CCtx) (k : Chunk) : State :=
  let r := s.opRun c.h c.e.op
  if k.phase ≠ 1 ∨ r.pieces.contains k.piece then s
  else
    match r.landed c 1 k.stage k.piece k.sender with
    | some v => s.placePiece c k.piece v false
    | none => s

/-- A message that waits in the inbox was made stale by a change of the hull's placement generation (R58). -/
def State.msgStale (s : State) (m : Msg) : Bool := m.pgen != (s.hull m.dstHull).pgen

/-- A message is taken out of the inbox and dropped as stale, and counted (R58, R291). -/
def State.dropStale (s : State) (k h : Nat) : State := (s.takeInbox k).countStale h

/-- CHUNK_RECEIVE: message `k` of the inbox, a class-0 chunk of the hull. A message of an older EPOCH, or of a stale placement generation,
is dropped and counted. -/
def execChunkReceive (h k : Nat) (m : List Meet) (s : State) : Outcome :=
  .next (s.meeting m fun s =>
    match s.jv.inbox[k]? with
    | some m =>
      let q := readChunk m
      if m.cls ≠ 0 ∨ m.dstHull ≠ h ∨ m.body.length < 32 ∨ (m.body.length - 32) % 4104 ≠ 0 ∨ (s.hull h).state ≠ .running then s
      else if s.msgStale m then s.dropStale k h
      else
        match s.cctx h q.op with
        | none => s
        | some c =>
          let s := s.takeInbox k
          let g := s.group q.gid
          if c.gid ≠ q.gid then s
          else if q.epoch ≠ g.epoch ∧ !newer 8 q.epoch.toNat g.epoch.toNat then
            s.setGroup q.gid { g with stale := min (g.stale + 1) 0xFFFF }
          else
            match chunkBad c q with
            | some (i, ck) => s.huskStop 0x0600 h 0xFF 0xFF c.e.dst i ck
            | none =>
              let r := s.opRun h q.op
              let dup := r.chunks.any fun e => e.phase == q.chunk.phase && e.stage == q.chunk.stage && e.piece == q.chunk.piece
                && e.chunk == q.chunk.chunk && e.sender == q.chunk.sender
              let r := { r with chunks := if dup then r.chunks else r.chunks ++ [q.chunk],
                                firstMsgGtc := some (r.firstMsgGtc.getD s.time.gtc) }
              let s := s.setRun h r
              if r.digestBad c q.chunk then
                ((((s.event evColl 2 514).collRec h c.gid q.op q.chunk.piece q.chunk.sender c.step).stopHull h 3 sFAULT true).raise 98)
              else ((s.landGather c q.chunk).progressGroup h c.gid)
    | none => s)

/-! ## Late contributions (R319–R321) -/

/-- Sends a decision on to the members of the tree this member serves. -/
def Decision.vals (d : Decision) : List Nat := [d.group, d.op, d.step, d.epoch, d.pos] ++ d.kinds

/-- Does position `p` lie below `me` in the tree? -/
def CCtx.below (c : CCtx) (p : Nat) : Nat → Bool
  | 0 => false
  | n + 1 => if p = c.root then false else c.parent p == c.me || c.below (c.parent p) n

/-- Passes a decision on: up when it comes from below for the first time, down otherwise (R321). -/
def State.passDecision (s : State) (c : CCtx) (d : Decision) (first : Bool) : State :=
  if first ∧ c.me ≠ c.root ∧ (d.pos = c.me ∨ c.below d.pos 8) then
    s.sendPriv c.h (c.fid (c.parent c.me)) pkDecision (Decision.vals d)
  else (c.children c.me).foldl (fun s p => s.sendPriv c.h (c.fid p) pkDecision (Decision.vals d)) s

/-- Adds a decision's entries to the step record (R33), and counts them. -/
def State.addDecision (s : State) (c : CCtx) (d : Decision) : State :=
  let r := s.opRun c.h c.e.op
  let s := s.setRun c.h { r with decisions := r.decisions ++ [d] }
  let s := d.kinds.foldl (fun s k => s.addEntry c.h (entryWord c.gid k d.pos c.e.op)) s
  let g := s.group c.gid
  s.setGroup c.gid { g with decisions := min (g.decisions + d.kinds.length) 0xFFFF }

/-- This member's decision on an operation: DEFERRED_OUT or DROPPED, and its deferred-in term DROPPED (R320). -/
def State.ownDecision (s : State) (c : CCtx) : Decision :=
  { group := c.gid, op := c.e.op, step := c.step, epoch := c.g.epoch.toNat, pos := c.me,
    kinds := (if c.g.policy = 1 then 1 else 2) :: (if s.deferredIn c c.me then [2] else []) }

/-- This member's decision on an operation goes into its record and out to the group (R321). -/
def State.announce (s : State) (c : CCtx) : State := (s.addDecision c (s.ownDecision c)).passDecision c (s.ownDecision c) true

/-- LATE_DECISION (R319, R320): the acquisition has not completed LATE_US after the operation's first class-0 message. -/
def execLateDecision (h op : Nat) (s : State) : Outcome :=
  .next (s.meeting [] fun s =>
    match s.cctx h op, (s.hull h).prog with
    | some c, some p =>
      let r := s.opRun h op
      let late := match r.firstMsgGtc with | some g => decide (s.time.gtc - g ≥ 1000 * c.g.lateUs) | none => false
      let reducing := c.e.kind = ckAllReduce ∨ c.e.kind = ckReduceScatter ∨ c.e.kind = ckDirect
      if p.isReplay ∨ c.g.policy = 0 ∨ !reducing ∨ r.starts ≠ 0 ∨ r.decided.isSome ∨ !late ∨ (s.hull h).state ≠ .running then s
      else
        let s := (s.setRun h { r with decided := some c.g.policy, openGtc := s.time.gtc }).event evColl 0 512
        (s.announce c).progressGroup h c.gid
    | _, _ => s)

/-- DECISION_MESSAGE (R321): void with an older EPOCH, or about a position that a re-form excludes from the operation. -/
def execDecisionMessage (h : Nat) (d : Decision) (s : State) : Outcome :=
  .next (s.meeting [] fun s =>
    match s.cctx h d.op with
    | some c =>
      let r := s.opRun h d.op
      let known := r.decisions.contains d
      let old := d.epoch ≠ c.g.epoch.toNat ∧ !newer 8 d.epoch c.g.epoch.toNat
      if c.gid ≠ d.group ∨ d.step ≠ c.step ∨ old ∨ !c.alive d.pos ∨ (s.hull h).state ≠ .running then s
      else
        let s := if known then s else s.addDecision c d
        (s.passDecision c d (!known)).progressGroup h c.gid
    | none => s)

/-! ## EXACT_RECORD (R315, R349) -/

/-- EXACT_RECORD: a child's record on its way up, this member's record as heir, or from the parent the result on its way down (in
replay, at a lost position, from its heir: R327). A repeated GROUP, OP, STEP and position is dropped. -/
def execExactRecord (h : Nat) (r : ExactRecord) (s : State) : Outcome :=
  .next (s.meeting [] fun s =>
    match s.cctx h r.op with
    | some c =>
      let run := s.opRun h r.op
      if c.gid ≠ r.group ∨ c.e.kind ≠ ckExact ∨ r.step ≠ c.step ∨ (s.hull h).state ≠ .running then s
      else if c.alive c.me ∧ c.me ≠ c.root ∧ r.pos = c.parent c.me ∧ !r.heir then (s.exactResult c r).progressGroup h c.gid
      else if !c.alive c.me then
        if c.posOf (c.heirOf c.me) = some r.pos then (s.exactResult c r).progressGroup h c.gid else s
      else if run.records.any fun k => k.pos == r.pos && k.heir == r.heir then s
      else (s.setRun h { run with records := run.records ++ [r] }).progressGroup h c.gid
    | none => s)

/-! ## Loss and re-form (R323–R326) -/

/-- Ring neighbours of this member in every stage: the survivors before and after it. -/
def CCtx.neighbours (c : CCtx) : List Nat :=
  let ring := fun (ps : List Nat) =>
    let l := ps.filter c.alive
    match l.findIdx? (· == c.me) with
    | some i => [l.getD ((i + 1) % l.length) 0, l.getD ((i + l.length - 1) % l.length) 0]
    | none => []
  let a := ring ((upFrom 0 c.n1).map fun a => c.pos a (c.cb c.me) (c.cc c.me))
  let b := ring ((upFrom 0 c.n2).map fun b => c.pos (c.ca c.me) b (c.cc c.me))
  let k := ring ((upFrom 0 c.n3).map fun k => c.pos (c.ca c.me) (c.cb c.me) k)
  (dedup (a ++ b ++ k)).filter (· != c.me)

/-- An open operation of a group at this member. -/
def State.openOp (s : State) (h gid : Nat) : Option CCtx :=
  match (s.hull h).prog with
  | some p =>
    ((p.image.coll.filter fun e => e.group == gid).find? fun e => (p.opRun e.op s.time.gtc).isOpen).bind fun e => s.cctx h e.op
  | none => none

/-- HEARTBEAT (R323): to every ring neighbour of every stage while an operation is open. -/
def execHeartbeat (h group : Nat) (s : State) : Outcome :=
  .next (
    match s.openOp h group with
    | some c =>
      let s := c.neighbours.foldl (fun s p => s.sendPriv h (c.fid p) pkBeat [group, c.me]) s
      s.setGroup group { s.group group with lastBeat := s.time.gtc }
    | none => s)

/-- A proposal goes up the tree, which reattaches the children of the position it names to that position's parent, or to the lowest
surviving child of a lost root (R324). -/
def State.sendProposal (s : State) (c : CCtx) (pos proposer : Nat) : State :=
  let lost := pos :: c.g.lost.map (·.1)
  if c.me = treeRoot c.n lost then s
  else s.sendPriv c.h (c.fid (treeParent c.n lost 8 c.me)) pkProposal [c.gid, pos, proposer]

/-- SUSPECT (R323): no message of a neighbour for LOSS_US while an operation shared with it is open. A replay proposes nothing: its
re-forms come from the records (R42). -/
def execSuspect (h group pos : Nat) (s : State) : Outcome :=
  .next (
    match s.openOp h group with
    | some c =>
      let since := max (tget 0 c.g.heard pos) (s.opRun h c.e.op).openGtc
      if !c.neighbours.contains pos ∨ s.time.gtc - since < 1000 * s.regF 0x0B0010 27 16 then s
      else
        let s := s.event evColl 4 516
        if s.inReplay h then s else s.sendProposal c pos c.me
    | none => s)

/-- Operations of a group in a step that this member has completed (R324). -/
def State.votesOf (s : State) (h gid : Nat) : Nat :=
  match (s.hull h).prog with
  | some p => ((p.image.coll.filter fun e => e.group == gid).filter fun e => (p.opRun e.op 0).done).length
  | none => 0

/-- A module of the job is lost (R273, R274): its buddy's shards stand alone, and the shards it owned become the buddy's; a shard
whose copy was incomplete is LOST (R277). A record of class TWIN tells each change. -/
def State.shardState (s : State) (h : Nat) (sh : ShardS) (st : TwinState) (code : Nat) : State :=
  let x := s.hull h
  let s := s.setHull h { x with prog := x.prog.map fun p =>
    { p with shards := p.shards.map fun q => if q.id = sh.id ∧ q.owner = sh.owner then { q with state := st } else q } }
  let dg := fun (o : Option (Nat × BitVec 256)) => match o with | some d => natLe 8 d.2.toNat | none => zeros 8
  s.log1 (mkRec 0x07 2 0x0600 h 0xFF 0xFF code (natLe 2 sh.id ++ natLe 8 x.step ++ natLe 1 (b2n !sh.owner) ++ dg sh.own ++ dg sh.peer))

/-- CODE of a twin state: its place in R273's order (log entry 21). -/
def twinCode : TwinState → Nat
  | .paired => 0
  | .suspect => 1
  | .single => 2
  | .onboarding => 3
  | .probation => 4
  | .lost => 5

def State.rankLost (s : State) (h rank : Nat) : State :=
  match (s.hull h).prog with
  | some p =>
    if p.twinOnly then
      if rank ≠ p.survivor then s
      else (p.shards.filter fun q => q.state == .onboarding || q.state == .probation).foldl (fun (s : State) sh =>
        s.shardState h sh .lost (twinCode .lost)) s
    else if p.buddy ≠ some rank then s
    else
      p.shards.foldl (fun (s : State) sh =>
        match sh.state with
        | .paired =>
          let s := s.shardState h sh .single (twinCode .single)
          if sh.owner then s
          else s.setHull h { s.hull h with prog := (s.hull h).prog.map fun p =>
            { p with shards := p.shards.map fun q => if q.id = sh.id ∧ !q.owner then { q with owner := true } else q } }
        | _ => s) s
  | none => s

/-- REFORM_PROPOSAL (R324, R326): a member that is not the root passes it on up the tree. At the root it is void for a position already lost; with no surviving heir the loss cannot re-form. -/
def execReformProposal (h group lostPos proposer : Nat) (votes : List Nat) (s : State) : Outcome :=
  .next (
    match (s.hull h).prog with
    | some p =>
      let ops := p.image.coll.filter fun e => e.group == group
      match ops.head?.bind fun e => s.cctx h e.op with
      | some c =>
        let lost := c.g.lost.map (·.1)
        let survivors := (upFrom 0 c.n).filter fun q => q != lostPos && !lost.contains q
        if lost.contains lostPos ∨ lost.contains c.me ∨ c.me = lostPos ∨ lostPos ≥ c.n ∨ !(proposer < c.n)
            ∨ (s.hull h).state ≠ .running ∨ p.isReplay then s
        else if c.me ≠ treeRoot c.n (lostPos :: lost) then s.sendProposal c lostPos proposer
        else
          let heir := (c.g.roster.getD lostPos (0, 0, 0)).2.2
          let heirLost := lost.any fun q => (c.g.roster.getD q (0, 0, 0)).1 == heir
          if heirLost ∨ survivors.isEmpty then s.event evColl 3 515
          else
            let v := maxOf (s.votesOf h group :: votes)
            let first := if v < ops.length then ((ops.getD v c.e).op, (s.hull h).step) else (c.e.op, (s.hull h).step + 1)
            (survivors ++ [lostPos]).foldl (fun s q =>
              if q = c.me then s else s.sendPriv h (c.fid q) pkReform [group, lostPos, first.1, first.2]) s
      | none => s
    | none => s)

/-- Final pieces of operations before the re-form's first go to the other survivors from each that holds them; one that has a piece
already drops the copy (R324). -/
def State.shareFinals (s : State) (h gid firstOp step : Nat) : State :=
  match (s.hull h).prog with
  | some p =>
    (p.image.coll.filter fun e => e.group == gid && decide (e.op < firstOp) && (e.kind == 1 || e.kind == 3 || e.kind == 4)).foldl (fun s e =>
      match s.cctx h e.op with
      | some c =>
        if !(s.opRun h e.op).done ∨ step ≠ c.step then s
        else (upFrom 0 c.n).foldl (fun s q => (upFrom 0 c.n).foldl (fun s d =>
          if d = c.me ∨ (c.g.lost.any fun l => l.1 == d) then s else s.sendHeld c d 0 q) s) s
      | none => s) s
  | none => s

/-- A group runs the alternate order round a position from an operation of a step on: EPOCH advances, interrupt 513 (R324–R326). -/
def State.groupLoses (s : State) (gid lostPos firstOp step : Nat) : State :=
  let g := s.group gid
  (s.setGroup gid { g with lost := g.lost ++ [(lostPos, firstOp, step)], epoch := g.epoch + 1, lastPos := lostPos, lastOp := firstOp,
                           lastStep := step }).event evColl 1 513

/-- KIND of an entry (R32). -/
def entryKind (e : Word) : Nat := bitsOf e.toNat 15 12

/-- An entry for a decision in an operation that a re-form runs again. Such a decision is void, its EPOCH being older; its member sends
it again with the new EPOCH, unless the re-form excludes that member (R321; log entry 97). -/
def voidEntry (group firstOp : Nat) (e : Word) : Bool :=
  bitsOf e.toNat 11 0 == group && decide (firstOp ≤ bitsOf e.toNat 47 32) && (entryKind e == 1 || entryKind e == 2)

/-- A late member sends its decisions on open operations of a group again with the new EPOCH (R321; log entry 97). -/
def State.announceAgain (s : State) (h gid : Nat) : State :=
  match (s.hull h).prog with
  | some p =>
    (p.image.coll.filter fun e => e.group == gid).foldl (fun s e =>
      match s.cctx h e.op with
      | some c =>
        let r := s.opRun h e.op
        if r.decided.isSome && !r.done && r.decisions.isEmpty && c.alive c.me then s.announce c else s
      | none => s) s
  | none => s

/-- REFORM_DECISION (R324–R326, R274): the member named stops with FAULT; a survivor switches to the alternate order from the named
operation, with EPOCH advanced, its open operations from there on run again, and decisions there are void and made again. The
entry REFORM_SKIP is in the record of every step from the named one on (`State.reformEntries`). In replay re-forms come from the
records alone (R42). -/
def execReformDecision (h group lostPos firstOp step : Nat) (s : State) : Outcome :=
  .next (s.meeting [] fun s =>
    let g := s.group group
    let x := s.hull h
    match x.prog with
    | some p =>
      if g.state ≠ 2 ∨ g.hull ≠ h ∨ x.state ≠ .running ∨ p.isReplay ∨ (g.lost.any fun l => l.1 == lostPos) then s
      else if g.myPos = lostPos then (s.stopHull h 3 sFAULT true).raise 98
      else
        let s := s.groupLoses group lostPos firstOp step
        let redo := fun (r : OpRun) =>
          let mine := p.image.coll.any fun e => e.op == r.op && e.group == group
          if mine && !r.done && notBefore x.step r.op step firstOp then
            { r with chunks := [], sent := [], pieces := [], lateCount := 0, decisions := [],
                     records := r.records.filter fun k => k.pos == g.myPos }
          else r
        let first := if step < x.step then 0 else firstOp
        let s := s.setHull h { x with prog := some { p with
          ops := p.ops.map redo, entries := if step ≤ x.step then p.entries.filter fun e => !voidEntry group first e else p.entries } }
        let s := (s.shareFinals h group firstOp step).announceAgain h group
        (s.rankLost h (g.roster.getD lostPos (0, 0, 0)).1).progressGroup h group
    | none => s)

/-- At the start of a step in replay, the re-forms that its record lists take place, each from its recorded operation on (R42, R327). -/
def State.replayReforms (s : State) (h : Nat) : State :=
  let step := (s.hull h).step
  match (s.hull h).prog with
  | some p =>
    ((p.replayEntries step).getD []).foldl (fun s e =>
      let gid := bitsOf e.toNat 11 0
      let pos := bitsOf e.toNat 31 16
      let g := s.group gid
      if entryKind e = 4 ∧ g.hull = h ∧ g.state = 2 ∧ !(g.lost.any fun l => l.1 == pos) then
        (s.groupLoses gid pos (bitsOf e.toNat 47 32) step).rankLost h (g.roster.getD pos (0, 0, 0)).1
      else s) s
  | none => s

end Sys2Proof.Machine
end

