-- ==== Sys2Proof/Machine/Twin.lean ====
section
/-! DEFINITION. Twin shards (R268–R278): the feed, digests and their comparison, re-homing. -/

namespace Sys2Proof.Machine

/-- The declaration of a shard. -/
def Prog.shard (p : Prog) (id : Nat) : Option ShardDecl := p.image.shards.find? fun d => d.id == id

/-- The copy of a shard that this module holds in a role. -/
def Prog.copy (p : Prog) (id : Nat) (owner : Bool) : Option ShardS := p.shards.find? fun q => q.id == id && q.owner == owner

/-- Changes one shard copy. -/
def State.setShard (s : State) (h : Nat) (sh : ShardS) : State :=
  s.setHull h { s.hull h with prog := (s.hull h).prog.map fun p =>
    { p with shards := p.shards.map fun q => if q.id = sh.id ∧ q.owner = sh.owner then sh else q } }

/-! ## The feed (R269) -/

/-- TWIN_FEED: message `k` of the inbox, blocks of a twin tensor with their husks; each husk is checked on landing (R379). The
twin's updates wait on the blocks that land (`Prog.feedWait`). A message of a stale placement generation is dropped (R58). -/
def execTwinFeed (h k : Nat) (m : List Meet) (s : State) : Outcome :=
  .next (s.meeting m fun s =>
    match s.jv.inbox[k]?, (s.hull h).prog with
    | some m, some p =>
      let tensor := m.tag.toNat % 2 ^ 20
      let first := m.tag.toNat / 2 ^ 20 % 2 ^ 32
      let n := m.body.length / 4104
      if m.cls ≠ 1 ∨ m.dstHull ≠ h ∨ n = 0 ∨ m.body.length % 4104 ≠ 0 ∨ !p.isTwinTensor tensor ∨ (s.hull h).state ≠ .running then s
      else if s.msgStale m then s.dropStale k h
      else
        let s := s.takeInbox k
        let payload := m.body.take (4096 * n)
        let bad := (upFrom 0 n).findSome? fun i =>
          let want := huskOf (slice payload (4096 * i) 4096) (huskTag tensor (first + i))
          let got := BitVec.ofNat 64 (fieldLe m.body (4096 * n + 8 * i) 8)
          if want.toNat % 2 ^ 32 ≠ got.toNat % 2 ^ 32 then some (first + i, Check.fail 1 want got)
          else if want ≠ got then some (first + i, Check.fail 2 want got) else none
        match bad with
        | some b => s.huskStop 0x0600 h 0xFF 0xFF tensor b.1 b.2
        | none =>
          let s := s.collWrite h tensor (4096 * first) payload
          s.setHull h { s.hull h with prog := (s.hull h).prog.map fun p =>
            { p with fed := p.fed ++ (upFrom first n).map fun i => (tensor, i) } }
    | _, _ => s)

/-! ## Digests (R270–R273, R276) -/

/-- Tensors in ascending id. -/
def ascending (l : List Nat) : List Nat := l.foldl (fun acc x => acc.takeWhile (· ≤ x) ++ [x] ++ acc.dropWhile (· ≤ x)) []

/-- The region digest of a list of tensors (R39): SHA-256 over the husks of their blocks, in ascending tensor id and block index; a
block that fails its check stops the hull. Tensors that lie in no window are padded copies of their store bytes. -/
def State.regionDigest (s : State) (h : Nat) (p : Prog) (ids : List Nat) : State × BitVec 256 :=
  let r := (ascending ids).foldl (fun (acc : State × List Byte) id =>
    match p.memPlace id with
    | some (tierB, base) =>
      let l := huskList h tierB base id (blocksOf 0 (p.bytesOf id)) acc.1
      let s := match l.2.2 with
        | b :: _ => l.1.huskStop 0x0600 h 0xFF 0xFF id b.1 b.2
        | [] => l.1
      (s, acc.2 ++ l.2.1.flatMap fun w => natLe 8 w.toNat)
    | none =>
      let n := p.bytesOf id
      let home := match imgTensor p.image id with | some d => d.home | none => 0
      let t := (acc.1.tileOfLam h home).getD 0
      let bytes := match p.place id with
        | some (.tileStore, b) => (acc.1.tile t).tsRead b n
        | some (.podStore, b) => getBytes (acc.1.pod (podOf t)).store b n
        | _ => zeros n
      (acc.1, acc.2 ++ (blocksOf 0 n).flatMap fun i => natLe 8 (huskOf (slice bytes (4096 * i) 4096) (huskTag id i)).toNat))
    (s, [])
  (r.1, sha256 r.2)

/-- The 48 bytes of a digest message (R270). -/
def digestMsg (shard : Nat) (owner : Bool) (step : Nat) (d : BitVec 256) : List Byte :=
  natLe 2 shard ++ natLe 1 (b2n !owner) ++ zeros 5 ++ natLe 8 (step % 2 ^ 40) ++ natLe 32 d.toNat

/-- Whom the digests and copies of a module go to: its buddy, and from a twin-only spare its survivor (R275). -/
def State.twinPeer (s : State) (h : Nat) (p : Prog) : Option (BitVec 24) :=
  (if p.twinOnly then some p.survivor else p.buddy).bind (s.fidOf h)

/-- Compares the digests of a step when both are here (R271–R273, R276). -/
def State.twinCompare (s : State) (h : Nat) (id : Nat) (owner : Bool) : State :=
  match (s.hull h).prog.bind fun p => p.copy id owner with
  | some sh =>
    match sh.own, sh.peer with
    | some a, some b =>
      if a.1 ≠ b.1 then s
      else if a.2 = b.2 then
        -- a new twin becomes valid when every shard's digest matched in one step (R276)
        match (s.hull h).prog with
        | some p =>
          let prob := p.shards.filter fun q => q.state == .probation
          let all := prob.all fun q => match q.own, q.peer with
            | some x, some y => x.1 == a.1 && y.1 == a.1 && x.2 == y.2 && decide (q.copiedStep < a.1)
            | _, _ => false
          if sh.state = .probation ∧ all then prob.foldl (fun s q => s.shardState h q .paired (twinCode .paired)) s else s
        | none => s
      else
        match sh.state with
        | .paired => (s.event evIntg 2 578).shardState h sh .suspect (twinCode .suspect)
        | .probation =>
          let s := s.event evIntg 2 578
          let s := s.setShard h { sh with mismatches := sh.mismatches + 1 }
          let sh := { sh with mismatches := sh.mismatches + 1 }
          if sh.mismatches ≤ 1 then s.shardState h sh .single (twinCode .single) else s.shardState h sh .suspect (twinCode .suspect)
        | _ => s
    | _, _ => s
  | none => s

/-- Takes this side's digests of a step and sends them (R270). -/
def State.twinDigests (s : State) (h step : Nat) : State :=
  match (s.hull h).prog with
  | some p =>
    (p.shards.filter fun q => q.state == .paired || q.state == .probation).foldl (fun s sh =>
      match p.shard sh.id with
      | some d =>
        let r := s.regionDigest h p d.tensors
        if (r.1.hull h).state ≠ .running then r.1
        else
          let s := r.1.setShard h { sh with own := some (step, r.2) }
          let s := match s.twinPeer h p with
            | some fid => s.sendPrivBody h fid (digestMsg sh.id sh.owner step r.2)
            | none => s
          s.twinCompare h sh.id sh.owner
      | none => s) s
  | none => s

/-- TWIN_DIGEST: the peer's digest of a shard; ROLE is the sender's, 0 owner, 1 twin. -/
def execTwinDigest (h shard role step : Nat) (digest : BitVec 256) (s : State) : Outcome :=
  .next (
    match (s.hull h).prog.bind fun p => p.copy shard (role == 1) with
    | some sh =>
      if role > 1 ∨ (s.hull h).state ≠ .running then s
      else (s.setShard h { sh with peer := some (step, digest) }).twinCompare h shard (role == 1)
    | none => s)

/-! ## Re-homing (R275, R277) -/

/-- Layers of a shard. -/
def Prog.layers (p : Prog) (id : Nat) : Nat := match p.shard id with | some d => d.tensors.length | none => 0

/-- LAYER_COPY (R275): the copy of a layer completes, in shard order, then layer order, from START_STEP on and within BYTES_PER_STEP
except for the first of a step. On the survivor the first copy puts its shards into ONBOARDING, and the layer's blocks go out. -/
def execLayerCopy (h shard layer : Nat) (m : List Meet) (s : State) : Outcome :=
  .next (s.meeting m fun s =>
    let x := s.hull h
    match x.prog with
    | some p =>
      if x.state ≠ .running then s
      else
        let begin_ := !p.twinOnly && (p.shards.any fun q => q.owner && q.state == .single) && !(p.shards.any fun q => q.state == .onboarding)
        let s := if begin_ then
            (p.shards.filter fun q => q.owner && q.state == .single).foldl (fun s q =>
              (s.setShard h { q with layersCopied := 0 }).shardState h { q with layersCopied := 0 } .onboarding (twinCode .onboarding)) s
          else s
        match (s.hull h).prog with
        | some p =>
          let open_ := p.shards.filter fun q => q.state == .onboarding && decide (q.layersCopied < p.layers q.id)
          let next := (ascending (open_.map (·.id))).head?
          match open_.find? (fun q => q.id == shard), p.shard shard with
          | some sh, some d =>
            let tensor := d.tensors.getD layer 0
            let bytes := p.bytesOf tensor
            let fits := decide (p.copiedBytes = 0) || !p.twinOnly || decide (p.copiedBytes + bytes ≤ p.rehomeBytes)
            if next ≠ some shard ∨ layer ≠ sh.layersCopied ∨ !fits ∨ (p.twinOnly && decide (x.step < p.rehomeStart)) then s
            else
              let s := s.setShard h { sh with layersCopied := layer + 1, copiedStep := x.step }
              let s := s.setHull h { s.hull h with prog := (s.hull h).prog.map fun p => { p with copiedBytes := p.copiedBytes + bytes } }
              if p.twinOnly then s
              else
                match p.memPlace tensor with
                | some (tierB, base) => s.twinFeed h tierB base tensor 0 bytes
                | none => s
          | _, _ => s
        | none => s
    | none => s)

/-- Every layer copied: PROBATION from the next step (R273). -/
def State.twinBoundary (s : State) (h : Nat) : State :=
  match (s.hull h).prog with
  | some p =>
    let on := p.shards.filter fun q => q.state == .onboarding
    let all := on.all fun q => decide (p.layers q.id ≤ q.layersCopied)
    let s := if all then on.foldl (fun s q => s.shardState h q .probation (twinCode .probation)) s else s
    s.setHull h { s.hull h with prog := (s.hull h).prog.map fun p => { p with copiedBytes := 0 } }
  | none => s

/-- NEW_TWIN_LOST (R273, R277): on the owner, the shards that the new twin was taking return to SINGLE. -/
def execNewTwinLost (h : Nat) (s : State) : Outcome :=
  .next (
    match (s.hull h).prog with
    | some p =>
      (p.shards.filter fun q => q.owner && (q.state == .onboarding || q.state == .probation)).foldl (fun s q =>
        let q := { q with layersCopied := 0, own := none, peer := none }
        (s.setShard h q).shardState h q .single (twinCode .single)) s
    | none => s)

end Sys2Proof.Machine
end

