-- ==== Sys2Proof/Machine/Prog.lean ====
section
/-!
DEFINITION. A program on its hull: the fold (R22, R23), the residency plan (R84, R85), seats on tiles, sync objects and engines at a
start (R74, R134, R227, R437), boundary marks (R261), and the restart of a step (R347).
-/

namespace Sys2Proof.Machine

/-! ## Folds and plans (R22, R23, R84, R85) -/

/-- The plan of a fold factor. -/
def imgFold (i : Image) (f : Nat) : Option FoldPlan := i.folds.find? fun q => q.foldLog2 == f

/-- The plan in force. -/
def Prog.fold (p : Prog) : Option FoldPlan := imgFold p.image p.foldLog2

/-- Positions N of a fold. -/
def imgPositions (i : Image) (f : Nat) : Nat := i.geometry.tiles / 2 ^ f

/-- The smallest supported fold factor whose positions fit a number of pods (R23). -/
def imgChooseFold (i : Image) (pods : Nat) : Option Nat :=
  (upFrom 0 4).find? fun f => (imgFold i f).isSome && i.geometry.tiles % 2 ^ f == 0 && decide (0 < imgPositions i f)
    && decide (imgPositions i f ≤ 16 * pods)

/-- Bytes in whole blocks. -/
def inBlocks (n : Nat) : Nat := (n + 4095) / 4096 * 4096

/-- Level and base of a tensor under the plan of a fold. -/
def imgPlace (i : Image) (f : Nat) (d : TensorDecl) : Option (Level × Nat) :=
  (i.folds.findIdx? fun q => q.foldLog2 == f).bind fun k => d.places[k]?

/-- Tensors at a level under a plan. -/
def imgAt (i : Image) (f : Nat) (l : Level) : List TensorDecl := i.tensors.filter fun d => (imgPlace i f d).map (·.1) == some l

/-- Bytes of tier A that a plan needs, with the undo area and the snapshot area (R88). -/
def imgNeedA (i : Image) (f : Nat) : Nat :=
  let undo := match i.undoArea with | some a => inBlocks a | none => 0
  let snap := match i.ckptAreas with
    | some a => if i.undoArea.isSome then 0 else inBlocks a.1
    | none => 0
  sumOf ((imgAt i f .tierA).map fun d => inBlocks d.bytes) + undo + snap

/-- Bytes of tier B that a plan needs, with the drain area, the step-record log and the spilled tensors. -/
def imgNeedB (i : Image) (f : Nat) (spilled : Nat) : Nat :=
  let drain := match i.ckptAreas with | some a => inBlocks a.2.2 | none => 0
  sumOf ((imgAt i f .tierB).map fun d => inBlocks d.bytes) + drain + inBlocks (512 * i.recordLen) + spilled

/-- The shortest prefix of the annex that totals at least `short` bytes, and its bytes (R85); none where the whole annex is less. -/
def annexPrefix (i : Image) : List Nat → Nat → Option (List Nat × Nat)
  | _, 0 => some ([], 0)
  | [], _ + 1 => none
  | id :: r, short =>
    let n := match i.tensors.find? fun d => d.id == id with | some d => inBlocks d.bytes | none => 0
    (annexPrefix i r (short - n)).map fun q => (id :: q.1, n + q.2)

/-- Bytes that the whole annex totals. -/
def annexTotal (i : Image) : Nat :=
  sumOf (i.annex.map fun id => match i.tensors.find? fun d => d.id == id with | some d => inBlocks d.bytes | none => 0)

/-- First byte of tier B past everything the plan puts there: spilled tensors follow (log entry 22). -/
def imgEndB (i : Image) (f : Nat) : Nat :=
  maxOf ((imgAt i f .tierB).map (fun d => match imgPlace i f d with | some q => q.2 + inBlocks d.bytes | none => 0)
    ++ [i.recordBase + inBlocks (512 * i.recordLen)]
    ++ (match i.ckptAreas with | some a => [a.2.1 + inBlocks a.2.2] | none => []))

/-- Tier A tensors that stay, in ascending id, packed from window offset 0, and where they end (log entry 22). -/
def imgPackA (i : Image) (f : Nat) (spilled : List Nat) : List (Nat × Level × Nat) × Nat :=
  let ds := (imgAt i f .tierA).filter fun d => !spilled.contains d.id
  (ascending (ds.map (·.id))).foldl (fun (acc : List (Nat × Level × Nat) × Nat) id =>
    let n := match ds.find? fun d => d.id == id with | some d => inBlocks d.bytes | none => 0
    (acc.1 ++ [(id, Level.tierA, acc.2)], acc.2 + n)) ([], 0)

/-- The tensor base table: every tensor's level and base, spilled ones in tier B. -/
def imgTable (i : Image) (f : Nat) (spilled : List Nat) : List (Nat × Level × Nat) :=
  let moved := (spilled.foldl (fun (acc : List (Nat × Level × Nat) × Nat) id =>
    let n := match i.tensors.find? fun d => d.id == id with | some d => inBlocks d.bytes | none => 0
    (acc.1 ++ [(id, Level.tierB, acc.2)], acc.2 + n)) ([], inBlocks (imgEndB i f))).1
  moved ++ (imgPackA i f spilled).1 ++ i.tensors.filterMap fun d =>
    match imgPlace i f d with
    | some (.tierA, _) => none
    | some q => some (d.id, q.1, q.2)
    | none => none

/-- Base of the undo or snapshot area: past the tier A tensors (log entry 22). -/
def Prog.areaA (p : Prog) : Nat := (imgPackA p.image p.foldLog2 p.spilled).2

/-- Tensor ids of a kind. -/
def imgIds (i : Image) (f : TensorDecl → Bool) : List Nat := (i.tensors.filter f).map (·.id)

/-! ## Seats (R22, R74, R95, R118, R134, R173, R227) -/

/-- Bytes of a segment's bundles. -/
def segBytes (l : List (BitVec 256)) : List Byte := l.flatMap fun b => natLe 32 b.toNat

/-- A bank that holds a segment, zero elsewhere. -/
def segBank (l : List (BitVec 256)) : Tbl Byte := putBytes [] 0 (segBytes l)

/-- A tile under a new schedule: banks written, the registers of R95 and R118 zero, lane generators zero (R174), the draw context of
R169 with the rounding domain `dom`. The stores and the fault and flag registers stay. It stands at its marker until the first tick begins. -/
def Tile.seated (x : Tile) (j f dom : Nat) (segs : List (List (BitVec 256))) : Tile :=
  { Tile.init with store := x.store, bank0 := segBank (segs.getD 0 []), bank1 := segBank (segs.getD 1 []), flags := x.flags,
                   satRetries := x.satRetries, residues := x.residues, tfault := x.tfault, faultQueue := x.faultQueue,
                   faultPc := x.faultPc, frozen := false, live := true, eot := true, position := j, lam := j * 2 ^ f,
                   drawDomain := BitVec.ofNat 16 dom }

/-- A position's flag and count registers at PROG_START (R95). -/
def Tile.counted0 (x : Tile) : Tile := { x with flags := 0, satRetries := 0, residues := 0 }

/-- The physical tile of position j of a hull. -/
def seatOf (pods : List Nat) (j : Nat) : Nat := 16 * pods.getD (j / 16) 0 + j % 16

/-- The share of the k-th pod of a hull under a plan; 0 where it holds no position (R82, R90). -/
def podShareOf (i : Image) (f k : Nat) : Nat :=
  if 16 * k < imgPositions i f then (match imgFold i f with | some q => q.podShares.getD k 0 | none => 0) else 0

/-- The pod shares of a plan together (R82). -/
def planShare (i : Image) (f : Nat) : Nat := sumOf ((upFrom 0 ((imgPositions i f + 15) / 16)).map (podShareOf i f))

/-- The loader sets the pod shares of the plan in force (R90). -/
def State.setShares (s : State) (h : Nat) (p : Prog) : State :=
  let pods := s.podsOf h
  (upFrom 0 pods.length).foldl (fun s k =>
    let pd := pods.getD k 0
    s.setPod pd { s.pod pd with share := podShareOf p.image p.foldLog2 k }) s

/-- Seats a program: positions over the hull's pods in ascending order; pods with a position are ACTIVE (R459), with their shares. -/
def State.seat (s : State) (h : Nat) (p : Prog) : State :=
  let pods := s.podsOf h
  let n := imgPositions p.image p.foldLog2
  let plan := p.fold
  let segs := match plan with | some q => q.segments | none => []
  let s := (upFrom 0 pods.length).foldl (fun s k =>
    let pd := pods.getD k 0
    let used := decide (16 * k < n)
    let x := s.pod pd
    s.setPod pd { x with state := if used then .active else .idle, posBase := if used then 16 * k else 0, hold := 0, tickCycle := 0,
                         share := podShareOf p.image p.foldLog2 k, landings := [], reqs := [] }) s
  let s := (pods.flatMap fun pd => upFrom (16 * pd) 16).foldl (fun s t =>
    s.updTile t fun x => { x with live := false }) s
  (upFrom 0 n).foldl (fun s j => s.updTile (seatOf pods j) fun x => x.seated j p.foldLog2 (p.image.geometry.domains.headD 0) segs) s

/-- The home pod of a logical tile (R71): that of the tile that holds it, and before a start that of the seat it will take (R22). -/
def State.homePod (s : State) (h lam : Nat) : Nat :=
  match s.tileOfLam h lam with
  | some t => podOf t
  | none =>
    let f := match (s.hull h).prog with | some p => p.foldLog2 | none => 0
    podOf (seatOf (s.podsOf h) (lam / 2 ^ f))

/-- Creates the sync objects of the image's table, each at generation 0 (R134); earlier ones of the hull are gone. -/
def State.createSync (s : State) (h : Nat) (i : Image) : State :=
  let s := { s with sync := s.sync.filter fun o => o.2.hull != h }
  i.sync.foldl (fun s d =>
    let o : SyncObj :=
      { kind := d.kind, hull := h, home := d.home, pod := s.homePod h d.home, timeout := if d.timeout = 0 then 4 else d.timeout,
        holdLimit := d.holdLimit, param := d.param, init := d.init, value := d.init, gen := 0, broken := false, holder := none,
        heldTicks := 0, former := [], held := [], waiters := [] }
    { s with sync := tput s.sync d.id o }) s

/-- Sync objects are homed anew under the fold in force (R71). -/
def State.rehome (s : State) (h : Nat) : State :=
  { s with sync := s.sync.map fun o => if o.2.hull = h then (o.1, { o.2 with pod := s.homePod h o.2.home }) else o }

/-- The engines that the running image declares, by number: those of a pod that holds one of its positions (R227). -/
def State.declared (s : State) (h : Nat) (p : Prog) : List (EngineDecl × Nat) :=
  p.image.engines.filterMap fun d =>
    if 16 * d.podIx < imgPositions p.image p.foldLog2 then (s.podsOf h)[d.podIx]?.map fun pd => (d, 2 * pd + d.eng) else none

/-- Declared engines enter TILE mode with their structures freed (R227, R228). -/
def State.claimEngines (s : State) (h : Nat) (p : Prog) : State :=
  (s.declared h p).foldl (fun s (d : EngineDecl × Nat) =>
    s.setEng d.2 { (s.eng d.2).idled with tileMode := true, bankBase := d.1.bankBase, bankCount := d.1.bankCount, structs := [] }) s

/-! ## Boundary marks (R217, R261, R362) -/

/-- The carry list: persistent and twin tensors, and what the image lists beside them (R347). -/
def Prog.carry (p : Prog) : List Nat := ascending (imgIds p.image fun d => d.carry || d.persistent || d.twin)

/-- Persistent tensors in ascending id. -/
def Prog.persistent (p : Prog) : List Nat := ascending (imgIds p.image fun d => d.persistent)

/-- The blocks of a list of tensors: (tensor, block). -/
def Prog.blocks (p : Prog) (ids : List Nat) : List (Nat × Nat) :=
  ids.flatMap fun id => (blocksOf 0 (p.bytesOf id)).map fun i => (id, i)

/-- Marks tensors SNAPSHOT into an area of the tier A window, block after block (log entry 23). A block's copy of an earlier mark
is freed by its new mark. -/
def State.markInto (s : State) (h : Nat) (p : Prog) (ids : List Nat) (base : Nat) : State :=
  let bs := p.blocks ids
  (upFrom 0 bs.length).foldl (fun s k =>
    let b := bs.getD k (0, 0)
    match s.blockKey h p b.1 b.2, (s.hull h).find false (base / 4096 + k) with
    | some src, some d => s.mark h src (false, blkPer false * d.1 + d.2)
    | _, _ => s) s

/-- The mark of R261 at a step boundary. -/
def State.markUndo (s : State) (h : Nat) : State :=
  match (s.hull h).prog with
  | some p => match p.image.undoArea with | some _ => s.markInto h p p.carry p.areaA | none => s
  | none => s

/-- Restores every block of the carry list that was copied since the boundary, payload and husk, in ascending block order, and clears
the marks (R261). A SNAPSHOT of the program's own elsewhere keeps its marks. -/
def State.restoreUndo (s : State) (h : Nat) : State :=
  let keys := match (s.hull h).prog with
    | some p => (p.blocks p.carry).filterMap fun (b : Nat × Nat) => s.blockKey h p b.1 b.2
    | none => []
  let mine := fun (m : Mark) => m.hull == h && keys.contains (m.tierB, m.key)
  let copies := s.mem.marks.filter fun m => mine m && m.copied
  let s := copies.foldl (fun s m => s.setBlk m.tierB m.key (s.blk m.dstB m.dst)) s
  { s with mem := { s.mem with marks := s.mem.marks.filter fun m => !mine m } }

/-- Records what a restart returns to (R347): the sync objects and where the tiles stand. -/
def State.recordBoundary (s : State) (h : Nat) : State :=
  let tiles := (s.tilesOf h).foldl (fun (l : Tbl TileMark) t =>
    let x := s.tile t
    tput l t { pc := x.pc, bank := x.bank, segment := x.segment, bank0 := x.bank0, bank1 := x.bank1 }) []
  s.setHull h { s.hull h with prog := (s.hull h).prog.map fun p =>
    { p with boundarySync := s.sync.filter fun o => o.2.hull == h, boundaryTiles := tiles } }

/-! ## Placement rounds (R345) and the restart of a step (R347) -/

/-- The world group of a hull. -/
def State.worldGroup (s : State) (h : Nat) : Option (Nat × Group) := s.groups.find? fun g => g.2.hull == h && g.2.state == 2 && g.2.world

/-- A hull's context in its world group's exact-lane tree. -/
def State.worldCtx (s : State) (h : Nat) : Option CCtx :=
  (s.worldGroup h).map fun g =>
    { h := h, g := g.2, gid := g.1, step := (s.hull h).step, lost := g.2.lost.map (·.1),
      e := { op := 0, group := g.1, kind := 6, fmt := 0x11, startId := 0, src := 0, dst := 0, bytes := 64, doneId := 0, startAmount := 1,
             defer := 0 } }

/-- A hull takes a placement generation; its open REDUCE targets are discarded (R221). -/
def State.setGen (s : State) (h : Nat) (g : Word32) : State :=
  let s := s.setHull h { s.hull h with pgen := g, setting := none }
  { s with nmu := { s.nmu with targets := s.nmu.targets.filter fun t => t.hull != h } }

/-- A placement change requests a round: up the tree, at the root held for PLACEMENT_REQUEST. A hull with no world group has no one to
ask and takes the next generation at once (log entry 24). `wait` freezes the hull until the setting comes (R346). -/
def State.placementRound (s : State) (h : Nat) (forced wait : Bool) : State :=
  let x := s.hull h
  match s.worldCtx h with
  | none => s.setGen h (x.pgen + 1)
  | some c =>
    let s := if wait then s.setHull h { x with holds := x.holds ||| 2 } else s
    if c.me = c.root then s
    else s.sendPriv h (c.fid (c.parent c.me)) pkRequest [x.pgen.toNat, b2n forced, s.time.gtc]

/-- A run as the restart leaves it: what was decided stands (R347), records of other members are kept (R349). -/
def OpRun.restarted (r : OpRun) (me : Nat) : OpRun :=
  { OpRun.fresh r.op r.openGtc with decided := r.decided, decisions := r.decisions,
                                    records := r.records.filter fun k => k.pos != me || k.heir }

/-- A tile as a restart leaves it: at its marker, where it stood at the boundary, nothing on its way. -/
def Tile.restarted (x : Tile) (m : TileMark) : Tile :=
  { x with pc := m.pc, bank := m.bank, segment := m.segment, bank0 := m.bank0, bank1 := m.bank1, queues := [], branch := none,
           switchPending := false, wait := none, syncWait := none, resumeIn := 0, eot := true, syncStatus := 0, syncsOut := 0, pend := [],
           ldw := none, mma := none, drain := none, xfer := none, puts := [], slots := 0, dests := [], banks := [], past := false,
           cvtNow := none, stepRetries := 0 }

/-- A member asks for what the others sent it in the step (R348). -/
def State.askResend (s : State) (h : Nat) : State :=
  match s.worldCtx h with
  | some c =>
    let x := s.hull h
    let vals := [s.fid.toNat, x.pgen.toNat, x.step]
    let s := if c.me = c.root then s else s.sendPriv h (c.fid (c.parent c.me)) pkResend vals
    (c.children c.me).foldl (fun s p => s.sendPriv h (c.fid p) pkResend vals) s
  | none => s

/-- The part of a restart that touches the module itself. Decisions stand; the step lists its DEFERRED_IN entries again (R16, R25). -/
def State.restartCore (s : State) (h : Nat) (p : Prog) : State :=
  let s := { s with nmu := { s.nmu with targets := s.nmu.targets.filter fun t => t.hull != h },
                    spine := s.spine.filter fun q => q.hull != h,
                    sync := p.boundarySync.foldl (fun (l : Tbl SyncObj) (o : Nat × SyncObj) => tput l o.1 o.2) s.sync }
  let s := (s.restoreUndo h).markUndo h
  let s := (s.podsOf h).foldl (fun (s : State) pd => s.setPod pd { s.pod pd with reqs := [], landings := [], hold := 0 }) s
  let s := (s.tilesOf h).foldl (fun (s : State) t =>
    match tfind p.boundaryTiles t with
    | some m => s.updTile t fun y => y.restarted m
    | none => s) s
  let s := (s.podsOf h).foldl (fun (s : State) pd => [2 * pd, 2 * pd + 1].foldl (fun (s : State) a =>
    let e := s.eng a
    if e.tileMode then s.setEng a e.idled else s) s) s
  let me := match s.worldCtx h with | some c => c.me | none => 0
  let again := (match p.evalRun with | some (k, _) => [k] | none => []) ++ p.evalQueue
  s.setHull h { s.hull h with prog := some { p with
    tickInStep := 0, between := 1, evalQueue := again, evalRun := none, rerun := true, reopened := true, verdict := none, rollback := false,
    fed := [], entries := p.entries.filter fun e => entryKind e != 3,
    restarts := min (p.restarts + 1) 0xFFFF, ops := p.ops.map fun (r : OpRun) => r.restarted me } }

/-- STEP_RESTART (R347): without an undo area the program stops with FAULT, REASON 5. -/
def State.restartStep (s : State) (h : Nat) : State :=
  let x := s.hull h
  match x.prog with
  | none => s
  | some p =>
    if x.state ≠ .running then s
    else if p.image.undoArea.isNone then s.stopHull h 5 sFAULT true
    else (s.restartCore h p).askResend h

end Sys2Proof.Machine
end

