-- ==== Sys2Proof/Machine/Ticks.lean ====
section
/-!
DEFINITION. Ticks and steps of a hull (R51–R55): TICK_BEGIN with the step boundary, the step record (R28–R38), the checkpoint cut (R362),
evaluation runs (R54), bank switches (R77), reseeds (R173, R174) and background levels (R219); ROLLBACK_COMPLETE (R261).
-/

namespace Sys2Proof.Machine

/-! ## Markers (R76, R139) -/

/-- The tile has reached its end-of-tick marker, its tick-closing wait met (R139). -/
def Tile.atMarker (x : Tile) : Bool := x.eot && x.wait.isNone && x.syncWait.isNone && decide (x.syncsOut = 0)

/-- The tile is quiescent (R76). -/
def State.quiescent (s : State) (t : Nat) : Bool :=
  let x := s.tile t
  x.atMarker && (x.queues.all fun q => q.2.descs.isEmpty) && x.ldw.isNone && x.mma.isNone && x.drain.isNone
    && [s.eng (2 * podOf t), s.eng (2 * podOf t + 1)].all fun e => e.sent.all fun c => c.2.2 != t

/-- Every tile of the hull has reached its marker; one with a pending switch is quiescent (R51, R77). -/
def State.markersDone (s : State) (h : Nat) : Bool :=
  (s.tilesOf h).all fun t => (s.tile t).atMarker && (!(s.tile t).switchPending || s.quiescent t)

/-! ## Reseeds (R173, R174) -/

/-- The rounding domain in force and the step number of draws (R171, R435). -/
def Hull.drawBase (x : Hull) (p : Prog) : Nat × Nat :=
  match p.evalRun with
  | some (k, _) => (match p.image.evals[k]? with | some e => e.domains.headD 0 | none => 0, x.step - 1)
  | none => (p.image.geometry.domains.headD 0, x.step)

/-- Reseeds a tile for a logical tile and a logical tick. -/
def State.reseed (s : State) (h t lam rho : Nat) : State :=
  let x := s.hull h
  match x.prog with
  | some p =>
    let b := x.drawBase p
    let d := reseedState (laneSeedBlock x.k0 x.k1 b.1 b.2 lam rho)
    s.updTile t fun y => { y with laneA := d.1, laneB := d.2, laneDraws := [], lam := lam, pass := lam % 2 ^ p.foldLog2 }
  | none => s

/-- The reseed list in force: the schedule's, or that of the evaluation run. -/
def Prog.reseedList (p : Prog) : List Reseed :=
  match p.evalRun with
  | some (k, _) =>
    match p.image.evals[k]?, p.image.folds.findIdx? (fun q => q.foldLog2 == p.foldLog2) with
    | some e, some i => e.reseeds.getD i []
    | _, _ => []
  | none => match p.fold with | some q => q.reseeds | none => []

/-- Under a fold factor above 1, a reseed before the bundle at a reseed point issues. -/
def State.reseedPoint (s : State) (t : Nat) : State :=
  let h := (s.pod (podOf t)).hull
  let x := s.tile t
  match (s.hull h).prog with
  | some p =>
    if p.foldLog2 = 0 then s
    else
      match p.reseedList.find? fun r => r.position == x.position && r.segment == x.segment && r.bundle == x.pc.toNat with
      | some r => s.reseed h t r.lam r.rho
      | none => s
  | none => s

/-! ## Background levels (R218–R220) -/

/-- The level of R219 from the old one. -/
def nextLevel (b t old : Nat) : Nat := if b > 4 * t then 2 else if t < b ∧ old = 0 then 1 else if 2 * b < t then 0 else old

/-- BG_LEVEL_EVAL: every unit evaluates an owner's level; a rise sets BG_URGENT. An owner whose extraction runs stays at 2 (R362). -/
def State.evalLevels (s : State) (owner : Nat) : State :=
  let t := max 1 (s.regF 0x080010 33 16)
  let held := decide (owner ≠ 0) && (s.hull owner).ckpt.state == 2
  if held then s
  else (upFrom 0 12).foldl (fun s u =>
    let k := 8 * u + owner
    let b := tget (0, 0, 0) s.nmu.backlog k
    let old := tget 0 s.nmu.level k
    let new := nextLevel (max (s.scrubBacklog u owner) (max b.2.1 b.2.2)) t old
    let s := { s with nmu := { s.nmu with level := tset 0 s.nmu.level k new } }
    if new > old then s.event evNmu 0 256 else s) s

/-! ## The step record (R28–R38) -/

/-- The order of R33. -/
def entryKey (e : Word) : Nat :=
  let v := e.toNat
  ((bitsOf v 47 32 * 2 ^ 12 + bitsOf v 11 0) * 2 ^ 16 + bitsOf v 31 16) * 2 ^ 4 + bitsOf v 15 12

/-- Entries in the order of R33. -/
def sortEntries (l : List Word) : List Word :=
  l.foldl (fun acc x => (acc.takeWhile fun y => entryKey y ≤ entryKey x) ++ [x] ++ acc.dropWhile fun y => entryKey y ≤ entryKey x) []

/-- The verdict of the step in progress, if it has arrived. -/
def Hull.verdict (x : Hull) : Option Verdict := match x.prog with | some p => p.verdict.filter fun v => v.step == x.step | none => none

/-- The program reduces a verdict (R264). -/
def Prog.hasVerdict (p : Prog) : Bool := !p.twinOnly && p.image.coll.any fun e => e.kind == ckExact && e.fmt == 0x11

/-- NORM_BITS (R267). -/
def Prog.normBits (p : Prog) (v : Option Verdict) : Nat :=
  match v with
  | some v =>
    if v.cause = 1 then 0x7FF8000000000000
    else if p.image.computesNorm then (encodeF fp64 .rne (.fin (decide (v.sum.toInt < 0)) v.sum.toInt.natAbs (-149))).1 else 0
  | none => 0

/-- The drops that R34 adds: a deferred contribution that the step did not list as DEFERRED_IN or that a skip discards. -/
def Prog.missed (p : Prog) (skipped : Bool) : List Word :=
  p.deferred.filterMap fun d =>
    let inn := entryWord d.2.1 3 d.2.2 d.1
    let out := entryWord d.2.1 2 d.2.2 d.1
    if p.entries.contains out ∨ (p.entries.contains inn ∧ !skipped) then none else some out

/-- Contributions that a step's entries defer out of it (R34); none from a skipped step (R36, R37). -/
def deferredOf (entries : List Word) (skipped : Bool) : List (Nat × Nat × Nat) :=
  if skipped then []
  else (entries.filter fun e => entryKind e == 1).map fun e =>
    (bitsOf e.toNat 47 32, bitsOf e.toNat 11 0, bitsOf e.toNat 31 16)

/-- Replaces bytes of a list. -/
def patch (l : List Byte) (a : Nat) (b : List Byte) : List Byte := l.take a ++ b ++ l.drop (a + b.length)

/-- RECORD_CHECK (R30): CRC-32C with the field itself taken as zero. -/
def sealRecord (l : List Byte) : List Byte :=
  let z := patch l 0xF8 (zeros 8)
  patch z 0xF8 (natLe 8 (crc32c z).toNat)

/-- The entries and REFORM_COUNT of the record of the step in progress: in replay, those of the supplied record (R27, R42). -/
def State.recordEntries (s : State) (h : Nat) (p : Prog) (skipped : Bool) : List Word × Nat :=
  let step := (s.hull h).step
  match p.replayEntries step, p.replayRecord step with
  | some es, some r => (es, fieldLe r 0xCB 1)
  | _, _ =>
    let rs := s.reformEntries p step
    (p.entries ++ p.missed skipped ++ rs.map (·.1), min (rs.filter (·.2)).length 255)

/-- The 512 bytes of the record of the step in progress, at a step boundary. -/
def State.recordBytes (s : State) (h : Nat) (p : Prog) (entries : List Word) (reforms : Nat) (state : BitVec 256) : List Byte :=
  let x := s.hull h
  let v := x.verdict
  let es := (sortEntries entries).take 32
  let skipped := match v with | some v => v.skipped | none => false
  let cause := match v with | some v => v.cause | none => 0
  let has := fun k => es.any fun e => entryKind e == k
  let fl := b2n skipped + bitAt (cause == 1) 1 + bitAt (has 3) 2 + bitAt (has 4) 3 + bitAt (p.replayEntries x.step).isSome 4
  let retries := min (sumOf ((s.tilesOf h).map fun t => (s.tile t).stepRetries)) 0xFFFFFFFF
  sealRecord
    (natLe 2 1 ++ natLe 1 h ++ natLe 1 p.foldLog2 ++ natLe 4 fl ++ natLe 8 (x.step % 2 ^ 40) ++ natLe 8 (p.firstTick % 2 ^ 48)
      ++ natLe 4 (p.tickInStep + 1) ++ natLe 4 (p.image.geometry.worldRank % 65536) ++ natLe 32 p.image.digest.toNat
      ++ natLe 32 p.geoDigest.toNat ++ natLe 8 (keyCheck x.k0 x.k1).toNat ++ natLe 8 p.gtcStart ++ natLe 8 s.time.gtc
      ++ natLe 4 (min p.slipNs 0xFFFFFFFF) ++ natLe 4 retries ++ natLe 32 p.inputDigest.toNat ++ natLe 32 state.toNat
      ++ natLe 8 (p.normBits v) ++ natLe 2 es.length ++ natLe 1 cause ++ natLe 1 reforms ++ natLe 4 p.evals.length
      ++ zeros 40 ++ zeros 8 ++ es.flatMap (fun e => natLe 8 e.toNat) ++ zeros (256 - 8 * es.length))

/-- Writes a record into the hull's step-record log: slot STEP modulo its length (log entry 25). -/
def State.putRecord (s : State) (h : Nat) (p : Prog) (step : Nat) (b : List Byte) : State :=
  (s.winWrite h true (p.image.recordBase + 512 * (step % max 1 p.image.recordLen)) b).stopIfLost h 0 0

/-- The provenance digest (R40). -/
def provenance (p : Prog) (weights input : BitVec 256) (key : Word) (step : Nat) : List Byte :=
  sha256Bytes (natLe 32 p.image.digest.toNat ++ natLe 32 p.geoDigest.toNat ++ natLe 32 weights.toNat ++ natLe 32 input.toNat
    ++ natLe 8 key.toNat ++ natLe 8 step)

/-- The 64-byte trailer of R40 in the step in progress; forming it reads the weights. -/
def State.provTrailer (s : State) (h : Nat) (p : Prog) : State × List Byte :=
  let x := s.hull h
  let w := s.regionDigest h p (imgIds p.image fun d => d.weight)
  (w.1, provenance p w.2 p.inputDigest (keyCheck x.k0 x.k1) x.step ++ natLe 8 x.step ++ natLe 8 p.image.geometry.worldRank ++ zeros 16)

/-- Trailers of the output tensors that the program marks for provenance (R40), after each tensor's last block. -/
def State.trailers (s : State) (h : Nat) (p : Prog) : State :=
  let outs := imgIds p.image fun d => d.provenance
  if outs.isEmpty then s
  else
    let t := s.provTrailer h p
    outs.foldl (fun s id => s.collWrite h id (inBlocks (p.bytesOf id)) t.2) t.1

/-- STEP_RECORD_WRITE: the entries that R34 adds, the record, its slot, the trailers; a twin-only module writes none (R278). -/
def State.writeStepRecord (s : State) (h : Nat) : State :=
  match (s.hull h).prog with
  | some p =>
    if p.twinOnly then s
    else
      let x := s.hull h
      let skipped := match x.verdict with | some v => v.skipped | none => false
      let es := s.recordEntries h p skipped
      let d := s.regionDigest h p p.persistent
      if (d.1.hull h).state ≠ .running then d.1
      else
        let b := d.1.recordBytes h p es.1 es.2 d.2
        let s := d.1.putRecord h p x.step b
        let s := s.setHull h { s.hull h with prog := (s.hull h).prog.map fun q =>
          { q with record := b, prevState := d.2, entries := es.1, deferred := deferredOf es.1 skipped,
                   undrained := if p.image.ckptAreas.isSome then q.undrained ++ [x.step] else q.undrained } }
        if (s.hull h).state ≠ .running then s else s.trailers h p
  | none => s

/-! ## The checkpoint cut (R361–R363) -/

/-- A sync object is in its sync-table initial state (R361). -/
def SyncObj.initial (o : SyncObj) : Bool :=
  o.waiters.isEmpty && o.holder.isNone && o.held.isEmpty && decide (o.value = if o.kind = 0 then o.init else 0)

/-- CKPT_CUT: at the boundary of the checkpoint's step. The mark is that of R261 where the image declares an undo area. -/
def State.ckptCut (s : State) (h step : Nat) : State :=
  let x := s.hull h
  match x.prog with
  | some p =>
    let c := x.ckpt
    if c.state ≠ 1 ∨ !(c.armedStep.isNone || c.armedStep == some step) then s
    else if !((s.sync.filter fun o => o.2.hull == h).all fun o => o.2.initial) then s.ckptFail h 1
    else
      let s := match p.image.undoArea, p.image.ckptAreas with
        | none, some _ => s.markInto h p p.persistent p.areaA
        | _, _ => s
      let s := s.setHull h { s.hull h with ckpt := { c with state := 2, step := step, full := c.wantFull || c.mustFull } }
      (upFrom 0 12).foldl (fun s u => { s with nmu := { s.nmu with level := tset 0 s.nmu.level (8 * u + h) 2 } }) s
  | none => s

/-! ## Slip (R51, R52) -/

/-- The tick just ended slipped by `slip` ns: summed, and an overrun where it passes the threshold; a tick under throttle or in a
record-log wait is never one. -/
def State.tickSlip (s : State) (h slip : Nat) (counted : Bool) : State :=
  match (s.hull h).prog with
  | some p =>
    let limit := min (s.regF 0x010020 29 16) s.periodUs
    let exempt := p.throttled || p.logWait
    let over_ := !exempt && decide (slip > 1000 * limit)
    let p' := { p with slipNs := if counted then min (p.slipNs + slip) 0xFFFFFFFF else p.slipNs,
                       overruns := if exempt then p.overruns else if over_ then p.overruns + 1 else 0 }
    let s := s.setHull h { s.hull h with prog := some p' }
    if over_ then s.event evTime 2 66 else s
  | none => s

/-! ## Conditions of a begin (R51, R259, R362, R29) -/

/-- Every update of the step has retired (R259). -/
def State.updatesDone (s : State) (h : Nat) : Bool :=
  (s.tilesOf h).all fun t => (s.tile t).queues.all fun q => q.2.descs.all fun d => !(d.kind == 4 && d.op == 2)

/-- The boundary of the step in progress may pass. -/
def State.boundaryReady (s : State) (h : Nat) : Bool :=
  let x := s.hull h
  match x.prog with
  | some p =>
    let v := x.verdict
    (!p.hasVerdict || v.isSome) && s.updatesDone h
      && (!(p.image.eager && (match v with | some v => v.skipped | none => false)) || p.rollback)
      && x.ckpt.state != 2
  | none => false

/-- The next record would overwrite one that no completed checkpoint has drained (R29). -/
def Hull.logFull (x : Hull) : Bool :=
  match x.prog with
  | some p =>
    let n := max 1 p.image.recordLen
    p.image.ckptAreas.isSome && p.undrained.any fun d => d % n == x.step % n
  | none => false

/-- Ticks of a step under the fold in force (R53). -/
def Prog.ticks (p : Prog) : Nat := match p.fold with | some q => max 1 q.ticks | none => 1

/-! ## A tick begins -/

/-- Tiles enter the new tick, from the next cycle on: a pending bank switch takes effect (R77), the rest go on after their marker. The
schedule of a step and that of an evaluation run each begin with segment 0 (log entries 5 and 95); `segments` of them repeat, without end
where it is 0. -/
def Tile.tickBegin (x : Tile) (segments : Nat) (first : Bool) : Tile :=
  let x := if x.switchPending then
      { x with bank := !x.bank, pc := 0, segment := (x.segment + 1) % segments, switchPending := false, past := false }
    else x
  { x with segment := if first then 0 else x.segment, eot := false, issued := 0, resumeIn := max x.resumeIn 1 }

/-- Calls whose answers lie in ANS_SEM when a tick ends keep whether an event was recorded in it (R387). -/
def State.gateCalls (s : State) (p : Prog) : List Call :=
  let due := fun (svc : Nat) => match p.image.services[svc]?.bind fun d => tfind s.sync d.ansSem with | some o => o.value | none => 0
  let go := fun (acc : List Call × List Nat) (k : Call) =>
    let before := (acc.2.filter (· == k.svc)).length
    (acc.1 ++ [if before < due k.svc then { k with dirty := k.dirty || p.dirtyTick } else k], k.svc :: acc.2)
  (p.calls.foldl go ([], [])).1

/-- The common part of a tick's begin: number, begin time, tiles, reseeds at fold factor 1, leases, levels. -/
def State.openTick (s : State) (h rho : Nat) : State :=
  let x := s.hull h
  let s := s.setHull h { x with tick := (x.tick + 1) % 2 ^ 48, tickStart := s.time.gtc,
                                prog := x.prog.map fun p =>
                                  { p with calls := s.gateCalls p, dirtyTick := false, throttled := decide (s.board.throttle > 0) } }
  let segs := match x.prog with
    | some p => if p.evalRun.isSome then 0 else (match p.fold with | some q => max 1 q.segments.length | none => 1)
    | none => 1
  let f := match x.prog with | some p => p.foldLog2 | none => 0
  let s := (s.tilesOf h).foldl (fun s t =>
    let s := s.updTile t fun y => y.tickBegin segs (rho == 0)
    if f = 0 then s.reseed h t (s.tile t).lam rho else s.reseedPoint t) s
  let s := (s.podsOf h).foldl (fun s pd => s.setPod pd { s.pod pd with tickCycle := 0 }) s
  let held := fun (o : Nat × SyncObj) =>
    if o.2.hull = h ∧ o.2.holder.isSome then (o.1, { o.2 with heldTicks := o.2.heldTicks + 1 }) else o
  let s := { s with sync := s.sync.map held }
  ((s.accrueScrub).evalLevels h).evalLevels 0

/-- The record-log wait begins: a firmware hold, LOG_FULL and interrupt 70 (R29). -/
def State.logHold (s : State) (h : Nat) : State :=
  let x := s.hull h
  match x.prog with
  | some p =>
    if p.logWait then s
    else (s.setHull h { x with holds := x.holds ||| 16, prog := some { p with logWait := true } }).event evTime 6 70
  | none => s

/-- The record-log wait is over. -/
def State.logFreed (s : State) (h : Nat) : State :=
  let x := s.hull h
  s.setHull h { x with holds := x.holds &&& 0b01111, prog := x.prog.map fun p => { p with logWait := false } }

/-- The first tick of a step begins: in replay with the re-forms of its record, the retries of R103 counted anew. -/
def State.openStep (s : State) (h : Nat) : State :=
  let s := s.replayReforms h
  match (s.hull h).prog with
  | some p =>
    let d := s.regionDigest h p (imgIds p.image fun d => d.input)
    if (d.1.hull h).state ≠ .running then d.1
    else
      let s := (d.1.tilesOf h).foldl (fun s t => s.updTile t fun y => { y with stepRetries := 0 }) d.1
      let x := s.hull h
      let s := s.setHull h { x with prog := x.prog.map fun p =>
        { p with between := 0, tickInStep := 0, evalRun := none, evalQueue := [], firstTick := x.tick + 1, gtcStart := s.time.gtc,
                 inputDigest := d.2, reopened := false } }
      s.openTick h 0
  | none => s

/-- What begins at a step boundary: the next evaluation run of the window, else the first tick of the step (R54). -/
def State.openWindow (s : State) (h : Nat) : State :=
  match (s.hull h).prog with
  | some p =>
    match p.evalQueue with
    | k :: rest =>
      let n := match p.image.evals[k]? with | some e => e.ticks | none => 1
      let s := s.setHull h { s.hull h with prog := some { p with evalRun := some (k, n), evalTicks := 0, evalQueue := rest } }
      s.openTick h 0
    | [] => s.openStep h
  | none => s

/-- The largest step number (R55). -/
def maxStep : Nat := 0xFFFFFFFFFF

/-- A reclaim, probe or bypass of the hull waits for its fold point (R341, R392, R394). -/
def State.foldWaits (s : State) (h : Nat) : Bool :=
  (match (s.hull h).reclaims with | r :: _ => r.phase == 1 | [] => false) || (s.podsOf h).any fun pd => (s.pod pd).leaving.isSome

/-- The hull folds at its next step boundary: for one of those, or to use pods granted while it ran (R338). -/
def State.foldDue (s : State) (h : Nat) : Bool := s.foldWaits h || (s.hull h).newPods

/-- At a forced fold point the hull is held at its next tick boundary (R341). -/
def State.forcedHold (s : State) (h : Nat) (go : State) : State :=
  let x := s.hull h
  if x.foldForced && s.foldWaits h then s.setHull h { x with holds := x.holds ||| 1 } else go

/-- A hull's numbers at a passed boundary: the step number advances (R53), except past the largest (R55); what belongs to the step
that ended is gone. -/
def Hull.nextStep (x : Hull) (p : Prog) (gtc : Nat) : Hull :=
  let step := if x.step ≥ maxStep then x.step else x.step + 1
  { x with step := step,
           prog := some { p with tickInStep := 0, between := 1, boundaryGtc := gtc, slipNs := 0, entries := [], verdict := none, fed := [],
                                 ops := [], rerun := false, rollback := false, evalQueue := p.evals, evals := [],
                                 ledger := p.ledger.filter fun l => decide (step ≤ l.step + 1) } }

/-- STEP_BOUNDARY (R53): the record, the cut, the twins' digests, the next step's number, then the stops that fall on the boundary, or
the undo marks and what else takes effect there. A shard that was SUSPECT or LOST before this boundary stops the program (R271). -/
def State.passBoundary (s : State) (h : Nat) : State :=
  let s := s.writeStepRecord h
  let x := s.hull h
  match x.prog, x.state with
  | some p, .running =>
    let bad := p.shards.any fun q => q.state == .suspect || q.state == .lost
    let s := ((s.ckptCut h x.step).twinDigests h x.step).twinBoundary h
    let x := s.hull h
    match x.prog, x.state with
    | some p, .running =>
      let s := s.setHull h (x.nextStep p s.time.gtc)
      if bad then (s.stopHull h 3 sFAULT true).raise 98
      else if x.step ≥ maxStep then s.stopHull h 2 sDONE false
      else if !p.stops.isEmpty then s.stopHull h 1 sDONE false
      else
        let step := x.step + 1
        let s := match (s.hull h).setting with
          | some (g, st) => if st ≤ step then s.setGen h g else s
          | none => s
        let s := (s.markUndo h).recordBoundary h
        if s.foldDue h then s.setHull h { s.hull h with holds := (s.hull h).holds ||| 1 } else s
    | _, _ => s
  | _, _ => s

/-- Nothing but the record-log wait holds the hull. -/
def Hull.free (x : Hull) : Bool := !x.halted && x.holds &&& 0b01111 == 0

/-- At a boundary that has passed: the record-log wait (R29), else what begins next, with the rest of the last tick's slip. The boundary
passes when that begins (R53), so GTC_END and SLIP_NS of the record just written follow it; after the restart of a step the
boundary has passed before, its record stands, and the slip is the step's own. A tick that a record-log wait made late is exempt in
R52, no later one (log entry 70). -/
def State.leaveBoundary (s : State) (h : Nat) : State :=
  let x := s.hull h
  match x.prog with
  | some p =>
    if !x.free then s
    else if x.logFull then s.logHold h
    else
      let extra := s.time.gtc - p.boundaryGtc
      let s := if p.reopened ∨ extra = 0 ∨ p.record.isEmpty then s
        else
          let b := sealRecord (patch (patch p.record 0x70 (natLe 8 s.time.gtc)) 0x78
            (natLe 4 (min (fieldLe p.record 0x78 4 + extra) 0xFFFFFFFF)))
          let s := s.putRecord h p (x.step - 1) b
          s.setHull h { s.hull h with prog := (s.hull h).prog.map fun q => { q with record := b } }
      if (s.hull h).state ≠ .running then s
      else ((s.tickSlip h (s.time.gtc - (x.tickStart + 1000 * s.periodUs)) p.reopened).logFreed h).openWindow h
  | none => s

/-- TICK_BEGIN (R51). -/
def execTickBegin (h : Nat) (m : List Meet) (s : State) : Outcome :=
  .next (s.meeting m fun s =>
    let x := s.hull h
    match x.prog, x.state with
    | some p, .running =>
      if p.state ≠ 3 ∨ !x.free then s
      else if p.stops.any (·.1) then s.stopHull h 1 sDONE false
      else if p.between = 2 then
        -- tick 0 of a start (R51)
        if s.time.gtc < x.launch then s
        else if x.logFull then s.logHold h
        else (((s.logFreed h).markUndo h).recordBoundary h).openStep h
      else if s.time.gtc < x.tickStart + 1000 * s.periodUs then s
      else if p.between = 1 ∧ p.evalRun.isNone then s.leaveBoundary h
      else if !s.markersDone h then s
      else
        let slip := s.time.gtc - (x.tickStart + 1000 * s.periodUs)
        match p.evalRun with
        | some (k, n) =>
          let s := s.tickSlip h slip false
          if n > 1 then
            let s := s.setHull h { s.hull h with prog := (s.hull h).prog.map fun p =>
              { p with evalRun := some (k, n - 1), evalTicks := p.evalTicks + 1 } }
            s.forcedHold h (s.openTick h (p.evalTicks + 1))
          else
            let s := s.setHull h { s.hull h with prog := (s.hull h).prog.map fun p =>
              { p with evalRun := none, evalsDone := min (p.evalsDone + 1) 0xFFFFFFFF } }
            s.openWindow h
        | none =>
          if p.tickInStep + 1 < p.ticks then
            let s := s.tickSlip h slip true
            let s := s.setHull h { s.hull h with prog := (s.hull h).prog.map fun p => { p with tickInStep := p.tickInStep + 1 } }
            s.forcedHold h (s.openTick h (p.tickInStep + 1))
          else if !s.boundaryReady h then s
          else
            let q := { p with slipNs := min (p.slipNs + slip) 0xFFFFFFFF }
            let s := (s.setHull h { x with prog := some q }).passBoundary h
            match (s.hull h).prog, (s.hull h).state with
            | some p, .running => if p.between = 1 then s.leaveBoundary h else s
            | _, _ => s
    | _, _ => s)

/-- ROLLBACK_COMPLETE (R261): in an EAGER image whose verdict skips the step, every block copied since the boundary is restored. -/
def execRollbackComplete (h : Nat) (m : List Meet) (s : State) : Outcome :=
  .next (s.meeting m fun s =>
    let x := s.hull h
    match x.prog, x.verdict, x.state with
    | some p, some v, .running =>
      if !p.image.eager ∨ !v.skipped ∨ p.rollback ∨ !s.updatesDone h then s
      else
        let s := s.restoreUndo h
        s.setHull h { s.hull h with prog := (s.hull h).prog.map fun p => { p with rollback := true } }
    | _, _, _ => s)

end Sys2Proof.Machine
end

