-- ==== Sys2Proof/Machine/Cmds.lean ====
section
/-!
DEFINITION. What every command packet shares (R415–R418, R421, R462): identity and rights of the caller, the checks made before an
opcode's own rules, and reads of a window and of host memory.
-/

namespace Sys2Proof.Machine

/-! ## Callers (R418) -/

def State.caller (s : State) (c : Cmd) : Half :=
  match c.org with
  | .ring r => (s.ring r).caller
  | .udp e => (s.endp e).caller

/-- Operator right: a host ring with OPERATOR set. -/
def State.isOperator (s : State) (c : Cmd) : Bool :=
  match c.org with
  | .ring r => (s.ring r).operator
  | .udp _ => false

/-- Host link right: every host ring. -/
def isHostLink (c : Cmd) : Bool :=
  match c.org with
  | .ring _ => true
  | .udp _ => false

/-- Hull owner. -/
def State.ownsHull (s : State) (c : Cmd) (h : Nat) : Bool := s.caller c == (s.hull h).owner && (s.hull h).owner != 0

/-! ## The opcode index (R430) -/

def opcodes : List Nat :=
  [0x0100, 0x0101, 0x0110, 0x0111, 0x0200, 0x0201, 0x0202, 0x0203, 0x0204, 0x0300, 0x0301, 0x0302, 0x0303, 0x0304, 0x0305, 0x0400,
   0x0401, 0x0402] ++
  [0x0500, 0x0501, 0x0502, 0x0510, 0x0511, 0x0600, 0x0601, 0x0602, 0x0603, 0x0700, 0x0701, 0x0702, 0x0703, 0x0800, 0x0801, 0x0802,
   0x0900, 0x0901, 0x0902, 0x0A00, 0x0A01]

/-- Allowed over UDP (R426). -/
def udpOpcodes : List Nat := [0x0101, 0x0111, 0x0303, 0x0304]

/-- Accepted in OUT_OF_SERVICE (R413). -/
def oosOpcodes : List Nat := [0x0100, 0x0101, 0x0111, 0x0802, 0x0402, 0x0511]

/-- Accepted in INIT (R417). -/
def initOpcodes : List Nat := [0x0100, 0x0101, 0x0111]

/-- Accepted in STANDBY (R462); a halt of a control core is too (R465). -/
def standbyOpcodes : List Nat :=
  [0x0100, 0x0101, 0x0111, 0x0204, 0x0303, 0x0402, 0x0511, 0x0802, 0x0900, 0x0901, 0x0A00, 0x0A01]

/-- The header is in rule (R415, R417, R426). -/
def headerOk (c : Cmd) (op : Nat) : Bool :=
  let fl := c.flags.toNat
  let tail := match c.org with
    | .ring _ => c.tailBytes == 0
    | .udp _ => (op == 0x0304 || c.tailBytes == 0) && fl == 0
  c.format == 1 && decide (fl < 4) && c.resv == 0 && tail

/-- The statuses given before an opcode's own rules, in order (R417, R462). -/
def State.preCheck (s : State) (c : Cmd) (op : Nat) : Option Byte :=
  let wire := match c.org with
    | .ring _ => op != 0x0304
    | .udp _ => udpOpcodes.contains op
  if !headerOk c op then some sBADPARAM
  else if !opcodes.contains op then some sBADOPCODE
  else if !wire then some sDENIED
  else if s.rst.dev = .outOfService ∧ !oosOpcodes.contains op then some sOOS
  else if s.rst.dev = .init ∧ !initOpcodes.contains op then some sBUSY
  else if s.board.standby ∧ !standbyOpcodes.contains op ∧ !(op = 0x0902 ∧ pf c.params 0 1 = 1) then some sBUSY
  else none

/-- A command starts: it is in progress on its ring until its reply (R420), or held by its endpoint (R426). -/
def State.begin_ (s : State) (c : Cmd) (op : Nat) : State :=
  match c.org with
  | .ring r =>
    let x := s.ring r
    match x.state with
    | .running | .draining =>
      if x.inProgress.contains (c, op) then s.setRing r { x with held := x.held.eraseP fun k => k.cmd == c && k.op == op }
      else s.setRing r { x with inProgress := x.inProgress ++ [(c, op)] }
    | _ => s
  | .udp e =>
    let x := s.endp e
    s.setEndp e { x with held := x.held.eraseP fun k => k.cmd == c && k.op == op }

/-- The control core that serves a command. -/
def State.coreOf (s : State) (c : Cmd) : Nat := match c.org with | .ring r => (s.ring r).core | .udp e => (s.endp e).core

/-- A command packet of an opcode: the checks of R417, then the opcode's own rules. While the device recovers, or the core that serves it
is halted, a command waits (R457, R465); so does one of whose accesses a map-out holds (R199, log entry 77). -/
def State.packet (s : State) (c : Cmd) (op : Nat) (f : State → State) : State :=
  match s.rst.dev with
  | .cold | .recovering => s
  | _ =>
    if (s.core (s.coreOf c)).halted then s
    else s.meeting c.meets fun s =>
      let s := s.begin_ c op
      match s.preCheck c op with
      | some st => s.reply c op st 0
      | none => f s

/-- A hull number. -/
def isHull (h : Nat) : Bool := decide (1 ≤ h ∧ h ≤ 4)

/-- Parameter bytes from `a` on are zero (R415). -/
def restZero (c : Cmd) (a : Nat) : Bool := pf c.params a (32 - a) == 0

/-! ## Windows and host memory -/

/-- A byte range lies in a hull's window below LIMIT. -/
def State.inWindow (s : State) (h : Nat) (tierB : Bool) (off len : Nat) : Bool := decide (off + len ≤ (s.hull h).limit tierB)

/-- Source number of a command's firmware (R59): the control core that serves its ring or endpoint. -/
def State.cmdSrc (s : State) (c : Cmd) : Nat := 0x0300 + s.coreOf c

/-- Bytes of a window read on the path of `src`: each block's payload is checked and its stored tag, which then names the tensor, is
accepted; none where a block fails, which is reported (R380), or is lost. -/
def State.windowRead (s : State) (src h : Nat) (tierB : Bool) (off len : Nat) : State × Option (List Byte) :=
  let r := (blocksOf off len).foldl (fun (acc : State × Option (List Byte)) i =>
    match acc.2 with
    | none => acc
    | some d =>
      match acc.1.checkBlk h tierB i none with
      | (s, b, .pass) => (s, some (d ++ b.payload))
      | (s, b, k) =>
        let tag := b.husk.toNat / 2 ^ 32
        (s.huskFail src h 0xFF 0xFF (tag % 2 ^ 20) (tag / 2 ^ 20) k, none)) (s, some [])
  (r.1, r.2.map fun d => (d.drop (off % 4096)).take len)

/-- Bytes of host memory. -/
def State.hostRead (s : State) (a n : Nat) : List Byte := getBytes s.host a n
def State.hostWrite (s : State) (a : Nat) (b : List Byte) : State := { s with host := putBytes s.host a b }

end Sys2Proof.Machine
end

