-- ==== Sys2Proof/Machine/Ckpt.lean ====
section
/-! DEFINITION. Checkpoint, restore and shard export (R279–R281, R360–R374). -/

namespace Sys2Proof.Machine

/-! ## The object (R366–R369) -/

/-- Bytes padded with zeros to whole blocks. -/
def padBlock (l : List Byte) : List Byte := l ++ zeros (inBlocks l.length - l.length)

/-- One tensor's part of an object: id, blocks of its extent, blocks with husk and payload. -/
structure ObjTensor where
  id : Nat
  total : Nat
  blocks : List (Nat × Word × List Byte)
  deriving DecidableEq, Repr

/-- What an object is formed from. -/
structure ObjParts where
  full : Bool
  hull : Nat
  rank : Nat
  step : Nat
  parentStep : Nat
  id : Nat
  parentId : Nat
  key : Nat
  prog : Nat
  geo : Nat
  state : Nat
  tensors : List ObjTensor
  records : List (List Byte)
  deriving DecidableEq, Repr

/-- A tensor's delta list; a FULL object has none (R368). -/
def ObjParts.listOf (o : ObjParts) (t : ObjTensor) : List Byte := if o.full then [] else t.blocks.flatMap fun b => natLe 4 b.1

/-- Entries of the tensor table: running offsets of lists and payloads. -/
def ObjParts.table (o : ObjParts) : List ObjTensor → Nat → Nat → List Byte
  | [], _, _ => []
  | t :: r, list, pay =>
    let n := t.blocks.length
    let l := (o.listOf t).length
    natLe 4 t.id ++ natLe 4 n ++ natLe 8 t.total ++ natLe 8 (if l = 0 then 0 else list) ++ natLe 8 (if n = 0 then 0 else pay)
      ++ o.table r (list + inBlocks l) (pay + 4096 * n)

/-- The bytes of an object. -/
def ObjParts.bytes (o : ObjParts) : List Byte :=
  let lists := o.tensors.flatMap fun t => padBlock (o.listOf t)
  let d := sumOf (o.tensors.map (·.blocks.length))
  let listAt := 0x1000 + inBlocks (32 * o.tensors.length)
  let payAt := listAt + lists.length
  let huskAt := payAt + 4096 * d
  let recAt := huskAt + inBlocks (8 * d)
  let total := recAt + inBlocks (512 * o.records.length) + 4096
  let header := natLe 2 1 ++ natLe 1 (b2n !o.full) ++ natLe 1 o.hull ++ natLe 2 o.rank ++ natLe 2 o.tensors.length ++ natLe 8 o.step
    ++ natLe 8 o.parentStep ++ natLe 8 o.id ++ natLe 8 o.parentId ++ natLe 8 d ++ natLe 4 o.records.length ++ zeros 4 ++ natLe 8 payAt
    ++ natLe 8 huskAt ++ natLe 8 recAt ++ natLe 8 total ++ natLe 8 o.key ++ natLe 32 o.prog ++ natLe 32 o.geo ++ natLe 32 o.state
  let header := padBlock header
  let table := padBlock (o.table o.tensors listAt payAt)
  let payload := o.tensors.flatMap fun t => t.blocks.flatMap fun b => b.2.2
  let husks := padBlock (o.tensors.flatMap fun t => t.blocks.flatMap fun b => natLe 8 b.2.1.toNat)
  let recs := padBlock o.records.flatten
  let digest := sha256Bytes (header ++ table ++ lists ++ husks ++ recs)
  let trailer := padBlock (natLe 2 1 ++ zeros 6 ++ natLe 8 o.step ++ natLe 8 o.id ++ natLe 8 total ++ digest)
  header ++ table ++ lists ++ payload ++ husks ++ recs ++ trailer

/-! ## Extraction and drain (R362–R365) -/

/-- One block of the cut on its way into the drain area: its check, then its husk against the reference; none where it fails, which is
reported (R380). -/
def State.extractBlock (s : State) (h : Nat) (p : Prog) (full : Bool) (ref : List (Nat × Nat × Word)) (b : Nat × Nat) :
    State × Option (Option (Word × List Byte)) :=
  match p.memPlace b.1, s.blockKey h p b.1 b.2 with
  | some (tierB, base), some key =>
    let tag := huskTag b.1 b.2
    match s.readCut h tierB (base / 4096 + b.2) key tag with
    | (s, k, .pass) =>
      let hk := k.huskFor tag
      let same := ref.any fun r => r.1 == b.1 && r.2.1 == b.2 && r.2.2 == hk
      let s := if p.image.undoArea.isSome then s else s.unmark h key
      (s, some (if full || !same then some (hk, k.payload) else none))
    | (s, _, c) => (s.huskFail 0x0600 h 0xFF 0xFF b.1 b.2 c, none)
  | _, _ => (s, some none)

/-- Extracts the blocks of a list, each that differs one more to drain (R219); none where one fails. -/
def State.extractAll (h : Nat) (p : Prog) (full : Bool) (ref : List (Nat × Nat × Word)) :
    List (Nat × Nat) → State → List (Nat × Nat × Word × List Byte) → State × Option (List (Nat × Nat × Word × List Byte))
  | [], s, acc => (s, some acc)
  | b :: r, s, acc =>
    match s.extractBlock h p full ref b with
    | (s, some (some (hk, pay))) =>
      State.extractAll h p full ref r (s.drainAt h (s.drainUnit h acc.length) (· + 1)) (acc ++ [(b.1, b.2, hk, pay)])
    | (s, some none) => State.extractAll h p full ref r s acc
    | (s, none) => (s, none)

/-- The step records of a list of steps, as they lie in the hull's log; none where one cannot be read. -/
def State.readRecords (s : State) (h : Nat) (p : Prog) (steps : List Nat) : State × Option (List (List Byte)) :=
  steps.foldl (fun (acc : State × Option (List (List Byte))) n =>
    match acc.2 with
    | none => acc
    | some l =>
      let w := acc.1.windowRead 0x0600 h true (p.image.recordBase + 512 * (n % max 1 p.image.recordLen)) 512
      (w.1, w.2.map fun b => l ++ [b])) (s, some [])

/-- Segments of an object without its trailer (R364). -/
def Ckpt.segments (c : Ckpt) : Nat := (c.object.length - 4096 + 1048575) / 1048576

/-- Ethernet port of a segment: i mod 2, or the remaining port. -/
def State.segPort (s : State) (i : Nat) : Nat :=
  if s.board.eth0 && s.board.eth1 then i % 2 else if s.board.eth1 then 1 else 0

/-- The delta blocks whose payload a segment carries. -/
def Ckpt.blocksIn (c : Ckpt) (i : Nat) : List Nat :=
  let first := fieldLe c.object 0x38 8 / 4096
  (upFrom (256 * i) 256).filterMap fun b => if first ≤ b ∧ b - first < fieldLe c.object 0x28 8 then some (b - first) else none

/-- Sends the next segment of a draining object, or the trailer once every segment is acknowledged. -/
def State.sendSegment (s : State) (h : Nat) : State :=
  let x := s.hull h
  let c := x.ckpt
  if c.sent < c.segments then
    let s := s.setHull h { x with ckpt := { c with sent := c.sent + 1 } }
    let s := (c.blocksIn c.sent).foldl (fun (s : State) k => s.drainAt h (s.drainUnit h k) (· - 1)) s
    s.emit (.segment (s.segPort c.sent) h c.sent)
  else if c.acked.length = c.segments ∧ !c.trailer then
    (s.setHull h { x with ckpt := { c with trailer := true } }).emit (.trailer h)
  else s

/-- Tensors of a checkpoint's object, from its delta blocks. -/
def Prog.objTensors (p : Prog) (delta : List (Nat × Nat × Word × List Byte)) : List ObjTensor :=
  p.persistent.map fun id =>
    { id := id, total := (blocksOf 0 (p.bytesOf id)).length,
      blocks := (delta.filter fun d => d.1 == id).map fun d => (d.2.1, d.2.2.1, d.2.2.2) }

/-- The parts of a checkpoint's object. -/
def objParts (x : Hull) (h : Nat) (p : Prog) (c : Ckpt) (delta : List (Nat × Nat × Word × List Byte)) (recs : List (List Byte)) :
    ObjParts :=
  { full := c.full, hull := h, rank := p.image.geometry.worldRank, step := c.step,
    parentStep := if c.full then 0xFFFFFFFFFFFFFFFF else c.parentStep.toNat, id := c.id.toNat,
    parentId := if c.full then 0xFFFFFFFFFFFFFFFF else c.parentId.toNat, key := (keyCheck x.k0 x.k1).toNat, prog := p.image.digest.toNat,
    geo := p.geoDigest.toNat, state := p.prevState.toNat, tensors := p.objTensors delta, records := recs }

/-- EXTRACTION_COMPLETE (R362, R364): the deltas of the cut lie in the drain area; the object is formed and its drain begins. -/
def execExtractionComplete (h : Nat) (m : List Meet) (s : State) : Outcome :=
  .next (s.meeting m fun s =>
    let x := s.hull h
    let c := x.ckpt
    match x.prog with
    | some p =>
      if c.state ≠ 2 then s
      else
        let ref := if c.full then [] else c.reference
        let o := State.extractAll h p c.full ref (p.blocks p.persistent) (s.drainClear h) []
        let r := o.1.readRecords h p (p.undrained.filter fun n => decide (n ≤ c.step))
        let w := r.1.windowRead 0x0600 h true c.target 48
        match o.2, r.2, w.2 with
        | none, _, _ => o.1.ckptFail h 7
        | _, none, _ => r.1.ckptFail h 7
        | _, _, none => w.1.ckptFail h 7
        | some delta, some recs, some target =>
          let s := w.1
          let object := (objParts (s.hull h) h p c delta recs).bytes
          let kept := c.reference.filter fun r => !(delta.any fun d => d.1 == r.1 && d.2.1 == r.2.1)
          let s := s.setHull h { s.hull h with ckpt := { c with
            state := 3, object := object, sent := 0, acked := [], trailer := false, lastAckGtc := s.time.gtc, delta := delta,
            reference := kept ++ delta.map fun d => (d.1, d.2.1, d.2.2.1) } }
          if object.length > fieldLe target 0x28 8 then s.ckptFail h 2 else (s.sendSegment h).sendSegment h
    | none => s)

/-- CKPT_COMPLETE (R365): the trailer is acknowledged; the records it holds free their slots (R29). -/
def State.ckptDone (s : State) (h : Nat) : State :=
  let x := s.hull h
  let c := x.ckpt
  s.setHull h { x with
    ckpt := { c with state := 4, cause := 0, parentStep := BitVec.ofNat 64 c.step, parentId := c.id, mustFull := false, delta := [] },
    prog := x.prog.map fun p => { p with undrained := p.undrained.filter fun n => decide (c.step < n) } }

/-- SEGMENT_ACK (R364): a segment sent is acknowledged, or, under the number that follows the last segment, the trailer. -/
def execSegmentAck (h seg : Nat) (s : State) : Outcome :=
  .next (
    let x := s.hull h
    let c := x.ckpt
    if c.state ≠ 3 then s
    else if seg = c.segments ∧ c.trailer then s.ckptDone h
    else if seg ≥ c.sent ∨ c.acked.contains seg then s
    else (s.setHull h { x with ckpt := { c with acked := c.acked ++ [seg], lastAckGtc := s.time.gtc } }).sendSegment h)

/-- STORE_TIMEOUT (R365): no segment acknowledged for 10 s. -/
def execStoreTimeout (h : Nat) (s : State) : Outcome :=
  .next (let c := (s.hull h).ckpt
    if c.state = 3 ∧ s.time.gtc - c.lastAckGtc ≥ 10000000000 then s.ckptFail h 3 else s)

/-- QUEUE_PAIR_ERROR (R365). -/
def execQueuePairError (h port : Nat) (s : State) : Outcome :=
  .next (if (s.hull h).ckpt.state = 3 ∧ port < 2 then s.ckptFail h 3 else s)

/-! ## CKPT_BEGIN and CKPT_STATUS (R370–R372) -/

/-- The hull stands in a record-log wait (R29). -/
def Hull.inLogWait (x : Hull) : Bool := match x.prog with | some p => p.logWait | none => false

/-- CKPT_BEGIN. -/
def State.ckptBegin (s : State) (c : Cmd) : State :=
  let h := pf c.params 0 1
  let fl := pf c.params 1 1
  let step := pf c.params 8 8
  let target := pf c.params 0x18 8
  let x := s.hull h
  let areas := match x.prog with | some p => p.image.ckptAreas.isSome | none => true
  if !isHull h ∨ fl > 1 ∨ pf c.params 2 6 ≠ 0 ∨ step > maxStep ∨ (step ≠ 0 ∧ step < x.step) ∨ target % 64 ≠ 0
      ∨ !s.inWindow h true target 48 ∨ !areas then s.reply c 0x0700 sBADPARAM 0
  else if !s.ownsHull c h then s.reply c 0x0700 sDENIED 0
  else if x.state ≠ .running ∨ (1 ≤ x.ckpt.state ∧ x.ckpt.state ≤ 3) then s.reply c 0x0700 sBUSY 0
  else
    let k := x.ckpt
    let s := s.setHull h { x with ckpt := { k with
      state := 1, cause := 0, wantFull := fl == 1, full := fl == 1 || k.mustFull, armedStep := if step = 0 then none else some step, step := 0,
      id := BitVec.ofNat 64 (pf c.params 0x10 8), target := target, object := [], sent := 0, acked := [], trailer := false } }
    -- a hull that a record-log wait holds stands at its next boundary already (R29; log entry 70)
    let s := if x.inLogWait then s.ckptCut h (x.step - 1) else s
    s.reply c 0x0700 sACCEPTED 0

def execCkptBegin (c : Cmd) (s : State) : Outcome := .next (s.packet c 0x0700 fun s => s.ckptBegin c)

/-- Acknowledged bytes of a drain. -/
def Ckpt.ackedBytes (c : Ckpt) : Nat :=
  if c.state = 4 then c.object.length
  else sumOf (c.acked.map fun i => min 1048576 (c.object.length - 4096 - 1048576 * i))

/-- CKPT_STATUS. -/
def State.ckptStatus (s : State) (c : Cmd) : State :=
  let h := pf c.params 0 1
  let k := (s.hull h).ckpt
  if !isHull h ∨ !restZero c 1 then s.reply c 0x0701 sBADPARAM 0
  else if !s.ownsHull c h then s.reply c 0x0701 sDENIED 0
  else s.reply c 0x0701 sDONE (mkFields [(0, 1, k.state), (1, 1, k.cause), (2, 1, b2n (k.state != 0 && !k.full)),
    (8, 8, if k.state = 1 then 0 else k.step), (0x10, 8, if k.state < 3 then 0 else k.object.length), (0x18, 8, k.ackedBytes)])

def execCkptStatus (c : Cmd) (s : State) : Outcome := .next (s.packet c 0x0701 fun s => s.ckptStatus c)

/-! ## RESTORE (R373, R374) -/

/-- An object as restore reads it. -/
structure ObjIn where
  full : Bool
  rank : Nat
  step : Nat
  id : Nat
  parentId : Nat
  key : Nat
  prog : Nat
  geo : Nat
  state : Nat
  /-- tensor, its blocks in all, and its listed blocks with husk and payload -/
  tensors : List ObjTensor
  /-- its step records (R366) -/
  records : List (List Byte)
  bytes : Nat
  deriving DecidableEq, Repr

/-- Reads the tensor entries of an object: `k` the first payload block of the entry. -/
def readEntries (b : List Byte) (full : Bool) (payAt huskAt : Nat) : List Nat → Nat → List ObjTensor
  | [], _ => []
  | i :: r, k =>
    let e := 0x1000 + 32 * i
    let n := fieldLe b (e + 4) 4
    let list := fieldLe b (e + 0x10) 8
    { id := fieldLe b e 4, total := fieldLe b (e + 8) 8,
      blocks := (upFrom 0 n).map fun j =>
        (if full then j else fieldLe b (list + 4 * j) 4, BitVec.ofNat 64 (fieldLe b (huskAt + 8 * (k + j)) 8),
         slice b (payAt + 4096 * (k + j)) 4096) } :: readEntries b full payAt huskAt r (k + n)

/-- Reads an object; none where it is not valid (R369). -/
def readObject (b : List Byte) : Option ObjIn :=
  let total := fieldLe b 0x50 8
  let t := total - 4096
  let payAt := fieldLe b 0x38 8
  let huskAt := fieldLe b 0x40 8
  let d := sha256Bytes (slice b 0 payAt ++ slice b huskAt (t - huskAt))
  let full := fieldLe b 2 1 == 0
  if b.length = total ∧ 8192 ≤ total ∧ payAt ≤ huskAt ∧ huskAt ≤ t ∧ fieldLe b 0 2 = 1 ∧ fieldLe b 2 1 < 2 ∧ fieldLe b t 2 = 1
      ∧ fieldLe b (t + 8) 8 = fieldLe b 8 8 ∧ fieldLe b (t + 0x10) 8 = fieldLe b 0x18 8 ∧ fieldLe b (t + 0x18) 8 = total
      ∧ slice b (t + 0x20) 32 = d then
    some { full := full, rank := fieldLe b 4 2, step := fieldLe b 8 8, id := fieldLe b 0x18 8, parentId := fieldLe b 0x20 8,
           key := fieldLe b 0x58 8, prog := fieldLe b 0x60 32, geo := fieldLe b 0x80 32, state := fieldLe b 0xA0 32,
           tensors := readEntries b full payAt huskAt (upFrom 0 (fieldLe b 6 2)) 0,
           records := (upFrom 0 (fieldLe b 0x30 4)).map fun i => slice b (fieldLe b 0x48 8 + 512 * i) 512, bytes := b.length }
  else none

/-- Each PARENT_ID matches the entry before it, and the first is FULL. -/
def chainOk : List ObjIn → Bool
  | [] => true
  | o :: r => o.full && ((o :: r).zip r).all fun p => decide (p.2.parentId = p.1.id)

/-- A landed block: CRC and tag (R379). -/
def landedOk (id : Nat) (b : Nat × Word × List Byte) : Bool := b.2.1 == huskOf b.2.2 (huskTag id b.1)

/-- Applies the blocks of an object; false where a landed block fails its check or its write is lost. -/
def State.applyObject (s : State) (h : Nat) (p : Prog) (o : ObjIn) (only : Nat → Bool) : State × Bool :=
  (o.tensors.filter fun t => only t.id).foldl (fun (acc : State × Bool) t =>
    t.blocks.foldl (fun (acc : State × Bool) b =>
      if !acc.2 then acc
      else if !landedOk t.id b then
        let want := huskOf b.2.2 (huskTag t.id b.1)
        let code := if want.toNat % 2 ^ 32 = b.2.1.toNat % 2 ^ 32 then 2 else 1
        (acc.1.huskFail 0x0600 h 0xFF 0xFF t.id b.1 (.fail code want b.2.1), false)
      else
        match p.memPlace t.id with
        | some (tierB, base) =>
          let s := acc.1.storeBlk h tierB (base / 4096 + b.1) 0 true fun _ => { husk := b.2.1, data := putBytes [] 0 b.2.2 }
          (s, !s.mem.lost)
        | none => acc) acc) (s, true)

/-- Returns every block of tensors to the unwritten marker. -/
def State.wipeTensors (s : State) (h : Nat) (p : Prog) (ids : List Nat) : State :=
  (p.blocks ids).foldl (fun s b =>
    match s.blockKey h p b.1 b.2 with
    | some key => s.setBlk key.1 key.2 Blk.unwritten
    | none => s) s

/-- The chain entries that a RESTORE names, as they lie in tier B; none where they cannot be read. -/
def State.chainList (s : State) (c : Cmd) : State × Option (List Byte) :=
  let h := pf c.params 0 1
  let n := 64 * pf c.params 2 2
  if isHull h && s.inWindow h true (pf c.params 8 8) n then s.windowRead (s.cmdSrc c) h true (pf c.params 8 8) n else (s, some [])

/-- Roles of the chain's objects: 0 the hull's own, 1 its twin. -/
def chainRoles (c : Cmd) (list : List Byte) : List Nat := (upFrom 0 (pf c.params 2 2)).map fun i => fieldLe list (64 * i) 1

/-- The fields of RESTORE and of the chain are in rule. -/
def State.restoreOk (s : State) (c : Cmd) (list : List Byte) : Bool :=
  let h := pf c.params 0 1
  let count := pf c.params 2 2
  let chain := pf c.params 8 8
  let roles := chainRoles c list
  isHull h && pf c.params 1 1 == 0 && decide (1 ≤ count ∧ count ≤ 64) && pf c.params 4 4 == 0 && decide (chain % 64 = 0) && restZero c 0x10
    && s.inWindow h true chain (64 * count) && roles.all (fun r => decide (r < 2))
    && (upFrom 0 count).all (fun i => fieldLe list (64 * i + 1) 15 == 0) && (roles.dropWhile (· == 0)).all (· == 1)

/-- The objects of a role. -/
def withRole (roles : List Nat) (objs : List ObjIn) (r : Nat) : List ObjIn := ((roles.zip objs).filter fun q => q.1 == r).map (·.2)

/-- STEP of the newest object of a chain. -/
def newestStep (l : List ObjIn) : Option Nat := l.getLast?.map (·.step)

/-- The objects fit the chain rules, the program, its geometry and its key (R374). -/
def Hull.objectsOk (x : Hull) (p : Prog) (own twin : List ObjIn) : Bool :=
  let dims := fun (o : ObjIn) => o.tensors.all fun t => match imgTensor p.image t.id with
    | some d => t.total == (blocksOf 0 d.bytes).length
    | none => false
  chainOk own && chainOk twin && !own.isEmpty
    && own.all (fun o => o.rank == p.image.geometry.worldRank && o.geo == p.geoDigest.toNat && dims o)
    && twin.all (fun o => some o.rank == p.buddy && o.tensors.all fun t => !p.isTwinTensor t.id || (match imgTensor p.image t.id with
        | some d => t.total == (blocksOf 0 d.bytes).length
        | none => false))
    && (twin.isEmpty || newestStep own == newestStep twin)
    && (own ++ twin).all fun o => o.prog == p.image.digest.toNat && o.key == (keyCheck x.k0 x.k1).toNat

/-- Applies objects in order, up to one that fails. -/
def State.applyObjects (s : State) (h : Nat) (p : Prog) (l : List ObjIn) (only : Nat → Bool) : State × Bool :=
  l.foldl (fun (acc : State × Bool) o => if acc.2 then acc.1.applyObject h p o only else acc) (s, true)

/-- Applies the own objects, then of the twin's the tensors held as twin. -/
def State.applyChain (s : State) (h : Nat) (p : Prog) (own twin : List ObjIn) : State × Bool :=
  let a := s.applyObjects h p own fun _ => true
  if a.2 then a.1.applyObjects h p twin p.isTwinTensor else a

/-- The region digest of what lies in memory, with no check (each block was checked as it landed). -/
def State.huskDigest (s : State) (h : Nat) (p : Prog) (ids : List Nat) : BitVec 256 :=
  sha256 ((p.blocks ids).flatMap fun b =>
    match s.blockKey h p b.1 b.2 with
    | some key => natLe 8 ((s.blk key.1 key.2).huskFor (huskTag b.1 b.2)).toNat
    | none => [])

/-- What a step's record, among an object's, deferred out of that step (R34). -/
def recordDeferred (recs : List (List Byte)) (step : Nat) : List (Nat × Nat × Nat) :=
  match recs.find? fun r => fieldLe r 8 8 == step with
  | some r => deferredOf ((upFrom 0 (fieldLe r 0xC8 2)).map fun i => BitVec.ofNat 64 (fieldLe r (0x100 + 8 * i) 8)) (fieldLe r 4 1 % 2 == 1)
  | none => []

/-- A restored program: the step after the newest object's, what that object's last record deferred into it (R18, R34), shards that
stood alone or were lost paired again, a placement round. After a checkpoint of the largest step the step number is one past it, as R55's words give, and the manual
says no more of it (log entry 71). -/
def State.restored (s : State) (h : Nat) (p : Prog) (step : Nat) (recs : List (List Byte)) : State :=
  let s := s.setHull h { s.hull h with
    step := step + 1,
    ckpt := { (s.hull h).ckpt with mustFull := true },
    prog := some { p with restored := true, record := [], undrained := [], deferred := recordDeferred recs step } }
  let s := (p.shards.filter fun q => q.state == .suspect || q.state == .lost).foldl (fun (s : State) q =>
    s.shardState h { q with own := none, peer := none } .paired (twinCode .paired)) s
  s.placementRound h false false

/-- RESTORE with the objects that the chain names, as RDMA READ returned them; one missing is a read that fails. -/
def State.restore (s : State) (c : Cmd) (objects : List (List Byte)) : State :=
  let h := pf c.params 0 1
  let count := pf c.params 2 2
  let x := s.hull h
  let w := s.chainList c
  let list := w.2.getD []
  let s := w.1
  if !s.restoreOk c list then s.reply c 0x0702 sBADPARAM 0
  else if !s.ownsHull c h then s.reply c 0x0702 sDENIED 0
  else
    match x.prog, x.state with
    | some p, .granted =>
      let read := sumOf ((objects.take count).map (·.length))
      if w.2.isNone then s.reply c 0x0702 sFAULT 0
      else if objects.length < count then s.reply c 0x0702 sFAULT (mkFields [(8, 8, read)])
      else
        let parsed := (objects.take count).map readObject
        let objs := parsed.filterMap id
        let own := withRole (chainRoles c list) objs 0
        let twin := withRole (chainRoles c list) objs 1
        if parsed.any (·.isNone) ∨ !x.objectsOk p own twin then s.reply c 0x0702 sBADPARAM 0
        else
          let b := s.applyChain h p own twin
          let want := match own.getLast? with | some o => o.state | none => 0
          if !b.2 ∨ (b.1.huskDigest h p p.persistent).toNat ≠ want then
            let began := dedup (own.flatMap (fun o => o.tensors.map (·.id))
              ++ twin.flatMap fun o => (o.tensors.map (·.id)).filter p.isTwinTensor)
            (b.1.wipeTensors h p began).reply c 0x0702 sFAULT (mkFields [(8, 8, read)])
          else
            let step := (newestStep own).getD 0
            (b.1.restored h p step (match own.getLast? with | some o => o.records | none => [])).reply c 0x0702 sDONE (mkFields [(0, 8, step), (8, 8, read)])
    | _, _ => s.reply c 0x0702 sBUSY 0

def execRestore (c : Cmd) (objects : List (List Byte)) (s : State) : Outcome := .next (s.packet c 0x0702 fun s => s.restore c objects)

/-! ## SHARD_EXPORT (R279–R281) -/

/-- The coordinate header of a tensor (R280). -/
def exportHeader (p : Prog) (d : ShardDecl) (tensor step : Nat) (twin : Bool) : List Byte :=
  let eight := fun (l : List Nat) => (upFrom 0 8).flatMap fun i => natLe 8 (l.getD i 0)
  natLe 2 1 ++ natLe 1 d.elemFmt ++ natLe 1 d.shape.length ++ natLe 4 (tensor % 2 ^ 20) ++ natLe 8 step ++ natLe 2 d.id ++ natLe 2 d.owner
    ++ natLe 1 d.layout ++ natLe 1 (b2n twin) ++ zeros 2 ++ natLe 8 (p.bytesOf tensor) ++ natLe 32 p.geoDigest.toNat ++ eight d.shape
    ++ eight d.origin ++ eight d.extent

/-- A block of an exported tensor, from the cut or as it stands, with the finding of its check; none where the tensor lies in no window. -/
def State.exportBlock (s : State) (h : Nat) (p : Prog) (cut : Bool) (tensor i : Nat) : Option (State × Blk × Check) :=
  match p.memPlace tensor, s.blockKey h p tensor i with
  | some (tierB, base), some key =>
    some (if cut then s.readCut h tierB (base / 4096 + i) key (huskTag tensor i)
      else s.checkBlk h tierB (base / 4096 + i) (some (huskTag tensor i)))
  | _, _ => none

/-- The output of an export up to a failing block, which is reported on the path of `src` (R380), and whether one failed. -/
def State.exportTensor (s : State) (src h : Nat) (p : Prog) (cut : Bool) (tensor : Nat) (header : List Byte) :
    State × List Byte × Bool :=
  let r := (blocksOf 0 (p.bytesOf tensor)).foldl (fun (acc : State × List Byte × List Byte × Bool) i =>
    if acc.2.2.2 then acc
    else
      match acc.1.exportBlock h p cut tensor i with
      | some (s, b, .pass) => (s, acc.2.1 ++ b.payload, acc.2.2.1 ++ natLe 8 (b.huskFor (huskTag tensor i)).toNat, false)
      | some (s, _, k) => (s.huskFail src h 0xFF 0xFF tensor i k, acc.2.1, acc.2.2.1, true)
      | none => acc) (s, [], [], false)
  if r.2.2.2 then (r.1, header ++ r.2.1, true) else (r.1, header ++ r.2.1 ++ padBlock r.2.2.1, false)

/-- Bytes that an export of a tensor takes. -/
def exportSize (bytes : Nat) : Nat := 256 + inBlocks bytes + inBlocks (8 * (blocksOf 0 bytes).length)

/-- The step that the current contents of a stopped hull belong to: the last completed one; the largest at the step limit (R55). -/
def Hull.lastStep (x : Hull) : Nat :=
  match x.prog with
  | some p => if p.reason = 2 then x.step else x.step - 1
  | none => x.step - 1

/-- The copy of a shard that an export names, with its program and declaration. -/
def State.exportOf (s : State) (c : Cmd) : Option (Prog × ShardS × ShardDecl) :=
  let twin := pf c.params 1 1 / 2 % 2 == 1
  let id := pf c.params 2 2
  (s.hull (pf c.params 0 1)).prog.bind fun p => (p.copy id !twin).bind fun k => (p.shard id).map fun d => (p, k, d)

/-- The fields of SHARD_EXPORT are in rule. -/
def State.exportOk (s : State) (c : Cmd) : Bool :=
  let h := pf c.params 0 1
  let fl := pf c.params 1 1
  isHull h && decide (fl ≤ 3) && pf c.params 4 4 == 0 && decide (pf c.params 8 8 % 4096 = 0) && restZero c 0x18
    && (fl % 2 == 0 || s.inWindow h true (pf c.params 8 8) (pf c.params 0x10 8))

/-- The output of an export, and whether a block failed. -/
def State.exportAll (s : State) (src h : Nat) (p : Prog) (cut : Bool) (d : ShardDecl) (step : Nat) (twin : Bool) : State × List Byte × Bool :=
  d.tensors.foldl (fun (acc : State × List Byte × Bool) t =>
    if acc.2.2 then acc
    else
      let e := acc.1.exportTensor src h p cut t (exportHeader p d t step twin)
      (e.1, acc.2.1 ++ e.2.1, e.2.2)) (s, [], false)

/-- STEP of an export: of a stopped hull the last completed one, else that of the cut held. -/
def Hull.exportStep (x : Hull) : Nat := if x.state ≠ .running then x.lastStep else if x.ckpt.state = 2 then x.ckpt.step else x.step - 1

/-- A hull whose shards can be exported: GRANTED, or RUNNING with a cut held (R279). -/
def Hull.exportable (x : Hull) (p : Prog) : Bool :=
  x.state == .granted || (x.state == .running && (p.image.undoArea.isSome || x.ckpt.state == 2))

/-- SHARD_EXPORT. -/
def State.shardExport (s : State) (c : Cmd) : State :=
  let h := pf c.params 0 1
  let fl := pf c.params 1 1
  let dst := pf c.params 8 8
  let room := pf c.params 0x10 8
  let x := s.hull h
  match s.exportOf c with
  | none => s.reply c 0x0703 sBADPARAM 0
  | some (p, k, d) =>
    if !s.exportOk c then s.reply c 0x0703 sBADPARAM 0
    else if !s.ownsHull c h then s.reply c 0x0703 sDENIED 0
    else if !x.exportable p ∨ k.state = .onboarding then s.reply c 0x0703 sBUSY 0
    else
      let size := sumOf (d.tensors.map fun t => exportSize (p.bytesOf t))
      if room < size then s.reply c 0x0703 sNORES (mkFields [(0, 8, size - room)])
      else
        let cut := x.state == .running
        let out := s.exportAll (s.cmdSrc c) h p cut d x.exportStep (fl / 2 % 2 == 1)
        let s := if fl % 2 = 1 then out.1.winWrite h true dst out.2.1 else out.1.hostWrite dst out.2.1
        if out.2.2 ∨ s.mem.lost then s.reply c 0x0703 sFAULT 0
        else s.reply c 0x0703 sDONE (mkFields [(0, 8, size), (8, 8, x.exportStep), (0x10, 2, d.tensors.length)])

def execShardExport (c : Cmd) (s : State) : Outcome := .next (s.packet c 0x0703 fun s => s.shardExport c)

end Sys2Proof.Machine
end

