-- ==== Sys2Proof/Machine/Time.lean ====
section
/-! DEFINITION. Global time: alignment (R44–R48), launch (R60–R62), the tick period (R49), throttle (R464). -/

namespace Sys2Proof.Machine

/-- Sets CFG_ERR of the TIME block (R46, R49). -/
def State.timeCfgErr (s : State) : State := s.event evTime 5 69

/-- This module is the time root (R47). -/
def State.isTimeRoot (s : State) : Bool := match s.jv.plan with | some p => p.root | none => false

/-- TIME_STATUS (R63); OFFSET_NS reads zero on the time root (R47). -/
def State.timeStatusWord (s : State) : Nat :=
  (match s.time.align with | .unset => 0 | .coarse => 1 | .locked => 2 | .holdover => 3)
    + (if s.isTimeRoot then 0 else ofSigned 32 s.time.offset * 2 ^ 16)

/-- The root locks as soon as its GTC has been set and it holds its plan (R46, R47). -/
def State.rootLock (s : State) : State :=
  if s.time.align = .coarse ∧ s.time.wasSet ∧ s.isTimeRoot then { s with time := { s.time with align := .locked, offset := 0 } } else s

/-- An armed launch is given up: the hull stays waiting. -/
def Hull.disarm (x : Hull) : Hull := { x with armed := false, launch := x.lastLaunch }

/-- The alignment falls to COARSE: launches armed for a later GTC are cancelled (R62). -/
def State.fallCoarse (s : State) : State :=
  let s := { s with time := { s.time with align := .coarse, good := 0, bad := 0 } }
  hullNos.foldl (fun s h =>
    let x := s.hull h
    if x.armed ∧ s.time.gtc < x.launch then (s.setHull h x.disarm).event evTime 4 68 else s) s

/-- A write of TIME_GTC_SET (R46). -/
def State.gtcSet (s : State) (v : Word) : State :=
  let t := s.time
  match t.align with
  | .unset | .coarse =>
    if v.toNat < t.gtc then s.timeCfgErr
    else ({ s with time := { t with gtc := v.toNat, frac := 0, align := .coarse, wasSet := true } }).rootLock
  | .locked | .holdover => s.timeCfgErr

/-- TIME_GTC_SET. -/
def execTimeGtcSet (v : Word) (s : State) : Outcome := .next (if s.blockOpen 0x010008 then s.gtcSet v else s)

/-- The neighbour that time comes from: TIME_UP, or TIME_ALT where the first has no UP bundle (R300); none on a root (R47). -/
def State.timeSource (s : State) : Option Nat :=
  match s.jv.plan with
  | some p =>
    if p.root then none
    else if p.timeUp ≠ 0xFF ∧ !(s.upTo p.timeUp none).isEmpty then some p.timeUp
    else if p.timeAlt ≠ 0xFF ∧ !(s.upTo p.timeAlt none).isEmpty then some p.timeAlt
    else none
  | none => none

/-- The bound of R48 against a neighbour: 20 ns in the rack (levels 1 and 2 of R282), 100 ns across the installation. -/
def State.timeBound (s : State) (n : Nat) : Nat :=
  match s.jv.plan with
  | some p => if (p.neighbours.getD n (0, 0, 0)).2.1 ≤ 2 then 20 else 100
  | none => 100

/-- TIME_MESSAGE (R46, R48): `offset` is this module's GTC less the neighbour's. An offset that OFFSET_NS cannot hold saturates there, and
in UNSET a message is recorded and corrects nothing: the manual states neither (log entry 73). -/
def execTimeMessage (offset : Int) (s : State) : Outcome :=
  .next (match s.timeSource with
    | none => s
    | some n =>
      let t := { s.time with lastMsg := s.time.gtc, offset := max (-2147483648) (min offset 2147483647) }
      let near := decide (offset.natAbs ≤ s.timeBound n)
      match t.align with
      | .unset => { s with time := t }
      | .coarse =>
        let g := if near then t.good + 1 else 0
        let t := if offset < 0 then { t with gtc := (t.gtc + offset.natAbs) % 2 ^ 64, slew := 0 } else { t with slew := -offset }
        { s with time := if g ≥ 16 then { t with align := .locked, good := 0, bad := 0 } else { t with good := g } }
      | .locked =>
        let b := if near then 0 else t.bad + 1
        let t := { t with slew := -offset, bad := b }
        if b ≥ 4 then
          ({ s with time := { t with align := .holdover, good := 0, bad := 0, holdStart := t.gtc } }).event evTime 0 64
        else { s with time := t }
      | .holdover =>
        let g := if near then t.good + 1 else 0
        let t := { t with slew := -offset, good := g }
        { s with time := if g ≥ 16 then { t with align := .locked, good := 0, bad := 0 } else t })

/-- TIME_MESSAGE_TIMEOUT (R46): 1 ms without a time message. -/
def execTimeMessageTimeout (s : State) : Outcome :=
  .next (
    let t := s.time
    if t.align = .locked ∧ !s.isTimeRoot ∧ t.gtc - t.lastMsg ≥ 1000000 then
      ({ s with time := { t with align := .holdover, good := 0, bad := 0, holdStart := t.gtc } }).event evTime 0 64
    else s)

/-- HOLDOVER_TIMEOUT (R46). -/
def execHoldoverTimeout (s : State) : Outcome :=
  .next (
    if s.time.align = .holdover ∧ s.time.gtc - s.time.holdStart > 1000000 * max 1 (s.regF 0x010018 31 16) then
      (s.fallCoarse.event evTime 1 65).rootLock
    else s)

/-- LAUNCH_FIRE (R62): an armed launch whose GTC has come; the hull's first tick may begin. -/
def execLaunchFire (h : Nat) (s : State) : Outcome :=
  .next (
    let x := s.hull h
    match x.prog with
    | some p =>
      if x.state = .running ∧ p.state = 2 ∧ x.armed ∧ x.launch ≤ s.time.gtc then
        (s.setHull h { x with armed := false, lastLaunch := x.launch, prog := some { p with state := 3 } }).event evTime 3 67
      else s
    | none => s)

/-- A tick period that R49 allows. -/
def periodOk (p : Nat) : Bool := decide (50 ≤ p ∧ p ≤ 10000 ∧ p % 10 = 0)

/-- A write of TIME_TICK_CFG (R49, R52): a refused period leaves its field unchanged. -/
def State.tickCfg (s : State) (v : Word) : State :=
  let p := bitsOf v.toNat 13 0
  let s := s.setRegF 0x010020 29 16 (bitsOf v.toNat 29 16)
  let busy := hullNos.any fun h => (s.hull h).state == .running || (s.hull h).state == .draining
  if busy ∨ !periodOk p then s.timeCfgErr else s.setRegF 0x010020 13 0 p

/-- TIME_TICK_CFG. -/
def execTimeTickCfg (v : Word) (s : State) : Outcome := .next (if s.blockOpen 0x010020 then s.tickCfg v else s)

/-- TIME_MESSAGE_SEND (R47): a LOCKED module sends its time to the neighbours that it does not take time from. -/
def execTimeMessageSend (s : State) : Outcome :=
  .next (match s.time.align, s.jv.plan with
    | .locked, some p =>
      (upFrom 0 p.neighbours.length).foldl (fun s n =>
        if n = p.timeUp ∨ n = p.timeAlt then s
        else s.sendPriv 0 (p.neighbours.getD n (0, 0, 0)).1 pkTime [s.time.gtc]) s
    | _, _ => s)

/-! ## Launch commands -/

/-- TIME_SET_LAUNCH (R60, R61). -/
def State.setLaunch (s : State) (c : Cmd) : State :=
  let h := pf c.params 0 1
  let g := pf c.params 8 8
  let now := s.time.gtc
  let x := s.hull h
  let fin := fun (s : State) (st : Byte) =>
    s.reply c 0x0110 st (mkFields [(0, 8, now), (8, 8, if (s.hull h).armed then (s.hull h).launch else 0)])
  let waiting := x.state == .running && (match x.prog with | some p => p.state == 2 | none => false)
  if !isHull h ∨ pf c.params 1 7 ≠ 0 ∨ !restZero c 16 ∨ g > now + 60000000000 then fin s sBADPARAM
  else if !s.ownsHull c h then fin s sDENIED
  else if !waiting ∨ s.time.align ≠ .locked then fin s sBUSY
  else if g ≠ 0 ∧ g < now + 2000000 then fin s sBADPARAM
  else if x.armed ∧ x.launch < now + 2000000 then fin s sBUSY
  else if g = 0 then fin (s.setHull h (if x.armed then x.disarm else x)) sACCEPTED
  else fin (s.setHull h { x with armed := true, launch := g }) sACCEPTED

/-- TIME_SET_LAUNCH. -/
def execTimeSetLaunch (c : Cmd) (s : State) : Outcome := .next (s.packet c 0x0110 fun s => s.setLaunch c)

/-- TIME_READ (R62). Parameter bytes are not defined, so zero (R415). -/
def State.timeRead (s : State) (c : Cmd) : State :=
  if !restZero c 0 then s.reply c 0x0111 sBADPARAM 0
  else s.reply c 0x0111 sDONE (mkFields [(0, 8, s.time.gtc), (8, 8, s.timeStatusWord)])

/-- TIME_READ. -/
def execTimeRead (c : Cmd) (s : State) : Outcome := .next (s.packet c 0x0111 fun s => s.timeRead c)

/-! ## Throttle (R464) -/

/-- Entry temperature of a level. -/
def throttleEntry (l : Nat) : Nat := if l = 0 then 0 else if l = 1 then 105 else if l = 2 then 110 else 113

/-- The level that a temperature calls for, from the level in force: it rises at an entry value and falls 5 °C below it. -/
def throttleFor (cur tj : Nat) : Nat :=
  let up := if tj ≥ 113 then 3 else if tj ≥ 110 then 2 else if tj ≥ 105 then 1 else 0
  if up ≥ cur then up
  else ((upFrom 0 cur).find? fun l => decide (tj + 5 > throttleEntry l) && decide (tj + 5 ≤ throttleEntry (l + 1))).getD cur

/-- The reading of a die's junction temperature. -/
def State.setTj (s : State) (die : Nat) (tjC : Byte) : State :=
  let ds := tset 0 s.board.tjDie die tjC
  { s with board := { s.board with tjDie := ds, tj := BitVec.ofNat 8 (maxOf (ds.map fun d => d.2.toNat)) } }

/-- THROTTLE_CHANGE (R464, R479): dies 0 and 1 are the compute dies, 2 the hub. -/
def execThrottleChange (die : Nat) (tjC : Byte) (s : State) : Outcome :=
  .next (
    if die ≥ 3 ∨ s.rst.dev = .cold then s
    else
      let s := s.setTj die tjC
      let b := s.board
      let l := throttleFor b.throttle b.tj.toNat
      let soon : Bool := match b.throttleGtc with | some g => decide (s.time.gtc - g < 1000000) | none => false
      if l = b.throttle ∨ soon then s
      else
        let s := { s with board := { b with throttle := l, throttleGtc := some s.time.gtc } }
        let s := if l = 0 then s else hullNos.foldl (fun s h =>
          s.setHull h { s.hull h with prog := (s.hull h).prog.map fun p => if p.state = 3 then { p with throttled := true } else p }) s
        (s.envRec 3 0).raise 100)

end Sys2Proof.Machine
end

