-- ==== Sys2Proof/Machine/Hulls.lean ====
section
/-!
DEFINITION. Hulls (R334–R337, R339, R340, R350, R351, R355–R358): creation, grants and loans, reclaim and destruction up to the fold point,
scrub and regrant.
-/

namespace Sys2Proof.Machine

/-! ## What is free (R182, R334, R337, R350) -/

/-- A mask of the bits that hold. -/
def maskOf (n : Nat) (f : Nat → Bool) : Nat := sumOf ((upFrom 0 n).map fun i => bitAt (f i) i)

/-- Bits set in a mask. -/
def bitCount (v : Nat) : Nat := ((upFrom 0 64).filter fun i => bitOf v i).length

/-- A pod that some hull holds or that awaits its scrub. -/
def State.podHeld (s : State) (p : Nat) : Bool :=
  (s.pod p).hull != 0 || hullNos.any fun h =>
    ((s.hull h).grants.any fun g => g.pods.getLsbD p) || (s.hull h).reclaims.any fun r => r.removedPods.getLsbD p

/-- The pod may be granted: free and IDLE, or OFF or going to sleep and to be woken (R460). -/
def State.podFree (s : State) (p : Nat) : Bool :=
  !s.podHeld p && ((s.pod p).state == .idle || (s.pod p).state == .off) && !s.board.fused.getLsbD p

/-- Spine slot groups in use or awaiting their scrub. -/
def State.spineUsed (s : State) : Nat :=
  hullNos.foldl (fun m h => (s.hull h).reclaims.foldl (fun m r => if r.phase ≥ 3 then m ||| r.grant.spine.toNat else m)
    (m ||| (s.hull h).spine.toNat)) 0

/-- Near-memory slot groups in use or awaiting their scrub. -/
def State.nmuUsed (s : State) : Nat :=
  hullNos.foldl (fun m h => (s.hull h).reclaims.foldl (fun m r => if r.phase ≥ 3 then m ||| r.grant.nmu.toNat else m)
    (m ||| (s.hull h).nmu.toNat)) 0

/-- The lowest-numbered free slot groups of 0–14. -/
def freeGroups (used : Nat) : List Nat := (upFrom 0 15).filter fun i => !bitOf used i

/-- Tokens not assigned to a hull (R90), nor charged by a probe of a free pod (R392). -/
def State.unassigned (s : State) : Nat :=
  5600 - sumOf (hullNos.map fun h => (s.hull h).share)
    - (if (s.probe.state = 1 ∨ s.probe.state = 2) ∧ !s.probe.nmu ∧ s.probe.hull = 0 then s.probe.share else 0)

/-- Sync partitions in use or awaiting their scrub. -/
def State.partitions (s : State) : List (Nat × Nat) :=
  hullNos.flatMap fun h => ((s.hull h).syncBase, (s.hull h).syncCount) :: (s.hull h).reclaims.map (·.removedSync)

/-- A range of sync objects meets no partition. -/
def State.syncFree (s : State) (base n : Nat) : Bool :=
  s.partitions.all fun q => q.2 == 0 || decide (base + n ≤ q.1 ∨ q.1 + q.2 ≤ base)

/-- The lowest free range of `n` sync objects; ranges begin at multiples of 64. -/
def State.syncRange (s : State) (n : Nat) : Option Nat :=
  ((upFrom 0 256).map (64 * ·)).find? fun b => decide (b + n ≤ 16384) && s.syncFree b n

/-- The longest free range of sync objects. -/
def State.syncLongest (s : State) : Nat :=
  ((upFrom 0 256).foldl (fun (a : Nat × Nat) i =>
    let run := if s.syncFree (64 * i) 64 then a.1 + 64 else 0
    (run, max a.2 run)) (0, 0)).2

/-- The standing charge of a hull (R81). -/
def State.standingOf (s : State) (h : Nat) : Nat :=
  36 * bitCount (s.hull h).nmu.toNat
    + 24 * (match s.jv.plan with | some p => (p.bundles.filter fun b => b.1 != 0xFF && b.2.1 == h).length | none => 0)

/-! ## Choosing units (R182) -/

/-- Free tier A units in ascending order of (c mod 64, c div 64). -/
def State.freeAOrder (s : State) : List Nat :=
  let f := s.freeUnits false
  (upFrom 0 512).filterMap fun k =>
    let c := 64 * (k % 8) + k / 8
    if f.contains c then some c else none

/-- Channels of a run are all free. -/
def runFree (free : List Nat) (a n : Nat) : Bool := (upFrom a n).all free.contains

/-- Length of the free run that goes up from `a`. -/
def runUp (free : List Nat) (a : Nat) : Nat := ((upFrom a 64).takeWhile free.contains).length

/-- Length of the free run that goes down from `a` (not included). -/
def runDown (free : List Nat) (a : Nat) : Nat := (((upFrom 0 a).reverse).takeWhile free.contains).length

/-- First channel of the run that a grant of `n` channels takes, or the shortfall. -/
def State.chooseB (s : State) (h n : Nat) : Option Nat × Nat :=
  let free := s.freeUnits true
  match (s.hull h).rangeB with
  | none =>
    match (upFrom 0 64).find? fun a => decide (a + n ≤ 64) && runFree free a n with
    | some a => (some a, 0)
    | none => (none, n - maxOf ((upFrom 0 64).map (runUp free)))
  | some (lo, hi) =>
    if hi + n < 64 ∧ runFree free (hi + 1) n then (some (hi + 1), 0)
    else if n ≤ lo ∧ runFree free (lo - n) n then (some (lo - n), 0)
    else (none, n - max (runUp free (hi + 1)) (runDown free lo))

/-! ## Grants (R337–R339, R356) -/

/-- What a grant asks for. -/
structure Ask where
  pods : Nat
  unitsA : Nat
  unitsB : Nat
  spine : Nat
  share : Nat
  nmu : Nat
  sync : Nat
  deriving DecidableEq, Repr

/-- Nothing asked for. -/
def Ask.isEmpty (a : Ask) : Bool := decide (a.pods = 0 ∧ a.unitsA = 0 ∧ a.unitsB = 0 ∧ a.spine = 0 ∧ a.share = 0 ∧ a.nmu = 0 ∧ a.sync = 0)

/-- Windows end at the end of their last extent. -/
def Hull.fullLimit (x : Hull) (tierB : Bool) : Nat :=
  4096 * extStart (blkPer tierB) (x.exts tierB) (x.exts tierB).length

/-- The lowest-numbered level that is short, with its shortfall (R356, R358). -/
def State.grantShort (s : State) (h : Nat) (a : Ask) : Option (Nat × Nat) :=
  let x := s.hull h
  let pods := ((upFrom 0 8).filter fun p => bitOf a.pods p && !s.podFree p).length
  let freeA := (s.freeUnits false).length
  let b := s.chooseB h a.unitsB
  let spine := (freeGroups s.spineUsed).length
  let nmu := (freeGroups s.nmuUsed).length
  let over_ := b2n (decide (0 < a.unitsA ∧ x.extA.length ≥ 8)) + b2n (decide (0 < a.unitsB ∧ x.extB.length ≥ 4))
  if pods ≠ 0 then some (1, pods)
  else if freeA < a.unitsA then some (2, a.unitsA - freeA)
  else if 0 < a.unitsB ∧ b.1.isNone then some (3, b.2)
  else if s.unassigned < a.share then some (4, a.share - s.unassigned)
  else if spine < a.spine then some (5, a.spine - spine)
  else if nmu < a.nmu then some (6, a.nmu - nmu)
  else if 0 < a.sync ∧ (s.syncRange a.sync).isNone then some (7, a.sync - s.syncLongest)
  else if 0 < over_ then some (8, over_)
  else none

/-- Appends an extent of units to a hull. -/
def State.addExtent (s : State) (h : Nat) (tierB : Bool) (units : List Nat) (grant : Nat) : State :=
  if units.isEmpty then s
  else
    let f := s.free
    let s := f.2
    let x := s.hull h
    let n := (x.exts tierB).length
    let e : Extent := { units := units, key := f.1, grant := grant }
    let x := if tierB then { x with extB := x.extB ++ [e] } else { x with extA := x.extA ++ [e] }
    let s := s.setHull h (if tierB then { x with limitB := x.fullLimit true } else { x with limitA := x.fullLimit false })
    (upFrom 0 units.length).foldl (fun s k =>
      let u := unitOf tierB (units.getD k 0)
      s.setUnit u { s.unit u with state := 1, hull := h, extent := n, slot := k }) s

/-- The lowest grant id not in use. -/
def Hull.freeGrant (x : Hull) : Option Nat :=
  (upFrom 0 16).find? fun i => !(x.grants.any fun g => g.id == i) && !(x.reclaims.any fun r => r.grant.id == i)

/-- Gives a hull what was asked for; every check has passed. -/
def State.giveGrant (s : State) (h : Nat) (a : Ask) (lender : Option Nat) : State :=
  let x := s.hull h
  let id := x.freeGrant.getD 0
  let spine := (freeGroups s.spineUsed).take a.spine
  let nmu := (freeGroups s.nmuUsed).take a.nmu
  let sync := s.syncRange a.sync
  let unitsA := s.freeAOrder.take a.unitsA
  let unitsB := match (s.chooseB h a.unitsB).1 with | some b => upFrom b a.unitsB | none => []
  let sm := sumOf (spine.map (2 ^ ·))
  let nm := sumOf (nmu.map (2 ^ ·))
  let g : Grant := { id := id, pods := BitVec.ofNat 8 a.pods, unitsA := a.unitsA, unitsB := a.unitsB, spine := BitVec.ofNat 15 sm,
                     nmu := BitVec.ofNat 15 nm, share := a.share, syncCount := a.sync, lender := lender }
  let s := s.setHull h { x with
    grants := x.grants ++ [g], share := x.share + a.share, spine := x.spine ||| g.spine, nmu := x.nmu ||| g.nmu,
    syncBase := if a.sync = 0 then x.syncBase else sync.getD 0, syncCount := if a.sync = 0 then x.syncCount else a.sync,
    newPods := x.newPods || (x.state == .running && a.pods != 0) }
  let s := { s with nmu := { s.nmu with slots := nmu.foldl (fun t i => tput t i h) s.nmu.slots } }
  let s := (upFrom 0 8).foldl (fun s p =>
    if bitOf a.pods p then s.setPod p { s.pod p with hull := h, state := .idle } else s) s
  (s.addExtent h false unitsA id).addExtent h true unitsB id

/-- A state in which a hull may hold and be given things. -/
def Hull.live (x : Hull) : Bool := x.state == .granted || x.state == .running

/-! ## Pods that wake (R460, R461) -/

/-- The pod is asleep or going to sleep. -/
def Pod.asleep (x : Pod) : Bool := x.state == .off || x.entering

/-- An enabled source meets the sleep entry: it is aborted, the sleep command replies, the cause is recorded (R461). -/
def State.abortSleep (s : State) (p cause : Nat) : State :=
  let x := s.pod p
  let s := s.setPod p { x with entering := false, aborted := true, wakeCause := BitVec.ofNat 3 cause, owes := none }
  let s := match x.owes with | some c => s.reply c 0x0A00 sWAKEABORT (mkFields [(0, 1, 1)]) | none => s
  s.raise 99

/-- An OFF pod begins to wake. -/
def State.startWake (s : State) (p cause : Nat) : State :=
  s.setPod p { s.pod p with waking := true, wakeCause := BitVec.ofNat 3 cause }

/-- A grant or probe names sleeping pods: an entry is aborted, an OFF pod is woken, and the command waits at the first of those. -/
def State.wakeFor (s : State) (pods : List Nat) (cause op : Nat) (c : Cmd) : State × Bool :=
  let s := pods.foldl (fun (s : State) p => if (s.pod p).entering then s.abortSleep p cause else s) s
  match pods.find? fun p => (s.pod p).state == .off with
  | none => (s, false)
  | some q =>
    let s := pods.foldl (fun (s : State) p =>
      if (s.pod p).state = .off ∧ !(s.pod p).waking then s.startWake p cause else s) s
    (s.setPod q { s.pod q with waiting := (s.pod q).waiting ++ [(op, c)] }, true)

/-! ## HULL_CREATE, HULL_GRANT, HULL_STATUS -/

/-- HULL_CREATE (R355, R358). -/
def State.hullCreate (s : State) (c : Cmd) : State :=
  let h := pf c.params 0 1
  let owner := pf c.params 2 2
  let x := s.hull h
  if !isHull h ∨ pf c.params 1 1 ≠ 0 ∨ pf c.params 4 4 ≠ 0 ∨ !restZero c 24 ∨ owner = 0 ∨ owner = 0xFFFF then s.reply c 0x0200 sBADPARAM 0
  else if !s.isOperator c then s.reply c 0x0200 sDENIED 0
  else if x.state ≠ .free then s.reply c 0x0200 sBUSY 0
  else
    let k0 := BitVec.ofNat 64 (pf c.params 8 8)
    let k1 := BitVec.ofNat 64 (pf c.params 16 8)
    let y := { Hull.init with state := .granted, owner := BitVec.ofNat 16 owner, k0 := k0, k1 := k1, lastGrant := x.lastGrant,
                              lastForced := x.lastForced, lastStopped := x.lastStopped, lastReturned := x.lastReturned, lastGtc := x.lastGtc }
    (s.setHull h y).reply c 0x0200 sDONE (mkFields [(0, 8, (keyCheck k0 k1).toNat)])

/-- HULL_CREATE. -/
def execHullCreate (c : Cmd) (s : State) : Outcome := .next (s.packet c 0x0200 fun s => s.hullCreate c)

/-- What HULL_GRANT asks for (R356). -/
def askOf (c : Cmd) : Ask :=
  { pods := pf c.params 3 1, unitsA := pf c.params 4 2, unitsB := pf c.params 6 1, spine := pf c.params 7 1, share := pf c.params 8 2,
    nmu := pf c.params 10 1, sync := pf c.params 12 2 }

/-- The fields of a grant are in rule (R358). -/
def State.grantOk (s : State) (c : Cmd) : Bool :=
  let h := pf c.params 0 1
  let fl := pf c.params 1 1
  let l := pf c.params 2 1
  let a := askOf c
  isHull h && decide (fl < 2) && (if fl = 1 then isHull l && l != h else l == 0) && pf c.params 11 1 == 0 && restZero c 14
    && decide (a.unitsA ≤ 512 ∧ a.unitsB ≤ 63 ∧ a.spine ≤ 15 ∧ a.share ≤ 5600 ∧ a.nmu ≤ 15 ∧ a.sync ≤ 16384 ∧ a.sync % 64 = 0)
    && a.pods &&& s.board.fused.toNat == 0 && !a.isEmpty && (a.sync == 0 || (s.hull h).syncCount == 0)

/-- HULL_GRANT (R337–R339, R356, R358, R460). -/
def State.hullGrant (s : State) (c : Cmd) : State :=
  let h := pf c.params 0 1
  let a := askOf c
  let lender := if pf c.params 1 1 = 1 then some (pf c.params 2 1) else none
  let x := s.hull h
  let named := (upFrom 0 8).filter fun p => bitOf a.pods p
  let asleep := named.filter fun p => (s.pod p).asleep
  let noLender : Bool := match lender with | some l => !(s.hull l).live | none => false
  if !s.grantOk c then s.reply c 0x0201 sBADPARAM 0
  else if !s.isOperator c then s.reply c 0x0201 sDENIED 0
  else if !x.live ∨ !x.reclaims.isEmpty ∨ x.grants.length ≥ 16 ∨ noLender then s.reply c 0x0201 sBUSY 0
  else if asleep.any fun p => !(s.pod p).wakeMask.getLsbD 0 then s.reply c 0x0201 sBUSY 0
  else
    match s.grantShort h a with
    | some (level, short) => s.reply c 0x0201 sNORES (mkFields [(1, 1, level), (8, 8, short)])
    | none =>
      let w := s.wakeFor asleep 1 0x0201 c
      if w.2 then w.1
      else
        let s := w.1.giveGrant h a lender
        let y := s.hull h
        s.reply c 0x0201 sDONE (mkFields [(0, 1, x.freeGrant.getD 0), (2, 2, y.syncBase), (16, 8, y.limitA), (24, 8, y.limitB)])

/-- HULL_GRANT. -/
def execHullGrant (c : Cmd) (s : State) : Outcome := .next (s.packet c 0x0201 fun s => s.hullGrant c)

/-- STATE codes of a hull (R357). -/
def hullCode : HullState → Nat
  | .free => 0
  | .granted => 1
  | .running => 2
  | .draining => 3
  | .scrubbing => 4

/-- Phase of the reclaim being served. -/
def Hull.reclaimPhase (x : Hull) : Nat := match x.reclaims with | r :: _ => r.phase | [] => 0

/-- Live grant ids (R357). -/
def Hull.grantMask (x : Hull) : Nat := maskOf 16 fun i => x.grants.any fun g => g.id == i

/-- Pods held, as a mask. -/
def State.podMask (s : State) (h : Nat) : Nat := maskOf 8 fun p => (s.pod p).hull == h

/-- HULL_STATUS (R357). -/
def State.hullStatus (s : State) (c : Cmd) : State :=
  let h := pf c.params 0 1
  let x := s.hull h
  if !isHull h ∨ !restZero c 1 then s.reply c 0x0204 sBADPARAM 0
  else if !s.ownsHull c h ∧ !s.isOperator c then s.reply c 0x0204 sDENIED 0
  else
    let fold := match x.state, x.prog with | .running, some p => p.foldLog2 | _, _ => 0
    s.reply c 0x0204 sDONE (mkFields [(0, 1, hullCode x.state), (1, 1, fold), (2, 1, s.podMask h), (3, 1, x.reclaimPhase),
      (4, 4, x.pgen.toNat), (8, 2, x.share), (10, 2, x.syncBase), (12, 2, x.syncCount), (14, 2, x.grantMask), (16, 8, x.limitA),
      (24, 8, x.limitB)])

/-- HULL_STATUS. -/
def execHullStatus (c : Cmd) (s : State) : Outcome := .next (s.packet c 0x0204 fun s => s.hullStatus c)

/-! ## Reclaim: acceptance and the wait for the fold point (R340, R341, R357) -/

/-- A grant that may be reclaimed: live, under no reclaim, and, if it holds an extent, none later does (R340). -/
def Hull.reclaimable (x : Hull) (id : Nat) : Option Grant :=
  let live := x.grants.filter fun g => !(x.reclaims.any fun r => r.grant.id == g.id)
  match live.findIdx? fun g => g.id == id with
  | none => none
  | some i =>
    let mem := fun (g : Grant) => decide (g.unitsA ≠ 0 ∨ g.unitsB ≠ 0)
    match live[i]? with
    | some g => if mem g ∧ (live.drop (i + 1)).any mem then none else some g
    | none => none

/-- The reclaim at the head of the queue begins to be served. -/
def State.serveReclaim (s : State) (h : Nat) : State :=
  let x := s.hull h
  match x.reclaims with
  | r :: rest =>
    if r.phase = 0 then
      s.setHull h { x with reclaims := { r with phase := 1 } :: rest, lastGrant := r.grant.id, lastForced := false, lastStopped := false,
                           lastReturned := false, lastGtc := r.gtc }
    else s
  | [] => s

/-- The end of a probe run (R392, R393): `outcome` 3 PASS, 4 FAIL, 5 ABORTED. -/
def State.probeEnd (s : State) (outcome : Nat) : State :=
  ({ s with probe := { s.probe with state := outcome } }).event evIntg 4 580

/-- A probe of a pod that leaves with its grant or hull is aborted at once (R393). -/
def State.abortProbe (s : State) (pods : Nat) : State :=
  let q := s.probe
  if (q.state = 1 ∨ q.state = 2) ∧ !q.nmu ∧ bitOf pods q.target then
    let x := s.pod q.target
    (s.setPod q.target { x with leaving := none, state := if x.state = .test then .idle else x.state }).probeEnd 5
  else s

/-- HULL_RECLAIM (R340, R341, R357, R358). -/
def State.hullReclaim (s : State) (c : Cmd) : State :=
  let h := pf c.params 0 1
  let fl := pf c.params 1 1
  let ms := pf c.params 4 4
  let x := s.hull h
  match x.reclaimable (pf c.params 2 1) with
  | none => s.reply c 0x0202 sBADPARAM 0
  | some g =>
    if !isHull h ∨ fl ≥ 2 ∨ pf c.params 3 1 ≠ 0 ∨ !restZero c 8 ∨ !(ms = 0 ∨ (10 ≤ ms ∧ ms ≤ 30000)) then s.reply c 0x0202 sBADPARAM 0
    else if !s.isOperator c then s.reply c 0x0202 sDENIED 0
    else if !x.live then s.reply c 0x0202 sBUSY 0
    else
      let r : Reclaim := { grant := g, forceMs := if ms = 0 then s.regF 0x020010 14 0 else ms, forceNow := fl == 1, gtc := s.time.gtc,
                           phase := 0, forced := false, stopped := false, removedA := [], removedB := [], removedPods := 0,
                           removedSync := (0, 0), foldGtc := 0 }
      let s := (s.setHull h { x with reclaims := x.reclaims ++ [r] }).serveReclaim h
      let s := s.abortProbe g.pods.toNat
      (s.event evHull 0 80).reply c 0x0202 sACCEPTED 0

/-- HULL_RECLAIM. -/
def execHullReclaim (c : Cmd) (s : State) : Outcome := .next (s.packet c 0x0202 fun s => s.hullReclaim c)

/-- RECLAIM_FORCE_TIMEOUT (R341, R392): the wait for a step boundary has run out, or was not allowed. The halt of a halted hull ends,
so that it comes to its fold point (R456). -/
def execReclaimForceTimeout (h : Nat) (s : State) : Outcome :=
  .next (
    let x := s.hull h
    if x.state ≠ .running ∨ x.foldForced ∨ x.holds.getLsbD 0 then s
    else
      let late := fun (gtc ms : Nat) => decide (gtc + 1000000 * ms ≤ s.time.gtc)
      let byProbe := (s.podsOf h).any fun p => match (s.pod p).leaving with | some g => late g (s.regF 0x020010 14 0) | none => false
      match x.reclaims with
      | r :: rest =>
        if r.phase = 1 ∧ (r.forceNow ∨ late r.gtc r.forceMs) then
          let s := s.setHull h { x with reclaims := { r with forced := true } :: rest, lastForced := true, foldForced := true, halted := false,
                                        holds := if r.forceNow then x.holds ||| 1 else x.holds }
          s.event evHull 1 81
        else if byProbe then s.setHull h { x with foldForced := true, halted := false }
        else s
      | [] => if byProbe then s.setHull h { x with foldForced := true, halted := false } else s)

/-! ## Scrub (R350) -/

/-- A unit is scrubbed: every block carries the unwritten marker; a unit that fails its check is mapped out with cause 5. -/
def State.scrubUnit (s : State) (u : MemUnit) (bad : Bool) : State :=
  let tb := unitTier u
  let gone := fun (k : Nat) => k / blkPer tb == unitNo u
  let s := { s with mem := { s.mem with
    a := if tb then s.mem.a else s.mem.a.filter fun kv => !gone kv.1,
    b := if tb then s.mem.b.filter fun kv => !gone kv.1 else s.mem.b,
    marks := s.mem.marks.filter fun m => !((m.tierB == tb && gone m.key) || (m.dstB == tb && gone m.dst)) } }
  if (s.unit u).state = 2 then s
  else
    let s := s.setUnit u { s.unit u with state := 0, hull := 0, extent := 0, slot := 0 }
    if bad then s.mapOut u 5 s.time.gtc none else s

/-- An engine's work is abandoned (R251); AU_ commands that wait for it reply FAULT (log entry 27). -/
def State.dropWork (s : State) (a : Nat) : State :=
  let e := s.eng a
  let s := s.setEng a e.idled
  e.queue.foldl (fun (s : State) (c : ACmd) =>
    match c.owed with
    | some d => s.reply d (if c.op = 2 then 0x0601 else 0x0600) sFAULT 0
    | none => s) s

/-- A pod is cleared (R350): stores, banks, registers of R95 and R118, flags and counts, engines' structures. -/
def State.clearPod (s : State) (p : Nat) : State :=
  let s := s.setPod p { s.pod p with store := [], landings := [], reqs := [], hold := 0, share := 0, posBase := 0 }
  let s := (upFrom (16 * p) 16).foldl (fun s t =>
    s.updTile t fun x => { Tile.init with tfault := x.tfault, faultQueue := x.faultQueue, faultPc := x.faultPc }) s
  [2 * p, 2 * p + 1].foldl (fun (s : State) a =>
    let s := s.dropWork a
    s.setEng a { s.eng a with
      tileMode := false, bankBase := 0, bankCount := 0, structs := [], results := [] }) s

/-- The ask that a lent grant makes of the free pool. -/
def Grant.ask (g : Grant) : Ask :=
  { pods := g.pods.toNat, unitsA := g.unitsA, unitsB := g.unitsB, spine := bitCount g.spine.toNat, share := g.share,
    nmu := bitCount g.nmu.toNat, sync := g.syncCount }

/-- A lent grant goes back to its lender as a new grant, where R339 allows it. -/
def State.returnLoan (s : State) (g : Grant) : State × Bool :=
  match g.lender with
  | none => (s, false)
  | some l =>
    let x := s.hull l
    let a := { g.ask with sync := if x.syncCount = 0 then g.syncCount else 0 }
    if !x.live ∨ x.grants.length ≥ 16 ∨ (s.grantShort l a).isSome then (s, false) else (s.giveGrant l a none, true)

/-- What a reclaim removed is scrubbed and free; a loan returns to its lender. -/
def State.scrubRemoved (s : State) (r : Reclaim) (failA failB : List Nat) : State :=
  let s := r.removedA.foldl (fun s n => s.scrubUnit (.a n) (failA.contains n)) s
  let s := r.removedB.foldl (fun s n => s.scrubUnit (.b n) (failB.contains n)) s
  let s := ((upFrom 0 8).filter fun p => r.removedPods.getLsbD p).foldl State.clearPod s
  { s with sync := s.sync.filter fun o => decide (o.1 < r.removedSync.1 ∨ r.removedSync.1 + r.removedSync.2 ≤ o.1) }

/-- QUIESCE_COMPLETE (R350): the removed resources hold no outstanding work. -/
def execQuiesceComplete (h : Nat) (s : State) : Outcome :=
  .next (
    let x := s.hull h
    match x.reclaims with
    | r :: rest => if r.phase = 3 then s.setHull h { x with reclaims := { r with phase := 4 } :: rest } else s
    | [] => s)

/-- A call in progress whose program goes away fails as late (R429). -/
def State.dropCalls (s : State) (h : Nat) : State :=
  match (s.hull h).prog with
  | some p => (p.calls.filter fun k => !k.replied).foldl (fun (s : State) k =>
      s.reply k.cmd 0x0304 sFAULT (mkFields [(0, 1, 2), (4, 4, k.k), (8, 8, k.landed)])) s
  | none => s

/-- Everything a SCRUBBING hull held is scrubbed; the hull is FREE, and its loans go back to their lenders (R351). -/
def State.freeHull (s : State) (h : Nat) (failA failB : List Nat) : State :=
  let x := s.hull h
  let own := { x with grants := [] }
  let all : Reclaim :=
    { grant := { id := 16, pods := 0, unitsA := 0, unitsB := 0, spine := 0, nmu := 0, share := 0, syncCount := 0, lender := none },
      forceMs := 0, forceNow := false, gtc := 0, phase := 4, forced := false, stopped := false,
      removedA := (own.extA.flatMap (·.units)) ++ x.orphans.filterMap fun o => match o.2 with | .a n => some n | .b _ => none,
      removedB := (own.extB.flatMap (·.units)) ++ x.orphans.filterMap fun o => match o.2 with | .b n => some n | .a _ => none,
      removedPods := BitVec.ofNat 8 (s.podMask h), removedSync := (x.syncBase, x.syncCount), foldGtc := 0 }
  let s := s.dropCalls h
  let s := (x.reclaims ++ [all]).foldl (fun s r => s.scrubRemoved r failA failB) s
  let s := (s.podsOf h).foldl (fun s p =>
    s.setPod p { s.pod p with hull := 0, leaving := none, state := if (s.pod p).state = .active then .idle else (s.pod p).state }) s
  let s := { s with nmu := { s.nmu with slots := (upFrom 0 15).foldl (fun t i => if tget 0 t i = h then tput t i 0 else t) s.nmu.slots,
                                        held := s.nmu.held } }
  let s := { s with sync := s.sync.filter fun o => o.2.hull != h,
                    mem := { s.mem with marks := s.mem.marks.filter fun m => m.hull != h } }
  let s := s.setHull h { Hull.init with lastGrant := x.lastGrant, lastForced := x.lastForced, lastStopped := x.lastStopped,
                                        lastReturned := x.lastReturned, lastGtc := x.lastGtc }
  (x.grants ++ x.reclaims.filterMap fun r => if r.phase ≥ 3 then some r.grant else none).foldl (fun s g => (s.returnLoan g).1) s

/-- SCRUB_COMPLETE (R339, R344, R350, R351): `failA` and `failB` are the units that fail the check. -/
def execScrubComplete (h : Nat) (failA failB : List Nat) (s : State) : Outcome :=
  .next (
    let x := s.hull h
    match x.state, x.reclaims with
    | .scrubbing, _ => (s.freeHull h failA failB).event evHull 4 84
    | _, r :: rest =>
      if r.phase ≠ 4 then s
      else
        let s := (s.scrubRemoved r failA failB).event evHull 4 84
        let s := s.setHull h { s.hull h with reclaims := rest }
        let b := s.returnLoan r.grant
        let s := b.1.setHull h { b.1.hull h with lastReturned := b.2 }
        (s.serveReclaim h).event evHull 2 82
    | _, [] => s)

/-! ## Destruction (R351, R357) -/

/-- HULL_DESTROY. -/
def State.hullDestroy (s : State) (c : Cmd) : State :=
  let h := pf c.params 0 1
  if !isHull h ∨ !restZero c 1 then s.reply c 0x0203 sBADPARAM 0
  else if !s.isOperator c then s.reply c 0x0203 sDENIED 0
  else if !(s.hull h).live then s.reply c 0x0203 sBUSY 0
  else
    let s := s.stopHull h 6 sDONE false
    let s := s.abortProbe (s.podMask h ||| (s.hull h).grants.foldl (fun m g => m ||| g.pods.toNat) 0)
    let x := s.hull h
    let s := s.setHull h { x with state := .draining, halted := false, holds := 0, reclaims := x.reclaims.filter fun r => decide (3 ≤ r.phase) }
    let s := { s with groups := s.groups.filter fun g => g.2.hull != h }
    let s := hullNos.foldl (fun s k =>
      let y := s.hull k
      let free := fun (g : Grant) => if g.lender = some h then { g with lender := none } else g
      s.setHull k { y with grants := y.grants.map free, reclaims := y.reclaims.map fun r => { r with grant := free r.grant } }) s
    s.reply c 0x0203 sACCEPTED 0

/-- HULL_DESTROY. -/
def execHullDestroy (c : Cmd) (s : State) : Outcome := .next (s.packet c 0x0203 fun s => s.hullDestroy c)

/-- DRAIN_END (R351, R365): every request, engine and checkpoint drain of the hull has ended. -/
def execDrainEnd (h : Nat) (s : State) : Outcome :=
  .next (
    let x := s.hull h
    let working := (s.podsOf h).any fun p => !(s.eng (2 * p)).queue.isEmpty || !(s.eng (2 * p + 1)).queue.isEmpty
    let copying : Bool := match s.mem.mapout with | some u => decide ((s.unit u).hull = h) | none => false
    if x.state ≠ .draining ∨ x.ckpt.state = 2 ∨ x.ckpt.state = 3 ∨ working ∨ copying then s
    else s.setHull h { x with state := .scrubbing })

end Sys2Proof.Machine
end

