-- ==== Sys2Proof/Machine/Fold.lean ====
section
/-!
DEFINITION. Fold points (R338, R341–R343, R392, R394), evacuation, and placement rounds, restarts and resends (R345–R348).
-/

namespace Sys2Proof.Machine

/-! ## Moving a program (R342 step 3) -/

/-- The content of a tensor as it is read to be moved. -/
inductive Content where
  | bytes (l : List Byte)
  | blocks (l : List (Nat × Blk))
  deriving DecidableEq, Repr

/-- Reads a tensor where it lies. -/
def State.takeTensor (s : State) (h : Nat) (d : TensorDecl) (pl : Level × Nat) : Content :=
  match pl.1 with
  | .tileStore => .bytes (match s.tileOfLam h d.home with | some t => getBytes (s.tile t).store pl.2 d.bytes | none => zeros d.bytes)
  | .podStore => .bytes (getBytes (s.pod (s.homePod h d.home)).store pl.2 d.bytes)
  | l =>
    let tb := l == .tierB
    .blocks ((blocksOf 0 d.bytes).filterMap fun i =>
      ((s.hull h).find tb (pl.2 / 4096 + i)).map fun u => (i, s.blk tb (blkPer tb * u.1 + u.2)))

/-- Writes a tensor to its new place: payload and husks together between the tiers, tag unchanged (R342). -/
def State.putTensor (s : State) (h : Nat) (d : TensorDecl) (pl : Level × Nat) (c : Content) : State :=
  let flat := match c with
    | .bytes l => l
    | .blocks l => ((blocksOf 0 d.bytes).flatMap fun i => match l.find? (fun b => b.1 == i) with
        | some b => b.2.payload
        | none => zeros 4096).take d.bytes
  match pl.1 with
  | .tileStore =>
    match s.tileOfLam h d.home with
    | some t => s.updTile t fun x => { x with store := putBytes x.store pl.2 flat }
    | none => s
  | .podStore =>
    let p := s.homePod h d.home
    s.setPod p { s.pod p with store := putBytes (s.pod p).store pl.2 flat }
  | l =>
    let tb := l == .tierB
    let put := fun (s : State) (i : Nat) (b : Blk) =>
      match (s.hull h).find tb (pl.2 / 4096 + i) with
      | some u => s.setBlk tb (blkPer tb * u.1 + u.2) b
      | none => s
    match c with
    | .blocks bs => bs.foldl (fun s b => put s b.1 b.2) s
    | .bytes l => (blocksOf 0 l.length).foldl (fun s i => put s i (Blk.of (slice l (4096 * i) 4096) (huskTag d.id i))) s

/-- A tile's execution state carried to another tile of the same position; the registers of the physical tile stay. -/
def Tile.movedTo (x y : Tile) : Tile :=
  { x with flags := y.flags, satRetries := y.satRetries, residues := y.residues, tfault := y.tfault, faultQueue := y.faultQueue,
           faultPc := y.faultPc, frozen := y.frozen }

/-- The pods given up by a hull, idle and out of it; work on their engines is abandoned (R251). -/
def State.dropPods (s : State) (pods : List Nat) : State :=
  pods.foldl (fun s p =>
    let x := s.pod p
    let s := s.setPod p { x with hull := 0, state := if x.state = .active then .idle else x.state, posBase := 0, share := 0, hold := 0,
                                 reqs := [], landings := [] }
    let s := [2 * p, 2 * p + 1].foldl (fun (s : State) a => s.dropWork a) s
    (upFrom (16 * p) 16).foldl (fun s t => s.updTile t fun y => y.halt false) s) s

/-- The program moves to a new fold on the pods that stay: tiles, engines, tensors and sync objects by logical coordinates. With
the fold factor unchanged a position's tile keeps its whole state; with another, the new schedule begins. -/
def State.refold (s : State) (h : Nat) (p : Prog) (f : Nat) (spill : List Nat) (drop : List Nat) : State :=
  let table := imgTable p.image f spill
  let moved := p.image.tensors.filterMap fun d =>
    match p.place d.id, (table.find? fun e => e.1 == d.id).map (·.2) with
    | some a, some b =>
      if a = b ∧ (a.1 = .tierA ∨ a.1 = .tierB) then none else some (d, b, s.takeTensor h d a)
    | _, _ => none
  let tiles := (s.tilesOf h).map fun t => ((s.tile t).position, s.tile t)
  let engines := (s.declared h p).map fun d => (d.1, s.eng d.2)
  let s := s.dropPods drop
  let q := { p with foldLog2 := f, spilled := spill, placed := table }
  let s := (s.setHull h { s.hull h with prog := some q }).seat h q
  let pods := s.podsOf h
  let s := if f = p.foldLog2 then tiles.foldl (fun (s : State) (jt : Nat × Tile) =>
      s.updTile (seatOf pods jt.1) fun y => jt.2.movedTo y) s else s
  let s := if f = p.foldLog2 then (s.declared h q).foldl (fun (s : State) (d : EngineDecl × Nat) =>
      match engines.find? fun e => e.1 == d.1 with
      | some e => s.setEng d.2 e.2
      | none => s) s
    else s.claimEngines h q
  let s := moved.foldl (fun (s : State) (m : TensorDecl × (Level × Nat) × Content) => s.putTensor h m.1 m.2.1 m.2.2) s
  s.rehome h

/-- The first block of a move between the tiers that fails its check before it is written (R379): tensor, block, finding. -/
def State.moveFault (s : State) (h : Nat) (p : Prog) (f : Nat) (spill : List Nat) : Option (Nat × Nat × Check) :=
  let table := imgTable p.image f spill
  p.image.tensors.findSome? fun d =>
    match p.place d.id, (table.find? fun e => e.1 == d.id).map (·.2) with
    | some a, some b =>
      if a = b then none
      else
        match s.takeTensor h d a with
        | .bytes _ => none
        | .blocks l => (l.map fun k => (d.id, k.1, k.2.check (some (huskTag d.id k.1)))).find? fun k => k.2.2 != .pass
    | _, _ => none

/-- Marks and boundary records are taken anew where the program now lies. -/
def State.remark (s : State) (h : Nat) : State :=
  let s := { s with mem := { s.mem with marks := s.mem.marks.filter fun m => m.hull != h } }
  (s.markUndo h).recordBoundary h

/-! ## The choice at a fold point (R342 steps 1 and 2, R343) -/

/-- Pods of the hull that a probe or bypass takes. -/
def State.leavingPods (s : State) (h : Nat) : List Nat := (s.podsOf h).filter fun p => (s.pod p).leaving.isSome

/-- The reclaim to be carried out at this fold point. -/
def Hull.foldReclaim (x : Hull) : Option Reclaim :=
  match x.reclaims with
  | r :: _ => if r.phase = 1 ∨ r.phase = 2 then some r else none
  | [] => none

/-- Pods that go at this fold point. -/
def State.goingPods (s : State) (h : Nat) : List Nat :=
  let r := match (s.hull h).foldReclaim with | some r => r.grant.pods | none => 0
  (s.podsOf h).filter fun p => (s.pod p).leaving.isSome || r.getLsbD p

/-- LIMIT of a window once a grant's extent is gone. -/
def Hull.limitAfter (x : Hull) (tierB : Bool) (g : Grant) : Nat :=
  let es := (x.exts tierB).filter fun e => e.grant != g.id
  min (x.limit tierB) (4096 * extStart (blkPer tierB) es es.length)

/-- Tokens that a probe of a pod of the hull charges to it (R392). -/
def State.probeCharge (s : State) (h : Nat) : Nat :=
  if (s.probe.state = 1 ∨ s.probe.state = 2) ∧ !s.probe.nmu ∧ s.probe.hull = h then s.probe.share else 0

/-- The fold factor and the annex prefix for what remains; none where R343 stops the program instead. -/
def State.foldTarget (s : State) (h : Nat) (p : Prog) : Option (Nat × List Nat) :=
  let x := s.hull h
  let r := x.foldReclaim
  let pods := (s.podsOf h).length - (s.goingPods h).length
  let limA := match r with | some r => x.limitAfter false r.grant | none => x.limitA
  let limB := match r with | some r => x.limitAfter true r.grant | none => x.limitB
  let share := x.share - (match r with | some r => r.grant.share | none => 0) - s.probeCharge h
  let standing := s.standingOf h - 36 * (match r with | some r => bitCount r.grant.nmu.toNat | none => 0)
  match imgChooseFold p.image pods with
  | none => none
  | some f =>
    match annexPrefix p.image p.image.annex (imgNeedA p.image f - limA) with
    | some (ids, n) => if imgNeedB p.image f n > limB ∨ planShare p.image f + standing > share then none else some (f, ids)
    | none => none

/-! ## Removal (R342 step 4) -/

/-- The areas of an open checkpoint are gone with a window's end (R343, R365). -/
def State.ckptReclaimed (s : State) (h : Nat) : State :=
  let x := s.hull h
  let areaEnd := match x.prog with | some p => p.areaA + (match p.image.ckptAreas with | some a => a.1 | none => 0) | none => 0
  match x.prog.bind fun p => p.image.ckptAreas with
  | some a =>
    if (x.ckpt.state = 2 ∨ x.ckpt.state = 3) ∧ (areaEnd > x.limitA ∨ a.2.1 + a.2.2 > x.limitB) then s.ckptFail h 4 else s
  | none => s

/-- The grant's resources leave the hull; they stay out of the free pool until scrubbed. -/
def State.removeGrant (s : State) (h : Nat) (r : Reclaim) : State :=
  let x := s.hull h
  let g := r.grant
  let mine := fun (es : List Extent) => (es.filter fun e => e.grant == g.id).flatMap (·.units)
  let lost := x.orphans.filter fun o => o.1 == g.id
  let ua := mine x.extA ++ lost.filterMap fun o => match o.2 with | .a n => some n | .b _ => none
  let ub := mine x.extB ++ lost.filterMap fun o => match o.2 with | .b n => some n | .a _ => none
  let parts := if g.syncCount ≠ 0 then (x.syncBase, x.syncCount) else (0, 0)
  let r' := { r with phase := 3, removedA := ua, removedB := ub, removedPods := g.pods, removedSync := parts }
  let s := s.dropPods ((upFrom 0 8).filter fun p => g.pods.getLsbD p && (s.pod p).hull == h)
  let s := ua.foldl (fun s n => s.setUnitA n { s.unitA n with state := 1, hull := 0, extent := 0, slot := 0 }) s
  let s := ub.foldl (fun s n => s.setUnitB n { s.unitB n with state := 1, hull := 0, extent := 0, slot := 0 }) s
  let s := { s with nmu := { s.nmu with slots := (upFrom 0 15).foldl (fun t i => if g.nmu.getLsbD i then tput t i 0 else t) s.nmu.slots } }
  let s := s.setHull h { x with
    grants := x.grants.filter fun k => k.id != g.id, share := x.share - g.share, spine := x.spine &&& ~~~g.spine, nmu := x.nmu &&& ~~~g.nmu,
    extA := x.extA.filter fun e => e.grant != g.id, extB := x.extB.filter fun e => e.grant != g.id, limitA := x.limitAfter false g,
    limitB := x.limitAfter true g, syncBase := if g.syncCount ≠ 0 then 0 else x.syncBase,
    syncCount := if g.syncCount ≠ 0 then 0 else x.syncCount, orphans := x.orphans.filter fun o => o.1 != g.id,
    reclaims := r' :: x.reclaims.drop 1 }
  let s := if (s.hull h).prog.isSome then s.setHull h { s.hull h with standing := s.standingOf h } else s
  s.ckptReclaimed h

/-- A map-out is copying a unit of the leaving grant: its removal waits (R200, R342). -/
def State.copyingIn (s : State) (h : Nat) (r : Reclaim) : Bool :=
  match s.mem.mapout with
  | some u =>
    let x := s.hull h
    (if unitTier u then x.extB else x.extA).any fun e => e.grant == r.grant.id && e.units.contains (unitNo u)
  | none => false

/-- A bypass is applied (R394): event, interrupt 582, and a record of class PROBE naming the pod, if any. The record's codes for a bypass
are not stated (log entry 26). -/
def State.bypassed (s : State) (pod : Option Nat) : State :=
  let v := fun (k : Nat) => (Config.unstated 26 [0x0C, k]).toNat
  let s := s.event evIntg 6 582
  s.log1 (mkRec 0x0C 2 0x0600 0 (pod.getD 0xFF) 0xFF 0 (natLe 1 (v 0) ++ natLe 4 (v 1) ++ natLe 4 (v 2)
    ++ natLe 2 (match pod with | some p => p | none => v 3) ++ natLe 1 (v 4)))

/-- A pod in no hull is taken out: it stays in TEST, and no grant names it any more (R394). -/
def State.bypassPod (s : State) (p : Nat) : State :=
  let bit := BitVec.ofNat 8 (2 ^ p)
  let s := hullNos.foldl (fun (s : State) h =>
    let x := s.hull h
    if x.state = .free then s
    else s.setHull h { x with grants := x.grants.map fun g => { g with pods := g.pods &&& ~~~bit } }) s
  ({ s with bypass := s.bypass ||| bit }.setPod p { s.pod p with state := .test, leaving := none, entering := false, waking := false }).bypassed (some p)

/-- Pods that leave for a probe or a bypass enter TEST (R392, R394). -/
def State.enterTest (s : State) (pods : List Nat) : State :=
  pods.foldl (fun s p =>
    if s.probe.state = 1 ∧ !s.probe.nmu ∧ s.probe.target = p then
      { s.setPod p { s.pod p with state := .test, leaving := none } with probe := { s.probe with state := 2, gtc := s.time.gtc } }
    else s.bypassPod p) s

/-! ## The fold point (R342, R343) -/

/-- The program stops instead of folding (R343); `marked` where a reclaim reports it. -/
def State.foldStop (s : State) (h : Nat) (marked : Bool) : State :=
  let s := s.stopHull h 5 sFAULT true
  if marked then
    let x := s.hull h
    (s.setHull h { x with lastStopped := true,
                          reclaims := match x.reclaims with | r :: l => { r with stopped := true } :: l | [] => [] }).event evHull 3 83
  else s

/-- What follows the fold, or the stop: removal of the grant, pods into TEST, the hold ends. -/
def State.foldRest (s : State) (h : Nat) (going : List Nat) : State :=
  let out := going.filter fun p => (s.pod p).leaving.isSome
  let s := match (s.hull h).foldReclaim with | some r => s.removeGrant h r | none => s
  let s := (s.dropPods out).enterTest out
  s.setHull h { s.hull h with holds := (s.hull h).holds &&& 0b11110, foldForced := false, newPods := false }

/-- Steps 3 to 6 of R342, the annex evacuated; a block that fails its check on the way stops the program (R380). -/
def State.foldFinish (s : State) (h f : Nat) (spill : List Nat) : State :=
  let x := s.hull h
  let going := s.goingPods h
  match x.state, x.prog with
  | .running, some p =>
    let forced := x.foldForced && (p.between == 0 || p.evalRun.isSome)
    if forced ∧ p.image.undoArea.isNone then (s.stopHull h 5 sFAULT true).foldRest h going
    else
      let change := f ≠ p.foldLog2 ∨ going ≠ [] ∨ x.newPods ∨ spill ≠ p.spilled
      let s := if forced then s.restartCore h p else s
      let s := match (s.hull h).prog with
        | some p =>
          if !change then s
          else
            match s.moveFault h p f spill with
            | some b => s.huskStop 0x0600 h 0xFF 0xFF b.1 b.2.1 b.2.2
            | none => (s.refold h p f spill going).remark h
        | none => s
      let s := s.foldRest h going
      if (s.hull h).state ≠ .running then s
      else if change then s.placementRound h forced true
      else if forced then s.askResend h
      else s
  | _, _ =>
    let s := s.foldRest h going
    if going = [] then s else s.placementRound h false false

/-- FOLD_POINT (R338, R341–R343): at once on a GRANTED hull; on a RUNNING one where it is held at its boundary. An extraction of the
cut that still runs is waited for, unless its areas leave. -/
def execFoldPoint (h : Nat) (s : State) : Outcome :=
  .next (
    let x := s.hull h
    match x.state with
    | .granted =>
      match x.reclaims with
      | r :: _ => if r.phase = 1 ∧ !s.copyingIn h r then s.foldFinish h 0 [] else s
      | [] => if s.leavingPods h = [] then s else s.foldFinish h 0 []
    | .running =>
      if !x.holds.getLsbD 0 then s
      else if !s.foldDue h then s.setHull h { x with holds := x.holds &&& 0b11110, foldForced := false }
      else
        let s := s.setHull h { x with halted := false }
        let x := s.hull h
        match x.prog with
        | none => s
        | some p =>
          let stays : Bool := match x.foldReclaim, p.image.ckptAreas with
            | some r, some a => decide (p.areaA + a.1 ≤ x.limitAfter false r.grant ∧ a.2.1 + a.2.2 ≤ x.limitAfter true r.grant)
            | _, _ => true
          if x.ckpt.state = 2 ∧ stays then s
          else
            match s.foldTarget h p with
            | none => (s.foldStop h x.foldReclaim.isSome).foldRest h (s.goingPods h)
            | some (f, spill) =>
              match x.foldReclaim with
              | some r =>
                if r.phase = 2 then s
                else if (spill.all p.spilled.contains) ∧ !s.copyingIn h r then s.foldFinish h f spill
                else s.setHull h { x with reclaims := { r with phase := 2, foldGtc := s.time.gtc } :: x.reclaims.drop 1 }
              | none => s.foldFinish h f spill
    | _ => s)

/-- EVACUATION_COMPLETE (R342): the annex tensors lie in tier B; the hull goes on under its new fold. -/
def execEvacuationComplete (h : Nat) (s : State) : Outcome :=
  .next (
    let x := s.hull h
    match x.reclaims with
    | r :: _ =>
      if r.phase ≠ 2 ∨ s.copyingIn h r then s
      else
        match x.state, x.prog with
        | .running, some p =>
          match s.foldTarget h p with
          | some (f, spill) => s.foldFinish h f spill
          | none => (s.foldStop h true).foldRest h (s.goingPods h)
        | .draining, _ => s
        | .scrubbing, _ => s
        | _, _ => s.foldFinish h 0 []
    | [] => s)

/-- EVACUATION_TIMEOUT (R343). -/
def execEvacuationTimeout (h : Nat) (s : State) : Outcome :=
  .next (
    let x := s.hull h
    match x.reclaims with
    | r :: _ =>
      if r.phase = 2 ∧ r.foldGtc + 1000000000 * s.regF 0x020010 20 16 ≤ s.time.gtc ∧ x.state = .running then
        (s.foldStop h true).foldRest h (s.goingPods h)
      else s
    | [] => s)

/-! ## Placement rounds (R345, R346, R348) -/

/-- Sends to a module every ledger entry of a step that was addressed to it, stamped with the generation held, with new numbers. -/
def State.resend (s : State) (h : Nat) (requester : BitVec 24) (step : Nat) : State :=
  match (s.hull h).prog with
  | some p =>
    (p.ledger.filter fun l => l.step == step && l.msg.dstFid == requester).foldl (fun (s : State) (l : LedgerEntry) =>
      let e := s.takeE2e l.msg.dstFid l.msg.cls
      e.2.sendMsg { l.msg with e2e := e.1, pgen := (s.hull h).pgen }) s
  | none => s

/-- Serves the resend requests that waited for the generation now held (R348). -/
def State.serveResends (s : State) (h : Nat) : State :=
  let x := s.hull h
  let due := x.resends.filter fun r => r.2.1 == x.pgen
  let s := s.setHull h { x with resends := x.resends.filter fun r => r.2.1 != x.pgen }
  due.foldl (fun (s : State) r => s.resend h r.1 r.2.2) s

/-- A setting is adopted: at the boundary of step s − 1, at once after it, with a restart in mid-step (R346). -/
def State.takeSetting (s : State) (h : Nat) (g : Word32) (step : Nat) : State :=
  let x := s.hull h
  let s := s.setHull h { x with holds := x.holds &&& 0b11101 }
  match x.state, x.prog with
  | .running, some p =>
    if x.step < step then s.setHull h { s.hull h with setting := some (g, step) }
    else if p.between = 0 then ((s.setGen h g).restartStep h).serveResends h
    else
      let s := (s.setGen h g).serveResends h
      if p.rerun then s.askResend h else s
  | _, _ => (s.setGen h g).serveResends h

/-- Passes a setting down the tree, and from a survivor to the module re-homed to it (R345). -/
def State.passSetting (s : State) (h : Nat) (g : Word32) (step : Nat) : State :=
  let s := match s.worldCtx h with
    | some c => (c.children c.me).foldl (fun (s : State) q => s.sendPriv h (c.fid q) pkSetting [g.toNat, step]) s
    | none => s
  match (s.hull h).prog with
  | some p =>
    match s.worldCtx h, p.buddy with
    | some c, some b =>
      if !p.twinOnly ∧ (c.lost.any fun q => (c.g.roster.getD q (0, 0, 0)).1 == b) then
        match s.twinPeer h p with | some fid => s.sendPriv h fid pkSetting [g.toNat, step] | none => s
      else s
    | _, _ => s
  | none => s

/-- PLACEMENT_REQUEST (R345): at the root of the hull's tree; `gens` are the generations of the members. -/
def execPlacementRequest (h : Nat) (gens : List Word32) (forced : Bool) (s : State) : Outcome :=
  .next (match s.worldCtx h with
    | some c =>
      if c.me ≠ c.root then s
      else
        let x := s.hull h
        let g := BitVec.ofNat 32 (maxOf (x.pgen.toNat :: gens.map (·.toNat)) + 1)
        let step := if forced then x.step else x.step + 2
        (s.passSetting h g step).takeSetting h g step
    | none => s)

/-- PLACEMENT_SETTING (R346). -/
def execPlacementSetting (h : Nat) (g : Word32) (step : Nat) (s : State) : Outcome :=
  .next (if isHull h ∧ (s.hull h).state ≠ .free then (s.passSetting h g step).takeSetting h g step else s)

/-- RESEND_REQUEST (R348): passed on over the tree, and served once this module holds the generation it names. -/
def execResendRequest (h : Nat) (requester : BitVec 24) (g : Word32) (step : Nat) (s : State) : Outcome :=
  .next (match s.worldCtx h with
    | some c =>
      let vals := [requester.toNat, g.toNat, step]
      let under := fun (p : Nat) => ((upFrom 0 c.n).find? fun q => c.fid q == requester).elim false fun q =>
        q == p || ({ c with g := { c.g with myPos := p } }).below q 8
      let fromBelow := under c.me
      let s := if c.me = c.root ∨ !fromBelow then s else s.sendPriv h (c.fid (c.parent c.me)) pkResend vals
      let s := ((c.children c.me).filter fun q => !under q).foldl (fun (s : State) q => s.sendPriv h (c.fid q) pkResend vals) s
      let x := s.hull h
      (s.setHull h { x with resends := x.resends ++ [(requester, g, step)] }).serveResends h
    | none => s)

end Sys2Proof.Machine
end

