-- ==== Sys2Proof/Machine/Loader.lean ====
section
/-! DEFINITION. PROG_LOAD (R20, R87, R88): the loader's checks, level by level, and what a load leaves. -/

namespace Sys2Proof.Machine

/-! ## Checks that give BAD_PARAM (R88) -/

/-- A list without repeats. -/
def noRepeat : List Nat → Bool
  | [] => true
  | a :: r => !r.contains a && noRepeat r

/-- A counter semaphore of the image. -/
def imgCounter (i : Image) (id : Nat) : Bool := i.sync.any fun d => d.id == id && d.kind == 0

/-- Every supported plan puts a tensor in tier A or tier B. -/
def imgInMemory (d : TensorDecl) : Bool := d.places.all fun q => q.1 == .tierA || q.1 == .tierB

/-- Tensors: ids of 20 bits, none reserved (R193), none twice, a place under every plan; persistent ones in tier A or B (R360). -/
def imgTensorsOk (i : Image) : Bool :=
  noRepeat (i.tensors.map (·.id)) && i.tensors.all fun d =>
    decide (d.id < 0xFFFFE ∧ d.places.length = i.folds.length) && (imgInMemory d || decide (d.home < i.geometry.tiles))
      && (!d.persistent || imgInMemory d)

/-- The annex lists tensors that every plan puts in tier A (R84); one listed twice is refused with them, of which R84 says nothing (log
entry 84). -/
def imgAnnexOk (i : Image) : Bool :=
  noRepeat i.annex && i.annex.all fun id => match imgTensor i id with | some d => d.places.all fun q => q.1 == .tierA | none => false

/-- An entry of the sync table (R134). -/
def syncDeclOk (i : Image) (d : SyncDecl) : Bool :=
  decide (d.id < 16384 ∧ d.kind < 4 ∧ d.timeout < 256 ∧ d.home < i.geometry.tiles ∧ d.holdLimit < 256 ∧ d.init < 2 ^ 32 ∧ d.reserved = 0)
    && (d.kind == 2 || d.holdLimit == 0)
    && (if d.kind = 1 then decide (1 ≤ d.param ∧ d.param ≤ 4096) else if d.kind = 3 then decide (1 ≤ d.param ∧ d.param ≤ 64) else d.param == 0)
    && (d.kind == 0 || d.init == 0)

/-- The sync table; ids outside the partition are an error only where the table fits it (level 7 otherwise). -/
def imgSyncOk (x : Hull) (i : Image) : Bool :=
  noRepeat (i.sync.map (·.id)) && i.sync.all fun d =>
    syncDeclOk i d && (decide (x.syncCount < i.sync.length) || x.ownsSync d.id)

/-- Numbers strictly rising. -/
def strictlyRising : List Nat → Bool
  | a :: b :: r => decide (a < b) && strictlyRising (b :: r)
  | _ => true

/-- A reseed list (R174). -/
def reseedsOk (i : Image) (f ticks : Nat) (l : List Reseed) : Bool :=
  (l.all fun r => decide (r.lam / 2 ^ f = r.position ∧ r.rho < ticks)) &&
    (upFrom 0 (i.geometry.tiles / 2 ^ f)).all fun j =>
      strictlyRising ((l.filter fun r => r.position == j).map fun r => 8192 * r.segment + r.bundle)

/-- A power of two. -/
def isPow2 (n : Nat) : Bool := 2 ^ n.log2 == n

/-- Fold plans: factors 1, 2, 4, 8, none twice; under each, positions a power of two (R22, log entry 96); reseed lists. -/
def imgFoldsOk (i : Image) : Bool :=
  noRepeat (i.folds.map (·.foldLog2)) && decide (0 < i.stepTicks) && i.folds.all fun q =>
    decide (q.foldLog2 < 4 ∧ 0 < q.ticks) && i.geometry.tiles % 2 ^ q.foldLog2 == 0 && isPow2 (imgPositions i q.foldLog2)
      && reseedsOk i q.foldLog2 i.stepTicks q.reseeds

/-- Declared engines (R227, R228): two a pod, private banks within the pod store's sixteen and apart. -/
def imgEnginesOk (i : Image) : Bool :=
  noRepeat (i.engines.map fun d => 2 * d.podIx + d.eng) && i.engines.all fun d =>
    decide (d.eng < 2 ∧ d.bankBase + d.bankCount ≤ 16) && i.engines.all fun e =>
      !(e.podIx == d.podIx && e.eng != d.eng) || decide (d.bankBase + d.bankCount ≤ e.bankBase ∨ e.bankBase + e.bankCount ≤ d.bankBase)

/-- An entry of the collective table (R308, R309). -/
def State.collOk (s : State) (h : Nat) (i : Image) (e : CollDecl) : Bool :=
  let g := s.group e.group
  let n := g.members
  let reducing := e.kind == ckAllReduce || e.kind == ckReduceScatter || e.kind == ckDirect
  let mem := fun (id : Nat) => match imgTensor i id with | some d => imgInMemory d | none => false
  let size := fun (id : Nat) => match imgTensor i id with | some d => d.bytes | none => 0
  let piece := if e.kind = ckAllGather ∨ e.kind = ckRotate then e.bytes else e.bytes / max 1 n
  let whole := if e.kind = ckExact then e.bytes == 64 else piece % 4096 == 0 && decide (0 < e.bytes) && (!reducing || e.bytes % n == 0)
  let room := if e.kind = ckReduceScatter then 2 * piece else if e.kind = ckAllGather then n * e.bytes
    else if e.kind = ckExact then 64 else e.bytes
  let fmt := if reducing then decide (e.fmt < 3) else if e.kind = ckExact then e.fmt == 0x10 || e.fmt == 0x11 else e.fmt == 0
  let last := if e.kind = ckRotate then decide (1 ≤ e.defer ∧ e.defer + 1 ≤ n)
    else if reducing && g.policy == 1 then mem (e.defer % 2 ^ 20) && decide (e.defer < 2 ^ 20 ∧ e.bytes ≤ size e.defer) else e.defer == 0
  i.geometry.groups.any (fun u => u.id == e.group) && decide (1 ≤ e.kind ∧ e.kind ≤ 6) && fmt && imgCounter i e.startId && imgCounter i e.doneId
    && mem e.src && mem e.dst && whole && decide (room ≤ size e.dst) && decide (1 ≤ e.startAmount ∧ e.startAmount ≤ 127) && last
    && (e.kind == ckExact || decide (piece ≤ 4096 * 2 ^ g.chunkLog2)) && (e.kind != ckDirect || decide (piece ≤ 65536))
    && g.hull == h

/-- The collective table: entries in ascending OP from 0. -/
def State.imgCollOk (s : State) (h : Nat) (i : Image) : Bool :=
  strictlyRising (i.coll.map (·.op)) && (match i.coll with | e :: _ => e.op == 0 | [] => true) && i.coll.all (s.collOk h i)

/-- The service table (R427). -/
def imgServicesOk (i : Image) : Bool :=
  decide (i.services.length ≤ 16) && i.services.all fun d =>
    let ok := fun (id : Nat) => match imgTensor i id with
      | some t => imgInMemory t && decide (d.slots ≤ (blocksOf 0 t.bytes).length)
      | none => false
    ok d.reqTensor && ok d.ansTensor && imgCounter i d.reqSem && imgCounter i d.ansSem
      && [1, 2, 4, 8, 16, 32, 64, 128, 256].contains d.slots && decide (1 ≤ d.deadlineUs ∧ d.deadlineUs ≤ 10000000)

/-- The evaluation table (R435). -/
def imgEvalsOk (i : Image) : Bool :=
  decide (i.evals.length ≤ 16 ∧ i.evalBudget < 65536) && i.evals.all fun e =>
    let kept := fun (id : Nat) => (match imgTensor i id with | some d => d.persistent || d.twin | none => true)
      || i.services.any fun d => d.reqTensor == id || d.ansTensor == id
    decide (1 ≤ e.ticks ∧ e.ticks ≤ 65535 ∧ e.ticks ≤ i.evalBudget ∧ 1 ≤ e.domains.length ∧ e.domains.length ≤ 256)
      && e.writes.all (fun id => !kept id) && e.reseeds.length == i.folds.length
      && (upFrom 0 i.folds.length).all fun k =>
        match i.folds[k]? with
        | some q => reseedsOk i q.foldLog2 e.ticks (e.reseeds.getD k [])
        | none => false

/-- Ranks of the world: members of the WORLD group that the image lists. -/
def State.worldRanks (s : State) (i : Image) : Option Nat :=
  (i.geometry.groups.find? fun u => (s.group u.id).world).map fun u => (s.group u.id).members

/-- A shard of a matrix rule holds whole matrices, or whole blocks of them: its part of the last two dimensions (R262). -/
def shardWhole (d : ShardDecl) : Bool :=
  match d.matrix with
  | none => true
  | some b => [d.shape.length - 2, d.shape.length - 1].all fun k =>
    let at_ := d.origin.getD k 0
    let n := d.extent.getD k 0
    let all := d.shape.getD k 0
    if b = 0 then at_ == 0 && n == all else at_ % b == 0 && (n % b == 0 || at_ + n == all)

/-- Every rank of the world has one buddy (R268); without a WORLD group there is no world to pair, and the tables an image carries must
pair the module's own rank at least (log entry 82). -/
def State.imgPairsOk (s : State) (i : Image) : Bool :=
  let ranks := i.pairs.flatMap fun q => [q.1, q.2]
  noRepeat ranks &&
    match s.worldRanks i with
    | some n => n % 2 == 0 && (upFrom 0 n).all ranks.contains && ranks.all (· < n)
    | none => (i.shards.isEmpty && i.pairs.isEmpty) || ranks.contains i.geometry.worldRank

/-- Shard and pair tables (R262, R268). -/
def State.imgShardsOk (s : State) (i : Image) : Bool :=
  let ranks := i.pairs.flatMap fun q => [q.1, q.2]
  s.imgPairsOk i && noRepeat (i.shards.map (·.id)) && noRepeat (i.shards.flatMap (·.tensors))
    && i.shards.all fun d => decide (d.id < 65536 ∧ d.tensors.length ≤ 4096) && ranks.contains d.owner && shardWhole d
      && decide ((i.shards.filter fun e => e.owner == d.owner).length ≤ 64)

/-! ## Checks of the schedules (R78, R128, R171, R228, R249, R258)

What needs an address or a path followed through a schedule is carried in the image (log entry 5). -/

/-- Every bundle of every schedule. -/
def imgBundles (i : Image) : List Nat := i.folds.flatMap fun q => q.segments.flatMap fun g => g.map fun b => b.toNat

/-- Every bundle is validly encoded (R78, R92). -/
def imgBundlesOk (i : Image) : Bool := (imgBundles i).all bundleOk

/-- An instruction that draws or rounds stochastically (R171). -/
def drawsHere : Instr → Bool
  | .vDraw _ _ => true
  | .mDrain _ _ _ rnd _ _ _ _ => rnd == 1
  | .vCvt _ f => f.rnd == 1
  | _ => false

/-- The image contains an instruction with RND 0b01 or a V.DRAW (R171). -/
def imgDraws (i : Image) : Bool :=
  i.usesDraws || (imgBundles i).any fun w => match decodeBundle 0 w with | some l => l.any drawsHere | none => false

/-- Engines 0–1 that a bundle's A.AUCMD names. -/
def engNamed (w : Nat) : Option Nat :=
  (decodeBundle 0 w).bind fun l => l.findSome? fun x => match x with | .aAucmd _ _ _ e _ => some e.toNat | _ => none

/-- An A.AUCMD names a declared engine (R249), in every pod that runs the schedule (log entry 96). -/
def imgAucmdOk (i : Image) : Bool :=
  i.folds.all fun q =>
    let named := (q.segments.flatMap fun g => g.filterMap fun b => engNamed b.toNat)
    (upFrom 0 ((imgPositions i q.foldLog2 + 15) / 16)).all fun k => named.all fun e => i.engines.any fun d => d.podIx == k && d.eng == e

/-- Constant addresses reach no private bank: one of a declared engine, or of another engine of the pod in CMD mode (R228). -/
def State.imgStoreOk (s : State) (h : Nat) (i : Image) : Bool :=
  i.constStore.all fun c =>
    (i.engines.all fun d => d.podIx != c.1 || !meet c.2.1 c.2.2 (1048576 * d.bankBase, 1048576 * d.bankCount))
      && match (s.podsOf h)[c.1]? with
        | some pd => [0, 1].all fun e =>
          (i.engines.any fun d => d.podIx == c.1 && d.eng == e)
            || !meet c.2.1 c.2.2 (1048576 * (s.eng (2 * pd + e)).bankBase, 1048576 * (s.eng (2 * pd + e)).bankCount)
        | none => true

/-- GATHER and NMU descriptors with a constant TENSOR name tensors that every plan puts in tier A or tier B (R128). -/
def imgDescsOk (i : Image) : Bool :=
  i.constDescs.all fun id => match imgTensor i id with | some d => imgInMemory d | none => true

/-- No layer is updated twice in a step, none before the wait for its gradient (R258). -/
def imgUpdatesOk (i : Image) : Bool := noRepeat (i.updates.map (·.1)) && i.updates.all (·.2)

/-- The schedules' checks. Sync-object ids outside the partition are an error only where the table fits it (level 7 otherwise). -/
def State.imgSchedulesOk (s : State) (h : Nat) (i : Image) : Bool :=
  let x := s.hull h
  i.staticOk && imgBundlesOk i && imgAucmdOk i && s.imgStoreOk h i && imgDescsOk i && imgUpdatesOk i
    && (i.constSync.all fun id => decide (x.syncCount < i.sync.length) || x.ownsSync id)
    && (!imgDraws i || !i.geometry.domains.isEmpty)

/-- The listed groups are ACTIVE, of this hull, and give the module its world rank (R88, R305, R331). -/
def State.imgGroupsOk (s : State) (h : Nat) (i : Image) : Bool :=
  noRepeat (i.geometry.groups.map (·.id)) && i.geometry.groups.all fun u =>
    let g := s.group u.id
    g.state == 2 && g.hull == h && g.myPos == u.rank && (g.roster.getD g.myPos (65536, 0, 0)).1 == i.geometry.worldRank

/-- Every loader check that gives BAD_PARAM. -/
def State.imgOk (s : State) (h : Nat) (i : Image) : Bool :=
  i.signatureOk && s.imgSchedulesOk h i && imgFoldsOk i && imgTensorsOk i && imgAnnexOk i && imgSyncOk (s.hull h) i && imgEnginesOk i
    && s.imgGroupsOk h i && s.imgCollOk h i && imgServicesOk i && imgEvalsOk i && s.imgShardsOk i
    && decide (64 ≤ i.recordLen) && i.tickPeriodUs == s.periodUs
    && (!i.eager || i.undoArea.isSome)

/-! ## Levels (R82, R85–R88, R228, R261, R360) -/

/-- Bytes of a list of tensors, in whole blocks. -/
def imgBlockBytes (i : Image) (f : TensorDecl → Bool) : Nat := sumOf ((i.tensors.filter f).map fun d => inBlocks d.bytes)

/-- Private banks of a pod of the hull at a load (R228): those that the image declares, and those in force of its engines, which are in
CMD mode then. -/
def State.bankBytes (s : State) (h : Nat) (i : Image) (k : Nat) : Nat :=
  let p := (s.podsOf h).getD k 0
  1048576 * (sumOf ((i.engines.filter fun d => d.podIx == k).map (·.bankCount)) + (s.eng (2 * p)).bankCount + (s.eng (2 * p + 1)).bankCount)

/-- Token-cycles of the worst window of the k-th pod's schedule: what the image carries for its tiles, and each declared engine in every
cycle (R82, R229). -/
def windowCharge (i : Image) (q : FoldPlan) (k : Nat) : Nat :=
  q.windowPeaks.getD k 0 + 16 * ledgerWindow * (i.engines.filter fun d => d.podIx == k).length

/-- Tokens short (R82): of the hull's share, else over the pods the tokens that each window's excess comes to, rounded up (log entry 85). -/
def State.tokensShort (s : State) (h : Nat) (i : Image) (q : FoldPlan) : Nat :=
  let used := (imgPositions i q.foldLog2 + 15) / 16
  let need := planShare i q.foldLog2 + s.standingOf h
  if need > (s.hull h).share then need - (s.hull h).share
  else sumOf ((upFrom 0 used).map fun k =>
    (windowCharge i q k - ledgerWindow * podShareOf i q.foldLog2 k + ledgerWindow - 1) / ledgerWindow)

/-- The lowest-numbered level of 1–8 that is short, with the shortfall; at level 2 that of the pod that lacks most (log entry 86). -/
def State.levelShort (s : State) (h : Nat) (i : Image) (q : FoldPlan) : Option (Nat × Nat) :=
  let x := s.hull h
  let used := (imgPositions i q.foldLog2 + 15) / 16
  let pod := maxOf ((upFrom 0 used).map fun k => q.podStoreBytes + s.bankBytes h i k)
  let needA := imgNeedA i q.foldLog2
  let annex := annexPrefix i i.annex (needA - x.limitA)
  let undo := match i.undoArea with
    | some a => imgBlockBytes i (fun d => d.carry || d.persistent || d.twin) - a
    | none => match i.ckptAreas with | some a => imgBlockBytes i (·.persistent) - a.1 | none => 0
  let persist := imgBlockBytes i (·.persistent)
  let drain := match i.ckptAreas with | some a => persist + persist / 512 - a.2.2 | none => 0
  let needB := imgNeedB i q.foldLog2 (match annex with | some a => a.2 | none => 0)
  let segs := maxOf (q.segments.map List.length)
  if tsEnd < q.tileStoreBytes then some (1, q.tileStoreBytes - tsEnd)
  else if psEnd < pod then some (2, pod - psEnd)
  else if annex.isNone then some (3, needA - x.limitA - annexTotal i)
  else if 0 < undo then some (3, undo)
  else if x.limitB < needB then some (4, needB - x.limitB)
  else if 0 < drain then some (4, drain)
  else if 8192 < segs then some (5, 32 * (segs - 8192))
  else if 0 < s.tokensShort h i q then some (6, s.tokensShort h i q)
  else if x.syncCount < i.sync.length then some (7, i.sync.length - x.syncCount)
  else if bitCount x.spine.toNat < q.spineGroups then some (8, q.spineGroups - bitCount x.spine.toNat)
  else none

/-- Pods short where no supported fold fits: to the fewest that one needs. -/
def imgPodsShort (i : Image) (pods : Nat) : Nat :=
  let need := i.folds.map fun q => (imgPositions i q.foldLog2 + 15) / 16
  match need with
  | n :: r => r.foldl min n - pods
  | [] => 0

/-! ## The load (R20, R134, R437) -/

/-- The content of a group that R20 digests (R306). -/
def groupContent (g : Group) : List Byte :=
  (g.roster.flatMap fun e => natLe 2 e.1) ++ (g.roster.flatMap fun e => natLe 2 e.2.2) ++ natLe 1 (b2n g.compat) ++ natLe 1 g.n1 ++ natLe 1 g.n2
    ++ natLe 2 g.n3

/-- The geometry digest (R20). -/
def State.geometryDigest (s : State) (i : Image) : BitVec 256 :=
  sha256 (i.geometry.bytes ++ (ascending (i.geometry.groups.map (·.id))).flatMap fun g => groupContent (s.group g))

/-- The shard copies that a module holds (R268): its own and, as twin, its buddy's; PAIRED. -/
def imgShards (i : Image) : List ShardS :=
  let r := i.geometry.worldRank
  let buddy := (i.pairs.find? fun q => q.1 == r || q.2 == r).map fun q => if q.1 = r then q.2 else q.1
  let mk := fun (d : ShardDecl) (owner : Bool) (st : TwinState) =>
    ({ id := d.id, owner := owner, state := st, mismatches := 0, layersCopied := 0, copiedStep := 0, own := none, peer := none } : ShardS)
  ((i.shards.filter fun d => d.owner == r).map fun d => mk d true (if buddy.isSome then .paired else .single))
    ++ (i.shards.filter fun d => some d.owner == buddy).map fun d => mk d false .paired

/-- A program as the loader leaves it. -/
def Prog.loaded (i : Image) (f : Nat) (geo : BitVec 256) (groupsAs : List (Nat × List Byte)) (spill : List Nat) (pods : Nat) (limits : Nat × Nat) (share : Nat) : Prog :=
  { image := i, foldLog2 := f, geoDigest := geo, groupsAs := groupsAs, spilled := spill, placed := imgTable i f spill, loadedPods := pods, loadedLimits := limits,
    loadedShare := share, state := 1, reason := 0, stopStatus := 0, replay := [], isReplay := false, rehome := false, evalsDone := 0,
    tickInStep := 0, firstTick := 0, gtcStart := 0, slipNs := 0, evals := [], evalTicks := 0, evalRun := none, entries := [], reopened := false,
    verdict := none, prevState := 0, ops := [], deferred := [], fed := [], overruns := 0, restarts := 0, rerun := false, logWait := false,
    undrained := [], stops := [], calls := [], nextK := [], restored := false, twinOnly := false, survivor := 0, lostRank := 0,
    rehomeStart := 0, rehomeBytes := 0, copiedBytes := 0, between := 0, throttled := false, inputDigest := 0, rollback := false,
    shards := imgShards i, ledger := [], boundarySync := [], boundaryTiles := [], evalQueue := [], record := [], boundaryGtc := 0,
    dirtyTick := false }

/-- PROG_LOAD (R87, R88). The image's bytes are read from the window, and `img` is what the loader reads in them (log entry 5). A refusal
replies zero in the spill fields, at level 4 too (log entry 87). -/
def State.progLoad (s : State) (c : Cmd) (img : Option Image) : State :=
  let h := pf c.params 0 1
  let fl := pf c.params 1 1
  let off := pf c.params 8 8
  let len := pf c.params 0x10 8
  let x := s.hull h
  let fin := fun (s : State) (st : Byte) (f : List (Nat × Nat × Nat)) => s.reply c 0x0300 st (mkFields f)
  if !isHull h ∨ fl ≥ 2 ∨ pf c.params 2 6 ≠ 0 ∨ !restZero c 0x18 ∨ len = 0 ∨ off % 4096 ≠ 0 ∨ !s.inWindow h true off len then fin s sBADPARAM []
  else if !s.ownsHull c h then fin s sDENIED []
  else if x.state ≠ .granted then fin s sBUSY []
  else
    let w := s.windowRead (s.cmdSrc c) h true off len
    let s := w.1
    match w.2, img with
    | none, _ => fin s sFAULT []
    | some _, none => fin s sBADPARAM []
    | some bytes, some i =>
      let i := { i with digest := sha256 bytes }
      if !s.imgOk h i then fin s sBADPARAM []
      else
        let pods := (s.podsOf h).length
        match (imgChooseFold i pods).bind fun f => (imgFold i f) with
        | none => fin s sNORES [(0, 1, 9), (8, 8, imgPodsShort i pods)]
        | some q =>
          let f := q.foldLog2
          match s.levelShort h i q with
          | some (l, n) => fin s sNORES [(0, 1, l), (1, 1, f), (8, 8, n)]
          | none =>
            let spill := match annexPrefix i i.annex (imgNeedA i f - x.limitA) with | some a => a | none => ([], 0)
            let ok := [(1, 1, f), (2, 2, spill.1.length), (0x10, 8, spill.2)]
            if fl = 1 then fin s sDONE ok
            else
              let s := s.dropCalls h
              let p := Prog.loaded i f (s.geometryDigest i) (i.geometry.groups.map fun g => (g.id, groupContent (s.group g.id))) spill.1 pods (x.limitA, x.limitB) x.share
              let s := s.setHull h { s.hull h with prog := some p, standing := s.standingOf h }
              fin ((s.setShares h p).createSync h i) sDONE ok

/-- PROG_LOAD. -/
def execProgLoad (c : Cmd) (img : Option Image) (s : State) : Outcome := .next (s.packet c 0x0300 fun s => s.progLoad c img)

end Sys2Proof.Machine
end

