-- ==== Sys2Proof/Machine/AuCmds.lean ====
section
/-!
DEFINITION. AU_ commands, the engines' firmware path (R252–R256).
-/

namespace Sys2Proof.Machine

/-- Caller and engine: DENIED or BUSY of R256's second and third rows. -/
def State.auGate (s : State) (c : Cmd) (h a : Nat) (queues : Bool) : Option Byte :=
  let e := s.eng a
  if !s.ownsHull c h ∨ !s.engineIn a ∨ (s.pod (a / 2)).hull ≠ h then some sDENIED
  else if !((s.hull h).state == .granted || (s.hull h).state == .running) ∨ e.tileMode ∨ (queues ∧ e.queue.length ≥ 4) then some sBUSY
  else none

/-- Tokens that an idle CMD-mode engine of a hull lacks to start (R229): 16 where the part of the share that no pod share and no standing
charge uses is too small. -/
def State.auTokensShort (s : State) (h a : Nat) : Bool :=
  let x := s.hull h
  let pods := s.podsOf h
  let left := x.share - x.standing - sumOf (pods.map fun p => (s.pod p).share)
  let busy := (pods.flatMap fun p => [2 * p, 2 * p + 1]).filter fun e => !(s.eng e).tileMode && !(s.eng e).queue.isEmpty
  (s.eng a).queue.isEmpty && decide (left < 16 * (busy.length + 1))

/-- Queues a command block at an engine. -/
def State.auPut (s : State) (a : Nat) (c : ACmd) : State :=
  let e := s.eng a
  (s.setEng a { e with queue := e.queue ++ [c] }).ausStart a

/-- An engine with the structures it will hold once its queued FREE and LOAD commands have run. -/
def Engine.ahead (e : Engine) : Engine :=
  e.queue.foldl (fun e c =>
    if c.done then e
    else if c.op = 9 then { e with structs := tdel e.structs c.handle }
    else if c.op = 1 then
      match parseStruct c.input with
      | some st => { e with structs := tput e.structs c.handle st }
      | none => e
    else e) e

/-- A block with OP, HANDLE and IN_BYTES. -/
def auBlock (op handle n : Nat) : List Byte := natLe 1 op ++ natLe 1 handle ++ zeros 14 ++ natLe 4 n ++ zeros 44

/-- Private banks collide with the other engine's, or with the pod store of a program loaded in the hull (R252). -/
def State.banksConflict (s : State) (h a base n : Nat) : Bool :=
  let o := s.eng (if a % 2 = 0 then a + 1 else a - 1)
  let prog := match (s.hull h).prog with
    | some p =>
      let ix := ((s.podsOf h).findIdx? (· == a / 2)).getD 8
      -- banks that the loaded program declares are pod-store use too (R228)
      (p.image.engines.any fun d => d.podIx == ix && meet base n (d.bankBase, d.bankCount)) ||
      let used := match imgFold p.image p.foldLog2 with | some q => q.podStoreBytes | none => 0
      decide (0 < used) && meet (1048576 * base) (1048576 * n) (0, used)
        || p.placed.any fun e => e.2.1 == Level.podStore && meet (1048576 * base) (1048576 * n) (e.2.2, p.bytesOf e.1)
    | none => false
  prog || meet base n (o.bankBase, o.bankCount)

/-- AU_STRUCT_LOAD (R252, R256). Work on the engine is done in its queue, and the reply comes when it ends. -/
def State.auStructLoad (s : State) (c : Cmd) : State :=
  let f := fun (a n : Nat) => pf c.params a n
  let h := f 0 1
  let a := f 1 1
  let hd := f 2 1
  let free := bitOf (f 3 1) 0
  let setb := bitOf (f 3 1) 1
  let base := f 4 1
  let n := f 5 1
  let src := f 8 8
  let len := f 0x10 8
  let e := s.eng a
  let fin := fun (s : State) (st : Byte) (short : Nat) => s.reply c 0x0600 st (mkFields [(0x18, 8, short)])
  let w := if free ∨ !isHull h ∨ !s.inWindow h true src len then (s, none) else s.windowRead (s.cmdSrc c) h true src len
  let s := w.1
  let image := w.2
  let parsed := image.bind parseStruct
  let bad := !isHull h || decide (a ≥ 16 ∨ hd ≥ 64 ∨ f 3 1 ≥ 4) || f 6 2 != 0 || !restZero c 0x18
    || (if setb then decide (base > 15 ∨ n = 0 ∨ base + n > 16) else base != 0 || n != 0)
    || (if free then src != 0 || len != 0 else decide (src % 64 ≠ 0 ∨ len = 0) || !s.inWindow h true src len)
    || (image.isSome && parsed.isNone)
  if bad then fin s sBADPARAM 0
  else
    match s.auGate c h a true with
    | some st => fin s st 0
    | none =>
      let busy := e.queue.any fun q => q.op == 1 && q.handle == hd
      if (!free && ((tfind e.structs hd).isSome || busy)) || (setb && (!e.structs.isEmpty || s.banksConflict h a base n)) then fin s sBUSY 0
      else if free then
        if (tfind e.structs hd).isNone then fin s sBADPARAM 0
        else
          let s := if setb then s.setEng a { e with bankBase := base, bankCount := n } else s
          s.auPut a { ACmd.fresh (auBlock 9 hd 0) none h [] 0 0 with owed := some c }
      else
        match parsed with
        | none => s.reply c 0x0600 sFAULT 0
        | some st =>
          let e' := if setb then { e with bankBase := base, bankCount := n } else e
          let short := e'.ahead.loadShort st
          if 0 < short then fin s sNORES short
          else if s.auTokensShort h a then fin s sNORES 16
          else (s.setEng a e').auPut a { ACmd.fresh (auBlock 1 hd len) none h (image.getD []) 0 0 with owed := some c }

/-- AU_STRUCT_LOAD. -/
def execAuStructLoad (c : Cmd) (s : State) : Outcome := .next (s.packet c 0x0600 fun s => s.auStructLoad c)

/-- The header of a delta packet is in rule (R237). -/
def packetOk (b : List Byte) : Bool :=
  let n := fieldLe b 4 4
  fieldLe b 0 2 == 1 && fieldLe b 2 2 == 0 && fieldLe b 8 8 == 0 && decide (1 ≤ n ∧ n ≤ 131072 ∧ b.length = 16 + 16 * n)

/-- AU_DELTA (R253, R256). -/
def State.auDelta (s : State) (c : Cmd) : State :=
  let f := fun (a n : Nat) => pf c.params a n
  let h := f 0 1
  let a := f 1 1
  let hd := f 2 1
  let src := f 8 8
  let len := f 0x10 8
  let e := s.eng a
  let fin := fun (s : State) (st : Byte) (short : Nat) => s.reply c 0x0601 st (mkFields [(0x18, 8, short)])
  let w := if !isHull h ∨ !s.inWindow h true src len then (s, none) else s.windowRead (s.cmdSrc c) h true src len
  let s := w.1
  let b := w.2
  let refused : Bool := match b with
    | some b => !packetOk b || (match tfind e.structs hd with | some st => (st.delta b).isNone | none => false)
    | none => false
  if !isHull h ∨ a ≥ 16 ∨ hd ≥ 64 ∨ f 3 5 ≠ 0 ∨ !restZero c 0x18 ∨ !s.inWindow h true src len ∨ refused then fin s sBADPARAM 0
  else
    match s.auGate c h a true with
    | some st => fin s st 0
    | none =>
      if (tfind e.structs hd).isNone then fin s sBADPARAM 0
      else
        match b with
        | none => s.reply c 0x0601 sFAULT 0
        | some b =>
          if s.auTokensShort h a then fin s sNORES 16
          else s.auPut a { ACmd.fresh (auBlock 2 hd len) none h b 0 0 with owed := some c }

/-- AU_DELTA. -/
def execAuDelta (c : Cmd) (s : State) : Outcome := .next (s.packet c 0x0601 fun s => s.auDelta c)

/-- AU_SOLVE (R254, R256). -/
def State.auSolve (s : State) (c : Cmd) : State :=
  let f := fun (a n : Nat) => pf c.params a n
  let h := f 0 1
  let a := f 1 1
  let at_ := f 8 8
  let inn := f 0x10 8
  let out := f 0x18 8
  let e := s.eng a
  let fin := fun (s : State) (st : Byte) (short : Nat) => s.reply c 0x0602 st (mkFields [(0x18, 8, short)])
  let w := if !isHull h ∨ !s.inWindow h true at_ 64 then (s, none) else s.windowRead (s.cmdSrc c) h true at_ 64
  let s := w.1
  let blk := w.2
  let b := blk.getD (zeros 64)
  let op := fieldLe b 0 1
  let hd := fieldLe b 1 1
  let inBytes := fieldLe b 0x10 4
  let st := tfind e.structs hd
  let outBytes := 64 + 8 * (match st with | some t => ausPayload op (fieldLe b 3 1) t | none => 0)
  let blockBad := blk.isSome && (!ausBlockOk b false || decide (op < 3 ∨ 8 < op) || bitOf (fieldLe b 2 1) 0
    || (match st with | some t => !ausStructOk b t | none => false))
  let bad := !isHull h || decide (a ≥ 16) || f 2 6 != 0 || decide (at_ % 64 ≠ 0 ∨ inn % 64 ≠ 0 ∨ out % 4096 ≠ 0) || !s.inWindow h true at_ 64
    || (inBytes == 0 && inn != 0) || !s.inWindow h true inn inBytes || !s.inWindow h true out outBytes || blockBad
  if bad then fin s sBADPARAM 0
  else
    match s.auGate c h a true with
    | some k => fin s k 0
    | none =>
      let v := if blk.isNone then (s, none) else s.windowRead (s.cmdSrc c) h true inn inBytes
      let s := v.1
      match blk, v.2 with
      | none, _ | some _, none => s.reply c 0x0602 sFAULT 0
      | some _, some input =>
        if st.isNone then fin s sBADPARAM 0
        else if s.auTokensShort h a then fin s sNORES 16
        else
          let t := e.nextTicket
          let s := s.setEng a { e with nextTicket := if t = 0xFFFFFFFF then 1 else t + 1 }
          (s.auPut a (ACmd.fresh b none h input out t)).reply c 0x0602 sACCEPTED (mkFields [(0, 4, t)])

/-- AU_SOLVE. -/
def execAuSolve (c : Cmd) (s : State) : Outcome := .next (s.packet c 0x0602 fun s => s.auSolve c)

/-- Tickets queued or running, and completed ones among the 16 most recent (R255). -/
def Engine.waitingTickets (e : Engine) : List Nat := (e.queue.filter fun q => q.tile.isNone && q.owed.isNone).map (·.ticket)
def Engine.kept (e : Engine) : List ACmd := e.results.take (16 - e.waitingTickets.length)

/-- AU_RESULT (R255, R256). It queues nothing, so a full queue does not turn it away (log entry 32). -/
def State.auResult (s : State) (c : Cmd) : State :=
  let h := pf c.params 0 1
  let a := pf c.params 1 1
  let t := pf c.params 4 4
  let e := s.eng a
  let waits := e.waitingTickets.contains t
  let res := e.kept.find? fun r => r.ticket == t
  if !isHull h ∨ a ≥ 16 ∨ pf c.params 2 2 ≠ 0 ∨ !restZero c 8 ∨ (!waits ∧ res.isNone) then s.reply c 0x0603 sBADPARAM 0
  else
    match s.auGate c h a false with
    | some st => s.reply c 0x0603 st 0
    | none =>
      match res with
      | some r =>
        s.reply c 0x0603 r.status (mkFields [(0, 4, r.iterations), (4, 4, r.returned), (8, 4, r.cycles), (0xC, 1, r.cause.toNat),
          (0x10, 8, r.rp.toNat), (0x18, 8, r.rd.toNat)])
      | none => s.reply c 0x0603 sBUSY 0

/-- AU_RESULT. -/
def execAuResult (c : Cmd) (s : State) : Outcome := .next (s.packet c 0x0603 fun s => s.auResult c)

end Sys2Proof.Machine
end

