-- ==== Sys2Proof/Machine/Jv.lean ====
section
/-! DEFINITION. Bundles and messages (R283–R300, R303): flits, delivery, states of a bundle, privileged relay. -/

namespace Sys2Proof.Machine

/-- Credits of a bundle on entry to UP (R288). -/
def fullCredits : List Nat := [384, 256, 64, 64]

/-- JV_CFG limits; 0 is taken as 1 (R303). -/
def State.replayMax (s : State) : Nat := max 1 (s.regF 0x0A0020 7 0)
def State.fecMax (s : State) : Nat := max 1 (s.regF 0x0A0020 39 16)

/-- The counts of the current millisecond (R287). -/
def Bundle.window (x : Bundle) (gtc : Nat) : Bundle :=
  if gtc - x.msStart ≥ 1000000 then { x with msStart := gtc, msReplays := 0, msFec := 0 } else x

/-! ## States (R296–R298) -/

/-- A LINK record of a bundle's change (R397). -/
def State.linkRec (s : State) (b st width : Nat) : State :=
  s.log1 (mkRec 0x09 1 (0x0500 + b) (s.bundle b).owner 0xFF 0xFF 0 (natLe 1 b ++ natLe 1 st ++ natLe 1 width))

/-- STATE codes of JV_BSTATUS. -/
def bCode : BState → Nat
  | .unused => 0
  | .down => 1
  | .training => 2
  | .up => 3
  | .disabled => 4

/-- A bundle leaves UP, or any state without traffic, for another (R298): its messages not wholly acknowledged go out again, whole,
on the group's other UP bundles with the same E2E_SEQ, or wait; its credits are void. -/
def State.leave (s : State) (b : Nat) (st : BState) : State :=
  let x := s.bundle b
  let was := x.state
  let msgs := x.outq.map (·.msg)
  let x' := { x with state := st, width := 0, lanes := 0, credits := [], retry := [], outq := [],
                     retrains := if was == .up && st == .training then min (x.retrains + 1) 0xFF else x.retrains }
  let s := s.setBundle b x'
  let s := if was == .up then s.linkRec b (bCode st) x.width else s
  msgs.foldl State.sendMsg s

/-- A bundle enters DOWN (R296). -/
def State.enterDown (s : State) (b : Nat) : State :=
  let s := s.leave b .down
  (s.setBundle b { s.bundle b with downGtc := s.time.gtc }).event evJv 1 385

/-- The lanes training keeps (R297): all four, a pair, or the lowest that passes. -/
def trainedLanes (l : BitVec 4) : Nat × BitVec 4 :=
  if l = 15 then (4, 15)
  else if l &&& 3 = 3 then (2, 3)
  else if l &&& 12 = 12 then (2, 12)
  else match (upFrom 0 4).find? fun i => l.getLsbD i with
    | some i => (1, BitVec.ofNat 4 (2 ^ i))
    | none => (0, 0)

/-- Waiting messages of R294 and R298 are offered again. -/
def State.flushWaiting (s : State) : State :=
  s.jv.waiting.foldl State.sendMsg { s with jv := { s.jv with waiting := [] } }

/-- TRAINING_COMPLETE (R295–R298): `lanes` that pass, the peer's announcement, and the owner that the peer's own plan gives its end. -/
def execTrainingComplete (b : Nat) (lanes : BitVec 4) (peerFid : BitVec 24) (peerOwner peerPlanOwner : Nat) (s : State) : Outcome :=
  .next (
    let x := s.bundle b
    match x.state, s.jv.plan with
    | .training, some p =>
      let w := trainedLanes lanes
      let fid := (p.neighbours.getD x.neighbour (0, 0, 0)).1
      let agree := peerFid == fid && peerOwner == peerPlanOwner
      let s := s.setBundle b { x with peerFid := peerFid }
      if w.1 ≠ 0 ∧ w.1 ≥ x.minWidth ∧ agree then
        let s := s.setBundle b { s.bundle b with state := .up, width := w.1, lanes := w.2, credits := fullCredits, slot := 0,
                                                 rxSeq := 0, txSeq := 0, retry := [], msStart := s.time.gtc, msReplays := 0, msFec := 0 }
        let s := s.event evJv 2 386
        let s := if w.1 < 4 then s.event evJv 0 384 else s
        s.flushWaiting
      else
        let s := if agree then s else s.event evJv 5 389
        s.enterDown b
    | _, _ => s)

/-- PEER_SIGNAL_DETECT (R296). -/
def execPeerSignalDetect (b : Nat) (s : State) : Outcome :=
  .next (if (s.bundle b).state = .down then s.leave b .training else s)

/-- DOWN_TIMEOUT (R296): 1 s since DOWN. -/
def execDownTimeout (b : Nat) (s : State) : Outcome :=
  .next (if (s.bundle b).state = .down ∧ s.time.gtc - (s.bundle b).downGtc ≥ 1000000000 then s.leave b .training else s)

/-- BUNDLE_RETRAIN (R287): the counts of the millisecond are past a limit. -/
def execBundleRetrain (b : Nat) (s : State) : Outcome :=
  .next (
    let x := s.bundle b
    if x.state = .up ∧ (x.msReplays > s.replayMax ∨ x.msFec > s.fecMax) then s.leave b .training else s)

/-- LANE_LOSS (R287): an active lane loses signal or lock. -/
def execLaneLoss (b lane : Nat) (s : State) : Outcome :=
  .next (if (s.bundle b).state = .up ∧ (s.bundle b).lanes.getLsbD lane then s.leave b .training else s)

/-- Disable bits of bundles change (R296). -/
def State.setDisable (s : State) (v : BitVec 36) : State :=
  let s := { s with jv := { s.jv with disable := v } }
  (upFrom 0 36).foldl (fun s b =>
    match (s.bundle b).state, v.getLsbD b with
    | .down, true | .training, true | .up, true => s.leave b .disabled
    | .disabled, false => s.leave b .training
    | _, _ => s) s

/-- JV_DISABLE: a write of the register. -/
def execJvDisable (v : Word) (s : State) : Outcome := .next (if s.blockOpen 0x0A0018 then s.setDisable (v.setWidth 36) else s)

/-! ## Flits (R284–R288) -/

def flitSeq (f : Flit) : Nat := fieldLe f.bytes 0 2 % 4096
def flitType (f : Flit) : Nat := fieldLe f.bytes 0 2 / 4096
def flitAck (f : Flit) : Nat := fieldLe f.bytes 2 2 % 4096

/-- An ACK (R286): every unacknowledged flit up to it leaves the retry buffer, and messages wholly acknowledged leave the queue. -/
def Bundle.acked (x : Bundle) (ack : Nat) : Bundle :=
  match x.retry.findIdx? (· == BitVec.ofNat 12 ack) with
  | some i =>
    let gone := x.retry.take (i + 1)
    { x with retry := x.retry.drop (i + 1), outq := x.outq.filter fun o => !(o.left == 0 && gone.contains o.last) }
  | none => x

/-- The flits that a NAK has the sender replay (R286): every unacknowledged one from the SEQ named on, as go-back-N. -/
def Bundle.replayOf (x : Bundle) (f : Flit) : List (BitVec 12) :=
  match f.nak.bind fun q => x.retry.findIdx? (· == q) with
  | some i => x.retry.drop i
  | none => []

/-- FLIT_RECEIVE (R284, R286, R288). SEQ is checked on DATA flits; CONTROL flits carry NAKs and credits, and
a NAK starts a replay of the flits from its SEQ on, which takes no credit. -/
def execFlitReceive (b : Nat) (f : Flit) (s : State) : Outcome :=
  .next (
    let x := s.bundle b
    match x.state with
    | .up =>
      let x := x.window s.time.gtc
      let x := { x with fec := min (x.fec + f.fecCorrected) 0xFFFFFFFF, msFec := x.msFec + f.fecCorrected,
                        uncorr := if f.uncorrectable then min (x.uncorr + 1) 0xFF else x.uncorr }
      let okForm := f.bytes.length == 252 && f.crc == crc32c f.bytes && !f.uncorrectable && decide (flitType f < 3)
      let inOrder := flitType f ≠ 1 ∨ flitSeq f = x.rxSeq
      if !okForm ∨ !inOrder then (s.setBundle b x).emit (.nak b (BitVec.ofNat 12 x.rxSeq))
      else
        let x := x.acked (flitAck f)
        let x := if flitType f = 1 then { x with rxSeq := (x.rxSeq + 1) % 4096 } else x
        let x := if flitType f = 2 then
            let x := { x with credits := (upFrom 0 4).map fun c => min (x.credits.getD c 0 + f.credits.getD c 0) (fullCredits.getD c 0) }
            if (x.replayOf f).isEmpty then x else { x with replays := min (x.replays + 1) 0xFFFF, msReplays := x.msReplays + 1 }
          else x
        let s := s.setBundle b x
        let s := if flitType f = 2 ∧ !(x.replayOf f).isEmpty then s.emit (.replay b (x.replayOf f)) else s
        s.pump b
    | _ => s)

/-! ## Messages (R289–R291, R299) -/

/-- Was a message's number delivered among the last 65,536 of its source and class (R290)? -/
def State.delivered (s : State) (m : Msg) : Bool := s.jv.seen.any fun e => e.1 == m.srcFid && e.2.1 == m.cls && e.2.2 == m.e2e

/-- Marks a message delivered. -/
def State.markSeen (s : State) (m : Msg) : State :=
  let same := s.jv.seen.filter fun e => e.1 == m.srcFid && e.2.1 == m.cls
  let rest := s.jv.seen.filter fun e => !(e.1 == m.srcFid && e.2.1 == m.cls)
  { s with jv := { s.jv with seen := (m.srcFid, m.cls, m.e2e) :: same.take 65535 ++ rest } }

/-- A module relays a privileged message (R299). -/
def State.relay (s : State) (m : Msg) : State :=
  match s.jv.plan with
  | none => s
  | some p =>
    match (p.neighbourOf m.dstFid).bind fun n => s.lightest (s.upTo n none) with
    | some b => (s.regSat 0x0A0028 31 0 1).emit (.msg b { m with hops := m.hops - 1 })
    | none =>
      if m.hops = 0 then s.regSat 0x0A0028 47 32 1
      else (s.regSat 0x0A0028 31 0 1).offerPriv { m with hops := m.hops - 1 }

/-- Any message of a neighbour's module is heard by the groups that hold it (R323). -/
def State.hear (s : State) (src : BitVec 24) : State :=
  { s with groups := s.groups.map fun g =>
      if g.2.state = 2 then
        match g.2.roster.findIdx? fun e => e.2.1 == src with
        | some pos => (g.1, { g.2 with heard := tput g.2.heard pos s.time.gtc })
        | none => g
      else g }

/-- MESSAGE_RECEIVE (R289–R291, R299): a message of classes 0–2 with a stale generation is dropped and counted (R221);
after a hang's freeze none of classes 0–3 is accepted (R405). -/
def execMessageReceive (b : Nat) (m : Msg) (s : State) : Outcome :=
  .next (
    if (s.bundle b).state ≠ .up ∨ m.body.length > 69632 ∨ m.cls > 4 ∨ (s.rst.dev = .recovering ∧ m.cls < 4) then s
    else if m.cls < 4 ∧ (s.bundle b).owner ≠ m.dstHull then s.regOr evJv (2 ^ 6)
    else if m.dstFid ≠ s.fid then (if m.cls = 4 then s.relay m else s)
    else if s.delivered m then s
    else
      let s := (s.markSeen m).hear m.srcFid
      if m.cls = 4 then s
      else if m.cls < 3 ∧ m.pgen ≠ (s.hull m.dstHull).pgen then
        let x := s.hull m.dstHull
        s.setHull m.dstHull { x with stale := min (x.stale + 1) 0xFFFFFFFF }
      else { s with jv := { s.jv with inbox := s.jv.inbox ++ [m] } })

/-- PRIV_RETRY (R299): every millisecond. -/
def execPrivRetry (s : State) : Outcome :=
  .next (s.jv.privWait.foldl State.offerPriv { s with jv := { s.jv with privWait := [] } })

end Sys2Proof.Machine
end

