-- ==== Sys2Proof/Machine/Probe.lean ====
section
/-!
DEFINITION. Probe runs, bypasses, probe content, and reads and pushes of the error log (R389–R395, R398–R400).
-/

namespace Sys2Proof.Machine

/-! ## Probe content (R389, R390) -/

/-- The header of probe content is in rule; `n` is BYTES. -/
def contentOk (b : List Byte) (n : Nat) : Bool :=
  let f := fun (a k : Nat) => fieldLe b a k
  let body := f 0x10 8
  f 0 2 == 1 && decide (f 2 1 ≤ 1) && f 3 1 == 0xA1 && decide (1 ≤ f 4 4 ∧ 1 ≤ f 8 4 ∧ f 8 4 ≤ 20000)
    && (if f 2 1 = 0 then decide (1 ≤ f 0xC 2 ∧ f 0xC 2 ≤ 640) else f 0xC 2 == 0) && f 0xE 2 == 0
    && decide (4096 ≤ body ∧ body ≤ 67108864 ∧ body % 4096 = 0 ∧ n = 256 + body) && leNat (slice b 0xA8 88) == 0

/-- A probe run is waiting or running. -/
def ProbeS.active (q : ProbeS) : Bool := q.state == 1 || q.state == 2

/-- TEST_CONTENT_LOAD (R390). -/
def State.testContentLoad (s : State) (c : Cmd) : State :=
  let slot := pf c.params 0 1
  let src := pf c.params 8 8
  let n := pf c.params 0x10 8
  let head := s.hostRead src 256
  let kind := fieldLe head 2 1
  let ver := fieldLe head 4 4
  if slot ≥ 8 ∨ pf c.params 1 7 ≠ 0 ∨ !restZero c 0x18 ∨ src % 4096 ≠ 0 ∨ !contentOk head n then s.reply c 0x0801 sBADPARAM 0
  else if !s.isOperator c then s.reply c 0x0801 sDENIED 0
  else if s.probe.active ∧ s.probe.slot = slot then s.reply c 0x0801 sBUSY 0
  else
    let body := s.hostRead (src + 256) (n - 256)
    if sha384Bytes body ≠ slice head 0x18 48 ∨ !sigOk s.sec.contentKey (slice head 0x48 96) (slice head 0 0x48)
        ∨ ver < tget 0 s.maxVersion kind then s.reply c 0x0801 sBADPARAM 0
    else
      let e : SlotS := { kind := kind, version := ver, durationMs := fieldLe head 8 4, share := fieldLe head 0xC 2, bytes := n - 256 }
      ({ s with slots := tput s.slots slot e, maxVersion := tput s.maxVersion kind (max ver (tget 0 s.maxVersion kind)) }).reply c 0x0801
        sDONE (mkFields [(0, 4, ver)])

/-- TEST_CONTENT_LOAD. -/
def execTestContentLoad (c : Cmd) (s : State) : Outcome := .next (s.packet c 0x0801 fun s => s.testContentLoad c)

/-! ## TEST_RUN (R391–R395) -/

/-- The fields that an operation of TEST_RUN does not use are zero, the others in range. -/
def testFieldsOk (c : Cmd) (op : Nat) : Bool :=
  let f := fun (a n : Nat) => pf c.params a n
  let pod := op == 1 || op == 3 || op == 4
  f 0 1 == op && (if pod then decide (f 1 1 < 8) else f 1 1 == 0) && (if op ≤ 2 then decide (f 2 1 < 8) else f 2 1 == 0)
    && (if op = 2 then decide (f 3 1 < 12) else f 3 1 == 0) && (if op = 5 then decide (f 4 2 < 576) else f 4 2 == 0)
    && (if op = 6 ∨ op = 7 then decide (f 6 1 < 36) else f 6 1 == 0) && restZero c 7

/-- The slot holds content of a KIND. -/
def State.slotFor (s : State) (slot kind : Nat) : Option SlotS :=
  match tfind s.slots slot with
  | some e => if e.kind = kind then some e else none
  | none => none

/-- The hull's image supports a fold on its pods less those that go and one more (R393). -/
def State.canSpare (s : State) (h : Nat) : Option FoldPlan :=
  match (s.hull h).prog with
  | some p => (imgChooseFold p.image ((s.podsOf h).length - (s.goingPods h).length - 1)).bind fun f => imgFold p.image f
  | none => none

/-- A pod leaves its hull for a probe or bypass: at a fold point of a RUNNING hull, else at once (R392, R394). -/
def State.takePod (s : State) (p : Nat) : State :=
  let h := (s.pod p).hull
  if h = 0 then s.enterTest [p]
  else if (s.hull h).state = .running then s.setPod p { s.pod p with leaving := some ((s.pod p).leaving.getD s.time.gtc) }
  else (s.dropPods [p]).enterTest [p]

/-- Tokens that a probe of a pod lacks (R392). -/
def State.probeShort (s : State) (h share : Nat) : Nat :=
  if h = 0 then share - s.unassigned
  else
    let x := s.hull h
    let fold := if x.state = .running then (match s.canSpare h with | some q => sumOf q.podShares + x.standing | none => 0) else 0
    share + fold - x.share

/-- PROBE_POD (R391–R393, R395, R460). -/
def State.probePod (s : State) (c : Cmd) : State :=
  let p := pf c.params 1 1
  let h := (s.pod p).hull
  match s.slotFor (pf c.params 2 1) 0 with
  | none => s.reply c 0x0800 sBADPARAM 0
  | some e =>
    if !testFieldsOk c 1 ∨ s.board.fused.getLsbD p then s.reply c 0x0800 sBADPARAM 0
    else if !s.isOperator c then s.reply c 0x0800 sDENIED 0
    else if s.probe.active ∨ (h ≠ 0 ∧ (s.hull h).prog.isSome ∧ (s.canSpare h).isNone) then s.reply c 0x0800 sBUSY 0
    else if (s.pod p).asleep ∧ !(s.pod p).wakeMask.getLsbD 1 then s.reply c 0x0800 sBUSY 0
    else
      let short := s.probeShort h e.share
      if 0 < short then s.reply c 0x0800 sNORES (mkFields [(0, 8, short)])
      else
        let w := s.wakeFor (if (s.pod p).asleep then [p] else []) 2 0x0800 c
        if w.2 then w.1
        else
          let s := w.1
          let q : ProbeS := { state := 1, nmu := false, target := p, slot := pf c.params 2 1, version := BitVec.ofNat 32 e.version, gtc := 0,
                              hull := h, share := e.share, durationMs := e.durationMs }
          ({ s with probe := q }.takePod p).reply c 0x0800 sACCEPTED 0

/-- TEST_RUN with OP PROBE_POD. -/
def execProbePod (c : Cmd) (s : State) : Outcome := .next (s.packet c 0x0800 fun s => s.probePod c)

/-- PROBE_NMU. -/
def State.probeNmu (s : State) (c : Cmd) : State :=
  match s.slotFor (pf c.params 2 1) 1 with
  | none => s.reply c 0x0800 sBADPARAM 0
  | some e =>
    if !testFieldsOk c 2 then s.reply c 0x0800 sBADPARAM 0
    else if !s.isOperator c then s.reply c 0x0800 sDENIED 0
    else if s.probe.active then s.reply c 0x0800 sBUSY 0
    else
      let q : ProbeS := { state := 2, nmu := true, target := pf c.params 3 1, slot := pf c.params 2 1, version := BitVec.ofNat 32 e.version,
                          gtc := s.time.gtc, hull := 0, share := 0, durationMs := e.durationMs }
      ({ s with probe := q }).reply c 0x0800 sACCEPTED 0

/-- TEST_RUN with OP PROBE_NMU. -/
def execProbeNmu (c : Cmd) (s : State) : Outcome := .next (s.packet c 0x0800 fun s => s.probeNmu c)

/-- BYPASS_POD (R394). -/
def State.bypassCmd (s : State) (c : Cmd) : State :=
  let p := pf c.params 1 1
  let h := (s.pod p).hull
  if !testFieldsOk c 3 ∨ s.board.fused.getLsbD p then s.reply c 0x0800 sBADPARAM 0
  else if !s.isOperator c then s.reply c 0x0800 sDENIED 0
  else if h ≠ 0 ∧ (s.hull h).prog.isSome ∧ (s.canSpare h).isNone then s.reply c 0x0800 sBUSY 0
  else if h = 0 then (s.bypassPod p).reply c 0x0800 sDONE 0
  else (s.takePod p).reply c 0x0800 sACCEPTED 0

/-- TEST_RUN with OP BYPASS_POD. -/
def execBypassPod (c : Cmd) (s : State) : Outcome := .next (s.packet c 0x0800 fun s => s.bypassCmd c)

/-- RELEASE_POD (R394). -/
def State.releaseCmd (s : State) (c : Cmd) : State :=
  let p := pf c.params 1 1
  if !testFieldsOk c 4 ∨ s.board.fused.getLsbD p then s.reply c 0x0800 sBADPARAM 0
  else if !s.isOperator c then s.reply c 0x0800 sDENIED 0
  else if !s.bypass.getLsbD p then s.reply c 0x0800 sBUSY 0
  else
    let s := { s with bypass := s.bypass &&& ~~~(BitVec.ofNat 8 (2 ^ p)) }
    (s.setPod p { s.pod p with state := .idle }).reply c 0x0800 sDONE 0

/-- TEST_RUN with OP RELEASE_POD. -/
def execReleasePod (c : Cmd) (s : State) : Outcome := .next (s.packet c 0x0800 fun s => s.releaseCmd c)

/-- MAPOUT_UNIT (R394): cause 4. -/
def State.mapoutCmd (s : State) (c : Cmd) : State :=
  let n := pf c.params 4 2
  let u := if n < 512 then MemUnit.a n else .b (n - 512)
  if !testFieldsOk c 5 then s.reply c 0x0800 sBADPARAM 0
  else if !s.isOperator c then s.reply c 0x0800 sDENIED 0
  else if (s.unit u).state = 2 ∨ s.mem.mapout = some u ∨ (s.mem.mapoutQueue.any fun q => q.2.1 == u) then s.reply c 0x0800 sBUSY 0
  else (s.mapOutTrigger u 4).reply c 0x0800 sACCEPTED 0

/-- TEST_RUN with OP MAPOUT_UNIT. -/
def execMapoutUnit (c : Cmd) (s : State) : Outcome := .next (s.packet c 0x0800 fun s => s.mapoutCmd c)

/-- BYPASS_BUNDLE and RELEASE_BUNDLE (R394): the bundle's JV_DISABLE bit. -/
def State.bundleCmd (s : State) (c : Cmd) (op : Nat) : State :=
  let bit := BitVec.ofNat 36 (2 ^ pf c.params 6 1)
  if !testFieldsOk c op then s.reply c 0x0800 sBADPARAM 0
  else if !s.isOperator c then s.reply c 0x0800 sDENIED 0
  else if op = 6 then ((s.setDisable (s.jv.disable ||| bit)).bypassed none).reply c 0x0800 sDONE 0
  else (s.setDisable (s.jv.disable &&& ~~~bit)).reply c 0x0800 sDONE 0

/-- TEST_RUN with OP BYPASS_BUNDLE. -/
def execBypassBundle (c : Cmd) (s : State) : Outcome := .next (s.packet c 0x0800 fun s => s.bundleCmd c 6)

/-- TEST_RUN with OP RELEASE_BUNDLE. -/
def execReleaseBundle (c : Cmd) (s : State) : Outcome := .next (s.packet c 0x0800 fun s => s.bundleCmd c 7)

/-! ## The end of a run (R392) -/

/-- A run fails: record, bypass of the pod or blocks held, interrupts 579 and 580. -/
def State.probeFail (s : State) (tile check : Nat) : State :=
  let q := s.probe
  let s := s.log1 (mkRec 0x0C 2 0x0600 0 (if q.nmu then 0xFF else q.target) (if q.nmu then 0xFF else tile % 256) 0
    (natLe 1 q.slot ++ natLe 4 q.version.toNat ++ natLe 4 check ++ natLe 2 q.target ++ natLe 1 4))
  let s := s.event evIntg 3 579
  let s := if q.nmu then { s with nmu := { s.nmu with failed := if s.nmu.failed.contains q.target then s.nmu.failed else s.nmu.failed ++ [q.target] } }
    else s.bypassPod q.target
  s.probeEnd 4

/-- A run passes: the pod is cleared and goes back to its hull, which first uses it at its next step boundary. -/
def State.probePass (s : State) : State :=
  let q := s.probe
  if q.nmu then s.probeEnd 3
  else
    let p := q.target
    if s.bypass.getLsbD p then s.probeEnd 3
    else
      let s := s.clearPod p
      let x := s.hull q.hull
      let back := q.hull != 0 && x.live && x.grants.any fun g => g.pods.getLsbD p
      let s := s.setPod p { s.pod p with state := .idle, hull := if back then q.hull else 0 }
      let s := if back ∧ x.state = .running then s.setHull q.hull { x with newPods := true } else s
      s.probeEnd 3

/-- PROBE_RUN_END. -/
def execProbeRunEnd (pass : Bool) (tile check : Nat) (s : State) : Outcome :=
  .next (if s.probe.state ≠ 2 then s else if pass then s.probePass else s.probeFail tile check)

/-- PROBE_TIMEOUT: a run longer than DURATION_MS fails; the failing check is not stated. -/
def execProbeTimeout (s : State) : Outcome :=
  .next (
    let q := s.probe
    if q.state = 2 ∧ q.gtc + 1000000 * q.durationMs < s.time.gtc then
      let f := s.free
      f.2.probeFail 0xFF (f.1.toNat % 2 ^ 32)
    else s)

/-! ## The error log (R398–R400) -/

/-- Marks records consumed. -/
def State.consume (s : State) (f : ErrRec → Bool) : State :=
  { s with log := s.log.map fun r => if f r then { r with consumed := true } else r }

/-- ERR_LOG_READ (R399). A tenant caller gets the records of hulls it owns. -/
def State.errLogRead (s : State) (c : Cmd) : State :=
  let first := pf c.params 0 8
  let count := pf c.params 8 1
  let dst := pf c.params 0x10 8
  if count = 0 ∨ count > 64 ∨ pf c.params 9 7 ≠ 0 ∨ !restZero c 0x18 ∨ dst % 64 ≠ 0 then s.reply c 0x0802 sBADPARAM 0
  else
    let held := s.log.filter fun r => decide (first ≤ r.seq)
    let mine := fun (r : ErrRec) => s.isOperator c || (r.hull != 0 && s.ownsHull c r.hull)
    let copied := (held.filter mine).take count
    let next :=
      if copied.length = count then (match copied.getLast? with | some r => r.seq + 1 | none => first)
      else (match held.getLast? with | some r => r.seq + 1 | none => first)
    let gap := match s.log.head? with | some r => decide (first < r.seq) | none => false
    let s := s.hostWrite dst (copied.flatMap ErrRec.bytes)
    let s := s.consume fun r => copied.any fun k => k.seq == r.seq
    s.reply c 0x0802 sDONE (mkFields [(0, 1, copied.length), (1, 1, b2n gap), (8, 8, next)])

/-- ERR_LOG_READ. -/
def execErrLogRead (c : Cmd) (s : State) : Outcome := .next (s.packet c 0x0802 fun s => s.errLogRead c)

/-- RECORD_PUSH_ACK: TCP has acknowledged the last byte of the record on its way to a collector. It is consumed once every configured
collector has it. -/
def execRecordPushAck (i : Nat) (s : State) : Outcome :=
  .next (match s.collectors[i]? with
    | some k =>
      match s.pushNext k with
      | some r =>
        if k.configured ∧ k.reachable then
          let s := { s with collectors := setAt s.collectors i { k with next := r.seq + 1 } }
          let all := s.collectors.all fun q => !q.configured || decide (r.seq < q.next)
          ((if all then s.consume fun q => q.seq == r.seq else s)).pushTo i
        else s
      | none => s
    | none => s)

/-- COLLECTOR_RETRY: every second while a collector is unreachable. -/
def execCollectorRetry (i : Nat) (reachable : Bool) (s : State) : Outcome :=
  .next (match s.collectors[i]? with
    | some k =>
      let s := { s with collectors := setAt s.collectors i { k with reachable := reachable } }
      if reachable ∧ !k.reachable then s.pushTo i else s
    | none => s)

end Sys2Proof.Machine
end

