-- ==== Sys2Proof/Machine/Groups.lean ====
section
/-!
DEFINITION. Commands on the group table and the link plan (R330–R332, R292, R293, R301, R302).
-/

namespace Sys2Proof.Machine

/-! ## Group table (R304–R307, R330–R332) -/

/-- Blocks a roster of n entries occupies. -/
def rosterBlocks (n : Nat) : Nat := (8 * n + 4095) / 4096

/-- A roster's entries: (WORLD_RANK, FID, HEIR), with the byte that must be zero. -/
def rosterOf (b : List Byte) (n : Nat) : List ((Nat × BitVec 24 × Nat) × Nat) :=
  (upFrom 0 n).map fun i =>
    ((fieldLe b (8 * i) 2, BitVec.ofNat 24 (fieldLe b (8 * i + 2) 3), fieldLe b (8 * i + 5) 2), fieldLe b (8 * i + 7) 1)

/-- The rules of R305 that GRP_WRITE checks; `fid` with a plan installed. In a WORLD group position i has world rank i (log entry 31). -/
def rosterOk (r : List ((Nat × BitVec 24 × Nat) × Nat)) (world : Bool) (me : Nat) (fid : Option (BitVec 24)) : Bool :=
  r.all (fun e => e.2 == 0 && e.1.2.2 != e.1.1) && noRepeat (r.map fun e => e.1.1) && (!world || r.map (fun e => e.1.1) == upFrom 0 r.length)
    && (match fid with
        | some f => (match r[me]? with | some e => e.1.2.1 == f | none => false)
        | none => true)

/-- The fields of GRP_WRITE are in rule. -/
def State.grpFieldsOk (s : State) (c : Cmd) : Bool :=
  let f := fun (a n : Nat) => pf c.params a n
  let n := f 4 2 + 1
  let fl := f 1 1
  let pol := fl / 4 % 4
  let native := fl % 2 == 0
  isHull (f 0 1) && decide (fl < 16 ∧ f 2 2 < 4096 ∧ f 6 2 < n) && pol != 3
    && (if native then decide (1 ≤ f 8 1 ∧ f 8 1 ≤ 8 ∧ 1 ≤ f 9 1 ∧ f 9 1 ≤ 8 ∧ 1 ≤ f 10 2 ∧ f 10 2 ≤ 1024 ∧ f 8 1 * f 9 1 * f 10 2 = n)
        else f 8 1 == 0 && f 9 1 == 0 && f 10 2 == 0)
    && decide (12 ≤ f 12 1 ∧ f 12 1 ≤ 16 ∧ 1 ≤ f 13 1 ∧ f 13 1 ≤ 64) && (if pol = 0 then f 14 2 == 0 else f 14 2 != 0)
    && decide (f 16 8 % 8 = 0 ∧ f 24 8 % 4096 = 0) && s.inWindow (f 0 1) true (f 24 8) (4096 * rosterBlocks n)

/-- GRP_WRITE (R330). A rewritten entry starts with no position lost and EPOCH 0 (log entry 29). -/
def State.grpWrite (s : State) (c : Cmd) : State :=
  let f := fun (a n : Nat) => pf c.params a n
  let h := f 0 1
  let n := f 4 2 + 1
  let g := s.group (f 2 2)
  let bytes := s.hostRead (f 16 8) (8 * n)
  let roster := rosterOf bytes n
  let world := bitOf (f 1 1) 1
  if !s.grpFieldsOk c then s.reply c 0x0500 sBADPARAM 0
  else if !s.ownsHull c h then s.reply c 0x0500 sDENIED 0
  else if g.state = 2 ∨ (g.state = 1 ∧ g.hull ≠ h) then s.reply c 0x0500 sBUSY 0
  else if !rosterOk roster world (f 6 2) (s.jv.plan.map (·.fid)) then s.reply c 0x0500 sBADPARAM 0
  else
    let s := s.writeRange h true (f 24 8) 0xFFFFE 0 (slice bytes 0 (4096 * rosterBlocks n))
    if s.mem.lost then s.reply c 0x0500 sFAULT 0
    else
    let s := s.setGroup (f 2 2)
      { g with state := 1, hull := h, compat := bitOf (f 1 1) 0, world := world, policy := f 1 1 / 4 % 4, members := n, myPos := f 6 2,
               n1 := f 8 1, n2 := f 9 1, n3 := f 10 2, chunkLog2 := f 12 1, share := f 13 1, lateUs := f 14 2, rosterOff := f 24 8,
               roster := roster.map (·.1), epoch := 0, lost := [], heard := [] }
    s.reply c 0x0500 sDONE (mkFields [(0, 8, 8 * n)])

/-- GRP_WRITE. -/
def execGrpWrite (c : Cmd) (s : State) : Outcome := .next (s.packet c 0x0500 fun s => s.grpWrite c)

/-- A group of the hull's loaded program whose content is no longer the one digested (R20). -/
def State.groupChanged (s : State) (h gid : Nat) : Bool :=
  match (s.hull h).prog with
  | some p => p.groupsAs.any fun e => e.1 == gid && e.2 != groupContent (s.group gid)
  | none => false

/-- Another ACTIVE group of the hull has the WORLD flag. -/
def State.otherWorld (s : State) (h gid : Nat) : Bool :=
  s.groups.any fun (e : Nat × Group) => e.1 != gid && e.2.hull == h && e.2.state == 2 && e.2.world

/-- GRP_ACTIVATE (R331). -/
def State.grpActivate (s : State) (c : Cmd) : State :=
  let h := pf c.params 0 1
  let fl := pf c.params 1 1
  let gid := pf c.params 2 2
  let g := s.group gid
  let used := s.shareUsed h
  let fin := fun (s : State) (st : Byte) (l : List (Nat × Nat × Nat)) => s.reply c 0x0501 st (mkFields l)
  if !isHull h ∨ fl ≥ 2 ∨ gid ≥ 4096 ∨ !restZero c 4 then fin s sBADPARAM []
  else if !s.ownsHull c h ∨ (g.state ≠ 0 ∧ g.hull ≠ h) then fin s sDENIED []
  else if fl = 1 then
    if g.state ≠ 2 ∨ (s.openOp h gid).isSome then fin s sBUSY []
    else
      let s := s.setGroup gid { g with state := 1 }
      fin s sDONE [(0, 1, s.shareUsed h)]
  else if g.state ≠ 1 then fin s sBUSY []
  else if s.groupChanged h gid ∨ (g.world ∧ s.otherWorld h gid) then fin s sBADPARAM []
  else if used + g.share > 64 then fin s sNORES [(0, 1, used), (8, 8, used + g.share - 64)]
  else
    let s := s.setGroup gid { g with state := 2 }
    fin s sDONE [(0, 1, s.shareUsed h)]

/-- GRP_ACTIVATE. -/
def execGrpActivate (c : Cmd) (s : State) : Outcome := .next (s.packet c 0x0501 fun s => s.grpActivate c)

/-- GRP_READ (R332). -/
def State.grpRead (s : State) (c : Cmd) : State :=
  let h := pf c.params 0 1
  let gid := pf c.params 2 2
  let g := s.group gid
  if !isHull h ∨ pf c.params 1 1 ≠ 0 ∨ gid ≥ 4096 ∨ !restZero c 4 then s.reply c 0x0502 sBADPARAM 0
  else if !s.ownsHull c h ∨ (g.state ≠ 0 ∧ g.hull ≠ h) then s.reply c 0x0502 sDENIED 0
  else if g.state = 0 then s.reply c 0x0502 sDONE 0
  else
    s.reply c 0x0502 sDONE (mkFields
      [(0, 1, g.state), (1, 1, b2n g.compat + 2 * b2n g.world + 4 * g.policy), (2, 2, g.members - 1), (4, 2, g.myPos),
       (6, 1, g.epoch.toNat), (7, 1, min 255 (dedup (g.lost.map (·.1))).length), (8, 1, g.n1), (9, 1, g.n2), (10, 2, g.n3),
       (12, 1, g.chunkLog2), (13, 1, g.share), (14, 2, g.lateUs), (16, 8, g.rosterOff)])

/-- GRP_READ. -/
def execGrpRead (c : Cmd) (s : State) : Outcome := .next (s.packet c 0x0502 fun s => s.grpRead c)

/-! ## Link plan (R292, R293, R301) -/

/-- A rule of the image at an offset; the smallest offset with a broken rule is reported. A field out of range is reported at its first
byte, a reserved byte at its own, a rule on a neighbour at the neighbour's entry (log entry 30). -/
abbrev PlanRule := Nat × Bool

/-- Reserved bytes. -/
def zeroRules (b : List Byte) (a n : Nat) : List PlanRule := (upFrom a n).map fun o => (o, fieldLe b o 1 == 0)

/-- The image of a plan, as its fields. -/
def planOf (b : List Byte) : Plan :=
  let n := fieldLe b 2 1
  let r := fieldLe b 0xA 2
  let nb := 64 + 8 * 36
  let rt := nb + 8 * n
  { root := fieldLe b 3 1 == 1, fid := BitVec.ofNat 24 (fieldLe b 4 3), timeUp := fieldLe b 8 1, timeAlt := fieldLe b 9 1,
    planId := BitVec.ofNat 32 (fieldLe b 0xC 4),
    bundles := (upFrom 0 36).map fun i =>
      (fieldLe b (64 + 8 * i) 1, fieldLe b (65 + 8 * i) 1, fieldLe b (66 + 8 * i) 1, fieldLe b (67 + 8 * i) 1),
    neighbours := (upFrom 0 n).map fun i => (BitVec.ofNat 24 (fieldLe b (nb + 8 * i) 3), fieldLe b (nb + 8 * i + 4) 1, fieldLe b (nb + 8 * i + 5) 1),
    routes := (upFrom 0 r).map fun i =>
      (BitVec.ofNat 24 (fieldLe b (rt + 8 * i) 3), fieldLe b (rt + 8 * i + 3) 1, (upFrom 4 4).map fun k => fieldLe b (rt + 8 * i + k) 1) }

/-- Rules of the header. -/
def headRules (b : List Byte) : List PlanRule :=
  let n := fieldLe b 2 1
  let root := fieldLe b 3 1 == 1
  let up := fieldLe b 8 1
  let alt := fieldLe b 9 1
  [(0, fieldLe b 0 2 == 1), (2, decide (1 ≤ n ∧ n ≤ 36)), (3, decide (fieldLe b 3 1 ≤ 1)), (7, fieldLe b 7 1 == 0),
   (8, if root then up == 0xFF else decide (up < n)), (9, if root then alt == 0xFF else alt == 0xFF || decide (alt < n)),
   (0xA, decide (fieldLe b 0xA 2 ≤ 256))] ++ zeroRules b 0x10 48

/-- Rules of bundle i. -/
def bundleRules (p : Plan) (b : List Byte) (i : Nat) : List PlanRule :=
  let o := 64 + 8 * i
  let e := p.bundles.getD i (0xFF, 0, 0, 0)
  let used := e.1 != 0xFF
  let level := (p.neighbours.getD e.1 (0, 0, 0)).2.1
  [(o, !used || decide (e.1 < p.neighbours.length)), (o + 1, decide (e.2.1 ≤ 4)),
   (o + 2, decide (e.2.2.1 ≤ 1) && (!used || decide (p.neighbours.length ≤ e.1) || e.2.2.1 == (if level = 1 then 0 else 1))),
   (o + 3, e.2.2.2 == 1 || e.2.2.2 == 2 || e.2.2.2 == 4)] ++ zeroRules b (o + 4) 4

/-- Rules of neighbour i. -/
def neighbourRules (p : Plan) (b : List Byte) (i : Nat) : List PlanRule :=
  let o := 64 + 8 * 36 + 8 * i
  let e := p.neighbours.getD i (0, 0, 0)
  [(o, (p.bundles.any fun q => q.1 == i) && e.1 != p.fid && !((p.neighbours.take i).any fun q => q.1 == e.1)), (o + 3, fieldLe b (o + 3) 1 == 0),
   (o + 4, decide (1 ≤ e.2.1 ∧ e.2.1 ≤ 3)), (o + 5, decide (e.2.2 ≤ 1) && (e.2.2 == if e.2.1 = 1 then 0 else 1))] ++ zeroRules b (o + 6) 2

/-- Rules of route i. -/
def routeRules (p : Plan) (i : Nat) : List PlanRule :=
  let o := 64 + 8 * 36 + 8 * p.neighbours.length + 8 * i
  let e := p.routes.getD i (0, 0, [])
  (o + 3, decide (1 ≤ e.2.1 ∧ e.2.1 ≤ 24)) ::
    (upFrom 0 4).map fun k =>
      let x := e.2.2.getD k 0xFF
      (o + 4 + k, decide (x < p.neighbours.length) || (x == 0xFF && k != 0))

/-- The first byte of an image that breaks a rule. -/
def planBad (b : List Byte) : Option Nat :=
  let p := planOf b
  let rules := headRules b ++ (upFrom 0 36).flatMap (bundleRules p b) ++ (upFrom 0 p.neighbours.length).flatMap (neighbourRules p b)
    ++ (upFrom 0 p.routes.length).flatMap (routeRules p)
  let bad := (rules.filter fun r => !r.2).map (·.1)
  match bad with
  | [] => none
  | a :: r => some (r.foldl min a)

/-- A plan is installed: an UNUSED bundle that it names trains, or is DISABLED where its bit is set; one it leaves unnamed is UNUSED
(R296). -/
def State.installPlan (s : State) (p : Plan) : State :=
  let s := { s with jv := { s.jv with plan := some p } }
  let s := (upFrom 0 36).foldl (fun (s : State) b =>
    let e := p.bundles.getD b (0xFF, 0, 0, 0)
    if e.1 = 0xFF then
      let s := if (s.bundle b).state = .unused then s else s.leave b .unused
      s.setBundle b { s.bundle b with neighbour := 0, owner := 0, reach := 0, minWidth := 1 }
    else
      let x := s.bundle b
      let st := match x.state with
        | .unused => if s.jv.disable.getLsbD b then BState.disabled else .training
        | st => st
      s.setBundle b { x with state := st, neighbour := e.1, owner := e.2.1, reach := e.2.2.1, minWidth := e.2.2.2 }) s
  s.flushWaiting.rootLock

/-- LINK_PLAN (R301). PLAN_ID is filled wherever the image was read. -/
def State.linkPlan (s : State) (c : Cmd) : State :=
  let fl := pf c.params 0 1
  let src := pf c.params 8 8
  let len := pf c.params 0x10 4
  let head := s.hostRead src 64
  let fin := fun (s : State) (st : Byte) (bad : Nat) => s.reply c 0x0510 st (mkFields [(0, 4, fieldLe head 0xC 4), (4, 4, bad)])
  if fl ≥ 2 ∨ pf c.params 1 7 ≠ 0 ∨ !restZero c 0x14 ∨ src % 4096 ≠ 0 ∨ len ≠ 64 + 8 * (36 + fieldLe head 2 1 + fieldLe head 0xA 2) then
    s.reply c 0x0510 sBADPARAM (mkFields [(4, 4, 0xFFFFFFFF)])
  else if !isHostLink c then s.reply c 0x0510 sDENIED (mkFields [(4, 4, 0xFFFFFFFF)])
  else if hullNos.any fun h => (s.hull h).state != .free then fin s sBUSY 0xFFFFFFFF
  else
    let b := s.hostRead src len
    match planBad b with
    | some o => fin s sBADPARAM o
    | none => fin (if fl = 1 then s else s.installPlan (planOf b)) sDONE 0xFFFFFFFF

/-- LINK_PLAN. -/
def execLinkPlan (c : Cmd) (s : State) : Outcome := .next (s.packet c 0x0510 fun s => s.linkPlan c)

/-- LINK_STATUS (R302). -/
def State.linkStatus (s : State) (c : Cmd) : State :=
  let up := (upFrom 0 36).filter fun b => (s.bundle b).state == .up
  let mask := fun (l : List Nat) => sumOf (l.map fun b => 2 ^ b)
  if !restZero c 0 then s.reply c 0x0511 sBADPARAM 0
  else
    s.reply c 0x0511 sDONE (mkFields
      [(0, 8, mask up), (8, 8, mask (up.filter fun b => decide ((s.bundle b).width < 4))),
       (16, 4, match s.jv.plan with | some p => p.planId.toNat | none => 0),
       (20, 4, sumOf (up.map fun b => 50 * (s.bundle b).width) / 4)])

/-- LINK_STATUS. -/
def execLinkStatus (c : Cmd) (s : State) : Outcome := .next (s.packet c 0x0511 fun s => s.linkStatus c)

end Sys2Proof.Machine
end

