-- ==== Sys2Proof/Machine/MemCmds.lean ====
section
/-!
DEFINITION. Commands on the memory windows (R201–R204).
-/

namespace Sys2Proof.Machine

/-- A tag that a command may write (R193). -/
def tagOk (tensor : Nat) : Bool := decide (tensor < 2 ^ 20) && tensor != 0xFFFFF && tensor != 0xFFFFE

/-- LENGTH of R201. -/
def copyLenOk (n : Nat) : Bool := decide (n % 4096 = 0 ∧ 4096 ≤ n ∧ n ≤ 0x1000000000)

/-- A place that a copy reads from or writes to: host memory, or a hull's window in a tier. -/
inductive CopySide where
  | host
  | window (tierB : Bool)

/-- One block of a copy, and whether it arrived: not where the source block fails its check, whose finding is the third part, and not
where either block meets an uncorrectable error (R202). -/
def State.copyBlock (s : State) (h tensor : Nat) (src dst : CopySide) (sa da i : Nat) : State × Bool × Option Check :=
  let r : ReadOut := match src with
    | .host => { st := s, data := s.hostRead (sa + 4096 * i) 4096, bad := none }
    | .window tb => s.readRange h tb sa tensor (4096 * i) 4096
  match r.bad with
  | some e => (r.st, false, some e.2)
  | none =>
    match dst with
    | .host => (r.st.hostWrite (da + 4096 * i) r.data, true, none)
    | .window tb =>
      let w := r.st.writeRange h tb da tensor (4096 * i) r.data
      (w, !w.mem.lost, none)

/-- Copies block after block until one fails: blocks copied, and the failed check. -/
def State.copyBlocks (h tensor : Nat) (src dst : CopySide) (sa da : Nat) : Nat → Nat → State → State × Nat × Option Check
  | 0, i, s => (s, i, none)
  | n + 1, i, s =>
    match s.copyBlock h tensor src dst sa da i with
    | (s, true, _) => State.copyBlocks h tensor src dst sa da n (i + 1) s
    | (s, false, k) => (s, i, k)

/-- A command's window range that passes LIMIT (R185): nothing of it is accessed, and its first offset past LIMIT is
recorded (log entry 80). -/
def State.rejectPast (s : State) (h : Nat) (tierB write : Bool) (off len : Nat) : State :=
  if s.inWindow h tierB off len then s else s.reject h tierB write (max off ((s.hull h).limit tierB))

/-- The hull may be worked on: GRANTED or RUNNING. -/
def Hull.workable (x : Hull) : Bool := x.state == .granted || x.state == .running

/-- MEM_COPY (R201, R202). -/
def State.memCopy (s : State) (c : Cmd) : State :=
  let f := fun (a n : Nat) => pf c.params a n
  let h := f 0 1
  let fl := f 1 1
  let dir := fl % 4
  let tensor := f 4 4
  let sa := f 8 8
  let da := f 0x10 8
  let len := f 0x18 8
  let src := if dir = 0 then CopySide.host else .window (bitOf fl 2)
  let dst := if dir = 1 then CopySide.host else .window (bitOf fl 3)
  let bad := !isHull h || decide (fl ≥ 16 ∨ dir = 3) || (dir == 0 && bitOf fl 2) || (dir == 1 && bitOf fl 3) || f 2 2 != 0 || !tagOk tensor
    || decide (sa % 4096 ≠ 0 ∨ da % 4096 ≠ 0) || !copyLenOk len
  let inside := fun (w : CopySide) (a : Nat) => match w with | .host => true | .window tb => s.inWindow h tb a len
  if bad then s.reply c 0x0400 sBADPARAM 0
  else if !s.ownsHull c h then s.reply c 0x0400 sDENIED 0
  else if !(s.hull h).workable then s.reply c 0x0400 sBUSY 0
  else if !inside src sa ∨ !inside dst da then
    let past := fun (s : State) (w : CopySide) (write : Bool) (a : Nat) => match w with
      | .host => s
      | .window tb => s.rejectPast h tb write a len
    (past (past s src false sa) dst true da).reply c 0x0400 sBADPARAM 0
  else
    let r := State.copyBlocks h tensor src dst sa da (len / 4096) 0 s
    if r.2.1 < len / 4096 then
      let s := match r.2.2 with
        | some k => r.1.huskFail (s.cmdSrc c) h 0xFF 0xFF tensor r.2.1 k
        | none => r.1
      s.reply c 0x0400 sFAULT (mkFields [(0, 8, 4096 * r.2.1), (8, 8, 4096 * r.2.1)])
    else r.1.reply c 0x0400 sDONE (mkFields [(0, 8, len), (8, 8, 0xFFFFFFFFFFFFFFFF)])

/-- MEM_COPY. -/
def execMemCopy (c : Cmd) (s : State) : Outcome := .next (s.packet c 0x0400 fun s => s.memCopy c)

/-- A fill, block by block, with a pattern or with the unwritten marker: blocks done, short of `n` where one is lost (R202). -/
def State.fillBlocks (h : Nat) (tierB : Bool) (base tensor : Nat) (v : Option (List Byte)) : Nat → Nat → State → State × Nat
  | 0, i, s => (s, i)
  | n + 1, i, s =>
    let w := match v with
      | some b => s.writeRange h tierB base tensor (4096 * i) b
      | none => s.zeroRange h tierB base 0 (4096 * i) 4096
    if w.mem.lost then (w, i) else State.fillBlocks h tierB base tensor v n (i + 1) w

/-- MEM_FILL (R202, R203). -/
def State.memFill (s : State) (c : Cmd) : State :=
  let f := fun (a n : Nat) => pf c.params a n
  let h := f 0 1
  let fl := f 1 1
  let tb := bitOf fl 0
  let pattern := bitOf fl 1
  let tensor := f 4 4
  let off := f 8 8
  let len := f 0x10 8
  let v := f 0x18 8
  let bad := !isHull h || decide (fl ≥ 4) || f 2 2 != 0 || (if pattern then !tagOk tensor else tensor != 0 || v != 0)
    || decide (off % 4096 ≠ 0) || !copyLenOk len
  if bad then s.reply c 0x0401 sBADPARAM 0
  else if !s.ownsHull c h then s.reply c 0x0401 sDENIED 0
  else if !(s.hull h).workable then s.reply c 0x0401 sBUSY 0
  else if !s.inWindow h tb off len then (s.rejectPast h tb true off len).reply c 0x0401 sBADPARAM 0
  else
    let r := State.fillBlocks h tb off tensor (if pattern then some (List.replicate 512 (natLe 8 v)).flatten else none) (len / 4096) 0 s
    r.1.reply c 0x0401 (if r.2 < len / 4096 then sFAULT else sDONE) (mkFields [(0, 8, 4096 * r.2)])

/-- MEM_FILL. -/
def execMemFill (c : Cmd) (s : State) : Outcome := .next (s.packet c 0x0401 fun s => s.memFill c)

/-- Units of a tier that are not mapped out, and those that are free. -/
def State.usable (s : State) (tierB : Bool) : Nat :=
  ((upFrom 0 (unitCount tierB)).filter fun n => (s.unit (unitOf tierB n)).state != 2).length

/-- Usable, in no extent, not context 0's and not awaiting a scrub (R204): free, or the target of a copy (R199). -/
def UnitS.unheld (x : UnitS) : Bool := x.state == 0 || x.state == 3

/-- Units of a tier that are free in the sense of R204. -/
def State.unheldUnits (s : State) (tierB : Bool) : List Nat :=
  (upFrom 0 (unitCount tierB)).filter fun n => (s.unit (unitOf tierB n)).unheld

/-- MEM_MAP_STATUS (R204). -/
def State.memMapStatus (s : State) (c : Cmd) : State :=
  let page := pf c.params 0 1
  let tb := page == 8
  let base := if tb then 0 else 64 * page
  let mask := fun (f : UnitS → Bool) => sumOf ((upFrom 0 64).map fun i => bitAt (f (s.unit (unitOf tb (base + i)))) i)
  if page > 8 ∨ !restZero c 1 then s.reply c 0x0402 sBADPARAM 0
  else
    s.reply c 0x0402 sDONE (mkFields
      [(0, 8, mask fun u => u.state == 2), (8, 8, mask UnitS.unheld), (0x10, 2, s.usable false), (0x12, 2, s.usable true), (0x14, 2, (s.unheldUnits false).length),
       (0x16, 2, (s.unheldUnits true).length)])

/-- MEM_MAP_STATUS. -/
def execMemMapStatus (c : Cmd) (s : State) : Outcome := .next (s.packet c 0x0402 fun s => s.memMapStatus c)

end Sys2Proof.Machine
end

