-- ==== Sys2Proof/Machine/RegView.lean ====
section
/-!
DEFINITION. What a register reads as (R12): the registers that show the state, field by field in the order of the register tables; the
others are stored words. Reading here has no side effect; that of a normal read is in `Access` of the registers.
-/

namespace Sys2Proof.Machine

/-- A register word from its fields' values, in the order of the register's table. -/
def packFields : List RField → List Nat → Nat
  | f :: fs, v :: vs => v % 2 ^ (f.hi + 1 - f.lo) * 2 ^ f.lo + packFields fs vs
  | _, _ => 0

/-- POD_STATUS.STATE. -/
def podCode : PodState → Nat
  | .off => 0
  | .idle => 1
  | .active => 2
  | .test => 3
  | .fused => 4

/-- RST_STATUS.DEV_STATE. -/
def devCode : DevState → Nat
  | .cold => 0
  | .init => 1
  | .ready => 2
  | .degraded => 3
  | .recovering => 4
  | .outOfService => 5

/-- CMD_RCFG.STATE. -/
def ringCode : RingState → Nat
  | .disabled => 0
  | .running => 1
  | .draining => 2
  | .fault => 3

/-- The state a pod reads: FUSED where it is fused (R3, R459). -/
def State.podState (s : State) (p : Nat) : PodState := if s.board.fused.getLsbD p then .fused else (s.pod p).state

/-- Counted resets of the last 24 h (R413, R414). -/
def State.counted (s : State) : Nat := (s.rst.hist.filter fun g => decide (s.time.gtc < g + 86400000000000)).length

/-- Fields of the selected sync object in a pod (R137). -/
def State.syncFields (s : State) (p : Nat) : List Nat :=
  let id := s.regF (0x100400 + 0x20000 * p) 13 0
  match tfind s.sync id with
  | some o =>
    if o.pod ≠ p then []
    else
      let v := match o.kind with
        | 2 => o.holder.getD 0xFFFF
        | 3 => o.param - o.held.length
        | _ => o.value
      [o.kind, 1, b2n o.broken, o.gen.toNat, min 255 o.waiters.length, v]
  | none => []

/-- Fields of a memory unit's state register. -/
def unitFields (tierB : Bool) (x : UnitS) : List Nat :=
  [x.state, b2n x.copySource, x.hull, x.extent, x.slot] ++ (if tierB then [] else [x.sparesUsed, x.sparesLeft])
    ++ [if x.state = 2 then x.cause else 0]

/-- Fields of a hull's window register. -/
def Hull.winFields (x : Hull) (tierB : Bool) : List Nat :=
  let es := x.exts tierB
  [x.limit tierB / 4096, es.length]
    ++ (if tierB then [match x.rangeB with | some r => r.1 | none => 0] else []) ++ [sumOf (es.map fun e => e.units.length)]

/-- Units of a stack or package that are usable, once trained. -/
def State.usableIn (s : State) (tierB : Bool) (k : Nat) : Nat :=
  let n := if tierB then 4 else 64
  if s.mem.trained then ((upFrom (n * k) n).filter fun u => (s.unit (unitOf tierB u)).state != 2).length else 0

/-- The selected structure of an engine (R257). -/
def State.selStruct (s : State) : Option AStruct :=
  tfind (s.eng (s.regF 0x090010 3 0)).structs (s.regF 0x090010 13 8)

/-- Fields of AUS_ESTATUS. -/
def State.engFields (s : State) (a : Nat) : List Nat :=
  let e := s.eng a
  let head := match e.queue with | c :: _ => [c.handle, c.op] | [] => [0, 0]
  [e.phase, b2n e.tileMode, (s.pod (a / 2)).hull, e.queue.length] ++ head ++ [(e.used.1 + 1023) / 1024]

/-- Fields of an interrupt source, WO fields reading zero. -/
def IrqSrc.fields (x : IrqSrc) (target : Bool) : List Nat :=
  [x.prio.toNat, b2n x.enable, b2n x.moderated, b2n x.pending, b2n x.active] ++ (if target then [x.target.toNat] else []) ++ [x.count.toNat, 0, 0]

/-- The eligible source that wins a core's claim (R440): the highest PRIORITY, ties to the lowest id; private ids are the lower ones. -/
def State.winner (s : State) (c : Nat) : Option (Nat × IrqSrc) :=
  let el := s.irqs.filter fun kx => srcCore kx.1 kx.2 == c && s.eligible kx.1 kx.2
  el.foldl (fun (best : Option (Nat × IrqSrc)) kx =>
    match best with
    | some b =>
      if b.2.prio < kx.2.prio ∨ (b.2.prio = kx.2.prio ∧ srcId kx.1 < srcId b.1) then some kx else best
    | none => some kx) none

/-- What a claim of a core returns (R440): id and COUNT. -/
def State.claimValue (s : State) (c : Nat) : Nat × Nat :=
  match s.winner c with
  | some kx => (srcId kx.1, kx.2.count.toNat)
  | none => if (s.core c).latch then (1023, 0) else (0, 0)

/-- Sources active for a core. -/
def State.activeOn (s : State) (c : Nat) : Nat := (s.irqs.filter fun kx => kx.2.active && kx.2.activeOn == c).length

/-- Fields of the registers of the TIME, PWR and HULL blocks that show the state. -/
def State.view1 (s : State) (n : RegName) (i : Nat) : Option (List Nat) :=
  let x := s.hull (i + 1)
  match n with
  | .timeGtc => some [s.time.gtc]
  | .timeGtcSet => some [0]
  | .timeStatus => some [bitsOf s.timeStatusWord 1 0, bitsOf s.timeStatusWord 47 16]
  | .timeHtick => some [x.tick]
  | .timeHstep => some [x.step]
  | .timeHlaunch => some [x.launch]
  | .timeHtickStart => some [x.tickStart]
  | .pwrBudget => some [6400, 800, s.unassigned]
  | .pwrHshare => some [x.share, x.standing]
  | .pwrPledger => some [(s.pod i).share, (s.pod i).ledgerSum]
  | .pwrPpeak => some [max (s.pod i).peak (s.pod i).ledgerSum]
  | .pwrDstate => some [b2n s.board.standby, s.board.throttle, s.board.tj.toNat, s.board.powerMw.toNat]
  | .pwrPstate =>
    let p := s.pod i
    some [p.wakeMask.toNat, b2n p.entering, b2n p.waking, p.wakeCause.toNat, b2n p.aborted]
  | .pwrPwakeGtc => some [(s.pod i).wakeGtc]
  | .hullHstate => some [hullCode x.state, s.podMask (i + 1), x.grantMask, x.owner.toNat]
  | .hullHsync => some [x.syncBase, x.syncCount]
  | .hullHslots => some [x.spine.toNat, x.spine.toNat, x.nmu.toNat]
  | .hullHgen =>
    some [x.pgen.toNat, match x.prog with | some p => p.restarts | none => 0, match x.prog with | some p => p.foldLog2 | none => 0]
  | .hullHreclaim =>
    some [x.lastGrant, x.reclaimPhase, b2n x.lastForced, b2n x.lastStopped, b2n x.lastReturned, x.reclaims.length - 1]
  | .hullHreclaimGtc => some [x.lastGtc]
  | _ => none

/-- POD windows. -/
def State.view2 (s : State) (n : RegName) (p j : Nat) : Option (List Nat) :=
  let x := s.pod p
  let t := s.tile (16 * p + j)
  match n with
  | .podStatus =>
    let st := s.podState p
    some [podCode st, x.hull, b2n x.spareIn, x.spareFor.toNat, x.posBase, b2n (st == .active)]
  | .podTstatus =>
    some [t.pc.toNat, b2n t.bank, b2n t.switchPending, b2n (t.wait.isSome || t.syncWait.isSome), b2n ((!t.live && !t.frozen) || s.quiescent (16 * p + j)),
          b2n t.frozen, sumOf (t.queues.map fun q => q.2.descs.length)]
  | .podTfault =>
    some ((upFrom 0 9).map (fun i => b2n (t.tfault.getLsbD i)) ++ [t.faultQueue.toNat, t.faultPc.toNat])
  | .podTmxflags => some ((upFrom 0 7).map fun i => b2n (t.flags.getLsbD i))
  | .podTmxcount => some [t.satRetries, t.residues]
  | .podSyncState => some (s.syncFields p)
  | _ => none

/-- MEMA, MEMB and NMU blocks. -/
def State.view3 (s : State) (n : RegName) (i : Nat) : Option (List Nat) :=
  let x := s.hull (i + 1)
  let a := s.unitA (s.regF 0x060010 8 0)
  let b := s.unitB (s.regF 0x070010 5 0)
  let u := s.regF 0x080018 3 0
  let k := 8 * u + s.regF 0x080018 10 8
  let sel := fun (l : List Nat) => some (if u < 12 then l else [])
  match n with
  | .memaInfo => some [512, s.mem.usableA, if s.mem.trained then (s.unheldUnits false).length else 0]
  | .membInfo => some [64, s.mem.usableB, if s.mem.trained then (s.unheldUnits true).length else 0, s.mem.fwChannel]
  | .memaPcstate => some (unitFields false a)
  | .membChstate => some (unitFields true b)
  | .memaPcerr => some [a.corrected, a.parityRetries, a.uncorr]
  | .membCherr => some [b.corrected, b.parityRetries, b.uncorr]
  | .memaHwin => some (x.winFields false)
  | .membHwin => some (x.winFields true)
  | .memaHdbg => some (if x.dbg = 0 then [] else [b2n x.unwrittenA.1, x.unwrittenA.2.1, x.unwrittenA.2.2])
  | .membHdbg => some (if x.dbg = 0 then [] else [b2n x.unwrittenB.1, x.unwrittenB.2.1, x.unwrittenB.2.2])
  | .memaStack =>
    some [b2n s.mem.trained, b2n (s.mem.hot.getLsbD i), s.usableIn false i, (tget 0 s.mem.temp i).toNat,
          sumOf ((upFrom (64 * i) 64).map fun c => (s.unitA c).sparesLeft)]
  | .membPkg => some [b2n s.mem.trained, b2n (s.mem.hot.getLsbD (8 + i)), s.usableIn true i, (tget 0 s.mem.temp (8 + i)).toNat]
  | .nmuUslots => sel [sumOf ((upFrom 0 15).map fun g => tget 0 s.nmu.slots g * 2 ^ (3 * g))]
  | .nmuUbg =>
    let bl := tget (0, 0, 0) s.nmu.backlog k
    sel [tget 0 s.nmu.level k, min 0xFFFFF (s.scrubBacklog u (k % 8)), min 0xFFFFF bl.2.1, min 0xFFFFF bl.2.2]
  | .nmuUscrub => sel [tget 0 s.nmu.passes u, tget 0 s.nmu.scrubCorrected u]
  | .nmuHgen => some [x.pgen.toNat, min 255 ((s.nmu.targets.filter fun t => t.hull == i + 1).length + s.hopTargets (i + 1))]
  | .nmuHstale => some [x.stale, x.dup]
  | _ => none

/-- AUS, JV and COLL blocks. -/
def State.view4 (s : State) (n : RegName) (i : Nat) : Option (List Nat) :=
  let e := s.eng i
  let st := s.selStruct
  let cost := fun (f : AStruct → Nat × Nat) => some (match st with | some t => [(f t).1, (f t).2] | none => [])
  let b := s.bundle i
  let gid := s.regF 0x0B0018 11 0
  let g := s.group gid
  match n with
  | .ausInfo => some [16 - 2 * bitCount s.board.fused.toNat, 22, 6, 2048]
  | .ausSinfo => some (match st with | some t => [1, t.kind, b2n t.dirty, t.n, t.m, t.stages] | none => [])
  | .ausScostA => cost fun t => t.report.1
  | .ausScostB => cost fun t => t.report.2.1
  | .ausSsize => cost fun t => (t.report.2.2, t.valBytes)
  | .ausEstatus => some (s.engFields i)
  | .ausEbanks => some [e.bankBase, e.bankCount]
  | .ausEcount => some [e.cDone, e.cPartial, e.cNan, e.cFault]
  | .ausEbusy => some [e.busy]
  | .jvPlan => some (match s.jv.plan with | some p => [1, p.fid.toNat, p.planId.toNat] | none => [])
  | .jvDisable => some [s.jv.disable.toNat]
  | .jvBstatus => some [bCode b.state, b.width, b.lanes.toNat, b.neighbour, b.owner, b.peerFid.toNat]
  | .jvBerr => some [b.fec, b.replays, b.retrains, b.uncorr]
  | .collGstate =>
    if g.state = 0 then some []
    else some [g.state, g.hull, b2n g.compat, g.policy, b2n (s.openOp g.hull gid).isSome, g.myPos, g.members - 1, g.epoch.toNat,
               min 255 (dedup (g.lost.map (·.1))).length]
  | .collGcount => some [g.opsDone, g.decisions, g.stale]
  | .collGlast => some [g.lastPos, g.lastOp, g.lastStep]
  | .collHshare =>
    some [s.shareUsed (i + 1), (s.groups.filter fun (q : Nat × Group) => q.2.hull == i + 1 && q.2.state == 2).length]
  | _ => none

/-- INTG, RST and CMD blocks. -/
def State.view5 (s : State) (n : RegName) (i : Nat) : Option (List Nat) :=
  let r := s.ring i
  let e := s.endp i
  let q := s.probe
  match n with
  | .intgLognext => some [s.nextSeq]
  | .intgLogstat => some [s.log.length, (s.log.filter fun k => !k.consumed).length, s.regF 0x0C0018 63 32]
  | .intgProbe => some [q.state, b2n q.nmu, q.target, q.slot, q.version.toNat]
  | .intgProbeGtc => some [q.gtc]
  | .intgPodbyp => some [s.bypass.toNat]
  | .intgSlot => some (match tfind s.slots i with | some k => [1, k.kind, (k.bytes + 1048575) / 1048576, k.version] | none => [])
  | .rstStatus => some [devCode s.rst.dev, s.rst.phase, min 3 s.counted]
  | .rstCtl => some []
  | .rstHist => some [s.rst.hist.getD i 0]
  | .rstCapStatus => some [b2n s.rst.capHeld, s.rst.capDropped, s.rst.capSeq]
  | .rstCapWin => some [leNat (getBytes s.rst.cap (4096 * s.regF 0x0D0050 9 0 + 8 * i) 8)]
  | .cmdRcfg =>
    some [b2n r.en, b2n r.operator, r.cmdLog2, r.rplLog2, r.core, r.caller.toNat, ringCode r.state]
  | .cmdRcbase => some [r.cbase.toNat / 4096]
  | .cmdRrbase => some [r.rbase.toNat / 4096]
  | .cmdRstat => some [r.inProgress.length, r.replied]
  | .cmdEcfg => some [b2n e.enable, e.port, e.prefixLen, e.udpPort.toNat, e.caller.toNat, e.core]
  | .cmdEaddrLo => some [e.addrLo.toNat]
  | .cmdEaddrHi => some [e.addrHi.toNat]
  | .cmdEstat => some [e.accepted, e.dropped, e.duplicates]
  | .cmdCtail => some [r.ctail.toNat]
  | .cmdChead => some [r.chead.toNat]
  | .cmdRtail => some [r.rtail.toNat]
  | .cmdRhead => some [r.rhead.toNat]
  | _ => none

/-- IC, DBG, SEC and DEV blocks. -/
def State.view6 (s : State) (n : RegName) (i j : Nat) : Option (List Nat) :=
  let k := s.core i
  let x := s.hull (i + 1)
  let d := s.board
  match n with
  | .icClaim => some [(s.claimValue i).1, (s.claimValue i).2]
  | .icComplete => some []
  | .icCtl => some [k.threshold.toNat, k.holdoffUs.toNat, k.countMin.toNat]
  | .icState => some [b2n (s.asserted i), b2n k.latch, b2n (s.coreIdleNow i), b2n k.err, s.activeOn i]
  | .icPsrc => some ((s.irq (privKey i (j + 1))).fields false)
  | .icSrc => some ((s.irq (64 + i)).fields true)
  | .dbgCtx0 => some [s.sec.ctx0, maskOf 8 fun c => (s.core c).halted]
  | .dbgCtx0End => some [s.sec.ctx0End]
  | .dbgHclass => some [x.dbg, b2n x.tenantEver, b2n x.vendorEver, b2n x.halted]
  | .dbgHend => some [x.notAfter]
  | .secStatus => some [s.sec.state, b2n s.sec.att.isSome, s.sec.secVersion.toNat]
  | .secNonce => some [s.sec.nonce.toNat]
  | .secAttCtl => some []
  | .secMeas => some [(s.sec.meas.getD i 0).toNat / 2 ^ (64 * j)]
  | .devId => some [0x7720, 0xA1, 8 - bitCount d.fused.toNat]
  | .devStatus => some [devCode s.rst.dev, s.rst.startPhase, s.rst.degraded.toNat, b2n s.rst.bscanUsed]
  | .devHostlink => some [d.linkGen, d.linkWidth]
  | .devThermal => some [d.inletC.toNat, d.outletC.toNat, d.flow.toNat, d.kpa.toNat]
  | .devSerial => some [d.serial.toNat / 2 ^ (64 * i)]
  | _ => none

/-- A register of a fused pod's window or engine does not exist (R8, R257). -/
def State.fusedReg (s : State) (r : RReg) (i : Nat) : Bool :=
  match r.name with
  | .podStatus | .podEcc | .podTstatus | .podTfault | .podTmxflags | .podTmxcount | .podSyncSel | .podSyncState => s.board.fused.getLsbD i
  | .ausEstatus | .ausEbanks | .ausEcount | .ausEbusy => s.board.fused.getLsbD (i / 2)
  | _ => false

/-- The value of the register at an offset, whether or not its block is open. -/
def State.imageReg (s : State) (off : Nat) : Nat :=
  match regAt off with
  | none => 0
  | some r =>
    let ix := r.ix off
    if s.fusedReg r ix.1 then 0
    else
      match [s.view1 r.name ix.1, s.view2 r.name ix.1 ix.2, s.view3 r.name ix.1, s.view4 r.name ix.1, s.view5 r.name ix.1,
             s.view6 r.name ix.1 ix.2].findSome? id with
      | some vals => packFields r.fields vals
      | none => s.reg off

/-- What a read of BAR0 returns, without its side effects. -/
def State.peekReg (s : State) (off : Nat) : Nat := if s.blockOpen off then s.imageReg off else 0

end Sys2Proof.Machine
end

