-- ==== Sys2Proof/Machine/Reset.lean ====
section
/-!
DEFINITION. Hangs, resets and recovery (R402–R414): the triggers, freeze and naming, the capture, the whole-chip warm reset, recovery,
escalation and readmission.
-/

namespace Sys2Proof.Machine

/-! ## Triggers (R402–R406) -/

/-- What names a hang (R406): for values that no trigger's words give, see log entry 33. -/
structure HangAt where
  trigger : Nat
  /-- 5 A, 6 Y, 0xFF otherwise -/
  slot : Nat
  hull : Nat
  /-- the physical tile, if one names the hang -/
  tile : Option Nat
  queue : Nat
  syncId : Nat
  source : Nat
  start : Nat
  limitNs : Nat
  deriving DecidableEq, Repr

/-- RST_HANG (R414). -/
def State.hangWord (s : State) (a : HangAt) : Nat :=
  let x := s.tile (a.tile.getD 0)
  let open_ := fun (k w : Nat) => (Config.unstated 33 [a.trigger, k]).toNat % 2 ^ w
  let at_ := match a.tile with
    | some t => (podOf t) * 2 ^ 12 + t % 16 * 2 ^ 16 + x.pc.toNat * 2 ^ 40 + bitAt x.bank 53
    | none => open_ 0 3 * 2 ^ 12 + open_ 1 4 * 2 ^ 16 + open_ 2 13 * 2 ^ 40 + open_ 3 1 * 2 ^ 53
  a.trigger + (if a.slot = 0xFF then 0 else a.slot) * 2 ^ 4 + a.hull * 2 ^ 8 + a.queue * 2 ^ 20 + a.syncId * 2 ^ 24 + at_ + 2 ^ 63

/-- The HANG record (R406). -/
def State.hangRec (s : State) (a : HangAt) (others : Nat) : ErrRec :=
  let pod := match a.tile with | some t => podOf t | none => 0xFF
  let r := mkRec 0x0E 3 a.source a.hull pod (match a.tile with | some t => t % 16 | none => 0xFF) a.trigger
    (natLe 1 a.slot ++ natLe 1 a.queue ++ natLe 2 a.syncId ++ natLe 4 others ++ natLe 8 a.start ++ natLe 8 a.limitNs ++ zeros 8)
  match a.tile with | some t => { r with pc := (s.tile t).recPc } | none => r

/-- The freeze has come and its capture has not ended. -/
def State.freezing (s : State) : Bool := s.rst.hang.isSome && s.rst.phase == 1

/-- A write that had not retired at the freeze may have reached memory or not; a block caught in between fails its check (R411). One
choice of the three for each block of each such descriptor (log entry 3). -/
def State.tornWrite (s : State) (t h : Nat) (p : Prog) (d : Desc) : State :=
  let go := fun (tierB : Bool) (base : Nat) =>
    let new := (s.doWrite t h p d .ok).1
    (blocksOf (base + d.offset) d.length).foldl (fun (s : State) wb =>
      match (s.hull h).find tierB wb with
      | some u =>
        let key := blkPer tierB * u.1 + u.2
        let f := s.free
        let b := new.blk tierB key
        match f.1.toNat % 3 with
        | 0 => f.2
        | 1 => f.2.setBlk tierB key b
        | _ => f.2.setBlk tierB key { b with husk := b.husk ^^^ 1 }
      | none => s) s
  match p.place d.tensor with
  | some (.tierA, base) => go false base
  | some (.tierB, base) => go true base
  | _ => s

/-- Writes of a hull's tiles that had not retired at the freeze. -/
def State.tornWrites (s : State) (h : Nat) : State :=
  match (s.hull h).prog with
  | some p =>
    (s.tilesOf h).foldl (fun (s : State) t =>
      ((s.tile t).queues.flatMap fun q => q.2.descs.filter fun d => d.kind == 2 && !d.completed && !d.bad).foldl
        (fun (s : State) d => s.tornWrite t h p d) s) s
  | none => s

/-- HANG_FREEZE (R405 steps 1 and 2, R407, R413): every hull's program stops with FAULT, the hang is named, and the device recovers. An
armed checkpoint fails with the reset (R365 cause 5). A capture is not taken where the buffer is held (R408). -/
def State.hangFreeze (s : State) (a : HangAt) (capture : Bool) : State :=
  let counted := decide (1 ≤ a.trigger ∧ a.trigger ≤ 5)
  let escalate := counted && decide (2 ≤ s.counted)
  let take := capture && !s.rst.capHeld
  let word := s.hangWord a
  let rec_ := s.hangRec a 0
  let s := hullNos.foldl (fun (s : State) h =>
    let s := s.tornWrites h
    let s := if (s.hull h).ckpt.state = 1 then s.ckptFail h 5 else s
    let s := s.setHull h { s.hull h with halted := false, prog := (s.hull h).prog.map fun p => { p with stops := [] } }
    s.stopHull h 4 sFAULT true) s
  let s := (s.setReg 0x0D0020 word).setReg 0x0D0028 s.time.gtc
  let seq := s.nextSeq
  let s := s.log1 rec_
  let s := { s with rst := { s.rst with dev := .recovering, phase := 1, hang := some (a.trigger, take, 0, escalate), hangSeq := seq } }
  if capture ∧ !take then
    { s with rst := { s.rst with capDropped := min (s.rst.capDropped + 1) 255 } }.event evRst 2 706
  else s

/-- A trigger after the first (R404): counted in OTHERS. One of the same GTC with a lower source number is the first by R59 and takes
over the name. -/
def State.hangOther (s : State) (a : HangAt) : State :=
  match s.rst.hang with
  | some (trig, take, others, esc) =>
    let n := min (others + 1) 0xFFFFFFFF
    let seq := s.rst.hangSeq
    let old := s.log.find? fun r => r.seq == seq
    let first : Bool := match old with | some r => decide (r.gtc = s.time.gtc ∧ a.source < r.source) | none => false
    let s := if first then s.setReg 0x0D0020 (s.hangWord a) else s
    let fresh := s.hangRec a n
    { s with
      rst := { s.rst with hang := some (if first then a.trigger else trig, take, n, esc) }
      log := s.log.map fun r =>
        if r.seq ≠ seq then r
        else if first then { fresh with seq := r.seq, gtc := r.gtc, consumed := r.consumed }
        else { r with detail := r.detail.take 4 ++ natLe 4 n ++ r.detail.drop 8 } }
  | none => s

/-- A trigger (R403–R405). -/
def State.trigger (s : State) (a : HangAt) (capture : Bool) : State :=
  if s.inService then s.hangFreeze a capture
  else if s.freezing then s.hangOther a
  else s

/-- Hang timers of a hull's tiles run, or ran until the freeze of this hang. -/
def State.timersOf (s : State) (t : Nat) : Bool :=
  let h := (s.pod (podOf t)).hull
  s.freezing || (decide (t < 128) && (s.tile t).live && !(s.tile t).frozen && (s.hull h).state == .running)

/-- QUEUE_TIMEOUT (R403 trigger 1). -/
def execQueueTimeout (t : Nat) (s : State) : Outcome :=
  .next (
    let x := s.tile t
    let ms := s.regF 0x0D0010 15 0
    let a := fun (q : Nat) => ({ trigger := 1, slot := 5, hull := (s.pod (podOf t)).hull, tile := some t, queue := q, syncId := 0,
                                 source := x.lam, start := x.stallGtc, limitNs := 1000000 * ms } : HangAt)
    if !s.timersOf t ∨ x.waited < 18 * 1000000 * ms then s
    else
      match x.wait with
      | some (.queue q _) => s.trigger (a q) true
      | some (.queues m) =>
        s.trigger (a (((upFrom 0 8).find? fun q => m.getLsbD q && !(x.queue q).descs.isEmpty).getD 0)) true
      | _ => s)

/-- The object of a waiting Y operation. -/
def Wait.object : Wait → Option Nat
  | .sync id | .granted id => some id
  | _ => none

/-- SYNC_TIMEOUT (R403 trigger 2): the object's TIMEOUT in ticks. -/
def execSyncTimeout (t : Nat) (s : State) : Outcome :=
  .next (
    let x := s.tile t
    match x.syncWait.bind Wait.object with
    | some id =>
      let ns := 1000 * s.periodUs * (match tfind s.sync id with | some o => o.timeout | none => 4)
      if !s.timersOf t ∨ x.waited < 18 * ns then s
      else s.trigger { trigger := 2, slot := 6, hull := (s.pod (podOf t)).hull, tile := some t, queue := 0, syncId := id, source := x.lam,
                       start := x.stallGtc, limitNs := ns } true
    | none => s)

/-- RUNAWAY (R403 trigger 3). -/
def execRunaway (t : Nat) (s : State) : Outcome :=
  .next (
    let x := s.tile t
    let h := (s.pod (podOf t)).hull
    let held := (s.hull h).holds != 0 && !s.freezing
    if !s.timersOf t ∨ held ∨ x.eot ∨ x.wait.isSome ∨ x.syncWait.isSome
        ∨ x.issued ≤ s.periodUs * 1200 + s.regF 0x0D0010 31 16 * 1000 then s
    else s.trigger { trigger := 3, slot := 0xFF, hull := h, tile := some t, queue := 0, syncId := 0, source := x.lam,
                     start := (s.hull h).tickStart, limitNs := 0 } true)

/-- OVERRUN_RUN (R403 trigger 4). No tile names it: SOURCE is not stated (log entry 33). -/
def execOverrunRun (h : Nat) (s : State) : Outcome :=
  .next (
    let x := s.hull h
    let n := s.regF 0x0D0010 39 32
    match x.prog with
    | some p =>
      if !isHull h ∨ n = 0 ∨ p.overruns < n ∨ (!s.freezing ∧ (x.state ≠ .running ∨ x.holds ≠ 0)) then s
      else s.trigger { trigger := 4, slot := 0xFF, hull := h, tile := none, queue := 0, syncId := 0,
                       source := (Config.unstated 33 [4, 4]).toNat % 128, start := x.tickStart, limitNs := 0 } true
    | none => s)

/-- A counted reset enters the history (R412). -/
def State.countReset (s : State) : State := { s with rst := { s.rst with hist := (s.time.gtc :: s.rst.hist).take 3 } }

/-- The device leaves service (R413): the flag of the non-volatile store, interrupt 705. -/
def State.outOfService (s : State) : State :=
  ({ s with rst := { s.rst with dev := .outOfService, phase := 0, startPhase := 0, hang := none, oosFlag := true } }).event evRst 1 705

/-- The watchdog has not been serviced for a time; its limit is suspended while a core is halted (R457). -/
def State.wdogLate (s : State) (ns : Nat) : Bool :=
  decide (s.board.wdogGtc + ns ≤ s.time.gtc) && (upFrom 0 8).all fun c => !(s.core c).halted

/-- FW_WATCHDOG (R403 trigger 5); in a recovery past its freeze it ends the recovery (R413). -/
def execFwWatchdog (s : State) : Outcome :=
  .next (
    if !s.wdogLate 1000000000 then s
    else if s.rst.dev = .recovering ∧ !s.freezing then s.countReset.outOfService
    else s.trigger { trigger := 5, slot := 0xFF, hull := 0, tile := none, queue := 0, syncId := 0, source := 0x0600,
                     start := s.time.gtc - 1000000000, limitNs := 1000000000 } true)

/-- WATCHDOG_WARNING (R438): private source 3, on every core. -/
def execWatchdogWarning (s : State) : Outcome :=
  .next (
    if !s.wdogLate 500000000 ∨ s.rst.dev = .cold then s
    else (upFrom 0 8).foldl (fun (s : State) c => s.signal (privKey c 3)) s)

/-! ## The capture (R408, R409) -/

/-- A tile record. -/
def State.capTile (s : State) (t : Nat) : List Byte :=
  let x := s.tile t
  let h := (s.pod (podOf t)).hull
  let off := 0x100000 + 0x20000 * podOf t + 0x10 * (t % 16)
  let kind : Nat × Nat × Nat := match x.wait, x.syncWait.bind Wait.object with
    | some (.queue q _), _ => (1, q, 0)
    | some (.queues m), _ => (2, m.toNat, 0)
    | _, some id => (3, 0, id)
    | _, none => if x.eot ∧ h ≠ 0 then (4, 0, 0) else (0, 0, 0)
  natLe 2 t ++ natLe 1 h ++ natLe 1 x.lam ++ zeros 4 ++ natLe 8 (s.imageReg (off + 0x100)) ++ natLe 8 (s.imageReg (off + 0x108))
    ++ natLe 1 kind.1 ++ natLe 1 kind.2.1 ++ natLe 2 kind.2.2 ++ zeros 4 ++ natLe 8 x.stallGtc
    ++ (upFrom 0 8).flatMap (fun q => natLe 1 (x.queue q).descs.length) ++ natLe 8 (s.hull h).tick ++ zeros 8

/-- A descriptor image with its state (R408). -/
def Desc.capImage (d : Desc) : List Byte := d.image.take 30 ++ natLe 2 (b2n d.completed + 2 * b2n d.issued)

/-- A sync-object record. -/
def SyncObj.capBytes (id : Nat) (o : SyncObj) : List Byte :=
  let v := match o.kind with | 2 => o.holder.getD 0xFFFF | 3 => o.param - o.held.length | _ => o.value
  let w := o.waiters.head?
  natLe 2 id ++ natLe 1 o.kind ++ natLe 1 (1 + 2 * b2n o.broken) ++ natLe 2 o.gen.toNat ++ natLe 2 o.waiters.length ++ natLe 4 v
    ++ natLe 2 (match w with | some r => r.src | none => 0xFFFF) ++ natLe 2 (o.holder.getD 0xFFFF)
    ++ natLe 8 (match w with | some r => r.gtc | none => 0) ++ zeros 8

/-- A REDUCE target's entry; the manual gives its fields in this order, not their sizes (log entry 34). -/
def State.capTarget (s : State) (q : RTarget) : List Byte :=
  natLe 2 q.hull ++ natLe 4 q.tensor ++ natLe 8 q.offset ++ natLe 8 q.length ++ natLe 2 q.count ++ natLe 4 q.next
    ++ natLe 4 (s.hull q.hull).pgen.toNat

/-- The parts of the capture, ascending, each at its offset. A control core's registers are not state of this model: free values. -/
def State.capParts (s : State) (recBytes : List Byte) : List (Nat × List Byte) :=
  [(0, recBytes ++ natLe 8 s.time.gtc)]
    ++ (upFrom 0 128).map (fun t => (0x1000 + 64 * t, s.capTile t))
    ++ (upFrom 0 1024).flatMap (fun iq =>
      let ds := ((s.tile (iq / 8)).queue (iq % 8)).descs
      (upFrom 0 ds.length).filterMap fun k => (ds[k]?).map fun d => (0x3000 + 32 * (64 * iq + k), d.capImage))
    ++ s.sync.map (fun o => (0x203000 + 32 * o.1, SyncObj.capBytes o.1 o.2))
    ++ (upFrom 0 16).map (fun a =>
      (0x283000 + 256 * a, ((natLe 8 (s.imageReg (0x090100 + 0x20 * a))) ++ (s.eng a).queue.flatMap fun c => c.block).take 256))
    ++ (upFrom 0 12).flatMap (fun u =>
      let ts := (s.nmu.targets.filter fun q => decide (0 < s.targetBytes q u)).take 256
      (upFrom 0 ts.length).filterMap fun k => (ts[k]?).map fun q => (0x284000 + 32 * (256 * u + k), s.capTarget q))
    ++ (upFrom 0 36).map (fun b =>
      (0x29C000 + 64 * b, natLe 8 (s.imageReg (0x0A0100 + 0x10 * b)) ++ natLe 8 (s.imageReg (0x0A0108 + 0x10 * b))
        ++ natLe 8 (s.bundle b).retry.length))
    ++ (upFrom 0 512).map fun w => (0x29D000 + 8 * w, natLe 8 (Config.unstated 35 [s.fresh, w]).toNat)

/-- Bytes of ascending parts as a sparse store. -/
def partsTbl (l : List (Nat × List Byte)) : Tbl Byte :=
  l.flatMap fun p => ((upFrom p.1 p.2.length).zip p.2).filter fun ab => ab.2 != 0

/-- The capture is taken: the buffer is HELD. -/
def State.capture (s : State) : State :=
  match s.log.find? fun r => r.seq == s.rst.hangSeq with
  | some r =>
    { s with rst := { s.rst with cap := partsTbl (s.capParts r.bytes), capHeld := true, capSeq := s.rst.hangSeq }, fresh := s.fresh + 1 }
  | none => s

/-! ## The whole-chip warm reset (R14, R296, R365, R393, R407, R410, R411) -/

/-- A stored register word that survives (R414, R467, R486). -/
def regSurvives (off : Nat) : Bool :=
  (offsetBlock off == 0x0D && off != evRst) || (offsetBlock off == 0x0F && off != evSec) || (offsetBlock off == 0x00 && off != evDev)

/-- A hull through the reset (R411): what it holds stays; the program is discarded. -/
def Hull.warm (x : Hull) : Hull :=
  let serving := !x.reclaims.isEmpty
  { x with prog := none, step := 0, launch := 0, armed := false, lastLaunch := 0, tickStart := 0, halted := false, holds := 0,
           newPods := false, foldForced := false, resends := [], setting := none, unwrittenA := (false, 0, 0), unwrittenB := (false, 0, 0),
           stale := 0, dup := 0, lastGrant := if serving then x.lastGrant else 0, lastForced := serving && x.lastForced,
           lastStopped := serving && x.lastStopped, lastReturned := serving && x.lastReturned, lastGtc := if serving then x.lastGtc else 0,
           standing := 0, reclaims := x.reclaims.map fun r => if r.phase = 2 then { r with phase := 1 } else r }

/-- A pod through the reset. -/
def Pod.warm (x : Pod) : Pod := { Pod.init with hull := x.hull, spareIn := x.spareIn, spareFor := x.spareFor }

/-- A bundle through the reset (R296): it trains anew. -/
def Bundle.warm (x : Bundle) : Bundle :=
  let y := { Bundle.init with neighbour := x.neighbour, owner := x.owner, reach := x.reach, minWidth := x.minWidth, peerFid := x.peerFid }
  match x.state with
  | .unused => y
  | .disabled => { y with state := .disabled }
  | _ => { y with state := .training }

/-- A group entry through the reset: kept (R411); its counters are registers. -/
def Group.warm (x : Group) : Group :=
  { x with opsDone := 0, decisions := 0, stale := 0, lastPos := 0, lastOp := 0, lastStep := 0, heard := [], lastBeat := 0 }

/-- A memory unit through the reset: its error counts, and the lanes that training switched in, are registers (R14). -/
def UnitS.warm (x : UnitS) : UnitS := { x with corrected := 0, parityRetries := 0, uncorr := 0, sparesUsed := 0, sparesLeft := 0 }

/-- A ring re-created by firmware (R410, R423): one that was RUNNING or DRAINING runs again; the others take their reset values (R14). -/
def Ring.warm (x : Ring) : Ring :=
  match x.state with
  | .running | .draining =>
    { x with state := .running, en := true, ctail := 0, chead := 0, rtail := 0, rhead := 0, inProgress := [], held := [], replied := 0 }
  | _ => Ring.init

/-- Firmware re-creates the rings empty. -/
def State.warmRings (s : State) : State := ({ s with rings := tmap Ring.warm s.rings }).hevent 8

/-- The whole-chip warm reset. -/
def State.warmReset (s : State) : State :=
  let s := hullNos.foldl (fun (s : State) h => if (s.hull h).ckpt.state = 2 ∨ (s.hull h).ckpt.state = 3 then s.ckptFail h 5 else s) s
  let probe : ProbeS := { s.probe with state := if s.probe.active then 5 else 0 }
  let s := s.fallCoarse
  let s := { s with
    tiles := [], pods := tmap Pod.warm s.pods, sync := [], spine := []
    mem := { s.mem with marks := [], usableA := 0, usableB := 0, trained := false, hot := 0, temp := [], unitsA := tmap UnitS.warm s.mem.unitsA, unitsB := tmap UnitS.warm s.mem.unitsB }
    nmu := { s.nmu with targets := [], held := [], level := [], backlog := [], scrubCorrected := [], failed := [] }
    aus := [], hulls := tmap Hull.warm s.hulls
    time := { s.time with offset := 0, slew := 0, slewAcc := 0 }
    jv := { s.jv with bundles := tmap Bundle.warm s.jv.bundles, waiting := [], privWait := [], inbox := [], rotation := [] }
    groups := tmap Group.warm s.groups
    endpoints := [], irqs := [], cores := []
    probe := if s.probe.active then probe else { probe with nmu := false, target := 0, slot := 0, version := 0, gtc := 0, hull := 0, share := 0, durationMs := 0 }
    regs := s.regs.filter fun r => regSurvives r.1
    board := { s.board with wdogGtc := s.time.gtc, throttle := 0, throttleGtc := none, powerMw := 0, tj := 0, tjDie := [] }
    sec := { s.sec with nonce := 0 } }
  s.warmRings.rootLock

/-- CAPTURE_COMPLETE (R405 steps 3 and 4, R413): the reset follows, and phases 4 to 8 of the recovery or, on escalation, the end of
service. -/
def execCaptureComplete (s : State) : Outcome :=
  .next (match s.rst.hang with
    | some (trig, take, _, esc) =>
      if s.rst.dev ≠ .recovering ∨ s.rst.phase ≠ 1 then s
      else
        let s := if take then s.capture else s
        let s := if trig ≤ 5 then s.countReset else s
        let s := s.warmReset
        if esc then s.outOfService else { s with rst := { s.rst with phase := 4 } }
    | none => s)

/-! ## Training and recovery (R197–R200, R410, R411, R482) -/

/-- The replacement takes the slot with the unwritten marker in every block: nothing is copied. -/
def State.wipeMove (s : State) (u : MemUnit) (n : Nat) : State :=
  let tb := unitTier u
  let per := blkPer tb
  let keep := fun (t : Tbl Blk) => t.filter fun kv => kv.1 / per != unitNo u && kv.1 / per != n
  ({ s with mem := { s.mem with a := if tb then s.mem.a else keep s.mem.a, b := if tb then keep s.mem.b else s.mem.b } }).mapOutCopied u n

/-- A unit found failing at training: no copy takes place; the replacement is zero-filled and takes the slot, or the extent goes
(R199, R200). -/
def State.trainOut (s : State) (u : MemUnit) (cause : Nat) : State :=
  let x := s.unit u
  if x.state = 2 then s
  else
    let tb := unitTier u
    if x.state = 1 ∧ x.hull ≠ 0 then
      match x.replacement with
      | some n => (s.setUnit u { x with pendingCause := cause, trigger := s.time.gtc }).wipeMove u n
      | none =>
        match s.replacementFor tb x.hull with
        | some n => (s.setUnit u { x with pendingCause := cause, trigger := s.time.gtc, replacement := some n }).wipeMove u n
        | none => s.mapOutFail u cause s.time.gtc
    else s.mapOut u cause s.time.gtc none

/-- Training (R197): map-outs in progress or waiting, those of causes 2 and 3 in tier B, and the failures found now, cause 1. -/
def State.trainUnits (s : State) (failA failB : List Nat) : State :=
  let open_ := (match s.mem.mapout with | some u => [(u, (s.unit u).pendingCause)] | none => []) ++ s.mem.mapoutQueue.map fun q => (q.2.1, q.2.2)
  let pendB := (upFrom 0 64).filterMap fun j => if (s.unitB j).pendingCause ≠ 0 ∧ (s.unitB j).state ≠ 2 then some (MemUnit.b j, (s.unitB j).pendingCause) else none
  let s := { s with mem := { s.mem with mapout := none, mapoutQueue := [] } }
  let found := (failA.filter (· < 512)).map (fun c => (MemUnit.a c, 1)) ++ (failB.filter (· < 64)).map fun j => (MemUnit.b j, 1)
  (open_ ++ pendB ++ found).foldl (fun (s : State) (u : MemUnit × Nat) => s.trainOut u.1 u.2) s

/-- Redundant lanes are switched in (R197, R205). -/
def State.switchSpares (s : State) (l : List (Nat × Nat × Nat)) : State :=
  let l := l.filter fun x => decide (x.1 < 512)
  let s := l.foldl (fun (s : State) x => s.setUnitA x.1 { s.unitA x.1 with sparesUsed := x.2.1, sparesLeft := x.2.2 }) s
  if l.isEmpty then s else s.regOr evMemA 32

/-- Training of both tiers to its end: the counts of usable units, context 0's channel. -/
def State.train (s : State) (tr : Training) : State :=
  let s := ((s.switchSpares tr.spares).trainUnits tr.failA tr.failB).pickFw
  { s with mem := { s.mem with usableA := s.usable false, usableB := s.usable true, trained := true } }

/-- Pods are cleared and IDLE, or in TEST by the bypass list (R350, R394, R459). -/
def State.clearPods (s : State) : State :=
  (upFrom 0 8).foldl (fun (s : State) p =>
    if s.board.fused.getLsbD p then s
    else
      let s := s.clearPod p
      s.setPod p { s.pod p with state := if s.bypass.getLsbD p then .test else .idle }) s

/-- Bits of DEV_STATUS.DEGRADED (R482). -/
def State.degradedBits (s : State) : BitVec 4 :=
  BitVec.ofNat 4 (b2n (decide (s.mem.usableA < 512)) + 2 * b2n (decide (s.mem.usableB < 64)) + 4 * b2n (s.bypass != 0)
    + 8 * b2n (decide (s.board.linkGen < 6 ∨ s.board.linkWidth < 16)))

/-- READY or DEGRADED. -/
def State.decide_ (s : State) : State :=
  let d := s.degradedBits
  { s with rst := { s.rst with dev := if d = 0 then .ready else .degraded, phase := 0, startPhase := 0, hang := none, degraded := d } }

/-- A measurement register is extended by an item's digest (R447). -/
def State.extend (s : State) (i : Nat) (d : BitVec 384) : State :=
  let m := s.sec.meas.getD i 0
  { s with sec := { s.sec with meas := setAt s.sec.meas i (sha384 (natLe 48 m.toNat ++ natLe 48 d.toNat)) } }

/-- A VENDOR class ends (R450): interrupt 771, and a halt made under it is resumed. Hull 0 is context 0. -/
def State.vendorEnd (s : State) (h : Nat) : State :=
  if h = 0 then
    if s.sec.ctx0 = 2 then
      let s := (upFrom 0 8).foldl (fun (s : State) c => s.setCore c { s.core c with halted := false }) s
      ({ s with sec := { s.sec with ctx0 := 0, ctx0End := 0 }, board := { s.board with wdogGtc := s.time.gtc } }).event evDbg 3 771
    else s
  else if (s.hull h).dbg = 2 then (s.setHull h { s.hull h with dbg := 0, notAfter := 0, halted := false }).event evDbg 3 771
  else s

/-- A fresh SEC_NONCE (R452). -/
def State.freshNonce (s : State) : State :=
  let f := s.free
  { f.2 with sec := { f.2.sec with nonce := f.1 } }

/-- RECOVERY_COMPLETE (R197–R199, R410, R411, R446–R450, R459, R462, R482): phases 4 to 8. A failed check of the firmware, or an end
later than 12 s after the trigger, is a failed recovery (R413, R448). -/
def execRecoveryComplete (tr : Training) (s : State) : Outcome :=
  .next (
    if s.rst.dev ≠ .recovering ∨ s.rst.phase ≠ 4 then s
    else if !tr.firmwareOk ∨ (s.rst.hang.isSome ∧ s.reg 0x0D0028 + 12000000000 < s.time.gtc) then s.countReset.outOfService
    else
      let s := (s.extend 1 tr.firmwareDigest).freshNonce
      let s := (s.train tr).clearPods
      let s := (upFrom 0 5).foldl State.vendorEnd s
      let s := { s with board := { s.board with standby := false } }
      ((s.rootLock).decide_).event evRst 0 704)

/-- RECOVERY_TIMEOUT (R413): a phase fails or 12 s pass. -/
def execRecoveryTimeout (s : State) : Outcome :=
  .next (if s.rst.dev ≠ .recovering then s else s.countReset.outOfService)

/-! ## RST_CTL and RST_CFG (R414) -/

/-- A refused write of RST_CFG or RST_CTL. -/
def State.rstCfgErr (s : State) : State := s.event evRst 3 707

/-- WARM_RESET (R403 trigger 6), with CAPTURE or without. -/
def State.warmResetCmd (s : State) (capture : Bool) : State :=
  if s.inService then
    s.hangFreeze { trigger := 6, slot := 0xFF, hull := 0, tile := none, queue := 0, syncId := 0, source := 0x0600,
                   start := (Config.unstated 33 [6, 5, s.time.gtc]).toNat, limitNs := 0 } capture
  else s.rstCfgErr

/-- WARM_RESET. -/
def execWarmReset (capture : Bool) (s : State) : Outcome := .next (s.warmResetCmd capture)

/-- READMIT (R412, R413): from phase 4, the history cleared. -/
def State.readmitCmd (s : State) : State :=
  if s.rst.dev = .outOfService then
    { s with rst := { s.rst with dev := .recovering, phase := 4, hist := [], oosFlag := false, hang := none }
             board := { s.board with wdogGtc := s.time.gtc } }.warmRings
  else s.rstCfgErr

/-- READMIT. -/
def execReadmit (s : State) : Outcome := .next s.readmitCmd

/-- CAP_RELEASE (R408). -/
def State.capReleaseCmd (s : State) : State := if s.rst.dev = .cold then s else { s with rst := { s.rst with capHeld := false } }

/-- CAP_RELEASE. -/
def execCapRelease (s : State) : Outcome := .next s.capReleaseCmd

/-- RST_CFG (R414). -/
def State.rstCfgWrite (s : State) (v : Nat) : State :=
  let wait := bitsOf v 15 0
  let grace := bitsOf v 31 16
  if s.rst.dev = .cold then s
  else if 1 ≤ wait ∧ wait ≤ 60000 ∧ 1 ≤ grace then s.setReg 0x0D0010 (bitsOf v 39 0)
  else s.rstCfgErr

/-- RST_CFG. -/
def execRstCfg (v : Word) (s : State) : Outcome := .next (s.rstCfgWrite v.toNat)

end Sys2Proof.Machine
end

