-- ==== Sys2Proof/Machine/Security.lean ====
section
/-! DEFINITION. Security (R447–R450, R467): configuration, attestation reports, the end of a VENDOR class. -/

namespace Sys2Proof.Machine

/-- A write of SEC_CFG: measured into M4 (R447), as its 8 bytes. -/
def State.secCfgWrite (s : State) (v : Nat) : State :=
  (s.setReg 0x0F0008 (v % 2)).extend 4 (sha384 (natLe 8 v))

/-- SEC_CFG. -/
def execSecCfg (v : Word) (s : State) : Outcome := .next (if s.blockOpen 0x0F0008 then s.secCfgWrite v.toNat else s)

/-- A write of SEC_ATT_CTL with GO (R449): refused while a report is in progress or for a hull that is FREE; a number that names no
hull is refused alike. -/
def State.attGoWrite (s : State) (h : Nat) : State :=
  if s.sec.att.isSome ∨ !isHull h ∨ (s.hull h).state = .free then s.regOr evSec 4
  else { s with sec := { s.sec with att := some h } }

/-- ATT_GO. -/
def execAttGo (h : BitVec 3) (s : State) : Outcome := .next (if s.blockOpen 0x0F0020 then s.attGoWrite h.toNat else s)

/-- The DEBUG byte (R449); hull 0 is context 0. -/
def State.debugByte (s : State) (h : Nat) : Nat :=
  let x := s.hull h
  if h = 0 then s.sec.ctx0 + 16 * b2n s.sec.ctx0Ever
  else x.dbg + 4 * b2n x.tenantEver + 8 * b2n x.vendorEver + 16 * b2n s.sec.ctx0Ever

/-- Bytes 0x000–0x19F of a report (R449). -/
def State.attBody (s : State) (h : Nat) : List Byte :=
  let x := s.hull h
  let dig := match x.prog with | some p => (p.image.digest, p.geoDigest) | none => (0, 0)
  natLe 2 1 ++ natLe 1 h ++ natLe 1 (s.debugByte h) ++ natLe 4 s.sec.secVersion.toNat ++ natLe 16 s.board.serial.toNat
    ++ (upFrom 0 4).flatMap (fun k => natLe 8 (s.reg (0x0F0028 + 8 * k))) ++ natLe 8 s.time.gtc ++ natLe 8 (keyCheck x.k0 x.k1).toNat
    ++ natLe 32 dig.1.toNat ++ natLe 32 dig.2.toNat ++ natLe 4 x.pgen.toNat ++ natLe 1 (s.podMask h) ++ natLe 1 (hullCode x.state)
    ++ zeros 2 ++ (upFrom 0 5).flatMap (fun i => natLe 48 (s.sec.meas.getD i 0).toNat) ++ zeros 32

/-- ATT_DONE (R449): the report is written, with a signature by a key that nothing can read: a free value. -/
def execAttDone (s : State) : Outcome :=
  .next (match s.sec.att with
    | some h =>
      let sig := (upFrom 0 12).flatMap fun i => natLe 8 (Config.unstated 36 [s.fresh, i]).toNat
      let s := { s.hostWrite (s.reg 0x0F0048) (s.attBody h ++ sig) with
        sec := { s.sec with att := none }
        fresh := s.fresh + 1 }
      s.event evSec 0 800
    | none => s)

/-- VENDOR_EXPIRY (R450): the GTC has reached NOT_AFTER. Hull 0 is context 0. -/
def execVendorExpiry (h : Nat) (s : State) : Outcome :=
  .next (
    let end_ := if h = 0 then s.sec.ctx0End else (s.hull h).notAfter
    if h ≤ 4 ∧ end_ ≤ s.time.gtc then s.vendorEnd h else s)

end Sys2Proof.Machine
end

