-- ==== Sys2Proof/Machine/Debug.lean ====
section
/-! DEFINITION. Debug (R450–R458, R465): attach, peek, halt and resume. -/

namespace Sys2Proof.Machine

/-! ## DBG_ATTACH (R452, R453) -/

/-- The fields of DBG_ATTACH are in rule. -/
def attachOk (c : Cmd) : Bool :=
  let h := pf c.params 0 1
  let k := pf c.params 1 1
  let tok := pf c.params 8 8
  let n := pf c.params 0x10 4
  decide (h ≤ 4 ∧ k ≤ 2) && !(h == 0 && k == 1) && pf c.params 2 6 == 0 && tok % 8 == 0
    && (if k = 2 then n == 160 else tok == 0 && n == 0) && restZero c 0x14

/-- The token is in rule for a scope (R452). -/
def State.tokenOk (s : State) (b : List Byte) (scope : Nat) : Bool :=
  fieldLe b 0 2 == 1 && fieldLe b 2 1 == scope && fieldLe b 3 5 == 0 && decide (s.time.gtc < fieldLe b 8 8)
    && fieldLe b 0x10 16 == s.board.serial.toNat && fieldLe b 0x20 8 == s.sec.nonce.toNat && fieldLe b 0x28 24 == 0
    && sigOk s.sec.debugKey (slice b 0x40 96) (slice b 0 0x40)

/-- The class of a hull or of context 0 is replaced (R450, R453): a VENDOR class that is detached ends. -/
def State.setClass (s : State) (h k notAfter : Nat) : State :=
  let s := if k = 0 then s.vendorEnd h else s
  let s :=
    if h = 0 then { s with sec := { s.sec with ctx0 := k, ctx0End := notAfter, ctx0Ever := s.sec.ctx0Ever || k == 2 } }
    else
      let x := s.hull h
      s.setHull h { x with dbg := k, notAfter := notAfter, tenantEver := x.tenantEver || k == 1, vendorEver := x.vendorEver || k == 2 }
  let s := if k = 2 then s.freshNonce else s
  s.event evDbg 0 768

/-- DBG_ATTACH. -/
def State.dbgAttach (s : State) (c : Cmd) : State :=
  let h := pf c.params 0 1
  let k := pf c.params 1 1
  let x := s.hull h
  if !attachOk c then s.reply c 0x0900 sBADPARAM 0
  else if (if h = 0 then !s.isOperator c else !s.ownsHull c h) ∨ (k = 1 ∧ s.reg 0x0F0008 % 2 = 0) then s.reply c 0x0900 sDENIED 0
  else if h ≠ 0 ∧ !x.live then s.reply c 0x0900 sBUSY 0
  else
    let b := s.hostRead (pf c.params 8 8) 160
    if k = 2 ∧ !s.tokenOk b (if h = 0 then 0 else 1) then (s.event evSec 1 801).reply c 0x0900 sDENIED 0
    else
      let s := s.setClass h k (if k = 2 then fieldLe b 8 8 else 0)
      s.reply c 0x0900 sDONE (mkFields [(0, 1, k), (1, 1, s.debugByte h)])

/-- DBG_ATTACH. -/
def execDbgAttach (c : Cmd) (s : State) : Outcome := .next (s.packet c 0x0900 fun s => s.dbgAttach c)

/-! ## DBG_PEEK (R451, R454, R465) -/

/-- The hull, by index 0–3, whose per-hull register this is. -/
def RReg.hullIx (r : RReg) (off : Nat) : Option Nat :=
  match r.name with
  | .timeHtick | .timeHstep | .timeHlaunch | .timeHtickStart | .pwrHshare | .memaHwin | .memaHdbg | .membHwin | .membHdbg | .nmuHgen
  | .nmuHstale | .collHshare | .hullHstate | .hullHsync | .hullHslots | .hullHgen | .hullHreclaim | .hullHreclaimGtc | .dbgHclass | .dbgHend =>
    some (r.ix off).1
  | _ => none

/-- A BAR0 offset lies in a hull's reach: a window of one of its pods, or one of its per-hull registers. -/
def State.regReach (s : State) (h off : Nat) : Bool :=
  if 0x100000 ≤ off ∧ off < 0x200000 then (s.pod ((off - 0x100000) / 0x20000)).hull == h
  else match regAt off with | some r => r.hullIx off == some (h - 1) | none => false

/-- The debug class by which a caller reaches a hull's things, or those of context 0 (R451, R452). -/
def State.classOf (s : State) (c : Cmd) (h : Nat) : Nat :=
  if h = 0 then (if s.isOperator c then s.sec.ctx0 else 0) else if s.ownsHull c h then (s.hull h).dbg else 0

/-- Bytes of a space; none for control-core memory, whose size the manual does not give. -/
def State.spaceBytes (s : State) (space h : Nat) : Option Nat :=
  match space with
  | 0 => some 0x1000000
  | 1 => some (s.hull h).limitA
  | 2 => some (if h = 0 then 0x3FE000000 else (s.hull h).limitB)
  | 3 => some 0x300000
  | 4 => some 0x1000000
  | 5 => some 0x80000
  | 6 => some 0x200000
  | _ => none

/-- The fields of DBG_PEEK are in rule and the range lies in its space. -/
def State.peekOk (s : State) (c : Cmd) : Bool :=
  let f := fun (a n : Nat) => pf c.params a n
  let space := f 0 1
  let unit := f 3 1
  let n := f 4 4
  let pods := decide (3 ≤ space ∧ space ≤ 6)
  decide (space ≤ 7 ∧ f 1 1 ≤ 4) && (if pods then decide (f 2 1 < 8) && !s.board.fused.getLsbD (f 2 1) else f 2 1 == 0)
    && (match space with | 3 | 5 => decide (unit < 16) | 6 => decide (unit < 2) | 7 => decide (unit < 8) | _ => unit == 0)
    && decide (n % 8 = 0 ∧ 8 ≤ n ∧ n ≤ 1048576) && f 8 8 % 8 == 0 && f 0x10 8 % 8 == 0 && (f 0x10 8 != 0 || n == 8) && restZero c 0x18
    && (match s.spaceBytes space (f 1 1) with | some m => decide (f 8 8 + n ≤ m) | none => decide (f 8 8 + n ≤ 2 ^ 64))

/-- The class reaches the range (R451). -/
def State.peekReach (s : State) (c : Cmd) : Bool :=
  let f := fun (a n : Nat) => pf c.params a n
  let h := f 1 1
  let p := f 2 1
  let k := s.classOf c h
  let mine := (s.pod p).hull == h
  match f 0 1 with
  | 0 => k != 0 && (h == 0 || (upFrom 0 (f 4 4 / 8)).all fun i => s.regReach h (f 8 8 + 8 * i))
  | 1 => k != 0 && h != 0
  | 2 => k != 0
  | 4 => k != 0 && mine && !(k == 1 && s.inPrivate p (f 8 8) (f 4 4))
  | 6 => k == 2 && mine
  | 7 => k != 0 && h == 0
  | _ => k != 0 && mine

/-- A space cannot be peeked now: STANDBY, a pod that is OFF or under probe, or a hull that runs and is not halted. -/
def State.peekBusy (s : State) (c : Cmd) : Bool :=
  let space := pf c.params 0 1
  let p := pf c.params 2 1
  let x := s.hull (s.pod p).hull
  if space = 0 ∨ space = 7 then false
  else
    s.board.standby || (decide (3 ≤ space) && ((s.pod p).state == .off || (s.probe.active && !s.probe.nmu && s.probe.target == p)
      || (x.state == .running && !x.halted)))

/-- The bytes of a peek, and the failing husks it met. Bytes that are no state of this model (an engine's structure store, a private
bank, context 0's channel, control-core memory) are free values. -/
def State.peekBytes (s : State) (c : Cmd) : List Byte × Nat :=
  let f := fun (a n : Nat) => pf c.params a n
  let a := f 8 8
  let n := f 4 4
  let h := f 1 1
  let p := f 2 1
  let t := 16 * p + f 3 1
  let hidden := fun (i : Nat) => natLe 8 (Config.unstated 38 [s.fresh, i]).toNat
  let words := upFrom 0 (n / 8)
  let win := fun (tb : Bool) =>
    let bs := (blocksOf a n).map fun wb =>
      match (s.hull h).find tb wb with
      | some u => s.blk tb (blkPer tb * u.1 + u.2)
      | none => Blk.unwritten
    (slice (bs.flatMap Blk.payload) (a % 4096) n, (bs.filter fun b => b.check none != .pass).length)
  match f 0 1 with
  | 0 => (words.flatMap fun i => natLe 8 (s.peekReg (a + 8 * i)), 0)
  | 1 => win false
  | 2 => if h = 0 then (words.flatMap hidden, 0) else win true
  | 3 => (getBytes (s.tile t).store a n, 0)
  | 4 => (words.flatMap fun i => if s.inPrivate p (a + 8 * i) 8 then hidden i else getBytes (s.pod p).store (a + 8 * i) 8, 0)
  | 5 => (words.flatMap fun i =>
      let b := a + 8 * i
      getBytes (if b < 0x40000 then (s.tile t).bank0 else (s.tile t).bank1) (b % 0x40000) 8, 0)
  | _ => (words.flatMap hidden, 0)

/-- DBG_PEEK: no read of it changes anything but the reply. -/
def State.dbgPeek (s : State) (c : Cmd) : State :=
  let f := fun (a n : Nat) => pf c.params a n
  if !s.peekOk c then s.reply c 0x0901 sBADPARAM 0
  else if !s.peekReach c then s.reply c 0x0901 sDENIED 0
  else if s.peekBusy c then s.reply c 0x0901 sBUSY 0
  else
    let r := s.peekBytes c
    let s := { s with fresh := s.fresh + 1 }
    let dst := f 0x10 8
    let s := if dst = 0 then s else s.hostWrite dst r.1
    s.reply c 0x0901 sDONE (mkFields [(0, 8, if dst = 0 then leNat r.1 else 0), (8, 8, f 4 4), (0x10, 4, r.2)])

/-- DBG_PEEK. -/
def execDbgPeek (c : Cmd) (s : State) : Outcome := .next (s.packet c 0x0901 fun s => s.dbgPeek c)

/-! ## DBG_HALT (R455–R458) -/

/-- The fields of DBG_HALT are in rule for a TARGET and RESUME. -/
def haltOk (c : Cmd) (target resume : Nat) : Bool :=
  let f := fun (a n : Nat) => pf c.params a n
  f 0 1 == target && (if target = 0 then isHull (f 1 1) else decide (f 1 1 ≤ 4)) && decide (f 2 1 < 8 ∧ f 3 1 < 4) && f 3 1 % 2 == resume
    && restZero c 4

/-- A halt or resume took effect: the reply carries the leases broken. -/
def State.haltDone (s : State) (c : Cmd) (broken : Nat) : State :=
  (s.event evDbg 1 769).reply c 0x0902 sDONE (mkFields [(0, 2, broken)])

/-- DBG_HALT of a hull, or its resume (R456). -/
def State.hullHaltCmd (s : State) (c : Cmd) (resume : Bool) : State :=
  let h := pf c.params 1 1
  let x := s.hull h
  if !haltOk c 0 (b2n resume) then s.reply c 0x0902 sBADPARAM 0
  else if s.classOf c h = 0 then s.reply c 0x0902 sDENIED 0
  else if x.state ≠ .running ∨ x.halted = !resume then s.reply c 0x0902 sBUSY 0
  else (s.setHull h { x with halted := !resume }).haltDone c 0

/-- DBG_HALT with TARGET 0. -/
def execHullHalt (c : Cmd) (s : State) : Outcome := .next (s.packet c 0x0902 fun s => s.hullHaltCmd c false)

/-- DBG_HALT with TARGET 0 and RESUME. -/
def execHullResume (c : Cmd) (s : State) : Outcome := .next (s.packet c 0x0902 fun s => s.hullHaltCmd c true)

/-- Leases that a control core holds. -/
def State.coreLeases (s : State) (k : Nat) : List Nat :=
  (s.sync.filter fun o => o.2.kind == 2 && o.2.holder == some (0x0300 + k)).map (·.1)

/-- DBG_HALT of a control core, or its resume (R457). The watchdog's limit, suspended while a core is halted, runs anew. -/
def State.coreHaltCmd (s : State) (c : Cmd) (resume : Bool) : State :=
  let k := pf c.params 2 1
  let x := s.core k
  let own : Bool := match c.org with | .ring r => (s.ring r).core == k | .udp _ => false
  let leases := s.coreLeases k
  let halted := ((upFrom 0 8).filter fun i => (s.core i).halted).length
  if !haltOk c 1 (b2n resume) then s.reply c 0x0902 sBADPARAM 0
  else if s.classOf c 0 = 0 ∨ own then s.reply c 0x0902 sDENIED 0
  else if x.halted = !resume ∨ (!resume ∧ ((leases ≠ [] ∧ !bitOf (pf c.params 3 1) 1) ∨ halted ≥ 7)) then s.reply c 0x0902 sBUSY 0
  else if resume then
    ({ s with board := { s.board with wdogGtc := s.time.gtc } }.setCore k { x with halted := false }).haltDone c 0
  else
    let s := leases.foldl (fun (s : State) id => s.breakLease id) s
    let s := if leases = [] then s else s.event evDbg 2 770
    (s.setCore k { s.core k with halted := true }).haltDone c leases.length

/-- DBG_HALT with TARGET 1. -/
def execCoreHalt (c : Cmd) (s : State) : Outcome := .next (s.packet c 0x0902 fun s => s.coreHaltCmd c false)

/-- DBG_HALT with TARGET 1 and RESUME. -/
def execCoreResume (c : Cmd) (s : State) : Outcome := .next (s.packet c 0x0902 fun s => s.coreHaltCmd c true)

end Sys2Proof.Machine
end

