-- ==== Sys2Proof/Machine/ProgCmds.lean ====
section
/-! DEFINITION. Starting, stopping and asking after a program, services and evaluation runs (R427–R437). -/

namespace Sys2Proof.Machine

/-! ## PROG_START (R51, R55, R227, R275, R432, R437) -/

/-- Supplied step records are in rule (R41, R432): consecutive from the first step, sealed, and of this image, geometry and key. -/
def recordsOk (p : Prog) (key : Word) (first : Nat) (rs : List (List Byte)) : Bool :=
  (upFrom 0 rs.length).all fun k =>
    let r := rs.getD k []
    sealRecord r == r && fieldLe r 8 8 == first + k && fieldLe r 0x20 32 == p.image.digest.toNat && fieldLe r 0x40 32 == p.geoDigest.toNat
      && fieldLe r 0x60 8 == key.toNat

/-- A re-home block (R275): format, ranks that are a pair of the image, limits, zeros. -/
def rehomeOk (p : Prog) (b : List Byte) : Bool :=
  let v := fieldLe b 2 2
  let l := fieldLe b 4 2
  fieldLe b 0 2 == 1 && fieldLe b 6 2 == 0 && decide (4096 ≤ fieldLe b 0x10 8) && fieldLe b 0x18 40 == 0
    && p.image.pairs.any fun q => (q.1 == v && q.2 == l) || (q.1 == l && q.2 == v)

/-- The shard copies of a re-homed spare: twin to every shard the survivor owns, the lost rank's among them (R275). -/
def rehomeShards (p : Prog) (b : List Byte) : List ShardS :=
  (p.image.shards.filter fun d => d.owner == fieldLe b 2 2 || d.owner == fieldLe b 4 2).map fun d =>
    { id := d.id, owner := false, state := .onboarding, mismatches := 0, layersCopied := 0, copiedStep := 0, own := none, peer := none }

/-- A program as a start leaves it. -/
def Prog.started (p : Prog) (state : Nat) (recs : List (List Byte)) (home : List Byte) : Prog :=
  let p := { p with
    state := state, replay := recs, isReplay := !recs.isEmpty, rehome := !home.isEmpty, evalsDone := 0, tickInStep := 0, slipNs := 0,
    evals := [], evalTicks := 0, evalRun := none, entries := [], reopened := false, verdict := none, ops := [], deferred := if p.restored then p.deferred else [], overruns := 0,
    restarts := 0, rerun := false, fed := [], logWait := false, stops := [], calls := [], nextK := [], restored := false, copiedBytes := 0, between := 2,
    throttled := false, rollback := false, ledger := [], evalQueue := [], record := [], dirtyTick := false, twinOnly := false,
    shards := p.shards.map fun q => { q with own := none, peer := none } }
  if home.isEmpty then p
  else { p with twinOnly := true, survivor := fieldLe home 2 2, lostRank := fieldLe home 4 2, rehomeStart := fieldLe home 8 8,
                rehomeBytes := fieldLe home 0x10 8, shards := rehomeShards p home }

/-- The hull holds less than at the program's load (R437). -/
def State.shrunk (s : State) (h : Nat) (p : Prog) : Bool :=
  let x := s.hull h
  decide ((s.podsOf h).length < p.loadedPods ∨ x.limitA < p.loadedLimits.1 ∨ x.limitB < p.loadedLimits.2 ∨ x.share < p.loadedShare)

/-- A declared engine has a command queued or running (R227). -/
def State.engineBusy (s : State) (h : Nat) (p : Prog) : Bool := (s.declared h p).any fun d => !(s.eng d.2).queue.isEmpty

/-- The start itself: seats, sync objects, engines, the step number, the anchor (R51), a placement round (R345). -/
def State.startProg (s : State) (h step launch : Nat) (timed : Bool) (recs : List (List Byte)) (home : List Byte) : State :=
  match (s.hull h).prog with
  | none => s
  | some p =>
    let s := s.dropCalls h
    let x := s.hull h
    let q := p.started (if timed then 2 else 3) recs home
    let s := s.setHull h { x with state := .running, prog := some q, step := step, halted := false, armed := false, setting := none,
                                  newPods := false, foldForced := false, holds := 0, launch := if timed then x.launch else launch,
                                  lastLaunch := if timed then x.lastLaunch else launch, ckpt := { x.ckpt with mustFull := true } }
    let s := s.seat h q
    let s := (s.tilesOf h).foldl (fun s t => s.updTile t Tile.counted0) s
    let s := (s.createSync h q.image).claimEngines h q
    if q.twinOnly then s else s.placementRound h false false

/-- PROG_START. -/
def State.progStart (s : State) (c : Cmd) : State :=
  let h := pf c.params 0 1
  let fl := pf c.params 1 1
  let timed := fl % 2 == 1
  let replay := fl / 2 % 2 == 1
  let rehome := fl / 4 % 2 == 1
  let step := pf c.params 8 8
  let arg := pf c.params 0x10 8
  let count := pf c.params 0x18 8
  let x := s.hull h
  let restored := match x.prog with | some p => p.restored | none => false
  let argOk := if replay then arg % 512 == 0 && decide (1 ≤ count ∧ count ≤ 16777216) && s.inWindow h true arg (512 * count)
    else if rehome then count == 0 && s.inWindow h true arg 64 else arg == 0 && count == 0
  if !isHull h ∨ fl ≥ 8 ∨ pf c.params 2 6 ≠ 0 ∨ (replay && rehome) ∨ step > maxStep ∨ (restored && step != 0) ∨ !argOk then
    s.reply c 0x0301 sBADPARAM 0
  else if !s.ownsHull c h then s.reply c 0x0301 sDENIED 0
  else
    match x.state, x.prog with
    | .granted, some p =>
      if s.engineBusy h p ∨ s.shrunk h p then s.reply c 0x0301 sBUSY 0
      else
        let first := if restored then x.step else step
        let r := if replay then s.windowRead (s.cmdSrc c) h true arg (512 * count)
          else if rehome then s.windowRead (s.cmdSrc c) h true arg 64 else (s, some [])
        let s := r.1
        match r.2 with
        | some d =>
          let b := if replay then d else []
          let m := if rehome then d else []
          let recs := (upFrom 0 (b.length / 512)).map fun k => slice b (512 * k) 512
          let ok := recordsOk p (keyCheck x.k0 x.k1) first recs && (!rehome || rehomeOk p m) && p.image.tickPeriodUs == s.periodUs
          if !ok then s.reply c 0x0301 sBADPARAM 0
          else
            let a := (s.time.gtc + 999) / 1000 * 1000 + 100000
            (s.startProg h first a timed recs m).reply c 0x0301 sDONE (mkFields [(0, 8, if timed then 0 else a)])
        | none => s.reply c 0x0301 sFAULT 0
    | _, _ => s.reply c 0x0301 sBUSY 0

/-- PROG_START. -/
def execProgStart (c : Cmd) (s : State) : Outcome := .next (s.packet c 0x0301 fun s => s.progStart c)

/-! ## PROG_STOP, PROG_QUERY (R433, R434) -/

/-- PROG_STOP: at once, at the boundary, or when a firmware hold ends; a record-log wait ends with the stop (R29). -/
def State.progStop (s : State) (c : Cmd) : State :=
  let h := pf c.params 0 1
  let fl := pf c.params 1 1
  let x := s.hull h
  if !isHull h ∨ fl ≥ 2 ∨ !restZero c 2 then s.reply c 0x0302 sBADPARAM 0
  else if !s.ownsHull c h then s.reply c 0x0302 sDENIED 0
  else
    match x.state, x.prog with
    | .running, some p =>
      let s := s.setHull h { x with prog := some { p with stops := p.stops ++ [(fl == 0, c)] } }
      let held := x.holds &&& 0b01111 != 0
      if p.state = 2 ∨ (fl = 0 ∧ !held) ∨ (fl = 1 ∧ p.logWait) then s.stopHull h 1 sDONE false else s
    | _, _ => s.reply c 0x0302 sBUSY 0

/-- PROG_STOP. -/
def execProgStop (c : Cmd) (s : State) : Outcome := .next (s.packet c 0x0302 fun s => s.progStop c)

/-- PROG_QUERY. -/
def State.progQuery (s : State) (c : Cmd) : State :=
  let h := pf c.params 0 1
  let x := s.hull h
  if !isHull h ∨ !restZero c 1 then s.reply c 0x0303 sBADPARAM 0
  else if !s.ownsHull c h then s.reply c 0x0303 sDENIED 0
  else
    let f := match x.prog with
      | some p => [(0, 1, p.state), (1, 1, p.reason), (2, 1, p.foldLog2), (3, 1, p.stopStatus.toNat), (4, 4, p.evalsDone)]
      | none => []
    s.reply c 0x0303 sDONE (mkFields (f ++ [(8, 8, x.step), (0x10, 8, x.tick)]))

/-- PROG_QUERY. -/
def execProgQuery (c : Cmd) (s : State) : Outcome := .next (s.packet c 0x0303 fun s => s.progQuery c)

/-! ## PROG_EVAL (R54, R436) -/

/-- Ticks of a list of admitted runs. -/
def Prog.evalTicksOf (p : Prog) (l : List Nat) : Nat := sumOf (l.map fun k => match p.image.evals[k]? with | some e => e.ticks | none => 0)

/-- PROG_EVAL. After a boundary, before the next step has begun, the window is the one after that next step. -/
def State.progEval (s : State) (c : Cmd) : State :=
  let h := pf c.params 0 1
  let k := pf c.params 1 1
  let x := s.hull h
  let known := match x.prog with | some p => decide (k < p.image.evals.length) | none => true
  if !isHull h ∨ k ≥ 16 ∨ !restZero c 2 ∨ !known then s.reply c 0x0305 sBADPARAM 0
  else if !s.ownsHull c h then s.reply c 0x0305 sDENIED 0
  else
    match x.state, x.prog with
    | .running, some p =>
      if p.state ≠ 3 ∨ p.evalTicksOf (p.evals ++ [k]) > p.image.evalBudget then s.reply c 0x0305 sBUSY 0
      else
        let s := s.setHull h { x with prog := some { p with evals := p.evals ++ [k] } }
        s.reply c 0x0305 sACCEPTED (mkFields [(0, 8, x.step), (8, 2, p.evals.length)])
    | _, _ => s.reply c 0x0305 sBUSY 0

/-- PROG_EVAL. -/
def execProgEval (c : Cmd) (s : State) : Outcome := .next (s.packet c 0x0305 fun s => s.progEval c)

/-! ## Services (R428, R429, R387) -/

/-- The fields of a service reply. -/
def svcFields (cause k landed answered : Nat) : Params := mkFields [(0, 1, cause), (4, 4, k), (8, 8, landed), (0x10, 8, answered)]

/-- The block of a request (R428). -/
def requestBlock (k : Nat) (tail : List Byte) : List Byte :=
  slice (natLe 4 tail.length ++ natLe 4 k ++ zeros 56 ++ tail) 0 4096

/-- SVC_CALL: the request goes into its slot and REQ_SEM is signalled. -/
def State.svcCall (s : State) (c : Cmd) : State :=
  let h := pf c.params 0 1
  let svc := pf c.params 1 1
  let x := s.hull h
  let known := match x.prog with | some p => decide (svc < p.image.services.length) | none => true
  let fin := fun (s : State) (st : Byte) => s.reply c 0x0304 st (svcFields 0 0xFFFFFFFF 0 0)
  if !isHull h ∨ svc ≥ 16 ∨ !restZero c 2 ∨ !known then s.reply c 0x0304 sBADPARAM 0
  else if !s.ownsHull c h then s.reply c 0x0304 sDENIED 0
  else
    match x.state, x.prog with
    | .running, some p =>
      match p.image.services[svc]? with
      | some d =>
        let k := tget 0 p.nextK svc
        let open_ := decide (d.slots ≤ k) && p.calls.any fun q => q.svc == svc && q.k + d.slots == k && !q.replied
        if p.state ≠ 3 then fin s sBUSY
        else if open_ then fin s sNORES
        else
          let s := s.collWrite h d.reqTensor (4096 * (k % d.slots)) (requestBlock k c.tail)
          let call : Call := { svc := svc, k := k, cmd := c, landed := s.time.gtc, replied := false, dirty := false }
          let s := s.setHull h { s.hull h with prog := (s.hull h).prog.map fun p =>
            { p with calls := p.calls ++ [call], nextK := tput p.nextK svc ((k + 1) % 2 ^ 32) } }
          (s.signalCounter d.reqSem).1
      | none => fin s sBUSY
    | _, _ => fin s sBUSY

/-- SVC_CALL. -/
def execSvcCall (c : Cmd) (s : State) : Outcome := .next (s.packet c 0x0304 fun s => s.svcCall c)

/-- Firmware's acquisition of a counter by 1; none where it must wait. -/
def State.coreAcquire (s : State) (id : Nat) : Option State :=
  match tfind s.sync id with
  | some o =>
    let r : SyncReq := { left := none, tile := none, src := 0x0300, hull := o.hull, op := yoAcq, id := id, amount := 1, nowait := true, rd := 0,
                         stamp := 0, gtc := s.time.gtc }
    if o.kind ≠ 0 ∨ !o.waiters.isEmpty then none else (o.tryGrant r).map fun a => { s with sync := tput s.sync id a.1 }
  | none => none

/-- SERVICE_ANSWER (R387, R428, R429): ANS_SEM is acquired for the oldest request of the service; the answer is read, gated and sent, with
the trailer of R40 where the program requests one for the service (log entry 72). -/
def execServiceAnswer (h svc : Nat) (m : List Meet) (s : State) : Outcome :=
  .next (s.meeting m fun s =>
    match (s.hull h).prog with
    | some p =>
      match p.calls.find? (fun q => q.svc == svc), p.image.services[svc]? with
      | some call, some d =>
        match s.coreAcquire d.ansSem with
        | none => s
        | some s =>
          let s := s.setHull h { s.hull h with prog := (s.hull h).prog.map fun p => { p with calls := p.calls.erase call } }
          if call.replied then s
          else
            let r := s.collRead h p d.ansTensor (4096 * (call.k % d.slots)) 4096
            let s := match r.bad with
              | some b => r.st.huskFail (s.cmdSrc call.cmd) h 0xFF 0xFF d.ansTensor b.1 b.2
              | none => r.st
            let len := fieldLe r.data 0 4
            let fin := fun (st : Byte) (cause : Nat) (tail : List Byte) =>
              s.reply call.cmd 0x0304 st (svcFields cause call.k call.landed s.time.gtc) tail
            if r.bad.isSome ∨ p.dirtyTick ∨ call.dirty then fin sFAULT 1 []
            else if len > 1024 then fin sFAULT 3 []
            else
              let tr := if d.provenance then s.provTrailer h p else (s, [])
              if (tr.1.hull h).state ≠ .running ∧ d.provenance then
                tr.1.reply call.cmd 0x0304 sFAULT (svcFields 1 call.k call.landed s.time.gtc)
              else tr.1.reply call.cmd 0x0304 sDONE (svcFields 0 call.k call.landed s.time.gtc) (slice r.data 0x40 len ++ tr.2)
      | _, _ => s
    | none => s)

/-- SERVICE_DEADLINE (R429): the oldest request not yet replied whose DEADLINE_US has passed fails as late; its answer is still taken in
its turn and discarded. -/
def execServiceDeadline (h svc : Nat) (s : State) : Outcome :=
  .next (
    match (s.hull h).prog with
    | some p =>
      match p.image.services[svc]? with
      | some d =>
        match p.calls.find? fun q => q.svc == svc && !q.replied && decide (q.landed + 1000 * d.deadlineUs ≤ s.time.gtc) with
        | some call =>
          let late := fun (q : Call) => if q = call then { q with replied := true } else q
          let s := s.setHull h { s.hull h with prog := some { p with calls := p.calls.map late } }
          s.reply call.cmd 0x0304 sFAULT (svcFields 2 call.k call.landed 0)
        | none => s
      | none => s
    | none => s)

end Sys2Proof.Machine
end

