-- ==== Sys2Proof/Machine/Irq.lean ====
section
/-! DEFINITION. The interrupt controller (R438–R443, R445): claim, completion, software signals, moderation, configuration. -/

namespace Sys2Proof.Machine

/-- Key of the source that a core names by an id: a private one below 64, else a shared one. -/
def irqKey (c id : Nat) : Nat := if id < 64 then privKey c id else id

/-- The source exists: cores 0–7, ids 1–1022. -/
def irqIn (c id : Nat) : Bool := decide (c < 8 ∧ 1 ≤ id ∧ id ≤ 1022)

/-- The control core exists and has power. -/
def State.coreRuns (s : State) (c : Nat) : Bool := decide (c < 8) && s.rst.dev != .cold

/-- A claim (R440): the winner becomes ACTIVE, its PENDING and COUNT zero; LATCH is cleared. A core that reads is awake. -/
def State.claim (s : State) (c : Nat) : State :=
  let w := s.winner c
  let v := s.claimValue c
  let s := s.emit (.regRead (.core c) (0x040100 + 0x40 * c) (BitVec.ofNat 64 (v.1 + v.2 * 2 ^ 16)))
  let s := s.setCore c { s.core c with latch := false, idle := false }
  match w with
  | some kx => (s.setIrq kx.1 { kx.2 with active := true, activeOn := c, pending := false, count := 0 }).icLatch
  | none => s.icLatch

/-- IC_CLAIM: a core's normal read. -/
def execIcClaim (c : Nat) (s : State) : Outcome := .next (if s.coreRuns c then s.claim c else s)

/-- A completion (R441). -/
def State.complete (s : State) (c id : Nat) : State :=
  let k := irqKey c id
  let x := s.irq k
  let s := s.setCore c { s.core c with idle := false }
  if id = 0 ∨ id = 1023 then s
  else if x.active ∧ x.activeOn = c then
    let y := { x with active := false, activeOn := 0 }
    (s.setIrq k (if x.pending then s.startHoldoff k y else y)).icLatch
  else s.setCore c { s.core c with err := true }

/-- IC_COMPLETE. -/
def execIcComplete (c : Nat) (id : BitVec 10) (s : State) : Outcome := .next (if s.coreRuns c then s.complete c id.toNat else s)

/-- A withdrawal (R442). -/
def State.withdraw (s : State) (k : Nat) : State := s.setIrq k { s.irq k with pending := false, count := 0 }

/-- CLR_PENDING: on a private source of core c, or a shared source. -/
def execClrPending (c id : Nat) (s : State) : Outcome := .next (if irqIn c id && s.coreRuns c then s.withdraw (irqKey c id) else s)

/-- SET_PENDING: one event. -/
def execSetPending (c id : Nat) (s : State) : Outcome := .next (if irqIn c id && s.coreRuns c then s.signal (irqKey c id) else s)

/-- A source's hold-off has run out. -/
def State.heldOff (s : State) (k : Nat) (x : IrqSrc) : Bool :=
  decide (x.holdStart + 1000 * (s.core (srcCore k x)).holdoffUs.toNat ≤ s.time.gtc)

/-- HOLDOFF_EXPIRE (R439). -/
def execHoldoffExpire (c id : Nat) (s : State) : Outcome :=
  .next (
    let k := irqKey c id
    let x := s.irq k
    if irqIn c id ∧ x.pending ∧ !x.active ∧ s.heldOff k x then (s.setIrq k { x with elapsed := true }).icLatch else s)

/-- CORE_IDLE (R439): the core enters WFI with no source active on it. -/
def execCoreIdle (c : Nat) (s : State) : Outcome :=
  .next (if s.coreRuns c ∧ s.activeOn c = 0 then (s.setCore c { s.core c with idle := true }).icLatch else s)

/-- CORE_TIMER (R438): private source 1. -/
def execCoreTimer (c : Nat) (s : State) : Outcome := .next (if s.coreRuns c then s.signal (privKey c 1) else s)

/-! ## Configuration (R442, R445) -/

/-- A write of IC_CTL. -/
def State.icCtlWrite (s : State) (c v : Nat) : State :=
  let s := s.setCore c { s.core c with threshold := BitVec.ofNat 3 v, holdoffUs := BitVec.ofNat 10 (v / 16), countMin := BitVec.ofNat 8 (v / 65536) }
  let s := s.irqs.foldl (fun (s : State) (kx : Nat × IrqSrc) =>
    if srcCore kx.1 kx.2 = c ∧ kx.2.pending then s.setIrq kx.1 { kx.2 with elapsed := s.heldOff kx.1 kx.2 } else s) s
  s.icLatch

/-- A write of a source register: configuration, then the actions. A change of TARGET moves PENDING and COUNT to the new core. -/
def State.icSrcWrite (s : State) (k v : Nat) : State :=
  let x := s.irq k
  let y := { x with prio := BitVec.ofNat 3 v, enable := bitOf v 3, moderated := bitOf v 4,
                    target := if k ≥ 2048 then x.target else BitVec.ofNat 3 (v / 256) }
  let y := if y.target = x.target then y else { y with elapsed := s.heldOff k y }
  let s := (s.setIrq k y).icLatch
  let s := if bitOf v 32 then s.withdraw k else s
  if bitOf v 33 then s.signal k else s

end Sys2Proof.Machine
end

