-- ==== Sys2Proof/Machine/Rings.lean ====
section
/-! DEFINITION. Host rings and endpoints as registers (R418–R420, R423, R425, R444): indices, configuration, states. -/

namespace Sys2Proof.Machine

/-- Difference of two free-running indices (R419). -/
def ixDiff (a b : Word32) : Nat := (a - b).toNat

/-- A refused configuration write (R423, R444). -/
def State.cmdCfgErr (s : State) : State := s.hevent 10

/-- A write of CMD_CTAIL (R420): the doorbell; entries beyond the ring's size are a fault. -/
def State.ctailWrite (s : State) (r : Nat) (v : Word32) : State :=
  let x := s.ring r
  let s := (s.setRing r { x with ctail := v }).signal (privKey x.core (8 + r))
  if ixDiff v x.chead > 2 ^ x.cmdLog2 then s.ringFault r else s

/-- DOORBELL. -/
def execDoorbell (r : Nat) (v : Word) (s : State) : Outcome :=
  .next (if r < 8 ∧ s.blockOpen 0x051000 then s.ctailWrite r (v.setWidth 32) else s)

/-- A write of CMD_RHEAD (R420): it must not pass RTAIL. -/
def State.rheadWrite (s : State) (r : Nat) (v : Word32) : State :=
  let x := s.ring r
  let s := s.setRing r { x with rhead := v }
  if ixDiff v x.rhead > ixDiff x.rtail x.rhead then s.ringFault r else s

/-- CMD_RHEAD. -/
def execCmdRhead (r : Nat) (v : Word) (s : State) : Outcome :=
  .next (if r < 8 ∧ s.blockOpen 0x051018 then s.rheadWrite r (v.setWidth 32) else s)

/-- The fields of CMD_RCFG other than ENABLE. -/
def Ring.cfg (x : Ring) (v : Nat) : Ring :=
  { x with operator := bitOf v 1, cmdLog2 := bitsOf v 5 2, rplLog2 := bitsOf v 9 6, core := bitsOf v 12 10, caller := BitVec.ofNat 16 (bitsOf v 31 16) }

/-- A caller identity that may be enabled (R418). -/
def callerOk (c : Half) : Bool := c != 0 && c != 0xFFFF

/-- A write of CMD_RCFG (R423, R444). A write that leaves ENABLE as it reads is no event; one that would change another field while the
ring is not DISABLED is refused whole. -/
def State.rcfgWrite (s : State) (r v : Nat) : State :=
  let x := s.ring r
  let y := x.cfg v
  let en := bitOf v 0
  match x.state with
  | .disabled =>
    if !en then s.setRing r { y with en := false }
    else if 4 ≤ y.cmdLog2 ∧ y.cmdLog2 ≤ 12 ∧ 4 ≤ y.rplLog2 ∧ y.rplLog2 ≤ 12 ∧ callerOk y.caller then
      s.setRing r { y with en := true, state := .running, ctail := 0, chead := 0, rtail := 0, rhead := 0 }
    else s.cmdCfgErr
  | .running =>
    if y ≠ x then s.cmdCfgErr
    else if en then s
    else s.setRing r (Ring.settle { x with en := false, state := .draining })
  | .draining => if y ≠ x ∨ en then s.cmdCfgErr else s
  | .fault =>
    if y ≠ x then s.cmdCfgErr
    else if en then (if x.en then s else s.cmdCfgErr)
    else s.setRing r { x with en := false, state := .disabled, inProgress := [], held := [] }

/-- RING_ENABLE: CMD_RCFG written with ENABLE 1. -/
def execRingEnable (r : Nat) (v : Word) (s : State) : Outcome :=
  .next (if r < 8 ∧ s.blockOpen 0x050100 then s.rcfgWrite r (v ||| 1).toNat else s)

/-- RING_DISABLE: CMD_RCFG written with ENABLE 0. -/
def execRingDisable (r : Nat) (v : Word) (s : State) : Outcome :=
  .next (if r < 8 ∧ s.blockOpen 0x050100 then s.rcfgWrite r (v &&& ~~~1).toNat else s)

/-- A write of a ring base, refused unless the ring is DISABLED. -/
def State.baseWrite (s : State) (r : Nat) (reply : Bool) (v : Nat) : State :=
  let x := s.ring r
  let a : Word := BitVec.ofNat 64 (v / 4096 * 4096)
  match x.state with
  | .disabled => s.setRing r (if reply then { x with rbase := a } else { x with cbase := a })
  | _ => s.cmdCfgErr

/-- The fields of CMD_ECFG. -/
def Endpoint.cfg (x : Endpoint) (v : Nat) : Endpoint :=
  { x with enable := bitOf v 0, port := bitsOf v 1 1, prefixLen := bitsOf v 15 8, udpPort := BitVec.ofNat 16 (bitsOf v 31 16),
           caller := BitVec.ofNat 16 (bitsOf v 47 32), core := bitsOf v 50 48 }

/-- A write of CMD_ECFG (R418, R444): a prefix beyond 128 bits is out of the field's range. -/
def State.ecfgWrite (s : State) (e v : Nat) : State :=
  let x := s.endp e
  let y := x.cfg v
  if x.enable ∧ { y with enable := x.enable } ≠ x then s.cmdCfgErr
  else if y.enable ∧ (!callerOk y.caller ∨ y.prefixLen > 128) then s.cmdCfgErr
  else s.setEndp e y

/-- ENDPOINT_ENABLE. -/
def execEndpointEnable (e : Nat) (v : Word) (s : State) : Outcome :=
  .next (if e < 16 ∧ s.blockOpen 0x050400 then s.ecfgWrite e v.toNat else s)

/-- A write of an endpoint's prefix, refused while it is enabled. -/
def State.eaddrWrite (s : State) (e : Nat) (hi : Bool) (v : Word) : State :=
  let x := s.endp e
  if x.enable then s.cmdCfgErr else s.setEndp e (if hi then { x with addrHi := v } else { x with addrLo := v })

end Sys2Proof.Machine
end

