-- ==== Sys2Proof/Machine/Power.lean ====
section
/-! DEFINITION. Pod and device power (R459–R463): sleep, wake, STANDBY, the budget; DEV_INFO and DEV_HEALTH (R484, R485). -/

namespace Sys2Proof.Machine

/-- The fields of PWR_STATE are in rule for a TARGET and STATE. -/
def State.powerOk (s : State) (c : Cmd) (target state : Nat) : Bool :=
  let f := fun (a n : Nat) => pf c.params a n
  let sleep := target == 1 && state == 0
  f 0 1 == target && f 2 1 == state
    && (if target = 1 then decide (f 1 1 < 8) && !s.board.fused.getLsbD (f 1 1) else f 1 1 == 0)
    && (if sleep then decide (1 ≤ f 3 1 ∧ f 3 1 ≤ 7) else f 3 1 == 0) && f 4 4 == 0
    && ((sleep && bitOf (f 3 1) 2) || f 8 8 == 0) && restZero c 0x10

/-- The reply of PWR_STATE: the resulting state. -/
def State.powerDone (s : State) (c : Cmd) (state : Nat) : State := s.reply c 0x0A00 sDONE (mkFields [(0, 1, state)])

/-! ## Pods (R459–R461) -/

/-- POD_SLEEP: entry begins; a TIMER value already reached aborts it at once. -/
def State.podSleep (s : State) (c : Cmd) : State :=
  let p := pf c.params 1 1
  let mask := pf c.params 3 1
  let at_ := pf c.params 8 8
  let x := s.pod p
  if !s.powerOk c 1 0 then s.reply c 0x0A00 sBADPARAM 0
  else if !s.isOperator c then s.reply c 0x0A00 sDENIED 0
  else if s.podState p ≠ .idle ∨ s.podHeld p ∨ x.entering then s.reply c 0x0A00 sBUSY 0
  else
    let s := s.setPod p { x with entering := true, wakeMask := BitVec.ofNat 3 mask, wakeGtc := at_, owes := some c }
    if bitOf mask 2 ∧ at_ ≤ s.time.gtc then s.abortSleep p 3 else s

/-- PWR_STATE: a pod sleeps. -/
def execPodSleep (c : Cmd) (s : State) : Outcome := .next (s.packet c 0x0A00 fun s => s.podSleep c)

/-- POD_WAKE. -/
def State.podWake (s : State) (c : Cmd) : State :=
  let p := pf c.params 1 1
  let x := s.pod p
  if !s.powerOk c 1 1 then s.reply c 0x0A00 sBADPARAM 0
  else if !s.isOperator c then s.reply c 0x0A00 sDENIED 0
  else if s.podState p ≠ .off ∨ x.standbyState ≠ .off ∨ x.waking then s.reply c 0x0A00 sBUSY 0
  else (s.setPod p { x with owes := some c }).startWake p 4

/-- PWR_STATE: a pod wakes. -/
def execPodWake (c : Cmd) (s : State) : Outcome := .next (s.packet c 0x0A00 fun s => s.podWake c)

/-- SLEEP_ENTRY_COMPLETE (R459): the pod is OFF, and the sleep replies. -/
def execSleepEntryComplete (p : Nat) (s : State) : Outcome :=
  .next (
    let x := s.pod p
    if !x.entering then s
    else
      let s := s.setPod p { x with entering := false, state := .off, owes := none }
      match x.owes with | some c => s.powerDone c 0 | none => s)

/-- WAKE_TIMER (R460, R461): the GTC reaches the TIMER value of a pod that sleeps or is going to sleep. -/
def execWakeTimer (p : Nat) (s : State) : Outcome :=
  .next (
    let x := s.pod p
    if !x.wakeMask.getLsbD 2 ∨ s.time.gtc < x.wakeGtc then s
    else if x.entering then s.abortSleep p 3
    else if x.state = .off ∧ x.standbyState = .off ∧ !x.waking ∧ s.inService then s.startWake p 3
    else s)

/-- A command that waited for a pod to reach IDLE proceeds normally (R460). -/
def State.proceed (s : State) (w : Nat × Cmd) : State := if w.1 = 0x0201 then s.hullGrant w.2 else s.probePod w.2

/-- WAKE_COMPLETE (R459, R460): the pod is IDLE with its stores cleared; what waited for it proceeds. -/
def execWakeComplete (p : Nat) (s : State) : Outcome :=
  .next (
    let x := s.pod p
    if !x.waking then s
    else
      let s := s.clearPod p
      let s := (s.setPod p { s.pod p with state := .idle, waking := false, wakeMask := 0, owes := none, waiting := [] }).raise 101
      let s := match x.owes with | some c => s.powerDone c 1 | none => s
      x.waiting.foldl State.proceed s)

/-! ## The device (R462) -/

/-- Nothing stands against STANDBY. -/
def State.mayStandby (s : State) : Bool :=
  !s.board.standby && s.mem.mapout.isNone && s.mem.mapoutQueue.isEmpty && !s.probe.active
    && hullNos.all fun h =>
      let x := s.hull h
      (x.state == .free || x.state == .granted) && x.reclaims.isEmpty && !(decide (1 ≤ x.ckpt.state ∧ x.ckpt.state ≤ 3))

/-- DEVICE_STANDBY: pods that are not FUSED or OFF are powered down. -/
def State.deviceStandby (s : State) (c : Cmd) : State :=
  if !s.powerOk c 0 1 then s.reply c 0x0A00 sBADPARAM 0
  else if !s.isOperator c then s.reply c 0x0A00 sDENIED 0
  else if !s.mayStandby then s.reply c 0x0A00 sBUSY 0
  else
    let s := (upFrom 0 8).foldl (fun (s : State) p =>
      let x := s.pod p
      if s.podState p = .fused ∨ x.state = .off ∨ x.entering then s else s.setPod p { x with state := .off, standbyState := x.state }) s
    ({ s with board := { s.board with standby := true } }).powerDone c 1

/-- PWR_STATE: STANDBY. -/
def execDeviceStandby (c : Cmd) (s : State) : Outcome := .next (s.packet c 0x0A00 fun s => s.deviceStandby c)

/-- DEVICE_ACTIVE: each pod powered down returns to its earlier state with its stores cleared. -/
def State.deviceActive (s : State) (c : Cmd) : State :=
  if !s.powerOk c 0 0 then s.reply c 0x0A00 sBADPARAM 0
  else if !s.isOperator c then s.reply c 0x0A00 sDENIED 0
  else if !s.board.standby then s.reply c 0x0A00 sBUSY 0
  else
    let s := (upFrom 0 8).foldl (fun (s : State) p =>
      let st := (s.pod p).standbyState
      if st = .off then s
      else
        let s := s.clearPod p
        s.setPod p { s.pod p with state := st, standbyState := .off }) s
    ({ s with board := { s.board with standby := false } }).powerDone c 0

/-- PWR_STATE: ACTIVE. -/
def execDeviceActive (c : Cmd) (s : State) : Outcome := .next (s.packet c 0x0A00 fun s => s.deviceActive c)

/-- PWR_BUDGET_READ (R463). -/
def State.budgetRead (s : State) (c : Cmd) : State :=
  if !restZero c 0 then s.reply c 0x0A01 sBADPARAM 0
  else
    s.reply c 0x0A01 sDONE (mkFields ([(0, 2, 6400), (2, 2, 800), (4, 2, s.unassigned)]
      ++ hullNos.map (fun h => (6 + 2 * h, 2, (s.hull h).share))
      ++ [(0x10, 4, s.board.powerMw.toNat), (0x14, 1, s.board.throttle), (0x15, 1, b2n s.board.standby),
          (0x16, 1, maskOf 8 fun p => s.podState p == .off)]))

/-- PWR_BUDGET_READ. -/
def execPwrBudgetRead (c : Cmd) (s : State) : Outcome := .next (s.packet c 0x0A01 fun s => s.budgetRead c)

/-! ## Identity and health (R484, R485) -/

/-- DEV_INFO. -/
def State.devInfo (s : State) (c : Cmd) : State :=
  let d := s.board
  if !restZero c 0 then s.reply c 0x0100 sBADPARAM 0
  else
    s.reply c 0x0100 sDONE (mkFields [(0, 16, d.serial.toNat), (0x10, 1, 8 - bitCount d.fused.toNat), (0x11, 1, 0xA1), (0x12, 1, d.fused.toNat),
      (0x13, 1, d.slotId.toNat), (0x14, 4, d.enterprise.toNat), (0x18, 2, d.jep106.toNat), (0x1A, 2, d.fwBuild.toNat),
      (0x1C, 1, maskOf 8 fun p => (s.pod p).spareIn), (0x1D, 1, s.bypass.toNat)])

/-- DEV_INFO. -/
def execDevInfo (c : Cmd) (s : State) : Outcome := .next (s.packet c 0x0100 fun s => s.devInfo c)

/-- DEV_HEALTH. -/
def State.devHealth (s : State) (c : Cmd) : State :=
  let d := s.board
  if !restZero c 0 then s.reply c 0x0101 sBADPARAM 0
  else
    s.reply c 0x0101 sDONE (mkFields [(0, 1, devCode s.rst.dev), (1, 1, s.sec.state), (2, 1, bitsOf s.timeStatusWord 1 0), (3, 1, d.throttle),
      (4, 1, d.tj.toNat), (5, 1, d.inletC.toNat), (6, 1, d.outletC.toNat),
      (7, 1, b2n (!d.leakN) + 2 * b2n d.coolBad + 4 * b2n d.eth0 + 8 * b2n d.eth1 + 16 * b2n d.mgmt), (8, 4, d.powerMw.toNat),
      (0xC, 2, s.usable false), (0xE, 1, s.usable true), (0xF, 1, s.rst.degraded.toNat), (0x10, 2, d.flow.toNat), (0x12, 2, d.kpa.toNat),
      (0x18, 8, s.nextSeq)])

/-- DEV_HEALTH. -/
def execDevHealth (c : Cmd) (s : State) : Outcome := .next (s.packet c 0x0101 fun s => s.devHealth c)

end Sys2Proof.Machine
end

