-- ==== Sys2Proof/Machine/Startup.lean ====
section
/-!
DEFINITION. Power, pins and cold start (R471–R482): PWR_EN, power removal, trips, coolant and leak, PERST_N, the test-access port, the
end of start-up.
-/

namespace Sys2Proof.Machine

/-- ALERT_N: low while any DEV_EVENT bit is set (R471). -/
def State.alertN (s : State) : Bool := s.reg evDev == 0

/-- What a unit keeps without power: the map-out list (R198, R473). -/
def UnitS.cold (x : UnitS) : UnitS := if x.state = 2 then { UnitS.init with state := 2, cause := x.cause } else UnitS.init

/-- The same of a tier B channel; causes 2 and 3 that wait for its next training are kept with the list (R197, log entry 83). -/
def UnitS.coldB (x : UnitS) : UnitS :=
  if x.state ≠ 2 ∧ (x.pendingCause = 2 ∨ x.pendingCause = 3) then { UnitS.init with pendingCause := x.pendingCause } else x.cold

/-- What a pod keeps without power: its fuses. -/
def Pod.cold (x : Pod) : Pod := { Pod.init with spareIn := x.spareIn, spareFor := x.spareFor }

/-- The block without power (R473): every content is lost but the non-volatile store, the fuses and the pins; the environment stays. -/
def State.coldState (s : State) : State :=
  { State.reset with
    pending := s.pending
    pods := tmap Pod.cold s.pods
    mem := { State.reset.mem with unitsA := tmap UnitS.cold s.mem.unitsA, unitsB := tmap UnitS.coldB s.mem.unitsB }
    rst := { State.reset.rst with dev := .cold, startPhase := 0, oosFlag := s.rst.oosFlag }
    maxVersion := s.maxVersion
    bypass := s.bypass
    sec := { State.reset.sec with secVersion := s.sec.secVersion, contentKey := s.sec.contentKey, debugKey := s.sec.debugKey,
                                  certDigest := s.sec.certDigest, islandDigest := s.sec.islandDigest }
    board := { State.reset.board with fused := s.board.fused, serial := s.board.serial, slotId := s.board.slotId,
                                      enterprise := s.board.enterprise, jep106 := s.board.jep106, fwBuild := s.board.fwBuild,
                                      pwrEn := s.board.pwrEn, pwrGood := s.board.pwrGood, perstN := s.board.perstN,
                                      thermtripN := s.board.thermtripN, leakN := s.board.leakN, refclkSel := s.board.refclkSel }
    host := s.host
    out := s.out
    fresh := s.fresh }

/-- Power goes: PWR_GOOD drops, the rails go down (R473). -/
def State.removePower (s : State) : State :=
  let s := if s.board.pwrGood then s.emit (.pin "PWR_GOOD" false) else s
  ({ s with board := { s.board with pwrGood := false } }).coldState

/-- LEAK_N is low (R479). -/
def State.leakNow (s : State) : State := (s.envRec 2 0).event evDev 1 103

/-- PWR_EN_HIGH (R471, R480): the rails ramp, the straps are sampled at PWR_GOOD, COLD goes to INIT. -/
def execPwrEnHigh (refclkSel : Bool) (slotId : BitVec 6) (s : State) : Outcome :=
  .next (
    if s.board.pwrEn then s
    else
      let s := s.coldState
      let s := { s with board := { s.board with pwrEn := true, pwrGood := true, refclkSel := refclkSel, slotId := slotId }
                        rst := { s.rst with dev := .init, startPhase := 1 } }
      let s := s.emit (.pin "PWR_GOOD" true)
      if s.board.leakN then s else s.leakNow)

/-- POWER_REMOVAL (R473): PWR_EN low; THERMTRIP_N is released (R471). -/
def execPowerRemoval (s : State) : Outcome :=
  .next (
    let s := if s.board.thermtripN then s else s.emit (.pin "THERMTRIP_N" true)
    ({ s with board := { s.board with pwrEn := false, thermtripN := true } }).removePower)

/-- INPUT_UNDERVOLTAGE (R473). -/
def execInputUndervoltage (s : State) : Outcome := .next s.removePower

/-- THERMAL_TRIP (R479): a junction at 120 °C or the outlet at 65 °C. The record goes out before power is removed. -/
def execThermalTrip (die : Nat) (tjC outletC : Byte) (s : State) : Outcome :=
  .next (
    if s.rst.dev = .cold ∨ die ≥ 3 ∨ (tjC.toNat < 120 ∧ outletC.toNat < 65) then s
    else
      let s := s.setTj die tjC
      let s := ({ s with board := { s.board with outletC := outletC } }).envRec 4 3
      let s := s.emit (.pin "THERMTRIP_N" false)
      ({ s with board := { s.board with thermtripN := false } }).removePower)

/-- RAIL_OUT_OF_REGULATION (R471): PWR_GOOD is pulled low. -/
def execRailOutOfRegulation (s : State) : Outcome :=
  .next (
    if s.board.pwrGood then ({ s with board := { s.board with pwrGood := false } }).emit (.pin "PWR_GOOD" false)
    else s)

/-- PERST (R474): PERST_N takes a level; falling, it resets the host-link controller only. -/
def execPerst (level : Bool) (s : State) : Outcome :=
  .next (
    let fell : Bool := s.board.perstN && !level
    let s := { s with board := { s.board with perstN := level } }
    if fell ∧ s.rst.dev ≠ .cold then s.regOr evDev 4 else s)

/-- LEAK (R479): LEAK_N takes a level; falling, event and interrupt 103; the module keeps running. -/
def execLeak (level : Bool) (s : State) : Outcome :=
  .next (
    let fell : Bool := s.board.leakN && !level
    let s := { s with board := { s.board with leakN := level } }
    if fell ∧ s.rst.dev ≠ .cold then s.leakNow else s)

/-- COOLANT (R478, R479): the readings; out of limits, event and interrupt 102. -/
def execCoolant (inletC outletC : Byte) (flow kpa : Half) (s : State) : Outcome :=
  .next (
    if s.rst.dev = .cold then s
    else
      let bad := decide (45 < inletC.toNat ∨ flow.toNat < 1500)
      let s := { s with board := { s.board with inletC := inletC, outletC := outletC, flow := flow, kpa := kpa, coolBad := bad } }
      if bad then (s.envRec 1 0).event evDev 0 102 else s)

/-- ETH_PORT_STATE_CHANGE (R364, R485). -/
def execEthPortStateChange (port : Nat) (up : Bool) (s : State) : Outcome :=
  .next (
    if s.rst.dev = .cold then s
    else
      match port with
      | 0 => { s with board := { s.board with eth0 := up } }
      | 1 => { s with board := { s.board with eth1 := up } }
      | _ => s)

/-- IDCODE (R477): bit 0, the JEP106 code of DEV_INFO, the part number, the stepping. -/
def State.idcode (s : State) : Word32 :=
  let j := s.board.jep106.toNat
  BitVec.ofNat 32 (1 + (bitsOf j 6 0 + bitsOf j 11 8 * 2 ^ 7) * 2 + 0x7720 * 2 ^ 12 + 1 * 2 ^ 28)

/-- TEST_ACCESS_INSTRUCTION (R477): the EXTEST instructions take effect only in INIT and keep the device there. -/
def execTestAccessInstruction (i : TapInstr) (s : State) : Outcome :=
  .next (
    if s.rst.dev = .cold then s
    else
      let s := { s with board := { s.board with tap := i } }
      match i with
      | .idcode => s.emit (.tdo s.idcode)
      | .extest | .extestPulse | .extestTrain =>
        if s.rst.dev = .init then { s with rst := { s.rst with bscanUsed := true } } else s
      | .bypass | .sample | .other _ => s)

/-! ## The end of start-up (R446–R448, R480–R482) -/

/-- The digest of a fuse item of M3, whose encoding the spec does not give (log entry 37): six free words. -/
def fuseDigest (item : Nat) (vals : List Nat) : BitVec 384 :=
  BitVec.ofNat 384 (sumOf ((upFrom 0 6).map fun k => (Config.unstated 37 (item :: k :: vals)).toNat * 2 ^ (64 * k)))

/-- M0 to M3 at a cold boot (R447). -/
def State.measureBoot (s : State) (fw : BitVec 384) : State :=
  let key := fun (k : BitVec 768) => sha384 (natBe 96 k.toNat)
  let map := (upFrom 0 8).map fun p => b2n (s.pod p).spareIn + 2 * (s.pod p).spareFor.toNat
  [(0, s.sec.islandDigest), (1, fw), (2, key s.sec.contentKey), (2, key s.sec.debugKey), (2, s.sec.certDigest),
   (3, fuseDigest 0 [8 - bitCount s.board.fused.toNat]), (3, fuseDigest 1 [s.board.fused.toNat]), (3, fuseDigest 2 map),
   (3, fuseDigest 3 [s.sec.secVersion.toNat])].foldl (fun (s : State) x => s.extend x.1 x.2) s

/-- Phases 2 to 5 (R480): measurement, training, self-test, clearing, the host link. -/
def State.startUp (s : State) (tr : Training) : State :=
  let s := (s.measureBoot tr.firmwareDigest).freshNonce
  let s := { s with sec := { s.sec with state := if tr.firmwareOk then 1 else 2 } }
  let s := (s.train tr).clearPods
  let bad := tr.failPods.filter fun p => decide (p < 8) && !s.board.fused.getLsbD p && !s.bypass.getLsbD p
  let s := bad.foldl State.bypassPod s
  { s with board := { s.board with linkGen := tr.linkGen, linkWidth := tr.linkWidth, mgmt := true, wdogGtc := s.time.gtc } }

/-- START_UP_END (R480–R482): the state decision, in the order of R481. A device whose boundary-scan port was used stays in INIT. -/
def execStartUpEnd (tr : Training) (s : State) : Outcome :=
  .next (
    if s.rst.dev ≠ .init ∨ s.rst.startPhase = 0 ∨ s.rst.bscanUsed then s
    else
      let s := s.startUp tr
      if s.rst.oosFlag then s.outOfService
      else if s.sec.state = 2 then { s with rst := { s.rst with startPhase := 0 } }
      else s.decide_)

/-- START_PHASE_TIMEOUT (R481): counted, a HANG-class record with CODE 0, OUT_OF_SERVICE. -/
def execStartPhaseTimeout (s : State) : Outcome :=
  .next (
    if s.rst.dev ≠ .init ∨ s.rst.startPhase = 0 ∨ s.rst.bscanUsed then s
    else
      let v := fun (k : Nat) => (Config.unstated 26 [0x0E, k]).toNat
      let r := mkRec 0x0E 3 0x0600 0 0xFF 0xFF 0 (natLe 1 0xFF ++ natLe 1 0 ++ natLe 2 0 ++ natLe 4 0 ++ natLe 8 (v 0) ++ natLe 8 (v 1) ++ zeros 8)
      (s.countReset.log1 r).outOfService)

end Sys2Proof.Machine
end

