-- ==== Sys2Proof/Machine/Regs.lean ====
section
/-!
DEFINITION. BAR0 accesses (R7, R8, R12, R14, R443): writes by field types, reads that clear, rejected accesses, and the configuration
registers with a row of their own (R90, R333, R359).
-/

namespace Sys2Proof.Machine

/-! ## Configuration with ranges -/

/-- A write of COLL_CFG (R333). -/
def State.collCfgWrite (s : State) (v : Nat) : State :=
  let beat := bitsOf v 9 0
  let loss := bitsOf v 27 16
  if 50 ≤ beat ∧ beat ≤ 500 ∧ 500 ≤ loss ∧ loss ≤ 3500 ∧ loss + beat ≤ 4000 then s.setReg 0x0B0010 (beat + loss * 2 ^ 16)
  else s.event evColl 5 517

/-- COLL_CFG. -/
def execCollCfg (v : Word) (s : State) : Outcome := .next (if s.blockOpen 0x0B0010 then s.collCfgWrite v.toNat else s)

/-- A write of HULL_CFG (R359). -/
def State.hullCfgWrite (s : State) (v : Nat) : State :=
  let force := bitsOf v 14 0
  let evac := bitsOf v 20 16
  if 10 ≤ force ∧ force ≤ 30000 ∧ 1 ≤ evac ∧ evac ≤ 25 then s.setReg 0x020010 (force + evac * 2 ^ 16)
  else s.event evHull 5 85

/-- HULL_CFG. -/
def execHullCfg (v : Word) (s : State) : Outcome := .next (if s.blockOpen 0x020010 then s.hullCfgWrite v.toNat else s)

/-- A write of PWR_HSHARE (R90): the shares of the hulls total at most 5,600, and a loaded program keeps its charges. -/
def State.hshareWrite (s : State) (h v : Nat) : State :=
  let x := s.hull h
  let n := bitsOf v 12 0
  let others := sumOf ((hullNos.filter (· != h)).map fun k => (s.hull k).share)
  let need := match x.prog with
    | some _ => x.standing + sumOf ((s.podsOf h).map fun p => (s.pod p).share)
    | none => 0
  if others + n > 5600 ∨ n < need then s.event evPwr 8 97 else s.setHull h { x with share := n }

/-- PWR_HSHARE. -/
def execPwrHshare (h : Nat) (v : Word) (s : State) : Outcome :=
  .next (if isHull h ∧ s.blockOpen 0x030040 then s.hshareWrite h v.toNat else s)

/-! ## Rejected accesses (R7) -/

/-- BAR0_INVALID_ACCESS: completes harmlessly, with a BUS record. R7, R396 and R397 name no SOURCE for it: the model takes the management
island's number, not the host link's (log entry 74). -/
def execBar0InvalidAccess (addr : BitVec 48) (size : Nat) (write : Bool) (s : State) : Outcome :=
  .next (
    if s.rst.dev = .cold ∨ (addr.toNat % 8 = 0 ∧ size = 8) then s
    else
      let s := s.log1 (mkRec 0x01 0 0x0600 0 0xFF 0xFF 0 (natLe 8 addr.toNat ++ natLe 1 size ++ natLe 1 (b2n write) ++ natLe 1 0))
      let s := (s.setReg 0x0C0048 (addr.toNat + bitAt write 48)).event evIntg 7 583
      if write then s else s.emit (.regRead .host addr.toNat 0))

/-! ## Reads that clear (R12) -/

/-- The RC fields of a register that shows the state are cleared. -/
def State.clearView (s : State) (n : RegName) (i : Nat) : State :=
  let a := s.regF 0x060010 8 0
  let b := s.regF 0x070010 5 0
  let u := s.regF 0x080018 3 0
  let g := s.regF 0x0B0018 11 0
  match n with
  | .pwrPpeak => s.setPod i { s.pod i with peak := 0 }
  | .memaPcerr => s.setUnitA a { s.unitA a with corrected := 0, parityRetries := 0, uncorr := 0 }
  | .membCherr => s.setUnitB b { s.unitB b with corrected := 0, parityRetries := 0, uncorr := 0 }
  | .nmuUscrub => if u < 12 then { s with nmu := { s.nmu with scrubCorrected := tput s.nmu.scrubCorrected u 0 } } else s
  | .nmuHstale => s.setHull (i + 1) { s.hull (i + 1) with stale := 0, dup := 0 }
  | .ausEcount => s.setEng i { s.eng i with cDone := 0, cPartial := 0, cNan := 0, cFault := 0 }
  | .ausEbusy => s.setEng i { s.eng i with busy := 0 }
  | .jvBerr => s.setBundle i { s.bundle i with fec := 0, replays := 0, retrains := 0, uncorr := 0 }
  | .collGcount => if (s.group g).state = 0 then s else s.setGroup g { s.group g with opsDone := 0, decisions := 0, stale := 0 }
  | .cmdRstat => s.setRing i { s.ring i with replied := 0 }
  | .cmdEstat => s.setEndp i { s.endp i with accepted := 0, dropped := 0, duplicates := 0 }
  | _ => s

/-- A normal read of a register with RC fields; an offset that holds no register reads as zero (R8). -/
def State.readClear (s : State) (a : Accessor) (off : Nat) : State :=
  match regAt off with
  | none => s.emit (.regRead a off 0)
  | some r =>
    let i := (r.ix off).1
    match r.name, a with
    | .icClaim, .core _ => s.claim i
    | .icClaim, .host => s.emit (.regRead a off (BitVec.ofNat 64 (s.imageReg off)))
    | n, _ =>
      let s' := s.emit (.regRead a off (BitVec.ofNat 64 (s.imageReg off)))
      if s.fusedReg r i ∨ r.maskOf .rc = 0 then s'
      else
        let s' := s'.clearView n i
        let w := s.reg off
        if w &&& r.maskOf .rc = 0 then s' else s'.setReg off (w - (w &&& r.maskOf .rc))

/-- May an accessor reach the block of an offset? A control core does unless there is no power. -/
def State.reaches (s : State) (a : Accessor) (off : Nat) : Bool :=
  match a with
  | .host => s.blockOpen off
  | .core c => decide (c < 8) && s.rst.dev != .cold

/-- RC_READ: of a block that is not open, zero (R410, R480). -/
def execRcRead (a : Accessor) (off : BitVec 24) (s : State) : Outcome :=
  .next (
    if off.toNat % 8 ≠ 0 ∨ s.rst.dev = .cold then s
    else if s.reaches a off.toNat then s.readClear a off.toNat
    else match a with
      | .host => s.emit (.regRead a off.toNat 0)
      | .core _ => s)

/-! ## Writes (R12) -/

/-- RST_CTL (R414): the actions in the order of their bits. -/
def State.rstCtlWrite (s : State) (v : Nat) : State :=
  let s := if bitOf v 0 then s.warmResetCmd (bitOf v 1) else s
  let s := if bitOf v 2 then s.readmitCmd else s
  if bitOf v 3 then s.capReleaseCmd else s

/-- Ones written to the W1C fields of a fault or event view. -/
def State.w1cView (s : State) (n : RegName) (i j v : Nat) : State :=
  match n with
  | .podTfault =>
    let t := 16 * i + j
    s.setTile t { s.tile t with tfault := (s.tile t).tfault &&& ~~~(BitVec.ofNat 9 v) }
  | .podTmxflags =>
    let t := 16 * i + j
    s.setTile t { s.tile t with flags := (s.tile t).flags &&& ~~~(BitVec.ofNat 7 v) }
  | .memaHdbg => if bitOf v 0 && (s.hull (i + 1)).dbg != 0 then s.setHull (i + 1) { s.hull (i + 1) with unwrittenA := (false, 0, 0) } else s
  | .membHdbg => if bitOf v 0 && (s.hull (i + 1)).dbg != 0 then s.setHull (i + 1) { s.hull (i + 1) with unwrittenB := (false, 0, 0) } else s
  | .pwrPstate => if bitOf v 11 then s.setPod i { s.pod i with aborted := false } else s
  | .icState => if bitOf v 3 then s.setCore i { s.core i with err := false } else s
  | _ => s

/-- A register held as a word: RW fields take the value, ones clear W1C bits. -/
def State.writeWord (s : State) (r : RReg) (off v : Nat) : State :=
  let w := s.reg off
  let rw := r.maskOf .rw
  let w := (w - (w &&& rw)) + (v &&& rw)
  let w := w - (w &&& (v &&& r.maskOf .w1c))
  if w = s.reg off then s else s.setReg off w

/-- A write of a register of the IC block, by a control core (R443). -/
def State.icWrite (s : State) (n : RegName) (i j v : Nat) : State :=
  match n with
  | .icComplete => s.complete i (bitsOf v 9 0)
  | .icCtl => s.icCtlWrite i v
  | .icState => s.w1cView n i j v
  | .icPsrc => s.icSrcWrite (privKey i (j + 1)) v
  | .icSrc => s.icSrcWrite (64 + i) v
  | _ => s

/-- A write of any register. -/
def State.writeReg (s : State) (a : Accessor) (off : Nat) (v : Word) : State :=
  match regAt off with
  | none => s
  | some r =>
    let ix := r.ix off
    let i := ix.1
    let n := v.toNat
    if s.fusedReg r i then s
    else
      match r.name with
      | .timeGtcSet => s.gtcSet v
      | .timeTickCfg => s.tickCfg v
      | .jvDisable => s.setDisable (v.setWidth 36)
      | .collCfg => s.collCfgWrite n
      | .hullCfg => s.hullCfgWrite n
      | .pwrHshare => s.hshareWrite (i + 1) n
      | .rstCfg => s.rstCfgWrite n
      | .rstCtl => s.rstCtlWrite n
      | .secCfg => s.secCfgWrite n
      | .secAttCtl => if bitOf n 3 then s.attGoWrite (bitsOf n 2 0) else s
      | .cmdRcfg => s.rcfgWrite i n
      | .cmdRcbase => s.baseWrite i false n
      | .cmdRrbase => s.baseWrite i true n
      | .cmdEcfg => s.ecfgWrite i n
      | .cmdEaddrLo => s.eaddrWrite i false v
      | .cmdEaddrHi => s.eaddrWrite i true v
      | .cmdCtail => s.ctailWrite i (v.setWidth 32)
      | .cmdRhead => s.rheadWrite i (v.setWidth 32)
      | .icInfo | .icClaim | .icComplete | .icCtl | .icState | .icPsrc | .icSrc =>
        match a with
        | .core _ => s.icWrite r.name i ix.2 n
        | .host => s
      | .podTfault | .podTmxflags | .memaHdbg | .membHdbg | .pwrPstate => s.w1cView r.name i ix.2 n
      | _ => s.writeWord r off n

/-- REGISTER_WRITE. -/
def execRegisterWrite (a : Accessor) (off : BitVec 24) (v : Word) (s : State) : Outcome :=
  .next (if s.reaches a off.toNat ∧ off.toNat % 8 = 0 then s.writeReg a off.toNat v else s)

end Sys2Proof.Machine
end

