-- ==== Sys2Proof/Machine/Fetch.lean ====
section
/-!
DEFINITION. Fetching and starting command packets (R415, R417–R421, R425, R426, R430, R457): from a ring's memory, from a datagram.
-/

namespace Sys2Proof.Machine

/-- A packet as firmware reads its 64 bytes, with a tail: opcode and command (R415); `m` is what its memory accesses will meet. -/
def packetOf (org : Origin) (raw tail : List Byte) (m : List Meet) : Nat × Cmd :=
  (fieldLe raw 0 2,
   { org := org, format := BitVec.ofNat 8 (fieldLe raw 2 1), flags := BitVec.ofNat 8 (fieldLe raw 3 1), tag := BitVec.ofNat 32 (fieldLe raw 4 4),
     tailBytes := BitVec.ofNat 16 (fieldLe raw 8 2), resv := BitVec.ofNat 176 (fieldLe raw 0x0A 22),
     params := BitVec.ofNat 256 (fieldLe raw 0x20 32), tail := tail,
     meets := m })

/-- The state an outcome leads to. -/
def nextState (s : State) : Outcome → State
  | .next t => t
  | _ => s

/-- TEST_RUN by its OP (R391); an OP that is none fails in its fields. -/
def runTest (c : Cmd) (s : State) : Outcome :=
  match pf c.params 0 1 with
  | 2 => execProbeNmu c s
  | 3 => execBypassPod c s
  | 4 => execReleasePod c s
  | 5 => execMapoutUnit c s
  | 6 => execBypassBundle c s
  | 7 => execReleaseBundle c s
  | _ => execProbePod c s

/-- DBG_HALT by TARGET and RESUME (R455). -/
def runHalt (c : Cmd) (s : State) : Outcome :=
  match pf c.params 0 1, bitOf (pf c.params 3 1) 0 with
  | 1, false => execCoreHalt c s
  | 1, true => execCoreResume c s
  | _, false => execHullHalt c s
  | _, true => execHullResume c s

/-- PWR_STATE by TARGET and STATE (R463). -/
def runPower (c : Cmd) (s : State) : Outcome :=
  match pf c.params 0 1, pf c.params 2 1 with
  | 1, 0 => execPodSleep c s
  | 1, _ => execPodWake c s
  | _, 0 => execDeviceActive c s
  | _, _ => execDeviceStandby c s

/-- Opcodes 0x0100–0x0402 (R430). -/
def runLow (k : HeldCmd) (s : State) : Option Outcome :=
  let c := k.cmd
  match k.op with
  | 0x0100 => some (execDevInfo c s)
  | 0x0101 => some (execDevHealth c s)
  | 0x0110 => some (execTimeSetLaunch c s)
  | 0x0111 => some (execTimeRead c s)
  | 0x0200 => some (execHullCreate c s)
  | 0x0201 => some (execHullGrant c s)
  | 0x0202 => some (execHullReclaim c s)
  | 0x0203 => some (execHullDestroy c s)
  | 0x0204 => some (execHullStatus c s)
  | 0x0300 => some (execProgLoad c k.img s)
  | 0x0301 => some (execProgStart c s)
  | 0x0302 => some (execProgStop c s)
  | 0x0303 => some (execProgQuery c s)
  | 0x0304 => some (execSvcCall c s)
  | 0x0305 => some (execProgEval c s)
  | 0x0400 => some (execMemCopy c s)
  | 0x0401 => some (execMemFill c s)
  | 0x0402 => some (execMemMapStatus c s)
  | _ => none

/-- Opcodes 0x0500–0x0A01 (R430). -/
def runHigh (k : HeldCmd) (s : State) : Option Outcome :=
  let c := k.cmd
  match k.op with
  | 0x0500 => some (execGrpWrite c s)
  | 0x0501 => some (execGrpActivate c s)
  | 0x0502 => some (execGrpRead c s)
  | 0x0510 => some (execLinkPlan c s)
  | 0x0511 => some (execLinkStatus c s)
  | 0x0600 => some (execAuStructLoad c s)
  | 0x0601 => some (execAuDelta c s)
  | 0x0602 => some (execAuSolve c s)
  | 0x0603 => some (execAuResult c s)
  | 0x0700 => some (execCkptBegin c s)
  | 0x0701 => some (execCkptStatus c s)
  | 0x0702 => some (execRestore c k.objects s)
  | 0x0703 => some (execShardExport c s)
  | 0x0800 => some (runTest c s)
  | 0x0801 => some (execTestContentLoad c s)
  | 0x0802 => some (execErrLogRead c s)
  | 0x0900 => some (execDbgAttach c s)
  | 0x0901 => some (execDbgPeek c s)
  | 0x0902 => some (runHalt c s)
  | 0x0A00 => some (runPower c s)
  | 0x0A01 => some (execPwrBudgetRead c s)
  | _ => none

/-- A command starts; an opcode outside the index is answered under R417. -/
def State.runCmd (s : State) (k : HeldCmd) : State :=
  match runLow k s with
  | some o => nextState s o
  | none =>
    match runHigh k s with
    | some o => nextState s o
    | none => s.packet k.cmd k.op fun s => s

/-- Opcodes with the HULL byte first in their parameters. -/
def hullOpcodes : List Nat :=
  [0x0110, 0x0200, 0x0201, 0x0202, 0x0203, 0x0204, 0x0300, 0x0301, 0x0302, 0x0303, 0x0304, 0x0305, 0x0400, 0x0401] ++
  [0x0500, 0x0501, 0x0502, 0x0600, 0x0601, 0x0602, 0x0603, 0x0700, 0x0701, 0x0702, 0x0703, 0x0900]

/-- The hulls that a command names (R421): in its HULL field; a loan also names its lender. -/
def hullsNamed (op : Nat) (c : Cmd) : List Nat :=
  let first := if hullOpcodes.contains op then [pf c.params 0 1]
    else if op = 0x0901 ∨ (op = 0x0902 ∧ pf c.params 0 1 = 0) then [pf c.params 1 1] else []
  (first ++ (if op = 0x0201 ∧ pf c.params 1 1 = 1 then [pf c.params 2 1] else [])).filter isHull

/-- May a fetched command of a ring start (R421)? No earlier command of the ring that names one of its hulls is unreplied; with FENCE,
no earlier one at all. -/
def Ring.mayStart (x : Ring) (k : HeldCmd) : Bool :=
  let same := fun (q : Cmd × Nat) => q.1 == k.cmd && q.2 == k.op
  let before := x.inProgress.takeWhile fun q => !same q
  let twin := decide ((x.held.filter fun q => same (q.cmd, q.op)).length < (x.inProgress.filter same).length)
  let hulls := hullsNamed k.op k.cmd
  let fence := bitOf k.cmd.flags.toNat 1
  if fence then before.isEmpty && !twin
  else !(twin && !hulls.isEmpty) && before.all fun q => (hullsNamed q.2 q.1).all fun h => !hulls.contains h

/-- Firmware serves commands: power, no recovery, and in FAILED the management island, which serves rings only (R448). -/
def State.serves (s : State) (c : Nat) : Bool :=
  s.rst.dev != .cold && s.rst.dev != .recovering && !(s.core c).halted

/-- The commands that may start now, of every ring and endpoint. -/
def State.startable (s : State) : List HeldCmd :=
  ((upFrom 0 8).flatMap fun r =>
    let x := s.ring r
    if s.serves x.core then x.held.filter x.mayStart else [])
  ++ ((upFrom 0 16).flatMap fun e =>
    let x := s.endp e
    if s.serves x.core then x.held else [])

/-- The one served first: by fetch GTC, then ORIGIN (R421). -/
def firstCmd : List HeldCmd → Option HeldCmd
  | [] => none
  | k :: r =>
    match firstCmd r with
    | some q => if q.gtc < k.gtc ∨ (q.gtc = k.gtc ∧ originByte q.cmd.org < originByte k.cmd.org) then some q else some k
    | none => some k

/-- Copies of a held command among those that may start. -/
def State.copies (s : State) (k : HeldCmd) : Nat := (s.startable.filter (· == k)).length

/-- Starts commands that may start, up to a number of them; one that a map-out holds (R199) stays held, and those after it are tried. -/
def State.startSome : Nat → List HeldCmd → State → State
  | 0, _, s => s
  | n + 1, tried, s =>
    match firstCmd (s.startable.filter fun k => !tried.contains k) with
    | some k =>
      let t := s.runCmd k
      State.startSome n (if s.copies k ≤ t.copies k then k :: tried else tried) t
    | none => s

/-- The fetch of an entry (R420): in ring order, while the reply ring has room and fewer than 64 commands are in progress. -/
def State.fetch (s : State) (r : Nat) (pcieError : Bool) (img : Option Image) (objects : List (List Byte)) (m : List Meet) : State :=
  let x := s.ring r
  let due := ixDiff x.rtail x.rhead + x.inProgress.length
  match x.state with
  | .running =>
    if !s.serves x.core ∨ x.chead = x.ctail ∨ due ≥ 2 ^ x.rplLog2 ∨ x.inProgress.length ≥ 64 then s
    else if pcieError ∨ !s.board.perstN then s.ringFault r
    else
      let p := packetOf (.ring r) (s.hostRead (x.cbase.toNat + 64 * (x.chead.toNat % 2 ^ x.cmdLog2)) 64) [] m
      let k : HeldCmd := { cmd := p.2, op := p.1, gtc := s.time.gtc, img := img, objects := objects }
      s.setRing r { x with chead := x.chead + 1, inProgress := x.inProgress ++ [(p.2, p.1)], held := x.held ++ [k] }
  | _ => s

/-- COMMAND_FETCH: firmware fetches, and evaluates what R421 lets start. -/
def execCommandFetch (r : Nat) (pcieError : Bool) (img : Option Image) (objects : List (List Byte)) (m : List Meet) (s : State) : Outcome :=
  .next (if r < 8 then State.startSome 8 [] (s.fetch r pcieError img objects m) else s)

/-! ## Datagrams (R425, R426) -/

/-- The source address lies in the endpoint's prefix. -/
def Endpoint.inPrefix (x : Endpoint) (src : BitVec 128) : Bool :=
  let a := beNat (natLe 8 x.addrLo.toNat ++ natLe 8 x.addrHi.toNat)
  let d := 2 ^ (128 - x.prefixLen)
  src.toNat / d == a / d

/-- DATAGRAM_ARRIVAL: filtered, deduplicated, accepted and evaluated. -/
def execDatagramArrival (e : Nat) (src : BitVec 128) (sport : Half) (bytes : List Byte) (m : List Meet) (s : State) : Outcome :=
  .next (
    let x := s.endp e
    let n := fieldLe bytes 8 2
    if e ≥ 16 ∨ !x.enable ∨ s.rst.dev = .cold ∨ s.rst.dev = .recovering ∨ s.sec.state = 2 then s
    else if !x.inPrefix src ∨ n > 1024 ∨ bytes.length ≠ 64 + n then
      (s.setEndp e { x with dropped := min 0xFFFF (x.dropped + 1) }).hevent 9
    else
      let p := packetOf (.udp e) (bytes.take 64) (bytes.drop 64) m
      let s := (s.setEndp e { x with accepted := min 0xFFFFFFFF (x.accepted + 1) }).signal (privKey x.core (16 + e))
      let x := s.endp e
      match x.recent.find? (fun q => q.1 == p.2.tag) with
      | some q =>
        let s := s.setEndp e { x with duplicates := min 0xFFFF (x.duplicates + 1) }
        match q.2.1 with
        | some b => s.emit (.datagram e src sport b)
        | none => s
      | none =>
        let k : HeldCmd := { cmd := p.2, op := p.1, gtc := s.time.gtc, img := none, objects := [] }
        State.startSome 8 [] (s.setEndp e { x with recent := ((p.2.tag, none, src, sport) :: x.recent).take 64, held := x.held ++ [k] }))

end Sys2Proof.Machine
end

