-- ==== Sys2Proof/Machine/Cycle.lean ====
section
/-!
DEFINITION. The tile-clock cycle that passes when no command waits (R44, R45, R66, R68, R70, R80, R93, R99, R102, R107, R123, R402;
log entry 2): shifts and transfers advance, latencies count down, results become usable, the GTC counts.
-/

namespace Sys2Proof.Machine

/-! ## The GTC (R44, R45, R464) -/

/-- The length of a tile-clock cycle in eighteenths of a nanosecond: 1.2 GHz, and 900, 600 and 300 MHz under throttle. -/
def State.cycleLen (s : State) : Nat :=
  match s.board.throttle with
  | 0 => 15
  | 1 => 20
  | 2 => 30
  | _ => 60

/-- SLEW_PPM in force: 0 is taken as 1, values above 1,000 as 1,000. -/
def State.slewPpm (s : State) : Nat := min 1000 (max 1 (s.regF 0x010018 9 0))

/-- Time passes: whole nanoseconds count, and a correction is slewed in. -/
def TimeS.pass (t : TimeS) (len ppm : Nat) : TimeS :=
  let n := (t.frac + len) / 18
  let f := (t.frac + len) % 18
  if t.slew = 0 then { t with gtc := (t.gtc + n) % 2 ^ 64, frac := f, slewAcc := 0 }
  else
    let a := t.slewAcc + n * ppm
    let k := min (min (a / 1000000) n) t.slew.natAbs
    let t := { t with frac := f, slewAcc := a % 1000000 }
    if 0 < t.slew then { t with gtc := (t.gtc + n + k) % 2 ^ 64, slew := t.slew - k }
    else { t with gtc := (t.gtc + n - k) % 2 ^ 64, slew := t.slew + k }

/-! ## Tiles of a cycle -/

/-- Keys of tiles with a property, in order of their logical tile (R59). -/
def State.tilesBy (s : State) (f : Nat → Bool) : List Nat :=
  let l := (s.tiles.map (·.1)).filter f
  l.foldl (fun acc t =>
    (acc.takeWhile fun u => (s.tile u).lam ≤ (s.tile t).lam) ++ [t] ++ acc.dropWhile fun u => (s.tile u).lam ≤ (s.tile t).lam) []

/-- A tile at its marker whose shifts go on, because a bank switch waits for them (R77). -/
def State.drainsAtMarker (s : State) (t : Nat) : Bool :=
  let x := s.tile t
  s.onTimetable t && x.atMarker && x.switchPending && x.slots == 0

/-- An effect on tiles that are still live. -/
def State.forLive (s : State) (ts : List Nat) (f : State → Nat → State) : State :=
  ts.foldl (fun (s : State) t => if (s.tile t).live then f s t else s) s

/-- The matrix array and the V1 transfer of a tile move on. -/
def State.beat (s : State) (t : Nat) : State :=
  let s := s.shiftBeat t
  if (s.tile t).live then s.xferBeat t else s

/-! ## The pod network (R65, R66, R132) -/

/-- A tile's transfer of this cycle: the ports it leaves and reaches (0–15 tiles, 16 the pod store, 17 and 18 the engines), the
tile, and the granule's run, none for an A.AUCMD block. -/
structure Xfer where
  pod : Nat
  src : Nat
  port : Nat
  tile : Nat
  run : Option PutRun
  deriving DecidableEq, Repr

/-- The transfers of the tiles that issue in this cycle. -/
def State.xfers (s : State) (ts : List Nat) : List Xfer :=
  (ts.flatMap fun t => (s.tile t).puts.map fun r => ⟨podOf t, if r.get then 16 else t % 16, r.port, t, some r⟩)
  ++ (s.aus.flatMap fun a => (a.2.sent.filter fun c => c.1 == 6).map fun c => ⟨a.1 / 2, c.2.2 % 16, 17 + a.1 % 2, c.2.2, none⟩)

/-- Two transfers that reach one destination port (R65, R66), or leave one port: 64 bytes per port and direction (R64, log entry 75). -/
def Xfer.clash (x y : Xfer) : Bool := x.pod == y.pod && (x.port == y.port || x.src == y.src)

/-- The transfers that meet another. -/
def collide (l : List Xfer) : List Xfer := l.filter fun x => (l.filter x.clash).length ≥ 2

/-- The tiles that record NET_COLLISION for transfers at one destination port: that tile, else every sending tile (R66). -/
def Xfer.hit (bad : List Xfer) (x : Xfer) : List Nat :=
  if x.port < 16 ∧ (bad.filter fun y => y.pod == x.pod && y.port == x.port).length ≥ 2 then [16 * x.pod + x.port]
  else (bad.filter x.clash).map (·.tile)

/-- NET_COLLISION is recorded in each pod it happened in, with one record a pod; the pod's hull stops (R66, R79). -/
def State.collision (s : State) (bad : List Xfer) : State :=
  (dedup (bad.map (·.pod))).foldl (fun (s : State) p =>
    match dedup ((bad.filter (·.pod == p)).flatMap (Xfer.hit bad)) with
    | [] => s
    | t :: r => (r.foldl (fun (s : State) u => s.updTile u fun x => x.fault tfCollision none) s).contract t tfCollision) s

/-- A granule of a tile's run moves. -/
def State.xferMove (s : State) (x : Xfer) : State :=
  match x.run with
  | some r => if (s.tile x.tile).live then s.putBeat x.tile r else s
  | none => s

/-- A transfer that met another is not delivered: an A.AUCMD block is lost. -/
def State.xferDrop (s : State) (x : Xfer) : State :=
  match x.run with
  | some _ => s
  | none =>
    let a := 2 * x.pod + (x.port - 17)
    let e := s.eng a
    s.setEng a { e with sent := e.sent.filter fun c => !(c.1 == 6 && c.2.2 == x.tile) }

/-- The transfers of a cycle: those that meet no other move; the others are not delivered and are recorded. -/
def State.transfers (s : State) (ts : List Nat) : State :=
  let l := s.xfers ts
  let bad := collide l
  let s := (l.filter fun x => !bad.contains x).foldl State.xferMove s
  let s := (bad.foldl State.xferDrop s).collision bad
  s.forLive ts fun s t => s.updTile t Tile.putsNext

/-! ## Ausolin engines (R80, R226, R229, R249) -/

/-- A computing TILE-mode engine charges its tokens, through stalls and holds (R226, R229). One in CMD mode is metered where it starts, at
its AU_ command (log entry 93). -/
def State.engineCharge (s : State) (a : Nat) : State :=
  let e := s.eng a
  match e.queue with
  | c :: _ =>
    match c.tile with
    | some t => if e.tileMode ∧ e.phase = 2 ∧ c.done ∧ s.engineRuns a then s.charge t 16 id else s
    | none => s
  | [] => s

/-- The ports of a pod that tiles' transfers of this cycle use: reached, and left. -/
def portsUsed (l : List Xfer) (p : Nat) : List Nat × List Nat :=
  ((l.filter (·.pod == p)).map (·.port), (l.filter (·.pod == p)).map (·.src))

/-- A cycle of an engine (R226): in the compute phase it counts, holds or not; outside holds a fetch or write-back moves one
granule where its ports are free (log entry 76), and the last granule written becomes readable 10 cycles later (R249). -/
def State.engineBeat (s : State) (used : List Nat × List Nat) (held : Bool) (a : Nat) : State × (List Nat × List Nat) :=
  let e := s.eng a
  let p := a / 2
  match e.queue with
  | [] => (s, used)
  | c :: _ =>
    if !s.engineRuns a then (s, used)
    else if e.phase = 1 then
      if held || used.1.contains (17 + a % 2) || used.2.contains 16 then (s, used)
      else
        let at_ := fieldLe c.block 0xC 4 + e.fetched.length
        let e := { e with fetched := e.fetched ++ getBytes (s.pod p).store at_ 64, left := e.left - 1 }
        (s.setEng a { e with phase := if e.left = 0 then 2 else 1 }, ((17 + a % 2) :: used.1, 16 :: used.2))
    else if e.phase = 2 then
      if !c.done then (s, used)
      else if e.left ≤ 1 then ((s.setEng a { e with left := 0 }).ausWriteStart a c, used)
      else (s.setEng a { e with left := e.left - 1 }, used)
    else if held then (s, used)
    else if e.left = 0 then (s.setEng a { e with settle := e.settle - 1 }, used)
    else if used.1.contains 16 || used.2.contains (17 + a % 2) then (s, used)
    else
      let out := c.output
      let k := ceilDiv out.length 64 - e.left
      let s := s.land1 p { left := 10, port := 16, addr := fieldLe c.block 0x14 4 + 64 * k, bytes := (out.drop (64 * k)).take 64 }
      (s.setEng a { e with left := e.left - 1, settle := 9 }, (16 :: used.1, (17 + a % 2) :: used.2))

/-- The engines of a pod in this cycle, engine 0 first. -/
def State.engineBeats (s : State) (l : List Xfer) (held : Bool) (p : Nat) : State :=
  let r := s.engineBeat (portsUsed l p) held (2 * p)
  (r.1.engineBeat r.2 held (2 * p + 1)).1

/-- Blocks on their way to an engine come one cycle nearer; those that arrive are accepted. -/
def State.engineArrive (s : State) (a : Nat) : State :=
  let e := s.eng a
  if e.sent.isEmpty then s
  else
    let near := e.sent.map fun c => (c.1 - 1, c.2)
    let s := s.setEng a { e with sent := near.filter fun c => c.1 != 0 }
    (near.filter fun c => c.1 == 0).foldl (fun (s : State) c => if (s.tile c.2.2).live then s.ausAccept a c.2.1 c.2.2 else s) s

/-! ## Pods (R68, R78, R83, R102, R132) -/

/-- A pod's cycle ends: its clock counts, its banks are free again. -/
def Pod.next (x : Pod) : Pod :=
  { x with cycle := x.cycle + 1, tickCycle := x.tickCycle + 1, banks := [],
           ledger := x.ledger.filter fun c => decide (x.cycle + 1 < c.1 + ledgerWindow) }

/-- The latencies of a pod's network and sync operations count, outside holds; what arrives takes effect, sync operations in source order. -/
def State.podBeat (s : State) (p : Nat) : State :=
  let x := s.pod p
  let ls := x.landings.map fun l => { l with left := l.left - 1 }
  let rs := x.reqs.map fun r => { r with left := r.left.map (· - 1) }
  let s := s.setPod p { x with landings := ls.filter fun l => l.left != 0, reqs := rs.filter fun r => r.left != some 0 }
  let s := (ls.filter fun l => l.left == 0).foldl (fun (s : State) l => s.landNow p l) s
  let due := rs.filter fun r => r.left == some 0
  let due := due.foldl (fun acc r => (acc.takeWhile fun q => q.src ≤ r.src) ++ [r] ++ acc.dropWhile fun q => q.src ≤ r.src) []
  let s := due.foldl (fun (s : State) r => s.syncEffect r) s
  (s.engineArrive (2 * p)).engineArrive (2 * p + 1)

/-! ## Stalls and hang timers (R70, R402) -/

/-- The hull of a pod is held by firmware, halted, or waits for a map-out of one of its units. -/
def State.timersPaused (s : State) (h : Nat) : Bool :=
  let x := s.hull h
  x.state != .running || x.holds != 0 || x.halted
    || (match s.mem.mapout with | some u => (s.unit u).hull == h | none => false)

/-- Time counted against a tile's stall. -/
def State.stallTime (s : State) (len t : Nat) : State :=
  let x := s.tile t
  if (x.wait.isSome ∨ x.syncWait.isSome) ∧ !x.frozen ∧ s.inService ∧ !s.timersPaused (s.pod (podOf t)).hull then
    s.setTile t { x with waited := x.waited + len }
  else s

/-! ## The end of an issue cycle (R93, R123) -/

/-- The next bundle to fetch: the branch target, else the one that follows. -/
def Tile.advance (x : Tile) : Tile :=
  match x.branch with
  | some b => { x with pc := b, branch := none, past := false }
  | none => if x.pc.toNat = 8191 then { x with past := true } else { x with pc := x.pc + 1 }

/-- An issue cycle of a tile ends. -/
def State.endIssue (s : State) (t : Nat) : State :=
  let s := s.updTile t fun x => x.cvtBeat.advance.age
  s.reseedPoint t

/-- A tile that issues in the cycle that begins: what has come lands; a bundle past bundle 8,191 (R123), or one that is not validly
encoded (R78, R92), is BAD_BUNDLE, and no slot of it is performed. The slots of a bundle come as commands of their own: one that a
state-dependent rule refuses leaves what earlier slots of the cycle did (log entry 92). -/
def State.beginIssue (s : State) (t : Nat) : State :=
  if !s.issuesNow t then s
  else
    let s := s.enter t
    let x := s.tile t
    if x.past || !bundleOk x.bundle then (s.setTile t { x with slots := 0x7F }).contract t tfBadBundle else s

/-- Program stops asked for at once take effect when no hold is in force (R433). -/
def State.stopNow (s : State) (h : Nat) : State :=
  match (s.hull h).prog with
  | some p => if (s.hull h).state = .running ∧ (s.hull h).free ∧ p.stops.any (·.1) then s.stopHull h 1 sDONE false else s
  | none => s

/-- One cycle of the tile clock. Which of several activations of a cycle overdraws a pod's share is not stated (R83): the model charges
V0 at its slot's command, then engines, then arrays in the order of their tiles (log entry 88). -/
def State.cycle (s : State) : State :=
  if s.rst.dev = .cold then s
  else
    let issuing := s.tilesBy s.issuesNow
    let marker := s.tilesBy s.drainsAtMarker
    let len := s.cycleLen
    let pods := s.pods.map (·.1)
    let held := pods.filter fun p => (s.pod p).hold != 0
    let moving := s.xfers issuing
    let s := (s.aus.map (·.1)).foldl State.engineCharge s
    let s := s.forLive marker fun s t => (s.updTile t fun x => { x with banks := [] }).shiftBeat t
    let s := (s.forLive issuing State.beat).transfers issuing
    let s := s.forLive issuing State.endIssue
    let s := (s.tiles.map (·.1)).foldl (fun (s : State) t =>
      let x := s.tile t
      let s := if x.resumeIn = 0 then s else s.setTile t { x with resumeIn := x.resumeIn - 1 }
      s.stallTime len t) s
    let s := pods.foldl (fun (s : State) p => s.engineBeats moving (held.contains p) p) s
    let s := pods.foldl (fun (s : State) p =>
      let s := s.setPod p (s.pod p).next
      if held.contains p then s.setPod p { s.pod p with hold := (s.pod p).hold - 1 } else s.podBeat p) s
    let s := (hullNos.foldl State.stopNow s).freezeFaults
    let s := State.startSome 8 [] s
    let s := { s with time := s.time.pass len s.slewPpm }
    (s.tilesBy s.issuesNow).foldl State.beginIssue s

end Sys2Proof.Machine
end

