-- ==== Sys2Proof/Machine/Dispatch.lean ====
section
/-! DEFINITION. One arm per command: each calls its meaning. -/

namespace Sys2Proof.Machine

def exec (i : Instr) (s : State) : Host.Outcome State Fault Refusal :=
  match i with
  | .mLdw t wb fmt sb off e => Sys2Proof.Machine.execMLdw t wb fmt sb off e s
  | .mMma t acc wb fmtA z sb off rows1 e r => Sys2Proof.Machine.execMMma t acc wb fmtA z sb off rows1 e r s
  | .mDrain t acc fmtO rnd sb off rows1 z => Sys2Proof.Machine.execMDrain t acc fmtO rnd sb off rows1 z s
  | .mDrv t acc vd row8 => Sys2Proof.Machine.execMDrv t acc vd row8 s
  | .mAccld t acc vs row8 int => Sys2Proof.Machine.execMAccld t acc vs row8 int s
  | .mZero t acc => Sys2Proof.Machine.execMZero t acc s
  | .vFma t f => Sys2Proof.Machine.execVFma t f s
  | .vAdd t f => Sys2Proof.Machine.execVAdd t f s
  | .vSub t f => Sys2Proof.Machine.execVSub t f s
  | .vMul t f => Sys2Proof.Machine.execVMul t f s
  | .vMax t f => Sys2Proof.Machine.execVMax t f s
  | .vMin t f => Sys2Proof.Machine.execVMin t f s
  | .vCmp t f => Sys2Proof.Machine.execVCmp t f s
  | .vSel t f => Sys2Proof.Machine.execVSel t f s
  | .vAnd t f => Sys2Proof.Machine.execVAnd t f s
  | .vOr t f => Sys2Proof.Machine.execVOr t f s
  | .vXor t f => Sys2Proof.Machine.execVXor t f s
  | .vShl t f => Sys2Proof.Machine.execVShl t f s
  | .vShr t f => Sys2Proof.Machine.execVShr t f s
  | .vSra t f => Sys2Proof.Machine.execVSra t f s
  | .vRcp t f => Sys2Proof.Machine.execVRcp t f s
  | .vRsq t f => Sys2Proof.Machine.execVRsq t f s
  | .vSqrt t f => Sys2Proof.Machine.execVSqrt t f s
  | .vExp2 t f => Sys2Proof.Machine.execVExp2 t f s
  | .vLog2 t f => Sys2Proof.Machine.execVLog2 t f s
  | .vGsum t f => Sys2Proof.Machine.execVGsum t f s
  | .vLd t f e => Sys2Proof.Machine.execVLd t f e s
  | .vSt t f => Sys2Proof.Machine.execVSt t f s
  | .vCvt t f => Sys2Proof.Machine.execVCvt t f s
  | .vPerm t f => Sys2Proof.Machine.execVPerm t f s
  | .vBcast t f => Sys2Proof.Machine.execVBcast t f s
  | .vDraw t f => Sys2Proof.Machine.execVDraw t f s
  | .vLgzero t f => Sys2Proof.Machine.execVLgzero t f s
  | .vLgacc t f => Sys2Proof.Machine.execVLgacc t f s
  | .vLgrd t f => Sys2Proof.Machine.execVLgrd t f s
  | .vLgfold t f => Sys2Proof.Machine.execVLgfold t f s
  | .vLgexp t f => Sys2Proof.Machine.execVLgexp t f s
  | .vLgimp t f => Sys2Proof.Machine.execVLgimp t f s
  | .sAdd t f => Sys2Proof.Machine.execSAdd t f s
  | .sSub t f => Sys2Proof.Machine.execSSub t f s
  | .sMul t f => Sys2Proof.Machine.execSMul t f s
  | .sAnd t f => Sys2Proof.Machine.execSAnd t f s
  | .sOr t f => Sys2Proof.Machine.execSOr t f s
  | .sXor t f => Sys2Proof.Machine.execSXor t f s
  | .sShl t f => Sys2Proof.Machine.execSShl t f s
  | .sShr t f => Sys2Proof.Machine.execSShr t f s
  | .sSra t f => Sys2Proof.Machine.execSSra t f s
  | .sMin t f => Sys2Proof.Machine.execSMin t f s
  | .sMax t f => Sys2Proof.Machine.execSMax t f s
  | .sMinu t f => Sys2Proof.Machine.execSMinu t f s
  | .sMaxu t f => Sys2Proof.Machine.execSMaxu t f s
  | .sLi t f => Sys2Proof.Machine.execSLi t f s
  | .sLih t f => Sys2Proof.Machine.execSLih t f s
  | .sAddi t f => Sys2Proof.Machine.execSAddi t f s
  | .sShli t f => Sys2Proof.Machine.execSShli t f s
  | .sShri t f => Sys2Proof.Machine.execSShri t f s
  | .sCeq t f => Sys2Proof.Machine.execSCeq t f s
  | .sCne t f => Sys2Proof.Machine.execSCne t f s
  | .sClt t f => Sys2Proof.Machine.execSClt t f s
  | .sCge t f => Sys2Proof.Machine.execSCge t f s
  | .sCltu t f => Sys2Proof.Machine.execSCltu t f s
  | .sCgeu t f => Sys2Proof.Machine.execSCgeu t f s
  | .sPand t f => Sys2Proof.Machine.execSPand t f s
  | .sPor t f => Sys2Proof.Machine.execSPor t f s
  | .sPandn t f => Sys2Proof.Machine.execSPandn t f s
  | .sLd t f e => Sys2Proof.Machine.execSLd t f e s
  | .sSt t f => Sys2Proof.Machine.execSSt t f s
  | .sBr t s1 pg target => Sys2Proof.Machine.execSBr t s1 pg target s
  | .sRdstat t f => Sys2Proof.Machine.execSRdstat t f s
  | .sSetfl t f => Sys2Proof.Machine.execSSetfl t f s
  | .sDraw t f => Sys2Proof.Machine.execSDraw t f s
  | .aEnq t pg q sd sx e => Sys2Proof.Machine.execAEnq t pg q sd sx e s
  | .aWait t pg q n => Sys2Proof.Machine.execAWait t pg q n s
  | .aWaitm t pg mask => Sys2Proof.Machine.execAWaitm t pg mask s
  | .aQstat t pg q rd => Sys2Proof.Machine.execAQstat t pg q rd s
  | .aPut t pg ss sdst port n1 e => Sys2Proof.Machine.execAPut t pg ss sdst port n1 e s
  | .aPget t pg ss sdst n1 e => Sys2Proof.Machine.execAPget t pg ss sdst n1 e s
  | .aAucmd t pg sd eng e => Sys2Proof.Machine.execAAucmd t pg sd eng e s
  | .ySignal t f => Sys2Proof.Machine.execYSignal t f s
  | .yAcq t f => Sys2Proof.Machine.execYAcq t f s
  | .yArrive t f => Sys2Proof.Machine.execYArrive t f s
  | .yBarr t f => Sys2Proof.Machine.execYBarr t f s
  | .yLease t f => Sys2Proof.Machine.execYLease t f s
  | .yRelease t f => Sys2Proof.Machine.execYRelease t f s
  | .yBufget t f => Sys2Proof.Machine.execYBufget t f s
  | .yBufput t f => Sys2Proof.Machine.execYBufput t f s
  | .yEot t f => Sys2Proof.Machine.execYEot t f s
  | .yBsw t f => Sys2Proof.Machine.execYBsw t f s
  | .syncRequestArrive a => Sys2Proof.Machine.execSyncRequestArrive a s
  | .leaseBreak id => Sys2Proof.Machine.execLeaseBreak id s
  | .descriptorRetire t q slot e retries => Sys2Proof.Machine.execDescriptorRetire t q slot e retries s
  | .mapoutCopyComplete u ok => Sys2Proof.Machine.execMapoutCopyComplete u ok s
  | .refresh u => Sys2Proof.Machine.execRefresh u s
  | .refreshHot tierB ix hot tempC => Sys2Proof.Machine.execRefreshHot tierB ix hot tempC s
  | .scrubBlock u row e retries => Sys2Proof.Machine.execScrubBlock u row e retries s
  | .reduce src mismatch m => Sys2Proof.Machine.execReduce src mismatch m s
  | .reduceHoldRelease k m => Sys2Proof.Machine.execReduceHoldRelease k m s
  | .update src mismatch m => Sys2Proof.Machine.execUpdate src mismatch m s
  | .scatterAdd src mismatch m => Sys2Proof.Machine.execScatterAdd src mismatch m s
  | .nmuDigest src m => Sys2Proof.Machine.execNmuDigest src m s
  | .verify src m => Sys2Proof.Machine.execVerify src m s
  | .snapshot src m => Sys2Proof.Machine.execSnapshot src m s
  | .nmuDelta src m => Sys2Proof.Machine.execNmuDelta src m s
  | .nmuZero src m => Sys2Proof.Machine.execNmuZero src m s
  | .nmuScrub src e => Sys2Proof.Machine.execNmuScrub src e s
  | .ausLoad a e => Sys2Proof.Machine.execAusLoad a e s
  | .ausDelta a e => Sys2Proof.Machine.execAusDelta a e s
  | .factor a e => Sys2Proof.Machine.execFactor a e s
  | .solve a e => Sys2Proof.Machine.execSolve a e s
  | .refine a e => Sys2Proof.Machine.execRefine a e s
  | .invroot a e => Sys2Proof.Machine.execInvroot a e s
  | .qpIp a e => Sys2Proof.Machine.execQpIp a e s
  | .qpAdmm a e => Sys2Proof.Machine.execQpAdmm a e s
  | .ausFree a => Sys2Proof.Machine.execAusFree a s
  | .engineComplete a => Sys2Proof.Machine.execEngineComplete a s
  | .tickBegin h m => Sys2Proof.Machine.execTickBegin h m s
  | .extractionComplete h m => Sys2Proof.Machine.execExtractionComplete h m s
  | .segmentAck h seg => Sys2Proof.Machine.execSegmentAck h seg s
  | .rollbackComplete h m => Sys2Proof.Machine.execRollbackComplete h m s
  | .timeGtcSet v => Sys2Proof.Machine.execTimeGtcSet v s
  | .timeMessage offset => Sys2Proof.Machine.execTimeMessage offset s
  | .launchFire h => Sys2Proof.Machine.execLaunchFire h s
  | .timeTickCfg v => Sys2Proof.Machine.execTimeTickCfg v s
  | .throttleChange die tjC => Sys2Proof.Machine.execThrottleChange die tjC s
  | .flitReceive b f => Sys2Proof.Machine.execFlitReceive b f s
  | .messageReceive b m => Sys2Proof.Machine.execMessageReceive b m s
  | .bundleRetrain b => Sys2Proof.Machine.execBundleRetrain b s
  | .laneLoss b lane => Sys2Proof.Machine.execLaneLoss b lane s
  | .trainingComplete b lanes peerFid peerOwner peerPlanOwner => Sys2Proof.Machine.execTrainingComplete b lanes peerFid peerOwner peerPlanOwner s
  | .downTimeout b => Sys2Proof.Machine.execDownTimeout b s
  | .jvDisable v => Sys2Proof.Machine.execJvDisable v s
  | .collOpStart h op m => Sys2Proof.Machine.execCollOpStart h op m s
  | .chunkReceive h k m => Sys2Proof.Machine.execChunkReceive h k m s
  | .lateDecision h op => Sys2Proof.Machine.execLateDecision h op s
  | .decisionMessage h d => Sys2Proof.Machine.execDecisionMessage h d s
  | .exactRecord h r => Sys2Proof.Machine.execExactRecord h r s
  | .heartbeat h group => Sys2Proof.Machine.execHeartbeat h group s
  | .suspect h group pos => Sys2Proof.Machine.execSuspect h group pos s
  | .reformProposal h group lostPos proposer votes => Sys2Proof.Machine.execReformProposal h group lostPos proposer votes s
  | .reformDecision h group lostPos firstOp step => Sys2Proof.Machine.execReformDecision h group lostPos firstOp step s
  | .twinFeed h k m => Sys2Proof.Machine.execTwinFeed h k m s
  | .twinDigest h shard role step digest => Sys2Proof.Machine.execTwinDigest h shard role step digest s
  | .layerCopy h shard layer m => Sys2Proof.Machine.execLayerCopy h shard layer m s
  | .placementRequest h gens forced => Sys2Proof.Machine.execPlacementRequest h gens forced s
  | .placementSetting h g step => Sys2Proof.Machine.execPlacementSetting h g step s
  | .resendRequest h requester g step => Sys2Proof.Machine.execResendRequest h requester g step s
  | .reclaimForceTimeout h => Sys2Proof.Machine.execReclaimForceTimeout h s
  | .foldPoint h => Sys2Proof.Machine.execFoldPoint h s
  | .evacuationComplete h => Sys2Proof.Machine.execEvacuationComplete h s
  | .evacuationTimeout h => Sys2Proof.Machine.execEvacuationTimeout h s
  | .quiesceComplete h => Sys2Proof.Machine.execQuiesceComplete h s
  | .scrubComplete h failA failB => Sys2Proof.Machine.execScrubComplete h failA failB s
  | .drainEnd h => Sys2Proof.Machine.execDrainEnd h s
  | .probeRunEnd pass tile check => Sys2Proof.Machine.execProbeRunEnd pass tile check s
  | .queueTimeout t => Sys2Proof.Machine.execQueueTimeout t s
  | .syncTimeout t => Sys2Proof.Machine.execSyncTimeout t s
  | .runaway t => Sys2Proof.Machine.execRunaway t s
  | .overrunRun h => Sys2Proof.Machine.execOverrunRun h s
  | .recoveryComplete tr => Sys2Proof.Machine.execRecoveryComplete tr s
  | .warmReset capture => Sys2Proof.Machine.execWarmReset capture s
  | .rstCfg v => Sys2Proof.Machine.execRstCfg v s
  | .collCfg v => Sys2Proof.Machine.execCollCfg v s
  | .hullCfg v => Sys2Proof.Machine.execHullCfg v s
  | .pwrHshare h v => Sys2Proof.Machine.execPwrHshare h v s
  | .secCfg v => Sys2Proof.Machine.execSecCfg v s
  | .attGo h => Sys2Proof.Machine.execAttGo h s
  | .doorbell r v => Sys2Proof.Machine.execDoorbell r v s
  | .commandFetch r pcieError img objects m => Sys2Proof.Machine.execCommandFetch r pcieError img objects m s
  | .cmdRhead r v => Sys2Proof.Machine.execCmdRhead r v s
  | .ringEnable r v => Sys2Proof.Machine.execRingEnable r v s
  | .ringDisable r v => Sys2Proof.Machine.execRingDisable r v s
  | .endpointEnable e v => Sys2Proof.Machine.execEndpointEnable e v s
  | .datagramArrival e src sport bytes m => Sys2Proof.Machine.execDatagramArrival e src sport bytes m s
  | .icClaim c => Sys2Proof.Machine.execIcClaim c s
  | .icComplete c id => Sys2Proof.Machine.execIcComplete c id s
  | .clrPending c id => Sys2Proof.Machine.execClrPending c id s
  | .setPending c id => Sys2Proof.Machine.execSetPending c id s
  | .holdoffExpire c id => Sys2Proof.Machine.execHoldoffExpire c id s
  | .coreIdle c => Sys2Proof.Machine.execCoreIdle c s
  | .devInfo c => Sys2Proof.Machine.execDevInfo c s
  | .devHealth c => Sys2Proof.Machine.execDevHealth c s
  | .timeSetLaunch c => Sys2Proof.Machine.execTimeSetLaunch c s
  | .timeRead c => Sys2Proof.Machine.execTimeRead c s
  | .hullCreate c => Sys2Proof.Machine.execHullCreate c s
  | .hullGrant c => Sys2Proof.Machine.execHullGrant c s
  | .hullReclaim c => Sys2Proof.Machine.execHullReclaim c s
  | .hullDestroy c => Sys2Proof.Machine.execHullDestroy c s
  | .hullStatus c => Sys2Proof.Machine.execHullStatus c s
  | .progLoad c img => Sys2Proof.Machine.execProgLoad c img s
  | .progStart c => Sys2Proof.Machine.execProgStart c s
  | .progStop c => Sys2Proof.Machine.execProgStop c s
  | .progQuery c => Sys2Proof.Machine.execProgQuery c s
  | .svcCall c => Sys2Proof.Machine.execSvcCall c s
  | .serviceAnswer h svc m => Sys2Proof.Machine.execServiceAnswer h svc m s
  | .serviceDeadline h svc => Sys2Proof.Machine.execServiceDeadline h svc s
  | .progEval c => Sys2Proof.Machine.execProgEval c s
  | .memCopy c => Sys2Proof.Machine.execMemCopy c s
  | .memFill c => Sys2Proof.Machine.execMemFill c s
  | .memMapStatus c => Sys2Proof.Machine.execMemMapStatus c s
  | .grpWrite c => Sys2Proof.Machine.execGrpWrite c s
  | .grpActivate c => Sys2Proof.Machine.execGrpActivate c s
  | .grpRead c => Sys2Proof.Machine.execGrpRead c s
  | .linkPlan c => Sys2Proof.Machine.execLinkPlan c s
  | .linkStatus c => Sys2Proof.Machine.execLinkStatus c s
  | .auStructLoad c => Sys2Proof.Machine.execAuStructLoad c s
  | .auDelta c => Sys2Proof.Machine.execAuDelta c s
  | .auSolve c => Sys2Proof.Machine.execAuSolve c s
  | .auResult c => Sys2Proof.Machine.execAuResult c s
  | .ckptBegin c => Sys2Proof.Machine.execCkptBegin c s
  | .ckptStatus c => Sys2Proof.Machine.execCkptStatus c s
  | .restore c objects => Sys2Proof.Machine.execRestore c objects s
  | .shardExport c => Sys2Proof.Machine.execShardExport c s
  | .probePod c => Sys2Proof.Machine.execProbePod c s
  | .probeNmu c => Sys2Proof.Machine.execProbeNmu c s
  | .bypassPod c => Sys2Proof.Machine.execBypassPod c s
  | .releasePod c => Sys2Proof.Machine.execReleasePod c s
  | .mapoutUnit c => Sys2Proof.Machine.execMapoutUnit c s
  | .bypassBundle c => Sys2Proof.Machine.execBypassBundle c s
  | .releaseBundle c => Sys2Proof.Machine.execReleaseBundle c s
  | .testContentLoad c => Sys2Proof.Machine.execTestContentLoad c s
  | .errLogRead c => Sys2Proof.Machine.execErrLogRead c s
  | .dbgAttach c => Sys2Proof.Machine.execDbgAttach c s
  | .dbgPeek c => Sys2Proof.Machine.execDbgPeek c s
  | .hullHalt c => Sys2Proof.Machine.execHullHalt c s
  | .hullResume c => Sys2Proof.Machine.execHullResume c s
  | .coreHalt c => Sys2Proof.Machine.execCoreHalt c s
  | .coreResume c => Sys2Proof.Machine.execCoreResume c s
  | .deviceStandby c => Sys2Proof.Machine.execDeviceStandby c s
  | .deviceActive c => Sys2Proof.Machine.execDeviceActive c s
  | .podSleep c => Sys2Proof.Machine.execPodSleep c s
  | .podWake c => Sys2Proof.Machine.execPodWake c s
  | .pwrBudgetRead c => Sys2Proof.Machine.execPwrBudgetRead c s
  | .sleepEntryComplete p => Sys2Proof.Machine.execSleepEntryComplete p s
  | .wakeTimer p => Sys2Proof.Machine.execWakeTimer p s
  | .wakeComplete p => Sys2Proof.Machine.execWakeComplete p s
  | .pwrEnHigh refclkSel slotId => Sys2Proof.Machine.execPwrEnHigh refclkSel slotId s
  | .startUpEnd tr => Sys2Proof.Machine.execStartUpEnd tr s
  | .perst level => Sys2Proof.Machine.execPerst level s
  | .leak level => Sys2Proof.Machine.execLeak level s
  | .coolant inletC outletC flow kpa => Sys2Proof.Machine.execCoolant inletC outletC flow kpa s
  | .thermalTrip die tjC outletC => Sys2Proof.Machine.execThermalTrip die tjC outletC s
  | .bar0InvalidAccess addr size write => Sys2Proof.Machine.execBar0InvalidAccess addr size write s
  | .rcRead a off => Sys2Proof.Machine.execRcRead a off s
  | .registerWrite a off v => Sys2Proof.Machine.execRegisterWrite a off v s
  | .storeTimeout h => Sys2Proof.Machine.execStoreTimeout h s
  | .newTwinLost h => Sys2Proof.Machine.execNewTwinLost h s
  | .ethPortStateChange port up => Sys2Proof.Machine.execEthPortStateChange port up s
  | .coreTimer c => Sys2Proof.Machine.execCoreTimer c s
  | .testAccessInstruction ti => Sys2Proof.Machine.execTestAccessInstruction ti s
  | .recordPushAck collector => Sys2Proof.Machine.execRecordPushAck collector s
  | .collectorRetry collector reachable => Sys2Proof.Machine.execCollectorRetry collector reachable s
  | .queuePairError h port => Sys2Proof.Machine.execQueuePairError h port s
  | .peerSignalDetect b => Sys2Proof.Machine.execPeerSignalDetect b s
  | .vendorExpiry h => Sys2Proof.Machine.execVendorExpiry h s
  | .timeMessageTimeout => Sys2Proof.Machine.execTimeMessageTimeout s
  | .holdoverTimeout => Sys2Proof.Machine.execHoldoverTimeout s
  | .privRetry => Sys2Proof.Machine.execPrivRetry s
  | .probeTimeout => Sys2Proof.Machine.execProbeTimeout s
  | .fwWatchdog => Sys2Proof.Machine.execFwWatchdog s
  | .watchdogWarning => Sys2Proof.Machine.execWatchdogWarning s
  | .captureComplete => Sys2Proof.Machine.execCaptureComplete s
  | .recoveryTimeout => Sys2Proof.Machine.execRecoveryTimeout s
  | .readmit => Sys2Proof.Machine.execReadmit s
  | .capRelease => Sys2Proof.Machine.execCapRelease s
  | .attDone => Sys2Proof.Machine.execAttDone s
  | .startPhaseTimeout => Sys2Proof.Machine.execStartPhaseTimeout s
  | .powerRemoval => Sys2Proof.Machine.execPowerRemoval s
  | .inputUndervoltage => Sys2Proof.Machine.execInputUndervoltage s
  | .timeMessageSend => Sys2Proof.Machine.execTimeMessageSend s
  | .railOutOfRegulation => Sys2Proof.Machine.execRailOutOfRegulation s

end Sys2Proof.Machine
end

