-- ==== Sys2Proof/Safety.lean ====
section
/-!
DEFINITION. What the statements speak of: the memories' canonical form, what no command changes, the anti-rollback rule of probe
content (R390), and the states that a command is said to answer, written out field by field.
-/

namespace Sys2Proof.Machine

/-- A table of blocks in canonical form: keys rising, no unwritten block listed, each block's data in canonical form. -/
def blksWf (t : Tbl Blk) : Bool := twf Blk.unwritten t && t.all fun kb => twf 0 kb.2.data

/-- The memory tiers and host memory are in canonical form: keys rising, no entry equal to what an unlisted key reads as. -/
def State.dramWf (s : State) : Bool := blksWf s.mem.a && blksWf s.mem.b && twf 0 s.host

/-- What is fixed in the module: fuses, identity and provisioned keys (R3, R447, R453). -/
structure Fixed where
  fused : BitVec 8
  serial : BitVec 128
  enterprise : Word32
  jep106 : Half
  contentKey : BitVec 768
  debugKey : BitVec 768
  certDigest : BitVec 384
  islandDigest : BitVec 384
  deriving DecidableEq, Repr

/-- The fixed part of a state. -/
def State.fixed (s : State) : Fixed :=
  { fused := s.board.fused, serial := s.board.serial, enterprise := s.board.enterprise, jep106 := s.board.jep106,
    contentKey := s.sec.contentKey, debugKey := s.sec.debugKey, certDigest := s.sec.certDigest, islandDigest := s.sec.islandDigest }

/-- What almost every operation leaves as it is: the queue, the fixed part, the probe slots and their highest versions. -/
structure Kept where
  pending : List Instr
  fixed : Fixed
  slots : Tbl SlotS
  maxVersion : Tbl Nat
  deriving DecidableEq, Repr

/-- That part of a state. -/
def State.kept (s : State) : Kept :=
  { pending := s.pending, fixed := s.fixed, slots := s.slots, maxVersion := s.maxVersion }

/-- No probe slot holds content older than the highest version ever loaded for its kind allowed (R390): a slot's VERSION is at most
the highest. -/
def State.contentOk (s : State) : Prop :=
  ∀ k e, tfind s.slots k = some e → e.version ≤ tget 0 s.maxVersion e.kind

/-! ## Slots of a bundle (R91–R94, R119, R120) -/

/-- The bundle that the tile issues in this cycle can take slot `k` with these destinations: the tile issues, no later slot was
taken, and no slot of the bundle names one of the destinations. -/
def State.canIssue (s : State) (t k : Nat) (ds : List (Nat × Nat)) : Prop :=
  s.slotOpen t k = true ∧ ds.any (s.tile t).dests.contains = false

/-- An invalid bundle: no further slot of it is performed, and the hull stops with BAD_BUNDLE (R79, R92). -/
def State.badBundle (s : State) (t : Nat) : State := (s.setTile t { s.tile t with slots := 0x7F }).contract t tfBadBundle

/-- What a read of a tile store meets that can still go on (R72). -/
def State.afterRead (s : State) (t : Nat) (e : Ecc) : State := if e = .corrected then s.storeCe (podOf t) else s

/-- The tile with slot `k` of its bundle issued. -/
def Tile.took (x : Tile) (k : Nat) (ds : List (Nat × Nat)) : Tile :=
  { x with slots := x.slots ||| BitVec.ofNat 7 (2 ^ k), dests := ds ++ x.dests }

/-- The tile with a result on its way that is usable `lat` issue cycles later (R93). -/
def Tile.due (x : Tile) (lat : Nat) (d : Dest) : Tile :=
  { x with pend := pendInsert { left := lat, stamp := x.cyc, dest := d } x.pend }

/-- The same, with flags that come with the result. -/
def Tile.dueF (x : Tile) (lat : Nat) (d : Dest) (f : Flg) : Tile :=
  if f = 0 then x.due lat d else (x.due lat d).due lat (.flags f)

/-! ## Scalar slots -/

/-- The state after a scalar instruction whose result goes to s[rd] `lat` cycles later: nothing but its tile's slot, destinations
and results on their way differs. -/
def State.scalarDone (s : State) (t : Nat) (s1 : Bool) (rd : BitVec 5) (lat : Nat) (v : Word) : State :=
  s.setTile t (((s.tile t).took (scalarSlot s1) (scalarDest dkS rd.toNat)).due lat (.sreg rd.toNat v))

/-- Likewise for a result that goes to p[pd]. -/
def State.predDone (s : State) (t : Nat) (s1 : Bool) (pd : BitVec 3) (v : Bool) : State :=
  s.setTile t (((s.tile t).took (scalarSlot s1) (scalarDest dkP pd.toNat)).due 1 (.preg pd.toNat v))

/-! ## Vector slots -/

/-- A V0 operation on the lanes GM selects has issued: GM 0b00 charges 12 tokens to the pod's ledger (R108), and the result comes
`lat` cycles later with the flags it raises. -/
def State.v0Done (s : State) (t : Nat) (f : V0) (lat : Nat) (r : Tbl Word32 × Flg) : State :=
  let y := s.pod (podOf t)
  let s' := s.setTile t (((s.tile t).took slV0 [(dkV, f.vd.toNat)]).dueF lat (.vreg f.vd.toNat r.1) r.2)
  if f.gm = 0 then
    s'.setPod (podOf t) { y with
      ledger := (y.ledger.filter fun c => decide (y.cycle < c.1 + 12000)) ++ [(y.cycle, 12)]
      peak := max y.peak (y.ledgerSum + 12) }
  else s'

/-- The slot V0 can issue the instruction, and the ledger holds the charge of an activation of all lanes. -/
def State.canV0 (s : State) (t : Nat) (f : V0) : Prop :=
  s.canIssue t slV0 [(dkV, f.vd.toNat)] ∧ (f.gm = 0 → (s.pod (podOf t)).ledgerSum + 12 ≤ 12000 * (s.pod (podOf t)).share)

/-- The selected lanes, each with the value `g` gives from lanes ℓ of va, vb and vc, and the flags of all of them. -/
def Tile.overLanes (x : Tile) (f : V0) (g : Nat → Nat → Nat → Nat × Flg) : Tbl Word32 × Flg :=
  laneMap (upFrom 0 (64 * gmGroups f.gm)) fun l =>
    g (x.lane f.va.toNat l).toNat (x.lane f.vb.toNat l).toNat (x.lane f.vc.toNat l).toNat

/-- The state after a V1 instruction whose result comes `lat` cycles later. -/
def State.v1Done (s : State) (t : Nat) (d : Nat × Nat) (lat : Nat) (r : Dest) (fl : Flg) : State :=
  s.setTile t (((s.tile t).took slV1 [d]).dueF lat r fl)

/-- The fields of the general form that an instruction does not use are zero (R111, R112). -/
def v1Only (f : V1G) (vd va vb lg imm6 : Bool) : Prop :=
  (vd ∨ f.vd = 0) ∧ (va ∨ f.va = 0) ∧ (vb ∨ f.vb = 0) ∧ (lg ∨ f.lg = 0) ∧ (imm6 ∨ f.imm6 = 0) ∧ f.fmtS = 0 ∧ f.rnd = 0 ∧ f.fmtD = 0

/-! ## Sync slot and sync homes (R133–R139) -/

/-- The state after a tile's operation on an object is on its way: 8 pod cycles to a home in its own pod, else over the spine. -/
def State.ySent (s : State) (t op : Nat) (ds : List (Nat × Nat)) (f : YF) (amount : Nat) (nowait : Bool) (rd : Nat) : State :=
  let x := s.tile t
  let p := podOf t
  let id := (x.sreg f.so).toNat % 2 ^ 14
  let own := match tfind s.sync id with | some o => o.pod == p | none => true
  let r : SyncReq := { left := if own then some 8 else none, tile := some t, src := x.lam, hull := (s.pod p).hull, op := op,
                       id := id, amount := amount, nowait := nowait, rd := rd, stamp := x.cyc, gtc := s.time.gtc }
  let waits := op == 2 || op == 4 || op == 5 || op == 7
  let s' := s.setTile t { x.took slY ds with
    syncsOut := x.syncsOut + 1
    syncWait := if waits then some (.sync id) else x.syncWait
    stallGtc := if waits then s.time.gtc else x.stallGtc
    waited := if waits then 0 else x.waited }
  if own then s'.setPod p { s.pod p with reqs := (s.pod p).reqs ++ [r] } else { s' with spine := s.spine ++ [r] }

/-- The semaphore after `n` more units and with its waiters served from the head: the value stays below what the first one left
waits for (R135). -/
def SyncObj.settled (o : SyncObj) : Prop :=
  match o.waiters with
  | [] => True
  | r :: _ => r.op = 2 → o.value < r.amount

/-! ## Accesses to memory (R179, R196, R198, R199, R392) -/

/-- What a command notes of its accesses is gone when it ends. -/
def State.settled (s : State) : State := { s with mem := { s.mem with meets := [], lost := false, stuck := false } }

/-- Nothing is noted of an access. -/
def State.quiet (s : State) : Prop := s.mem.meets = [] ∧ s.mem.lost = false ∧ s.mem.stuck = false

/-- No unit is being copied for a map-out, so that no access is held (R199). -/
def State.noHold (s : State) : Prop := ∀ u, (s.unit u).copySource = false

/-- A block of a hull's window lies at a row of a unit that serves it: below LIMIT, assigned, not being copied, its near-memory unit's
probe not failed. -/
def State.servesAt (s : State) (h : Nat) (tierB : Bool) (wb u row : Nat) : Prop :=
  (s.hull h).find tierB wb = some (u, row) ∧ s.physAssigned (blockAddr (unitOf tierB u) row) = true ∧
    (s.unit (unitOf tierB u)).copySource = false ∧ s.unitFailed (unitOf tierB u) = false

/-- Such a block. -/
def State.served (s : State) (h : Nat) (tierB : Bool) (wb : Nat) : Prop := ∃ u row, s.servesAt h tierB wb u row

/-- Block `i` of a tensor in a window is served, passes its check, and a read of it leaves no trace (R195). -/
def State.clean (s : State) (h : Nat) (tierB : Bool) (base tensor i : Nat) : Prop :=
  ∃ u row, s.servesAt h tierB (base / 4096 + i) u row ∧
    (s.blk tierB (blkPer tierB * u + row)).check (some (huskTag tensor i)) = .pass ∧
    ((s.blk tierB (blkPer tierB * u + row)).isUnwritten = false ∨ (s.hull h).dbg = 0)

/-- Every block of a tensor's range in memory is clean. -/
def State.cleanRange (s : State) (h : Nat) (pr : Prog) (tensor off len : Nat) : Prop :=
  ∃ tierB base, pr.memPlace tensor = some (tierB, base) ∧ ∀ i ∈ blocksOf off len, s.clean h tierB base tensor i

/-- Every block of a byte range of a hull's window in tier B is served and passes its check, whatever its tag, and a read of it leaves no
trace: what firmware reads there (R203). -/
def State.windowClean (s : State) (h off len : Nat) : Prop :=
  ∀ i ∈ blocksOf off len, ∃ u row, s.servesAt h true i u row ∧ (s.blk true (blkPer true * u + row)).check none = .pass ∧
    ((s.blk true (blkPer true * u + row)).isUnwritten = false ∨ (s.hull h).dbg = 0)

/-- The bytes of such a range. -/
def State.windowBytes (s : State) (h off len : Nat) : List Byte := ((s.windowRead 0x0600 h true off len).2).getD []

/-! ## Near-memory requests (R210–R222) -/

/-- A request that waits for its unit and is taken there: its tensor lies in a tier of memory, and it is of the hull's placement
generation. No unit is being copied for a map-out. -/
def State.nmuReady (s : State) (op : Nat) (src : NmuSrc) (r : NReq) (pr : Prog) (tierB : Bool) (base : Nat) : Prop :=
  s.noHold ∧ s.nmuFind op src = some r ∧ (s.hull r.hull).prog = some pr ∧
    pr.memPlace r.desc.tensor = some (tierB, base) ∧ r.desc.pgen = (s.hull r.hull).pgen

/-- A contribution that its target can take: its request is in rule and in step with the target, it is not there already, and what it
carries passes its checks (R212, R214, R379). -/
def State.reduceFits (s : State) (src : NmuSrc) (r : NReq) (pr : Prog) (t : RTarget) : Prop :=
  let seq := reduceSeq r.desc.block
  (r.at_ = none → nmuOk r.desc.block 4 0 r.desc.length = true ∧ r.desc.offset + r.desc.length ≤ pr.bytesOf r.desc.tensor ∧
    r.desc.length % 256 = 0 ∧ r.desc.length = r.data.length ∧ r.desc.length ≠ 0) ∧
  seq < reduceCount r.desc.block ∧ t.count = reduceCount r.desc.block ∧ t.fmt = fieldLe r.desc.block 1 1 ∧
  t.start = reduceStart r.desc.block ∧ t.next ≤ seq ∧ tfind t.staged seq = none ∧
  remoteHusks s src r = none

/-- The target that a first contribution opens (R212). -/
def NReq.target (r : NReq) : RTarget :=
  { hull := r.hull, tensor := r.desc.tensor, offset := r.desc.offset, length := r.desc.length, count := reduceCount r.desc.block,
    fmt := fieldLe r.desc.block 1 1, start := reduceStart r.desc.block, next := 0, staged := [], owners := [], failed := [] }

/-- The target of a request: the open one, or the one it opens. -/
def State.targetOf (s : State) (r : NReq) : RTarget := (s.nmu.targets.find? fun t => t.isFor r).getD r.target

/-- There is room for the request at its units: for the target that it opens, and for a contribution ahead of its turn (R209). -/
def State.roomFor (s : State) (r : NReq) : Bool :=
  s.nmuRoom (s.targetOf r) (s.nmu.targets.find? fun t => t.isFor r).isNone (decide (reduceSeq r.desc.block ≠ (s.targetOf r).next))

/-- A target with one more tile that waits for it. -/
def RTarget.ownedBy (t : RTarget) (r : NReq) : RTarget :=
  match r.at_ with
  | some (tile, q, _) => { t with owners := t.owners ++ [(reduceSeq r.desc.block, tile, q)] }
  | none => t

/-- The state after a contribution that is its target's next, and those staged behind it: the target's part of memory holds the new
running values, and a target that is complete closes. -/
def State.reduceTaken (s : State) (src : NmuSrc) (r : NReq) (tierB : Bool) (base : Nat) : State :=
  let t := s.targetOf r
  let others := s.nmu.targets.filter fun t => !t.isFor r
  let o := State.reduceRun tierB base (t.staged.length + 1) (s.nmuTake src) (t.ownedBy r) r.data
  if o.2.2 then (((o.1.nmuEnd r sFAULT).stopHull r.hull 3 sFAULT true).raise 98)
  else if o.2.1.next = t.count then ({ o.1 with nmu := { o.1.nmu with targets := others } }).reduceDone o.2.1 tierB base
  else { o.1 with nmu := { o.1.nmu with targets := others ++ [o.2.1] } }

/-! ## Ausolin engines (R225–R257) -/

/-- An engine with its result at the head of the queue: its engine cycles run, then write-back follows; counts and events are those of
the status. -/
def State.ausAnswers (s : State) (a : Nat) (structs : Tbl AStruct) (c : ACmd) : State :=
  let e := s.eng a
  let c := { c with done := true }
  let v := s.setEng a { e with structs := structs, queue := c :: e.queue.drop 1, phase := 2, left := c.cycles }
  (if c.cycles = 0 then v.ausWriteStart a c else v).ausCount a c.status c.cycles

/-! ## Global time and throttle (R44–R49, R464) -/

/-- The time block with a message's offset taken note of. -/
def TimeS.heard (t : TimeS) (offset : Int) : TimeS :=
  { t with lastMsg := t.gtc, offset := max (-2147483648) (min offset 2147483647) }

/-! ## JV links (R283–R300) -/

/-- The bundle with a flit's counts taken, in the millisecond it came in. -/
def Bundle.counted (x : Bundle) (f : Flit) (gtc : Nat) : Bundle :=
  let y := x.window gtc
  { y with fec := min (y.fec + f.fecCorrected) 0xFFFFFFFF, msFec := y.msFec + f.fecCorrected,
           uncorr := if f.uncorrectable then min (y.uncorr + 1) 0xFF else y.uncorr }

/-! ## Collectives (R304–R328) -/

/-- An operation's run with its contribution acquired, and the one deferred into it. -/
def OpRun.acquired (r : OpRun) (gtc : Nat) (data : List Byte) (deferIn : Option (List Byte)) (rec : Option ExactRecord) : OpRun :=
  { r with starts := r.starts + 1, contrib := data, deferIn := deferIn, openGtc := if r.starts = 0 then gtc else r.openGtc,
           records := r.records ++ rec.toList }

/-- A run with a chunk taken in. -/
def OpRun.received (r : OpRun) (k : Chunk) (gtc : Nat) : OpRun :=
  { r with chunks := if r.chunks.any fun e => e.phase == k.phase && e.stage == k.stage && e.piece == k.piece && e.chunk == k.chunk
                          && e.sender == k.sender then r.chunks else r.chunks ++ [k],
           firstMsgGtc := some (r.firstMsgGtc.getD gtc) }

/-- A run that starts again with the alternate order (R324): nothing sent or landed, decisions void (R321). -/
def OpRun.redone (r : OpRun) (me : Nat) : OpRun :=
  { r with chunks := [], sent := [], pieces := [], lateCount := 0, decisions := [],
           records := r.records.filter fun k => k.pos == me }

/-! ## Folds, reclaims and destruction (R338–R351) -/

/-- A member position lies under a position of the tree, or is it. -/
def CCtx.under (c : CCtx) (fid : BitVec 24) (p : Nat) : Bool :=
  match (upFrom 0 c.n).find? fun q => c.fid q == fid with
  | some q => q == p || CCtx.below { c with g := { c.g with myPos := p } } q 8
  | none => false

/-! ## Registers (R7, R12, R14) and configuration (R90, R333, R359, R414, R447, R449) -/

/-- Registers that a write changes only as words (R12). -/
def wordRegs : List Nat :=
  [0x010018, 0x010028, 0x020008, 0x030010, 0x060008, 0x070008, 0x080008, 0x080010, 0x090008, 0x0A0008, 0x0A0020, 0x0B0008, 0x0C0008,
   0x0D0008, 0x0E0008, 0x0F0018, 0x000030]

/-! ## Command packets (R415–R418, R462) -/

/-- A command packet of an opcode is evaluated: firmware runs on its core, and the checks before the opcode's own rules pass (R417). Its
accesses to memory meet no error. -/
def State.serving (s : State) (c : Cmd) (op : Nat) : Prop :=
  c.meets = [] ∧ s.rst.dev ≠ .cold ∧ s.rst.dev ≠ .recovering ∧ (s.core (s.coreOf c)).halted = false ∧ s.preCheck c op = none

/-- The opcode and packet of a command that is one (R430). -/
def packetIn : Instr → Option (Nat × Cmd)
  | .devInfo c => some (0x0100, c) | .devHealth c => some (0x0101, c) | .timeSetLaunch c => some (0x0110, c)
  | .timeRead c => some (0x0111, c) | .hullCreate c => some (0x0200, c) | .hullGrant c => some (0x0201, c)
  | .hullReclaim c => some (0x0202, c) | .hullDestroy c => some (0x0203, c) | .hullStatus c => some (0x0204, c)
  | .progLoad c _ => some (0x0300, c) | .progStart c => some (0x0301, c) | .progStop c => some (0x0302, c)
  | .progQuery c => some (0x0303, c) | .svcCall c => some (0x0304, c) | .progEval c => some (0x0305, c)
  | .memCopy c => some (0x0400, c) | .memFill c => some (0x0401, c) | .memMapStatus c => some (0x0402, c)
  | .grpWrite c => some (0x0500, c) | .grpActivate c => some (0x0501, c) | .grpRead c => some (0x0502, c)
  | .linkPlan c => some (0x0510, c) | .linkStatus c => some (0x0511, c) | .auStructLoad c => some (0x0600, c)
  | .auDelta c => some (0x0601, c) | .auSolve c => some (0x0602, c) | .auResult c => some (0x0603, c)
  | .ckptBegin c => some (0x0700, c) | .ckptStatus c => some (0x0701, c) | .restore c _ => some (0x0702, c)
  | .shardExport c => some (0x0703, c) | .probePod c => some (0x0800, c) | .probeNmu c => some (0x0800, c)
  | .bypassPod c => some (0x0800, c) | .releasePod c => some (0x0800, c) | .mapoutUnit c => some (0x0800, c)
  | .bypassBundle c => some (0x0800, c) | .releaseBundle c => some (0x0800, c) | .testContentLoad c => some (0x0801, c)
  | .errLogRead c => some (0x0802, c) | .dbgAttach c => some (0x0900, c) | .dbgPeek c => some (0x0901, c)
  | .hullHalt c => some (0x0902, c) | .hullResume c => some (0x0902, c) | .coreHalt c => some (0x0902, c)
  | .coreResume c => some (0x0902, c) | .deviceStandby c => some (0x0A00, c) | .deviceActive c => some (0x0A00, c)
  | .podSleep c => some (0x0A00, c) | .podWake c => some (0x0A00, c) | .pwrBudgetRead c => some (0x0A01, c)
  | _ => none

/-- The header of a packet of an opcode is in rule: format, reserved bytes, flags, and no tail but a service request's by datagram. -/
def HeaderInRule (c : Cmd) (op : Nat) : Prop :=
  c.format = 1 ∧ c.flags.toNat < 4 ∧ c.resv = 0 ∧ (∀ r, c.org = .ring r → c.tailBytes = 0) ∧
    (∀ e, c.org = .udp e → c.flags = 0 ∧ (op ≠ 0x0304 → c.tailBytes = 0))

end Sys2Proof.Machine
end

