-- ==== Sys2Proof/WellFormed.lean ====
section
/-!
DEFINITION. Which commands name things that exist: the numbers of tiles, pods, units, hulls, rings and the sizes of what they carry.
The meanings are total without it; a sender of well-formed commands names no agent the block does not have.
-/

namespace Sys2Proof

/-- A physical tile, 16p + t (R4). -/
def tileNo (t : Nat) : Bool := decide (t < 128)
/-- A hull, 1–4 (R334). -/
def hullNo (h : Nat) : Bool := decide (1 ≤ h ∧ h ≤ 4)
/-- A pod, 0–7 (R4). -/
def podNo (p : Nat) : Bool := decide (p < 8)
/-- A die: 0 and 1 the compute dies, 2 the hub (R464). -/
def dieNo (d : Nat) : Bool := decide (d < 3)
/-- A bundle, 0–35 (R283). -/
def bundleNo (b : Nat) : Bool := decide (b < 36)
/-- An Ausolin engine, 0–15 (R225). -/
def engineNo (a : Nat) : Bool := decide (a < 16)
/-- A control core, 0–7 (R438). -/
def coreNo (c : Nat) : Bool := decide (c < 8)
/-- A host ring, 0–7 (R419). -/
def ringNo (r : Nat) : Bool := decide (r < 8)
/-- A UDP endpoint, 0–15 (R425). -/
def endpointNo (e : Nat) : Bool := decide (e < 16)
/-- A group-table id (R304). -/
def groupNo (g : Nat) : Bool := decide (g < 4096)
/-- A sync object id (R134). -/
def syncNo (i : Nat) : Bool := decide (i < 16384)
/-- An interrupt id that some source has (R438). -/
def irqNo (i : Nat) : Bool := decide (1 ≤ i ∧ i ≤ 1022)
/-- A queue and a place in it (R64). -/
def queueSlot (q slot : Nat) : Bool := decide (q < 8 ∧ slot < 64)

/-- A memory unit (R177, R180). -/
def MemUnit.wf : MemUnit → Bool
  | .a c => decide (c < 512)
  | .b j => decide (j < 64)

/-- A row of a unit: 4 KiB blocks (R177, R180). -/
def MemUnit.rows : MemUnit → Nat
  | .a _ => 261632
  | .b _ => 4186112

/-- The source of a near-memory request. -/
def NmuSrc.wf : NmuSrc → Bool
  | .desc t q slot => tileNo t && queueSlot q slot
  | .remote _ => true

/-- A command's origin (R416). -/
def Origin.wf : Origin → Bool
  | .ring r => ringNo r
  | .udp e => endpointNo e

/-- A packet carries as many tail bytes as its header says, or none where they could not be read (R415). -/
def Cmd.wf (c : Cmd) : Bool := c.org.wf && (c.tail.length == c.tailBytes.toNat || c.tail.isEmpty)

/-- A sync request: its source, its kind, its object (R133, R134). -/
def SyncArrival.wf : SyncArrival → Bool
  | .inFlight _ => true
  | .core _ h op id _ _ => hullNo h && decide (op < 16) && syncNo id

/-- Who accesses a register. -/
def Accessor.wf : Accessor → Bool
  | .host => true
  | .core c => coreNo c

/-- A mismatch of the array's residue check names a row, a column and a group (R104). -/
def Residue.wf : Residue → Bool
  | .agree => true
  | .mismatch r c g => decide (r < 128 ∧ c < 128 ∧ g < 8)

/-- A flit holds 252 bytes before its CRC (R284). -/
def Flit.wf (f : Flit) : Bool := f.bytes.length == 252

/-- A message names a class and a hull of its destination, and keeps the bounds of its header (R289). -/
def Msg.wf (m : Msg) : Bool := decide (m.cls < 5 ∧ m.dstHull ≤ 4 ∧ m.hops ≤ 4 ∧ m.body.length ≤ 69632)

/-- Readings of start-up name units, pods and lanes that exist (R296, R476, R480). -/
def Training.wf (t : Training) : Bool :=
  t.failA.all (decide <| · < 512) && t.failB.all (decide <| · < 64) && t.failPods.all podNo
    && t.spares.all (fun s => decide (s.1 < 512))

/-- The command names only what exists. -/
def Instr.wf : Instr → Bool
  | .mLdw t _ _ _ _ _ => tileNo t
  | .mMma t _ _ _ _ _ _ _ _ r => tileNo t && r.wf
  | .mDrain t _ _ _ _ _ _ _ => tileNo t
  | .mDrv t _ _ _ => tileNo t
  | .mAccld t _ _ _ _ => tileNo t
  | .mZero t _ => tileNo t
  | .vFma t _ | .vAdd t _ | .vSub t _ | .vMul t _ | .vMax t _ | .vMin t _ | .vCmp t _ | .vSel t _ | .vAnd t _ | .vOr t _
  | .vXor t _ | .vShl t _ | .vShr t _ | .vSra t _ | .vRcp t _ | .vRsq t _ | .vSqrt t _ | .vExp2 t _ | .vLog2 t _
  | .vGsum t _ => tileNo t
  | .vLd t _ _ => tileNo t
  | .vSt t _ => tileNo t
  | .vCvt t _ | .vPerm t _ | .vBcast t _ | .vDraw t _ | .vLgzero t _ | .vLgacc t _ | .vLgrd t _ | .vLgfold t _ | .vLgexp t _
  | .vLgimp t _ => tileNo t
  | .sAdd t _ | .sSub t _ | .sMul t _ | .sAnd t _ | .sOr t _ | .sXor t _ | .sShl t _ | .sShr t _ | .sSra t _ | .sMin t _
  | .sMax t _ | .sMinu t _ | .sMaxu t _ => tileNo t
  | .sLi t _ | .sLih t _ | .sAddi t _ | .sShli t _ | .sShri t _ => tileNo t
  | .sCeq t _ | .sCne t _ | .sClt t _ | .sCge t _ | .sCltu t _ | .sCgeu t _ => tileNo t
  | .sPand t _ | .sPor t _ | .sPandn t _ => tileNo t
  | .sLd t _ _ => tileNo t
  | .sSt t _ => tileNo t
  | .sBr t _ _ _ => tileNo t
  | .sRdstat t _ => tileNo t
  | .sSetfl t _ | .sDraw t _ => tileNo t
  | .aEnq t _ _ _ _ _ => tileNo t
  | .aWait t _ _ _ => tileNo t
  | .aWaitm t _ _ => tileNo t
  | .aQstat t _ _ _ => tileNo t
  | .aPut t _ _ _ _ _ _ => tileNo t
  | .aPget t _ _ _ _ _ => tileNo t
  | .aAucmd t _ _ _ _ => tileNo t
  | .ySignal t _ | .yAcq t _ | .yArrive t _ | .yBarr t _ | .yLease t _ | .yRelease t _ | .yBufget t _ | .yBufput t _ | .yEot t _
  | .yBsw t _ => tileNo t
  | .syncRequestArrive a => a.wf
  | .leaseBreak id => syncNo id
  | .descriptorRetire t q slot _ _ => tileNo t && queueSlot q slot
  | .mapoutCopyComplete u _ => u.wf
  | .refresh u => u.wf
  | .refreshHot tierB ix _ _ => decide (ix < if tierB then 16 else 8)
  | .scrubBlock u row _ _ => u.wf && decide (row < u.rows)
  | .reduce src _ _ | .update src _ _ | .scatterAdd src _ _ => src.wf
  | .reduceHoldRelease _ _ => true
  | .nmuDigest src _ | .verify src _ | .snapshot src _ | .nmuDelta src _ | .nmuZero src _ => src.wf
  | .nmuScrub src _ => src.wf
  | .ausLoad a _ | .ausDelta a _ | .factor a _ | .solve a _ | .refine a _ | .invroot a _ | .qpIp a _ | .qpAdmm a _ => engineNo a
  | .ausFree a | .engineComplete a => engineNo a
  | .tickBegin h _ | .extractionComplete h _ | .rollbackComplete h _ => hullNo h
  | .segmentAck h _ => hullNo h
  | .timeGtcSet _ => true
  | .timeMessage _ => true
  | .launchFire h => hullNo h
  | .timeTickCfg _ => true
  | .throttleChange d _ => dieNo d
  | .flitReceive b f => bundleNo b && f.wf
  | .messageReceive b m => bundleNo b && m.wf
  | .bundleRetrain b => bundleNo b
  | .laneLoss b lane => bundleNo b && decide (lane < 4)
  | .trainingComplete b _ _ _ _ => bundleNo b
  | .downTimeout b => bundleNo b
  | .jvDisable _ => true
  | .collOpStart h _ _ | .chunkReceive h _ _ | .lateDecision h _ => hullNo h
  | .decisionMessage h d => hullNo h && groupNo d.group
  | .exactRecord h r => hullNo h && groupNo r.group
  | .heartbeat h g => hullNo h && groupNo g
  | .suspect h g _ => hullNo h && groupNo g
  | .reformProposal h g _ _ _ => hullNo h && groupNo g
  | .reformDecision h g _ _ _ => hullNo h && groupNo g
  | .twinFeed h _ _ => hullNo h
  | .twinDigest h _ _ _ _ => hullNo h
  | .layerCopy h _ _ _ => hullNo h
  | .placementRequest h _ _ => hullNo h
  | .placementSetting h _ _ => hullNo h
  | .resendRequest h _ _ _ => hullNo h
  | .reclaimForceTimeout h | .foldPoint h | .evacuationComplete h | .evacuationTimeout h | .quiesceComplete h | .drainEnd h =>
    hullNo h
  | .scrubComplete h fa fb => hullNo h && fa.all (decide <| · < 512) && fb.all (decide <| · < 64)
  | .probeRunEnd _ tile _ => decide (tile < 16)
  | .queueTimeout t | .syncTimeout t | .runaway t => tileNo t
  | .overrunRun h => hullNo h
  | .recoveryComplete tr => tr.wf
  | .warmReset _ => true
  | .rstCfg _ | .collCfg _ | .hullCfg _ | .secCfg _ => true
  | .pwrHshare h _ => hullNo h
  | .attGo h => hullNo h.toNat
  | .doorbell r _ | .cmdRhead r _ | .ringEnable r _ | .ringDisable r _ => ringNo r
  | .commandFetch r _ _ _ _ => ringNo r
  | .endpointEnable e _ => endpointNo e
  | .datagramArrival e _ _ _ _ => endpointNo e
  | .icClaim c => coreNo c
  | .icComplete c _ => coreNo c
  | .clrPending c id | .setPending c id | .holdoffExpire c id => coreNo c && irqNo id
  | .coreIdle c => coreNo c
  | .devInfo c | .devHealth c | .timeSetLaunch c | .timeRead c | .hullCreate c | .hullGrant c | .hullReclaim c | .hullDestroy c
  | .hullStatus c => c.wf
  | .progLoad c _ => c.wf
  | .progStart c | .progStop c | .progQuery c | .svcCall c => c.wf
  | .serviceAnswer h _ _ | .serviceDeadline h _ => hullNo h
  | .progEval c | .memCopy c | .memFill c | .memMapStatus c | .grpWrite c | .grpActivate c | .grpRead c | .linkPlan c
  | .linkStatus c | .auStructLoad c | .auDelta c | .auSolve c | .auResult c | .ckptBegin c | .ckptStatus c => c.wf
  | .restore c _ => c.wf
  | .shardExport c | .probePod c | .probeNmu c | .bypassPod c | .releasePod c | .mapoutUnit c | .bypassBundle c | .releaseBundle c
  | .testContentLoad c | .errLogRead c | .dbgAttach c | .dbgPeek c | .hullHalt c | .hullResume c | .coreHalt c | .coreResume c
  | .deviceStandby c | .deviceActive c | .podSleep c | .podWake c | .pwrBudgetRead c => c.wf
  | .sleepEntryComplete p | .wakeTimer p | .wakeComplete p => podNo p
  | .pwrEnHigh _ _ => true
  | .startUpEnd tr => tr.wf
  | .perst _ | .leak _ => true
  | .coolant _ _ _ _ => true
  | .thermalTrip d _ _ => dieNo d
  | .bar0InvalidAccess _ _ _ => true
  | .rcRead a _ => a.wf
  | .registerWrite a _ _ => a.wf
  | .storeTimeout h | .newTwinLost h => hullNo h
  | .ethPortStateChange p _ => decide (p < 2)
  | .coreTimer c => coreNo c
  | .testAccessInstruction _ => true
  | .recordPushAck k => decide (k < 2)
  | .collectorRetry k _ => decide (k < 2)
  | .queuePairError h p => hullNo h && decide (p < 2)
  | .peerSignalDetect b => bundleNo b
  | .vendorExpiry h => decide (h ≤ 4)
  | .timeMessageTimeout | .holdoverTimeout | .privRetry | .probeTimeout | .fwWatchdog | .watchdogWarning | .captureComplete
  | .recoveryTimeout | .readmit | .capRelease | .attDone | .startPhaseTimeout | .powerRemoval | .inputUndervoltage
  | .timeMessageSend | .railOutOfRegulation => true

end Sys2Proof
end

