-- ==== Sys2Proof/Certificates/Slice0/Obligations.lean ====
section
/-!
DEFINITION. The statements for the provers. Each is about every state; what a command leaves as it is, is part of the state it is said
to answer. The states they speak of are named in Safety.
-/

open Sys2Proof Sys2Proof.Machine

/-! ## Scalar slots -/

/-- R122: each arithmetic operation of form R completes, its result usable after 1 cycle (S.MUL 3), for every guard that reads one. -/
def Obligations.ScalarArithmeticGivesItsResult : Prop :=
  ∀ (s : State) (t : Nat) (f : SR), s.canIssue t (scalarSlot f.s1) (scalarDest dkS f.rd.toNat) →
    (s.tile t).preg f.pg = true →
    let a := (s.tile t).sreg f.ra
    let b := (s.tile t).sreg f.rb
    let done := fun (lat : Nat) (v : Word) => (.next (s.scalarDone t f.s1 f.rd lat v) : Outcome)
    exec (.sAdd t f) s = done 1 (a + b) ∧ exec (.sSub t f) s = done 1 (a - b) ∧ exec (.sMul t f) s = done 3 (a * b) ∧
    exec (.sAnd t f) s = done 1 (a &&& b) ∧ exec (.sOr t f) s = done 1 (a ||| b) ∧ exec (.sXor t f) s = done 1 (a ^^^ b) ∧
    exec (.sShl t f) s = done 1 (a <<< (b.toNat % 64)) ∧ exec (.sShr t f) s = done 1 (a >>> (b.toNat % 64)) ∧
    exec (.sSra t f) s = done 1 (a.sshiftRight (b.toNat % 64)) ∧
    exec (.sMin t f) s = done 1 (if a.toInt ≤ b.toInt then a else b) ∧
    exec (.sMax t f) s = done 1 (if a.toInt ≤ b.toInt then b else a) ∧
    exec (.sMinu t f) s = done 1 (if a.toNat ≤ b.toNat then a else b) ∧
    exec (.sMaxu t f) s = done 1 (if a.toNat ≤ b.toNat then b else a)

/-- R122: the immediate operations of form I, comparisons of form C, and operations on predicates of form P. -/
def Obligations.ScalarImmediatesAndComparesGiveTheirResult : Prop :=
  (∀ (s : State) (t : Nat) (f : SI), s.canIssue t (scalarSlot f.s1) (scalarDest dkS f.rd.toNat) →
    (s.tile t).preg f.pg = true →
    let r := (s.tile t).sreg f.rd
    let done := fun (v : Word) => (.next (s.scalarDone t f.s1 f.rd 1 v) : Outcome)
    exec (.sLi t f) s = done (BitVec.ofInt 64 f.imm.toInt) ∧
    exec (.sLih t f) s = done (BitVec.ofNat 64 (r.toNat * 1024 + f.imm.toNat)) ∧
    exec (.sAddi t f) s = done (BitVec.ofInt 64 (r.toInt + f.imm.toInt)) ∧
    (f.imm.toNat < 64 → exec (.sShli t f) s = done (BitVec.ofNat 64 (r.toNat * 2 ^ f.imm.toNat)) ∧
      exec (.sShri t f) s = done (BitVec.ofNat 64 (r.toNat / 2 ^ f.imm.toNat)))) ∧
  ((∀ (s : State) (t : Nat) (f : SC), s.canIssue t (scalarSlot f.s1) (scalarDest dkP f.pd.toNat) →
    (s.tile t).preg f.pg = true →
    let a := (s.tile t).sreg f.ra
    let b := (s.tile t).sreg f.rb
    let done := fun (v : Bool) => (.next (s.predDone t f.s1 f.pd v) : Outcome)
    exec (.sCeq t f) s = done (decide (a = b)) ∧ exec (.sCne t f) s = done (decide (a ≠ b)) ∧
    exec (.sClt t f) s = done (decide (a.toInt < b.toInt)) ∧ exec (.sCge t f) s = done (decide (a.toInt ≥ b.toInt)) ∧
    exec (.sCltu t f) s = done (decide (a.toNat < b.toNat)) ∧ exec (.sCgeu t f) s = done (decide (a.toNat ≥ b.toNat))) ∧
  (∀ (s : State) (t : Nat) (f : SP), s.canIssue t (scalarSlot f.s1) (scalarDest dkP f.pd.toNat) →
    (s.tile t).preg f.pg = true →
    let a := (s.tile t).preg f.pa
    let b := (s.tile t).preg f.pb
    let done := fun (v : Bool) => (.next (s.predDone t f.s1 f.pd v) : Outcome)
    exec (.sPand t f) s = done (a && b) ∧ exec (.sPor t f) s = done (a || b) ∧ exec (.sPandn t f) s = done (a && !b)))

/-- R122, R72, R73, R78: S.LD reads and S.ST writes the eight bytes at (ra + rb) mod 2^22 with bits [2:0] zero. An access to data of
an uncovered descriptor or to a bank already accessed in the cycle is a contract failure. -/
def Obligations.ScalarLoadAndStoreAccessTheTileStore : Prop :=
  ∀ (s : State) (t : Nat) (f : SR), (s.tile t).preg f.pg = true →
    let x := s.tile t
    let a := (x.sreg f.ra + x.sreg f.rb).toNat % 2 ^ 22 / 8 * 8
    let ld := x.took (scalarSlot f.s1) (scalarDest dkS f.rd.toNat)
    let st := x.took (scalarSlot f.s1) []
    (s.canIssue t (scalarSlot f.s1) (scalarDest dkS f.rd.toNat) →
      (∀ e, x.inFlight false a 8 = true → exec (.sLd t f e) s = .next ((s.setTile t ld).contract t tfInFlight)) ∧
      (∀ e, x.inFlight false a 8 = false → ld.access (granules a 8) [] = none →
        exec (.sLd t f e) s = .next ((s.setTile t ld).contract t tfBank)) ∧
      (∀ y, x.inFlight false a 8 = false → ld.access (granules a 8) [] = some y →
        let got : Dest := .sreg f.rd.toNat (BitVec.ofNat 64 (leNat (x.tsRead a 8)))
        exec (.sLd t f .ok) s = .next (s.setTile t (y.due 5 got)) ∧
        exec (.sLd t f .corrected) s = .next (((s.setTile t y).storeCe (podOf t)).setTile t (y.due 5 got)) ∧
        exec (.sLd t f .uncorrectable) s = .next ((s.setTile t y).storeUe t a))) ∧
    (s.canIssue t (scalarSlot f.s1) [] →
      (x.inFlight true a 8 = true → exec (.sSt t f) s = .next ((s.setTile t st).contract t tfInFlight)) ∧
      (x.inFlight true a 8 = false → st.access (granules a 8) [] = none →
        exec (.sSt t f) s = .next ((s.setTile t st).contract t tfBank)) ∧
      (∀ y, x.inFlight true a 8 = false → st.access (granules a 8) [] = some y →
        exec (.sSt t f) s = .next (s.setTile t (y.due 5 (.store a (natLe 8 (x.sreg f.rd).toNat))))))

/-- R123, R124, R125: branch in S0 only; status items; the flags and the draw context of the tile. -/
def Obligations.ScalarControlInstructionsComplete : Prop :=
  ∀ (s : State) (t : Nat),
    (∀ (pg : BitVec 3) (target : BitVec 13), s.canIssue t slS0 [] → (s.tile t).preg pg = true →
      exec (.sBr t false pg target) s = .next (s.setTile t { (s.tile t).took slS0 [] with branch := some target })) ∧
    (∀ (pg : BitVec 3) (target : BitVec 13), s.slotOpen t slS1 = true →
      exec (.sBr t true pg target) s = .next (s.badBundle t)) ∧
    (∀ (f : SI), s.canIssue t (scalarSlot f.s1) (scalarDest dkS f.rd.toNat) → (s.tile t).preg f.pg = true → f.imm.toNat < 8 →
      let x := ((s.tile t).took (scalarSlot f.s1) (scalarDest dkS f.rd.toNat)).due 1 (.sreg f.rd.toNat (s.statItem t f.imm.toNat))
      exec (.sRdstat t f) s = .next (s.setTile t
        { x with syncStatus := if f.imm.toNat = 5 then 0 else x.syncStatus, flags := if f.imm.toNat = 7 then 0 else x.flags })) ∧
    (∀ (f : SR), s.canIssue t (scalarSlot f.s1) [] → (s.tile t).preg f.pg = true → f.rd = 0 → f.rb = 0 →
      let fl : Flg := ((s.tile t).sreg f.ra).truncate 7
      let x := (s.tile t).took (scalarSlot f.s1) []
      exec (.sSetfl t f) s = .next (s.setTile t (if fl = 0 then x else x.due 1 (.flags fl)))) ∧
    (∀ (f : SR) (p : Prog), s.canIssue t (scalarSlot f.s1) [] → (s.tile t).preg f.pg = true → f.rd = 0 →
      (s.hull (s.pod (podOf t)).hull).prog = some p →
      let d : Half := ((s.tile t).sreg f.ra).truncate 16
      let x := (s.tile t).took (scalarSlot f.s1) []
      exec (.sDraw t f) s = if p.domains.contains d.toNat
        then .next (s.setTile t (x.due 1 (.drawCtx d (((s.tile t).sreg f.rb).truncate 20))))
        else .next ((s.setTile t x).contract t tfBound))

/-- R119, R120, R91: an instruction whose guard is 0 takes its slot and destination and does nothing else; one whose destination another
slot of the bundle names is a contract failure, and the bundle performs no later slot. -/
def Obligations.GuardsAndDestinationsDecideTheIssue : Prop :=
  (∀ (s : State) (t : Nat) (g : BitVec 3), (s.tile t).preg g = false →
    let took := fun (k : Nat) (ds : List (Nat × Nat)) => (.next (s.setTile t ((s.tile t).took k ds)) : Outcome)
    (∀ (f : SR), f.pg = g → s.canIssue t (scalarSlot f.s1) (scalarDest dkS f.rd.toNat) →
      let u := took (scalarSlot f.s1) (scalarDest dkS f.rd.toNat)
      exec (.sAdd t f) s = u ∧ exec (.sMul t f) s = u ∧ exec (.sShl t f) s = u ∧ ∀ e, exec (.sLd t f e) s = u) ∧
    (∀ (f : SR), f.pg = g → s.canIssue t (scalarSlot f.s1) [] → exec (.sSt t f) s = took (scalarSlot f.s1) []) ∧
    (∀ (target : BitVec 13), s.canIssue t slS0 [] → exec (.sBr t false g target) s = took slS0 []) ∧
    (s.canIssue t slA [] → (∀ q sd sx e, exec (.aEnq t g q sd sx e) s = took slA []) ∧ (∀ q n, exec (.aWait t g q n) s = took slA []) ∧
      ∀ sd eng e, exec (.aAucmd t g sd eng e) s = took slA []) ∧
    (∀ (f : YF), f.pg = g → f.imm ≠ 0 → s.canIssue t slY [] →
      exec (.ySignal t f) s = took slY [] ∧ exec (.yAcq t f) s = took slY []) ∧
    (∀ (f : YF), f.pg = g → f.imm = 0 → s.canIssue t slY [] →
      exec (.yArrive t f) s = took slY [] ∧ exec (.yBarr t f) s = took slY [] ∧ exec (.yLease t f) s = took slY [] ∧
      exec (.yRelease t f) s = took slY [])) ∧
  (∀ (s : State) (t : Nat) (f : SR) (g : V0), f.rd ≠ 0 →
    (s.slotOpen t (scalarSlot f.s1) = true → (dkS, f.rd.toNat) ∈ (s.tile t).dests →
      exec (.sAdd t f) s = .next (s.badBundle t) ∧ exec (.sMax t f) s = .next (s.badBundle t)) ∧
    (s.slotOpen t slV0 = true → (dkV, g.vd.toNat) ∈ (s.tile t).dests →
      exec (.vAdd t g) s = .next (s.badBundle t) ∧ exec (.vFma t g) s = .next (s.badBundle t) ∧
      exec (.vGsum t g) s = .next (s.badBundle t)))

/-! ## Vector slots -/

/-- R109, R110, R160, R161: arithmetic in FP32 (FMT 0), on two BF16 values a lane (FMT 1), and in INT32 (FMT 2), where sums,
differences and products wrap and V.MAX and V.MIN are signed. -/
def Obligations.VectorArithmeticGivesEveryLane : Prop :=
  ∀ (s : State) (t : Nat) (f : V0), s.canV0 t f → f.imm = 0 →
    let x := s.tile t
    let done := fun (lat : Nat) (g : Nat → Nat → Nat → Nat × Flg) => (.next (s.v0Done t f lat (x.overLanes f g)) : Outcome)
    let fp := fun (op : Val → Val → Val → Val × Flg) =>
      if f.fmt = 0 then inFmt fp32 op else onHalves (inFmt bf16 op)
    (f.fmt.toNat < 2 → exec (.vFma t f) s = done 4 (fp vFma)) ∧
    (f.vc = 0 → f.fmt.toNat < 2 →
      exec (.vAdd t f) s = done 4 (fp fun a b _ => vAdd a b) ∧
      exec (.vSub t f) s = done 4 (fp fun a b _ => vAdd a (vNeg b)) ∧
      exec (.vMul t f) s = done 4 (fp fun a b _ => vMul a b) ∧
      exec (.vMax t f) s = done 2 (fp fun a b _ => (vMaxOf a b, 0)) ∧
      exec (.vMin t f) s = done 2 (fp fun a b _ => (vMinOf a b, 0))) ∧
    (f.vc = 0 → f.fmt = 2 →
      let i32 := fun (g : Word32 → Word32 → Word32) (a b _ : Nat) => ((g (BitVec.ofNat 32 a) (BitVec.ofNat 32 b)).toNat, (0 : Flg))
      exec (.vAdd t f) s = done 4 (i32 (· + ·)) ∧ exec (.vSub t f) s = done 4 (i32 (· - ·)) ∧
      exec (.vMul t f) s = done 4 (i32 (· * ·)) ∧
      exec (.vMax t f) s = done 2 (i32 fun a b => if a.toInt ≤ b.toInt then b else a) ∧
      exec (.vMin t f) s = done 2 (i32 fun a b => if a.toInt ≤ b.toInt then a else b))

/-- R109, R110: V.CMP's seven conditions, all ones or zero in each lane (each half in BF16, the model's log entry 11); selection,
bitwise operations and shifts act on raw lanes and raise no flag. -/
def Obligations.VectorComparesAndBitOperationsGiveEveryLane : Prop :=
  (∀ (s : State) (t : Nat) (f : V0), s.canV0 t f → f.vc = 0 → f.imm.toNat < 7 →
    let x := s.tile t
    let fp := fun (fm : FFmt) (w : Nat) (a b _ : Nat) =>
      ((if condF f.imm.toNat (decodeF fm a) (decodeF fm b) then 2 ^ w - 1 else 0 : Nat), (0 : Flg))
    (f.fmt = 0 → exec (.vCmp t f) s = .next (s.v0Done t f 2 (x.overLanes f (fp fp32 32)))) ∧
    (f.fmt = 1 → exec (.vCmp t f) s = .next (s.v0Done t f 2 (x.overLanes f (onHalves (fp bf16 16))))) ∧
    (f.fmt = 2 → exec (.vCmp t f) s = .next (s.v0Done t f 2 (x.overLanes f fun a b _ =>
      ((if condI f.imm.toNat (BitVec.ofNat 32 a).toInt (BitVec.ofNat 32 b).toInt then 2 ^ 32 - 1 else 0 : Nat), 0))))) ∧
  (∀ (s : State) (t : Nat) (f : V0), s.canV0 t f → f.fmt = 0 →
    let x := s.tile t
    let done := fun (g : Nat → Nat → Nat → Nat) =>
      (.next (s.v0Done t f 2 (x.overLanes f fun a b c => (g a b c, 0))) : Outcome)
    let w := fun (a : Nat) => BitVec.ofNat 32 a
    (f.imm = 0 → exec (.vSel t f) s = done (fun a b c => if c ≠ 0 then a else b)) ∧
    (f.imm = 0 → f.vc = 0 →
      exec (.vAnd t f) s = done (fun a b _ => a &&& b) ∧ exec (.vOr t f) s = done (fun a b _ => a ||| b) ∧
      exec (.vXor t f) s = done (fun a b _ => a ^^^ b)) ∧
    (f.imm.toNat < 32 → f.vb = 0 → f.vc = 0 →
      exec (.vShl t f) s = done (fun a _ _ => (w a <<< f.imm.toNat).toNat) ∧
      exec (.vShr t f) s = done (fun a _ _ => (w a >>> f.imm.toNat).toNat) ∧
      exec (.vSra t f) s = done (fun a _ _ => ((w a).sshiftRight f.imm.toNat).toNat)))

/-- R109, R110, R164: the functions of one FP32 operand are correctly rounded, 12 cycles; V.GSUM adds a group's 64 lanes pairwise in
six levels, each sum rounded, into the group's first lane, 14 cycles. -/
def Obligations.VectorFunctionsGiveEveryLane : Prop :=
  ∀ (s : State) (t : Nat) (f : V0), s.canV0 t f → f.fmt = 0 → f.vb = 0 → f.vc = 0 → f.imm = 0 →
    let x := s.tile t
    let done := fun (g : Val → Val × Flg) =>
      (.next (s.v0Done t f 12 (x.overLanes f fun a _ _ =>
        let v := g (decodeF fp32 a)
        let r := encodeF fp32 .rne v.1
        (r.1, v.2 ||| r.2))) : Outcome)
    exec (.vRcp t f) s = done (fun a => vDiv (.fin false 1 0) a) ∧ exec (.vRsq t f) s = done vRsqrt ∧
    exec (.vSqrt t f) s = done vSqrt ∧ exec (.vExp2 t f) s = done vExp2 ∧ exec (.vLog2 t f) s = done vLog2 ∧
    exec (.vGsum t f) s = .next (s.v0Done t f 14 (groupMap f.gm fun g =>
      let r := treeSum 6 ((upFrom (64 * g) 64).map fun l => (x.lane f.va.toNat l).toNat)
      ([r.1], r.2)))

/-- R112: permutation and broadcast inside each group of 64 lanes, and draws, which change no generator (R169). -/
def Obligations.VectorMovesAndDrawsGiveEveryLane : Prop :=
  ∀ (s : State) (t : Nat) (f : V1G), s.canIssue t slV1 [(dkV, f.vd.toNat)] →
    let x := s.tile t
    let lanes := fun (g : Nat → Word32) => (upFrom 0 (64 * gmGroups f.gm)).map fun l => (l, g l)
    let done := fun (lat : Nat) (g : Nat → Word32) =>
      (.next (s.v1Done t (dkV, f.vd.toNat) lat (.vreg f.vd.toNat (lanes g)) 0) : Outcome)
    let h := s.hull (s.pod (podOf t)).hull
    (v1Only f true true true false false →
      exec (.vPerm t f) s = done 3 (fun l => x.lane f.va.toNat (l / 64 * 64 + (x.lane f.vb.toNat l).toNat % 64))) ∧
    (v1Only f true true false false true →
      exec (.vBcast t f) s = done 2 (fun l => x.lane f.va.toNat (l / 64 * 64 + f.imm6.toNat))) ∧
    (v1Only f true true false false false →
      exec (.vDraw t f) s = done 6 (fun l =>
        drawWord h.k0 h.k1 x.drawDomain.toNat h.drawStep x.drawTensor.toNat (x.lane f.va.toNat l).toNat))

/-- R112, R98: V.LD and V.ST take the transfer path at once; a store's lanes are those at issue. -/
def Obligations.VectorTransfersTakeThePath : Prop :=
  ∀ (s : State) (t : Nat) (f : V1T),
    let x := s.tile t
    let a := ((x.sreg f.sb).toNat / 64 * 64 + f.off.toNat * 64) % 2 ^ 22
    (∀ e, s.canIssue t slV1 [(dkV, f.v.toNat)] →
      exec (.vLd t f e) s = .next (s.setTile t { x.took slV1 [(dkV, f.v.toNat)] with
        xfer := some { stamp := x.cyc, load := true, v := f.v.toNat, addr := a, parts := gmGroups f.gm, part := 0, data := [],
                       ecc := e } })) ∧
    (s.canIssue t slV1 [] →
      exec (.vSt t f) s = .next (s.setTile t { x.took slV1 [] with
        xfer := some { stamp := x.cyc, load := false, v := f.v.toNat, addr := a, parts := gmGroups f.gm, part := 0,
                       data := (upFrom 0 (64 * gmGroups f.gm)).flatMap fun l => natLe 4 (x.lane f.v.toNat l).toNat,
                       ecc := [] } }))

/-- R113, R159–R161, R106: a conversion of valid formats converts every element in order; a stochastic one waits in the tile for the
draws of the matrix slot of the same cycle. -/
def Obligations.VectorConversionCompletes : Prop :=
  ∀ (s : State) (t : Nat) (f : V1G) (src dst : VFmt), s.canIssue t slV1 [(dkV, f.vd.toNat)] → vFmt f.fmtS = some src →
    vFmt f.fmtD = some dst → cvtOk f = true →
    let x := (s.tile t).took slV1 [(dkV, f.vd.toNat)]
    let n := 64 * gmGroups f.gm
    let r := x.cvtElems f.va src dst f.rnd f.gm
    let ls : Tbl Word32 := ((upFrom 0 n).zip (packLanes dst.bits r.1 n)).map fun p => (p.1, BitVec.ofNat 32 p.2)
    (f.rnd = 1 → exec (.vCvt t f) s = .next (s.setTile t { x with cvtNow := some f })) ∧
    (f.rnd ≠ 1 → exec (.vCvt t f) s = .next (s.setTile t (r.2.2.dueF 4 (.vreg f.vd.toNat ls) r.2.1))) ∧
    src ≠ dst ∧ src ≠ .f64 ∧ dst ≠ .f64 ∧ f.rnd ≠ 3 ∧ (exactCvt src dst = true → f.rnd = 0) ∧ (src.bits ≠ dst.bits → f.gm = 0)

/-- R112, R114, R115, R163: the long registers: clear, accumulate, import, read out, fold, export. -/
def Obligations.ExactAccumulationCompletes : Prop :=
  ∀ (s : State) (t : Nat) (f : V1G),
    let x := s.tile t
    let groups := upFrom 0 (gmGroups f.gm)
    let lanes := fun (g : Nat) => (upFrom (64 * g) 64).map fun l => (x.lane f.va.toNat l).toNat
    -- each selected element and the flags, with a term added exactly to what it is about to hold
    let added := fun (term : Nat → Int × BitVec 4) =>
      let r := groups.map fun g => (g, lgAdd (x.lgBase f.lg g) (term g).1 (term g).2)
      (.next (s.v1Done t (dkLg, f.lg.toNat) 6 (.lgadd f.lg.toNat (r.map fun e => (e.1, e.2.1.val, e.2.1.fl)))
        (r.foldl (fun a e => a ||| e.2.2) 0)) : Outcome)
    (s.canIssue t slV1 [(dkLg, f.lg.toNat)] →
      (v1Only f false false false true false → f.gm = 0 → exec (.vLgzero t f) s =
        .next (s.v1Done t (dkLg, f.lg.toNat) 1 (.lgreg f.lg.toNat ((upFrom 0 16).map fun g => (g, 0, 0))) 0)) ∧
      (v1Only f false true false true false → exec (.vLgacc t f) s = added fun g => lgSum (lanes g)) ∧
      (v1Only f false true false true false → exec (.vLgimp t f) s = added fun g =>
        (toSigned 320 (((lanes g).take 10).foldr (fun w acc => w + 2 ^ 32 * acc) 0), BitVec.ofNat 4 ((lanes g).getD 10 0))) ∧
      (v1Only f false false false true false → f.gm = 0 → exec (.vLgfold t f) s =
        let r := x.lgFold f.lg
        .next (s.v1Done t (dkLg, f.lg.toNat) 10
          (.lgreg f.lg.toNat ((0, r.1.val, r.1.fl) :: (upFrom 1 15).map fun g => (g, 0, 0))) r.2))) ∧
    (s.canIssue t slV1 [(dkV, f.vd.toNat)] → f.va = 0 → f.vb = 0 → f.fmtS = 0 → f.rnd = 0 → f.imm6 = 0 →
      (f.fmtD = 0 ∨ f.fmtD = 7 → exec (.vLgrd t f) s =
        let r := groupMap f.gm fun g =>
          let v := lgRead (if f.fmtD = 0 then fp32 else fp64) (x.lgElem f.lg g)
          (if f.fmtD = 0 then [v.1] else [v.1 % 2 ^ 32, v.1 / 2 ^ 32], v.2)
        .next (s.v1Done t (dkV, f.vd.toNat) 8 (.vreg f.vd.toNat r.1) r.2)) ∧
      (f.fmtD = 0 → exec (.vLgexp t f) s =
        let r := groupMap f.gm fun g =>
          let e := x.lgElem f.lg g
          ((upFrom 0 10).map (fun j => e.val.toNat / 2 ^ (32 * j) % 2 ^ 32) ++ [e.fl.toNat], 0)
        .next (s.v1Done t (dkV, f.vd.toNat) 4 (.vreg f.vd.toNat r.1) r.2)))

/-! ## Matrix slot -/

/-- R97, R99, R100, R105: each matrix instruction takes its side of the array from its first column, row or beat; M.ZERO's result
comes one cycle later. An M.MMA whose class is not that of the weight buffer's recorded format is a bad bundle. -/
def Obligations.MatrixInstructionsTakeTheirSide : Prop :=
  ∀ (s : State) (t : Nat),
    let x := s.tile t
    let addr := fun (sb : BitVec 5) (off : BitVec 16) => ((x.sreg sb).toNat / 64 * 64 + off.toNat * 64) % 2 ^ 22
    let done := fun (y : Tile) => (.next (s.setTile t y) : Outcome)
    (∀ wb fmt sb off e c, s.canIssue t slM [(dkWb, wb.toNat)] → mClass fmt = some c →
      exec (.mLdw t wb fmt sb off e) s = done { x.took slM [(dkWb, wb.toNat)] with
        wfmt0 := if wb = 0 then fmt else x.wfmt0
        wfmt1 := if wb = 1 then fmt else x.wfmt1
        ldw := some { stamp := x.cyc, wb := wb.toNat, scaled := c.scaled, base := addr sb off, col := 0, ecc := e } }) ∧
    (∀ acc wb fmtA z sb off rows1 e r, s.canIssue t slM [(dkAcc, acc.toNat)] → (mClass fmtA).isSome →
      mClass fmtA = mClass (x.wfmt wb.toNat) →
      exec (.mMma t acc wb fmtA z sb off rows1 e r) s = done { x.took slM [(dkAcc, acc.toNat)] with
        mma := some { stamp := x.cyc, acc := acc.toNat, wb := wb.toNat, fmt := fmtA, z := z, base := addr sb off,
                      rows := rows1.toNat + 1, row := 0, ecc := e, res := r } }) ∧
    (∀ acc wb fmtA z sb off rows1 e r, s.slotOpen t slM = true → mClass fmtA ≠ mClass (x.wfmt wb.toNat) →
      exec (.mMma t acc wb fmtA z sb off rows1 e r) s = .next (s.badBundle t)) ∧
    (∀ acc fmtO rnd sb off rows1 z, s.canIssue t slM [(dkAcc, acc.toNat)] → drainOk (x.accInt.getLsbD acc.toNat) fmtO rnd = true →
      exec (.mDrain t acc fmtO rnd sb off rows1 z) s = done { x.took slM [(dkAcc, acc.toNat)] with
        drain := some (.drain x.cyc acc.toNat fmtO rnd (x.accInt.getLsbD acc.toNat) (addr sb off) (rows1.toNat + 1) z 0) }) ∧
    (∀ acc vd row8, s.canIssue t slM [(dkV, vd.toNat)] →
      exec (.mDrv t acc vd row8) s = done { x.took slM [(dkV, vd.toNat)] with
        drain := some (.drv x.cyc vd.toNat 0 ((upFrom 0 8).map (x.drvRow acc.toNat row8.toNat))) }) ∧
    (∀ acc vs row8 int, s.canIssue t slM [(dkAcc, acc.toNat)] →
      exec (.mAccld t acc vs row8 int) s = done { x.took slM [(dkAcc, acc.toNat)] with
        drain := some (.accld x.cyc acc.toNat row8.toNat int (x.vregOf vs.toNat) 0) }) ∧
    (∀ acc, s.canIssue t slM [(dkAcc, acc.toNat)] →
      exec (.mZero t acc) s = done (({ x.took slM [(dkAcc, acc.toNat)] with drain := none }.due 1 (.accZero acc.toNat)).due 1
        (.accType acc.toNat false)))

/-! ## Access slot (R126–R132) -/

/-- R129, R131, R132, R70: waits that are met cover their queues at once, those that are not stall the tile; A.QSTAT reads and clears
the status word; A.PUT and A.PGET start their transfer. -/
def Obligations.AccessInstructionsComplete : Prop :=
  ∀ (s : State) (t : Nat) (pg : BitVec 3), (s.tile t).preg pg = true →
    let x := s.tile t
    let done := fun (y : Tile) => (.next (s.setTile t y) : Outcome)
    let took := x.took slA []
    (∀ (q : BitVec 3) (n : BitVec 6), s.canIssue t slA [] →
      exec (.aWait t pg q n) s =
        if (x.queue q.toNat).descs.length ≤ n.toNat then done (took.setQueue q.toNat (x.queue q.toNat).cover)
        else done { took with wait := some (.queue q.toNat n.toNat), stallGtc := s.time.gtc, waited := 0 }) ∧
    (∀ (m : BitVec 8), s.canIssue t slA [] → m ≠ 0 →
      let qs := (upFrom 0 8).filter fun q => m.getLsbD q
      exec (.aWaitm t pg m) s =
        if qs.all fun q => (x.queue q).descs.isEmpty then
          done (qs.foldl (fun (x : Tile) q => x.setQueue q (x.queue q).cover) took)
        else done { took with wait := some (.queues m), stallGtc := s.time.gtc, waited := 0 }) ∧
    (∀ (q : BitVec 3) (rd : BitVec 5), s.canIssue t slA (scalarDest dkS rd.toNat) →
      exec (.aQstat t pg q rd) s = done (((x.took slA (scalarDest dkS rd.toNat)).due 1
          (.sreg rd.toNat (BitVec.ofNat 64 ((x.queue q.toNat).first.toNat + 256 * (x.queue q.toNat).count.toNat)))).setQueue q.toNat
          { x.queue q.toNat with first := 0, count := 0 })) ∧
    (∀ (ss sdst port : BitVec 5) (n1 : BitVec 10) (e : List Ecc), s.canIssue t slA [] → port.toNat < 17 →
      exec (.aPut t pg ss sdst port n1 e) s = done { took with
        puts := x.puts ++ [{ get := false, port := port.toNat, src := (x.sreg ss).toNat % 2 ^ 22 / 64 * 64,
                             dst := (x.sreg sdst).toNat / 64 * 64 % (if port.toNat = 16 then 2 ^ 24 else 2 ^ 22),
                             n := n1.toNat + 1, k := 0, ecc := e }] }) ∧
    (∀ (ss sdst : BitVec 5) (n1 : BitVec 10) (e : List Ecc), s.canIssue t slA [] →
      exec (.aPget t pg ss sdst n1 e) s = done { took with
        puts := x.puts ++ [{ get := true, port := t % 16, src := (x.sreg ss).toNat % 2 ^ 24 / 64 * 64,
                             dst := (x.sreg sdst).toNat % 2 ^ 22 / 64 * 64, n := n1.toNat + 1, k := 0, ecc := e }] })

/-- R72, R73, R127, R128: A.ENQ reads the descriptor and, of an NMU descriptor, its request block; an uncorrectable error in them stops the hull. A full queue, a range past the tensor's end
or a sync object outside the partition is a contract failure; otherwise the descriptor joins the queue, marked where it is
invalid. R132, R249: A.AUCMD reads its block, which the engine accepts 6 cycles later. -/
def Obligations.EnqueueAndEngineCommandComplete : Prop :=
  ∀ (s : State) (t : Nat) (pg : BitVec 3), (s.tile t).preg pg = true → s.canIssue t slA [] →
    let x := s.tile t
    let h := s.hull (s.pod (podOf t)).hull
    (∀ (q : BitVec 3) (sd sx : BitVec 5) (e : Ecc) (y : Tile) (p : Prog),
      let a := (x.sreg sd).toNat % 2 ^ 22 / 32 * 32
      let im := x.tsRead a 32
      let b := fieldLe im 0x18 4 % 2 ^ 22 / 64 * 64
      let nmu := fieldLe im 0 1 == 4
      let d := descOf im (if nmu then x.tsRead b 64 else []) (x.sreg sx) (!x.bank) h.pgen
      x.inFlight false a 32 = false → (nmu = true → x.inFlight false b 64 = false) →
      (x.took slA []).access (granules a 32 ++ if nmu then granules b 64 else []) [] = some y → h.prog = some p →
      let full := decide ((x.queue q.toNat).descs.length ≥ 64)
      let outside := decide (d.offset + d.length > p.bytesOf d.tensor) || (d.flags.toNat % 2 == 1 && !h.ownsSync d.syncId)
      let v := (s.setTile t y).afterRead t e
      exec (.aEnq t pg q sd sx e) s =
        if e = .uncorrectable then .next ((s.setTile t y).storeUe t a)
        else if full then .next (v.contract t tfOverflow (some q.toNat))
        else if outside then .next (v.contract t tfBound (some q.toNat))
        else .next (v.setTile t (y.setQueue q.toNat { x.queue q.toNat with
          descs := (x.queue q.toNat).descs ++ [{ d with
            bad := !descOk d q.toNat (p.inMemory d.tensor) || (d.flags.toNat / 4 % 2 == 1 && s.inPrivate (podOf t) d.loc d.length) }] }))) ∧
    (∀ (sd : BitVec 5) (eng : BitVec 1) (e : Ecc) (y : Tile),
      let a := (x.sreg sd).toNat % 2 ^ 22 / 64 * 64
      let k := 2 * podOf t + eng.toNat
      x.inFlight false a 64 = false → (x.took slA []).access (granules a 64) [] = some y →
      exec (.aAucmd t pg sd eng e) s =
        if e = .uncorrectable then .next ((s.setTile t y).storeUe t a)
        else .next (((s.setTile t y).afterRead t e).setEng k
          { s.eng k with sent := (s.eng k).sent ++ [(6, x.tsRead a 64, t)] }))

/-! ## Sync slot and sync homes (R133–R139) -/

/-- R133, R134, R138: each Y operation on an object of the hull's partition is sent to its home, and a waiting one stalls the tile;
on any other id it is a contract failure (R78). -/
def Obligations.SyncOperationsAreSentToTheirHome : Prop :=
  ∀ (s : State) (t : Nat) (f : YF), (s.tile t).preg f.pg = true →
    let x := s.tile t
    let id := (x.sreg f.so).toNat % 2 ^ 14
    let owns := (s.hull (s.pod (podOf t)).hull).ownsSync id
    let sent := fun (op amount : Nat) => if owns then (.next (s.ySent t op [] f amount false 0) : Outcome)
      else .next ((s.setTile t (x.took slY [])).contract t tfBound)
    (s.canIssue t slY [] → f.imm ≠ 0 →
      exec (.ySignal t f) s = sent 1 f.imm.toNat ∧ exec (.yAcq t f) s = sent 2 f.imm.toNat) ∧
    (s.canIssue t slY [] → f.imm = 0 →
      exec (.yArrive t f) s = sent 3 0 ∧ exec (.yBarr t f) s = sent 4 0 ∧ exec (.yLease t f) s = sent 5 0 ∧
      exec (.yRelease t f) s = sent 6 0) ∧
    (s.canIssue t slY [] → f.imm.toNat < 32 →
      exec (.yBufput t f) s = sent 8 (x.sreg (BitVec.ofNat 5 f.imm.toNat)).toNat) ∧
    (f.imm.getLsbD 6 = false → s.canIssue t slY (scalarDest dkS (f.imm.toNat % 32)) → owns = true →
      exec (.yBufget t f) s = .next (s.ySent t 7 (scalarDest dkS (f.imm.toNat % 32)) f 0 (f.imm.getLsbD 5) (f.imm.toNat % 32)))

/-- R139, R77: the end-of-tick marker and the bank-switch request. -/
def Obligations.MarkerAndBankSwitchComplete : Prop :=
  ∀ (s : State) (t : Nat) (f : YF), (s.tile t).preg f.pg = true → s.canIssue t slY [] → f.so = 0 → f.imm = 0 →
    exec (.yEot t f) s = .next (s.setTile t { (s.tile t).took slY [] with eot := true }) ∧
    exec (.yBsw t f) s = .next (s.setTile t { (s.tile t).took slY [] with switchPending := true })

/-- R135, R136: a request that arrives takes its place in its home pod for the end of the cycle, one that names no object is answered
BAD_PARAM at once. In effect a signal of a control core adds to a counter, saturating with BAD_PARAM, and one that names no counter of
its hull is answered BAD_PARAM; serving a counter never takes more than it holds, grants in strict arrival order, and stops only
where the oldest left wants more than is left. -/
def Obligations.CountersAreSignalledAndServedInOrder : Prop :=
  (∀ (s : State) (src hull op id amount : Nat) (nowait : Bool), s.rst.dev ≠ .cold → 1 ≤ op → op ≤ 8 →
    let req : SyncReq := { left := none, tile := none, src := src, hull := hull, op := op, id := id, amount := amount,
                           nowait := nowait, rd := 0, stamp := 0, gtc := s.time.gtc }
    (∀ o, tfind s.sync id = some o → exec (.syncRequestArrive (.core src hull op id amount nowait)) s =
      .next (s.setPod o.pod { s.pod o.pod with reqs := (s.pod o.pod).reqs ++ [{ req with left := some 1 }] })) ∧
    (tfind s.sync id = none → exec (.syncRequestArrive (.core src hull op id amount nowait)) s =
      .next (s.emit (.priv "sync" hull id [src, sBADPARAM.toNat, 0])))) ∧
  (∀ (s : State) (k : Nat) (r : SyncReq) (o : SyncObj), s.spine[k]? = some r →
    (s.spine.take k).any (fun q => q.tile == r.tile && q.id == r.id) = false → tfind s.sync r.id = some o →
    let v := { s with spine := dropAt s.spine k }
    exec (.syncRequestArrive (.inFlight k)) s =
      .next (v.setPod o.pod { v.pod o.pod with reqs := (v.pod o.pod).reqs ++ [{ r with left := some 1 }] })) ∧
  (∀ (s : State) (o : SyncObj) (src hull id amount : Nat) (nowait : Bool) (left : Option Nat), tfind s.sync id = some o →
    let req : SyncReq := { left := left, tile := none, src := src, hull := hull, op := yoSignal, id := id, amount := amount,
                           nowait := nowait, rd := 0, stamp := 0, gtc := s.time.gtc }
    let answered := fun (s : State) (st : Byte) => s.emit (.priv "sync" hull id [src, st.toNat, 0])
    (o.hull = hull → o.kind = 0 → o.waiters = [] →
      (o.value + amount ≤ 0xFFFFFFFF → s.syncEffect req =
        answered { s with sync := tput s.sync id { o with value := o.value + amount } } sDONE) ∧
      (o.value + amount > 0xFFFFFFFF → s.syncEffect req =
        answered { s with sync := tput s.sync id { o with value := 0xFFFFFFFF } } sBADPARAM)) ∧
    (o.hull ≠ hull ∨ o.kind ≠ 0 → (s.syncEffect req).out = (answered s sBADPARAM).out ∧
      ∀ i, tfind (s.syncEffect req).sync i = tfind s.sync i)) ∧
  (∀ (o : SyncObj), o.kind = 0 → (∀ r ∈ o.waiters, r.op = 2) →
    let u := SyncObj.serve o.waiters.length o []
    let n := u.2.length
    u.2.map (·.req) = o.waiters.take n ∧ u.1.waiters = o.waiters.drop n ∧ (∀ a ∈ u.2, a.st = sDONE) ∧
      u.1.value + sumOf ((o.waiters.take n).map (·.amount)) = o.value ∧ u.1.settled)

/-- R137: a lease held past its limit is freed and marked broken, its generation advances, every waiter completes with LEASE_BROKEN in
arrival order, the holder is remembered so that its release does too, and a record of class SYNC names it; a lease within its limit,
a free one and any other object stay as they are. -/
def Obligations.OverheldLeaseIsBroken : Prop :=
  (∀ (s : State) (id : Nat), tfind s.sync id = none → exec (.leaseBreak id) s = .next s) ∧
  ∀ (s : State) (id : Nat) (o : SyncObj), tfind s.sync id = some o →
    (o.kind ≠ 2 ∨ o.holder = none ∨ o.holdLimit = 0 ∨ o.heldTicks ≤ o.holdLimit → exec (.leaseBreak id) s = .next s) ∧
    (∀ src, o.kind = 2 → o.holder = some src → o.holdLimit ≠ 0 → o.holdLimit < o.heldTicks →
      let o' := { o with holder := none, broken := true, waiters := [], former := src :: o.former, gen := o.gen + 1 }
      let v := (o.waiters.map fun r => (⟨r, sLEASEBROKEN, none⟩ : Answer)).foldl State.answer { s with sync := tput s.sync id o' }
      let u := v.log1 (mkRec 0x0A 2 src o.hull o.pod 0xFF 0 (natLe 2 id ++ natLe 2 src ++ natLe 2 (o.gen + 1).toNat))
      exec (.leaseBreak id) s = .next u ∧ tfind u.sync id = some o' ∧ (∀ i, i ≠ id → tfind u.sync i = tfind s.sync i) ∧
        u.nextSeq = s.nextSeq + 1 ∧ u.mem = s.mem ∧ u.hulls = s.hulls ∧
        (∀ r t, o.waiters = [r] → r.tile = some t → (s.tile t).live = true → (s.tile t).syncStatus = 0 →
          (u.tile t).syncStatus = sLEASEBROKEN))

/-! ## Descriptors (R127–R131) -/

/-- R127, R128, R129, R131: the work of any READ, WRITE or GATHER in its turn is done and it completes with the status of that work, as does
an invalid descriptor, with BAD_PARAM; one already complete retires. A READ whose tensor lies in a tier of memory and passes its checks
lands its bytes in the tile store and retires with DONE, in order; a wait it meets is over. -/
def Obligations.ReadDescriptorLandsAndRetires : Prop :=
  ∀ (raw : State) (t q : Nat) (pr : Prog), raw.noHold →
    let s := raw.settled
    let x := s.tile t
    let h := (s.pod (podOf t)).hull
    x.live = true → x.frozen = false → (s.hull h).state = .running → (s.hull h).prog = some pr →
    (∀ (slot : Nat) (e : Ecc) (d : Desc), (x.queue q).descs[slot]? = some d →
      (d.completed = true → exec (.descriptorRetire t q slot e []) raw =
        .next ((State.retireFront t q (x.queue q).descs.length s).updTile t Tile.wakeA)) ∧
      (d.completed = false → ((x.queue q).descs.take slot).any (fun o => !o.completed && o.overlaps d) = false → d.issued = false →
        (d.kind = 4 → d.bad = true) → (d.kind = 3 → d.bad = false → d.pgen = (s.hull h).pgen) →
        let w := s.doDesc t h pr d e
        exec (.descriptorRetire t q slot e []) raw = .next (w.1.descDone t q slot w.2).settled ∧ (d.bad = true → w = (s, sBADPARAM)))) ∧
    (∀ (d : Desc) (rest : List Desc) (tierB : Bool) (base : Nat), (x.queue q).descs = d :: rest → d.completed = false →
      d.issued = false → d.bad = false → d.kind = 1 → d.flags = 0 → pr.memPlace d.tensor = some (tierB, base) →
      (∀ i ∈ blocksOf d.offset d.length, s.clean h tierB base d.tensor i) → rest.all (fun e => !e.completed) = true →
      let o := s.readRange h tierB base d.tensor d.offset d.length
      exec (.descriptorRetire t q 0 .ok []) raw = .next ((s.setTile t
        (((x.tsWrite d.loc o.data).setQueue q { x.queue q with
          descs := rest, uncovered := (x.queue q).uncovered ++ [{ d with completed := true, status := 0 }] }).wakeA))))

/-! ## Memory units (R190, R199, R205, R220) -/

/-- R9, R10, R190, R198, R199, R205, R220: refresh and readouts change no data; a clean block scrubbed moves the unit's scrub row on and changes no
data; a map-out's copy that met no bad block ends with every block of the unit on the replacement, which takes the unit's slot of
the extent; the unit is out of service, and no map-out is in progress. A unit's blocks and husks lie at their physical addresses; an
access to a unit that is mapped out is rejected, with zeros. -/
def Obligations.MemoryUpkeepKeepsEveryBlock : Prop :=
  ((∀ (s : State) (u : MemUnit), u.wf = true → s.mem.trained = true →
    exec (.refresh u) s = .next (s.setUnit u { s.unit u with refreshed := s.time.gtc })) ∧
  (∀ (s : State) (tierB : Bool) (ix : Nat) (hot : Bool) (c : Byte), ix < (if tierB then 16 else 8) → s.rst.dev ≠ .cold →
    twf 0 s.mem.temp = true →
    let k := if tierB then 8 + ix else ix
    ∃ v, exec (.refreshHot tierB ix hot c) s = .next v ∧ v.mem.hot.getLsbD k = hot ∧ tget 0 v.mem.temp k = c ∧
      (∀ i, i ≠ k → v.mem.hot.getLsbD i = s.mem.hot.getLsbD i) ∧ v.mem.a = s.mem.a ∧ v.mem.b = s.mem.b ∧ v.hulls = s.hulls ∧
      (hot = true → s.mem.hot.getLsbD k = false → bitOf (v.reg (memEv tierB)) 4 = true) ∧
      (¬(hot = true ∧ s.mem.hot.getLsbD k = false) → v.regs = s.regs ∧ v.irqs = s.irqs)) ∧
  (∀ (s : State) (u : MemUnit) (row : Nat), u.wf = true → s.mem.trained = true → s.inService = true → s.board.standby = false →
    s.scrubUnit? (nmuOf u) = some u →
    (row ≠ (s.unit u).scrubRow → ∀ e retries, exec (.scrubBlock u row e retries) s = .next s) ∧
    (row = (s.unit u).scrubRow → (s.blk (unitTier u) (u.rows * unitNo u + row)).check none = .pass →
      ∃ v, exec (.scrubBlock u row .ok 0) s = .next v ∧ (row + 1 < u.rows → (v.unit u).scrubRow = row + 1) ∧ v.mem.a = s.mem.a ∧
        v.mem.b = s.mem.b ∧ v.hulls = s.hulls ∧ v.log = s.log ∧ v.regs = s.regs ∧ v.tiles = s.tiles ∧ v.pods = s.pods))) ∧
  (∀ (s : State) (u : MemUnit) (n : Nat), u.wf = true → (unitOf (unitTier u) n).wf = true → n ≠ unitNo u →
    s.inService = true → s.mem.mapout = some u → s.mem.mapoutQueue = [] → (s.unit u).replacement = some n → (s.unit u).state = 1 →
    s.extentLeaving u = false →
    (∀ row, row < u.rows → (s.blk (unitTier u) (u.rows * unitNo u + row)).check none = .pass) →
    blksWf s.mem.a = true → blksWf s.mem.b = true →
    let tb := unitTier u
    ∃ v, exec (.mapoutCopyComplete u true) s = .next v ∧ v.mem.mapout = none ∧ (v.unit u).state = 2 ∧
      (v.unit u).cause = (s.unit u).pendingCause ∧ (v.unit (unitOf tb n)).state = 1 ∧ (v.unit (unitOf tb n)).hull = (s.unit u).hull ∧
      (v.unit (unitOf tb n)).extent = (s.unit u).extent ∧ (v.unit (unitOf tb n)).slot = (s.unit u).slot ∧
      (∀ row, row < u.rows → v.blk tb (u.rows * n + row) = s.blk tb (u.rows * unitNo u + row)) ∧
      (∀ k row, row < u.rows → k ≠ n → k ≠ unitNo u → v.blk tb (u.rows * k + row) = s.blk tb (u.rows * k + row)) ∧
      (∀ key, v.blk (!tb) key = s.blk (!tb) key)) ∧
  (∀ (u : MemUnit) (row : Nat), u.wf = true → row < u.rows →
    physHome (blockAddr u row) = some (.data u row 0) ∧ physHome (huskAddr u row) = some (.husk u row 0)) ∧
  (∀ (s : State) (a : Nat), 0x8000000000 ≤ a → a < 0x010000000000 ∨ 0x020000000000 ≤ a ∧ a < 0x040000000000 →
    s.physAssigned a = false) ∧
  (∀ (s : State) (h : Nat) (tierB : Bool) (wb n row : Nat), (s.hull h).find tierB wb = some (n, row) →
    let u := unitOf tierB n
    u.wf = true → row < u.rows → (s.unit u).state = 2 →
    s.fetchBlk h tierB wb = (s.physReject (0x0200 + nmuOf u) h false (blockAddr u row) 256, some Blk.unwritten))

/-! ## Near-memory requests (R210–R222) -/

/-- R211, R193, R217, R220: DIGEST, VERIFY, ZERO, SCRUB, SNAPSHOT and DELTA are performed on their range's blocks and retire with DONE where
every block they read passes its check; a DELTA is performed block by block in any case. -/
def Obligations.NearMemoryBlockOperationsComplete : Prop :=
  ∀ (raw : State) (src : NmuSrc) (r : NReq) (pr : Prog) (tierB : Bool) (base : Nat),
    let s := raw.settled
    let d := r.desc
    let bs := blocksOf d.offset d.length
    let s' := s.nmuTake src
    let t2 := fieldLe d.block 8 4
    let o2 := fieldLe d.block 0x18 8
    let clean := ∀ i ∈ bs, s.clean r.hull tierB base d.tensor i
    (s.nmuReady 4 src r pr tierB base → clean →
      let ws := (huskList r.hull tierB base d.tensor bs s').2.1
      exec (.nmuDigest src []) raw = .next ((s'.nmuReturn r (sha256Bytes (ws.flatMap fun w => natLe 8 w.toNat))).nmuEnd r sDONE)) ∧
    (s.nmuReady 5 src r pr tierB base → clean →
      exec (.verify src []) raw = .next ((s'.nmuReturn r (natLe 8 0 ++ natLe 8 0xFFFFFFFFFFFFFFFF)).nmuEnd r sDONE)) ∧
    (s.nmuReady 8 src r pr tierB base → (∀ i ∈ bs, s.served r.hull tierB (base / 4096 + i)) →
      exec (.nmuZero src []) raw = .next ((s'.zeroRange r.hull tierB base d.tensor d.offset d.length).nmuEnd r sDONE)) ∧
    (s.nmuReady 9 src r pr tierB base → clean → exec (.nmuScrub src []) raw = .next (s'.nmuEnd r sDONE)) ∧
    (s.nmuReady 6 src r pr tierB base → pr.inMemory t2 = true → o2 % 4096 = 0 → o2 + 4096 * bs.length ≤ pr.bytesOf t2 →
      exec (.snapshot src []) raw = .next (((upFrom 0 bs.length).foldl (fun (s : State) k =>
        match s.blockKey r.hull pr d.tensor (d.offset / 4096 + k), s.blockKey r.hull pr t2 (o2 / 4096 + k) with
        | some a, some b => s.mark r.hull a b
        | _, _ => s) s').nmuEnd r sDONE)) ∧
    (s.nmuReady 7 src r pr tierB base → pr.inMemory t2 = true → o2 + 8 * bs.length ≤ pr.bytesOf t2 →
      exec (.nmuDelta src []) raw =
        .next (((upFrom 0 bs.length).foldl (deltaBlock r pr tierB base t2 o2) s'.parts).close r).settled ∧
      (∀ i u row tb b2, bs = [i] → s.servesAt r.hull tierB (base / 4096 + i) u row → clean → pr.memPlace t2 = some (tb, b2) →
        s.cleanRange r.hull pr t2 o2 8 →
        let key := (tierB, blkPer tierB * u + row)
        s.cutMark r.hull key = none →
        let b := s.blk key.1 key.2
        let hk := b.huskFor (huskTag d.tensor i)
        let x := s'.hull r.hull
        let v := if fieldLe (s.readRange r.hull tb b2 t2 o2 8).data 0 8 = hk.toNat then s'
          else (s'.setHull r.hull { x with ckpt := { x.ckpt with delta := x.ckpt.delta ++ [(d.tensor, i, hk, b.payload)] } }).drainAt r.hull
            (s'.drainUnit r.hull x.ckpt.delta.length) (· + 1)
        exec (.nmuDelta src []) raw =
          .next (((v.writeRange r.hull tb b2 t2 o2 (natLe 8 hk.toNat)).unmark r.hull key).nmuEnd r sDONE)))

/-- R193: after a ZERO of a whole block that its unit serves, the block holds the unwritten marker. -/
def Obligations.ZeroMarksBlocksUnwritten : Prop :=
  ∀ (s : State) (h : Nat) (tierB : Bool) (base tensor i u row : Nat), base % 4096 = 0 →
    s.servesAt h tierB (base / 4096 + i) u row → s.mem.meets = [] →
    s.mem.marks = [] → twf Blk.unwritten s.mem.a = true → twf Blk.unwritten s.mem.b = true →
    let v := s.zeroRange h tierB base tensor (4096 * i) 4096
    (v.blk tierB (blkPer tierB * u + row)).isUnwritten = true ∧ (v.blk tierB (blkPer tierB * u + row)).payload = zeros 4096 ∧
      (∀ key, key ≠ blkPer tierB * u + row → v.blk tierB key = s.blk tierB key) ∧ (∀ key, v.blk (!tierB) key = s.blk (!tierB) key) ∧
      v.hulls = s.hulls ∧ v.log = s.log

/-- R207, R212–R215, R188: a contribution that is its target's next takes effect at once, with those staged behind it, and the target's last
completes it; an UPDATE whose operands are in range is performed part by part, one whose operands are not is answered BAD_PARAM, one that
must wait for a digest or a feed waits; a SCATTER_ADD is performed row by row. A part whose blocks pass their checks writes the
sum, or p and its moments. -/
def Obligations.NearMemoryArithmeticCompletes : Prop :=
  (∀ (raw : State) (src : NmuSrc) (r : NReq) (pr : Prog) (tierB : Bool) (base : Nat),
    let s := raw.settled
    let d := r.desc
    let s' := s.nmuTake src
    (∀ mm, s.nmuReady 1 src r pr tierB base → s.reduceFits src r pr (s.targetOf r) → s.roomFor r = true →
      reduceSeq d.block = (s.targetOf r).next →
      (s.residueUnit r tierB base mm = none → exec (.reduce src mm []) raw = .next (s.reduceTaken src r tierB base).settled) ∧
      (∀ u, s.residueUnit r tierB base mm = some u →
        exec (.reduce src mm []) raw = .next ((s'.parts.residue r.hull u).close r).settled)) ∧
    (∀ mm, s.nmuReady 2 src r pr tierB base →
      let inRange := (updateRanges d).all fun q => pr.inMemory q.1 && decide (q.2.1 + q.2.2 ≤ pr.bytesOf q.1)
      (s.twinWait r.hull d.tensor = true ∨ pr.feedWait d = true → exec (.update src mm []) raw = .next s) ∧
      (s.twinWait r.hull d.tensor = false → pr.feedWait d = false →
        (inRange = false → exec (.update src mm []) raw = .next (s'.nmuEnd r sBADPARAM)) ∧
        (inRange = true → exec (.update src mm []) raw =
          .next ((r.parts.foldl (updatePart r pr tierB base mm) s'.parts).close r).settled) ∧
        (inRange = true → mm = none → blocksOf d.offset d.length = [d.offset / 4096] →
          (∀ q ∈ updateRanges d, s.cleanRange r.hull pr q.1 q.2.1 q.2.2) →
          let ops := (updateRanges d).map fun q => match pr.memPlace q.1 with
            | some (tb, b) => (s.readRange r.hull tb b q.1 q.2.1 q.2.2).data
            | none => []
          exec (.update src mm []) raw =
            .next ((s'.updateWrite r.hull pr tierB base d (updateOut (s.hull r.hull) d ops)).nmuEnd r sDONE)))) ∧
    (∀ mm, s.nmuReady 3 src r pr tierB base →
      let n := fieldLe d.block 6 2
      let tile := match r.at_ with | some q => s'.tile q.1 | none => Tile.init
      let o := ((upFrom 0 n).zip (elems 4 (tile.tsRead (fieldLe d.block 0x18 4) (4 * n)))).foldl
        (scatterRow r (pr.bytesOf d.tensor) (fieldLe d.block 1 1) tierB base mm) (s'.parts, sDONE)
      exec (.scatterAdd src mm []) raw = .next (Parts.close { o.1 with status := firstBad o.1.status o.2 } r).settled)) ∧
  (∀ (p : Parts) (t : RTarget) (tierB : Bool) (base : Nat) (c : List Byte) (k : Nat × Nat × Nat), p.st.quiet →
    let first := t.next = 0 ∧ t.start ≠ 0
    (∀ i ∈ blocksOf k.2.1 k.2.2, if first then p.st.served t.hull tierB (base / 4096 + i) else p.st.clean t.hull tierB base t.tensor i) →
    (t.start = 0 ∨ t.start = 1 ∨ t.start = 2) →
    let old := if t.next = 0 ∧ t.start = 2 then none else if t.next = 0 ∧ t.start = 1 then some (zeros k.2.2)
      else some (p.st.readRange t.hull tierB base t.tensor k.2.1 k.2.2).data
    let v := nTerm t.fmt old (slice c (k.2.1 - t.offset) k.2.2)
    reducePart t tierB base c p k = { p with
      st := (if v.2 then p.st.event evNmu 3 259 else p.st).writeRange t.hull tierB base t.tensor k.2.1 v.1 }) ∧
  (∀ (p : Parts) (r : NReq) (st : Byte) (size fmt : Nat) (tierB : Bool) (base j i : Nat), p.st.quiet →
    let off := r.desc.offset + 32 * i
    (size < off + 32 → scatterRow r size fmt tierB base none (p, st) (j, i) = (p, sBADPARAM)) ∧
    (off + 32 ≤ size → (∀ b ∈ blocksOf off 32, p.st.clean r.hull tierB base r.desc.tensor b) →
      let v := nTerm fmt (some (p.st.readRange r.hull tierB base r.desc.tensor off 32).data) (slice r.data (32 * j) 32)
      scatterRow r size fmt tierB base none (p, st) (j, i) = ({ p with
        st := (if v.2 then p.st.event evNmu 3 259 else p.st).writeRange r.hull tierB base r.desc.tensor off v.1 }, st)))

/-- R209, R212, R214: contributions take effect in SEQ order whatever order they come in: one ahead of its turn is staged and changes no
data, one that is there already is refused as a duplicate, one without room is held. A held request is offered again as when it
first came, and is held again where there is still no room. -/
def Obligations.ContributionsTakeEffectInTheirOrder : Prop :=
  (∀ (raw : State) (k : Nat) (e : HeldReq), raw.nmu.held[k]? = some e →
    let s := raw.settled
    let v := { s with nmu := { s.nmu with held := dropAt s.nmu.held k } }
    (s.heldSrc e = none → exec (.reduceHoldRelease k []) raw = .next v) ∧
    (∀ (src : NmuSrc) (r : NReq) (pr : Prog) (tierB : Bool) (base : Nat), s.heldSrc e = some src → v.nmuReady 1 src r pr tierB base →
      v.reduceFits src r pr (v.targetOf r) →
      (v.roomFor r = true → reduceSeq r.desc.block = (v.targetOf r).next →
        exec (.reduceHoldRelease k []) raw = .next (v.reduceTaken src r tierB base).settled) ∧
      (v.roomFor r = false → v.nmu.held.contains e = false →
        exec (.reduceHoldRelease k []) raw = .next { v with nmu := { v.nmu with held := v.nmu.held ++ [e] } }))) ∧
  (∀ (s : State) (k : Nat) (m : List Meet), s.nmu.held[k]? = none → exec (.reduceHoldRelease k m) s = .next s.settled) ∧
  (∀ (raw : State) (src : NmuSrc) (r : NReq) (pr : Prog) (tierB : Bool) (base t q slot : Nat),
    let s := raw.settled
    s.nmuReady 1 src r pr tierB base → src = .desc t q slot →
    let g := s.targetOf r
    let seq := reduceSeq r.desc.block
    (s.reduceFits src r pr g → s.roomFor r = true → g.next < seq →
      ∃ v, exec (.reduce src none []) raw = .next v ∧ v.mem = s.mem ∧ v.hulls = s.hulls ∧ v.log = s.log ∧ v.pods = s.pods ∧
        (∀ i, i ≠ t → v.tile i = s.tile i) ∧ (v.tile t).store = (s.tile t).store ∧
        { g with staged := tput g.staged seq r.data, owners := g.owners ++ [(seq, t, q)] } ∈ v.nmu.targets) ∧
    (s.reduceFits src r pr g → s.roomFor r = false →
      let e := HeldReq.desc t q r.desc.image
      exec (.reduce src none []) raw =
        .next (if s.nmu.held.contains e then s else { s with nmu := { s.nmu with held := s.nmu.held ++ [e] } })) ∧
    (seq < reduceCount r.desc.block → g.count = reduceCount r.desc.block → g.fmt = fieldLe r.desc.block 1 1 →
      g.start = reduceStart r.desc.block → (seq < g.next ∨ (tfind g.staged seq).isSome = true) → ∀ mm,
      let v := s.nmuTake src
      let x := v.hull r.hull
      exec (.reduce src mm []) raw =
        .next (((v.setHull r.hull { x with dup := min (x.dup + 1) 0xFFFFFFFF }).event evNmu 2 258).nmuEnd r sBADPARAM)))

/-! ## Ausolin engines (R225–R257) -/

/-- R233–R240, R242–R244, R249: each operation at the head of an engine's queue is performed on the structure its handle names, which
is kept with what the operation changed of it; LOAD and FREE make and remove a structure. -/
def Obligations.EngineOperationsComplete : Prop :=
  ∀ (s : State) (a op : Nat) (c : ACmd) (st : AStruct), s.ausHead a op = some c → ausBlockOk c.block c.tile.isSome = true →
    let x := s.eng a
    let done := fun (r : ARes) => (.next (s.ausAnswers a (tput x.structs c.handle r.st) (c.withRes r)) : Outcome)
    (tfind x.structs c.handle = some st → ausStructOk c.block st = true →
      (op = 3 → exec (.factor a .ok) s = done st.runFactor) ∧
      (op = 4 → exec (.solve a .ok) s = done (st.runSolve c.arg (words (s.ausInput a c) 0 8 (c.arg * st.dim)) (nanCycles c st))) ∧
      (op = 5 → exec (.refine a .ok) s =
        done (st.runRefine c.arg c.itMax c.deadline (c.eps 0) (words (s.ausInput a c) 0 8 (c.arg * st.dim)) (nanCycles c st))) ∧
      (op = 6 → exec (.invroot a .ok) s = done (st.runInvroot c.arg c.itMax c.deadline (c.eps 0) (nanCycles c st))) ∧
      (op = 7 → exec (.qpIp a .ok) s =
        done (st.runIp c.warm c.itMax c.deadline (c.eps 0, c.eps 1, c.eps 2) (nanCycles c st))) ∧
      (op = 8 → exec (.qpAdmm a .ok) s =
        done (st.runAdmm c.warm c.itMax c.deadline (c.eps 0, c.eps 1, c.eps 2) (nanCycles c st)))) ∧
    (op = 1 → parseStruct (s.ausInput a c) = some st → tfind x.structs c.handle = none → x.loadShort st = 0 →
      exec (.ausLoad a .ok) s = done (ARes.plain st (st.cF + 64 + ceilDiv (s.ausInput a c).length 64) [])) ∧
    (op = 2 → ∀ st' n, tfind x.structs c.handle = some st → st.delta (s.ausInput a c) = some (st', n) →
      exec (.ausDelta a .ok) s = done (ARes.plain st' (16 + 4 * n) [])) ∧
    (op = 9 → tfind x.structs c.handle = some st →
      exec (.ausFree a) s = .next (s.ausAnswers a (tdel x.structs c.handle) (c.withRes (ARes.plain st 0 []))))

/-- R250, R248, R254: a command on a handle that names no structure is refused with BAD_PARAM and changes no structure; a finished command
on the firmware path leaves the engine with its result kept, and the pod store as it is; one of a tile signals a counter of its pod
where it asks for that, and the engine turns to the next. -/
def Obligations.EngineRefusesEmptyHandlesAndWritesBack : Prop :=
  (∀ (s : State) (a op : Nat) (c : ACmd) (e : AusErr), s.ausHead a op = some c → tfind (s.eng a).structs c.handle = none →
    let u := s.ausAnswers a (s.eng a).structs { c with status := sBADPARAM, cause := 0, panel := 0xFFFFFFFF }
    (op = 2 → exec (.ausDelta a e) s = .next u) ∧ (op = 3 → exec (.factor a e) s = .next u) ∧
    (op = 4 → exec (.solve a e) s = .next u) ∧ (op = 5 → exec (.refine a e) s = .next u) ∧
    (op = 6 → exec (.invroot a e) s = .next u) ∧ (op = 7 → exec (.qpIp a e) s = .next u) ∧
    (op = 8 → exec (.qpAdmm a e) s = .next u) ∧ (op = 9 → exec (.ausFree a) s = .next u)) ∧
  (∀ (raw : State) (a : Nat) (c : ACmd) (rest : List ACmd),
    let s := raw.settled
    s.engineRuns a = true → (s.eng a).queue = c :: rest → (s.eng a).phase = 3 →
    (s.eng a).left = 0 → (s.eng a).settle = 0 → s.noHold →
    (c.tile = none → c.owed = none → rest = [] →
      (∀ i ∈ blocksOf c.outOff c.output.length, s.served c.hull true i) →
      ∃ v, exec (.engineComplete a) raw = .next v ∧ (v.eng a).queue = [] ∧ (v.eng a).phase = 0 ∧ (v.eng a).structs = (s.eng a).structs ∧
        c ∈ (v.eng a).results ∧ v.sync = s.sync ∧ v.pods = s.pods ∧ v.tiles = s.tiles ∧ v.hulls = s.hulls) ∧
    (∀ t, c.tile = some t →
      let id := fieldLe c.block 4 2 % 2 ^ 14
      let home := match tfind s.sync id with | some o => o.pod == a / 2 && o.hull == c.hull | none => false
      let v := if fieldLe c.block 2 1 % 2 = 1 ∧ home = true then (s.signalCounter id).1 else s
      exec (.engineComplete a) raw = .next ((v.setEng a { v.eng a with queue := rest }).ausSettle a)) ∧
    (∀ d, c.tile = none → c.owed = some d →
      let v := s.ausReply a c d
      exec (.engineComplete a) raw = .next ((v.setEng a { v.eng a with queue := rest }).ausSettle a)))

/-- R244: the compute phase of an iterative operation never runs past DEADLINE: after the last iterate computed, its cycles and the
write of its result still lie within it; no more than ITER_MAX iterates are computed; the iterate returned is one that was
evaluated, the best of them unless it converged. -/
def Obligations.DeadlineBoundsTheSolverLoop : Prop :=
  ∀ (α : Type) (next : α → Except Stop (Iter α)) (itMax deadline cIter cOut t : Nat) (i0 : Iter α) (e : LoopEnd α),
    loopFrom next itMax deadline cIter cOut itMax 0 t 0 i0 i0 = .ok e →
    e.k ≤ itMax ∧ e.t = t + e.k * cIter ∧ e.ret ≤ e.k ∧ (e.status = 0 → e.ret = e.k) ∧
      (deadline ≠ 0 → 0 < e.k → e.t + cOut ≤ deadline) ∧
      (e.status = 0 ∨ e.status = 0x20 ∧ (e.cause = 2 ∧ e.k = itMax ∨ e.cause = 1 ∧ deadline < e.t + cIter + cOut))

/-! ## Ticks, steps and checkpoints (R51–R62, R259–R261, R362–R365) -/

/-- R62, R51–R54, R29, R261: a launch whose GTC has come fires; the first tick of a start begins at the launch, unless the step-record log
is full; a tick within a step or an evaluation run begins once its period is over and every tile stands at its marker, and it has the
next number and begins now; at a step's last tick nothing begins while the verdict or an update is outstanding, else the boundary
passes; a rollback restores what the undo marks kept. -/
def Obligations.TicksBeginAndStepsRollBack : Prop :=
  (∀ (raw : State) (h : Nat) (p : Prog),
    let s := raw.settled
    let x := s.hull h
    let slip := s.time.gtc - (x.tickStart + 1000 * s.periodUs)
    x.prog = some p → x.state = .running →
    (p.state = 2 → x.armed = true → x.launch ≤ s.time.gtc → exec (.launchFire h) raw =
      .next ((raw.setHull h { x with armed := false, lastLaunch := x.launch, prog := some { p with state := 3 } }).event evTime 3 67)) ∧
    (p.state = 3 → x.free = true → s.noHold →
      ((p.stops.any fun c => c.1) = true → exec (.tickBegin h []) raw = .next (s.stopHull h 1 sDONE false).settled) ∧
      ((p.stops.any fun c => c.1) = false → p.between = 2 → x.launch ≤ s.time.gtc →
        (x.logFull = true → exec (.tickBegin h []) raw = .next (s.logHold h)) ∧
        (x.logFull = false →
          exec (.tickBegin h []) raw = .next ((((s.logFreed h).markUndo h).recordBoundary h).openStep h).settled)) ∧
      ((p.stops.any fun c => c.1) = false → p.between ≠ 2 → x.tickStart + 1000 * s.periodUs ≤ s.time.gtc →
        (p.between = 1 → p.evalRun = none → exec (.tickBegin h []) raw = .next (s.leaveBoundary h).settled) ∧
        ((p.between = 1 → p.evalRun.isSome = true) → s.markersDone h = false → exec (.tickBegin h []) raw = .next s) ∧
        (∀ k n, p.evalRun = some (k, n) → 1 < n → s.markersDone h = true →
          let v := s.tickSlip h slip false
          let w := v.setHull h { v.hull h with
            prog := (v.hull h).prog.map fun (p : Prog) => { p with evalRun := some (k, n - 1), evalTicks := p.evalTicks + 1 } }
          exec (.tickBegin h []) raw = .next (w.forcedHold h (w.openTick h (p.evalTicks + 1)))) ∧
        (p.between = 0 → p.evalRun = none → s.markersDone h = true →
          (p.tickInStep + 1 < p.ticks →
            let v := s.tickSlip h slip true
            let w := v.setHull h { v.hull h with
              prog := (v.hull h).prog.map fun (p : Prog) => { p with tickInStep := p.tickInStep + 1 } }
            exec (.tickBegin h []) raw = .next (w.forcedHold h (w.openTick h (p.tickInStep + 1)))) ∧
          (p.ticks ≤ p.tickInStep + 1 → s.boundaryReady h = false → exec (.tickBegin h []) raw = .next s) ∧
          (p.ticks ≤ p.tickInStep + 1 → s.boundaryReady h = true →
            let v := (s.setHull h { x with prog := some { p with slipNs := min (p.slipNs + slip) 0xFFFFFFFF } }).passBoundary h
            exec (.tickBegin h []) raw = .next (match (v.hull h).prog, (v.hull h).state with
              | some q, .running => if q.between = 1 then v.leaveBoundary h else v
              | _, _ => v).settled)))) ∧
    (∀ v, x.verdict = some v → p.image.eager = true → v.skipped = true → p.rollback = false → s.updatesDone h = true → s.noHold →
      let u := s.restoreUndo h
      exec (.rollbackComplete h []) raw = .next (u.setHull h { u.hull h with
        prog := (u.hull h).prog.map fun (p : Prog) => { p with rollback := true } }))) ∧
  (∀ (s : State) (h rho : Nat), ((s.openTick h rho).hull h).tick = ((s.hull h).tick + 1) % 2 ^ 48 ∧
    ((s.openTick h rho).hull h).tickStart = s.time.gtc ∧ (s.openTick h rho).mem = s.mem ∧
    ∀ g, g ≠ h → (s.openTick h rho).hull g = s.hull g)

/-- R362, R364, R365: the extracted cut forms the object, and its drain begins with two segments; an acknowledged segment sends the next,
an acknowledged trailer completes the checkpoint; ten seconds without an acknowledgement, a queue pair's error or a block that
fails its check fail it with their causes. -/
def Obligations.CheckpointDrainCompletes : Prop :=
  ∀ (raw : State) (h : Nat),
    let s := raw.settled
    let x := s.hull h
    let c := x.ckpt
    (∀ p, x.prog = some p → c.state = 2 → s.noHold →
      let o := State.extractAll h p c.full (if c.full then [] else c.reference) (p.blocks p.persistent) (s.drainClear h) []
      let r := o.1.readRecords h p (p.undrained.filter fun n => decide (n ≤ c.step))
      let w := r.1.windowRead 0x0600 h true c.target 48
      (o.2 = none → exec (.extractionComplete h []) raw = .next (o.1.ckptFail h 7).settled) ∧
      (∀ delta recs target, o.2 = some delta → r.2 = some recs → w.2 = some target →
        let object := (objParts (w.1.hull h) h p c delta recs).bytes
        object.length ≤ fieldLe target 0x28 8 →
        ∃ u, exec (.extractionComplete h []) raw = .next u ∧ (u.hull h).ckpt.state = 3 ∧ (u.hull h).ckpt.object = object ∧
          (u.hull h).ckpt.delta = delta ∧ (u.hull h).ckpt.sent = min 2 (u.hull h).ckpt.segments ∧ u.mem = w.1.settled.mem ∧
          u.tiles = w.1.tiles ∧ u.pods = w.1.pods ∧ u.log = w.1.log)) ∧
    (c.state = 3 →
      (c.trailer = true → exec (.segmentAck h c.segments) raw = .next (raw.ckptDone h)) ∧
      (∀ i, i < c.sent → c.acked.contains i = false → i ≠ c.segments → exec (.segmentAck h i) raw = .next
        ((raw.setHull h { x with ckpt := { c with acked := c.acked ++ [i], lastAckGtc := s.time.gtc } }).sendSegment h)) ∧
      (s.time.gtc - c.lastAckGtc ≥ 10000000000 → exec (.storeTimeout h) raw = .next (raw.ckptFail h 3)) ∧
      (∀ port, port < 2 → exec (.queuePairError h port) raw = .next (raw.ckptFail h 3)))

/-! ## Global time and throttle (R44–R49, R464) -/

/-- R46–R49, R464: TIME_GTC_SET sets a time that is not behind, and locks a root; messages within the bound keep a module LOCKED, the
sixteenth in a row locks a COARSE one, the fourth in a row outside it ends in HOLDOVER, as a millisecond without one does; HOLDOVER
ends in COARSE, which a set root leaves at once; a period in rule is taken while no hull runs; a LOCKED module sends its time on. A temperature that calls for another
throttle level changes it, not twice within a millisecond, with its record and interrupt, and marks the ticks in progress. -/
def Obligations.TimeAndThrottleFollowTheirInputs : Prop :=
  (∀ (s : State),
    let t := s.time
    (∀ v : Word, s.blockOpen 0x010008 = true →
      (t.align = .unset ∨ t.align = .coarse → t.gtc ≤ v.toNat → exec (.timeGtcSet v) s =
        .next { s with time := if s.isTimeRoot then { t with gtc := v.toNat, frac := 0, align := .locked, wasSet := true, offset := 0 }
                               else { t with gtc := v.toNat, frac := 0, align := .coarse, wasSet := true } }) ∧
      (t.align = .locked ∨ t.align = .holdover → exec (.timeGtcSet v) s = .next (s.event evTime 5 69))) ∧
    (∀ (n : Nat) (o : Int), s.timeSource = some n →
      let m := t.heard o
      (o.natAbs ≤ s.timeBound n →
        (t.align = .locked → exec (.timeMessage o) s = .next { s with time := { m with slew := -o, bad := 0 } }) ∧
        (t.align = .coarse → 0 ≤ o → 16 ≤ t.good + 1 →
          exec (.timeMessage o) s = .next { s with time := { m with slew := -o, align := .locked, good := 0, bad := 0 } }) ∧
        (t.align = .holdover → 16 ≤ t.good + 1 →
          exec (.timeMessage o) s = .next { s with time := { m with slew := -o, align := .locked, good := 0, bad := 0 } })) ∧
      (s.timeBound n < o.natAbs → t.align = .locked →
        exec (.timeMessage o) s = .next (
          if 4 ≤ t.bad + 1 then
            ({ s with time := { m with slew := -o, align := .holdover, good := 0, bad := 0, holdStart := t.gtc } }).event evTime 0 64
          else { s with time := { m with slew := -o, bad := t.bad + 1 } })) ∧
      (t.align = .coarse → o < 0 → exec (.timeMessage o) s =
        let near := decide (o.natAbs ≤ s.timeBound n)
        let m' := { m with gtc := (t.gtc + o.natAbs) % 2 ^ 64, slew := 0 }
        .next { s with time := if near ∧ 16 ≤ t.good + 1 then { m' with align := .locked, good := 0, bad := 0 }
                               else { m' with good := if near then t.good + 1 else 0 } })) ∧
    (t.align = .locked → s.isTimeRoot = false → 1000000 ≤ t.gtc - t.lastMsg → exec .timeMessageTimeout s =
      .next (({ s with time := { t with align := .holdover, good := 0, bad := 0, holdStart := t.gtc } }).event evTime 0 64)) ∧
    (t.align = .holdover → 1000000 * max 1 (s.regF 0x010018 31 16) < t.gtc - t.holdStart →
      exec .holdoverTimeout s = .next (s.fallCoarse.event evTime 1 65).rootLock) ∧
    (∀ v : Word, s.blockOpen 0x010020 = true → periodOk (v.toNat % 2 ^ 14) = true →
      (hullNos.any fun h => (s.hull h).state == .running || (s.hull h).state == .draining) = false →
      exec (.timeTickCfg v) s = .next ((s.setRegF 0x010020 29 16 (v.toNat / 2 ^ 16 % 2 ^ 14)).setRegF 0x010020 13 0 (v.toNat % 2 ^ 14))) ∧
    (∀ v : Word, s.blockOpen 0x010020 = true →
      (periodOk (v.toNat % 2 ^ 14) = false ∨ ∃ h, 1 ≤ h ∧ h ≤ 4 ∧ ((s.hull h).state = .running ∨ (s.hull h).state = .draining)) →
      exec (.timeTickCfg v) s = .next ((s.setRegF 0x010020 29 16 (v.toNat / 2 ^ 16 % 2 ^ 14)).event evTime 5 69)) ∧
    (∀ p, periodOk p = true ↔ 50 ≤ p ∧ p ≤ 10000 ∧ p % 10 = 0) ∧ State.reset.regF 0x010020 13 0 = 1000 ∧
    (∀ p, t.align = .locked → s.jv.plan = some p → exec .timeMessageSend s =
      .next ((upFrom 0 p.neighbours.length).foldl (fun (s : State) n =>
        if n = p.timeUp ∨ n = p.timeAlt then s else s.sendPriv 0 (p.neighbours.getD n (0, 0, 0)).1 pkTime [s.time.gtc]) s))) ∧
  (∀ (s : State) (die : Nat) (tj : Byte), die < 3 → s.rst.dev ≠ .cold →
    let s' := s.setTj die tj
    let l := throttleFor s.board.throttle s'.board.tj.toNat
    let soon := fun g => decide (s.time.gtc - g < 1000000)
    (l = s.board.throttle → exec (.throttleChange die tj) s = .next s') ∧
    (l ≠ s.board.throttle → s.board.throttleGtc.all (fun g => !soon g) = true →
      let v := { s' with board := { s'.board with throttle := l, throttleGtc := some s.time.gtc } }
      let w := hullNos.foldl (fun (s : State) h => s.setHull h { s.hull h with
        prog := (s.hull h).prog.map fun (p : Prog) => if p.state = 3 then { p with throttled := true } else p }) v
      exec (.throttleChange die tj) s = .next (((if l = 0 then v else w).envRec 3 0).raise 100)))

/-! ## JV links (R283–R300) -/

/-- R284, R286, R288, R290, R221: a DATA flit in order acknowledges, advances the expected number and lets the queue go on; a CONTROL flit
returns credits, and its NAK has every unacknowledged flit from the named one on replayed; one that fails its CRC or comes out of
order is answered by a NAK and changes only the counts. A message for this module is delivered once; one
of a stale generation is dropped and counted; one delivered before changes nothing. -/
def Obligations.FlitsAndMessagesAreTakenInOrder : Prop :=
  ∀ (s : State) (b : Nat), (s.bundle b).state = .up →
    (∀ f : Flit,
      let x := (s.bundle b).counted f s.time.gtc
      let good := f.bytes.length = 252 ∧ f.crc = crc32c f.bytes ∧ f.uncorrectable = false ∧ flitType f < 3
      (good → flitType f = 1 → flitSeq f = (s.bundle b).rxSeq →
        let y := x.acked (flitAck f)
        exec (.flitReceive b f) s = .next ((s.setBundle b { y with rxSeq := (y.rxSeq + 1) % 4096 }).pump b)) ∧
      (good → flitType f = 0 → exec (.flitReceive b f) s = .next ((s.setBundle b (x.acked (flitAck f))).pump b)) ∧
      (good → flitType f = 2 →
        let y := x.acked (flitAck f)
        let credits := (upFrom 0 4).map fun c => min (y.credits.getD c 0 + f.credits.getD c 0) (fullCredits.getD c 0)
        let y := { y with credits := credits }
        exec (.flitReceive b f) s = .next (
          if y.replayOf f = [] then (s.setBundle b y).pump b
          else ((s.setBundle b { y with replays := min (y.replays + 1) 0xFFFF, msReplays := y.msReplays + 1 }).emit
            (.replay b (y.replayOf f))).pump b)) ∧
      ((¬ good ∨ flitType f = 1 ∧ flitSeq f ≠ (s.bundle b).rxSeq) →
        exec (.flitReceive b f) s = .next ((s.setBundle b x).emit (.nak b (BitVec.ofNat 12 (s.bundle b).rxSeq))))) ∧
    (∀ m : Msg, m.body.length ≤ 69632 → m.cls < 4 → s.rst.dev ≠ .recovering → (s.bundle b).owner = m.dstHull → m.dstFid = s.fid →
      let v := (s.markSeen m).hear m.srcFid
      let x := s.hull m.dstHull
      (s.delivered m = true → exec (.messageReceive b m) s = .next s) ∧
      (s.delivered m = false → (m.cls = 3 ∨ m.pgen = x.pgen) →
        exec (.messageReceive b m) s = .next { v with jv := { v.jv with inbox := v.jv.inbox ++ [m] } }) ∧
      (s.delivered m = false → m.cls ≠ 3 → m.pgen ≠ x.pgen → exec (.messageReceive b m) s =
        .next (v.setHull m.dstHull { x with stale := min (x.stale + 1) 0xFFFFFFFF })))

/-- R287, R296–R299: a DOWN bundle whose peer signals or that has been DOWN for a second trains; an UP one past a limit or without an
active lane trains again; training that agrees with the plan and is wide enough ends in UP with full credits, else in DOWN; a
write of JV_DISABLE takes its bits over; waiting privileged messages are offered again. -/
def Obligations.BundleStatesChange : Prop :=
  (∀ (s : State) (b : Nat),
    let x := s.bundle b
    (x.state = .down → exec (.peerSignalDetect b) s = .next (s.leave b .training)) ∧
    (x.state = .down → 1000000000 ≤ s.time.gtc - x.downGtc → exec (.downTimeout b) s = .next (s.leave b .training)) ∧
    (x.state = .up → s.replayMax < x.msReplays ∨ s.fecMax < x.msFec →
      exec (.bundleRetrain b) s = .next (s.leave b .training)) ∧
    (∀ lane, x.state = .up → x.lanes.getLsbD lane = true → exec (.laneLoss b lane) s = .next (s.leave b .training)) ∧
    (∀ lanes fid owner planOwner p, x.state = .training → s.jv.plan = some p →
      let u := s.setBundle b { x with peerFid := fid }
      let w := trainedLanes lanes
      let agree := fid = (p.neighbours.getD x.neighbour (0, 0, 0)).1 ∧ owner = planOwner
      (agree → w.1 ≠ 0 → x.minWidth ≤ w.1 →
        let v := (u.setBundle b { u.bundle b with
          state := .up, width := w.1, lanes := w.2, credits := fullCredits, slot := 0, rxSeq := 0, txSeq := 0, retry := [],
          msStart := s.time.gtc, msReplays := 0, msFec := 0 }).event evJv 2 386
        exec (.trainingComplete b lanes fid owner planOwner) s =
          .next ((if w.1 < 4 then v.event evJv 0 384 else v).flushWaiting)) ∧
      (agree → w.1 = 0 ∨ w.1 < x.minWidth → exec (.trainingComplete b lanes fid owner planOwner) s = .next (u.enterDown b)) ∧
      (¬ agree → exec (.trainingComplete b lanes fid owner planOwner) s = .next ((u.event evJv 5 389).enterDown b)))) ∧
  (∀ (s : State) (v : Word), s.blockOpen 0x0A0018 = true → exec (.jvDisable v) s = .next (s.setDisable (v.setWidth 36))) ∧
  (∀ (s : State), exec .privRetry s = .next (s.jv.privWait.foldl State.offerPriv { s with jv := { s.jv with privWait := [] } }))

/-! ## Collectives (R304–R328) -/

/-- R310, R316–R318, R315, R322, R58: a started operation takes START_AMOUNT from its counter and its tensor as contribution, with the one
deferred into it; a contribution decided as deferred goes to DEFER. A chunk that passes its checks is taken in, one of an older EPOCH
or generation is counted and dropped, one that fails its check or its piece's digest stops the hull; a record of an exact operation
is kept, and the parent's is the result, at a lost position its heir's. Each lets the group's operations go on. -/
def Obligations.CollectiveOperationsTakeTheirInputs : Prop :=
  ∀ (raw : State) (h op : Nat) (c : CCtx) (p : Prog), raw.noHold →
    let s := raw.settled
    s.cctx h op = some c → (s.hull h).prog = some p →
    (s.hull h).state = .running →
    let r := s.opRun h op
    (∀ o, r.starts = 0 → (c.e.kind = ckRotate → 0 < c.e.defer % 65536 ∧ r.rounds = 0) →
      (c.g.state ≠ 2 ∨ c.g.hull ≠ h →
        exec (.collOpStart h op []) raw = .next (((s.stopHull h 3 sFAULT true).collRec h c.gid op 0 0 c.step).raise 98).settled) ∧
      (c.g.state = 2 → c.g.hull = h → tfind s.sync c.e.startId = some o → o.kind = 0 → o.hull = h → o.waiters = [] →
        c.e.startAmount ≤ o.value → s.cleanRange h p c.e.src 0 c.e.bytes →
        let v := { s with sync := tput s.sync c.e.startId ({ o with value := o.value - c.e.startAmount } : SyncObj).advance }
        let data := (s.collRead h p c.e.src 0 c.e.bytes).data
        let own := if c.e.kind = ckExact then some (c.ownRecord data) else none
        let due := s.deferredIn c c.me && c.e.defer != 0 && decide (c.e.kind ≠ ckRotate)
        (s.decidedOf c r ≠ some 1 → (due = true → s.cleanRange h p c.e.defer 0 c.e.bytes) →
          exec (.collOpStart h op []) raw = .next ((v.setRun h (r.acquired s.time.gtc data
            (if due = true ∧ s.decidedOf c r = none then some (s.collRead h p c.e.defer 0 c.e.bytes).data else none) own)).progressGroup
              h c.gid).settled) ∧
        (s.decidedOf c r = some 1 →
          let w := v.collWrite h c.e.defer 0 data
          let dr := w.collTake h p c.e.defer 0 c.e.bytes
          (due = false →
            exec (.collOpStart h op []) raw = .next ((w.setRun h (r.acquired s.time.gtc data none own)).progressGroup h c.gid).settled) ∧
          (due = true → dr.2 ≠ none → exec (.collOpStart h op []) raw =
            .next ((dr.1.setRun h (r.acquired s.time.gtc data none own)).progressGroup h c.gid).settled)))) ∧
    (∀ k m, s.jv.inbox[k]? = some m → m.cls = 0 → m.dstHull = h → 32 ≤ m.body.length → (m.body.length - 32) % 4104 = 0 →
      let q := readChunk m
      q.op = op → q.gid = c.gid →
      let v := s.takeInbox k
      let g := s.group c.gid
      let old := q.epoch ≠ g.epoch ∧ newer 8 q.epoch.toNat g.epoch.toNat = false
      let w := v.setRun h (r.received q.chunk s.time.gtc)
      (m.pgen ≠ (s.hull h).pgen → exec (.chunkReceive h k []) raw = .next (v.countStale h).settled) ∧
      (m.pgen = (s.hull h).pgen → old →
        exec (.chunkReceive h k []) raw = .next (v.setGroup c.gid { g with stale := min (g.stale + 1) 0xFFFF }).settled) ∧
      (m.pgen = (s.hull h).pgen → ¬ old →
        (∀ i ck, chunkBad c q = some (i, ck) →
          exec (.chunkReceive h k []) raw = .next (v.huskStop 0x0600 h 0xFF 0xFF c.e.dst i ck).settled) ∧
        (chunkBad c q = none → (r.received q.chunk s.time.gtc).digestBad c q.chunk = true →
          exec (.chunkReceive h k []) raw = .next (((((w.event evColl 2 514).collRec h c.gid op q.chunk.piece q.chunk.sender c.step).stopHull h
            3 sFAULT true).raise 98)).settled) ∧
        (chunkBad c q = none → (r.received q.chunk s.time.gtc).digestBad c q.chunk = false →
          exec (.chunkReceive h k []) raw = .next ((w.landGather c q.chunk).progressGroup h c.gid).settled))) ∧
    (∀ e : ExactRecord, e.op = op → e.group = c.gid → c.e.kind = ckExact → e.step = c.step →
      let result := if c.alive c.me then decide (c.me ≠ c.root ∧ e.pos = c.parent c.me ∧ e.heir = false)
                    else decide (c.posOf (c.heirOf c.me) = some e.pos)
      let known := r.records.any fun k => k.pos == e.pos && k.heir == e.heir
      (result = true → exec (.exactRecord h e) raw = .next ((s.exactResult c e).progressGroup h c.gid).settled) ∧
      (result = false → known = true ∨ c.alive c.me = false → exec (.exactRecord h e) raw = .next s) ∧
      (result = false → known = false → c.alive c.me = true → exec (.exactRecord h e) raw =
        .next ((s.setRun h { r with records := r.records ++ [e] }).progressGroup h c.gid).settled))

/-- R319–R321, R323: a contribution that is late under the group's policy is decided, told to the other members and leaves the operation
open without it; a decision of this step is taken once and passed on, one of an older EPOCH or about an excluded member is void;
heartbeats go to the ring neighbours while an operation is open, and a neighbour unheard for LOSS_US is proposed as lost, up the
tree that the loss leaves. -/
def Obligations.LateAndLostMembersAreDecided : Prop :=
  (∀ (raw : State) (h op : Nat) (c : CCtx) (p : Prog), raw.noHold →
    let s := raw.settled
    s.cctx h op = some c → (s.hull h).prog = some p →
    (s.hull h).state = .running →
    let r := s.opRun h op
    (∀ g, p.isReplay = false → c.g.policy ≠ 0 → (c.e.kind = ckAllReduce ∨ c.e.kind = ckReduceScatter ∨ c.e.kind = ckDirect) →
      r.starts = 0 → r.decided = none → r.firstMsgGtc = some g → 1000 * c.g.lateUs ≤ s.time.gtc - g →
      let d : Decision := { group := c.gid, op := op, step := c.step, epoch := c.g.epoch.toNat, pos := c.me,
                            kinds := (if c.g.policy = 1 then 1 else 2) :: (if s.deferredIn c c.me then [2] else []) }
      let v := (s.setRun h { r with decided := some c.g.policy, openGtc := s.time.gtc }).event evColl 0 512
      exec (.lateDecision h op) raw = .next (((v.addDecision c d).passDecision c d true).progressGroup h c.gid).settled) ∧
    (∀ d : Decision, d.op = op → d.group = c.gid → d.step = c.step → d.epoch = c.g.epoch.toNat → c.alive d.pos = true →
      exec (.decisionMessage h d) raw = .next (
        if r.decisions.contains d then ((s.passDecision c d false).progressGroup h c.gid).settled
        else (((s.addDecision c d).passDecision c d true).progressGroup h c.gid).settled)) ∧
    (∀ d : Decision, d.op = op → d.group = c.gid → d.step = c.step →
      c.alive d.pos = false ∨ (d.epoch ≠ c.g.epoch.toNat ∧ newer 8 d.epoch c.g.epoch.toNat = false) →
      exec (.decisionMessage h d) raw = .next s)) ∧
  (∀ (s : State) (h group : Nat) (c : CCtx), s.openOp h group = some c →
    (let v := c.neighbours.foldl (fun (s : State) p => s.sendPriv h (c.fid p) pkBeat [group, c.me]) s;
      exec (.heartbeat h group) s = .next (v.setGroup group { v.group group with lastBeat := s.time.gtc })) ∧
    (∀ pos, c.neighbours.contains pos = true →
      1000 * s.regF 0x0B0010 27 16 ≤ s.time.gtc - max (tget 0 c.g.heard pos) (s.opRun h c.e.op).openGtc →
      let v := s.event evColl 4 516
      let lost := pos :: c.g.lost.map fun l => l.1
      exec (.suspect h group pos) s = .next (
        if s.inReplay h = true ∨ c.me = treeRoot c.n lost then v
        else v.sendPriv h (c.fid (treeParent c.n lost 8 c.me)) pkProposal [c.gid, pos, c.me])))

/-- R324–R326, R321, R273–R277: a proposal goes up the tree, and the root answers it with a decision for every survivor and the lost
member, which stops on it; a survivor's group takes the loss with the next EPOCH, its open operations run again and their decisions
are made again; a twin copy takes the feed's blocks and the peer's digest, and the survivor sends and a new twin takes layer after
layer; when the new twin is lost its shards stand alone again. -/
def Obligations.ReformsAndTwinsTakeEffect : Prop :=
  ∀ (raw : State) (h : Nat) (p : Prog),
    let s := raw.settled
    (s.hull h).prog = some p →
    let x := s.hull h
    (∀ group lostPos proposer votes c, x.state = .running → p.isReplay = false →
      let ops := p.image.coll.filter fun e => e.group == group
      (ops.head?.bind fun e => s.cctx h e.op) = some c →
      let lost := c.g.lost.map fun l => l.1
      let survivors := (upFrom 0 c.n).filter fun q => q != lostPos && !lost.contains q
      let root := treeRoot c.n (lostPos :: lost)
      lost.contains lostPos = false → lost.contains c.me = false → c.me ≠ lostPos → lostPos < c.n → proposer < c.n →
      let heirLost := lost.any fun q => (c.g.roster.getD q (0, 0, 0)).1 == (c.g.roster.getD lostPos (0, 0, 0)).2.2
      let v := maxOf (s.votesOf h group :: votes)
      let first := if v < ops.length then ((ops.getD v c.e).op, x.step) else (c.e.op, x.step + 1)
      exec (.reformProposal h group lostPos proposer votes) raw = .next (
        if c.me ≠ root then
          raw.sendPriv h (c.fid (treeParent c.n (lostPos :: lost) 8 c.me)) pkProposal [c.gid, lostPos, proposer]
        else if heirLost = true ∨ survivors = [] then raw.event evColl 3 515
        else (survivors ++ [lostPos]).foldl (fun (s : State) q =>
          if q = c.me then s else s.sendPriv h (c.fid q) pkReform [group, lostPos, first.1, first.2]) raw)) ∧
    (∀ group lostPos firstOp step, s.noHold → x.state = .running → p.isReplay = false →
      let g := s.group group
      g.state = 2 → g.hull = h → (g.lost.any fun l => l.1 == lostPos) = false →
      (g.myPos = lostPos → exec (.reformDecision h group lostPos firstOp step) raw = .next ((s.stopHull h 3 sFAULT true).raise 98).settled) ∧
      (g.myPos ≠ lostPos →
        let g' := { g with lost := g.lost ++ [(lostPos, firstOp, step)], epoch := g.epoch + 1, lastPos := lostPos, lastOp := firstOp,
                           lastStep := step }
        let v := (s.setGroup group g').event evColl 1 513
        let w := v.setHull h { x with prog := some { p with
          ops := p.ops.map fun (r : OpRun) => if (p.image.coll.any fun e => e.op == r.op && e.group == group) && !r.done
            && notBefore x.step r.op step firstOp then r.redone g.myPos else r
          entries := if step ≤ x.step
            then p.entries.filter fun e => !voidEntry group (if step < x.step then 0 else firstOp) e else p.entries } }
        exec (.reformDecision h group lostPos firstOp step) raw =
          .next ((((w.shareFinals h group firstOp step).announceAgain h group).rankLost h
            (g.roster.getD lostPos (0, 0, 0)).1).progressGroup h group).settled)) ∧
    (∀ k m, s.noHold → x.state = .running → s.jv.inbox[k]? = some m → m.cls = 1 → m.dstHull = h → 0 < m.body.length / 4104 →
      m.body.length % 4104 = 0 → m.pgen = x.pgen →
      let tensor := m.tag.toNat % 2 ^ 20
      let first := m.tag.toNat / 2 ^ 20 % 2 ^ 32
      let n := m.body.length / 4104
      p.isTwinTensor tensor = true →
      (∀ i, i < n → huskOf (slice (m.body.take (4096 * n)) (4096 * i) 4096) (huskTag tensor (first + i)) =
        BitVec.ofNat 64 (fieldLe m.body (4096 * n + 8 * i) 8)) →
      let v := (s.takeInbox k).collWrite h tensor (4096 * first) (m.body.take (4096 * n))
      exec (.twinFeed h k []) raw = .next (v.setHull h { v.hull h with
        prog := (v.hull h).prog.map fun (p : Prog) => { p with fed := p.fed ++ (upFrom first n).map fun i => (tensor, i) } }).settled) ∧
    (∀ shard role step digest sh, x.state = .running → role < 2 → p.copy shard (role == 1) = some sh →
      exec (.twinDigest h shard role step digest) raw =
        .next ((raw.setShard h { sh with peer := some (step, digest) }).twinCompare h shard (role == 1))) ∧
    (∀ shard sh d, s.noHold → x.state = .running →
      let todo := p.shards.filter fun q => q.state == .onboarding && decide (q.layersCopied < p.layers q.id)
      (ascending (todo.map fun q => q.id)).head? = some shard → todo.find? (fun q => q.id == shard) = some sh → p.shard shard = some d →
      let tensor := d.tensors.getD sh.layersCopied 0
      let bytes := p.bytesOf tensor
      let v := s.setShard h { sh with layersCopied := sh.layersCopied + 1, copiedStep := x.step }
      let w := v.setHull h { v.hull h with
        prog := (v.hull h).prog.map fun (p : Prog) => { p with copiedBytes := p.copiedBytes + bytes } }
      (p.twinOnly = true → p.rehomeStart ≤ x.step → (p.copiedBytes = 0 ∨ p.copiedBytes + bytes ≤ p.rehomeBytes) →
        exec (.layerCopy h shard sh.layersCopied []) raw = .next w.settled) ∧
      (p.twinOnly = false → exec (.layerCopy h shard sh.layersCopied []) raw =
        .next (match p.memPlace tensor with
          | some (tierB, base) => w.twinFeed h tierB base tensor 0 bytes
          | none => w).settled)) ∧
    exec (.newTwinLost h) raw =
      .next ((p.shards.filter fun q => q.owner && (q.state == .onboarding || q.state == .probation)).foldl (fun (s : State) q =>
        let q := { q with layersCopied := 0, own := none, peer := none }
        (s.setShard h q).shardState h q .single (twinCode .single)) raw)

/-! ## Folds, reclaims and destruction (R338–R351) -/

/-- R341–R346, R348, R350, R351: a reclaim that cannot wait is forced; at its fold point the hull folds to what remains, or stops where nothing fits;
what it removed is quiesced, scrubbed and free; a destroyed hull without work is scrubbed and FREE. A scrubbed unit holds only the
unwritten marker, and other units are as they were. The root answers a placement request with the next generation, every member
passes the setting on and takes it, and a resend request is passed on and kept until the generation it names is held. -/
def Obligations.ReclaimsRunTheirCourse : Prop :=
  (∀ (s : State) (h : Nat) (r : Reclaim) (rest : List Reclaim), (s.hull h).reclaims = r :: rest →
    let x := s.hull h
    (x.state = .running → x.foldForced = false → x.holds.getLsbD 0 = false → r.phase = 1 →
      r.forceNow = true ∨ r.gtc + 1000000 * r.forceMs ≤ s.time.gtc →
      exec (.reclaimForceTimeout h) s = .next ((s.setHull h { x with
        reclaims := { r with forced := true } :: rest, lastForced := true, foldForced := true, halted := false,
        holds := if r.forceNow then x.holds ||| 1 else x.holds }).event evHull 1 81)) ∧
    (x.state = .granted → r.phase = 1 → s.copyingIn h r = false → exec (.foldPoint h) s = .next (s.foldFinish h 0 [])) ∧
    (∀ p, x.state = .running → x.prog = some p → r.phase = 2 → s.copyingIn h r = false →
      exec (.evacuationComplete h) s = .next (match s.foldTarget h p with
        | some t => s.foldFinish h t.1 t.2
        | none => (s.foldStop h true).foldRest h (s.goingPods h))) ∧
    (x.state = .running → r.phase = 2 → r.foldGtc + 1000000000 * s.regF 0x020010 20 16 ≤ s.time.gtc →
      exec (.evacuationTimeout h) s = .next ((s.foldStop h true).foldRest h (s.goingPods h))) ∧
    (r.phase = 3 → exec (.quiesceComplete h) s = .next (s.setHull h { x with reclaims := { r with phase := 4 } :: rest })) ∧
    (∀ fa fb, x.state ≠ .scrubbing → r.phase = 4 →
      let v := (s.scrubRemoved r fa fb).event evHull 4 84
      let w := (v.setHull h { v.hull h with reclaims := rest }).returnLoan r.grant
      exec (.scrubComplete h fa fb) s =
        .next (((w.1.setHull h { w.1.hull h with lastReturned := w.2 }).serveReclaim h).event evHull 2 82))) ∧
  (∀ (s : State) (h : Nat),
    let x := s.hull h
    let t := s.setHull h { x with halted := false }
    (∀ p f spill, x.state = .running → x.holds.getLsbD 0 = true → s.foldDue h = true → x.prog = some p → x.reclaims = [] →
      x.ckpt.state ≠ 2 → t.foldTarget h p = some (f, spill) → exec (.foldPoint h) s = .next (t.foldFinish h f spill)) ∧
    (x.state = .running → x.holds.getLsbD 0 = true → s.foldDue h = false → exec (.foldPoint h) s =
      .next (s.setHull h { x with holds := x.holds &&& 0b11110, foldForced := false })) ∧
    (∀ fa fb, x.state = .scrubbing → exec (.scrubComplete h fa fb) s = .next ((s.freeHull h fa fb).event evHull 4 84)) ∧
    (x.state = .draining → x.ckpt.state ≠ 2 → x.ckpt.state ≠ 3 →
      ((s.podsOf h).all fun p => (s.eng (2 * p)).queue.isEmpty && (s.eng (2 * p + 1)).queue.isEmpty) = true → s.mem.mapout = none →
      exec (.drainEnd h) s = .next (s.setHull h { x with state := .scrubbing }))) ∧
  (∀ (s : State) (u : MemUnit) (k : Nat),
    (k / blkPer (unitTier u) = unitNo u → ((s.scrubUnit u false).blk (unitTier u) k).isUnwritten = true) ∧
    (k / blkPer (unitTier u) ≠ unitNo u → (s.scrubUnit u false).blk (unitTier u) k = s.blk (unitTier u) k) ∧
    (s.scrubUnit u false).blk (!unitTier u) k = s.blk (!unitTier u) k) ∧
  (∀ (s : State) (h : Nat) (c : CCtx), s.worldCtx h = some c →
    (∀ gens forced, c.me = c.root →
      let g := BitVec.ofNat 32 (maxOf ((s.hull h).pgen.toNat :: gens.map fun g => g.toNat) + 1)
      let step := if forced then (s.hull h).step else (s.hull h).step + 2
      exec (.placementRequest h gens forced) s = .next ((s.passSetting h g step).takeSetting h g step)) ∧
    (∀ fid g step,
      let vals := [fid.toNat, g.toNat, step]
      let v := if c.me = c.root ∨ c.under fid c.me = false then s else s.sendPriv h (c.fid (c.parent c.me)) pkResend vals
      let w := ((c.children c.me).filter fun q => !c.under fid q).foldl (fun (s : State) q => s.sendPriv h (c.fid q) pkResend vals) v
      exec (.resendRequest h fid g step) s =
        .next ((w.setHull h { w.hull h with resends := (w.hull h).resends ++ [(fid, g, step)] }).serveResends h))) ∧
  (∀ (s : State) (h : Nat) (g : Word32) (step : Nat), isHull h = true → (s.hull h).state ≠ .free →
    exec (.placementSetting h g step) s = .next ((s.passSetting h g step).takeSetting h g step))

/-! ## Probes, hang timers and vendor programs (R392, R403, R450) -/

/-- R392, R403, R450: a probe run ends as it passed or failed, one that runs too long fails; a wait, a runaway or a run of overruns past its
limit is a hang with what it names; a vendor program past its end ends. -/
def Obligations.ProbesAndHangTimersEnd : Prop :=
  ∀ (s : State),
    (∀ tile check, s.probe.state = 2 → exec (.probeRunEnd true tile check) s = .next s.probePass ∧
      exec (.probeRunEnd false tile check) s = .next (s.probeFail tile check)) ∧
    (s.probe.state = 2 → s.probe.gtc + 1000000 * s.probe.durationMs < s.time.gtc →
      ∃ check, exec .probeTimeout s = .next (s.free.2.probeFail 0xFF check)) ∧
    (∀ t, s.timersOf t = true →
      let x := s.tile t
      let h := (s.pod (podOf t)).hull
      let ms := s.regF 0x0D0010 15 0
      (∀ q n, x.wait = some (.queue q n) → 18 * 1000000 * ms ≤ x.waited → exec (.queueTimeout t) s = .next (s.trigger
        { trigger := 1, slot := 5, hull := h, tile := some t, queue := q, syncId := 0, source := x.lam, start := x.stallGtc,
          limitNs := 1000000 * ms } true)) ∧
      (∀ id, x.syncWait.bind Wait.object = some id →
        let ns := 1000 * s.periodUs * (match tfind s.sync id with | some o => o.timeout | none => 4)
        18 * ns ≤ x.waited → exec (.syncTimeout t) s = .next (s.trigger
          { trigger := 2, slot := 6, hull := h, tile := some t, queue := 0, syncId := id, source := x.lam, start := x.stallGtc,
            limitNs := ns } true)) ∧
      ((s.hull h).holds = 0 → x.eot = false → x.wait = none → x.syncWait = none →
        s.periodUs * 1200 + s.regF 0x0D0010 31 16 * 1000 < x.issued → exec (.runaway t) s = .next (s.trigger
          { trigger := 3, slot := 0xFF, hull := h, tile := some t, queue := 0, syncId := 0, source := x.lam,
            start := (s.hull h).tickStart, limitNs := 0 } true))) ∧
    (∀ h p, isHull h = true → (s.hull h).prog = some p → (s.hull h).state = .running → (s.hull h).holds = 0 →
      0 < s.regF 0x0D0010 39 32 → s.regF 0x0D0010 39 32 ≤ p.overruns →
      ∃ src, src < 128 ∧ exec (.overrunRun h) s = .next (s.trigger
        { trigger := 4, slot := 0xFF, hull := h, tile := none, queue := 0, syncId := 0, source := src, start := (s.hull h).tickStart,
          limitNs := 0 } true)) ∧
    (∀ h, h ≤ 4 → (if h = 0 then s.sec.ctx0End else (s.hull h).notAfter) ≤ s.time.gtc →
      exec (.vendorExpiry h) s = .next (s.vendorEnd h))

/-! ## Hangs, resets, recovery, start-up (R402–R414, R480–R482) -/

/-- R403–R414: a commanded reset in service freezes the device under trigger 6, out of service it is refused; the captured device is reset and
goes on with recovery, or leaves service on escalation; recovery re-measures, trains, clears, and decides the state; a failed phase
ends service, and READMIT takes it up again; the buffer is released; the watchdog warns, then hangs. The reset discards every
program and tile and keeps memory, time, host memory and probe content. -/
def Obligations.ResetsRunTheirPhases : Prop :=
  (∀ (s : State),
    (∀ cap, s.inService = false → exec (.warmReset cap) s = .next (s.event evRst 3 707)) ∧
    (∀ cap, s.inService = true → ∃ start, exec (.warmReset cap) s = .next (s.hangFreeze
      { trigger := 6, slot := 0xFF, hull := 0, tile := none, queue := 0, syncId := 0, source := 0x0600, start := start, limitNs := 0 } cap)) ∧
    (∀ trig take n esc, s.rst.hang = some (trig, take, n, esc) → s.rst.dev = .recovering → s.rst.phase = 1 →
      let v := if take then s.capture else s
      let w := (if trig ≤ 5 then v.countReset else v).warmReset
      exec .captureComplete s = .next (if esc then w.outOfService else { w with rst := { w.rst with phase := 4 } })) ∧
    (∀ tr : Training, s.rst.dev = .recovering → s.rst.phase = 4 →
      (tr.firmwareOk = true → s.rst.hang = none ∨ s.time.gtc ≤ s.reg 0x0D0028 + 12000000000 →
        let v := ((((s.extend 1 tr.firmwareDigest).freshNonce).train tr).clearPods)
        let w := (upFrom 0 5).foldl State.vendorEnd v
        exec (.recoveryComplete tr) s =
          .next (((({ w with board := { w.board with standby := false } }).rootLock).decide_).event evRst 0 704)) ∧
      (tr.firmwareOk = false → exec (.recoveryComplete tr) s = .next s.countReset.outOfService)) ∧
    (s.rst.dev = .recovering → exec .recoveryTimeout s = .next s.countReset.outOfService) ∧
    (s.rst.dev = .outOfService → exec .readmit s = .next (State.warmRings
      { s with rst := { s.rst with dev := .recovering, phase := 4, hist := [], oosFlag := false, hang := none }
               board := { s.board with wdogGtc := s.time.gtc } })) ∧
    (s.rst.dev ≠ .outOfService → exec .readmit s = .next (s.event evRst 3 707)) ∧
    (s.rst.dev ≠ .cold → exec .capRelease s = .next { s with rst := { s.rst with capHeld := false } }) ∧
    (s.wdogLate 1000000000 = true → (s.rst.dev ≠ .recovering ∨ s.freezing = true) → exec .fwWatchdog s = .next (s.trigger
      { trigger := 5, slot := 0xFF, hull := 0, tile := none, queue := 0, syncId := 0, source := 0x0600,
        start := s.time.gtc - 1000000000, limitNs := 1000000000 } true)) ∧
    (s.wdogLate 500000000 = true → s.rst.dev ≠ .cold → exec .watchdogWarning s =
      .next ((upFrom 0 8).foldl (fun (s : State) c => s.signal (privKey c 3)) s))) ∧
  (∀ (s : State), let u := s.warmReset
    u.mem.a = s.mem.a ∧ u.mem.b = s.mem.b ∧ u.time.gtc = s.time.gtc ∧ u.host = s.host ∧ u.slots = s.slots ∧
      u.maxVersion = s.maxVersion ∧ u.fixed = s.fixed ∧ u.tiles = [] ∧ u.sync = [] ∧ u.aus = [] ∧ ∀ h, (u.hull h).prog = none)

/-- R471–R482: PWR_EN high takes the device from COLD to INIT with its straps; the end of start-up decides the state, a phase that takes
too long ends service; loss of power, a trip and a rail failure drop PWR_GOOD, and power removal keeps the non-volatile store and
the fuses; pins and readings take their values, with their events where they go out of limits. -/
def Obligations.PowerAndPinsTakeEffect : Prop :=
  (∀ (s : State),
    (∀ sel slot, s.board.pwrEn = false →
      let v := s.coldState
      let w := ({ v with board := { v.board with pwrEn := true, pwrGood := true, refclkSel := sel, slotId := slot }
                         rst := { v.rst with dev := .init, startPhase := 1 } } : State).emit (.pin "PWR_GOOD" true)
      exec (.pwrEnHigh sel slot) s = .next (if s.board.leakN then w else (w.envRec 2 0).event evDev 1 103)) ∧
    (∀ tr : Training, s.rst.dev = .init → s.rst.startPhase ≠ 0 → s.rst.bscanUsed = false →
      let v := s.startUp tr
      exec (.startUpEnd tr) s = .next (if v.rst.oosFlag then v.outOfService
        else if v.sec.state = 2 then { v with rst := { v.rst with startPhase := 0 } } else v.decide_) ∧
      ∃ wait limit, exec .startPhaseTimeout s = .next ((s.countReset.log1 (mkRec 0x0E 3 0x0600 0 0xFF 0xFF 0 (natLe 1 0xFF ++ natLe 1 0
        ++ natLe 2 0 ++ natLe 4 0 ++ natLe 8 wait ++ natLe 8 limit ++ zeros 8))).outOfService)) ∧
    (let v := if s.board.thermtripN then s else s.emit (.pin "THERMTRIP_N" true);
      exec .powerRemoval s = .next (State.removePower { v with board := { v.board with pwrEn := false, thermtripN := true } })) ∧
    exec .inputUndervoltage s = .next s.removePower ∧
    (∀ die tj outlet, s.rst.dev ≠ .cold → die < 3 → 120 ≤ tj.toNat ∨ 65 ≤ outlet.toNat →
      let v := s.setTj die tj
      let w := (({ v with board := { v.board with outletC := outlet } } : State).envRec 4 3).emit (.pin "THERMTRIP_N" false)
      exec (.thermalTrip die tj outlet) s = .next (State.removePower { w with board := { w.board with thermtripN := false } })) ∧
    (s.board.pwrGood = true → exec .railOutOfRegulation s =
      .next (({ s with board := { s.board with pwrGood := false } } : State).emit (.pin "PWR_GOOD" false))) ∧
    (∀ level, exec (.perst level) s =
      let v := { s with board := { s.board with perstN := level } }
      .next (if s.board.perstN = true ∧ level = false ∧ s.rst.dev ≠ .cold then v.regOr evDev 4 else v)) ∧
    (∀ level, exec (.leak level) s =
      let v := { s with board := { s.board with leakN := level } }
      .next (if s.board.leakN = true ∧ level = false ∧ s.rst.dev ≠ .cold then (v.envRec 2 0).event evDev 1 103 else v)) ∧
    (s.rst.dev ≠ .cold →
      (∀ inlet outlet flow kpa,
        let bad := decide (45 < inlet.toNat ∨ flow.toNat < 1500)
        let v := { s with board := { s.board with inletC := inlet, outletC := outlet, flow := flow, kpa := kpa, coolBad := bad } }
        exec (.coolant inlet outlet flow kpa) s = .next (if bad then (v.envRec 1 0).event evDev 0 102 else v)) ∧
      (∀ up, exec (.ethPortStateChange 0 up) s = .next { s with board := { s.board with eth0 := up } } ∧
        exec (.ethPortStateChange 1 up) s = .next { s with board := { s.board with eth1 := up } }) ∧
      (∀ i, let v := { s with board := { s.board with tap := i } }
        (i = .idcode → exec (.testAccessInstruction i) s = .next (v.emit (.tdo v.idcode))) ∧
        (i = .extest ∨ i = .extestPulse ∨ i = .extestTrain → exec (.testAccessInstruction i) s =
          .next (if s.rst.dev = .init then { v with rst := { v.rst with bscanUsed := true } } else v)) ∧
        (i = .bypass ∨ i = .sample ∨ (∃ n, i = .other n) → exec (.testAccessInstruction i) s = .next v)))) ∧
  (∀ (s : State), let u := s.removePower
    u.rst.dev = .cold ∧ u.board.pwrGood = false ∧ u.fixed = s.fixed ∧ u.maxVersion = s.maxVersion ∧ u.bypass = s.bypass ∧
      u.host = s.host ∧ u.mem.a = [] ∧ u.mem.b = [] ∧ u.hulls = [] ∧ u.tiles = [] ∧ u.slots = [] ∧ u.log = [])

/-! ## Registers (R7, R12, R14) and configuration (R90, R333, R359, R414, R447, R449) -/

/-- R12, R7, R8: a write of a register held as a word gives its RW fields the value and clears W1C bits written as 1, leaving every other bit; a
read answers the register's word and clears its RC fields; an offset that holds no register, and a block that is not open, read as
zero; an access that is not an aligned one of 8 bytes changes nothing but
the error log, its register and event. -/
def Obligations.RegisterAccessesFollowTheFieldTypes : Prop :=
  (∀ (s : State) (a : Accessor) (off : BitVec 24), s.reaches a off.toNat = true → off.toNat % 8 = 0 →
    exec (.rcRead a off) s = .next (s.readClear a off.toNat) ∧
    (regAt off.toNat = none → exec (.rcRead a off) s = .next (s.emit (.regRead a off.toNat 0))) ∧
    (∀ r, regAt off.toNat = some r → r.maskOf .rc = 0 → r.name ≠ .icClaim →
      exec (.rcRead a off) s = .next (s.emit (.regRead a off.toNat (BitVec.ofNat 64 (s.imageReg off.toNat))))) ∧
    (∀ (v : Word), exec (.registerWrite a off v) s = .next (s.writeReg a off.toNat v)) ∧
    (∀ (v : Word) r, off.toNat ∈ wordRegs → regAt off.toNat = some r →
      exec (.registerWrite a off v) s = .next (s.writeWord r off.toNat v.toNat))) ∧
  (∀ (s : State) (off : BitVec 24), off.toNat % 8 = 0 → s.rst.dev ≠ .cold → s.blockOpen off.toNat = false →
    exec (.rcRead .host off) s = .next (s.emit (.regRead .host off.toNat 0))) ∧
  (∀ (s : State) (r : RReg) (off v : Nat), r.maskOf .rw &&& r.maskOf .w1c = 0 →
    let u := s.writeWord r off v
    (∀ i, (u.reg off).testBit i =
      if (r.maskOf .rw).testBit i then (v.testBit i && decide (i < 64))
      else if (r.maskOf .w1c).testBit i then (s.reg off).testBit i && !v.testBit i else (s.reg off).testBit i) ∧
    (∀ o, o ≠ off → u.reg o = s.reg o) ∧ { u with regs := s.regs } = s) ∧
  (∀ (s : State) (addr : BitVec 48) (size : Nat) (write : Bool), s.rst.dev ≠ .cold → (addr.toNat % 8 ≠ 0 ∨ size ≠ 8) →
    let v := ((s.log1 (mkRec 0x01 0 0x0600 0 0xFF 0xFF 0 (natLe 8 addr.toNat ++ natLe 1 size ++ natLe 1 (b2n write) ++ natLe 1 0))).setReg
      0x0C0048 (addr.toNat + bitAt write 48)).event evIntg 7 583
    exec (.bar0InvalidAccess addr size write) s = .next (if write then v else v.emit (.regRead .host addr.toNat 0)))

/-- R333, R359, R414, R90, R447, R449: a configuration in range is taken, one out of range sets the event and changes nothing else; a hull's
share is taken where the shares and its charges allow it; a write of SEC_CFG is measured into M4; a report is begun for a hull that
is not FREE, and written with its signature when done. -/
def Obligations.ConfigurationsAreTakenInRange : Prop :=
  ∀ (s : State),
    (∀ v : Word, s.blockOpen 0x0B0010 = true →
      let beat := v.toNat % 2 ^ 10
      let loss := v.toNat / 2 ^ 16 % 2 ^ 12
      exec (.collCfg v) s = .next (
        if 50 ≤ beat ∧ beat ≤ 500 ∧ 500 ≤ loss ∧ loss ≤ 3500 ∧ loss + beat ≤ 4000 then s.setReg 0x0B0010 (beat + loss * 2 ^ 16)
        else s.event evColl 5 517)) ∧
    (∀ v : Word, s.blockOpen 0x020010 = true →
      let force := v.toNat % 2 ^ 15
      let evac := v.toNat / 2 ^ 16 % 2 ^ 5
      exec (.hullCfg v) s = .next (
        if 10 ≤ force ∧ force ≤ 30000 ∧ 1 ≤ evac ∧ evac ≤ 25 then s.setReg 0x020010 (force + evac * 2 ^ 16) else s.event evHull 5 85)) ∧
    (∀ v : Word, s.rst.dev ≠ .cold →
      let wait := v.toNat % 2 ^ 16
      let grace := v.toNat / 2 ^ 16 % 2 ^ 16
      exec (.rstCfg v) s = .next (
        if 1 ≤ wait ∧ wait ≤ 60000 ∧ 1 ≤ grace then s.setReg 0x0D0010 (v.toNat % 2 ^ 40) else s.event evRst 3 707)) ∧
    (∀ h (v : Word), isHull h = true → s.blockOpen 0x030040 = true →
      let x := s.hull h
      let n := v.toNat % 2 ^ 13
      let others := sumOf ((hullNos.filter fun k => k != h).map fun k => (s.hull k).share)
      let need := match x.prog with
        | some _ => x.standing + sumOf ((s.podsOf h).map fun p => (s.pod p).share)
        | none => 0
      exec (.pwrHshare h v) s = .next (if others + n ≤ 5600 ∧ need ≤ n then s.setHull h { x with share := n } else s.event evPwr 8 97)) ∧
    (∀ v : Word, s.blockOpen 0x0F0008 = true →
      let m := s.sec.meas.getD 4 0
      let d := sha384 (natLe 8 v.toNat)
      let u := s.setReg 0x0F0008 (v.toNat % 2)
      exec (.secCfg v) s =
        .next { u with sec := { u.sec with meas := setAt s.sec.meas 4 (sha384 (natLe 48 m.toNat ++ natLe 48 d.toNat)) } }) ∧
    (∀ h : BitVec 3, s.blockOpen 0x0F0020 = true → exec (.attGo h) s = .next (
      if s.sec.att = none ∧ isHull h.toNat = true ∧ (s.hull h.toNat).state ≠ .free then { s with sec := { s.sec with att := some h.toNat } }
      else s.regOr evSec 4)) ∧
    (∀ h, s.sec.att = some h → ∃ sig : List Byte, sig.length = 96 ∧ ∃ u, exec .attDone s = .next u ∧
      u.host = putBytes s.host (s.reg 0x0F0048) (s.attBody h ++ sig) ∧ u.sec = { s.sec with att := none } ∧
      (u.reg evSec).testBit 0 = true ∧ u.mem = s.mem ∧ u.hulls = s.hulls ∧ u.tiles = s.tiles ∧ u.log = s.log)

/-! ## Interrupts (R438–R442) -/

/-- R438–R442: a claim answers the winner's id and count and makes it ACTIVE with nothing pending; a completion of a source that the core holds
ends it, of any other sets ERR, and of 0 or 1023 does nothing; pending is set by an event and withdrawn; a hold-off that has run out makes its source eligible; an
idle core with nothing active waits; a core's timer is its private source 1. -/
def Obligations.InterruptsAreClaimedAndCompleted : Prop :=
  ∀ (s : State) (c : Nat), c < 8 → s.rst.dev ≠ .cold →
    let reads := fun (v : Nat × Nat) =>
      s.emit (.regRead (.core c) (0x040100 + 0x40 * c) (BitVec.ofNat 64 (v.1 + v.2 * 2 ^ 16)))
    let awake := fun (s : State) => s.setCore c { s.core c with idle := false }
    (∀ k x, s.winner c = some (k, x) →
      exec (.icClaim c) s = .next
        ((((reads (s.claimValue c)).setCore c { s.core c with latch := false, idle := false }).setIrq k
          { x with active := true, activeOn := c, pending := false, count := 0 }).icLatch)) ∧
    (s.winner c = none → exec (.icClaim c) s =
      .next (((reads (s.claimValue c)).setCore c { s.core c with latch := false, idle := false }).icLatch)) ∧
    (∀ id : BitVec 10, id.toNat ≠ 0 → id.toNat ≠ 1023 →
      let k := irqKey c id.toNat
      let x := s.irq k
      let y := { x with active := false, activeOn := 0 }
      (x.active = true → x.activeOn = c → exec (.icComplete c id) s =
        .next ((((awake s).setIrq k (if x.pending then (awake s).startHoldoff k y else y))).icLatch)) ∧
      ((x.active = false ∨ x.activeOn ≠ c) → exec (.icComplete c id) s =
        .next ((awake s).setCore c { (awake s).core c with err := true }))) ∧
    (∀ id : BitVec 10, id.toNat = 0 ∨ id.toNat = 1023 → exec (.icComplete c id) s = .next (awake s)) ∧
    (∀ id, 1 ≤ id → id ≤ 1022 →
      let k := irqKey c id
      let x := s.irq k
      exec (.clrPending c id) s = .next (s.setIrq k { x with pending := false, count := 0 }) ∧
      exec (.setPending c id) s = .next (s.signal k) ∧
      (x.pending = true → x.active = false → s.heldOff k x = true →
        exec (.holdoffExpire c id) s = .next ((s.setIrq k { x with elapsed := true }).icLatch))) ∧
    (s.activeOn c = 0 → exec (.coreIdle c) s = .next ((s.setCore c { s.core c with idle := true }).icLatch)) ∧
    exec (.coreTimer c) s = .next (s.signal (privKey c 1))

/-! ## Host rings and endpoints (R417–R426, R444) -/

/-- R420–R426, R444: a doorbell takes the index and signals the ring's core, one past the ring's size is a fault; RHEAD must not pass RTAIL; a
DISABLED ring in rule is enabled empty, a RUNNING one is drained when disabled; an entry is fetched in order and what may start
starts; a datagram of an enabled endpoint that fails its filter is dropped, a new one is accepted, a repeated one is answered as
before. -/
def Obligations.RingsAndEndpointsTakeCommands : Prop :=
  ∀ (s : State),
    (∀ r, r < 8 →
      let x := s.ring r
      (∀ v : Word, s.blockOpen 0x051000 = true →
        let w := v.setWidth 32
        let t := (s.setRing r { x with ctail := w }).signal (privKey x.core (8 + r))
        exec (.doorbell r v) s = .next (if (w - x.chead).toNat ≤ 2 ^ x.cmdLog2 then t else t.ringFault r)) ∧
      (∀ v : Word, s.blockOpen 0x051018 = true →
        let w := v.setWidth 32
        let t := s.setRing r { x with rhead := w }
        exec (.cmdRhead r v) s = .next (if (w - x.rhead).toNat ≤ (x.rtail - x.rhead).toNat then t else t.ringFault r)) ∧
      (∀ v : Word, s.blockOpen 0x050100 = true →
        let y := x.cfg (v ||| 1).toNat
        let z := x.cfg (v &&& ~~~1).toNat
        (x.state = .disabled → 4 ≤ y.cmdLog2 → y.cmdLog2 ≤ 12 → 4 ≤ y.rplLog2 → y.rplLog2 ≤ 12 → callerOk y.caller = true →
          exec (.ringEnable r v) s =
            .next (s.setRing r { y with en := true, state := .running, ctail := 0, chead := 0, rtail := 0, rhead := 0 })) ∧
        (x.state = .disabled → exec (.ringDisable r v) s = .next (s.setRing r { z with en := false })) ∧
        (x.state = .running → z = x →
          exec (.ringDisable r v) s = .next (s.setRing r (Ring.settle { x with en := false, state := .draining }))) ∧
        (x.state = .running → z ≠ x → exec (.ringDisable r v) s = .next (s.hevent 10))) ∧
      (∀ e img objs m, x.state = .running → s.serves x.core = true → x.chead ≠ x.ctail →
        (x.rtail - x.rhead).toNat + x.inProgress.length < 2 ^ x.rplLog2 → x.inProgress.length < 64 →
        let p := packetOf (.ring r) (getBytes s.host (x.cbase.toNat + 64 * (x.chead.toNat % 2 ^ x.cmdLog2)) 64) [] m
        let k : HeldCmd := { cmd := p.2, op := p.1, gtc := s.time.gtc, img := img, objects := objs }
        exec (.commandFetch r e img objs m) s = .next (State.startSome 8 [] (
          if e = true ∨ s.board.perstN = false then s.ringFault r
          else s.setRing r { x with chead := x.chead + 1, inProgress := x.inProgress ++ [(p.2, p.1)], held := x.held ++ [k] })))) ∧
    (∀ e, e < 16 →
      let x := s.endp e
      (∀ v : Word, s.blockOpen 0x050400 = true →
        let y := x.cfg v.toNat
        (x.enable = false → (y.enable = true → callerOk y.caller = true ∧ y.prefixLen ≤ 128) →
          exec (.endpointEnable e v) s = .next (s.setEndp e y)) ∧
        (x.enable = true → { y with enable := true } ≠ x → exec (.endpointEnable e v) s = .next (s.hevent 10))) ∧
      (∀ src sport bytes m, x.enable = true → s.rst.dev ≠ .cold → s.rst.dev ≠ .recovering → s.sec.state ≠ 2 →
        let n := fieldLe bytes 8 2
        let good := x.inPrefix src = true ∧ n ≤ 1024 ∧ bytes.length = 64 + n
        let p := packetOf (.udp e) (bytes.take 64) (bytes.drop 64) m
        let v := (s.setEndp e { x with accepted := min 0xFFFFFFFF (x.accepted + 1) }).signal (privKey x.core (16 + e))
        let y := v.endp e
        let old := y.recent.find? fun q => q.1 == p.2.tag
        let k : HeldCmd := { cmd := p.2, op := p.1, gtc := v.time.gtc, img := none, objects := [] }
        (¬ good → exec (.datagramArrival e src sport bytes m) s =
          .next ((s.setEndp e { x with dropped := min 0xFFFF (x.dropped + 1) }).hevent 9)) ∧
        (good → old = none → exec (.datagramArrival e src sport bytes m) s = .next (State.startSome 8 []
          (v.setEndp e { y with recent := ((p.2.tag, none, src, sport) :: y.recent).take 64, held := y.held ++ [k] }))) ∧
        (∀ q, good → old = some q →
          let w := v.setEndp e { y with duplicates := min 0xFFFF (y.duplicates + 1) }
          exec (.datagramArrival e src sport bytes m) s =
            .next (match q.2.1 with | some b => w.emit (.datagram e src sport b) | none => w))))

/-! ## Command packets (R415–R418, R462) -/

/-- R417, R413, R426, R462: a packet is evaluated in order: out of rule it is answered BAD_PARAM, of no opcode of the index BAD_OPCODE, not allowed
over its wire DENIED, out of service OUT_OF_SERVICE but for the opcodes that read, in INIT BUSY but for three of them, in STANDBY BUSY for
what STANDBY does not serve; such an answer has no other effect, and any other packet has its opcode's own evaluation. Without power,
in recovery, or while its core is halted a packet has no effect at all. -/
def Obligations.PacketsAreCheckedBeforeTheirRules : Prop :=
  (∀ (s : State) (i : Instr) (op : Nat) (c : Cmd), packetIn i = some (op, c) →
    (s.rst.dev = .cold ∨ s.rst.dev = .recovering ∨ (s.core (s.coreOf c)).halted = true → exec i s = .next s) ∧
    (∀ st, s.rst.dev ≠ .cold → s.rst.dev ≠ .recovering → (s.core (s.coreOf c)).halted = false → s.preCheck c op = some st →
      exec i s = .next ((s.settled.begin_ c op).reply c op st 0))) ∧
  (∀ (s : State) (op : Nat) (c : Cmd),
    let carried := (∀ r, c.org = .ring r → op ≠ 0x0304) ∧ (∀ e, c.org = .udp e → op ∈ [0x0101, 0x0111, 0x0303, 0x0304])
    let served := (s.rst.dev = .outOfService → op ∈ [0x0100, 0x0101, 0x0111, 0x0802, 0x0402, 0x0511]) ∧
      (s.rst.dev = .init → op ∈ [0x0100, 0x0101, 0x0111])
    (¬ HeaderInRule c op → s.preCheck c op = some sBADPARAM) ∧
    (HeaderInRule c op → op ∉ opcodes → s.preCheck c op = some sBADOPCODE) ∧
    (HeaderInRule c op → op ∈ opcodes → ¬ carried → s.preCheck c op = some sDENIED) ∧
    (HeaderInRule c op → op ∈ opcodes → carried → s.rst.dev = .outOfService →
      op ∉ [0x0100, 0x0101, 0x0111, 0x0802, 0x0402, 0x0511] → s.preCheck c op = some sOOS) ∧
    (HeaderInRule c op → op ∈ opcodes → carried → s.rst.dev = .init → op ∉ [0x0100, 0x0101, 0x0111] → s.preCheck c op = some sBUSY) ∧
    (HeaderInRule c op → op ∈ opcodes → carried → served → s.board.standby = true → op ∉ standbyOpcodes →
      ¬ (op = 0x0902 ∧ pf c.params 0 1 = 1) → s.preCheck c op = some sBUSY) ∧
    (HeaderInRule c op → op ∈ opcodes → carried → served → s.board.standby = false → s.preCheck c op = none))

/-! ## Commands that read (R204, R255, R302, R332, R357, R371, R399, R434, R463, R484, R485) -/

/-- The read-only commands answer DONE with the fields of their tables and change nothing beyond the reply; a read of the error log also
writes the records it copies and marks them consumed. -/
def Obligations.ReadingCommandsAnswerTheirFields : Prop :=
  ∀ (s : State) (c : Cmd),
    let h := pf c.params 0 1
    (s.serving c 0x0100 → restZero c 0 = true →
      let u := s.settled.begin_ c 0x0100
      let d := u.board
      exec (.devInfo c) s = .next (u.reply c 0x0100 sDONE (mkFields [(0, 16, d.serial.toNat), (0x10, 1, 8 - bitCount d.fused.toNat),
        (0x11, 1, 0xA1), (0x12, 1, d.fused.toNat), (0x13, 1, d.slotId.toNat), (0x14, 4, d.enterprise.toNat), (0x18, 2, d.jep106.toNat),
        (0x1A, 2, d.fwBuild.toNat), (0x1C, 1, maskOf 8 fun p => (u.pod p).spareIn), (0x1D, 1, u.bypass.toNat)]))) ∧
    (s.serving c 0x0101 → restZero c 0 = true →
      let u := s.settled.begin_ c 0x0101
      let d := u.board
      exec (.devHealth c) s = .next (u.reply c 0x0101 sDONE (mkFields [(0, 1, devCode u.rst.dev), (1, 1, u.sec.state),
        (2, 1, bitsOf u.timeStatusWord 1 0), (3, 1, d.throttle), (4, 1, d.tj.toNat), (5, 1, d.inletC.toNat), (6, 1, d.outletC.toNat),
        (7, 1, b2n (!d.leakN) + 2 * b2n d.coolBad + 4 * b2n d.eth0 + 8 * b2n d.eth1 + 16 * b2n d.mgmt), (8, 4, d.powerMw.toNat),
        (0xC, 2, u.usable false), (0xE, 1, u.usable true), (0xF, 1, u.rst.degraded.toNat), (0x10, 2, d.flow.toNat), (0x12, 2, d.kpa.toNat),
        (0x18, 8, u.nextSeq)]))) ∧
    (s.serving c 0x0111 → restZero c 0 = true →
      let u := s.settled.begin_ c 0x0111
      exec (.timeRead c) s = .next (u.reply c 0x0111 sDONE (mkFields [(0, 8, u.time.gtc), (8, 8, u.timeStatusWord)]))) ∧
    (s.serving c 0x0204 → isHull h = true → restZero c 1 = true →
      let u := s.settled.begin_ c 0x0204
      let x := u.hull h
      (u.ownsHull c h = true ∨ u.isOperator c = true) → exec (.hullStatus c) s = .next (u.reply c 0x0204 sDONE (mkFields
        [(0, 1, hullCode x.state), (1, 1, match x.state, x.prog with | .running, some p => p.foldLog2 | _, _ => 0), (2, 1, u.podMask h),
         (3, 1, x.reclaimPhase), (4, 4, x.pgen.toNat), (8, 2, x.share), (10, 2, x.syncBase), (12, 2, x.syncCount), (14, 2, x.grantMask),
         (16, 8, x.limitA), (24, 8, x.limitB)]))) ∧
    (s.serving c 0x0303 → isHull h = true → restZero c 1 = true →
      let u := s.settled.begin_ c 0x0303
      let x := u.hull h
      u.ownsHull c h = true →
      (∀ p, x.prog = some p → exec (.progQuery c) s = .next (u.reply c 0x0303 sDONE (mkFields [(0, 1, p.state), (1, 1, p.reason),
        (2, 1, p.foldLog2), (3, 1, p.stopStatus.toNat), (4, 4, p.evalsDone), (8, 8, x.step), (0x10, 8, x.tick)]))) ∧
      (x.prog = none → exec (.progQuery c) s = .next (u.reply c 0x0303 sDONE (mkFields [(8, 8, x.step), (0x10, 8, x.tick)])))) ∧
    (s.serving c 0x0402 → h ≤ 8 → restZero c 1 = true →
      let u := s.settled.begin_ c 0x0402
      let tb := h == 8
      let mask := fun (sts : List Nat) =>
        sumOf ((upFrom 0 64).map fun i => bitAt (sts.contains (u.unit (unitOf tb ((if tb then 0 else 64 * h) + i))).state) i)
      let free := fun (tb : Bool) (n : Nat) => ((upFrom 0 n).filter fun i => [0, 3].contains (u.unit (unitOf tb i)).state).length
      exec (.memMapStatus c) s = .next (u.reply c 0x0402 sDONE (mkFields [(0, 8, mask [2]), (8, 8, mask [0, 3]), (0x10, 2, u.usable false),
        (0x12, 2, u.usable true), (0x14, 2, free false 512), (0x16, 2, free true 64)]))) ∧
    (s.serving c 0x0502 → isHull h = true → pf c.params 1 1 = 0 → pf c.params 2 2 < 4096 → restZero c 4 = true →
      let u := s.settled.begin_ c 0x0502
      let g := u.group (pf c.params 2 2)
      u.ownsHull c h = true → g.state ≠ 0 → g.hull = h → exec (.grpRead c) s = .next (u.reply c 0x0502 sDONE (mkFields
        [(0, 1, g.state), (1, 1, b2n g.compat + 2 * b2n g.world + 4 * g.policy), (2, 2, g.members - 1), (4, 2, g.myPos),
         (6, 1, g.epoch.toNat), (7, 1, min 255 (dedup (g.lost.map fun l => l.1)).length), (8, 1, g.n1), (9, 1, g.n2), (10, 2, g.n3),
         (12, 1, g.chunkLog2), (13, 1, g.share), (14, 2, g.lateUs), (16, 8, g.rosterOff)]))) ∧
    (s.serving c 0x0511 → restZero c 0 = true →
      let u := s.settled.begin_ c 0x0511
      let up := (upFrom 0 36).filter fun b => (u.bundle b).state == .up
      let mask := fun (l : List Nat) => sumOf (l.map fun b => 2 ^ b)
      exec (.linkStatus c) s = .next (u.reply c 0x0511 sDONE (mkFields [(0, 8, mask up),
        (8, 8, mask (up.filter fun b => decide ((u.bundle b).width < 4))), (16, 4, match u.jv.plan with | some p => p.planId.toNat | none => 0),
        (20, 4, sumOf (up.map fun b => 50 * (u.bundle b).width) / 4)]))) ∧
    (s.serving c 0x0603 → isHull h = true → pf c.params 1 1 < 16 → pf c.params 2 2 = 0 → restZero c 8 = true →
      let u := s.settled.begin_ c 0x0603
      let e := u.eng (pf c.params 1 1)
      u.auGate c h (pf c.params 1 1) false = none →
      (∀ r, e.kept.find? (fun r => r.ticket == pf c.params 4 4) = some r → exec (.auResult c) s = .next (u.reply c 0x0603 r.status (mkFields
        [(0, 4, r.iterations), (4, 4, r.returned), (8, 4, r.cycles), (0xC, 1, r.cause.toNat), (0x10, 8, r.rp.toNat), (0x18, 8, r.rd.toNat)]))) ∧
      (e.kept.find? (fun r => r.ticket == pf c.params 4 4) = none → e.waitingTickets.contains (pf c.params 4 4) = true →
        exec (.auResult c) s = .next (u.reply c 0x0603 sBUSY 0))) ∧
    (s.serving c 0x0701 → isHull h = true → restZero c 1 = true →
      let u := s.settled.begin_ c 0x0701
      let k := (u.hull h).ckpt
      u.ownsHull c h = true → exec (.ckptStatus c) s = .next (u.reply c 0x0701 sDONE (mkFields [(0, 1, k.state), (1, 1, k.cause),
        (2, 1, b2n (k.state != 0 && !k.full)), (8, 8, if k.state = 1 then 0 else k.step), (0x10, 8, if k.state < 3 then 0 else k.object.length),
        (0x18, 8, k.ackedBytes)]))) ∧
    (s.serving c 0x0A01 → restZero c 0 = true →
      let u := s.settled.begin_ c 0x0A01
      exec (.pwrBudgetRead c) s = .next (u.reply c 0x0A01 sDONE (mkFields ([(0, 2, 6400), (2, 2, 800), (4, 2, u.unassigned)]
        ++ hullNos.map (fun h => (6 + 2 * h, 2, (u.hull h).share))
        ++ [(0x10, 4, u.board.powerMw.toNat), (0x14, 1, u.board.throttle), (0x15, 1, b2n u.board.standby),
            (0x16, 1, maskOf 8 fun p => u.podState p == .off)])))) ∧
    (s.serving c 0x0802 → 1 ≤ pf c.params 8 1 → pf c.params 8 1 ≤ 64 → pf c.params 9 7 = 0 → restZero c 0x18 = true →
      pf c.params 0x10 8 % 64 = 0 →
      let u := s.settled.begin_ c 0x0802
      let first := pf c.params 0 8
      let held := u.log.filter fun r => decide (first ≤ r.seq)
      let copied := (held.filter fun r => u.isOperator c || (r.hull != 0 && u.ownsHull c r.hull)).take (pf c.params 8 1)
      let w := (u.hostWrite (pf c.params 0x10 8) (copied.flatMap ErrRec.bytes)).consume fun r => copied.any fun k => k.seq == r.seq
      ∃ next, exec (.errLogRead c) s = .next (w.reply c 0x0802 sDONE (mkFields
        [(0, 1, copied.length), (1, 1, b2n (match u.log.head? with | some r => decide (first < r.seq) | none => false)), (8, 8, next)])) ∧
        (∀ r, copied.length = pf c.params 8 1 → copied.getLast? = some r → next = r.seq + 1))

/-! ## Hulls and programs (R334–R358, R427–R437, R60–R62) -/

/-- R355–R358: an operator creates a FREE hull with its owner and key, grants it what is free, begins the reclaim of a grant, and destroys a
live hull, whose program stops and whose resources drain. -/
def Obligations.HullCommandsTakeEffect : Prop :=
  ∀ (s : State) (c : Cmd),
    let h := pf c.params 0 1
    (s.serving c 0x0200 → isHull h = true → pf c.params 1 1 = 0 → pf c.params 4 4 = 0 → restZero c 24 = true →
      let owner := pf c.params 2 2
      owner ≠ 0 → owner ≠ 0xFFFF →
      let u := s.settled.begin_ c 0x0200
      let x := u.hull h
      u.isOperator c = true → x.state = .free →
      let k0 := BitVec.ofNat 64 (pf c.params 8 8)
      let k1 := BitVec.ofNat 64 (pf c.params 16 8)
      exec (.hullCreate c) s = .next ((u.setHull h { Hull.init with
        state := .granted, owner := BitVec.ofNat 16 owner, k0 := k0, k1 := k1, lastGrant := x.lastGrant, lastForced := x.lastForced,
        lastStopped := x.lastStopped, lastReturned := x.lastReturned, lastGtc := x.lastGtc }).reply c 0x0200 sDONE
          (mkFields [(0, 8, (keyCheck k0 k1).toNat)]))) ∧
    (s.serving c 0x0201 →
      let u := s.settled.begin_ c 0x0201
      let a := askOf c
      let lender := if pf c.params 1 1 = 1 then some (pf c.params 2 1) else none
      u.grantOk c = true → u.isOperator c = true → (u.hull h).live = true → (u.hull h).reclaims = [] → (u.hull h).grants.length < 16 →
      (∀ l, lender = some l → (u.hull l).live = true) →
      ((upFrom 0 8).filter fun p => bitOf a.pods p && (u.pod p).asleep) = [] → u.grantShort h a = none →
      let v := u.giveGrant h a lender
      let y := v.hull h
      exec (.hullGrant c) s = .next (v.reply c 0x0201 sDONE (mkFields
        [(0, 1, (u.hull h).freeGrant.getD 0), (2, 2, y.syncBase), (16, 8, y.limitA), (24, 8, y.limitB)]))) ∧
    (∀ g, s.serving c 0x0202 → isHull h = true → pf c.params 1 1 < 2 → pf c.params 3 1 = 0 → restZero c 8 = true →
      let ms := pf c.params 4 4
      (ms = 0 ∨ 10 ≤ ms ∧ ms ≤ 30000) →
      let u := s.settled.begin_ c 0x0202
      let x := u.hull h
      x.reclaimable (pf c.params 2 1) = some g → u.isOperator c = true → x.live = true →
      let r : Reclaim := { grant := g, forceMs := if ms = 0 then u.regF 0x020010 14 0 else ms, forceNow := pf c.params 1 1 == 1,
                           gtc := u.time.gtc, phase := 0, forced := false, stopped := false, removedA := [], removedB := [],
                           removedPods := 0, removedSync := (0, 0), foldGtc := 0 }
      exec (.hullReclaim c) s = .next ((((((u.setHull h { x with reclaims := x.reclaims ++ [r] }).serveReclaim h).abortProbe
        g.pods.toNat).event evHull 0 80)).reply c 0x0202 sACCEPTED 0)) ∧
    (s.serving c 0x0203 → isHull h = true → restZero c 1 = true →
      let u := s.settled.begin_ c 0x0203
      u.isOperator c = true → (u.hull h).live = true →
      ∃ v : State, exec (.hullDestroy c) s = .next (v.reply c 0x0203 sACCEPTED 0) ∧ (v.hull h).state = .draining ∧ (v.hull h).halted = false ∧
        (∀ g, g ∈ v.groups → g.2.hull ≠ h) ∧ (∀ r, r ∈ (v.hull h).reclaims → 3 ≤ r.phase) ∧ v.mem = u.mem ∧
        (∀ k, k ∈ hullNos → ∀ g : Grant, g ∈ (v.hull k).grants → g.lender ≠ some h))

/-- R432–R437, R60–R62, R428, R429: a program that fits is loaded; a loaded one is started at its step, told to stop, or given an evaluation
run for its next window; a launch is armed or given up; a request is written for its service, and its answer, with the provenance
trailer where the program requests it, or its lateness, is the reply. -/
def Obligations.ProgramCommandsTakeEffect : Prop :=
  ∀ (s : State) (c : Cmd),
    let h := pf c.params 0 1
    let fl := pf c.params 1 1
    (∀ img f q, s.noHold → s.serving c 0x0300 → isHull h = true → fl < 2 → pf c.params 2 6 = 0 → restZero c 0x18 = true →
      let off := pf c.params 8 8
      let len := pf c.params 0x10 8
      len ≠ 0 → off % 4096 = 0 →
      let u := s.settled.begin_ c 0x0300
      let x := u.hull h
      let i : Image := { (img : Image) with digest := sha256 (u.windowBytes h off len) }
      let pods := (u.podsOf h).length
      u.inWindow h true off len = true → u.ownsHull c h = true → x.state = .granted → u.windowClean h off len →
      u.imgOk h i = true → imgChooseFold i pods = some f → imgFold i f = some q → q.foldLog2 = f → u.levelShort h i q = none →
      let spill := (annexPrefix i i.annex (imgNeedA i f - x.limitA)).getD ([], 0)
      let done := mkFields [(1, 1, f), (2, 2, spill.1.length), (0x10, 8, spill.2)]
      let v := u.dropCalls h
      let p := Prog.loaded i f (v.geometryDigest i) (i.geometry.groups.map fun g => (g.id, groupContent (v.group g.id))) spill.1 pods
        (x.limitA, x.limitB) x.share
      (fl = 1 → exec (.progLoad c (some img)) s = .next (u.reply c 0x0300 sDONE done)) ∧
      (fl = 0 → exec (.progLoad c (some img)) s = .next ((((v.setHull h { v.hull h with
        prog := some p, standing := v.standingOf h }).setShares h p).createSync h i).reply c 0x0300 sDONE done))) ∧
    (∀ p, s.serving c 0x0301 → isHull h = true → fl < 2 → pf c.params 2 6 = 0 →
      let step := pf c.params 8 8
      step ≤ maxStep → pf c.params 0x10 8 = 0 → pf c.params 0x18 8 = 0 →
      let u := s.settled.begin_ c 0x0301
      let x := u.hull h
      u.ownsHull c h = true → x.state = .granted → x.prog = some p → (p.restored = true → step = 0) → u.engineBusy h p = false →
      u.shrunk h p = false → p.image.tickPeriodUs = u.periodUs →
      let a := (u.time.gtc + 999) / 1000 * 1000 + 100000
      let v := u.startProg h (if p.restored then x.step else step) a (fl == 1) [] []
      exec (.progStart c) s = .next (v.reply c 0x0301 sDONE (mkFields [(0, 8, if fl = 1 then 0 else a)])) ∧
        (v.hull h).state = .running ∧ (v.hull h).step = if p.restored then x.step else step) ∧
    (∀ p, s.serving c 0x0302 → isHull h = true → fl < 2 → restZero c 2 = true →
      let u := s.settled.begin_ c 0x0302
      let x := u.hull h
      u.ownsHull c h = true → x.state = .running → x.prog = some p →
      let v := u.setHull h { x with prog := some { p with stops := p.stops ++ [(fl == 0, c)] } }
      let now := p.state = 2 ∨ fl = 0 ∧ x.holds &&& 0b01111 = 0 ∨ fl = 1 ∧ p.logWait = true
      (now → exec (.progStop c) s = .next (v.stopHull h 1 sDONE false).settled) ∧ (¬ now → exec (.progStop c) s = .next v)) ∧
    (∀ p, s.serving c 0x0305 → isHull h = true → fl < 16 → restZero c 2 = true →
      let u := s.settled.begin_ c 0x0305
      let x := u.hull h
      u.ownsHull c h = true → x.state = .running → x.prog = some p → fl < p.image.evals.length → p.state = 3 →
      p.evalTicksOf (p.evals ++ [fl]) ≤ p.image.evalBudget →
      exec (.progEval c) s = .next ((u.setHull h { x with prog := some { p with evals := p.evals ++ [fl] } }).reply c 0x0305 sACCEPTED
        (mkFields [(0, 8, x.step), (8, 2, p.evals.length)]))) ∧
    (∀ p, s.serving c 0x0110 → isHull h = true → pf c.params 1 7 = 0 → restZero c 16 = true →
      let g := pf c.params 8 8
      let u := s.settled.begin_ c 0x0110
      let x := u.hull h
      let now := u.time.gtc
      u.ownsHull c h = true → x.state = .running → x.prog = some p → p.state = 2 → u.time.align = .locked →
      (x.armed = true → now + 2000000 ≤ x.launch) →
      (now + 2000000 ≤ g → g ≤ now + 60000000000 → exec (.timeSetLaunch c) s =
        .next ((u.setHull h { x with armed := true, launch := g }).reply c 0x0110 sACCEPTED (mkFields [(0, 8, now), (8, 8, g)]))) ∧
      (g = 0 → exec (.timeSetLaunch c) s =
        .next ((u.setHull h { x with armed := false, launch := if x.armed then x.lastLaunch else x.launch }).reply c 0x0110 sACCEPTED
          (mkFields [(0, 8, now), (8, 8, 0)])))) ∧
    (∀ p d, s.noHold → s.serving c 0x0304 → isHull h = true → fl < 16 → restZero c 2 = true →
      let u := s.settled.begin_ c 0x0304
      u.ownsHull c h = true → (u.hull h).state = .running → (u.hull h).prog = some p → p.image.services[fl]? = some d → p.state = 3 →
      let k := tget 0 p.nextK fl
      (p.calls.all fun q => q.svc != fl || q.k + d.slots != k || q.replied) = true →
      let v := u.collWrite h d.reqTensor (4096 * (k % d.slots)) (requestBlock k c.tail)
      let call : Call := { svc := fl, k := k, cmd := c, landed := v.time.gtc, replied := false, dirty := false }
      exec (.svcCall c) s = .next ((v.setHull h { v.hull h with prog := (v.hull h).prog.map fun (p : Prog) =>
        { p with calls := p.calls ++ [call], nextK := tput p.nextK fl ((k + 1) % 2 ^ 32) } }).signalCounter d.reqSem).1.settled) ∧
    (∀ h svc p call d v, s.noHold → (s.hull h).prog = some p → p.calls.find? (fun q => q.svc == svc) = some call →
      p.image.services[svc]? = some d → s.settled.coreAcquire d.ansSem = some v →
      let w := v.setHull h { v.hull h with prog := (v.hull h).prog.map fun (p : Prog) => { p with calls := p.calls.erase call } }
      let at_ := 4096 * (call.k % d.slots)
      (call.replied = true → exec (.serviceAnswer h svc []) s = .next w) ∧
      (call.replied = false → s.cleanRange h p d.ansTensor at_ 4096 →
        let data := (w.collRead h p d.ansTensor at_ 4096).data
        let fault := fun (cause : Nat) => w.reply call.cmd 0x0304 sFAULT (svcFields cause call.k call.landed s.time.gtc)
        (p.dirtyTick = true ∨ call.dirty = true → exec (.serviceAnswer h svc []) s = .next (fault 1)) ∧
        (p.dirtyTick = false → call.dirty = false → 1024 < fieldLe data 0 4 → exec (.serviceAnswer h svc []) s = .next (fault 3)) ∧
        (p.dirtyTick = false → call.dirty = false → fieldLe data 0 4 ≤ 1024 →
          (d.provenance = false → exec (.serviceAnswer h svc []) s = .next (w.reply call.cmd 0x0304 sDONE
            (svcFields 0 call.k call.landed s.time.gtc) (slice data 0x40 (fieldLe data 0 4)))) ∧
          (∀ tr, w.provTrailer h p = tr → (tr.1.hull h).state = .running → d.provenance = true →
            exec (.serviceAnswer h svc []) s = .next (tr.1.reply call.cmd 0x0304 sDONE
              (svcFields 0 call.k call.landed s.time.gtc) (slice data 0x40 (fieldLe data 0 4) ++ tr.2)).settled)))) ∧
    (∀ h svc p call d, (s.hull h).prog = some p → p.image.services[svc]? = some d →
      p.calls.find? (fun q => q.svc == svc && !q.replied && decide (q.landed + 1000 * d.deadlineUs ≤ s.time.gtc)) = some call →
      exec (.serviceDeadline h svc) s = .next ((s.setHull h { s.hull h with prog := some { p with
        calls := p.calls.map fun q => if q = call then { q with replied := true } else q } }).reply call.cmd 0x0304 sFAULT
          (svcFields 2 call.k call.landed 0)))

/-! ## Memory, groups, links, engines and checkpoints by command (R201–R203, R252–R256, R279, R301, R330, R331, R370–R374) -/

/-- R201–R203, R330, R331, R301: a copy or fill whose blocks all pass moves all of them; a group entry in rule is written, and activated where
its share fits; a link plan in rule is installed. -/
def Obligations.MemoryGroupAndLinkCommandsTakeEffect : Prop :=
  ∀ (s : State) (c : Cmd),
    let f := fun (a n : Nat) => pf c.params a n
    let h := f 0 1
    let fl := f 1 1
    (s.noHold → s.serving c 0x0400 → isHull h = true → fl < 16 → fl % 4 ≠ 3 → (fl % 4 = 0 → bitOf fl 2 = false) → (fl % 4 = 1 → bitOf fl 3 = false) →
      f 2 2 = 0 → tagOk (f 4 4) = true → f 8 8 % 4096 = 0 → f 0x10 8 % 4096 = 0 → copyLenOk (f 0x18 8) = true →
      let u := s.settled.begin_ c 0x0400
      let src := if fl % 4 = 0 then CopySide.host else .window (bitOf fl 2)
      let dst := if fl % 4 = 1 then CopySide.host else .window (bitOf fl 3)
      u.ownsHull c h = true → (u.hull h).workable = true → (fl % 4 = 0 ∨ u.inWindow h (bitOf fl 2) (f 8 8) (f 0x18 8) = true) →
      (fl % 4 = 1 ∨ u.inWindow h (bitOf fl 3) (f 0x10 8) (f 0x18 8) = true) →
      let n := f 0x18 8 / 4096
      let r := State.copyBlocks h (f 4 4) src dst (f 8 8) (f 0x10 8) n 0 u
      (fl % 4 ≠ 0 → ∀ i, i < n → u.clean h (bitOf fl 2) (f 8 8) (f 4 4) i) →
      (fl % 4 ≠ 1 → ∀ i, i < n → u.served h (bitOf fl 3) (f 0x10 8 / 4096 + i)) →
      (fl % 4 = 2 → u.mem.marks = [] ∧ ∀ i j, i < n → j < n → bitOf fl 2 = bitOf fl 3 →
        (u.hull h).find (bitOf fl 2) (f 8 8 / 4096 + i) ≠ (u.hull h).find (bitOf fl 3) (f 0x10 8 / 4096 + j)) →
      exec (.memCopy c) s = .next (r.1.reply c 0x0400 sDONE (mkFields [(0, 8, f 0x18 8), (8, 8, 0xFFFFFFFFFFFFFFFF)])).settled ∧
        r.2 = (n, none)) ∧
    (s.noHold → s.serving c 0x0401 → isHull h = true → fl < 4 → f 2 2 = 0 →
      (if bitOf fl 1 then tagOk (f 4 4) = true else f 4 4 = 0 ∧ f 0x18 8 = 0) → f 8 8 % 4096 = 0 → copyLenOk (f 0x10 8) = true →
      let u := s.settled.begin_ c 0x0401
      u.ownsHull c h = true → (u.hull h).workable = true → u.inWindow h (bitOf fl 0) (f 8 8) (f 0x10 8) = true →
      let n := f 0x10 8 / 4096
      let r := State.fillBlocks h (bitOf fl 0) (f 8 8) (f 4 4) (if bitOf fl 1 then some (List.replicate 512 (natLe 8 (f 0x18 8))).flatten else none)
        n 0 u
      (∀ i, i < n → u.served h (bitOf fl 0) (f 8 8 / 4096 + i)) →
      exec (.memFill c) s = .next (r.1.reply c 0x0401 sDONE (mkFields [(0, 8, 4096 * n)])).settled ∧ r.2 = n) ∧
    (s.noHold → s.serving c 0x0500 →
      let u := s.settled.begin_ c 0x0500
      let n := f 4 2 + 1
      let g := u.group (f 2 2)
      let bytes := getBytes u.host (f 16 8) (8 * n)
      let roster := rosterOf bytes n
      u.grpFieldsOk c = true → u.ownsHull c h = true → g.state ≠ 2 → (g.state = 1 → g.hull = h) →
      rosterOk roster (bitOf fl 1) (f 6 2) (u.jv.plan.map fun p => p.fid) = true →
      (∀ i, i < rosterBlocks n → u.served h true (f 24 8 / 4096 + i)) →
      exec (.grpWrite c) s = .next (((u.writeRange h true (f 24 8) 0xFFFFE 0 (slice bytes 0 (4096 * rosterBlocks n))).setGroup (f 2 2)
        { g with state := 1, hull := h, compat := bitOf fl 0, world := bitOf fl 1, policy := fl / 4 % 4, members := n, myPos := f 6 2,
                 n1 := f 8 1, n2 := f 9 1, n3 := f 10 2, chunkLog2 := f 12 1, share := f 13 1, lateUs := f 14 2, rosterOff := f 24 8,
                 roster := roster.map fun e => e.1, epoch := 0, lost := [], heard := [] }).reply c 0x0500 sDONE
          (mkFields [(0, 8, 8 * n)]))) ∧
    (s.serving c 0x0501 → isHull h = true → f 2 2 < 4096 → restZero c 4 = true →
      let u := s.settled.begin_ c 0x0501
      let g := u.group (f 2 2)
      u.ownsHull c h = true → g.hull = h →
      let on := u.setGroup (f 2 2) { g with state := 2 }
      let off := u.setGroup (f 2 2) { g with state := 1 }
      (fl = 0 → g.state = 1 → u.groupChanged h (f 2 2) = false → (g.world = true → u.otherWorld h (f 2 2) = false) →
        u.shareUsed h + g.share ≤ 64 →
        exec (.grpActivate c) s = .next (on.reply c 0x0501 sDONE (mkFields [(0, 1, on.shareUsed h)]))) ∧
      (fl = 1 → g.state = 2 → u.openOp h (f 2 2) = none →
        exec (.grpActivate c) s = .next (off.reply c 0x0501 sDONE (mkFields [(0, 1, off.shareUsed h)])))) ∧
    (s.serving c 0x0510 → h < 2 → f 1 7 = 0 → restZero c 0x14 = true → f 8 8 % 4096 = 0 → (∃ r, c.org = .ring r) →
      let u := s.settled.begin_ c 0x0510
      let head := getBytes u.host (f 8 8) 64
      let b := getBytes u.host (f 8 8) (f 0x10 4)
      f 0x10 4 = 64 + 8 * (36 + fieldLe head 2 1 + fieldLe head 0xA 2) → (hullNos.all fun h => (u.hull h).state == .free) = true →
      planBad b = none →
      exec (.linkPlan c) s = .next ((if h = 1 then u else u.installPlan (planOf b)).reply c 0x0510 sDONE
        (mkFields [(0, 4, fieldLe head 0xC 4), (4, 4, 0xFFFFFFFF)])))

/-- R252–R256, R370, R374, R279: a structure, a delta or a solver block in rule is queued on the caller's engine where the tokens suffice; a
checkpoint is armed; a chain of objects that fits is applied, its digest checked, and the step after the newest one's follows; an
export writes a header and the blocks of each tensor of a shard, or replies FAULT where a block is lost. -/
def Obligations.EngineAndCheckpointCommandsTakeEffect : Prop :=
  ∀ (s : State) (c : Cmd),
    let f := fun (a n : Nat) => pf c.params a n
    let h := f 0 1
    let a := f 1 1
    let hd := f 2 1
    (∀ st, s.noHold → s.serving c 0x0600 → isHull h = true → a < 16 → hd < 64 → f 3 1 = 0 → f 4 1 = 0 → f 5 1 = 0 → f 6 2 = 0 →
      restZero c 0x18 = true → f 8 8 % 64 = 0 → f 0x10 8 ≠ 0 →
      let u := s.settled.begin_ c 0x0600
      let e := u.eng a
      let b := u.windowBytes h (f 8 8) (f 0x10 8)
      u.inWindow h true (f 8 8) (f 0x10 8) = true → u.windowClean h (f 8 8) (f 0x10 8) → parseStruct b = some st →
      u.auGate c h a true = none → tfind e.structs hd = none → (e.queue.any fun q => q.op == 1 && q.handle == hd) = false →
      e.ahead.loadShort st = 0 → u.auTokensShort h a = false →
      exec (.auStructLoad c) s = .next ((u.setEng a e).auPut a { ACmd.fresh (auBlock 1 hd (f 0x10 8)) none h b 0 0 with owed := some c })) ∧
    (∀ st, s.serving c 0x0600 → isHull h = true → a < 16 → hd < 64 → f 3 1 = 1 → f 4 1 = 0 → f 5 1 = 0 → f 6 2 = 0 →
      restZero c 0x18 = true → f 8 8 = 0 → f 0x10 8 = 0 →
      let u := s.settled.begin_ c 0x0600
      u.auGate c h a true = none → tfind (u.eng a).structs hd = some st →
      exec (.auStructLoad c) s = .next (u.auPut a { ACmd.fresh (auBlock 9 hd 0) none h [] 0 0 with owed := some c })) ∧
    (∀ st st', s.noHold → s.serving c 0x0601 → isHull h = true → a < 16 → hd < 64 → f 3 5 = 0 → restZero c 0x18 = true →
      let u := s.settled.begin_ c 0x0601
      let b := u.windowBytes h (f 8 8) (f 0x10 8)
      u.inWindow h true (f 8 8) (f 0x10 8) = true → u.windowClean h (f 8 8) (f 0x10 8) → packetOk b = true →
      tfind (u.eng a).structs hd = some st → st.delta b = some st' → u.auGate c h a true = none → u.auTokensShort h a = false →
      exec (.auDelta c) s = .next (u.auPut a { ACmd.fresh (auBlock 2 hd (f 0x10 8)) none h b 0 0 with owed := some c })) ∧
    (∀ st, s.noHold → s.serving c 0x0602 → isHull h = true → a < 16 → f 2 6 = 0 → f 8 8 % 64 = 0 → f 0x10 8 % 64 = 0 → f 0x18 8 % 4096 = 0 →
      let u := s.settled.begin_ c 0x0602
      let e := u.eng a
      let b := u.windowBytes h (f 8 8) 64
      let op := fieldLe b 0 1
      let n := fieldLe b 0x10 4
      u.inWindow h true (f 8 8) 64 = true → u.windowClean h (f 8 8) 64 → tfind e.structs (fieldLe b 1 1) = some st →
      ausBlockOk b false = true → 3 ≤ op → op ≤ 8 → bitOf (fieldLe b 2 1) 0 = false → ausStructOk b st = true → (n = 0 → f 0x10 8 = 0) →
      u.inWindow h true (f 0x10 8) n = true → u.inWindow h true (f 0x18 8) (64 + 8 * ausPayload op (fieldLe b 3 1) st) = true →
      u.auGate c h a true = none → u.windowClean h (f 0x10 8) n → u.auTokensShort h a = false →
      let t := e.nextTicket
      exec (.auSolve c) s = .next (((u.setEng a { e with nextTicket := if t = 0xFFFFFFFF then 1 else t + 1 }).auPut a
        (ACmd.fresh b none h (u.windowBytes h (f 0x10 8) n) (f 0x18 8) t)).reply c 0x0602 sACCEPTED (mkFields [(0, 4, t)]))) ∧
    (s.serving c 0x0700 → isHull h = true → a < 2 → f 2 6 = 0 →
      let step := f 8 8
      let u := s.settled.begin_ c 0x0700
      let x := u.hull h
      let k := x.ckpt
      step ≤ maxStep → (step = 0 ∨ x.step ≤ step) → f 0x18 8 % 64 = 0 → u.inWindow h true (f 0x18 8) 48 = true →
      (∀ p, x.prog = some p → p.image.ckptAreas.isSome = true) → u.ownsHull c h = true → x.state = .running → (k.state = 0 ∨ 3 < k.state) →
      let v := u.setHull h { x with ckpt := { k with
        state := 1, cause := 0, wantFull := a == 1, full := a == 1 || k.mustFull, armedStep := if step = 0 then none else some step,
        step := 0, id := BitVec.ofNat 64 (f 0x10 8), target := f 0x18 8, object := [], sent := 0, acked := [],
        trailer := false } }
      exec (.ckptBegin c) s = .next ((if x.inLogWait then v.ckptCut h (x.step - 1) else v).reply c 0x0700 sACCEPTED 0).settled) ∧
    (∀ objects objs p, s.noHold → s.serving c 0x0702 →
      let u := s.settled.begin_ c 0x0702
      let x := u.hull h
      let files := (objects : List (List Byte)).take (f 2 2)
      let list := u.windowBytes h (f 8 8) (64 * f 2 2)
      let own := withRole (chainRoles c list) objs 0
      let twin := withRole (chainRoles c list) objs 1
      let v := u.applyChain h p own twin
      u.windowClean h (f 8 8) (64 * f 2 2) → u.restoreOk c list = true → u.ownsHull c h = true → x.prog = some p → x.state = .granted → f 2 2 ≤ objects.length →
      files.map readObject = objs.map some → x.objectsOk p own twin = true → v.2 = true →
      (v.1.huskDigest h p p.persistent).toNat = (match own.getLast? with | some o => o.state | none => 0) →
      let step := (newestStep own).getD 0
      exec (.restore c objects) s = .next ((v.1.restored h p step (match own.getLast? with | some o => o.records | none => [])).reply c
        0x0702 sDONE (mkFields [(0, 8, step), (8, 8, sumOf (files.map fun b => b.length))])).settled) ∧
    (∀ p k d, s.noHold → s.serving c 0x0703 →
      let u := s.settled.begin_ c 0x0703
      let x := u.hull h
      let size := sumOf (d.tensors.map fun t => exportSize (p.bytesOf t))
      let out := u.exportAll (u.cmdSrc c) h p (x.state == .running) d x.exportStep (a / 2 % 2 == 1)
      let done := mkFields [(0, 8, size), (8, 8, x.exportStep), (0x10, 2, d.tensors.length)]
      let w := if a % 2 = 1 then out.1.winWrite h true (f 8 8) out.2.1 else out.1.hostWrite (f 8 8) out.2.1
      u.exportOf c = some (p, k, d) → u.exportOk c = true → u.ownsHull c h = true → x.exportable p = true → k.state ≠ .onboarding →
      size ≤ f 0x10 8 →
      (out.2.2 = false → w.mem.lost = false → exec (.shardExport c) s = .next (w.reply c 0x0703 sDONE done).settled) ∧
      (out.2.2 = true ∨ w.mem.lost = true → exec (.shardExport c) s = .next (w.reply c 0x0703 sFAULT 0).settled) ∧
      (x.state = .granted → a % 2 = 0 → (∀ t ∈ d.tensors, u.cleanRange h p t 0 (p.bytesOf t)) →
        exec (.shardExport c) s = .next ((u.hostWrite (f 8 8) out.2.1).reply c 0x0703 sDONE done)))

/-! ## Probes, bypasses, content and the error log (R389–R400) -/

/-- R390–R400: an operator starts a probe with content of its kind, bypasses and releases pods and bundles, maps out a unit, and loads
content that is signed and not older; a record that a collector has acknowledged is consumed once every collector has it; a
collector that answers again is pushed to. -/
def Obligations.MaintenanceCommandsTakeEffect : Prop :=
  (∀ (s : State) (c : Cmd),
    let u := s.settled.begin_ c 0x0800
    let p := pf c.params 1 1
    s.serving c 0x0800 → u.isOperator c = true →
    (∀ e, u.slotFor (pf c.params 2 1) 0 = some e → testFieldsOk c 1 = true → u.board.fused.getLsbD p = false → u.probe.active = false →
      ((u.pod p).hull = 0 ∨ (u.hull (u.pod p).hull).prog = none ∨ (u.canSpare (u.pod p).hull).isSome = true) → (u.pod p).asleep = false →
      u.probeShort (u.pod p).hull e.share = 0 →
      let q : ProbeS := { state := 1, nmu := false, target := p, slot := pf c.params 2 1, version := BitVec.ofNat 32 e.version, gtc := 0,
                          hull := (u.pod p).hull, share := e.share, durationMs := e.durationMs }
      exec (.probePod c) s = .next ((State.takePod { u with probe := q } p).reply c 0x0800 sACCEPTED 0)) ∧
    (∀ e, u.slotFor (pf c.params 2 1) 1 = some e → testFieldsOk c 2 = true → u.probe.active = false →
      let q : ProbeS := { state := 2, nmu := true, target := pf c.params 3 1, slot := pf c.params 2 1, version := BitVec.ofNat 32 e.version,
                          gtc := u.time.gtc, hull := 0, share := 0, durationMs := e.durationMs }
      exec (.probeNmu c) s = .next (State.reply { u with probe := q } c 0x0800 sACCEPTED 0)) ∧
    (testFieldsOk c 3 = true → u.board.fused.getLsbD p = false →
      ((u.pod p).hull = 0 → exec (.bypassPod c) s = .next ((u.bypassPod p).reply c 0x0800 sDONE 0)) ∧
      ((u.pod p).hull ≠ 0 → ((u.hull (u.pod p).hull).prog = none ∨ (u.canSpare (u.pod p).hull).isSome = true) →
        exec (.bypassPod c) s = .next ((u.takePod p).reply c 0x0800 sACCEPTED 0))) ∧
    (testFieldsOk c 4 = true → u.board.fused.getLsbD p = false → u.bypass.getLsbD p = true →
      exec (.releasePod c) s = .next (State.reply (State.setPod { u with bypass := u.bypass &&& ~~~(BitVec.ofNat 8 (2 ^ p)) } p
        { u.pod p with state := .idle }) c 0x0800 sDONE 0)) ∧
    (testFieldsOk c 5 = true →
      let n := pf c.params 4 2
      let m := if n < 512 then MemUnit.a n else .b (n - 512)
      (u.unit m).state ≠ 2 → u.mem.mapout ≠ some m → (u.mem.mapoutQueue.any fun q => q.2.1 == m) = false →
      exec (.mapoutUnit c) s = .next ((u.mapOutTrigger m 4).reply c 0x0800 sACCEPTED 0)) ∧
    (let bit := BitVec.ofNat 36 (2 ^ pf c.params 6 1)
     (testFieldsOk c 6 = true →
       exec (.bypassBundle c) s = .next (((u.setDisable (u.jv.disable ||| bit)).bypassed none).reply c 0x0800 sDONE 0)) ∧
     (testFieldsOk c 7 = true →
       exec (.releaseBundle c) s = .next ((u.setDisable (u.jv.disable &&& ~~~bit)).reply c 0x0800 sDONE 0)))) ∧
  (∀ (s : State) (c : Cmd),
    let u := s.settled.begin_ c 0x0801
    let slot := pf c.params 0 1
    let n := pf c.params 0x10 8
    let head := getBytes u.host (pf c.params 8 8) 256
    let body := getBytes u.host (pf c.params 8 8 + 256) (n - 256)
    let kind := fieldLe head 2 1
    let ver := fieldLe head 4 4
    s.serving c 0x0801 → slot < 8 → pf c.params 1 7 = 0 → restZero c 0x18 = true → pf c.params 8 8 % 4096 = 0 → contentOk head n = true →
    u.isOperator c = true → (u.probe.active = true → u.probe.slot ≠ slot) → sha384Bytes body = slice head 0x18 48 →
    sigOk u.sec.contentKey (slice head 0x48 96) (slice head 0 0x48) = true →
    (tget 0 u.maxVersion kind ≤ ver → exec (.testContentLoad c) s = .next (State.reply { u with
      slots := tput u.slots slot { kind := kind, version := ver, durationMs := fieldLe head 8 4, share := fieldLe head 0xC 2, bytes := n - 256 }
      maxVersion := tput u.maxVersion kind (max ver (tget 0 u.maxVersion kind)) } c 0x0801 sDONE (mkFields [(0, 4, ver)]))) ∧
    (ver < tget 0 u.maxVersion kind → exec (.testContentLoad c) s = .next (u.reply c 0x0801 sBADPARAM 0))) ∧
  (∀ (s : State) (i : Nat) (k : Collector), s.collectors[i]? = some k →
    (∀ r, k.configured = true → k.reachable = true → s.pushNext k = some r →
      let v := { s with collectors := setAt s.collectors i { k with next := r.seq + 1 } }
      exec (.recordPushAck i) s = .next ((if (v.collectors.all fun q => !q.configured || decide (r.seq < q.next)) = true
        then v.consume fun q => q.seq == r.seq else v).pushTo i)) ∧
    (∀ up, let v := { s with collectors := setAt s.collectors i { k with reachable := up } }
      exec (.collectorRetry i up) s = .next (if up = true ∧ k.reachable = false then v.pushTo i else v)))

/-! ## Debug and power (R450–R463) -/

/-- R451–R458: a class is attached or detached for its owner; a peek in reach copies what it reads; a running hull is halted and resumed; a
control core is halted, its leases broken, and resumed, each with its event and reply. -/
def Obligations.DebugCommandsTakeEffect : Prop :=
  ∀ (s : State) (c : Cmd),
    (s.serving c 0x0900 →
      let u := s.settled.begin_ c 0x0900
      let h := pf c.params 0 1
      let k := pf c.params 1 1
      let b := getBytes u.host (pf c.params 8 8) 160
      attachOk c = true → (if h = 0 then u.isOperator c else u.ownsHull c h) = true → (k = 1 → u.reg 0x0F0008 % 2 = 1) →
      (h ≠ 0 → (u.hull h).live = true) → (k = 2 → u.tokenOk b (if h = 0 then 0 else 1) = true) →
      let v := u.setClass h k (if k = 2 then fieldLe b 8 8 else 0)
      exec (.dbgAttach c) s = .next (v.reply c 0x0900 sDONE (mkFields [(0, 1, k), (1, 1, v.debugByte h)]))) ∧
    (s.serving c 0x0901 →
      let u := s.settled.begin_ c 0x0901
      let r := u.peekBytes c
      let dst := pf c.params 0x10 8
      u.peekOk c = true → u.peekReach c = true → u.peekBusy c = false →
      let v := { u with fresh := u.fresh + 1 }
      exec (.dbgPeek c) s = .next ((if dst = 0 then v else v.hostWrite dst r.1).reply c 0x0901 sDONE
        (mkFields [(0, 8, if dst = 0 then leNat r.1 else 0), (8, 8, pf c.params 4 4), (0x10, 4, r.2)]))) ∧
    (s.serving c 0x0902 →
      let u := s.settled.begin_ c 0x0902
      let h := pf c.params 1 1
      let x := u.hull h
      (haltOk c 0 0 = true → u.classOf c h ≠ 0 → x.state = .running → x.halted = false → exec (.hullHalt c) s =
        .next ((((u.setHull h { x with halted := true }).event evDbg 1 769).reply c 0x0902 sDONE (mkFields [(0, 2, 0)])))) ∧
      (haltOk c 0 1 = true → u.classOf c h ≠ 0 → x.state = .running → x.halted = true → exec (.hullResume c) s =
        .next ((((u.setHull h { x with halted := false }).event evDbg 1 769).reply c 0x0902 sDONE (mkFields [(0, 2, 0)]))))) ∧
    (s.serving c 0x0902 →
      let u := s.settled.begin_ c 0x0902
      let k := pf c.params 2 1
      let leases := u.coreLeases k
      let broken := leases.foldl (fun (s : State) id => s.breakLease id) u
      let v := if leases = [] then broken else broken.event evDbg 2 770
      u.classOf c 0 ≠ 0 → (∀ r, c.org = .ring r → (u.ring r).core ≠ k) →
      (haltOk c 1 0 = true → (u.core k).halted = false → (leases = [] ∨ bitOf (pf c.params 3 1) 1 = true) →
        ((upFrom 0 8).filter fun i => (u.core i).halted).length < 7 → exec (.coreHalt c) s =
          .next (((v.setCore k { v.core k with halted := true }).event evDbg 1 769).reply c 0x0902 sDONE (mkFields [(0, 2, leases.length)]))) ∧
      (haltOk c 1 1 = true → (u.core k).halted = true → exec (.coreResume c) s =
        .next (((State.setCore { u with board := { u.board with wdogGtc := u.time.gtc } } k { u.core k with halted := false }).event
          evDbg 1 769).reply c 0x0902 sDONE (mkFields [(0, 2, 0)]))))

/-- R459–R462: an idle pod of no hull goes to sleep, and the sleep replies when its entry is complete; a sleeping one wakes, by command or at
its time, with its stores cleared; the device goes to STANDBY when nothing stands against it and comes back from it. -/
def Obligations.PowerStatesChange : Prop :=
  (∀ (s : State) (c : Cmd), s.serving c 0x0A00 →
    let u := s.settled.begin_ c 0x0A00
    let p := pf c.params 1 1
    let x := u.pod p
    u.isOperator c = true →
    (u.powerOk c 1 0 = true → u.podState p = .idle → u.podHeld p = false → x.entering = false →
      let v := u.setPod p { x with entering := true, wakeMask := BitVec.ofNat 3 (pf c.params 3 1), wakeGtc := pf c.params 8 8, owes := some c }
      exec (.podSleep c) s = .next (if bitOf (pf c.params 3 1) 2 = true ∧ pf c.params 8 8 ≤ u.time.gtc then v.abortSleep p 3 else v)) ∧
    (u.powerOk c 1 1 = true → u.podState p = .off → x.standbyState = .off → x.waking = false →
      exec (.podWake c) s = .next (u.setPod p { x with owes := some c, waking := true, wakeCause := 4 })) ∧
    (u.powerOk c 0 1 = true → u.mayStandby = true →
      ∃ v : State, exec (.deviceStandby c) s = .next (v.reply c 0x0A00 sDONE (mkFields [(0, 1, 1)])) ∧ v.board.standby = true ∧
        (∀ q, q < 8 → u.podState q ≠ .fused → (v.pod q).state = .off ∨ (u.pod q).entering = true) ∧ v.mem = u.mem ∧ v.hulls = u.hulls) ∧
    (u.powerOk c 0 0 = true → u.board.standby = true →
      ∃ v : State, exec (.deviceActive c) s = .next (v.reply c 0x0A00 sDONE (mkFields [(0, 1, 0)])) ∧ v.board.standby = false ∧
        (∀ q, q < 8 → (u.pod q).standbyState ≠ .off → (v.pod q).state = (u.pod q).standbyState ∧ (v.pod q).store = [] ∧
          (v.pod q).standbyState = .off) ∧ v.mem = u.mem ∧ v.hulls = u.hulls)) ∧
  (∀ (s : State) (p : Nat),
    let x := s.pod p
    (x.entering = true →
      let v := s.setPod p { x with entering := false, state := .off, owes := none }
      exec (.sleepEntryComplete p) s =
        .next (match x.owes with | some c => v.reply c 0x0A00 sDONE (mkFields [(0, 1, 0)]) | none => v)) ∧
    (x.wakeMask.getLsbD 2 = true → x.wakeGtc ≤ s.time.gtc →
      (x.entering = true → exec (.wakeTimer p) s = .next (s.abortSleep p 3)) ∧
      (x.entering = false → x.state = .off → x.standbyState = .off → x.waking = false → s.inService = true →
        exec (.wakeTimer p) s = .next (s.setPod p { x with waking := true, wakeCause := 3 }))) ∧
    (x.waking = true →
      let v := s.clearPod p
      let w := (v.setPod p { v.pod p with state := .idle, waking := false, wakeMask := 0, owes := none, waiting := [] }).raise 101
      exec (.wakeComplete p) s = .next (x.waiting.foldl State.proceed
        (match x.owes with | some c => w.reply c 0x0A00 sDONE (mkFields [(0, 1, 1)]) | none => w)))
    )

/-! ## Number formats (R141, R145, R155) -/

/-- R141, R145, R155: an encoding of any floating-point format that is no NaN, and in a format that flushes no subnormal, decodes to a value
that every rounding mode encodes as the same bits, with no flag. -/
def Obligations.ExactValuesKeepTheirEncoding : Prop :=
  ∀ (f : FFmt) (r : Rnd) (w : Nat), f ∈ [fp64, fp32, fp16, bf16, e5m2, e4m3, e3m2, e2m3, e2m1] → w < 2 ^ f.bits →
    decodeF f w ≠ .nan → (f.flush = true → w / 2 ^ f.fb % 2 ^ f.eb = 0 → w % 2 ^ f.fb = 0) →
    encodeF f r (decodeF f w) = (w, 0)

/-! ## The queue, reset, and what no command changes -/

/-- A step is the command at the front of the queue on the state with the queue's rest, or, with none waiting, a cycle of the tile clock
(the model's choice, log entry 1). No word spells a command. -/
def Obligations.StepTakesTheFrontCommand : Prop :=
  ∀ (s : State), (∀ c rest, s.pending = c :: rest → step s = exec c { s with pending := rest }) ∧
    (s.pending = [] → step s = .next s.cycle) ∧ ∀ nbits w, s.withFetchWord nbits w = s

/-- Every command is answered by a next state, with the waiting commands as they were (the queue is the model's own, log entry 1). -/
def Obligations.EveryCommandIsAnsweredAndKeepsTheQueue : Prop :=
  ∀ (i : Instr) (s : State), ∃ t, exec i s = .next t ∧ t.pending = s.pending

/-- R14, R44, R447, R390: after reset the device is in INIT, every register held as a word has its table's value, the GTC and the
measurement registers are zero, no hull, program, ring, endpoint, plan or record exists, no block is written, and the invariants
of the other statements hold. -/
def Obligations.ResetLeavesTheTabledValues : Prop :=
  let s := State.reset
  s.pending = [] ∧ s.rst.dev = .init ∧ (∀ off, s.reg off = (resetAt off).toNat) ∧ s.time.gtc = 0 ∧ s.time.align = .unset ∧
    s.sec.meas = [0, 0, 0, 0, 0] ∧ (∀ h, (s.hull h).state = .free ∧ (s.hull h).prog = none ∧ (s.hull h).owner = 0) ∧
    (∀ r, (s.ring r).state = .disabled) ∧ (∀ e, (s.endp e).enable = false) ∧ (∀ b, (s.bundle b).state = .unused) ∧
    s.jv.plan = none ∧ s.log = [] ∧ s.nextSeq = 0 ∧ s.rst.capHeld = false ∧ s.probe.state = 0 ∧
    (∀ tb k, (s.blk tb k).isUnwritten = true) ∧ s.contentOk ∧ s.dramWf = true

/-- R447, R453: no step changes the fuses, the identity, the provisioned keys or the digests of the certificate and the island. -/
def Obligations.NoStepChangesTheFixedIdentity : Prop :=
  ∀ (s t : State), step s = .next t → t.fixed = s.fixed

/-- R390: from any state in which no slot holds content newer than the highest version recorded for its kind, every step leaves it so,
and no step lowers a recorded version: content that is older than one loaded before never enters a slot. -/
def Obligations.ProbeContentNeverRollsBack : Prop :=
  ∀ (s t : State), step s = .next t →
    (s.contentOk → t.contentOk) ∧ ∀ k, tget 0 s.maxVersion k ≤ tget 0 t.maxVersion k

/-- The two tiers and host memory stay in canonical form: addresses strictly rising, nothing listed that reads as an unlisted address
does, so that equal contents are equal data (the model's own form of memory, log entry 6). -/
def Obligations.MemoryKeepsItsCanonicalForm : Prop :=
  ∀ (s t : State), s.dramWf = true → step s = .next t → t.dramWf = true
end

