-- ==== Sys2Proof/Laws/Tbl.lean ====
section
/-! SUPPORT. Sparse tables: what a read gives after a write, and that every write keeps the canonical form. -/

namespace Sys2Proof.Machine

variable {α : Type}

/-! ## Reads after writes -/

theorem tfind_tput_same (t : Tbl α) (k : Nat) (v : α) : tfind (tput t k v) k = some v := by
  induction t with
  | nil => simp [tput, tfind]
  | cons h r ih =>
    obtain ⟨k', v'⟩ := h
    unfold tput
    split
    · simp [tfind]
    · split
      · simp [tfind]
      · rename_i h1 h2
        simp [tfind, h2, ih]

theorem tfind_tput_other (t : Tbl α) {k j : Nat} (v : α) (h : j ≠ k) : tfind (tput t k v) j = tfind t j := by
  induction t with
  | nil => simp [tput, tfind, h]
  | cons hd r ih =>
    obtain ⟨k', v'⟩ := hd
    unfold tput
    split
    · simp [tfind, h]
    · split
      · rename_i h2; subst h2; simp [tfind, h]
      · simp only [tfind, ih]

/-- A read after a write. -/
theorem tfind_tput (t : Tbl α) (k j : Nat) (v : α) : tfind (tput t k v) j = if j = k then some v else tfind t j := by
  split
  · next h => subst h; exact tfind_tput_same t j v
  · next h => exact tfind_tput_other t v h

@[simp] theorem tget_tput_same (d : α) (t : Tbl α) (k : Nat) (v : α) : tget d (tput t k v) k = v := by
  simp [tget, tfind_tput_same]

theorem tget_tput_other (d : α) (t : Tbl α) {k j : Nat} (v : α) (h : j ≠ k) : tget d (tput t k v) j = tget d t j := by
  simp [tget, tfind_tput_other t v h]

theorem tget_tput (d : α) (t : Tbl α) (k j : Nat) (v : α) : tget d (tput t k v) j = if j = k then v else tget d t j := by
  split
  · next h => subst h; simp
  · next h => exact tget_tput_other d t v h

/-- Writing the value a key already holds changes nothing that is read. -/
theorem tget_tput_self (d : α) (t : Tbl α) (k j : Nat) : tget d (tput t k (tget d t k)) j = tget d t j := by
  rw [tget_tput]; split
  · next h => rw [h]
  · rfl

/-- A second write of a key replaces the first. -/
@[simp] theorem tput_tput (t : Tbl α) (k : Nat) (v w : α) : tput (tput t k v) k w = tput t k w := by
  induction t with
  | nil => simp [tput]
  | cons hd r ih =>
    obtain ⟨k', v'⟩ := hd
    by_cases h1 : k < k'
    · simp [tput, h1]
    · by_cases h2 : k = k'
      · subst h2; simp [tput]
      · simp [tput, h1, h2, ih]

/-! ## Rising keys -/

/-- A bound that a lower one replaces. -/
theorem risingFrom_weaken {t : Tbl α} {b c : Nat} (h : risingFrom (some b) t = true) (hc : c ≤ b) :
    risingFrom (some c) t = true := by
  cases t with
  | nil => rfl
  | cons hd r =>
    obtain ⟨k, v⟩ := hd
    simp only [risingFrom, Bool.and_eq_true, decide_eq_true_eq] at h ⊢
    exact ⟨by omega, h.2⟩

theorem risingFrom_none {t : Tbl α} {b : Option Nat} (h : risingFrom b t = true) : risingFrom none t = true := by
  cases t with
  | nil => rfl
  | cons hd r =>
    obtain ⟨k, v⟩ := hd
    cases b with
    | none => exact h
    | some b =>
      simp only [risingFrom, Bool.and_eq_true] at h ⊢
      exact h.2

/-- A key below the bound is not listed. -/
theorem tfind_below {t : Tbl α} {b k : Nat} (h : risingFrom (some b) t = true) (hk : k ≤ b) : tfind t k = none := by
  induction t generalizing b with
  | nil => rfl
  | cons hd r ih =>
    obtain ⟨k', v'⟩ := hd
    simp only [risingFrom, Bool.and_eq_true, decide_eq_true_eq] at h
    have : k ≠ k' := by omega
    simp only [tfind, this, if_false]
    exact ih h.2 (by omega)

theorem risingFrom_tput {t : Tbl α} {b : Option Nat} (k : Nat) (v : α) (h : risingFrom b t = true)
    (hb : ∀ x, b = some x → x < k) : risingFrom b (tput t k v) = true := by
  induction t generalizing b with
  | nil =>
    cases b with
    | none => rfl
    | some x => simp [tput, risingFrom, hb x rfl]
  | cons hd r ih =>
    obtain ⟨k', v'⟩ := hd
    unfold tput
    have hr : risingFrom (some k') r = true := by
      cases b with
      | none => exact h
      | some x => simp only [risingFrom, Bool.and_eq_true] at h; exact h.2
    split
    · next hlt =>
      cases b with
      | none => simp [risingFrom, hlt, hr]
      | some x => simp [risingFrom, hlt, hr, hb x rfl]
    · split
      · next heq =>
        subst heq
        cases b with
        | none => exact hr
        | some x => simp [risingFrom, hr, hb x rfl]
      · next h1 h2 =>
        have hi := ih (b := some k') hr (by intro x hx; cases hx; omega)
        cases b with
        | none => exact hi
        | some x =>
          simp only [risingFrom, Bool.and_eq_true] at h ⊢
          exact ⟨h.1, hi⟩

theorem risingFrom_tdel {t : Tbl α} {b : Option Nat} (k : Nat) (h : risingFrom b t = true) :
    risingFrom b (tdel t k) = true := by
  induction t generalizing b with
  | nil => exact h
  | cons hd r ih =>
    obtain ⟨k', v'⟩ := hd
    have hr : risingFrom (some k') r = true := by
      cases b with
      | none => exact h
      | some x => simp only [risingFrom, Bool.and_eq_true] at h; exact h.2
    unfold tdel
    split
    · cases b with
      | none => exact risingFrom_none hr
      | some x =>
        simp only [risingFrom, Bool.and_eq_true, decide_eq_true_eq] at h
        exact risingFrom_weaken hr (by omega)
    · cases b with
      | none => exact ih hr
      | some x =>
        simp only [risingFrom, Bool.and_eq_true] at h ⊢
        exact ⟨h.1, ih h.2⟩

/-! ## The canonical form -/

theorem tput_all {p : Nat × α → Bool} {t : Tbl α} {k : Nat} {v : α} (h : t.all p = true) (hv : p (k, v) = true) :
    (tput t k v).all p = true := by
  induction t with
  | nil => simp [tput, hv]
  | cons hd r ih =>
    obtain ⟨k', v'⟩ := hd
    simp only [List.all_cons, Bool.and_eq_true] at h
    unfold tput
    split
    · simp [h.1, h.2, hv]
    · split
      · simp [h.2, hv]
      · simp only [List.all_cons, h.1, ih h.2, Bool.and_self]

theorem tdel_all {p : Nat × α → Bool} {t : Tbl α} {k : Nat} (h : t.all p = true) : (tdel t k).all p = true := by
  induction t with
  | nil => exact h
  | cons hd r ih =>
    obtain ⟨k', v'⟩ := hd
    simp only [List.all_cons, Bool.and_eq_true] at h
    unfold tdel
    split
    · exact h.2
    · simp only [List.all_cons, h.1, ih h.2, Bool.and_self]

/-- The empty table is canonical. -/
@[simp] theorem twf_nil [DecidableEq α] (d : α) : twf d ([] : Tbl α) = true := rfl

/-- A write keeps the canonical form. -/
theorem twf_tset [DecidableEq α] {d : α} {t : Tbl α} (k : Nat) (v : α) (h : twf d t = true) : twf d (tset d t k v) = true := by
  unfold twf at h ⊢
  rw [Bool.and_eq_true] at h
  unfold tset
  split
  · rw [risingFrom_tdel k h.1, tdel_all h.2]; rfl
  · next hv =>
    rw [risingFrom_tput k v h.1 (by intro x hx; cases hx), tput_all h.2 (by simpa using hv)]; rfl

/-- Several writes keep the canonical form. -/
theorem twf_tsets [DecidableEq α] {d : α} {t : Tbl α} (l : List (Nat × α)) (h : twf d t = true) : twf d (tsets d t l) = true := by
  unfold tsets
  induction l generalizing t with
  | nil => exact h
  | cons x r ih => exact ih (twf_tset _ _ h)

/-- A write of bytes keeps the canonical form. -/
theorem twf_putBytes {t : Tbl Byte} (a : Nat) (l : List Byte) (h : twf 0 t = true) : twf 0 (putBytes t a l) = true := by
  induction l generalizing t a with
  | nil => exact h
  | cons b r ih => exact ih (a + 1) (twf_tset _ _ h)

/-- Removing some keys keeps them rising. -/
theorem risingFrom_filter (p : Nat × α → Bool) {t : Tbl α} {b : Option Nat} (h : risingFrom b t = true) :
    risingFrom b (t.filter p) = true := by
  induction t generalizing b with
  | nil => exact h
  | cons hd r ih =>
    obtain ⟨k, v⟩ := hd
    have hr : risingFrom (some k) r = true := by
      cases b with
      | none => exact h
      | some x => simp only [risingFrom, Bool.and_eq_true] at h; exact h.2
    rw [List.filter_cons]
    split
    · cases b with
      | none => exact ih hr
      | some x => simp only [risingFrom, Bool.and_eq_true] at h ⊢; exact ⟨h.1, ih hr⟩
    · cases b with
      | none => exact risingFrom_none (ih hr)
      | some x =>
        simp only [risingFrom, Bool.and_eq_true, decide_eq_true_eq] at h
        exact ih (risingFrom_weaken hr (by omega))

theorem twf_filter [DecidableEq α] {d : α} (p : Nat × α → Bool) {t : Tbl α} (h : twf d t = true) :
    twf d (t.filter p) = true := by
  unfold twf at h ⊢
  rw [Bool.and_eq_true] at h
  rw [risingFrom_filter p h.1, Bool.true_and, List.all_eq_true]
  intro x hx
  exact List.all_eq_true.mp h.2 x (List.mem_filter.mp hx).1

/-! ## Reads of canonical tables -/

theorem tfind_tdel_other (t : Tbl α) {k j : Nat} (h : j ≠ k) : tfind (tdel t k) j = tfind t j := by
  induction t with
  | nil => rfl
  | cons hd r ih =>
    obtain ⟨k', v'⟩ := hd
    unfold tdel
    split
    · next h2 => subst h2; simp [tfind, h]
    · simp only [tfind, ih]

theorem tfind_tdel_same {t : Tbl α} {k : Nat} {b : Option Nat} (h : risingFrom b t = true) : tfind (tdel t k) k = none := by
  induction t generalizing b with
  | nil => rfl
  | cons hd r ih =>
    obtain ⟨k', v'⟩ := hd
    have hr : risingFrom (some k') r = true := by
      cases b with
      | none => exact h
      | some x => simp only [risingFrom, Bool.and_eq_true] at h; exact h.2
    unfold tdel
    split
    · next h2 => subst h2; exact tfind_below hr (le_refl _)
    · next h2 => simp only [tfind, h2, if_false]; exact ih hr

/-- A read after a write of a canonical table. -/
theorem tget_tset [DecidableEq α] {d : α} {t : Tbl α} (h : twf d t = true) (k j : Nat) (v : α) :
    tget d (tset d t k v) j = if j = k then v else tget d t j := by
  have hr : risingFrom none t = true := by unfold twf at h; rw [Bool.and_eq_true] at h; exact h.1
  unfold tset
  split
  · next hv =>
    split
    · next hj => subst hj; simp [tget, tfind_tdel_same hr, hv]
    · next hj => simp [tget, tfind_tdel_other t hj]
  · exact tget_tput d t k j v

/-- A write leaves every other key as it was, canonical or not. -/
theorem tget_tset_other [DecidableEq α] (d : α) (t : Tbl α) {k j : Nat} (v : α) (h : j ≠ k) :
    tget d (tset d t k v) j = tget d t j := by
  unfold tset
  split
  · simp [tget, tfind_tdel_other t h]
  · exact tget_tput_other d t v h

/-- A write of bytes leaves every byte outside as it was. -/
theorem tget_putBytes_other (t : Tbl Byte) (a : Nat) (l : List Byte) {j : Nat} (h : j < a ∨ a + l.length ≤ j) :
    tget 0 (putBytes t a l) j = tget 0 t j := by
  induction l generalizing t a with
  | nil => rfl
  | cons b r ih =>
    simp only [List.length_cons] at h
    rw [putBytes, ih (tset 0 t a b) (a + 1) (by omega), tget_tset_other 0 t b (by omega)]

end Sys2Proof.Machine
end

