-- ==== Sys2Proof/Laws/Bytes.lean ====
section
/-!
SUPPORT. Lengths of byte strings and digests, and the husk check of a block that carries its own husk (R376, R377).
-/

namespace Sys2Proof.Machine

@[simp] theorem natLe_length (n v : Nat) : (natLe n v).length = n := by
  induction n generalizing v with
  | zero => rfl
  | succ n ih => simp [natLe, ih]

@[simp] theorem natBe_length (n v : Nat) : (natBe n v).length = n := by
  simp [natBe]

@[simp] theorem zeros_length (n : Nat) : (zeros n).length = n := by
  simp [zeros]

theorem upFrom_add (n a b : Nat) : upFrom n (a + b) = upFrom n a ++ upFrom (n + a) b := by
  induction a generalizing n with
  | zero => simp [upFrom]
  | succ a ih =>
    rw [Nat.succ_add, upFrom, ih (n + 1), Nat.add_right_comm n 1 a]
    rfl

@[simp] theorem upFrom_length (n len : Nat) : (upFrom n len).length = len := by
  induction len generalizing n with
  | zero => rfl
  | succ k ih => simp [upFrom, ih]

@[simp] theorem getBytes_length (t : Tbl Byte) (a n : Nat) : (getBytes t a n).length = n := by
  simp [getBytes]

/-- A longer read begins with a shorter one. -/
theorem getBytes_take (t : Tbl Byte) (a m n : Nat) : (getBytes t a (m + n)).take m = getBytes t a m := by
  simp only [getBytes, upFrom_add, List.map_append]
  exact List.take_left' (by simp)

/-- Padding to whole blocks adds less than a block. -/
theorem padBlock_length_le (l : List Byte) : (padBlock l).length ≤ l.length + 4096 := by
  simp only [padBlock, inBlocks, List.length_append, zeros_length]
  omega

/-- A digest has no more words than its initial value. -/
theorem shaBlocks_length_le {w : Nat} (r : ShaRot) (ks : List (BitVec w)) (b n : Nat) (l : List Byte) (h : List (BitVec w)) :
    (shaBlocks r ks b n l h).length ≤ h.length := by
  induction n generalizing l h with
  | zero => exact Nat.le_refl _
  | succ n ih =>
    refine Nat.le_trans (ih _ _) ?_
    simp only [shaBlock, List.length_map, List.length_zip]
    exact Nat.min_le_left _ _

/-- A SHA-256 digest has at most 32 bytes. -/
theorem sha256Bytes_length_le (l : List Byte) : (sha256Bytes l).length ≤ 32 := by
  have h := shaBlocks_length_le rot256 sha256K 4 ((shaPad 64 8 l).length / 64) (shaPad 64 8 l) sha256H
  have e : sha256H.length = 8 := rfl
  simp only [sha256Bytes, List.length_flatMap, natBe_length, List.map_const', List.sum_replicate, smul_eq_mul]
  omega

/-- A number that fits its bytes is read back from them (R11). -/
theorem leNat_natLe (n v : Nat) (h : v < 256 ^ n) : leNat (natLe n v) = v := by
  induction n generalizing v with
  | zero =>
    have h' : v = 0 := by simpa using h
    simp [natLe, leNat, h']
  | succ n ih =>
    have hd : v / 256 < 256 ^ n := by
      rw [Nat.div_lt_iff_lt_mul (by decide)]
      simpa [Nat.pow_succ] using h
    simp only [natLe, leNat, ih _ hd, BitVec.toNat_ofNat]
    omega

/-- A slice of the first part of a byte string. -/
theorem slice_append_left (a b : List Byte) : slice (a ++ b) 0 a.length = a := by
  simp [slice, zeros]

/-- A slice of the last part of a byte string. -/
theorem slice_append_right (a b : List Byte) : slice (a ++ b) a.length b.length = b := by
  simp [slice, zeros]

/-- The upper half of a husk is its tag (R377). -/
theorem huskOf_tag (payload : List Byte) (tag : Nat) (ht : tag < 2 ^ 32) : (huskOf payload tag).toNat / 2 ^ 32 = tag := by
  have hc := (crc32c payload).isLt
  simp only [huskOf, BitVec.toNat_ofNat]
  omega

/-- A block that carries the husk of its own payload passes its check without a tag, whatever its tag, unless the husk is the unwritten
marker. -/
theorem Blk.check_husk (d : Tbl Byte) (tag : Nat) (ht : tag < 2 ^ 32) (hu : tag ≠ unwrittenHusk.toNat / 2 ^ 32) :
    (Blk.mk (huskOf (getBytes d 0 4096) tag) d).check none = .pass := by
  have hh := huskOf_tag (getBytes d 0 4096) tag ht
  have hw : Blk.isUnwritten (Blk.mk (huskOf (getBytes d 0 4096) tag) d) = false := by
    simp only [Blk.isUnwritten, beq_eq_false_iff_ne, ne_eq]
    intro h
    rw [h] at hh
    exact hu hh.symm
  unfold Blk.check
  rw [hw]
  simp only [Bool.false_eq_true, if_false, Option.getD_none, hh, Blk.payload, ne_eq, not_true_eq_false]

/-- A block just written carries no unwritten marker and passes the check with its tag (R186, R192). -/
theorem Blk.merged_passes (b : Blk) (tag lo : Nat) (bytes : List Byte) (ht : tag < 2 ^ 32) (hu : tag ≠ unwrittenHusk.toNat / 2 ^ 32) :
    (b.merged tag lo bytes).isUnwritten = false ∧ (b.merged tag lo bytes).check (some tag) = .pass := by
  have hh := huskOf_tag (getBytes (putBytes b.data lo bytes) 0 4096) tag ht
  have hw : (b.merged tag lo bytes).isUnwritten = false := by
    simp only [Blk.isUnwritten, Blk.merged, beq_eq_false_iff_ne, ne_eq]
    intro h
    rw [h] at hh
    exact hu hh.symm
  refine ⟨hw, ?_⟩
  unfold Blk.check
  rw [hw]
  simp only [Bool.false_eq_true, if_false, Option.getD_some, Blk.merged, Blk.payload, ne_eq, not_true_eq_false]

end Sys2Proof.Machine
end

