-- ==== Sys2Proof/Laws/Keeps.lean ====
section
/-!
SUPPORT. What every operation keeps: the waiting commands, the fixed identity, the rule of probe content, and the memories' canonical
form. One lemma per operation, each from those of the operations it calls.
-/

namespace Sys2Proof.Machine

/-- The step from `s` to `t` keeps what no command but a load of probe content changes, and the invariants of the statements. -/
structure Keeps (s t : State) : Prop where
  pending : t.pending = s.pending
  fixed : t.fixed = s.fixed
  content : s.contentOk → t.contentOk
  version : ∀ k, tget 0 s.maxVersion k ≤ tget 0 t.maxVersion k
  dram : s.dramWf = true → t.dramWf = true

/-- What `Keeps` reads of a state. -/
def State.keptPart (s : State) : (List Instr × Tbl SlotS × Tbl Nat × Tbl Blk × Tbl Blk × Tbl Byte) ×
    (BitVec 8 × BitVec 128 × Word32 × Half × BitVec 768 × BitVec 768 × BitVec 384 × BitVec 384) :=
  ((s.pending, s.slots, s.maxVersion, s.mem.a, s.mem.b, s.host),
    (s.board.fused, s.board.serial, s.board.enterprise, s.board.jep106, s.sec.contentKey, s.sec.debugKey, s.sec.certDigest,
      s.sec.islandDigest))

variable {s0 : State}

theorem Keeps.refl (s : State) : Keeps s s := ⟨rfl, rfl, fun h => h, fun _ => Nat.le_refl _, fun h => h⟩

theorem Keeps.trans {s t u : State} (h : Keeps s t) (k : Keeps t u) : Keeps s u :=
  ⟨k.pending.trans h.pending, k.fixed.trans h.fixed, fun x => k.content (h.content x), fun i => (h.version i).trans (k.version i),
    fun x => k.dram (h.dram x)⟩

/-- An update of other parts of the state. -/
theorem Keeps.upd {s t : State} (h : Keeps s0 s) (e : t.keptPart = s.keptPart) : Keeps s0 t := by
  simp only [State.keptPart, Prod.mk.injEq] at e
  obtain ⟨⟨e1, e3, e4, e5, e6, e7⟩, e8, e9, e10, e11, e12, e13, e14, e15⟩ := e
  refine h.trans ⟨e1, ?_, ?_, ?_, ?_⟩
  · rw [State.fixed, e8, e9, e10, e11, e12, e13, e14, e15]; rfl
  · intro c; rw [State.contentOk, e3, e4]; exact c
  · intro k; rw [e4]
  · intro d; rw [State.dramWf, e5, e6, e7]; exact d

theorem Keeps.ite {c : Prop} [Decidable c] {a b : State} (h : Keeps s0 a) (k : Keeps s0 b) : Keeps s0 (if c then a else b) := by
  split
  · exact h
  · exact k

theorem Keeps.dite {c : Prop} [Decidable c] {a : c → State} {b : ¬c → State} (h : ∀ x, Keeps s0 (a x)) (k : ∀ x, Keeps s0 (b x)) :
    Keeps s0 (if x : c then a x else b x) := by
  split
  · exact h _
  · exact k _

theorem Keeps.cond {c : Bool} {a b : State} (h : Keeps s0 a) (k : Keeps s0 b) : Keeps s0 (bif c then a else b) := by
  cases c
  · exact k
  · exact h

theorem Keeps.foldl {α : Type} {f : State → α → State} {l : List α} {s : State} (h : Keeps s0 s)
    (k : ∀ s x, Keeps s0 s → Keeps s0 (f s x)) : Keeps s0 (l.foldl f s) := by
  induction l generalizing s with
  | nil => exact h
  | cons x r ih => exact ih (k s x h)

theorem Keeps.iteP {β : Type} {P : β → Prop} {c : Prop} [Decidable c] {a b : β} (h : P a) (k : P b) : P (if c then a else b) := by
  split
  · exact h
  · exact k

/-- An update of other parts of the state, written out field by field. -/
theorem Keeps.put {s : State} {xtiles : Tbl Tile} {xpods : Tbl Pod} {xsync : Tbl SyncObj} {xspine : List SyncReq} {m : MemS} {xnmu
    : NmuS} {xaus : Tbl Engine} {xhulls : Tbl Hull} {xtime : TimeS} {xjv : JvS} {xgroups : Tbl Group} {xrings : Tbl Ring}
    {xendpoints : Tbl Endpoint} {xirqs : Tbl IrqSrc} {xcores : Tbl CoreS} {xlog : List ErrRec} {xnextSeq : Nat} {xcollectors : List
    Collector} {xrst : RstS} {xprobe : ProbeS} {xbypass : BitVec 8} {c : SecS} {b : BoardS} {xregs : Tbl Word} {xout : List Out}
    {xfresh : Nat} {xfaults : List (Nat × ErrRec)} (ea : m.a = s.mem.a) (eb : m.b = s.mem.b) (ec : (b.fused, b.serial,
    b.enterprise, b.jep106) = (s.board.fused, s.board.serial, s.board.enterprise, s.board.jep106)) (ed : (c.contentKey, c.debugKey,
    c.certDigest, c.islandDigest) = (s.sec.contentKey, s.sec.debugKey, s.sec.certDigest, s.sec.islandDigest)) (h : Keeps s0 s) :
    Keeps s0 (.mk s.pending xtiles xpods xsync xspine m xnmu xaus xhulls xtime xjv xgroups xrings xendpoints xirqs xcores xlog
      xnextSeq xcollectors xrst xprobe s.slots s.maxVersion xbypass c b xregs s.host xout xfresh xfaults) := by
  simp only [Prod.mk.injEq] at ec ed
  exact h.upd (by simp only [State.keptPart, ea, eb, ec, ed])

/-- What a let names is shown first. -/
theorem Keeps.cut {P Q : Prop} (h : P) (k : P → Q) : Q := k h

theorem Keeps.ite1 {β : Type} {c : Prop} [Decidable c] {a b : State × β} (h : Keeps s0 a.1) (k : Keeps s0 b.1) :
    Keeps s0 (if c then a else b).1 := by
  split
  · exact h
  · exact k

/-- A pair taken apart. -/
theorem Keeps.ofPair {β : Type} {p : State × β} {a : State} {b : β} (e : p = (a, b)) (h : Keeps s0 p.1) : Keeps s0 a := by
  subst e; exact h

theorem Keeps.ofPair2 {β : Type} {p : β × State} {a : State} {b : β} (e : p = (b, a)) (h : Keeps s0 p.2) : Keeps s0 a := by
  subst e; exact h

/-- `State.keptPart` without host memory. -/
def State.keptNoHost (s : State) : (List Instr × Tbl SlotS × Tbl Nat × Tbl Blk × Tbl Blk) ×
    (BitVec 8 × BitVec 128 × Word32 × Half × BitVec 768 × BitVec 768 × BitVec 384 × BitVec 384) :=
  ((s.pending, s.slots, s.maxVersion, s.mem.a, s.mem.b),
    (s.board.fused, s.board.serial, s.board.enterprise, s.board.jep106, s.sec.contentKey, s.sec.debugKey, s.sec.certDigest,
      s.sec.islandDigest))

/-- A write of host memory. -/
theorem Keeps.hostUpd {s t : State} {a : Nat} {b : List Byte} (h : Keeps s0 s) (eh : t.host = putBytes s.host a b)
    (e : t.keptNoHost = s.keptNoHost) : Keeps s0 t := by
  simp only [State.keptNoHost, Prod.mk.injEq] at e
  obtain ⟨⟨e1, e3, e4, e5, e6⟩, e8, e9, e10, e11, e12, e13, e14, e15⟩ := e
  refine h.trans ⟨e1, ?_, ?_, ?_, ?_⟩
  · rw [State.fixed, e8, e9, e10, e11, e12, e13, e14, e15]; rfl
  · intro c; rw [State.contentOk, e3, e4]; exact c
  · intro k; rw [e4]
  · intro d
    simp only [State.dramWf, Bool.and_eq_true] at d ⊢
    exact ⟨⟨e5 ▸ d.1.1, e6 ▸ d.1.2⟩, eh ▸ twf_putBytes a b d.2⟩

theorem blksWf_filter (p : Nat × Blk → Bool) {t : Tbl Blk} (h : blksWf t = true) : blksWf (t.filter p) = true := by
  simp only [blksWf, Bool.and_eq_true] at h ⊢
  refine ⟨twf_filter p h.1, ?_⟩
  rw [List.all_eq_true] at h ⊢
  exact fun x hx => h.2 x (List.mem_filter.mp hx).1

theorem tset_all {α : Type} [DecidableEq α] {p : Nat × α → Bool} {d : α} {t : Tbl α} {k : Nat} {v : α} (h : t.all p = true)
    (hv : p (k, v) = true) : (tset d t k v).all p = true := by
  unfold tset
  split
  · exact tdel_all h
  · exact tput_all h hv

theorem blksWf_tset {t : Tbl Blk} {k : Nat} {b : Blk} (h : blksWf t = true) (hb : twf 0 b.data = true) :
    blksWf (tset Blk.unwritten t k b) = true := by
  simp only [blksWf, Bool.and_eq_true] at h ⊢
  exact ⟨twf_tset k b h.1, tset_all h.2 hb⟩

/-- The outcome is a next state that keeps it all. -/
def Answers (s : State) (o : Outcome) : Prop := ∃ t, o = .next t ∧ Keeps s t

theorem Answers.next {t : State} (h : Keeps s0 t) : Answers s0 (.next t) := ⟨t, rfl, h⟩

theorem Keeps.diteP {β : Type} {P : β → Prop} {c : Prop} [Decidable c] {a : c → β} {b : ¬c → β} (h : ∀ x, P (a x))
    (k : ∀ x, P (b x)) : P (if x : c then a x else b x) := by
  split
  · exact h _
  · exact k _

/-- A fold over a state and something else. -/
theorem Keeps.foldl1 {α β : Type} {f : State × β → α → State × β} {l : List α} {p : State × β} (h : Keeps s0 p.1)
    (k : ∀ p x, Keeps s0 p.1 → Keeps s0 (f p x).1) : Keeps s0 (l.foldl f p).1 := by
  induction l generalizing p with
  | nil => exact h
  | cons x r ih => exact ih (k p x h)

end Sys2Proof.Machine
end

