-- ==== Sys2Proof/Laws/KeepsOps.lean ====
section
/-!
SUPPORT. Every operation on the state keeps the waiting commands, the fixed identity, the rule of probe content and the memories'
canonical form; in the order in which operations call each other.
-/

namespace Sys2Proof.Machine

variable {s0 : State}

theorem State.setPod_keeps (h : Keeps s0 s) : Keeps s0 (State.setPod s a2 a3) := by
  unfold State.setPod
  exact .upd h (by simp only [State.keptPart])

theorem State.setReg_keeps (h : Keeps s0 s) : Keeps s0 (State.setReg s a2 a3) := by
  unfold State.setReg
  exact .upd h (by simp only [State.keptPart])

theorem State.regOr_keeps (h : Keeps s0 s) : Keeps s0 (State.regOr s a2 a3) := by
  unfold State.regOr
  exact State.setReg_keeps h

theorem State.setIrq_keeps (h : Keeps s0 s) : Keeps s0 (State.setIrq s a2 a3) := by
  unfold State.setIrq
  exact .upd h (by simp only [State.keptPart])

theorem State.setCore_keeps (h : Keeps s0 s) : Keeps s0 (State.setCore s a2 a3) := by
  unfold State.setCore
  exact .upd h (by simp only [State.keptPart])

theorem State.icLatch_keeps (h : Keeps s0 s) : Keeps s0 (State.icLatch s) := by
  unfold State.icLatch
  exact .foldl h fun _ _ h1 => (.ite (State.setCore_keeps h1) h1)

theorem State.signal_keeps (h : Keeps s0 s) : Keeps s0 (State.signal s a2) := by
  unfold State.signal
  extract_lets +onlyGivenNames x1 x2
  exact State.icLatch_keeps (State.setIrq_keeps h)

theorem State.raise_keeps (h : Keeps s0 s) : Keeps s0 (State.raise s a2) := by
  unfold State.raise
  exact State.signal_keeps h

theorem State.event_keeps (h : Keeps s0 s) : Keeps s0 (State.event s a2 a3 a4) := by
  unfold State.event
  exact State.raise_keeps (State.regOr_keeps h)

theorem State.probeEnd_keeps (h : Keeps s0 s) : Keeps s0 (State.probeEnd s a2) := by
  unfold State.probeEnd
  exact State.event_keeps (.upd h (by simp only [State.keptPart]))

theorem State.abortProbe_keeps (h : Keeps s0 s) : Keeps s0 (State.abortProbe s a2) := by
  unfold State.abortProbe
  extract_lets +onlyGivenNames x1
  refine .ite ?_ h
  extract_lets +onlyGivenNames x2
  exact State.probeEnd_keeps (State.setPod_keeps h)

theorem State.setEndp_keeps (h : Keeps s0 s) : Keeps s0 (State.setEndp s a2 a3) := by
  unfold State.setEndp
  exact .upd h (by simp only [State.keptPart])

theorem State.setRing_keeps (h : Keeps s0 s) : Keeps s0 (State.setRing s a2 a3) := by
  unfold State.setRing
  exact .upd h (by simp only [State.keptPart])

theorem State.emit_keeps (h : Keeps s0 s) : Keeps s0 (State.emit s a2) := by
  unfold State.emit
  exact .upd h (by simp only [State.keptPart])

theorem State.hevent_keeps (h : Keeps s0 s) : Keeps s0 (State.hevent s a2) := by
  unfold State.hevent
  exact .ite h (State.emit_keeps (State.regOr_keeps h))

theorem State.ringFault_keeps (h : Keeps s0 s) : Keeps s0 (State.ringFault s a2) := by
  unfold State.ringFault
  extract_lets +onlyGivenNames x1
  split
  · exact State.hevent_keeps (State.setRing_keeps h)
  · exact State.hevent_keeps (State.setRing_keeps h)
  · exact h

theorem State.reply_keeps (h : Keeps s0 s) : Keeps s0 (State.reply s a2 a3 a4 a5 a6) := by
  unfold State.reply
  refine .ite h ?_
  extract_lets +onlyGivenNames s1
  have h1 : Keeps s0 s1 := by
    unfold s1
    exact State.emit_keeps h
  clear_value s1
  extract_lets +onlyGivenNames x2
  split
  · extract_lets +onlyGivenNames x3
    split
    · refine .ite (State.ringFault_keeps h1) ?_
      extract_lets +onlyGivenNames x4 x5 s6
      have h6 : Keeps s0 s6 := by
        unfold s6
        exact .hostUpd h1 rfl (by simp only [State.keptNoHost])
      clear_value s6
      extract_lets +onlyGivenNames s7
      have h7 : Keeps s0 s7 := by
        unfold s7
        exact State.setRing_keeps h6
      clear_value s7
      exact .ite (State.emit_keeps h7) h7
    · refine .ite (State.ringFault_keeps h1) ?_
      extract_lets +onlyGivenNames x4 x5 s6
      have h6 : Keeps s0 s6 := by
        unfold s6
        exact .hostUpd h1 rfl (by simp only [State.keptNoHost])
      clear_value s6
      extract_lets +onlyGivenNames s7
      have h7 : Keeps s0 s7 := by
        unfold s7
        exact State.setRing_keeps h6
      clear_value s7
      exact .ite (State.emit_keeps h7) h7
    · exact h1
  · extract_lets +onlyGivenNames x3
    split
    · extract_lets +onlyGivenNames s4
      have h4 : Keeps s0 s4 := by
        unfold s4
        exact State.setEndp_keeps h1
      clear_value s4
      exact State.emit_keeps h4
    · exact h1

theorem State.abortSleep_keeps (h : Keeps s0 s) : Keeps s0 (State.abortSleep s a2 a3) := by
  unfold State.abortSleep
  extract_lets +onlyGivenNames x1 s2
  have h2 : Keeps s0 s2 := State.setPod_keeps h
  clear_value s2
  extract_lets +onlyGivenNames s3
  have h3 : Keeps s0 s3 := by
    unfold s3
    split
    · exact State.reply_keeps h2
    · exact h2
  clear_value s3
  exact State.raise_keeps h3

theorem Keeps.setNmu {x : NmuS} (h : Keeps s0 s) : Keeps s0 { s with nmu := x } := .upd h rfl

theorem State.accrueScrub_keeps (h : Keeps s0 s) : Keeps s0 (State.accrueScrub s) := by
  unfold State.accrueScrub
  repeat' first
    | with_reducible assumption
    | (extract_lets +onlyGivenNames x; ((refine Keeps.cut (P := Keeps s0 x) ?_ fun _ => ?_) <;> [(unfold x; rename' x => y); (try clear_value x; rename' x => y)]))
    | (extract_lets +onlyGivenNames x; ((refine Keeps.cut (P := ∀ y, Keeps s0 y → ∀ a0, Keeps s0 (x y a0)) ?_ fun g1 => ?_) <;> [(unfold x; rename' x => y); (try clear_value x; rename' x => y)]))
    | intro _
    | with_reducible refine g1 _ ?_ _
    | with_reducible refine Keeps.ite ?_ ?_
    | with_reducible refine Keeps.foldl ?_ fun _ _ _ => ?_
    | with_reducible exact Keeps.put rfl rfl rfl rfl (by assumption)

theorem State.setGroup_keeps (h : Keeps s0 s) : Keeps s0 (State.setGroup s a2 a3) := by
  unfold State.setGroup
  exact .upd h (by simp only [State.keptPart])

theorem State.setHull_keeps (h : Keeps s0 s) : Keeps s0 (State.setHull s a2 a3) := by
  unfold State.setHull
  exact .upd h (by simp only [State.keptPart])

theorem State.addEntry_keeps (h : Keeps s0 s) : Keeps s0 (State.addEntry s a2 a3) := by
  unfold State.addEntry
  exact State.setHull_keeps h

theorem State.setRun_keeps (h : Keeps s0 s) : Keeps s0 (State.setRun s a2 a3) := by
  unfold State.setRun
  exact State.setHull_keeps h

theorem State.addDecision_keeps (h : Keeps s0 s) : Keeps s0 (State.addDecision s a2 a3) := by
  unfold State.addDecision
  extract_lets +onlyGivenNames x1 s2
  have h2 : Keeps s0 s2 := State.setRun_keeps h
  clear_value s2
  extract_lets +onlyGivenNames s3
  have h3 : Keeps s0 s3 := .foldl h2 fun _ _ h5 => (State.addEntry_keeps h5)
  clear_value s3
  extract_lets +onlyGivenNames x4
  exact State.setGroup_keeps h3

theorem State.setUnitB_keeps (h : Keeps s0 s) : Keeps s0 (State.setUnitB s a2 a3) := by
  unfold State.setUnitB
  exact .upd h (by simp only [State.keptPart])

theorem State.setUnitA_keeps (h : Keeps s0 s) : Keeps s0 (State.setUnitA s a2 a3) := by
  unfold State.setUnitA
  exact .upd h (by simp only [State.keptPart])

theorem State.setUnit_keeps (h : Keeps s0 s) : Keeps s0 (State.setUnit s a2 a3) := by
  unfold State.setUnit
  split
  · exact State.setUnitA_keeps h
  · exact State.setUnitB_keeps h

theorem State.free_keeps (h : Keeps s0 s) : Keeps s0 (State.free s).2 := by
  unfold State.free
  exact .upd h (by simp only [State.keptPart])

theorem State.addExtent_keeps (h : Keeps s0 s) : Keeps s0 (State.addExtent s a2 a3 a4 a5) := by
  unfold State.addExtent
  refine .ite h ?_
  extract_lets +onlyGivenNames x1 s2
  have h2 : Keeps s0 s2 := State.free_keeps h
  clear_value s2
  extract_lets +onlyGivenNames x3 x4 x5 x6 s7
  have h7 : Keeps s0 s7 := State.setHull_keeps h2
  clear_value s7
  refine .foldl h7 fun _ _ h8 => ?_
  extract_lets +onlyGivenNames x9
  exact State.setUnit_keeps h8

theorem State.setTile_keeps (h : Keeps s0 s) : Keeps s0 (State.setTile s a2 a3) := by
  unfold State.setTile
  exact .upd h (by simp only [State.keptPart])

theorem State.updTile_keeps (h : Keeps s0 s) : Keeps s0 (State.updTile s a2 a3) := by
  unfold State.updTile
  exact State.setTile_keeps h

theorem State.answer_keeps (h : Keeps s0 s) : Keeps s0 (State.answer s a2) := by
  unfold State.answer
  split
  · exact .ite (State.updTile_keeps h) h
  · exact State.emit_keeps h

/-- A block with canonical data is stored. -/
theorem State.setBlk_keeps (h : Keeps s0 s) (hb : s0.dramWf = true → twf 0 a4.data = true) : Keeps s0 (State.setBlk s a2 a3 a4) := by
  have d : s0.dramWf = true → (State.setBlk s a2 a3 a4).dramWf = true := by
    intro d
    have d1 := h.dram d
    have b1 := hb d
    simp only [State.dramWf, Bool.and_eq_true] at d1 ⊢
    unfold State.setBlk
    split
    · exact ⟨⟨d1.1.1, blksWf_tset d1.1.2 b1⟩, d1.2⟩
    · exact ⟨⟨blksWf_tset d1.1.1 b1, d1.1.2⟩, d1.2⟩
  refine ⟨?_, ?_, ?_, ?_, d⟩
  · rw [← h.pending]; unfold State.setBlk; split <;> rfl
  · rw [← h.fixed]; unfold State.setBlk; split <;> rfl
  · intro c; have c := h.content c; unfold State.setBlk; split <;> exact c
  · intro k; have c := h.version k; unfold State.setBlk; split <;> exact c

/-- A block of a canonical memory has canonical data. -/
theorem blksWf_tget {t : Tbl Blk} (h : blksWf t = true) (k : Nat) : twf 0 (tget Blk.unwritten t k).data = true := by
  simp only [blksWf, Bool.and_eq_true] at h
  have h2 := h.2
  clear h
  unfold tget
  induction t with
  | nil => rfl
  | cons x r ih =>
    obtain ⟨k', v⟩ := x
    rw [List.all_cons, Bool.and_eq_true] at h2
    unfold tfind
    split
    · exact h2.1
    · exact ih h2.2

theorem State.blk_wf {s : State} (h : s.dramWf = true) (tb : Bool) (k : Nat) : twf 0 (s.blk tb k).data = true := by
  simp only [State.dramWf, Bool.and_eq_true] at h
  unfold State.blk
  split
  · exact blksWf_tget h.1.2 k
  · exact blksWf_tget h.1.1 k

theorem blkOf_wf (p : List Byte) (tag : Nat) : twf 0 (Blk.of p tag).data = true := twf_putBytes 0 _ (twf_nil 0)

theorem State.copyOut_keeps (h : Keeps s0 s) : Keeps s0 (State.copyOut a1 a2 a3 s) := by
  induction a1 generalizing a2 a3 s with
  | zero => exact h
  | succ n ih =>
    unfold State.copyOut
    extract_lets hit
    split
    · exact h
    · exact ih (State.setBlk_keeps (ih (.upd h rfl)) fun d => State.blk_wf (h.dram d) _ _)

theorem State.putBlk_keeps (h : Keeps s0 s) (hb : s0.dramWf = true → twf 0 a4.data = true) : Keeps s0 (State.putBlk s a2 a3 a4) :=
  State.setBlk_keeps (State.copyOut_keeps h) hb

theorem State.setRegF_keeps (h : Keeps s0 s) : Keeps s0 (State.setRegF s a2 a3 a4 a5) := by
  unfold State.setRegF
  extract_lets +onlyGivenNames x1
  exact State.setReg_keeps h

theorem State.regSat_keeps (h : Keeps s0 s) : Keeps s0 (State.regSat s a2 a3 a4 a5) := by
  unfold State.regSat
  exact State.setRegF_keeps h

theorem State.pushTo_keeps (h : Keeps s0 s) : Keeps s0 (State.pushTo s a2) := by
  unfold State.pushTo
  split
  · split
    · exact .ite (State.emit_keeps h) h
    · exact h
  · exact h

theorem State.pushNew_keeps (h : Keeps s0 s) : Keeps s0 (State.pushNew s a2) := by
  unfold State.pushNew
  refine .foldl h fun _ _ h1 => ?_
  split
  · exact .ite (State.pushTo_keeps h1) h1
  · exact h1

theorem State.log1_keeps (h : Keeps s0 s) : Keeps s0 (State.log1 s a2) := by
  unfold State.log1
  extract_lets +onlyGivenNames x1
  try clear_value x1
  extract_lets +onlyGivenNames x2
  try clear_value x2
  extract_lets +onlyGivenNames s3
  have h3 : Keeps s0 s3 := by
    unfold s3
    exact .upd h (by simp only [State.keptPart])
  clear_value s3
  extract_lets +onlyGivenNames s4
  have h4 : Keeps s0 s4 := by
    unfold s4
    exact State.pushNew_keeps h3
  clear_value s4
  split
  · exact .ite (State.event_keeps (State.regSat_keeps h4)) h4
  · exact h4

theorem State.huskFail_keeps (h : Keeps s0 s) : Keeps s0 (State.huskFail s a2 a3 a4 a5 a6 a7 a8) := by
  unfold State.huskFail
  repeat' first
    | (extract_lets +onlyGivenNames x; ((refine Keeps.cut (P := Keeps s0 x) ?_ fun _ => ?_) <;> [(unfold x; rename' x => y); (try clear_value x; rename' x => y)]))
    | with_reducible refine State.regSat_keeps ?_
    | with_reducible refine State.setHull_keeps ?_
    | with_reducible refine State.log1_keeps ?_
    | with_reducible refine State.event_keeps ?_
    | with_reducible exact Keeps.put rfl rfl rfl rfl (by assumption)
    | split

/-- One landed block is applied. -/
theorem putLanded_keeps (h : Keeps s0 s) : Keeps s0 (State.putBlk s a1 a2 { husk := w, data := putBytes [] 0 l }) :=
  State.putBlk_keeps h fun _ => twf_putBytes _ _ (twf_nil 0)

theorem State.reject_keeps (h : Keeps s0 s) : Keeps s0 (State.reject s a2 a3 a4 a5) := by
  unfold State.reject
  extract_lets +onlyGivenNames x1
  exact State.log1_keeps (State.free_keeps h)

theorem State.pickFw_keeps (h : Keeps s0 s) : Keeps s0 (State.pickFw s) := by
  unfold State.pickFw
  refine .ite h ?_
  split
  · next j _ => exact .upd (s := s.setUnitB j { s.unitB j with state := 4 }) (State.setUnitB_keeps h) rfl
  · exact h

theorem State.mapOut_keeps (h : Keeps s0 s) : Keeps s0 (State.mapOut s a2 a3 a4 a5) := by
  have h1 : ∀ s : State, Keeps s0 s → Keeps s0 { s with mem := if unitTier a2 then { s.mem with usableB := s.mem.usableB - 1 }
      else { s.mem with usableA := s.mem.usableA - 1 } } := by
    intro s h
    refine .upd h ?_
    cases unitTier a2 <;> rfl
  have h2 : ∀ (s : State) (c : Prop) [Decidable c], Keeps s0 s → Keeps s0 (if c then s.pickFw else s) :=
    fun s c _ h => .ite (State.pickFw_keeps h) h
  have h3 : ∀ (s : State) a b c d, Keeps s0 s → Keeps s0 (if unitTier a2 then s else (s.setReg a b).setReg c d) :=
    fun s _ _ _ _ h => .ite h (State.setReg_keeps (State.setReg_keeps h))
  exact State.event_keeps (h2 _ _ (h3 _ _ _ _ _ (h1 _ (State.setUnit_keeps h))))

theorem State.drainAt_keeps (h : Keeps s0 s) : Keeps s0 (State.drainAt s a2 a3 a4) := by
  unfold State.drainAt
  repeat' first
    | with_reducible exact Keeps.put rfl rfl rfl rfl (by assumption)

theorem State.drainClear_keeps (h : Keeps s0 s) : Keeps s0 (State.drainClear s a2) := by
  unfold State.drainClear
  repeat' first
    | with_reducible assumption
    | with_reducible refine State.drainAt_keeps ?_
    | with_reducible refine Keeps.foldl ?_ fun _ _ _ => ?_

theorem State.ckptFail_keeps (h : Keeps s0 s) : Keeps s0 (State.ckptFail s a2 a3) := by
  unfold State.ckptFail
  repeat' first
    | with_reducible assumption
    | (extract_lets +onlyGivenNames x; ((refine Keeps.cut (P := Keeps s0 x) ?_ fun _ => ?_) <;> [(unfold x; rename' x => y); (try clear_value x; rename' x => y)]))
    | with_reducible refine State.setHull_keeps ?_
    | with_reducible refine State.log1_keeps ?_
    | with_reducible refine State.drainClear_keeps ?_

theorem State.setEng_keeps (h : Keeps s0 s) : Keeps s0 (State.setEng s a2 a3) := by
  unfold State.setEng
  exact .upd h (by simp only [State.keptPart])

theorem State.stopHull_keeps (h : Keeps s0 s) : Keeps s0 (State.stopHull s a2 a3 a4 a5) := by
  unfold State.stopHull
  repeat' first
    | (extract_lets +onlyGivenNames x; ((refine Keeps.cut (P := Keeps s0 x) ?_ fun _ => ?_) <;> [(unfold x; rename' x => y); (try clear_value x; rename' x => y)]))
    | (extract_lets +onlyGivenNames x; (try clear_value x); rename' x => y)
    | with_reducible refine State.setTile_keeps ?_
    | with_reducible refine State.setEng_keeps ?_
    | with_reducible refine State.setPod_keeps ?_
    | with_reducible refine State.setHull_keeps ?_
    | with_reducible refine State.ckptFail_keeps ?_
    | with_reducible refine State.reply_keeps ?_
    | with_reducible refine Keeps.foldl ?_ fun _ _ _ => ?_
    | with_reducible exact Keeps.put rfl rfl rfl rfl (by assumption)
    | split

theorem State.faultHull_keeps (h : Keeps s0 s) : Keeps s0 (State.faultHull s a2 a3) := by
  unfold State.faultHull
  exact State.raise_keeps (State.log1_keeps (State.stopHull_keeps h))

theorem State.mapOutFail_keeps (h : Keeps s0 s) : Keeps s0 (State.mapOutFail s a2 a3 a4) := by
  unfold State.mapOutFail
  repeat' first
    | with_reducible assumption
    | (extract_lets +onlyGivenNames x; ((refine Keeps.cut (P := Keeps s0 x) ?_ fun _ => ?_) <;> [(unfold x; rename' x => y); (try clear_value x; rename' x => y)]))
    | with_reducible refine State.setHull_keeps ?_
    | with_reducible refine State.setUnit_keeps ?_
    | with_reducible refine State.mapOut_keeps ?_
    | with_reducible refine State.event_keeps ?_
    | with_reducible refine State.faultHull_keeps ?_
    | with_reducible refine Keeps.foldl ?_ fun _ _ _ => ?_

theorem State.mapOutStart_keeps (h : Keeps s0 s) : Keeps s0 (State.mapOutStart s a2 a3 a4) := by
  unfold State.mapOutStart
  extract_lets +onlyGivenNames x1
  refine .ite h ?_
  refine .ite (State.mapOut_keeps h) ?_
  split
  · exact State.mapOutFail_keeps h
  · refine .ite (State.mapOutFail_keeps h) ?_
    extract_lets +onlyGivenNames s2
    have h2 : Keeps s0 s2 := State.setUnit_keeps h
    clear_value s2
    extract_lets +onlyGivenNames x3 x4 s5
    have h5 : Keeps s0 s5 := State.setUnit_keeps h2
    clear_value s5
    exact .upd h5 (by simp only [State.keptPart])

theorem State.mapOutTrigger_keeps (h : Keeps s0 s) : Keeps s0 (State.mapOutTrigger s a2 a3) := by
  unfold State.mapOutTrigger
  extract_lets +onlyGivenNames x1
  refine .ite h ?_
  refine .ite (State.setUnit_keeps h) ?_
  refine .ite ?_ (State.mapOutStart_keeps h)
  extract_lets +onlyGivenNames x2 x3
  exact .upd h (by simp only [State.keptPart])

theorem memRec_keeps (h : Keeps s0 s) : Keeps s0 (memRec s a2 a3 a4 a5 a6 a7) := by
  unfold memRec
  exact State.log1_keeps h

theorem State.memUncorr_keeps (h : Keeps s0 s) : Keeps s0 (State.memUncorr s a2 a3 a4) := by
  unfold State.memUncorr
  extract_lets +onlyGivenNames x1 x2 s3
  have h3 : Keeps s0 s3 := State.setUnit_keeps h
  clear_value s3
  extract_lets +onlyGivenNames x4 s5
  have h5 : Keeps s0 s5 := State.setHull_keeps h3
  clear_value s5
  extract_lets +onlyGivenNames s6
  have h6 : Keeps s0 s6 := memRec_keeps (State.event_keeps h5)
  clear_value s6
  exact .ite (State.mapOutTrigger_keeps h6) h6

theorem State.memCorrected_keeps (h : Keeps s0 s) : Keeps s0 (State.memCorrected s a2) := by
  unfold State.memCorrected
  extract_lets +onlyGivenNames x1
  exact State.setUnit_keeps h

theorem State.memRetries_keeps (h : Keeps s0 s) : Keeps s0 (State.memRetries s a2 a3 a4 a5) := by
  unfold State.memRetries
  extract_lets +onlyGivenNames x1 s2
  have h2 : Keeps s0 s2 := State.setUnit_keeps h
  clear_value s2
  refine .ite h2 ?_
  extract_lets +onlyGivenNames x3 x4 s5
  have h5 : Keeps s0 s5 := State.setUnit_keeps h2
  clear_value s5
  extract_lets +onlyGivenNames s6
  have h6 : Keeps s0 s6 := State.event_keeps h5
  clear_value s6
  extract_lets +onlyGivenNames s7
  have h7 : Keeps s0 s7 := .ite (State.mapOutTrigger_keeps h6) h6
  clear_value s7
  exact State.memUncorr_keeps h7

theorem State.memEcc_keeps (h : Keeps s0 s) : Keeps s0 (State.memEcc s a2 a3 a4 a5 a6).2 := by
  unfold State.memEcc
  extract_lets +onlyGivenNames s1
  have h1 : Keeps s0 s1 := .ite h (State.memRetries_keeps h)
  clear_value s1
  refine Keeps.iteP (P := fun x => Keeps s0 (Prod.snd x)) h1 ?_
  split
  · exact h1
  · exact State.memCorrected_keeps h1
  · exact State.memUncorr_keeps h1

theorem State.physReject_keeps (h : Keeps s0 s) : Keeps s0 (State.physReject s a2 a3 a4 a5 a6) := by
  unfold State.physReject
  repeat' first
    | with_reducible assumption
    | with_reducible refine State.log1_keeps ?_
    | with_reducible refine State.event_keeps ?_
    | with_reducible refine State.setReg_keeps ?_

theorem State.takeMeet_keeps (h : Keeps s0 s) : Keeps s0 (State.takeMeet s a2 a3).2.2 := by
  unfold State.takeMeet
  repeat' first
    | with_reducible exact Keeps.put rfl rfl rfl rfl (by assumption)
    | split

theorem State.holdAt_keeps (h : Keeps s0 s) : Keeps s0 (State.holdAt s a2) := by
  unfold State.holdAt
  repeat' first
    | with_reducible refine Keeps.ite ?_ ?_
    | with_reducible exact Keeps.put rfl rfl rfl rfl (by assumption)

theorem State.access_keeps (h : Keeps s0 s) : Keeps s0 (State.access s a2 a3 a4 a5 a6).2 := by
  unfold State.access
  repeat' first
    | with_reducible refine State.physReject_keeps ?_
    | with_reducible refine State.holdAt_keeps ?_
    | with_reducible refine State.takeMeet_keeps ?_
    | with_reducible refine State.memEcc_keeps ?_
    | with_reducible exact Keeps.put rfl rfl rfl rfl (by assumption)
    | split

theorem State.storeBlk_keeps (h : Keeps s0 s) (hw : s0.dramWf = true → ∀ b, twf 0 b.data = true → twf 0 (a7 b).data = true) :
    Keeps s0 (State.storeBlk s a2 a3 a4 a5 a6 a7) := by
  unfold State.storeBlk
  split
  · exact State.reject_keeps h
  · extract_lets key r
    have hr : Keeps s0 r.2 := State.access_keeps h
    clear_value r
    split
    · exact State.putBlk_keeps hr fun d => hw d _ (State.blk_wf (hr.dram d) _ _)
    · exact .upd hr rfl
    · exact hr

theorem State.applyObject_keeps (h : Keeps s0 s) : Keeps s0 (State.applyObject s a2 a3 a4 a5).1 := by
  unfold State.applyObject
  repeat' first
    | exact fun _ _ _ => twf_putBytes 0 _ (twf_nil 0)
    | (extract_lets +onlyGivenNames x; ((refine Keeps.cut (P := Keeps s0 x) ?_ fun _ => ?_) <;> [(unfold x; rename' x => y); (try clear_value x; rename' x => y)]))
    | with_reducible refine Keeps.foldl1 ?_ fun _ _ _ => ?_
    | with_reducible refine State.huskFail_keeps ?_
    | with_reducible refine State.storeBlk_keeps ?_ ?_
    | with_reducible exact Keeps.put rfl rfl rfl rfl (by assumption)
    | split

theorem State.applyObjects_keeps (h : Keeps s0 s) : Keeps s0 (State.applyObjects s a2 a3 a4 a5).1 := by
  unfold State.applyObjects
  refine .foldl1 h fun p o h => ?_
  split
  · exact State.applyObject_keeps h
  · exact h

theorem State.applyChain_keeps (h : Keeps s0 s) : Keeps s0 (State.applyChain s a2 a3 a4 a5).1 := by
  unfold State.applyChain
  extract_lets +onlyGivenNames x1
  exact Keeps.iteP (P := fun x => Keeps s0 (Prod.fst x)) (State.applyObjects_keeps (State.applyObjects_keeps h))
      (State.applyObjects_keeps h)

theorem State.faultLater_keeps (h : Keeps s0 s) : Keeps s0 (State.faultLater s a2 a3) := by
  unfold State.faultLater
  repeat' first
    | with_reducible exact Keeps.put rfl rfl rfl rfl (by assumption)

theorem State.arrayResidue_keeps (h : Keeps s0 s) : Keeps s0 (State.arrayResidue s a2 a3 a4 a5) := by
  unfold State.arrayResidue
  repeat' first
    | with_reducible assumption
    | (extract_lets +onlyGivenNames x; ((refine Keeps.cut (P := Keeps s0 x) ?_ fun _ => ?_) <;> [(unfold x; rename' x => y); (try clear_value x; rename' x => y)]))
    | (extract_lets +onlyGivenNames x; ((refine Keeps.cut (P := Keeps s0 x.2) ?_ fun _ => ?_) <;> [(unfold x; rename' x => y); (try clear_value x; rename' x => y)]))
    | with_reducible refine State.updTile_keeps ?_
    | with_reducible refine State.regSat_keeps ?_
    | with_reducible refine State.event_keeps ?_
    | with_reducible refine State.free_keeps ?_
    | with_reducible refine State.faultLater_keeps ?_

theorem State.offerPriv_keeps (h : Keeps s0 s) : Keeps s0 (State.offerPriv s a2) := by
  unfold State.offerPriv
  repeat' first
    | (extract_lets +onlyGivenNames x; (try clear_value x); rename' x => y)
    | with_reducible refine State.emit_keeps ?_
    | with_reducible refine State.event_keeps ?_
    | with_reducible refine State.regSat_keeps ?_
    | with_reducible exact Keeps.put rfl rfl rfl rfl (by assumption)
    | split

theorem State.takeE2e_keeps (h : Keeps s0 s) : Keeps s0 (State.takeE2e s a2 a3).2 := by
  unfold State.takeE2e
  extract_lets +onlyGivenNames x1 x2
  exact .upd h (by simp only [State.keptPart])

theorem State.sendPrivBody_keeps (h : Keeps s0 s) : Keeps s0 (State.sendPrivBody s a2 a3 a4) := by
  unfold State.sendPrivBody
  extract_lets +onlyGivenNames x1
  exact State.offerPriv_keeps (State.takeE2e_keeps h)

theorem State.sendPriv_keeps (h : Keeps s0 s) : Keeps s0 (State.sendPriv s a2 a3 a4 a5) := by
  unfold State.sendPriv
  exact State.sendPrivBody_keeps h

theorem State.askResend_keeps (h : Keeps s0 s) : Keeps s0 (State.askResend s a2) := by
  unfold State.askResend
  split
  · extract_lets +onlyGivenNames x1 x2 s3
    have h3 : Keeps s0 s3 := .ite h (State.sendPriv_keeps h)
    clear_value s3
    exact .foldl h3 fun _ _ h4 => (State.sendPriv_keeps h4)
  · exact h

theorem State.attGoWrite_keeps (h : Keeps s0 s) : Keeps s0 (State.attGoWrite s a2) := by
  unfold State.attGoWrite
  exact .ite (State.regOr_keeps h) (.upd h (by simp only [State.keptPart]))

theorem State.ausCount_keeps (h : Keeps s0 s) : Keeps s0 (State.ausCount s a2 a3 a4) := by
  unfold State.ausCount
  extract_lets +onlyGivenNames x1 x2 f3
  have h3 : ∀ y1, Keeps s0 y1 → ∀ y2, ∀ y3, Keeps s0 (f3 y1 y2 y3) := by
    intro _ h5 _ _
    unfold f3
    exact State.regOr_keeps (State.event_keeps h5)
  clear_value f3
  exact .ite (State.setEng_keeps h) (.ite (h3 _ (State.setEng_keeps h) _ _) (.ite (h3 _ (State.setEng_keeps h) _ _) (.ite (h3 _
      (State.setEng_keeps h) _ _) (State.setEng_keeps h))))

theorem State.ausWriteStart_keeps (h : Keeps s0 s) : Keeps s0 (State.ausWriteStart s a2 a3) := by
  unfold State.ausWriteStart
  repeat' first
    | with_reducible assumption
    | with_reducible refine State.setEng_keeps ?_

theorem State.ausFinish_keeps (h : Keeps s0 s) : Keeps s0 (State.ausFinish s a2 a3) := by
  unfold State.ausFinish
  repeat' first
    | with_reducible assumption
    | (extract_lets +onlyGivenNames x; ((refine Keeps.cut (P := Keeps s0 x) ?_ fun _ => ?_) <;> [(unfold x; rename' x => y); (try clear_value x; rename' x => y)]))
    | with_reducible refine State.setEng_keeps ?_
    | with_reducible refine State.ausCount_keeps ?_
    | with_reducible refine State.ausWriteStart_keeps ?_
    | with_reducible refine Keeps.ite ?_ ?_

theorem State.ausRefuse_keeps (h : Keeps s0 s) : Keeps s0 (State.ausRefuse s a2 a3) := by
  unfold State.ausRefuse
  exact State.ausFinish_keeps h

theorem State.ausSettle_keeps (h : Keeps s0 s) : Keeps s0 (State.ausSettle s a2) := by
  unfold State.ausSettle
  repeat' first
    | (extract_lets +onlyGivenNames x; (try clear_value x); rename' x => y)
    | with_reducible refine State.setEng_keeps ?_
    | with_reducible refine State.ausRefuse_keeps ?_
    | with_reducible exact Keeps.put rfl rfl rfl rfl (by assumption)
    | split

theorem State.ausStart_keeps (h : Keeps s0 s) : Keeps s0 (State.ausStart s a2) := by
  unfold State.ausStart
  repeat' first
    | with_reducible assumption
    | with_reducible refine State.ausSettle_keeps ?_
    | with_reducible refine Keeps.ite ?_ ?_

theorem State.auPut_keeps (h : Keeps s0 s) : Keeps s0 (State.auPut s a2 a3) := by
  unfold State.auPut
  repeat' first
    | with_reducible assumption
    | with_reducible refine State.ausStart_keeps ?_
    | with_reducible refine State.setEng_keeps ?_

theorem State.sawUnwritten_keeps (h : Keeps s0 s) : Keeps s0 (State.sawUnwritten s a2 a3 a4) := by
  unfold State.sawUnwritten
  extract_lets +onlyGivenNames x1
  refine .ite h ?_
  extract_lets +onlyGivenNames x2
  exact State.setHull_keeps h

theorem State.fetchBlk_keeps (h : Keeps s0 s) : Keeps s0 (State.fetchBlk s a2 a3 a4).1 := by
  unfold State.fetchBlk
  repeat' first
    | (extract_lets +onlyGivenNames x; ((refine Keeps.cut (P := Keeps s0 x.2) ?_ fun _ => ?_) <;> [(unfold x; rename' x => y); (try clear_value x; rename' x => y)]))
    | with_reducible refine State.reject_keeps ?_
    | with_reducible refine State.access_keeps ?_
    | with_reducible refine State.sawUnwritten_keeps ?_
    | with_reducible refine Keeps.ite ?_ ?_
    | with_reducible exact Keeps.put rfl rfl rfl rfl (by assumption)
    | split

theorem State.checkBlk_keeps (h : Keeps s0 s) : Keeps s0 (State.checkBlk s a2 a3 a4 a5).1 := by
  unfold State.checkBlk
  repeat' first
    | with_reducible refine Keeps.ofPair (by with_reducible assumption) ?_
    | with_reducible refine State.fetchBlk_keeps ?_
    | with_reducible exact Keeps.put rfl rfl rfl rfl (by assumption)
    | split

theorem State.windowRead_keeps (h : Keeps s0 s) : Keeps s0 (State.windowRead s a2 a3 a4 a5 a6).1 := by
  unfold State.windowRead
  repeat' first
    | with_reducible refine Keeps.ofPair (by with_reducible assumption) ?_
    | (extract_lets +onlyGivenNames x; ((refine Keeps.cut (P := Keeps s0 x.1) ?_ fun _ => ?_) <;> [(unfold x; rename' x => y); (try clear_value x; rename' x => y)]))
    | with_reducible refine Keeps.foldl1 ?_ fun _ _ _ => ?_
    | with_reducible refine State.checkBlk_keeps ?_
    | with_reducible refine State.huskFail_keeps ?_
    | with_reducible exact Keeps.put rfl rfl rfl rfl (by assumption)
    | split

theorem State.auDelta_keeps (h : Keeps s0 s) : Keeps s0 (State.auDelta s a2) := by
  unfold State.auDelta
  repeat' first
    | (extract_lets +onlyGivenNames x; ((refine Keeps.cut (P := Keeps s0 x) ?_ fun _ => ?_) <;> [(unfold x; rename' x => y); (try clear_value x; rename' x => y)]))
    | (extract_lets +onlyGivenNames x; ((refine Keeps.cut (P := Keeps s0 x.1) ?_ fun _ => ?_) <;> [(unfold x; rename' x => y); (try clear_value x; rename' x => y)]))
    | (extract_lets +onlyGivenNames x; ((refine Keeps.cut (P := ∀ y, Keeps s0 y → ∀ a0, ∀ a1, Keeps s0 (x y a0 a1)) ?_ fun g2 => ?_) <;> [(unfold x; rename' x => y); (try clear_value x; rename' x => y)]))
    | with_reducible refine State.reply_keeps ?_
    | with_reducible refine State.windowRead_keeps ?_
    | with_reducible refine State.auPut_keeps ?_
    | with_reducible refine Keeps.ite ?_ ?_
    | with_reducible exact Keeps.put rfl rfl rfl rfl (by assumption)
    | split

theorem State.auResult_keeps (h : Keeps s0 s) : Keeps s0 (State.auResult s a2) := by
  unfold State.auResult
  extract_lets +onlyGivenNames x1
  try clear_value x1
  extract_lets +onlyGivenNames x2
  try clear_value x2
  extract_lets +onlyGivenNames x3
  try clear_value x3
  extract_lets +onlyGivenNames x4
  try clear_value x4
  extract_lets +onlyGivenNames x5
  try clear_value x5
  extract_lets +onlyGivenNames x6
  try clear_value x6
  refine .ite (State.reply_keeps h) ?_
  split
  · exact State.reply_keeps h
  · split
    · exact State.reply_keeps h
    · exact State.reply_keeps h

theorem State.auSolve_keeps (h : Keeps s0 s) : Keeps s0 (State.auSolve s a2) := by
  unfold State.auSolve
  repeat' first
    | (extract_lets +onlyGivenNames x; ((refine Keeps.cut (P := Keeps s0 x) ?_ fun _ => ?_) <;> [(unfold x; rename' x => y); (try clear_value x; rename' x => y)]))
    | (extract_lets +onlyGivenNames x; ((refine Keeps.cut (P := Keeps s0 x.1) ?_ fun _ => ?_) <;> [(unfold x; rename' x => y); (try clear_value x; rename' x => y)]))
    | (extract_lets +onlyGivenNames x; ((refine Keeps.cut (P := ∀ y, Keeps s0 y → ∀ a0, ∀ a1, Keeps s0 (x y a0 a1)) ?_ fun g2 => ?_) <;> [(unfold x; rename' x => y); (try clear_value x; rename' x => y)]))
    | with_reducible refine State.reply_keeps ?_
    | with_reducible refine State.windowRead_keeps ?_
    | with_reducible refine State.setEng_keeps ?_
    | with_reducible refine State.auPut_keeps ?_
    | with_reducible refine Keeps.ite ?_ ?_
    | with_reducible exact Keeps.put rfl rfl rfl rfl (by assumption)
    | split

theorem State.auStructLoad_keeps (h : Keeps s0 s) : Keeps s0 (State.auStructLoad s a2) := by
  unfold State.auStructLoad
  repeat' first
    | (extract_lets +onlyGivenNames x; ((refine Keeps.cut (P := Keeps s0 x) ?_ fun _ => ?_) <;> [(unfold x; rename' x => y); (try clear_value x; rename' x => y)]))
    | (extract_lets +onlyGivenNames x; ((refine Keeps.cut (P := Keeps s0 x.1) ?_ fun _ => ?_) <;> [(unfold x; rename' x => y); (try clear_value x; rename' x => y)]))
    | (extract_lets +onlyGivenNames x; ((refine Keeps.cut (P := ∀ y, Keeps s0 y → ∀ a0, ∀ a1, Keeps s0 (x y a0 a1)) ?_ fun g2 => ?_) <;> [(unfold x; rename' x => y); (try clear_value x; rename' x => y)]))
    | with_reducible refine State.reply_keeps ?_
    | with_reducible refine State.windowRead_keeps ?_
    | with_reducible refine State.setEng_keeps ?_
    | with_reducible refine State.auPut_keeps ?_
    | with_reducible refine Keeps.ite ?_ ?_
    | with_reducible exact Keeps.put rfl rfl rfl rfl (by assumption)
    | split

theorem State.contract_keeps (h : Keeps s0 s) : Keeps s0 (State.contract s a2 a3 a4) := by
  unfold State.contract
  repeat' first
    | with_reducible assumption
    | (extract_lets +onlyGivenNames x; ((refine Keeps.cut (P := Keeps s0 x) ?_ fun _ => ?_) <;> [(unfold x; rename' x => y); (try clear_value x; rename' x => y)]))
    | with_reducible refine State.setTile_keeps ?_
    | with_reducible refine State.faultLater_keeps ?_

theorem State.ausAccept_keeps (h : Keeps s0 s) : Keeps s0 (State.ausAccept s a2 a3 a4) := by
  unfold State.ausAccept
  repeat' first
    | with_reducible assumption
    | with_reducible refine State.contract_keeps ?_
    | with_reducible refine State.ausStart_keeps ?_
    | with_reducible refine State.setEng_keeps ?_
    | with_reducible refine Keeps.ite ?_ ?_

theorem State.ausFault_keeps (h : Keeps s0 s) : Keeps s0 (State.ausFault s a2 a3 a4) := by
  unfold State.ausFault
  repeat' first
    | with_reducible assumption
    | (extract_lets +onlyGivenNames x; ((refine Keeps.cut (P := Keeps s0 x) ?_ fun _ => ?_) <;> [(unfold x; rename' x => y); (try clear_value x; rename' x => y)]))
    | (extract_lets +onlyGivenNames x; ((refine Keeps.cut (P := Keeps s0 x.2) ?_ fun _ => ?_) <;> [(unfold x; rename' x => y); (try clear_value x; rename' x => y)]))
    | with_reducible refine State.ausFinish_keeps ?_
    | with_reducible refine State.faultLater_keeps ?_
    | with_reducible refine State.log1_keeps ?_
    | with_reducible refine State.free_keeps ?_
    | with_reducible refine State.regSat_keeps ?_
    | with_reducible refine State.event_keeps ?_
    | with_reducible refine State.setHull_keeps ?_
    | with_reducible refine Keeps.ite ?_ ?_

theorem State.storeCe_keeps (h : Keeps s0 s) : Keeps s0 (State.storeCe s a2) := by
  unfold State.storeCe
  exact State.regSat_keeps h

theorem State.podUe_keeps (h : Keeps s0 s) : Keeps s0 (State.podUe s a2 a3) := by
  unfold State.podUe
  extract_lets +onlyGivenNames s1
  have h1 : Keeps s0 s1 := State.regSat_keeps h
  clear_value s1
  extract_lets +onlyGivenNames x2 x3
  exact State.faultHull_keeps (State.free_keeps h1)

theorem State.ausMeet_keeps (h : Keeps s0 s) (hf5 : ∀ y1, Keeps s0 y1 → Keeps s0 (f5 y1)) : Keeps s0 (State.ausMeet s a2 a3 a4 f5)
    := by
  unfold State.ausMeet
  repeat' first
    | with_reducible refine hf5 _ ?_
    | with_reducible refine State.ausFault_keeps ?_
    | with_reducible refine State.regSat_keeps ?_
    | with_reducible refine State.storeCe_keeps ?_
    | with_reducible refine State.podUe_keeps ?_
    | with_reducible exact Keeps.put rfl rfl rfl rfl (by assumption)
    | split

theorem State.ausOp_keeps (h : Keeps s0 s) : Keeps s0 (State.ausOp s a2 a3 a4 a5) := by
  unfold State.ausOp
  repeat' first
    | with_reducible refine State.ausRefuse_keeps ?_
    | with_reducible refine State.ausMeet_keeps ?_ (fun _ _ => ?_)
    | with_reducible refine State.ausFinish_keeps ?_
    | with_reducible refine State.setEng_keeps ?_
    | with_reducible exact Keeps.put rfl rfl rfl rfl (by assumption)
    | split

theorem State.ausReply_keeps (h : Keeps s0 s) : Keeps s0 (State.ausReply s a2 a3 a4) := by
  unfold State.ausReply
  refine .ite (State.reply_keeps h) ?_
  split
  · exact State.reply_keeps h
  · split
    · exact State.reply_keeps h
    · exact State.reply_keeps h
  · exact State.reply_keeps (State.setEng_keeps h)

theorem State.cmdCfgErr_keeps (h : Keeps s0 s) : Keeps s0 (State.cmdCfgErr s) := by
  unfold State.cmdCfgErr
  exact State.hevent_keeps h

theorem State.baseWrite_keeps (h : Keeps s0 s) : Keeps s0 (State.baseWrite s a2 a3 a4) := by
  unfold State.baseWrite
  extract_lets +onlyGivenNames x1 x2
  split
  · exact State.setRing_keeps h
  · exact State.cmdCfgErr_keeps h

theorem State.storeUe_keeps (h : Keeps s0 s) : Keeps s0 (State.storeUe s a2 a3) := by
  unfold State.storeUe
  repeat' first
    | with_reducible assumption
    | (extract_lets +onlyGivenNames x; ((refine Keeps.cut (P := Keeps s0 x) ?_ fun _ => ?_) <;> [(unfold x; rename' x => y); (try clear_value x; rename' x => y)]))
    | (extract_lets +onlyGivenNames x; ((refine Keeps.cut (P := Keeps s0 x.2) ?_ fun _ => ?_) <;> [(unfold x; rename' x => y); (try clear_value x; rename' x => y)]))
    | with_reducible refine State.setTile_keeps ?_
    | with_reducible refine State.regSat_keeps ?_
    | with_reducible refine State.free_keeps ?_
    | with_reducible refine State.faultLater_keeps ?_

theorem State.tsEcc_keeps (h : Keeps s0 s) (hf5 : (∀ y1, Keeps s0 y1 → Keeps s0 (f5 y1))) : Keeps s0 (State.tsEcc s a2 a3 a4 f5) :=
    by
  unfold State.tsEcc
  split
  · exact hf5 _ h
  · exact hf5 _ (State.storeCe_keeps h)
  · exact State.storeUe_keeps h

theorem State.tsAccess_keeps (h : Keeps s0 s) (hf6 : (∀ y1, Keeps s0 y1 → Keeps s0 (f6 y1))) : Keeps s0 (State.tsAccess s a2 a3 a4
    a5 f6) := by
  unfold State.tsAccess
  extract_lets +onlyGivenNames x1
  refine .ite (State.contract_keeps h) ?_
  split
  · exact State.contract_keeps h
  · exact hf6 _ (State.setTile_keeps h)

theorem State.xferBeat_keeps (h : Keeps s0 s) : Keeps s0 (State.xferBeat s a2) := by
  unfold State.xferBeat
  split
  · exact h
  · extract_lets +onlyGivenNames x1 x2
    exact State.tsAccess_keeps h (fun _ h3 => (.ite (State.tsEcc_keeps h3 (fun _ h4 => (State.updTile_keeps h4)))
        (State.updTile_keeps h3)))

theorem State.ldwBeat_keeps (h : Keeps s0 s) : Keeps s0 (State.ldwBeat s a2) := by
  unfold State.ldwBeat
  split
  · exact h
  · extract_lets +onlyGivenNames x1 x2
    exact State.tsAccess_keeps h (fun _ h3 => (State.tsEcc_keeps h3 (fun _ h4 => (State.updTile_keeps h4))))

theorem State.mmaBeat.mmaRowDone_keeps (h : Keeps s0 s) : Keeps s0 (State.mmaBeat.mmaRowDone a1 s a3 a4 a5 a6) := by
  unfold State.mmaBeat.mmaRowDone
  extract_lets +onlyGivenNames x1 x2 x3 x4 x5
  exact State.setPod_keeps (State.setTile_keeps h)

theorem State.charge_keeps (h : Keeps s0 s) (hf4 : (∀ y1, Keeps s0 y1 → Keeps s0 (f4 y1))) : Keeps s0 (State.charge s a2 a3 f4) :=
    by
  unfold State.charge
  extract_lets +onlyGivenNames x1 x2 x3
  refine .ite ?_ ?_
  · extract_lets +onlyGivenNames x4 s5
    have h5 : Keeps s0 s5 := State.raise_keeps (State.regOr_keeps h)
    clear_value s5
    extract_lets +onlyGivenNames s6
    have h6 : Keeps s0 s6 := .ite (State.setReg_keeps h5) h5
    clear_value s6
    exact State.contract_keeps h6
  · extract_lets +onlyGivenNames x4
    exact hf4 _ (State.setPod_keeps h)

theorem State.mmaBeat_keeps (h : Keeps s0 s) : Keeps s0 (State.mmaBeat s a2) := by
  unfold State.mmaBeat
  split
  · exact h
  · split
    · exact h
    · extract_lets +onlyGivenNames x1 x2
      refine State.charge_keeps h fun _ h3 => ?_
      refine State.tsAccess_keeps h3 fun _ h4 => ?_
      refine State.tsEcc_keeps h4 fun _ h5 => ?_
      split
      · exact .ite (State.arrayResidue_keeps h5) (State.mmaBeat.mmaRowDone_keeps h5)
      · exact State.mmaBeat.mmaRowDone_keeps h5

theorem State.shiftBeat_keeps (h : Keeps s0 s) : Keeps s0 (State.shiftBeat s a2) := by
  unfold State.shiftBeat
  exact State.updTile_keeps (State.mmaBeat_keeps (State.ldwBeat_keeps h))

theorem State.beat_keeps (h : Keeps s0 s) : Keeps s0 (State.beat s a2) := by
  unfold State.beat
  extract_lets +onlyGivenNames s1
  have h1 : Keeps s0 s1 := State.shiftBeat_keeps h
  clear_value s1
  exact .ite (State.xferBeat_keeps h1) h1

theorem State.enter_keeps (h : Keeps s0 s) : Keeps s0 (State.enter s a2) := by
  unfold State.enter
  extract_lets +onlyGivenNames x1
  exact .ite (State.updTile_keeps h) (State.tsAccess_keeps h (fun _ h2 => (State.updTile_keeps h2)))

theorem State.beginIssue_keeps (h : Keeps s0 s) : Keeps s0 (State.beginIssue s a2) := by
  unfold State.beginIssue
  repeat' first
    | with_reducible assumption
    | (extract_lets +onlyGivenNames x; ((refine Keeps.cut (P := Keeps s0 x) ?_ fun _ => ?_) <;> [(unfold x; rename' x => y); (try clear_value x; rename' x => y)]))
    | with_reducible refine State.enter_keeps ?_
    | with_reducible refine State.contract_keeps ?_
    | with_reducible refine State.setTile_keeps ?_
    | with_reducible refine Keeps.ite ?_ ?_

theorem State.begin__keeps (h : Keeps s0 s) : Keeps s0 (State.begin_ s a2 a3) := by
  unfold State.begin_
  split
  · extract_lets +onlyGivenNames x1
    split
    · exact .ite (State.setRing_keeps h) (State.setRing_keeps h)
    · exact .ite (State.setRing_keeps h) (State.setRing_keeps h)
    · exact h
  · extract_lets +onlyGivenNames x1
    exact State.setEndp_keeps h

theorem State.breakLease_keeps (h : Keeps s0 s) : Keeps s0 (State.breakLease s a2) := by
  unfold State.breakLease
  split
  · split
    · refine .ite ?_ h
      extract_lets +onlyGivenNames x1 s2
      have h2 : Keeps s0 s2 := .foldl (.upd h (by simp only [State.keptPart])) fun _ _ h4 => (State.answer_keeps h4)
      clear_value s2
      exact State.log1_keeps h2
    · exact h
  · exact h

theorem State.budgetRead_keeps (h : Keeps s0 s) : Keeps s0 (State.budgetRead s a2) := by
  unfold State.budgetRead
  exact .ite (State.reply_keeps h) (State.reply_keeps h)

theorem State.setBundle_keeps (h : Keeps s0 s) : Keeps s0 (State.setBundle s a2 a3) := by
  unfold State.setBundle
  exact .upd h (by simp only [State.keptPart])

theorem State.pumpClass_keeps (h : Keeps s0 s) : Keeps s0 (State.pumpClass a1 a2 a3 s) := by
  induction a3 generalizing s with
  | zero => exact h
  | succ n ih =>
    unfold State.pumpClass
    split
    · extract_lets x y s1 z s2
      have h1 : Keeps s0 s1 := State.setBundle_keeps h
      have h2 : Keeps s0 s2 := .ite (.upd h1 rfl) h1
      split
      · exact .ite (ih (State.emit_keeps h2)) h2
      · exact h2
    · exact h

theorem State.pump_keeps (h : Keeps s0 s) : Keeps s0 (State.pump s a2) := by
  unfold State.pump
  split
  · exact .foldl h fun _ _ h1 => (State.pumpClass_keeps h1)
  · exact h

theorem State.putOn_keeps (h : Keeps s0 s) : Keeps s0 (State.putOn s a2 a3) := by
  unfold State.putOn
  extract_lets +onlyGivenNames x1
  exact State.pump_keeps (State.setBundle_keeps h)

theorem State.sendMsg_keeps (h : Keeps s0 s) : Keeps s0 (State.sendMsg s a2) := by
  unfold State.sendMsg
  split
  · exact State.putOn_keeps h
  · exact .upd h (by simp only [State.keptPart])

theorem State.linkRec_keeps (h : Keeps s0 s) : Keeps s0 (State.linkRec s a2 a3 a4) := by
  unfold State.linkRec
  exact State.log1_keeps h

theorem State.leave_keeps (h : Keeps s0 s) : Keeps s0 (State.leave s a2 a3) := by
  unfold State.leave
  extract_lets +onlyGivenNames x1 x2 x3 x4 s5
  have h5 : Keeps s0 s5 := State.setBundle_keeps h
  clear_value s5
  extract_lets +onlyGivenNames s6
  have h6 : Keeps s0 s6 := .ite (State.linkRec_keeps h5) h5
  clear_value s6
  exact .foldl h6 fun _ _ h7 => (State.sendMsg_keeps h7)

theorem State.setDisable_keeps (h : Keeps s0 s) : Keeps s0 (State.setDisable s a2) := by
  unfold State.setDisable
  extract_lets +onlyGivenNames x1 s2
  have h2 : Keeps s0 s2 := by
    unfold s2
    exact .upd h (by simp only [State.keptPart])
  clear_value s2
  refine .foldl h2 fun _ _ h3 => ?_
  split
  · exact State.leave_keeps h3
  · exact State.leave_keeps h3
  · exact State.leave_keeps h3
  · exact State.leave_keeps h3
  · exact h3

theorem State.bypassed_keeps (h : Keeps s0 s) : Keeps s0 (State.bypassed s a2) := by
  unfold State.bypassed
  extract_lets +onlyGivenNames x1 s2
  have h2 : Keeps s0 s2 := State.event_keeps h
  clear_value s2
  exact State.log1_keeps h2

theorem State.bundleCmd_keeps (h : Keeps s0 s) : Keeps s0 (State.bundleCmd s a2 a3) := by
  unfold State.bundleCmd
  extract_lets +onlyGivenNames x1
  exact .ite (State.reply_keeps h) (.ite (State.reply_keeps h) (.ite (State.reply_keeps (State.bypassed_keeps
      (State.setDisable_keeps h))) (State.reply_keeps (State.setDisable_keeps h))))

theorem State.dropWork_keeps (h : Keeps s0 s) : Keeps s0 (State.dropWork s a2) := by
  unfold State.dropWork
  extract_lets +onlyGivenNames x1 s2
  have h2 : Keeps s0 s2 := State.setEng_keeps h
  clear_value s2
  refine .foldl h2 fun _ _ h3 => ?_
  split
  · exact State.reply_keeps h3
  · exact h3

theorem State.dropPods_keeps (h : Keeps s0 s) : Keeps s0 (State.dropPods s a2) := by
  unfold State.dropPods
  refine .foldl h fun _ _ h1 => ?_
  extract_lets +onlyGivenNames x2 s3
  have h3 : Keeps s0 s3 := State.setPod_keeps h1
  clear_value s3
  extract_lets +onlyGivenNames s4
  have h4 : Keeps s0 s4 := .foldl h3 fun _ _ h6 => (State.dropWork_keeps h6)
  clear_value s4
  exact .foldl h4 fun _ _ h5 => (State.updTile_keeps h5)

theorem State.bypassPod_keeps (h : Keeps s0 s) : Keeps s0 (State.bypassPod s a2) := by
  unfold State.bypassPod
  extract_lets +onlyGivenNames x1 s2
  have h2 : Keeps s0 s2 := by
    unfold s2
    refine .foldl h fun _ _ h4 => ?_
    extract_lets +onlyGivenNames x5
    exact .ite h4 (State.setHull_keeps h4)
  clear_value s2
  exact State.bypassed_keeps (State.setPod_keeps (.upd h2 (by simp only [State.keptPart])))

theorem State.enterTest_keeps (h : Keeps s0 s) : Keeps s0 (State.enterTest s a2) := by
  unfold State.enterTest
  refine .foldl h fun _ _ h1 => ?_
  refine .ite ?_ (State.bypassPod_keeps h1)
  extract_lets +onlyGivenNames x2 s3
  have h3 : Keeps s0 s3 := State.setPod_keeps h1
  clear_value s3
  exact .upd h3 (by simp only [State.keptPart])

theorem State.takePod_keeps (h : Keeps s0 s) : Keeps s0 (State.takePod s a2) := by
  unfold State.takePod
  extract_lets +onlyGivenNames x1
  exact .ite (State.enterTest_keeps h) (.ite (State.setPod_keeps h) (State.enterTest_keeps (State.dropPods_keeps h)))

theorem State.bypassCmd_keeps (h : Keeps s0 s) : Keeps s0 (State.bypassCmd s a2) := by
  unfold State.bypassCmd
  extract_lets +onlyGivenNames x1 x2
  exact .ite (State.reply_keeps h) (.ite (State.reply_keeps h) (.ite (State.reply_keeps h) (.ite (State.reply_keeps
      (State.bypassPod_keeps h)) (State.reply_keeps (State.takePod_keeps h)))))

theorem State.capReleaseCmd_keeps (h : Keeps s0 s) : Keeps s0 (State.capReleaseCmd s) := by
  unfold State.capReleaseCmd
  exact .ite h (.upd h (by simp only [State.keptPart]))

theorem State.capture_keeps (h : Keeps s0 s) : Keeps s0 (State.capture s) := by
  unfold State.capture
  split
  · exact .upd h (by simp only [State.keptPart])
  · exact h

theorem State.mark_keeps (h : Keeps s0 s) : Keeps s0 (State.mark s a2 a3 a4) := by
  unfold State.mark
  extract_lets +onlyGivenNames x1
  refine .ite h ?_
  extract_lets +onlyGivenNames x2
  exact .upd h (by simp only [State.keptPart])

theorem State.markInto_keeps (h : Keeps s0 s) : Keeps s0 (State.markInto s a2 a3 a4 a5) := by
  unfold State.markInto
  extract_lets +onlyGivenNames x1
  refine .foldl h fun _ _ h2 => ?_
  extract_lets +onlyGivenNames x3
  split
  · exact State.mark_keeps h2
  · exact h2

theorem State.ckptCut_keeps (h : Keeps s0 s) : Keeps s0 (State.ckptCut s a2 a3) := by
  unfold State.ckptCut
  repeat' first
    | (extract_lets +onlyGivenNames x; ((refine Keeps.cut (P := Keeps s0 x) ?_ fun _ => ?_) <;> [(unfold x; rename' x => y); (try clear_value x; rename' x => y)]))
    | (extract_lets +onlyGivenNames x; (try clear_value x); rename' x => y)
    | with_reducible refine State.ckptFail_keeps ?_
    | with_reducible refine State.markInto_keeps ?_
    | with_reducible refine State.setHull_keeps ?_
    | with_reducible refine Keeps.foldl ?_ fun _ _ _ => ?_
    | with_reducible exact Keeps.put rfl rfl rfl rfl (by assumption)
    | split

theorem State.ckptBegin_keeps (h : Keeps s0 s) : Keeps s0 (State.ckptBegin s a2) := by
  unfold State.ckptBegin
  repeat' first
    | with_reducible assumption
    | (extract_lets +onlyGivenNames x; ((refine Keeps.cut (P := Keeps s0 x) ?_ fun _ => ?_) <;> [(unfold x; rename' x => y); (try clear_value x; rename' x => y)]))
    | with_reducible refine State.reply_keeps ?_
    | with_reducible refine State.setHull_keeps ?_
    | with_reducible refine State.ckptCut_keeps ?_
    | with_reducible refine Keeps.ite ?_ ?_

theorem State.ckptDone_keeps (h : Keeps s0 s) : Keeps s0 (State.ckptDone s a2) := by
  unfold State.ckptDone
  extract_lets +onlyGivenNames x1 x2
  exact State.setHull_keeps h

theorem State.ckptReclaimed_keeps (h : Keeps s0 s) : Keeps s0 (State.ckptReclaimed s a2) := by
  unfold State.ckptReclaimed
  extract_lets +onlyGivenNames x1 x2
  split
  · exact .ite (State.ckptFail_keeps h) h
  · exact h

theorem State.ckptStatus_keeps (h : Keeps s0 s) : Keeps s0 (State.ckptStatus s a2) := by
  unfold State.ckptStatus
  extract_lets +onlyGivenNames x1 x2
  exact .ite (State.reply_keeps h) (.ite (State.reply_keeps h) (State.reply_keeps h))

theorem State.claim_keeps (h : Keeps s0 s) : Keeps s0 (State.claim s a2) := by
  unfold State.claim
  extract_lets +onlyGivenNames x1
  try clear_value x1
  extract_lets +onlyGivenNames x2
  try clear_value x2
  extract_lets +onlyGivenNames s3
  have h3 : Keeps s0 s3 := State.emit_keeps h
  clear_value s3
  extract_lets +onlyGivenNames x4 s5
  have h5 : Keeps s0 s5 := State.setCore_keeps h3
  clear_value s5
  try clear_value x4
  split
  · exact State.icLatch_keeps (State.setIrq_keeps h5)
  · exact State.icLatch_keeps h5

theorem State.claimEngines_keeps (h : Keeps s0 s) : Keeps s0 (State.claimEngines s a2 a3) := by
  unfold State.claimEngines
  refine .foldl h fun _ _ h1 => ?_
  extract_lets +onlyGivenNames x2
  exact State.setEng_keeps h1

theorem State.clearPod_keeps (h : Keeps s0 s) : Keeps s0 (State.clearPod s a2) := by
  unfold State.clearPod
  extract_lets -merge -useContext -underBinder +onlyGivenNames x1 s2
  have h2 : Keeps s0 s2 := State.setPod_keeps h
  clear_value s2
  try clear_value x1
  extract_lets -merge -useContext -underBinder +onlyGivenNames s3
  have h3 : Keeps s0 s3 := .foldl h2 fun _ _ h5 => (State.updTile_keeps h5)
  clear_value s3
  refine .foldl h3 fun _ _ h4 => ?_
  extract_lets -merge -useContext -underBinder +onlyGivenNames s5
  have h5 : Keeps s0 s5 := State.dropWork_keeps h4
  clear_value s5
  exact State.setEng_keeps h5

theorem State.clearPods_keeps (h : Keeps s0 s) : Keeps s0 (State.clearPods s) := by
  unfold State.clearPods
  refine .foldl h fun _ _ h1 => ?_
  refine .ite h1 ?_
  extract_lets +onlyGivenNames s2
  have h2 : Keeps s0 s2 := State.clearPod_keeps h1
  clear_value s2
  exact State.setPod_keeps h2

theorem State.clearView_keeps (h : Keeps s0 s) : Keeps s0 (State.clearView s a2 a3) := by
  unfold State.clearView
  extract_lets +onlyGivenNames x1 x2 x3 x4
  split
  · exact State.setPod_keeps h
  · exact State.setUnitA_keeps h
  · exact State.setUnitB_keeps h
  · exact .ite (.upd h (by simp only [State.keptPart])) h
  · exact State.setHull_keeps h
  · exact State.setEng_keeps h
  · exact State.setEng_keeps h
  · exact State.setBundle_keeps h
  · exact .ite h (State.setGroup_keeps h)
  · exact State.setRing_keeps h
  · exact State.setEndp_keeps h
  · exact h

theorem State.coldState_keeps (h : Keeps s0 s) : Keeps s0 (State.coldState s) := by
  refine h.trans ⟨rfl, rfl, ?_, fun _ => Nat.le_refl _, ?_⟩
  · intro _ k e he; cases he
  · intro d
    simp only [State.dramWf, Bool.and_eq_true] at d
    show (true && true && twf 0 s.host) = true
    rw [d.2]; rfl

theorem State.collCfgWrite_keeps (h : Keeps s0 s) : Keeps s0 (State.collCfgWrite s a2) := by
  unfold State.collCfgWrite
  extract_lets +onlyGivenNames x1 x2
  exact .ite (State.setReg_keeps h) (State.event_keeps h)

theorem State.listDeferredIn_keeps (h : Keeps s0 s) : Keeps s0 (State.listDeferredIn s a2 a3) := by
  unfold State.listDeferredIn
  split
  · exact .foldl h fun _ _ h1 => (.ite h1 (State.addEntry_keeps h1))
  · exact h

theorem State.signalCounter_keeps (h : Keeps s0 s) : Keeps s0 (State.signalCounter s a2).1 := by
  unfold State.signalCounter
  split
  · refine Keeps.iteP (P := fun x => Keeps s0 (Prod.fst x)) h ?_
    extract_lets +onlyGivenNames x1 x2
    exact .foldl (.upd h (by simp only [State.keptPart])) fun _ _ h3 => (State.answer_keeps h3)
  · exact h

theorem State.collDone_keeps (h : Keeps s0 s) : Keeps s0 (State.collDone s a2) := by
  unfold State.collDone
  extract_lets +onlyGivenNames s1
  have h1 : Keeps s0 s1 := State.signalCounter_keeps h
  clear_value s1
  extract_lets +onlyGivenNames x2
  exact State.setGroup_keeps h1

theorem State.send_keeps (h : Keeps s0 s) : Keeps s0 (State.send s a2 a3 a4 a5 a6) := by
  unfold State.send
  extract_lets +onlyGivenNames x1 x2
  refine .ite h ?_
  extract_lets +onlyGivenNames x3 x4 s5
  have h5 : Keeps s0 s5 := State.takeE2e_keeps h
  clear_value s5
  extract_lets +onlyGivenNames x6
  exact State.sendMsg_keeps (State.setHull_keeps h5)

theorem State.collSend_keeps (h : Keeps s0 s) : Keeps s0 (State.collSend s a2 a3 a4 a5 a6 a7) := by
  unfold State.collSend
  extract_lets +onlyGivenNames x1 x2
  split
  · exact State.send_keeps h
  · refine .foldl h fun _ _ h3 => ?_
    extract_lets +onlyGivenNames x4 x5
    exact State.send_keeps h3

theorem State.sendOnce_keeps (h : Keeps s0 s) : Keeps s0 (State.sendOnce s a2 a3 a4 a5 a6 a7) := by
  unfold State.sendOnce
  extract_lets +onlyGivenNames x1
  exact .ite h (State.collSend_keeps (State.setRun_keeps h))

theorem readBlocks_keeps (h : Keeps s0 o.st) : Keeps s0 (readBlocks a1 a2 a3 a4 l o).st := by
  induction l generalizing o with
  | nil => exact h
  | cons i r ih =>
    unfold readBlocks
    split
    · exact h
    · split
      · next e => exact ih (Keeps.ofPair e (State.checkBlk_keeps h))
      · next e => exact Keeps.ofPair e (State.checkBlk_keeps h)

theorem State.readRange_keeps (h : Keeps s0 s) : Keeps s0 (State.readRange s a2 a3 a4 a5 a6 a7).st := by
  unfold State.readRange
  exact readBlocks_keeps h

theorem State.collRead_keeps (h : Keeps s0 s) : Keeps s0 (State.collRead s a2 a3 a4 a5 a6).st := by
  unfold State.collRead
  split
  · exact State.readRange_keeps h
  · exact h

theorem State.huskStop_keeps (h : Keeps s0 s) : Keeps s0 (State.huskStop s a2 a3 a4 a5 a6 a7 a8) := by
  unfold State.huskStop
  exact State.raise_keeps (State.stopHull_keeps (State.huskFail_keeps h))

theorem State.collTake_keeps (h : Keeps s0 s) : Keeps s0 (State.collTake s a2 a3 a4 a5 a6).1 := by
  unfold State.collTake
  repeat' first
    | (extract_lets +onlyGivenNames x; ((refine Keeps.cut (P := Keeps s0 x.1) ?_ fun _ => ?_) <;> [(unfold x; rename' x => y); (try clear_value x; rename' x => y)]))
    | with_reducible refine State.collRead_keeps ?_
    | with_reducible refine State.huskStop_keeps ?_
    | with_reducible exact Keeps.put rfl rfl rfl rfl (by assumption)
    | split

theorem State.heldPiece_keeps (h : Keeps s0 s) : Keeps s0 (State.heldPiece s a2 a3).1 := by
  unfold State.heldPiece
  repeat' first
    | (extract_lets +onlyGivenNames x; ((refine Keeps.cut (P := Keeps s0 x.1) ?_ fun _ => ?_) <;> [(unfold x; rename' x => y); (try clear_value x; rename' x => y)]))
    | with_reducible refine State.collTake_keeps ?_
    | with_reducible exact Keeps.put rfl rfl rfl rfl (by assumption)
    | split

theorem State.sendHeld_keeps (h : Keeps s0 s) : Keeps s0 (State.sendHeld s a2 a3 a4 a5) := by
  unfold State.sendHeld
  repeat' first
    | with_reducible refine Keeps.ofPair (by with_reducible assumption) ?_
    | with_reducible refine State.heldPiece_keeps ?_
    | with_reducible refine State.sendOnce_keeps ?_
    | with_reducible exact Keeps.put rfl rfl rfl rfl (by assumption)
    | split

theorem State.heirSends_keeps (h : Keeps s0 s) : Keeps s0 (State.heirSends s a2) := by
  unfold State.heirSends
  repeat' first
    | with_reducible assumption
    | with_reducible refine State.sendHeld_keeps ?_
    | with_reducible refine Keeps.ite ?_ ?_
    | with_reducible refine Keeps.foldl ?_ fun _ _ _ => ?_

theorem State.collComplete_keeps (h : Keeps s0 s) : Keeps s0 (State.collComplete s a2) := by
  unfold State.collComplete
  repeat' first
    | with_reducible assumption
    | with_reducible refine State.heirSends_keeps ?_
    | with_reducible refine State.collDone_keeps ?_
    | with_reducible refine State.setRun_keeps ?_
    | with_reducible refine State.listDeferredIn_keeps ?_
    | with_reducible refine Keeps.ite ?_ ?_

theorem State.collRec_keeps (h : Keeps s0 s) : Keeps s0 (State.collRec s a2 a3 a4 a5 a6 a7) := by
  unfold State.collRec
  exact State.log1_keeps h

theorem merged_wf {b : Blk} (h : twf 0 b.data = true) : twf 0 (b.merged a2 a3 a4).data = true := twf_putBytes _ _ h

theorem State.writePart_keeps (h : Keeps s0 s) : Keeps s0 (State.writePart s a2 a3 a4 a5 a6 a7) :=
  State.storeBlk_keeps h fun _ _ hb => merged_wf hb

theorem State.writeRange_keeps (h : Keeps s0 s) : Keeps s0 (State.writeRange s a2 a3 a4 a5 a6 a7) := by
  unfold State.writeRange
  refine .foldl h fun _ _ h1 => ?_
  extract_lets +onlyGivenNames x2 x3
  exact State.writePart_keeps h1

theorem State.stopIfLost_keeps (h : Keeps s0 s) : Keeps s0 (State.stopIfLost s a2 a3 a4) := by
  unfold State.stopIfLost
  repeat' first
    | with_reducible refine State.huskStop_keeps ?_
    | with_reducible refine Keeps.ite ?_ ?_
    | with_reducible exact Keeps.put rfl rfl rfl rfl (by assumption)

theorem State.collWrite_keeps (h : Keeps s0 s) : Keeps s0 (State.collWrite s a2 a3 a4 a5) := by
  unfold State.collWrite
  repeat' first
    | with_reducible refine State.stopIfLost_keeps ?_
    | with_reducible refine State.writeRange_keeps ?_
    | with_reducible exact Keeps.put rfl rfl rfl rfl (by assumption)
    | split

theorem State.forLive_keeps (h : Keeps s0 s) (hf3 : (∀ y1, Keeps s0 y1 → ∀ y2, Keeps s0 (f3 y1 y2))) : Keeps s0 (State.forLive s a2
    f3) := by
  unfold State.forLive
  exact .foldl h fun _ _ h1 => (.ite (hf3 _ h1 _) h1)

theorem State.collision_keeps (h : Keeps s0 s) : Keeps s0 (State.collision s a2) := by
  unfold State.collision
  repeat' first
    | with_reducible refine State.contract_keeps ?_
    | with_reducible refine State.updTile_keeps ?_
    | with_reducible refine Keeps.foldl ?_ fun _ _ _ => ?_
    | with_reducible exact Keeps.put rfl rfl rfl rfl (by assumption)
    | split

theorem State.complete_keeps (h : Keeps s0 s) : Keeps s0 (State.complete s a2 a3) := by
  unfold State.complete
  extract_lets +onlyGivenNames x1 x2 x3 s4
  have h4 : Keeps s0 s4 := State.setCore_keeps h
  clear_value s4
  refine .ite h4 ?_
  refine .ite ?_ (State.setCore_keeps h4)
  extract_lets +onlyGivenNames x5
  exact State.icLatch_keeps (State.setIrq_keeps h4)

theorem State.consume_keeps (h : Keeps s0 s) : Keeps s0 (State.consume s a2) := by
  unfold State.consume
  exact .upd h (by simp only [State.keptPart])

theorem State.hostWrite_keeps (h : Keeps s0 s) : Keeps s0 (State.hostWrite s a2 a3) := by
  unfold State.hostWrite
  exact .hostUpd h rfl (by simp only [State.keptNoHost])

theorem State.copyBlock_keeps (h : Keeps s0 s) : Keeps s0 (State.copyBlock s a2 a3 a4 a5 a6 a7 a8).1 := by
  unfold State.copyBlock
  repeat' first
    | (extract_lets +onlyGivenNames x; ((refine Keeps.cut (P := Keeps s0 x.1) ?_ fun _ => ?_) <;> [(unfold x; rename' x => y); (try clear_value x; rename' x => y)]))
    | with_reducible refine State.readRange_keeps ?_
    | with_reducible refine State.hostWrite_keeps ?_
    | with_reducible refine State.writeRange_keeps ?_
    | with_reducible exact Keeps.put rfl rfl rfl rfl (by assumption)
    | split

theorem State.copyBlocks_keeps (h : Keeps s0 s) : Keeps s0 (State.copyBlocks a1 a2 a3 a4 a5 a6 a7 a8 s).1 := by
  induction a7 generalizing s a8 with
  | zero => exact h
  | succ n ih =>
    have hc : Keeps s0 (s.copyBlock a1 a2 a3 a4 a5 a6 a8).1 := State.copyBlock_keeps h
    unfold State.copyBlocks
    split
    · next e => rw [e] at hc; exact ih hc
    · next e => rw [e] at hc; exact hc

theorem State.haltDone_keeps (h : Keeps s0 s) : Keeps s0 (State.haltDone s a2 a3) := by
  unfold State.haltDone
  exact State.reply_keeps (State.event_keeps h)

theorem State.coreHaltCmd_keeps (h : Keeps s0 s) : Keeps s0 (State.coreHaltCmd s a2 a3) := by
  unfold State.coreHaltCmd
  extract_lets +onlyGivenNames x1 x2 x3 x4 x5
  refine .ite (State.reply_keeps h) ?_
  refine .ite (State.reply_keeps h) ?_
  refine .ite (State.reply_keeps h) ?_
  refine .ite (State.haltDone_keeps (State.setCore_keeps (.upd h (by simp only [State.keptPart])))) ?_
  extract_lets +onlyGivenNames s6
  have h6 : Keeps s0 s6 := .foldl h fun _ _ h8 => (State.breakLease_keeps h8)
  clear_value s6
  extract_lets +onlyGivenNames s7
  have h7 : Keeps s0 s7 := .ite h6 (State.event_keeps h6)
  clear_value s7
  exact State.haltDone_keeps (State.setCore_keeps h7)

theorem State.countReset_keeps (h : Keeps s0 s) : Keeps s0 (State.countReset s) := by
  unfold State.countReset
  exact .upd h (by simp only [State.keptPart])

theorem State.createSync_keeps (h : Keeps s0 s) : Keeps s0 (State.createSync s a2 a3) := by
  unfold State.createSync
  extract_lets +onlyGivenNames s1
  have h1 : Keeps s0 s1 := by
    unfold s1
    exact .upd h (by simp only [State.keptPart])
  clear_value s1
  refine .foldl h1 fun _ _ h2 => ?_
  extract_lets +onlyGivenNames x3
  exact .upd h2 (by simp only [State.keptPart])

theorem State.ctailWrite_keeps (h : Keeps s0 s) : Keeps s0 (State.ctailWrite s a2 a3) := by
  unfold State.ctailWrite
  extract_lets +onlyGivenNames x1 s2
  have h2 : Keeps s0 s2 := State.signal_keeps (State.setRing_keeps h)
  clear_value s2
  exact .ite (State.ringFault_keeps h2) h2

theorem State.meeting_keeps (h : Keeps s0 s) (hf3 : ∀ y1, Keeps s0 y1 → Keeps s0 (f3 y1)) : Keeps s0 (State.meeting s a2 f3) := by
  unfold State.meeting
  repeat' first
    | with_reducible refine hf3 _ ?_
    | (extract_lets +onlyGivenNames x; ((refine Keeps.cut (P := Keeps s0 x) ?_ fun _ => ?_) <;> [(unfold x; rename' x => y); (try clear_value x; rename' x => y)]))
    | (extract_lets +onlyGivenNames x; let z : MemS := x; clear z; rename' x => y)
    | with_reducible refine Keeps.ite ?_ ?_
    | with_reducible exact Keeps.put rfl rfl rfl rfl (by assumption)

theorem State.packet_keeps (h : Keeps s0 s) (hf4 : ∀ y1, Keeps s0 y1 → Keeps s0 (f4 y1)) : Keeps s0 (State.packet s a2 a3 f4) := by
  unfold State.packet
  repeat' first
    | with_reducible refine hf4 _ ?_
    | (extract_lets +onlyGivenNames x; ((refine Keeps.cut (P := Keeps s0 x) ?_ fun _ => ?_) <;> [(unfold x; rename' x => y); (try clear_value x; rename' x => y)]))
    | with_reducible refine State.meeting_keeps ?_ (fun _ _ => ?_)
    | with_reducible refine State.begin__keeps ?_
    | with_reducible refine State.reply_keeps ?_
    | with_reducible exact Keeps.put rfl rfl rfl rfl (by assumption)
    | split

theorem State.powerDone_keeps (h : Keeps s0 s) : Keeps s0 (State.powerDone s a2 a3) := by
  unfold State.powerDone
  exact State.reply_keeps h

theorem State.deviceStandby_keeps (h : Keeps s0 s) : Keeps s0 (State.deviceStandby s a2) := by
  unfold State.deviceStandby
  refine .ite (State.reply_keeps h) ?_
  refine .ite (State.reply_keeps h) ?_
  refine .ite (State.reply_keeps h) ?_
  extract_lets +onlyGivenNames s1
  have h1 : Keeps s0 s1 := by
    unfold s1
    refine .foldl h fun _ _ h3 => ?_
    extract_lets +onlyGivenNames x4
    exact .ite h3 (State.setPod_keeps h3)
  clear_value s1
  exact State.powerDone_keeps (.upd h1 (by simp only [State.keptPart]))

theorem State.deviceActive_keeps (h : Keeps s0 s) : Keeps s0 (State.deviceActive s a2) := by
  unfold State.deviceActive
  refine .ite (State.reply_keeps h) ?_
  refine .ite (State.reply_keeps h) ?_
  refine .ite (State.reply_keeps h) ?_
  extract_lets +onlyGivenNames s1
  have h1 : Keeps s0 s1 := by
    unfold s1
    refine .foldl h fun _ _ h3 => ?_
    extract_lets +onlyGivenNames x4
    refine .ite h3 ?_
    extract_lets +onlyGivenNames s5
    have h5 : Keeps s0 s5 := State.clearPod_keeps h3
    clear_value s5
    exact State.setPod_keeps h5
  clear_value s1
  exact State.powerDone_keeps (.upd h1 (by simp only [State.keptPart]))

theorem State.startWake_keeps (h : Keeps s0 s) : Keeps s0 (State.startWake s a2 a3) := by
  unfold State.startWake
  exact State.setPod_keeps h

theorem State.podWake_keeps (h : Keeps s0 s) : Keeps s0 (State.podWake s a2) := by
  unfold State.podWake
  extract_lets +onlyGivenNames x1 x2
  exact .ite (State.reply_keeps h) (.ite (State.reply_keeps h) (.ite (State.reply_keeps h) (State.startWake_keeps
      (State.setPod_keeps h))))

theorem State.podSleep_keeps (h : Keeps s0 s) : Keeps s0 (State.podSleep s a2) := by
  unfold State.podSleep
  extract_lets +onlyGivenNames x1 x2 x3 x4
  refine .ite (State.reply_keeps h) ?_
  refine .ite (State.reply_keeps h) ?_
  refine .ite (State.reply_keeps h) ?_
  extract_lets +onlyGivenNames s5
  have h5 : Keeps s0 s5 := State.setPod_keeps h
  clear_value s5
  exact .ite (State.abortSleep_keeps h5) h5

theorem State.hullHaltCmd_keeps (h : Keeps s0 s) : Keeps s0 (State.hullHaltCmd s a2 a3) := by
  unfold State.hullHaltCmd
  extract_lets +onlyGivenNames x1 x2
  exact .ite (State.reply_keeps h) (.ite (State.reply_keeps h) (.ite (State.reply_keeps h) (State.haltDone_keeps
      (State.setHull_keeps h))))

theorem State.dbgPeek_keeps (h : Keeps s0 s) : Keeps s0 (State.dbgPeek s a2) := by
  unfold State.dbgPeek
  extract_lets +onlyGivenNames x1
  refine .ite (State.reply_keeps h) ?_
  refine .ite (State.reply_keeps h) ?_
  refine .ite (State.reply_keeps h) ?_
  extract_lets +onlyGivenNames x2 s3
  have h3 : Keeps s0 s3 := by
    unfold s3
    exact .upd h (by simp only [State.keptPart])
  clear_value s3
  extract_lets +onlyGivenNames x4 s5
  have h5 : Keeps s0 s5 := by
    unfold s5
    exact .ite h3 (State.hostWrite_keeps h3)
  clear_value s5
  exact State.reply_keeps h5

theorem State.freshNonce_keeps (h : Keeps s0 s) : Keeps s0 (State.freshNonce s) := by
  unfold State.freshNonce
  exact .upd (State.free_keeps h) rfl

theorem State.vendorEnd_keeps (h : Keeps s0 s) : Keeps s0 (State.vendorEnd s a2) := by
  unfold State.vendorEnd
  refine .ite ?_ (.ite (State.event_keeps (State.setHull_keeps h)) h)
  refine .ite ?_ h
  extract_lets +onlyGivenNames s1
  have h1 : Keeps s0 s1 := .foldl h fun _ _ h3 => (State.setCore_keeps h3)
  clear_value s1
  exact State.event_keeps (.upd h1 (by simp only [State.keptPart]))

theorem State.setClass_keeps (h : Keeps s0 s) : Keeps s0 (State.setClass s a2 a3 a4) := by
  unfold State.setClass
  extract_lets +onlyGivenNames s1
  have h1 : Keeps s0 s1 := .ite (State.vendorEnd_keeps h) h
  clear_value s1
  extract_lets +onlyGivenNames x2 x3 s4
  have h4 : Keeps s0 s4 := .ite (.upd h1 (by simp only [State.keptPart]; rfl)) (State.setHull_keeps h1)
  clear_value s4
  extract_lets +onlyGivenNames s5
  have h5 : Keeps s0 s5 := .ite (State.freshNonce_keeps h4) h4
  clear_value s5
  exact State.event_keeps h5

theorem State.dbgAttach_keeps (h : Keeps s0 s) : Keeps s0 (State.dbgAttach s a2) := by
  unfold State.dbgAttach
  extract_lets +onlyGivenNames x1 x2 x3
  refine .ite (State.reply_keeps h) ?_
  refine .ite (State.reply_keeps h) ?_
  refine .ite (State.reply_keeps h) ?_
  extract_lets +onlyGivenNames x4
  refine .ite (State.reply_keeps (State.event_keeps h)) ?_
  extract_lets +onlyGivenNames s5
  have h5 : Keeps s0 s5 := State.setClass_keeps h
  clear_value s5
  exact State.reply_keeps h5

theorem State.errLogRead_keeps (h : Keeps s0 s) : Keeps s0 (State.errLogRead s a2) := by
  unfold State.errLogRead
  extract_lets +onlyGivenNames x1 x2 x3
  refine .ite (State.reply_keeps h) ?_
  extract_lets +onlyGivenNames x4 x5 x6 x7 x8 s9
  have h9 : Keeps s0 s9 := State.hostWrite_keeps h
  clear_value s9
  extract_lets +onlyGivenNames s10
  have h10 : Keeps s0 s10 := State.consume_keeps h9
  clear_value s10
  exact State.reply_keeps h10

theorem State.testContentLoad_keeps (h : Keeps s0 s) : Keeps s0 (State.testContentLoad s a2) := by
  unfold State.testContentLoad
  extract_lets slot src n head kind ver body e
  refine .ite (State.reply_keeps h) (.ite (State.reply_keeps h) (.ite (State.reply_keeps h) ?_))
  refine .ite (State.reply_keeps h) (State.reply_keeps (h.trans ⟨rfl, rfl, ?_, ?_, fun d => d⟩))
  · intro c k x hx
    have hm : ∀ j, tget 0 s.maxVersion j ≤ tget 0 (tput s.maxVersion kind (max ver (tget 0 s.maxVersion kind))) j := by
      intro j
      rw [tget_tput]
      split
      · next hj => subst hj; exact Nat.le_max_right _ _
      · exact Nat.le_refl _
    rw [tfind_tput] at hx
    split at hx
    · cases hx
      show ver ≤ tget 0 (tput s.maxVersion kind (max ver (tget 0 s.maxVersion kind))) kind
      rw [tget_tput_same]; exact Nat.le_max_left _ _
    · exact (c k x hx).trans (hm _)
  · intro j
    show tget 0 s.maxVersion j ≤ tget 0 (tput s.maxVersion kind (max ver (tget 0 s.maxVersion kind))) j
    rw [tget_tput]
    split
    · next hj => subst hj; exact Nat.le_max_right _ _
    · exact Nat.le_refl _

theorem State.wakeFor_keeps (h : Keeps s0 s) : Keeps s0 (State.wakeFor s a2 a3 a4 a5).1 := by
  unfold State.wakeFor
  extract_lets +onlyGivenNames s1
  have h1 : Keeps s0 s1 := .foldl h fun _ _ h3 => (.ite (State.abortSleep_keeps h3) h3)
  clear_value s1
  split
  · exact h1
  · extract_lets +onlyGivenNames s2
    have h2 : Keeps s0 s2 := .foldl h1 fun _ _ h4 => (.ite (State.startWake_keeps h4) h4)
    clear_value s2
    exact State.setPod_keeps h2

theorem State.probePod_keeps (h : Keeps s0 s) : Keeps s0 (State.probePod s a2) := by
  unfold State.probePod
  extract_lets +onlyGivenNames x1 x2
  split
  · exact State.reply_keeps h
  · refine .ite (State.reply_keeps h) ?_
    refine .ite (State.reply_keeps h) ?_
    refine .ite (State.reply_keeps h) ?_
    refine .ite (State.reply_keeps h) ?_
    extract_lets +onlyGivenNames x3
    refine .ite (State.reply_keeps h) ?_
    extract_lets +onlyGivenNames x4
    refine .ite (State.wakeFor_keeps h) ?_
    extract_lets +onlyGivenNames s5
    have h5 : Keeps s0 s5 := State.wakeFor_keeps h
    clear_value s5
    extract_lets +onlyGivenNames x6
    exact State.reply_keeps (State.takePod_keeps (.upd h5 (by simp only [State.keptPart])))

theorem State.mapoutCmd_keeps (h : Keeps s0 s) : Keeps s0 (State.mapoutCmd s a2) := by
  unfold State.mapoutCmd
  extract_lets +onlyGivenNames x1 x2
  exact .ite (State.reply_keeps h) (.ite (State.reply_keeps h) (.ite (State.reply_keeps h) (State.reply_keeps
      (State.mapOutTrigger_keeps h))))

theorem State.releaseCmd_keeps (h : Keeps s0 s) : Keeps s0 (State.releaseCmd s a2) := by
  unfold State.releaseCmd
  extract_lets +onlyGivenNames x1
  refine .ite (State.reply_keeps h) ?_
  refine .ite (State.reply_keeps h) ?_
  refine .ite (State.reply_keeps h) ?_
  extract_lets +onlyGivenNames s2
  have h2 : Keeps s0 s2 := by
    unfold s2
    exact .upd h (by simp only [State.keptPart])
  clear_value s2
  exact State.reply_keeps (State.setPod_keeps h2)

theorem State.probeNmu_keeps (h : Keeps s0 s) : Keeps s0 (State.probeNmu s a2) := by
  unfold State.probeNmu
  split
  · exact State.reply_keeps h
  · refine .ite (State.reply_keeps h) ?_
    refine .ite (State.reply_keeps h) ?_
    refine .ite (State.reply_keeps h) ?_
    extract_lets +onlyGivenNames x1
    exact State.reply_keeps (.upd h (by simp only [State.keptPart]))

theorem State.winWrite_keeps (h : Keeps s0 s) : Keeps s0 (State.winWrite s a2 a3 a4 a5) := by
  unfold State.winWrite
  refine .foldl h fun _ _ h1 => ?_
  extract_lets +onlyGivenNames x2 x3
  exact State.writePart_keeps h1

theorem State.readCut_keeps (h : Keeps s0 s) : Keeps s0 (State.readCut s a2 a3 a4 a5 a6).1 := by
  unfold State.readCut
  repeat' first
    | (extract_lets +onlyGivenNames x; ((refine Keeps.cut (P := Keeps s0 x.2) ?_ fun _ => ?_) <;> [(unfold x; rename' x => y); (try clear_value x; rename' x => y)]))
    | (extract_lets +onlyGivenNames x; (try clear_value x); rename' x => y)
    | with_reducible refine State.access_keeps ?_
    | with_reducible refine State.sawUnwritten_keeps ?_
    | with_reducible exact Keeps.put rfl rfl rfl rfl (by assumption)
    | split

theorem State.exportBlock_keeps (h : Keeps s0 s) : ∀ t r, State.exportBlock s a2 a3 a4 a5 a6 = some (t, r) → Keeps s0 t := by
  intro t r e
  unfold State.exportBlock at e
  split at e
  · split at e
    · exact Keeps.ofPair (Option.some.inj e) (State.readCut_keeps h)
    · exact Keeps.ofPair (Option.some.inj e) (State.checkBlk_keeps h)
  · cases e

theorem State.exportTensor_keeps (h : Keeps s0 s) : Keeps s0 (State.exportTensor s a2 a3 a4 a5 a6 a7).1 := by
  unfold State.exportTensor
  repeat' first
    | with_reducible refine Keeps.ite1 ?_ ?_
    | with_reducible refine Keeps.foldl1 ?_ fun _ _ _ => ?_
    | with_reducible refine State.exportBlock_keeps ?_ _ _ (by assumption)
    | with_reducible refine State.huskFail_keeps ?_
    | with_reducible exact Keeps.put rfl rfl rfl rfl (by assumption)
    | split

theorem State.exportAll_keeps (h : Keeps s0 s) : Keeps s0 (State.exportAll s a2 a3 a4 a5 a6 a7 a8).1 := by
  unfold State.exportAll
  repeat' first
    | with_reducible assumption
    | with_reducible refine Keeps.ite1 ?_ ?_
    | with_reducible refine Keeps.foldl1 ?_ fun _ _ _ => ?_
    | with_reducible refine State.exportTensor_keeps ?_

theorem State.shardExport_keeps (h : Keeps s0 s) : Keeps s0 (State.shardExport s a2) := by
  unfold State.shardExport
  repeat' first
    | (extract_lets +onlyGivenNames x; ((refine Keeps.cut (P := Keeps s0 x) ?_ fun _ => ?_) <;> [(unfold x; rename' x => y); (try clear_value x; rename' x => y)]))
    | (extract_lets +onlyGivenNames x; ((refine Keeps.cut (P := Keeps s0 x.1) ?_ fun _ => ?_) <;> [(unfold x; rename' x => y); (try clear_value x; rename' x => y)]))
    | with_reducible refine State.reply_keeps ?_
    | with_reducible refine State.exportAll_keeps ?_
    | with_reducible refine State.winWrite_keeps ?_
    | with_reducible refine State.hostWrite_keeps ?_
    | with_reducible refine Keeps.ite ?_ ?_
    | with_reducible exact Keeps.put rfl rfl rfl rfl (by assumption)
    | split

theorem State.setGen_keeps (h : Keeps s0 s) : Keeps s0 (State.setGen s a2 a3) := by
  unfold State.setGen
  extract_lets +onlyGivenNames x1 s2
  have h2 : Keeps s0 s2 := State.setHull_keeps h
  clear_value s2
  exact .upd h2 (by simp only [State.keptPart])

theorem State.placementRound_keeps (h : Keeps s0 s) : Keeps s0 (State.placementRound s a2 a3 a4) := by
  unfold State.placementRound
  extract_lets +onlyGivenNames x1
  split
  · exact State.setGen_keeps h
  · extract_lets +onlyGivenNames s2
    have h2 : Keeps s0 s2 := .ite (State.setHull_keeps h) h
    clear_value s2
    exact .ite h2 (State.sendPriv_keeps h2)

theorem State.shardState_keeps (h : Keeps s0 s) : Keeps s0 (State.shardState s a2 a3 a4 a5) := by
  unfold State.shardState
  extract_lets +onlyGivenNames x1 s2
  have h2 : Keeps s0 s2 := State.setHull_keeps h
  clear_value s2
  extract_lets +onlyGivenNames x3
  exact State.log1_keeps h2

theorem State.restored_keeps (h : Keeps s0 s) : Keeps s0 (State.restored s a2 a3 a4 a5) := by
  unfold State.restored
  repeat' first
    | with_reducible assumption
    | (extract_lets +onlyGivenNames x; ((refine Keeps.cut (P := Keeps s0 x) ?_ fun _ => ?_) <;> [(unfold x; rename' x => y); (try clear_value x; rename' x => y)]))
    | with_reducible refine State.setHull_keeps ?_
    | with_reducible refine State.shardState_keeps ?_
    | with_reducible refine State.placementRound_keeps ?_
    | with_reducible refine Keeps.foldl ?_ fun _ _ _ => ?_

theorem State.wipeTensors_keeps (h : Keeps s0 s) : Keeps s0 (State.wipeTensors s a2 a3 a4) := by
  unfold State.wipeTensors
  refine .foldl h fun s b h => ?_
  split
  · exact State.setBlk_keeps h fun _ => twf_nil 0
  · exact h

theorem State.chainList_keeps (h : Keeps s0 s) : Keeps s0 (State.chainList s a2).1 := by
  unfold State.chainList
  repeat' first
    | with_reducible assumption
    | with_reducible refine Keeps.ite1 ?_ ?_
    | with_reducible refine State.windowRead_keeps ?_

theorem State.restore_keeps (h : Keeps s0 s) : Keeps s0 (State.restore s a2 a3) := by
  unfold State.restore
  repeat' first
    | (extract_lets +onlyGivenNames x; ((refine Keeps.cut (P := Keeps s0 x) ?_ fun _ => ?_) <;> [(unfold x; rename' x => y); (try clear_value x; rename' x => y)]))
    | (extract_lets +onlyGivenNames x; ((refine Keeps.cut (P := Keeps s0 x.1) ?_ fun _ => ?_) <;> [(unfold x; rename' x => y); (try clear_value x; rename' x => y)]))
    | with_reducible refine State.chainList_keeps ?_
    | with_reducible refine State.reply_keeps ?_
    | with_reducible refine State.applyChain_keeps ?_
    | with_reducible refine State.wipeTensors_keeps ?_
    | with_reducible refine State.restored_keeps ?_
    | with_reducible refine Keeps.ite ?_ ?_
    | with_reducible exact Keeps.put rfl rfl rfl rfl (by assumption)
    | split

theorem State.linkStatus_keeps (h : Keeps s0 s) : Keeps s0 (State.linkStatus s a2) := by
  unfold State.linkStatus
  extract_lets +onlyGivenNames x1 x2
  exact .ite (State.reply_keeps h) (State.reply_keeps h)

theorem State.flushWaiting_keeps (h : Keeps s0 s) : Keeps s0 (State.flushWaiting s) := by
  unfold State.flushWaiting
  exact .foldl (.upd h (by simp only [State.keptPart])) fun _ _ h1 => (State.sendMsg_keeps h1)

theorem State.rootLock_keeps (h : Keeps s0 s) : Keeps s0 (State.rootLock s) := by
  unfold State.rootLock
  exact .ite (.upd h (by simp only [State.keptPart])) h

theorem State.installPlan_keeps (h : Keeps s0 s) : Keeps s0 (State.installPlan s a2) := by
  unfold State.installPlan
  extract_lets +onlyGivenNames x1 s2
  have h2 : Keeps s0 s2 := by
    unfold s2
    exact .upd h (by simp only [State.keptPart])
  clear_value s2
  extract_lets +onlyGivenNames s3
  have h3 : Keeps s0 s3 := by
    unfold s3
    refine .foldl h2 fun _ _ h5 => ?_
    extract_lets +onlyGivenNames x6
    refine .ite ?_ ?_
    · extract_lets +onlyGivenNames s7
      have h7 : Keeps s0 s7 := by
        unfold s7
        exact .ite h5 (State.leave_keeps h5)
      clear_value s7
      exact State.setBundle_keeps h7
    · extract_lets +onlyGivenNames x7 x8
      exact State.setBundle_keeps h5
  clear_value s3
  exact State.rootLock_keeps (State.flushWaiting_keeps h3)

theorem State.linkPlan_keeps (h : Keeps s0 s) : Keeps s0 (State.linkPlan s a2) := by
  unfold State.linkPlan
  extract_lets +onlyGivenNames x1 x2 x3 x4 f5
  have h5 : ∀ y1, Keeps s0 y1 → ∀ y2, ∀ y3, Keeps s0 (f5 y1 y2 y3) := by
    intro _ h7 _ _
    unfold f5
    exact State.reply_keeps h7
  clear_value f5
  refine .ite (State.reply_keeps h) ?_
  refine .ite (State.reply_keeps h) ?_
  refine .ite (h5 _ h _ _) ?_
  extract_lets +onlyGivenNames x6
  split
  · exact h5 _ h _ _
  · exact h5 _ (.ite h (State.installPlan_keeps h)) _ _

theorem State.grpRead_keeps (h : Keeps s0 s) : Keeps s0 (State.grpRead s a2) := by
  unfold State.grpRead
  extract_lets +onlyGivenNames x1 x2 x3
  exact .ite (State.reply_keeps h) (.ite (State.reply_keeps h) (.ite (State.reply_keeps h) (State.reply_keeps h)))

theorem State.grpActivate_keeps (h : Keeps s0 s) : Keeps s0 (State.grpActivate s a2) := by
  unfold State.grpActivate
  extract_lets +onlyGivenNames x1 x2 x3 x4 x5 f6
  have h6 : ∀ y1, Keeps s0 y1 → ∀ y2, ∀ y3, Keeps s0 (f6 y1 y2 y3) := by
    intro _ h8 _ _
    unfold f6
    exact State.reply_keeps h8
  clear_value f6
  refine .ite (h6 _ h _ _) ?_
  refine .ite (h6 _ h _ _) ?_
  refine .ite ?_ ?_
  · refine .ite (h6 _ h _ _) ?_
    extract_lets +onlyGivenNames s7
    have h7 : Keeps s0 s7 := State.setGroup_keeps h
    clear_value s7
    exact h6 _ h7 _ _
  · refine .ite (h6 _ h _ _) ?_
    refine .ite (h6 _ h _ _) ?_
    refine .ite (h6 _ h _ _) ?_
    extract_lets +onlyGivenNames s7
    have h7 : Keeps s0 s7 := State.setGroup_keeps h
    clear_value s7
    exact h6 _ h7 _ _

theorem State.grpWrite_keeps (h : Keeps s0 s) : Keeps s0 (State.grpWrite s a2) := by
  unfold State.grpWrite
  repeat' first
    | with_reducible assumption
    | (extract_lets +onlyGivenNames x; ((refine Keeps.cut (P := Keeps s0 x) ?_ fun _ => ?_) <;> [(unfold x; rename' x => y); (try clear_value x; rename' x => y)]))
    | with_reducible refine State.reply_keeps ?_
    | with_reducible refine State.writeRange_keeps ?_
    | with_reducible refine State.setGroup_keeps ?_
    | with_reducible refine Keeps.ite ?_ ?_

theorem State.memMapStatus_keeps (h : Keeps s0 s) : Keeps s0 (State.memMapStatus s a2) := by
  unfold State.memMapStatus
  extract_lets +onlyGivenNames x1 x2 x3 x4
  exact .ite (State.reply_keeps h) (State.reply_keeps h)

theorem State.zeroRange_keeps (h : Keeps s0 s) : Keeps s0 (State.zeroRange s a2 a3 a4 a5 a6 a7) := by
  unfold State.zeroRange
  repeat' first
    | with_reducible assumption
    | exact fun _ _ _ => twf_nil 0
    | with_reducible refine State.storeBlk_keeps ?_ ?_
    | with_reducible refine State.writePart_keeps ?_
    | with_reducible refine Keeps.ite ?_ ?_
    | with_reducible refine Keeps.foldl ?_ fun _ _ _ => ?_

theorem State.fillBlocks_keeps (h : Keeps s0 s) : Keeps s0 (State.fillBlocks a1 a2 a3 a4 a5 a6 a7 s).1 := by
  induction a6 generalizing s a7 with
  | zero => exact h
  | succ n ih =>
    unfold State.fillBlocks
    extract_lets w
    have hw : Keeps s0 w := by
      unfold w
      split
      · exact State.writeRange_keeps h
      · exact State.zeroRange_keeps h
    exact .ite1 hw (ih hw)

theorem State.rejectPast_keeps (h : Keeps s0 s) : Keeps s0 (State.rejectPast s a2 a3 a4 a5 a6) := by
  unfold State.rejectPast
  repeat' first
    | with_reducible assumption
    | with_reducible refine State.reject_keeps ?_
    | with_reducible refine Keeps.ite ?_ ?_

theorem State.memFill_keeps (h : Keeps s0 s) : Keeps s0 (State.memFill s a2) := by
  unfold State.memFill
  repeat' first
    | with_reducible assumption
    | (extract_lets +onlyGivenNames x; ((refine Keeps.cut (P := Keeps s0 x.1) ?_ fun _ => ?_) <;> [(unfold x; rename' x => y); (try clear_value x; rename' x => y)]))
    | with_reducible refine State.reply_keeps ?_
    | with_reducible refine State.rejectPast_keeps ?_
    | with_reducible refine State.fillBlocks_keeps ?_
    | with_reducible refine Keeps.ite ?_ ?_

theorem State.memCopy_keeps (h : Keeps s0 s) : Keeps s0 (State.memCopy s a2) := by
  unfold State.memCopy
  repeat' first
    | (extract_lets +onlyGivenNames x; ((refine Keeps.cut (P := Keeps s0 x) ?_ fun _ => ?_) <;> [(unfold x; rename' x => y); (try clear_value x; rename' x => y)]))
    | (extract_lets +onlyGivenNames x; ((refine Keeps.cut (P := Keeps s0 x.1) ?_ fun _ => ?_) <;> [(unfold x; rename' x => y); (try clear_value x; rename' x => y)]))
    | (extract_lets +onlyGivenNames x; ((refine Keeps.cut (P := ∀ y, Keeps s0 y → ∀ a0, ∀ a1, ∀ a2, Keeps s0 (x y a0 a1 a2)) ?_ fun g3 => ?_) <;> [(unfold x; rename' x => y); (try clear_value x; rename' x => y)]))
    | intro _
    | with_reducible refine g3 _ ?_ _ _ _
    | with_reducible refine State.reply_keeps ?_
    | with_reducible refine State.rejectPast_keeps ?_
    | with_reducible refine State.copyBlocks_keeps ?_
    | with_reducible refine State.huskFail_keeps ?_
    | with_reducible refine Keeps.ite ?_ ?_
    | with_reducible exact Keeps.put rfl rfl rfl rfl (by assumption)
    | split

theorem State.progEval_keeps (h : Keeps s0 s) : Keeps s0 (State.progEval s a2) := by
  unfold State.progEval
  extract_lets +onlyGivenNames x1 x2 x3 x4
  refine .ite (State.reply_keeps h) ?_
  refine .ite (State.reply_keeps h) ?_
  split
  · refine .ite (State.reply_keeps h) ?_
    extract_lets +onlyGivenNames s5
    have h5 : Keeps s0 s5 := State.setHull_keeps h
    clear_value s5
    exact State.reply_keeps h5
  · exact State.reply_keeps h

theorem State.svcCall_keeps (h : Keeps s0 s) : Keeps s0 (State.svcCall s a2) := by
  unfold State.svcCall
  extract_lets +onlyGivenNames x1 x2 x3 x4 f5
  have h5 : ∀ y1, Keeps s0 y1 → ∀ y2, Keeps s0 (f5 y1 y2) := by
    intro _ h7 _
    unfold f5
    exact State.reply_keeps h7
  clear_value f5
  refine .ite (State.reply_keeps h) ?_
  refine .ite (State.reply_keeps h) ?_
  split
  · split
    · extract_lets +onlyGivenNames x6 x7
      refine .ite (h5 _ h _) ?_
      refine .ite (h5 _ h _) ?_
      extract_lets +onlyGivenNames s8
      have h8 : Keeps s0 s8 := State.collWrite_keeps h
      clear_value s8
      extract_lets +onlyGivenNames x9 x10 s11
      have h11 : Keeps s0 s11 := State.setHull_keeps h8
      clear_value s11
      exact State.signalCounter_keeps h11
    · exact h5 _ h _
  · exact h5 _ h _

theorem State.progQuery_keeps (h : Keeps s0 s) : Keeps s0 (State.progQuery s a2) := by
  unfold State.progQuery
  extract_lets +onlyGivenNames x1 x2
  refine .ite (State.reply_keeps h) ?_
  refine .ite (State.reply_keeps h) ?_
  extract_lets +onlyGivenNames x3
  exact State.reply_keeps h

theorem State.progStop_keeps (h : Keeps s0 s) : Keeps s0 (State.progStop s a2) := by
  unfold State.progStop
  extract_lets +onlyGivenNames x1 x2 x3
  refine .ite (State.reply_keeps h) ?_
  refine .ite (State.reply_keeps h) ?_
  split
  · extract_lets +onlyGivenNames s4
    have h4 : Keeps s0 s4 := State.setHull_keeps h
    clear_value s4
    extract_lets +onlyGivenNames x5
    exact .ite (State.stopHull_keeps h4) h4
  · exact State.reply_keeps h

theorem State.seat_keeps (h : Keeps s0 s) : Keeps s0 (State.seat s a2 a3) := by
  unfold State.seat
  extract_lets +onlyGivenNames x1 x2 x3 x4 s5
  have h5 : Keeps s0 s5 := by
    unfold s5
    refine .foldl h fun _ _ h7 => ?_
    extract_lets +onlyGivenNames x8 x9 x10
    exact State.setPod_keeps h7
  clear_value s5
  extract_lets +onlyGivenNames s6
  have h6 : Keeps s0 s6 := .foldl h5 fun _ _ h8 => (State.updTile_keeps h8)
  clear_value s6
  exact .foldl h6 fun _ _ h7 => (State.updTile_keeps h7)

theorem State.dropCalls_keeps (h : Keeps s0 s) : Keeps s0 (State.dropCalls s a2) := by
  unfold State.dropCalls
  split
  · exact .foldl h fun _ _ h1 => (State.reply_keeps h1)
  · exact h

theorem State.startProg_keeps (h : Keeps s0 s) : Keeps s0 (State.startProg s a2 a3 a4 a5 a6 a7) := by
  unfold State.startProg
  repeat' first
    | (extract_lets +onlyGivenNames x; ((refine Keeps.cut (P := Keeps s0 x) ?_ fun _ => ?_) <;> [(unfold x; rename' x => y); (try clear_value x; rename' x => y)]))
    | with_reducible refine State.dropCalls_keeps ?_
    | with_reducible refine State.setHull_keeps ?_
    | with_reducible refine State.seat_keeps ?_
    | with_reducible refine State.updTile_keeps ?_
    | with_reducible refine State.claimEngines_keeps ?_
    | with_reducible refine State.createSync_keeps ?_
    | with_reducible refine State.placementRound_keeps ?_
    | with_reducible refine Keeps.ite ?_ ?_
    | with_reducible refine Keeps.foldl ?_ fun _ _ _ => ?_
    | with_reducible exact Keeps.put rfl rfl rfl rfl (by assumption)
    | split

theorem State.progStart_keeps (h : Keeps s0 s) : Keeps s0 (State.progStart s a2) := by
  unfold State.progStart
  repeat' first
    | (extract_lets +onlyGivenNames x; ((refine Keeps.cut (P := Keeps s0 x) ?_ fun _ => ?_) <;> [(unfold x; rename' x => y); (try clear_value x; rename' x => y)]))
    | (extract_lets +onlyGivenNames x; ((refine Keeps.cut (P := Keeps s0 x.1) ?_ fun _ => ?_) <;> [(unfold x; rename' x => y); (try clear_value x; rename' x => y)]))
    | (extract_lets +onlyGivenNames x; (try clear_value x); rename' x => y)
    | with_reducible refine State.reply_keeps ?_
    | with_reducible refine State.windowRead_keeps ?_
    | with_reducible refine State.startProg_keeps ?_
    | with_reducible exact Keeps.put rfl rfl rfl rfl (by assumption)
    | split

theorem State.setShares_keeps (h : Keeps s0 s) : Keeps s0 (State.setShares s a2 a3) := by
  unfold State.setShares
  repeat' first
    | with_reducible assumption
    | with_reducible refine State.setPod_keeps ?_
    | with_reducible refine Keeps.foldl ?_ fun _ _ _ => ?_

theorem State.progLoad_keeps (h : Keeps s0 s) : Keeps s0 (State.progLoad s a2 a3) := by
  unfold State.progLoad
  repeat' first
    | (extract_lets +onlyGivenNames x; ((refine Keeps.cut (P := Keeps s0 x) ?_ fun _ => ?_) <;> [(unfold x; rename' x => y); (try clear_value x; rename' x => y)]))
    | (extract_lets +onlyGivenNames x; ((refine Keeps.cut (P := Keeps s0 x.1) ?_ fun _ => ?_) <;> [(unfold x; rename' x => y); (try clear_value x; rename' x => y)]))
    | (extract_lets +onlyGivenNames x; ((refine Keeps.cut (P := ∀ y, Keeps s0 y → ∀ a0, ∀ a1, Keeps s0 (x y a0 a1)) ?_ fun g2 => ?_) <;> [(unfold x; rename' x => y); (try clear_value x; rename' x => y)]))
    | (extract_lets +onlyGivenNames x; (try clear_value x); rename' x => y)
    | intro _
    | with_reducible refine g2 _ ?_ _ _
    | with_reducible refine State.reply_keeps ?_
    | with_reducible refine State.windowRead_keeps ?_
    | with_reducible refine State.dropCalls_keeps ?_
    | with_reducible refine State.setHull_keeps ?_
    | with_reducible refine State.createSync_keeps ?_
    | with_reducible refine State.setShares_keeps ?_
    | with_reducible exact Keeps.put rfl rfl rfl rfl (by assumption)
    | split

theorem State.hullStatus_keeps (h : Keeps s0 s) : Keeps s0 (State.hullStatus s a2) := by
  unfold State.hullStatus
  extract_lets +onlyGivenNames x1 x2
  refine .ite (State.reply_keeps h) ?_
  refine .ite (State.reply_keeps h) ?_
  extract_lets +onlyGivenNames x3
  exact State.reply_keeps h

theorem State.hullDestroy_keeps (h : Keeps s0 s) : Keeps s0 (State.hullDestroy s a2) := by
  unfold State.hullDestroy
  extract_lets -merge -useContext -underBinder +onlyGivenNames x1
  try clear_value x1
  refine .ite (State.reply_keeps h) ?_
  refine .ite (State.reply_keeps h) ?_
  refine .ite (State.reply_keeps h) ?_
  extract_lets -merge -useContext -underBinder +onlyGivenNames s2
  have h2 : Keeps s0 s2 := by
    unfold s2
    exact State.stopHull_keeps h
  clear_value s2
  extract_lets -merge -useContext -underBinder +onlyGivenNames s3
  have h3 : Keeps s0 s3 := by
    unfold s3
    exact State.abortProbe_keeps h2
  clear_value s3
  extract_lets -merge -useContext -underBinder +onlyGivenNames x4
  try clear_value x4
  extract_lets -merge -useContext -underBinder +onlyGivenNames s5
  have h5 : Keeps s0 s5 := by
    unfold s5
    exact State.setHull_keeps h3
  clear_value s5
  extract_lets -merge -useContext -underBinder +onlyGivenNames s6
  have h6 : Keeps s0 s6 := by
    unfold s6
    exact .upd h5 (by simp only [State.keptPart])
  clear_value s6
  extract_lets -merge -useContext -underBinder +onlyGivenNames s7
  have h7 : Keeps s0 s7 := by
    unfold s7
    refine .foldl h6 fun _ _ h9 => ?_
    extract_lets -merge -useContext -underBinder +onlyGivenNames x10
    try clear_value x10
    extract_lets -merge -useContext -underBinder +onlyGivenNames x11
    try clear_value x11
    exact State.setHull_keeps h9
  clear_value s7
  exact State.reply_keeps h7

theorem State.serveReclaim_keeps (h : Keeps s0 s) : Keeps s0 (State.serveReclaim s a2) := by
  unfold State.serveReclaim
  extract_lets +onlyGivenNames x1
  split
  · exact .ite (State.setHull_keeps h) h
  · exact h

theorem State.hullReclaim_keeps (h : Keeps s0 s) : Keeps s0 (State.hullReclaim s a2) := by
  unfold State.hullReclaim
  extract_lets +onlyGivenNames x1 x2 x3 x4
  split
  · exact State.reply_keeps h
  · refine .ite (State.reply_keeps h) ?_
    refine .ite (State.reply_keeps h) ?_
    refine .ite (State.reply_keeps h) ?_
    extract_lets +onlyGivenNames x5 s6
    have h6 : Keeps s0 s6 := State.serveReclaim_keeps (State.setHull_keeps h)
    clear_value s6
    extract_lets +onlyGivenNames s7
    have h7 : Keeps s0 s7 := State.abortProbe_keeps h6
    clear_value s7
    exact State.reply_keeps (State.event_keeps h7)

theorem State.giveGrant_keeps (h : Keeps s0 s) : Keeps s0 (State.giveGrant s a2 a3 a4) := by
  unfold State.giveGrant
  extract_lets +onlyGivenNames x1 x2 x3 x4 x5 x6 x7 x8 x9 x10 s11
  have h11 : Keeps s0 s11 := by
    unfold s11
    exact State.setHull_keeps h
  clear_value s11
  extract_lets +onlyGivenNames x12 s13
  have h13 : Keeps s0 s13 := by
    unfold s13
    exact .upd h11 (by simp only [State.keptPart])
  clear_value s13
  extract_lets +onlyGivenNames s14
  have h14 : Keeps s0 s14 := by
    unfold s14
    exact .foldl h13 fun _ _ h16 => (.ite (State.setPod_keeps h16) h16)
  clear_value s14
  exact State.addExtent_keeps (State.addExtent_keeps h14)

theorem State.hullGrant_keeps (h : Keeps s0 s) : Keeps s0 (State.hullGrant s a2) := by
  unfold State.hullGrant
  extract_lets +onlyGivenNames x1 x2 x3 x4 x5 x6 x7
  refine .ite (State.reply_keeps h) ?_
  refine .ite (State.reply_keeps h) ?_
  refine .ite (State.reply_keeps h) ?_
  refine .ite (State.reply_keeps h) ?_
  split
  · exact State.reply_keeps h
  · extract_lets +onlyGivenNames x8
    refine .ite (State.wakeFor_keeps h) ?_
    extract_lets +onlyGivenNames s9
    have h9 : Keeps s0 s9 := State.giveGrant_keeps (State.wakeFor_keeps h)
    clear_value s9
    extract_lets +onlyGivenNames x10
    exact State.reply_keeps h9

theorem State.hullCreate_keeps (h : Keeps s0 s) : Keeps s0 (State.hullCreate s a2) := by
  unfold State.hullCreate
  extract_lets +onlyGivenNames x1 x2 x3
  refine .ite (State.reply_keeps h) ?_
  refine .ite (State.reply_keeps h) ?_
  refine .ite (State.reply_keeps h) ?_
  extract_lets +onlyGivenNames x4 x5 x6 x7
  exact State.reply_keeps (State.setHull_keeps h)

theorem State.timeRead_keeps (h : Keeps s0 s) : Keeps s0 (State.timeRead s a2) := by
  unfold State.timeRead
  exact .ite (State.reply_keeps h) (State.reply_keeps h)

theorem State.setLaunch_keeps (h : Keeps s0 s) : Keeps s0 (State.setLaunch s a2) := by
  unfold State.setLaunch
  extract_lets +onlyGivenNames x1 x2 x3 x4 f5
  have h5 : ∀ y1, Keeps s0 y1 → ∀ y2, Keeps s0 (f5 y1 y2) := by
    intro _ h7 _
    unfold f5
    exact State.reply_keeps h7
  clear_value f5
  extract_lets +onlyGivenNames x6
  exact .ite (h5 _ h _) (.ite (h5 _ h _) (.ite (h5 _ h _) (.ite (h5 _ h _) (.ite (h5 _ h _) (.ite (h5 _ (State.setHull_keeps h) _)
      (h5 _ (State.setHull_keeps h) _))))))

theorem State.devHealth_keeps (h : Keeps s0 s) : Keeps s0 (State.devHealth s a2) := by
  unfold State.devHealth
  extract_lets +onlyGivenNames x1
  exact .ite (State.reply_keeps h) (State.reply_keeps h)

theorem State.devInfo_keeps (h : Keeps s0 s) : Keeps s0 (State.devInfo s a2) := by
  unfold State.devInfo
  extract_lets +onlyGivenNames x1
  exact .ite (State.reply_keeps h) (State.reply_keeps h)

theorem State.stopNow_keeps (h : Keeps s0 s) : Keeps s0 (State.stopNow s a2) := by
  unfold State.stopNow
  split
  · exact .ite (State.stopHull_keeps h) h
  · exact h

theorem State.engineArrive_keeps (h : Keeps s0 s) : Keeps s0 (State.engineArrive s a2) := by
  unfold State.engineArrive
  extract_lets +onlyGivenNames x1
  refine .ite h ?_
  extract_lets +onlyGivenNames x2 s3
  have h3 : Keeps s0 s3 := State.setEng_keeps h
  clear_value s3
  exact .foldl h3 fun _ _ h4 => (.ite (State.ausAccept_keeps h4) h4)

theorem State.syncEffect_keeps (h : Keeps s0 s) : Keeps s0 (State.syncEffect s a2) := by
  unfold State.syncEffect
  split
  · refine .ite (State.answer_keeps h) ?_
    extract_lets +onlyGivenNames x1
    exact .foldl (.upd h (by simp only [State.keptPart])) fun _ _ h2 => (State.answer_keeps h2)
  · exact State.answer_keeps h

theorem State.landNow_keeps (h : Keeps s0 s) : Keeps s0 (State.landNow s a2 a3) := by
  unfold State.landNow
  refine .ite ?_ (State.updTile_keeps h)
  extract_lets +onlyGivenNames x1
  exact State.setPod_keeps h

theorem State.podBeat_keeps (h : Keeps s0 s) : Keeps s0 (State.podBeat s a2) := by
  unfold State.podBeat
  extract_lets +onlyGivenNames x1 x2 x3 s4
  have h4 : Keeps s0 s4 := State.setPod_keeps h
  clear_value s4
  extract_lets +onlyGivenNames s5
  have h5 : Keeps s0 s5 := .foldl h4 fun _ _ h7 => (State.landNow_keeps h7)
  clear_value s5
  extract_lets +onlyGivenNames x6 x7 s8
  have h8 : Keeps s0 s8 := .foldl h5 fun _ _ h10 => (State.syncEffect_keeps h10)
  clear_value s8
  exact State.engineArrive_keeps (State.engineArrive_keeps h8)

theorem State.stallTime_keeps (h : Keeps s0 s) : Keeps s0 (State.stallTime s a2 a3) := by
  unfold State.stallTime
  extract_lets +onlyGivenNames x1
  exact .ite (State.setTile_keeps h) h

theorem State.reseed_keeps (h : Keeps s0 s) : Keeps s0 (State.reseed s a2 a3 a4 a5) := by
  unfold State.reseed
  extract_lets +onlyGivenNames x1
  split
  · extract_lets +onlyGivenNames x2 x3
    exact State.updTile_keeps h
  · exact h

theorem State.reseedPoint_keeps (h : Keeps s0 s) : Keeps s0 (State.reseedPoint s a2) := by
  unfold State.reseedPoint
  extract_lets +onlyGivenNames x1 x2
  split
  · refine .ite h ?_
    split
    · exact State.reseed_keeps h
    · exact h
  · exact h

theorem State.endIssue_keeps (h : Keeps s0 s) : Keeps s0 (State.endIssue s a2) := by
  unfold State.endIssue
  extract_lets +onlyGivenNames s1
  have h1 : Keeps s0 s1 := State.updTile_keeps h
  clear_value s1
  exact State.reseedPoint_keeps h1

theorem State.land1_keeps (h : Keeps s0 s) : Keeps s0 (State.land1 s a2 a3) := by
  unfold State.land1
  extract_lets +onlyGivenNames x1
  exact State.setPod_keeps h

theorem State.psEcc_keeps (h : Keeps s0 s) (hf5 : (∀ y1, Keeps s0 y1 → Keeps s0 (f5 y1))) : Keeps s0 (State.psEcc s a2 a3 a4 f5) :=
    by
  unfold State.psEcc
  split
  · exact hf5 _ h
  · exact hf5 _ (State.storeCe_keeps h)
  · exact State.storeUe_keeps h

theorem State.psAccess_keeps (h : Keeps s0 s) (hf5 : (∀ y1, Keeps s0 y1 → Keeps s0 (f5 y1))) : Keeps s0 (State.psAccess s a2 a3 a4
    f5) := by
  unfold State.psAccess
  extract_lets +onlyGivenNames x1 x2 x3
  exact .ite (State.contract_keeps h) (.ite (State.contract_keeps h) (hf5 _ (State.setPod_keeps h)))

theorem State.putBeat_keeps (h : Keeps s0 s) : Keeps s0 (State.putBeat s a2 a3) := by
  unfold State.putBeat
  repeat' first
    | with_reducible assumption
    | with_reducible refine State.psAccess_keeps ?_ (fun _ _ => ?_)
    | with_reducible refine State.psEcc_keeps ?_ (fun _ _ => ?_)
    | with_reducible refine State.contract_keeps ?_
    | with_reducible refine State.land1_keeps ?_
    | with_reducible refine State.tsAccess_keeps ?_ (fun _ _ => ?_)
    | with_reducible refine State.tsEcc_keeps ?_ (fun _ _ => ?_)
    | with_reducible refine Keeps.ite ?_ ?_

theorem State.xferMove_keeps (h : Keeps s0 s) : Keeps s0 (State.xferMove s a2) := by
  unfold State.xferMove
  repeat' first
    | with_reducible refine State.putBeat_keeps ?_
    | with_reducible exact Keeps.put rfl rfl rfl rfl (by assumption)
    | split

theorem State.xferDrop_keeps (h : Keeps s0 s) : Keeps s0 (State.xferDrop s a2) := by
  unfold State.xferDrop
  repeat' first
    | with_reducible refine State.setEng_keeps ?_
    | with_reducible exact Keeps.put rfl rfl rfl rfl (by assumption)
    | split

theorem State.transfers_keeps (h : Keeps s0 s) : Keeps s0 (State.transfers s a2) := by
  unfold State.transfers
  repeat' first
    | with_reducible assumption
    | (extract_lets +onlyGivenNames x; ((refine Keeps.cut (P := Keeps s0 x) ?_ fun _ => ?_) <;> [(unfold x; rename' x => y); (try clear_value x; rename' x => y)]))
    | with_reducible refine State.xferMove_keeps ?_
    | with_reducible refine State.collision_keeps ?_
    | with_reducible refine State.xferDrop_keeps ?_
    | with_reducible refine State.forLive_keeps ?_ (fun _ _ _ => ?_)
    | with_reducible refine State.updTile_keeps ?_
    | with_reducible refine Keeps.foldl ?_ fun _ _ _ => ?_

theorem State.engineCharge_keeps (h : Keeps s0 s) : Keeps s0 (State.engineCharge s a2) := by
  unfold State.engineCharge
  extract_lets +onlyGivenNames x1
  split
  · split
    · exact .ite (State.charge_keeps h (fun _ h3 => h3)) h
    · exact h
  · exact h

theorem State.decide__keeps (h : Keeps s0 s) : Keeps s0 (State.decide_ s) := by
  unfold State.decide_
  extract_lets +onlyGivenNames x1
  exact .upd h (by simp only [State.keptPart])

theorem State.unmark_keeps (h : Keeps s0 s) : Keeps s0 (State.unmark s a2 a3) := by
  unfold State.unmark
  exact .upd h (by simp only [State.keptPart])

theorem State.retireFront_keeps (h : Keeps s0 s) : Keeps s0 (State.retireFront a1 a2 a3 s) := by
  induction a3 generalizing s with
  | zero => exact h
  | succ n ih =>
    unfold State.retireFront
    extract_lets qu
    split
    · refine .ite ?_ h
      extract_lets sig r d
      have hr : Keeps s0 r.1 := by
        unfold r
        split
        · exact State.signalCounter_keeps h
        · exact h
      exact ih (State.updTile_keeps hr)
    · exact h

theorem State.descDone_keeps (h : Keeps s0 s) : Keeps s0 (State.descDone s a2 a3 a4 a5) := by
  unfold State.descDone
  refine .ite h ?_
  extract_lets +onlyGivenNames s1
  have h1 : Keeps s0 s1 := State.updTile_keeps h
  clear_value s1
  exact State.updTile_keeps (State.retireFront_keeps h1)

theorem State.twinFeed_keeps (h : Keeps s0 s) : Keeps s0 (State.twinFeed s a2 a3 a4 a5 a6 a7) := by
  unfold State.twinFeed
  repeat' first
    | (extract_lets +onlyGivenNames x; ((refine Keeps.cut (P := Keeps s0 x.1) ?_ fun _ => ?_) <;> [(unfold x; rename' x => y); (try clear_value x; rename' x => y)]))
    | (extract_lets +onlyGivenNames x; (try clear_value x); rename' x => y)
    | with_reducible refine State.readRange_keeps ?_
    | with_reducible refine State.huskStop_keeps ?_
    | with_reducible refine State.send_keeps ?_
    | with_reducible refine Keeps.foldl ?_ fun _ _ _ => ?_
    | with_reducible exact Keeps.put rfl rfl rfl rfl (by assumption)
    | split

theorem State.placePiece_keeps (h : Keeps s0 s) : Keeps s0 (State.placePiece s a2 a3 a4 a5) := by
  unfold State.placePiece
  repeat' first
    | (extract_lets +onlyGivenNames x; ((refine Keeps.cut (P := Keeps s0 x) ?_ fun _ => ?_) <;> [(unfold x; rename' x => y); (try clear_value x; rename' x => y)]))
    | with_reducible refine State.collWrite_keeps ?_
    | with_reducible refine State.twinFeed_keeps ?_
    | with_reducible refine State.setRun_keeps ?_
    | with_reducible exact Keeps.put rfl rfl rfl rfl (by assumption)
    | split

theorem State.directSteps_keeps (h : Keeps s0 s) : Keeps s0 (State.directSteps s a2 a3) := by
  unfold State.directSteps
  repeat' first
    | (extract_lets +onlyGivenNames x; ((refine Keeps.cut (P := Keeps s0 x) ?_ fun _ => ?_) <;> [(unfold x; rename' x => y); (try clear_value x; rename' x => y)]))
    | (extract_lets +onlyGivenNames x; (try clear_value x); rename' x => y)
    | with_reducible refine State.sendOnce_keeps ?_
    | with_reducible refine State.placePiece_keeps ?_
    | with_reducible refine State.event_keeps ?_
    | with_reducible exact Keeps.put rfl rfl rfl rfl (by assumption)
    | split

theorem State.narrowRead_keeps (h : Keeps s0 s) : Keeps s0 (State.narrowRead s a2 a3 a4).1 := by
  unfold State.narrowRead
  repeat' first
    | with_reducible assumption
    | with_reducible refine State.fetchBlk_keeps ?_

theorem State.doGather_keeps (h : Keeps s0 s) : Keeps s0 (State.doGather s a2 a3 a4 a5).1 := by
  unfold State.doGather
  repeat' first
    | with_reducible refine Keeps.ofPair (by with_reducible assumption) ?_
    | with_reducible refine Keeps.ite1 ?_ ?_
    | with_reducible refine Keeps.foldl1 ?_ fun _ _ _ => ?_
    | with_reducible refine State.updTile_keeps ?_
    | with_reducible refine State.narrowRead_keeps ?_
    | with_reducible exact Keeps.put rfl rfl rfl rfl (by assumption)
    | split

theorem State.tensorStore_keeps (h : Keeps s0 s) : Keeps s0 (State.tensorStore s a2 a3 a4 a5 a6) := by
  unfold State.tensorStore
  split
  · exact State.writeRange_keeps h
  · exact State.writeRange_keeps h
  · extract_lets +onlyGivenNames x1
    split
    · exact h
    · refine .ite (State.updTile_keeps h) ?_
      extract_lets +onlyGivenNames x2
      exact State.setPod_keeps h
  · exact h

theorem State.storeEcc_keeps (h : Keeps s0 s) : Keeps s0 (State.storeEcc s a2 a3 a4 a5).2 := by
  unfold State.storeEcc
  split
  · exact h
  · exact State.storeCe_keeps h
  · dsimp only
    split
    · exact State.storeUe_keeps h
    · exact State.podUe_keeps h

theorem State.doWrite_keeps (h : Keeps s0 s) : Keeps s0 (State.doWrite s a2 a3 a4 a5 a6).1 := by
  unfold State.doWrite
  repeat' first
    | with_reducible assumption
    | (extract_lets +onlyGivenNames x; ((refine Keeps.cut (P := Keeps s0 x) ?_ fun _ => ?_) <;> [(unfold x; rename' x => y); (try clear_value x; rename' x => y)]))
    | (extract_lets +onlyGivenNames x; ((refine Keeps.cut (P := Keeps s0 x.2) ?_ fun _ => ?_) <;> [(unfold x; rename' x => y); (try clear_value x; rename' x => y)]))
    | with_reducible refine Keeps.ite1 ?_ ?_
    | with_reducible refine State.storeEcc_keeps ?_
    | with_reducible refine State.tensorStore_keeps ?_

theorem State.tensorFetch_keeps (h : Keeps s0 s) : Keeps s0 (State.tensorFetch s a2 a3 a4 a5 a6 a7 a8).1 := by
  unfold State.tensorFetch
  extract_lets +onlyGivenNames lam mem
  have hm : ∀ tb x, Keeps s0 (mem tb x).1 := by
    intro tb x
    unfold mem
    have ho : Keeps s0 (s.readRange a3 tb x a5 a6 a7).st := State.readRange_keeps h
    generalize s.readRange a3 tb x a5 a6 a7 = o at ho
    dsimp only
    split
    · exact ho
    · exact ho
    · dsimp only; exact State.huskStop_keeps ho
  clear_value mem
  split
  · exact hm _ _
  · exact hm _ _
  · extract_lets +onlyGivenNames home
    clear_value home
    split
    · exact h
    · extract_lets own r
      have hr : Keeps s0 r.2 := State.storeEcc_keeps h
      clear_value r own
      exact .ite1 hr hr
  · exact h

theorem State.doRead_keeps (h : Keeps s0 s) : Keeps s0 (State.doRead s a2 a3 a4 a5 a6).1 := by
  unfold State.doRead
  repeat' first
    | with_reducible assumption
    | (extract_lets +onlyGivenNames x; ((refine Keeps.cut (P := Keeps s0 x) ?_ fun _ => ?_) <;> [(unfold x; rename' x => y); (try clear_value x; rename' x => y)]))
    | (extract_lets +onlyGivenNames x; ((refine Keeps.cut (P := Keeps s0 x.1) ?_ fun _ => ?_) <;> [(unfold x; rename' x => y); (try clear_value x; rename' x => y)]))
    | with_reducible refine Keeps.ite1 ?_ ?_
    | with_reducible refine State.updTile_keeps ?_
    | with_reducible refine State.tensorFetch_keeps ?_
    | with_reducible refine State.setPod_keeps ?_

theorem State.doDesc_keeps (h : Keeps s0 s) : Keeps s0 (State.doDesc s a2 a3 a4 a5 a6).1 := by
  unfold State.doDesc
  repeat' first
    | with_reducible refine State.doRead_keeps ?_
    | with_reducible refine State.doWrite_keeps ?_
    | with_reducible refine State.doGather_keeps ?_
    | with_reducible exact Keeps.put rfl rfl rfl rfl (by assumption)
    | split

theorem State.eaddrWrite_keeps (h : Keeps s0 s) : Keeps s0 (State.eaddrWrite s a2 a3 a4) := by
  unfold State.eaddrWrite
  extract_lets +onlyGivenNames x1
  exact .ite (State.cmdCfgErr_keeps h) (State.setEndp_keeps h)

theorem State.ecfgWrite_keeps (h : Keeps s0 s) : Keeps s0 (State.ecfgWrite s a2 a3) := by
  unfold State.ecfgWrite
  extract_lets +onlyGivenNames x1 x2
  exact .ite (State.cmdCfgErr_keeps h) (.ite (State.cmdCfgErr_keeps h) (State.setEndp_keeps h))

theorem State.enqueue_keeps (h : Keeps s0 s) : Keeps s0 (State.enqueue s a2 a3 a4) := by
  unfold State.enqueue
  extract_lets +onlyGivenNames x1 x2 x3
  split
  · exact h
  · refine .ite (State.contract_keeps h) ?_
    refine .ite (State.contract_keeps h) ?_
    extract_lets +onlyGivenNames x4 x5
    exact State.setTile_keeps h

theorem State.enterDown_keeps (h : Keeps s0 s) : Keeps s0 (State.enterDown s a2) := by
  unfold State.enterDown
  extract_lets +onlyGivenNames s1
  have h1 : Keeps s0 s1 := State.leave_keeps h
  clear_value s1
  exact State.event_keeps (State.setBundle_keeps h1)

theorem State.envRec_keeps (h : Keeps s0 s) : Keeps s0 (State.envRec s a2 a3) := by
  unfold State.envRec
  extract_lets +onlyGivenNames x1
  exact State.log1_keeps h

theorem State.evalLevels_keeps (h : Keeps s0 s) : Keeps s0 (State.evalLevels s a2) := by
  unfold State.evalLevels
  extract_lets +onlyGivenNames x1 x2
  refine .ite h ?_
  refine .foldl h fun _ _ h3 => ?_
  extract_lets +onlyGivenNames x4 x5 x6 x7 x8 s9
  have h9 : Keeps s0 s9 := by
    unfold s9
    exact .upd h3 (by simp only [State.keptPart])
  clear_value s9
  exact .ite (State.event_keeps h9) h9

theorem State.exactResult_keeps (h : Keeps s0 s) : Keeps s0 (State.exactResult s a2 a3) := by
  unfold State.exactResult
  repeat' first
    | (extract_lets +onlyGivenNames x; ((refine Keeps.cut (P := Keeps s0 x) ?_ fun _ => ?_) <;> [(unfold x; rename' x => y); (try clear_value x; rename' x => y)]))
    | (extract_lets +onlyGivenNames x; (try clear_value x); rename' x => y)
    | with_reducible refine State.sendPriv_keeps ?_
    | with_reducible refine State.collWrite_keeps ?_
    | with_reducible refine State.setHull_keeps ?_
    | with_reducible refine State.collDone_keeps ?_
    | with_reducible refine State.setRun_keeps ?_
    | with_reducible refine Keeps.foldl ?_ fun _ _ _ => ?_
    | with_reducible exact Keeps.put rfl rfl rfl rfl (by assumption)
    | split

theorem State.exactProgress_keeps (h : Keeps s0 s) : Keeps s0 (State.exactProgress s a2) := by
  unfold State.exactProgress
  repeat' first
    | with_reducible assumption
    | (extract_lets +onlyGivenNames x; ((refine Keeps.cut (P := Keeps s0 x) ?_ fun _ => ?_) <;> [(unfold x; rename' x => y); (try clear_value x; rename' x => y)]))
    | with_reducible refine State.setRun_keeps ?_
    | with_reducible refine State.exactResult_keeps ?_
    | with_reducible refine State.sendPriv_keeps ?_
    | with_reducible refine Keeps.ite ?_ ?_

theorem State.extend_keeps (h : Keeps s0 s) : Keeps s0 (State.extend s a2 a3) := by
  unfold State.extend
  extract_lets +onlyGivenNames x1
  exact .upd h (by simp only [State.keptPart])

theorem State.extractBlock_keeps (h : Keeps s0 s) : Keeps s0 (State.extractBlock s a2 a3 a4 a5 a6).1 := by
  unfold State.extractBlock
  repeat' first
    | with_reducible refine Keeps.ofPair (by with_reducible assumption) ?_
    | (extract_lets +onlyGivenNames x; ((refine Keeps.cut (P := Keeps s0 x) ?_ fun _ => ?_) <;> [(unfold x; rename' x => y); (try clear_value x; rename' x => y)]))
    | (extract_lets +onlyGivenNames x; (try clear_value x); rename' x => y)
    | with_reducible refine State.readCut_keeps ?_
    | with_reducible refine State.unmark_keeps ?_
    | with_reducible refine State.huskFail_keeps ?_
    | with_reducible exact Keeps.put rfl rfl rfl rfl (by assumption)
    | split

theorem State.extractAll_keeps (h : Keeps s0 s) : Keeps s0 (State.extractAll a1 a2 a3 a4 l s a7).1 := by
  induction l generalizing s a7 with
  | nil => exact h
  | cons b r ih =>
    unfold State.extractAll
    split
    · next e => exact ih (State.drainAt_keeps (Keeps.ofPair e (State.extractBlock_keeps h)))
    · next e => exact ih (Keeps.ofPair e (State.extractBlock_keeps h))
    · next e => exact Keeps.ofPair e (State.extractBlock_keeps h)

theorem State.fallCoarse_keeps (h : Keeps s0 s) : Keeps s0 (State.fallCoarse s) := by
  unfold State.fallCoarse
  extract_lets +onlyGivenNames x1 s2
  have h2 : Keeps s0 s2 := by
    unfold s2
    exact .upd h (by simp only [State.keptPart])
  clear_value s2
  refine .foldl h2 fun _ _ h3 => ?_
  extract_lets +onlyGivenNames x4
  exact .ite (State.event_keeps (State.setHull_keeps h3)) h3

theorem State.fetch_keeps (h : Keeps s0 s) : Keeps s0 (State.fetch s a2 a3 a4 a5 a6) := by
  unfold State.fetch
  repeat' first
    | (extract_lets +onlyGivenNames x; (try clear_value x); rename' x => y)
    | with_reducible refine State.ringFault_keeps ?_
    | with_reducible refine State.setRing_keeps ?_
    | with_reducible exact Keeps.put rfl rfl rfl rfl (by assumption)
    | split

theorem State.rehome_keeps (h : Keeps s0 s) : Keeps s0 (State.rehome s a2) := by
  unfold State.rehome
  exact .upd h (by simp only [State.keptPart])

/-- What was taken of a canonical memory has canonical blocks. -/
def Content.wf : Content → Bool
  | .bytes _ => true
  | .blocks l => l.all fun b => twf 0 b.2.data

theorem State.takeTensor_wf {s : State} (h : s.dramWf = true) (k : Nat) (d : TensorDecl) (pl : Level × Nat) :
    (s.takeTensor k d pl).wf = true := by
  unfold State.takeTensor
  split
  · rfl
  · rfl
  · simp only [Content.wf, List.all_eq_true, List.mem_filterMap, Option.map_eq_some_iff]
    rintro x ⟨i, _, u, _, rfl⟩
    exact State.blk_wf h _ _

/-- One block of a tensor is placed. -/
theorem placeBlock_keeps (h : Keeps s0 s) (hb : s0.dramWf = true → twf 0 b.data = true) :
    Keeps s0 (match (State.hull s a2).find tb x with | some u => s.setBlk tb (blkPer tb * u.1 + u.2) b | none => s) := by
  split
  · exact State.setBlk_keeps h hb
  · exact h

theorem placeContent_keeps {c : Content} {e : Nat} (h : Keeps s0 s) : (s0.dramWf = true → c.wf = true) → Keeps s0 (match c with
      | .blocks bs => bs.foldl (fun (s : State) b =>
          match (s.hull k).find tb (x + b.1) with
          | some u => s.setBlk tb (blkPer tb * u.1 + u.2) b.2
          | none => s) s
      | .bytes b => (blocksOf 0 b.length).foldl (fun (s : State) i =>
          match (s.hull k).find tb (x + i) with
          | some u => s.setBlk tb (blkPer tb * u.1 + u.2) (Blk.of (slice b (4096 * i) 4096) (huskTag e i))
          | none => s) s) := by
  intro hc
  cases c with
  | bytes b => exact .foldl h fun s i h => placeBlock_keeps h fun _ => blkOf_wf _ _
  | blocks bs =>
    dsimp only
    induction bs generalizing s with
    | nil => exact h
    | cons b r ih =>
      have hc' : s0.dramWf = true → twf 0 b.2.data = true ∧ (Content.blocks r).wf = true := fun d => by
        have := hc d
        simp only [Content.wf, List.all_cons, Bool.and_eq_true] at this
        exact this
      exact ih (placeBlock_keeps h fun d => (hc' d).1) fun d => (hc' d).2

theorem State.putTensor_keeps (h : Keeps s0 s) (hc : s0.dramWf = true → a5.wf = true) : Keeps s0 (State.putTensor s a2 a3 a4 a5) := by
  unfold State.putTensor
  extract_lets flat
  clear_value flat
  split
  · split
    · exact State.updTile_keeps h
    · exact h
  · exact State.setPod_keeps h
  · exact placeContent_keeps h hc

theorem State.refold_keeps (h : Keeps s0 s) : Keeps s0 (State.refold s a2 a3 a4 a5 a6) := by
  unfold State.refold
  extract_lets table moved tiles engines s1 q z s2 pods s3 s4 s5
  have h2 : Keeps s0 s2 := State.seat_keeps (State.setHull_keeps (State.dropPods_keeps h))
  have h3 : Keeps s0 s3 := .ite (.foldl h2 fun _ _ h => State.updTile_keeps h) h2
  have h4 : Keeps s0 s4 := by
    refine .ite (.foldl h3 fun _ _ h => ?_) (State.claimEngines_keeps h3)
    split
    · exact State.setEng_keeps h
    · exact h
  have hm : ∀ m ∈ moved, s0.dramWf = true → Content.wf m.2.2 = true := by
    intro m hm d
    simp only [moved, List.mem_filterMap] at hm
    obtain ⟨t, _, e⟩ := hm
    split at e
    · split at e
      · cases e
      · cases e; exact State.takeTensor_wf (h.dram d) _ _ _
    · cases e
  have h5 : Keeps s0 s5 := by
    unfold s5
    clear_value s4 moved
    clear s5
    induction moved generalizing s4 with
    | nil => exact h4
    | cons m r ih =>
      exact ih _ (State.putTensor_keeps h4 (hm m List.mem_cons_self)) fun m' hm' => hm m' (List.mem_cons_of_mem _ hm')
  exact State.rehome_keeps h5

theorem State.markUndo_keeps (h : Keeps s0 s) : Keeps s0 (State.markUndo s a2) := by
  unfold State.markUndo
  split
  · split
    · exact State.markInto_keeps h
    · exact h
  · exact h

theorem State.recordBoundary_keeps (h : Keeps s0 s) : Keeps s0 (State.recordBoundary s a2) := by
  unfold State.recordBoundary
  extract_lets +onlyGivenNames x1
  exact State.setHull_keeps h

theorem State.remark_keeps (h : Keeps s0 s) : Keeps s0 (State.remark s a2) := by
  unfold State.remark
  extract_lets +onlyGivenNames x1 s2
  have h2 : Keeps s0 s2 := .upd h (by simp only [State.keptPart]; rfl)
  clear_value s2
  exact State.recordBoundary_keeps (State.markUndo_keeps h2)

theorem State.restoreUndo_keeps (h : Keeps s0 s) : Keeps s0 (State.restoreUndo s a2) := by
  unfold State.restoreUndo
  extract_lets keys mine copies s1
  have h1 : Keeps s0 s1 := .foldl h fun s m h => State.setBlk_keeps h fun d => State.blk_wf (h.dram d) _ _
  exact .upd h1 rfl

theorem State.restartCore_keeps (h : Keeps s0 s) : Keeps s0 (State.restartCore s a2 a3) := by
  unfold State.restartCore
  extract_lets +onlyGivenNames x1 s2
  have h2 : Keeps s0 s2 := by
    unfold s2
    exact .upd h (by simp only [State.keptPart])
  clear_value s2
  extract_lets +onlyGivenNames s3
  have h3 : Keeps s0 s3 := by
    unfold s3
    exact State.markUndo_keeps (State.restoreUndo_keeps h2)
  clear_value s3
  extract_lets +onlyGivenNames s4
  have h4 : Keeps s0 s4 := by
    unfold s4
    exact .foldl h3 fun _ _ h6 => (State.setPod_keeps h6)
  clear_value s4
  extract_lets +onlyGivenNames s5
  have h5 : Keeps s0 s5 := by
    unfold s5
    refine .foldl h4 fun _ _ h7 => ?_
    split
    · exact State.updTile_keeps h7
    · exact h7
  clear_value s5
  extract_lets +onlyGivenNames s6
  have h6 : Keeps s0 s6 := by
    unfold s6
    refine .foldl h5 fun _ _ h8 => ?_
    refine .foldl h8 fun _ _ h9 => ?_
    extract_lets +onlyGivenNames x10
    exact .ite (State.setEng_keeps h9) h9
  clear_value s6
  extract_lets +onlyGivenNames x7 x8
  exact State.setHull_keeps h6

theorem State.removeGrant_keeps (h : Keeps s0 s) : Keeps s0 (State.removeGrant s a2 a3) := by
  unfold State.removeGrant
  extract_lets +onlyGivenNames x1 x2 x3 x4 x5 x6 x7 x8 s9
  have h9 : Keeps s0 s9 := by
    unfold s9
    exact State.dropPods_keeps h
  clear_value s9
  extract_lets +onlyGivenNames s10
  have h10 : Keeps s0 s10 := by
    unfold s10
    exact .foldl h9 fun _ _ h12 => (State.setUnitA_keeps h12)
  clear_value s10
  extract_lets +onlyGivenNames s11
  have h11 : Keeps s0 s11 := by
    unfold s11
    exact .foldl h10 fun _ _ h13 => (State.setUnitB_keeps h13)
  clear_value s11
  extract_lets +onlyGivenNames x12 s13
  have h13 : Keeps s0 s13 := by
    unfold s13
    exact .upd h11 (by simp only [State.keptPart])
  clear_value s13
  extract_lets +onlyGivenNames s14
  have h14 : Keeps s0 s14 := by
    unfold s14
    exact State.setHull_keeps h13
  clear_value s14
  extract_lets +onlyGivenNames x15 s16
  have h16 : Keeps s0 s16 := by
    unfold s16
    exact .ite (State.setHull_keeps h14) h14
  clear_value s16
  exact State.ckptReclaimed_keeps h16

theorem State.foldRest_keeps (h : Keeps s0 s) : Keeps s0 (State.foldRest s a2 a3) := by
  unfold State.foldRest
  extract_lets +onlyGivenNames x1 s2
  have h2 : Keeps s0 s2 := by
    unfold s2
    split
    · exact State.removeGrant_keeps h
    · exact h
  clear_value s2
  extract_lets +onlyGivenNames s3
  have h3 : Keeps s0 s3 := State.enterTest_keeps (State.dropPods_keeps h2)
  clear_value s3
  exact State.setHull_keeps h3

theorem State.foldFinish_keeps (h : Keeps s0 s) : Keeps s0 (State.foldFinish s a2 a3 a4) := by
  unfold State.foldFinish
  extract_lets +onlyGivenNames x going
  split
  · next p _ _ =>
    extract_lets +onlyGivenNames forced
    refine .ite (State.foldRest_keeps (State.stopHull_keeps h)) ?_
    extract_lets change s1 s2 s3
    have h1 : Keeps s0 s1 := .ite (State.restartCore_keeps h) h
    have h2 : Keeps s0 s2 := by
      unfold s2
      split
      · refine .ite h1 ?_
        split
        · exact State.huskStop_keeps h1
        · exact State.remark_keeps (State.refold_keeps h1)
      · exact h1
    have h3 : Keeps s0 s3 := State.foldRest_keeps h2
    exact .ite h3 (.ite (State.placementRound_keeps h3) (.ite (State.askResend_keeps h3) h3))
  · extract_lets +onlyGivenNames s1
    have h1 : Keeps s0 s1 := State.foldRest_keeps h
    exact .ite h1 (State.placementRound_keeps h1)

theorem State.foldStop_keeps (h : Keeps s0 s) : Keeps s0 (State.foldStop s a2 a3) := by
  unfold State.foldStop
  extract_lets +onlyGivenNames s1
  have h1 : Keeps s0 s1 := State.stopHull_keeps h
  clear_value s1
  refine .ite ?_ h1
  extract_lets +onlyGivenNames x2
  exact State.event_keeps (State.setHull_keeps h1)

theorem State.forcedHold_keeps (h : Keeps s0 s) (h1x : Keeps s0 s1x) : Keeps s0 (State.forcedHold s a2 s1x) := by
  unfold State.forcedHold
  extract_lets +onlyGivenNames x1
  exact .ite (State.setHull_keeps h) h1x

theorem State.returnLoan_keeps (h : Keeps s0 s) : Keeps s0 (State.returnLoan s a2).1 := by
  unfold State.returnLoan
  split
  · exact h
  · extract_lets +onlyGivenNames x1 x2 x3
    exact Keeps.iteP (P := fun x => Keeps s0 (Prod.fst x)) h (State.giveGrant_keeps h)

/-- Blocks are taken out of a tier. -/
theorem Keeps.filterMem {s t : State} {p q : Nat × Blk → Bool} (h : Keeps s0 s) (ea : t.mem.a = s.mem.a ∨ t.mem.a = s.mem.a.filter p)
    (eb : t.mem.b = s.mem.b ∨ t.mem.b = s.mem.b.filter q)
    (e : { t with mem := s.mem }.keptPart = s.keptPart) : Keeps s0 t := by
  have h1 : Keeps s0 { t with mem := s.mem } := .upd h e
  refine ⟨h1.pending, h1.fixed, h1.content, h1.version, fun d => ?_⟩
  have d1 := h1.dram d
  simp only [State.dramWf, Bool.and_eq_true] at d1 ⊢
  refine ⟨⟨?_, ?_⟩, d1.2⟩
  · rcases ea with ea | ea <;> rw [ea]
    · exact d1.1.1
    · exact blksWf_filter p d1.1.1
  · rcases eb with eb | eb <;> rw [eb]
    · exact d1.1.2
    · exact blksWf_filter q d1.1.2

theorem State.scrubUnit_keeps (h : Keeps s0 s) : Keeps s0 (State.scrubUnit s a2 a3) := by
  unfold State.scrubUnit
  extract_lets tb gone z s1 z2 s2
  have h1 : Keeps s0 s1 := by
    refine .filterMem h (p := fun kv => !gone kv.1) (q := fun kv => !gone kv.1) ?_ ?_ rfl
    · unfold s1; dsimp only; split
      · exact .inl rfl
      · exact .inr rfl
    · unfold s1; dsimp only; split
      · exact .inr rfl
      · exact .inl rfl
  refine .ite h1 ?_
  have h2 : Keeps s0 s2 := State.setUnit_keeps h1
  exact .ite (State.mapOut_keeps h2) h2

theorem State.scrubRemoved_keeps (h : Keeps s0 s) : Keeps s0 (State.scrubRemoved s a2 a3 a4) := by
  unfold State.scrubRemoved
  extract_lets +onlyGivenNames s1
  have h1 : Keeps s0 s1 := .foldl h fun _ _ h3 => (State.scrubUnit_keeps h3)
  clear_value s1
  extract_lets +onlyGivenNames s2
  have h2 : Keeps s0 s2 := .foldl h1 fun _ _ h4 => (State.scrubUnit_keeps h4)
  clear_value s2
  extract_lets +onlyGivenNames s3
  have h3 : Keeps s0 s3 := .foldl h2 fun _ _ h5 => (State.clearPod_keeps h5)
  clear_value s3
  exact .upd h3 (by simp only [State.keptPart])

theorem State.freeHull_keeps (h : Keeps s0 s) : Keeps s0 (State.freeHull s a2 a3 a4) := by
  unfold State.freeHull
  extract_lets +onlyGivenNames x1 x2 x3 s4
  have h4 : Keeps s0 s4 := State.dropCalls_keeps h
  clear_value s4
  extract_lets +onlyGivenNames s5
  have h5 : Keeps s0 s5 := .foldl h4 fun _ _ h7 => (State.scrubRemoved_keeps h7)
  clear_value s5
  extract_lets +onlyGivenNames s6
  have h6 : Keeps s0 s6 := .foldl h5 fun _ _ h8 => (State.setPod_keeps h8)
  clear_value s6
  extract_lets +onlyGivenNames x7 s8
  have h8 : Keeps s0 s8 := .upd h6 (by simp only [State.keptPart]; rfl)
  clear_value s8
  extract_lets +onlyGivenNames x9 s10
  have h10 : Keeps s0 s10 := .upd h8 (by simp only [State.keptPart]; rfl)
  clear_value s10
  extract_lets +onlyGivenNames x11 s12
  have h12 : Keeps s0 s12 := State.setHull_keeps h10
  clear_value s12
  exact .foldl h12 fun _ _ h13 => (State.returnLoan_keeps h13)

theorem State.gatherSteps_keeps (h : Keeps s0 s) : Keeps s0 (State.gatherSteps s a2 a3) := by
  unfold State.gatherSteps
  repeat' first
    | with_reducible assumption
    | with_reducible refine State.sendHeld_keeps ?_
    | with_reducible refine Keeps.ite ?_ ?_
    | with_reducible refine Keeps.foldl ?_ fun _ _ _ => ?_

theorem State.timeCfgErr_keeps (h : Keeps s0 s) : Keeps s0 (State.timeCfgErr s) := by
  unfold State.timeCfgErr
  exact State.event_keeps h

theorem State.gtcSet_keeps (h : Keeps s0 s) : Keeps s0 (State.gtcSet s a2) := by
  unfold State.gtcSet
  extract_lets +onlyGivenNames x1
  split
  · exact .ite (State.timeCfgErr_keeps h) (State.rootLock_keeps (.upd h (by simp only [State.keptPart])))
  · exact .ite (State.timeCfgErr_keeps h) (State.rootLock_keeps (.upd h (by simp only [State.keptPart])))
  · exact State.timeCfgErr_keeps h
  · exact State.timeCfgErr_keeps h

theorem State.slot_keeps (h : Keeps s0 s) (hf6 : ∀ y1, Keeps s0 y1 → Keeps s0 (f6 y1)) : Keeps s0 (State.slot s a2 a3 a4 a5 f6) :=
    by
  unfold State.slot
  repeat' first
    | with_reducible assumption
    | with_reducible refine hf6 _ ?_
    | with_reducible refine State.setTile_keeps ?_
    | with_reducible refine State.contract_keeps ?_
    | with_reducible refine Keeps.ite ?_ ?_

theorem State.guarded_keeps (h : Keeps s0 s) (hf7 : (∀ y1, Keeps s0 y1 → Keeps s0 (f7 y1))) : Keeps s0 (State.guarded s a2 a3 a4 a5
    a6 f7) := by
  unfold State.guarded
  exact State.slot_keeps h (fun _ h1 => (.ite (hf7 _ h1) h1))

theorem State.tornWrite_keeps (h : Keeps s0 s) : Keeps s0 (State.tornWrite s a2 a3 a4 a5) := by
  unfold State.tornWrite
  extract_lets -underBinder +onlyGivenNames go
  have hn : Keeps s0 (s.doWrite a2 a3 a4 a5 .ok).1 := State.doWrite_keeps h
  have hg : ∀ tb b, Keeps s0 (go tb b) := by
    intro tb b
    refine .foldl h fun s wb h => ?_
    generalize (s.hull a3).find tb wb = o
    cases o with
    | none => exact h
    | some u =>
      have hf : Keeps s0 s.free.2 := State.free_keeps h
      dsimp only
      split
      · exact hf
      · exact State.setBlk_keeps hf fun d => State.blk_wf (hn.dram d) _ _
      · exact State.setBlk_keeps hf fun d => State.blk_wf (hn.dram d) tb _
  clear_value go
  split
  · exact hg _ _
  · exact hg _ _
  · exact h

theorem State.tornWrites_keeps (h : Keeps s0 s) : Keeps s0 (State.tornWrites s a2) := by
  unfold State.tornWrites
  split
  · exact .foldl h fun _ _ h1 => (.foldl h1 fun _ _ h2 => (State.tornWrite_keeps h2))
  · exact h

theorem State.hangFreeze_keeps (h : Keeps s0 s) : Keeps s0 (State.hangFreeze s a2 a3) := by
  unfold State.hangFreeze
  extract_lets +onlyGivenNames x1 x2 x3 x4 x5 s6
  have h6 : Keeps s0 s6 := by
    unfold s6
    refine .foldl h fun _ _ h8 => ?_
    extract_lets +onlyGivenNames s9
    have h9 : Keeps s0 s9 := by
      unfold s9
      exact State.tornWrites_keeps h8
    clear_value s9
    extract_lets +onlyGivenNames s10
    have h10 : Keeps s0 s10 := by
      unfold s10
      exact .ite (State.ckptFail_keeps h9) h9
    clear_value s10
    extract_lets +onlyGivenNames x11 s12
    have h12 : Keeps s0 s12 := by
      unfold s12
      exact State.setHull_keeps h10
    clear_value s12
    exact State.stopHull_keeps h12
  clear_value s6
  extract_lets +onlyGivenNames s7
  have h7 : Keeps s0 s7 := by
    unfold s7
    exact State.setReg_keeps (State.setReg_keeps h6)
  clear_value s7
  extract_lets +onlyGivenNames x8 s9
  have h9 : Keeps s0 s9 := by
    unfold s9
    exact State.log1_keeps h7
  clear_value s9
  extract_lets +onlyGivenNames x10 s11
  have h11 : Keeps s0 s11 := by
    unfold s11
    exact .upd h9 (by simp only [State.keptPart])
  clear_value s11
  exact .ite (State.event_keeps (.upd h11 (by simp only [State.keptPart]))) h11

theorem State.hangOther_keeps (h : Keeps s0 s) : Keeps s0 (State.hangOther s a2) := by
  unfold State.hangOther
  split
  · extract_lets +onlyGivenNames x1 x2 x3 x4 s5
    have h5 : Keeps s0 s5 := .ite (State.setReg_keeps h) h
    clear_value s5
    extract_lets +onlyGivenNames x6
    exact .upd h5 (by simp only [State.keptPart])
  · exact h

theorem State.hear_keeps (h : Keeps s0 s) : Keeps s0 (State.hear s a2) := by
  unfold State.hear
  exact .upd h (by simp only [State.keptPart])

theorem State.hshareWrite_keeps (h : Keeps s0 s) : Keeps s0 (State.hshareWrite s a2 a3) := by
  unfold State.hshareWrite
  extract_lets +onlyGivenNames x1 x2 x3 x4
  exact .ite (State.event_keeps h) (State.setHull_keeps h)

theorem State.hullCfgWrite_keeps (h : Keeps s0 s) : Keeps s0 (State.hullCfgWrite s a2) := by
  unfold State.hullCfgWrite
  extract_lets +onlyGivenNames x1 x2
  exact .ite (State.setReg_keeps h) (State.event_keeps h)

theorem State.huskFound_keeps (h : Keeps s0 s) : Keeps s0 (State.huskFound s a2 a3 a4 a5 a6) := by
  unfold State.huskFound
  repeat' first
    | with_reducible refine State.regSat_keeps ?_
    | with_reducible refine State.log1_keeps ?_
    | with_reducible refine State.event_keeps ?_
    | with_reducible exact Keeps.put rfl rfl rfl rfl (by assumption)
    | split

theorem State.icCtlWrite_keeps (h : Keeps s0 s) : Keeps s0 (State.icCtlWrite s a2 a3) := by
  unfold State.icCtlWrite
  extract_lets +onlyGivenNames x1 s2
  have h2 : Keeps s0 s2 := State.setCore_keeps h
  clear_value s2
  extract_lets +onlyGivenNames s3
  have h3 : Keeps s0 s3 := .foldl h2 fun _ _ h5 => (.ite (State.setIrq_keeps h5) h5)
  clear_value s3
  exact State.icLatch_keeps h3

theorem State.withdraw_keeps (h : Keeps s0 s) : Keeps s0 (State.withdraw s a2) := by
  unfold State.withdraw
  exact State.setIrq_keeps h

theorem State.icSrcWrite_keeps (h : Keeps s0 s) : Keeps s0 (State.icSrcWrite s a2 a3) := by
  unfold State.icSrcWrite
  extract_lets +onlyGivenNames x1 x2 x3 s4
  have h4 : Keeps s0 s4 := State.icLatch_keeps (State.setIrq_keeps h)
  clear_value s4
  extract_lets +onlyGivenNames s5
  have h5 : Keeps s0 s5 := .ite (State.withdraw_keeps h4) h4
  clear_value s5
  exact .ite (State.signal_keeps h5) h5

theorem State.w1cView_keeps (h : Keeps s0 s) : Keeps s0 (State.w1cView s a2 a3 a4 a5) := by
  unfold State.w1cView
  split
  · extract_lets +onlyGivenNames x1
    exact State.setTile_keeps h
  · extract_lets +onlyGivenNames x1
    exact State.setTile_keeps h
  · exact .ite (State.setHull_keeps h) h
  · exact .ite (State.setHull_keeps h) h
  · exact .ite (State.setPod_keeps h) h
  · exact .ite (State.setCore_keeps h) h
  · exact h

theorem State.icWrite_keeps (h : Keeps s0 s) : Keeps s0 (State.icWrite s a2 a3 a4 a5) := by
  unfold State.icWrite
  split
  · exact State.complete_keeps h
  · exact State.icCtlWrite_keeps h
  · exact State.w1cView_keeps h
  · exact State.icSrcWrite_keeps h
  · exact State.icSrcWrite_keeps h
  · exact h

theorem State.landGather_keeps (h : Keeps s0 s) : Keeps s0 (State.landGather s a2 a3) := by
  unfold State.landGather
  extract_lets +onlyGivenNames x1
  refine .ite h ?_
  split
  · exact State.placePiece_keeps h
  · exact h

theorem State.leakNow_keeps (h : Keeps s0 s) : Keeps s0 (State.leakNow s) := by
  unfold State.leakNow
  exact State.event_keeps (State.envRec_keeps h)

theorem State.tickSlip_keeps (h : Keeps s0 s) : Keeps s0 (State.tickSlip s a2 a3 a4) := by
  unfold State.tickSlip
  split
  · extract_lets +onlyGivenNames x1 x2 x3 x4 x5 s6
    have h6 : Keeps s0 s6 := State.setHull_keeps h
    clear_value s6
    exact .ite (State.event_keeps h6) h6
  · exact h

theorem State.openTick_keeps (h : Keeps s0 s) : Keeps s0 (State.openTick s a2 a3) := by
  unfold State.openTick
  extract_lets +onlyGivenNames x1 s2
  have h2 : Keeps s0 s2 := by
    unfold s2
    exact State.setHull_keeps h
  clear_value s2
  extract_lets +onlyGivenNames x3 x4 s5
  have h5 : Keeps s0 s5 := by
    unfold s5
    refine .foldl h2 fun _ _ h7 => ?_
    extract_lets +onlyGivenNames s8
    have h8 : Keeps s0 s8 := by
      unfold s8
      exact State.updTile_keeps h7
    clear_value s8
    exact .ite (State.reseed_keeps h8) (State.reseedPoint_keeps h8)
  clear_value s5
  extract_lets +onlyGivenNames s6
  have h6 : Keeps s0 s6 := by
    unfold s6
    exact .foldl h5 fun _ _ h8 => (State.setPod_keeps h8)
  clear_value s6
  extract_lets +onlyGivenNames x7 s8
  have h8 : Keeps s0 s8 := by
    unfold s8
    exact .upd h6 (by simp only [State.keptPart])
  clear_value s8
  exact State.evalLevels_keeps (State.evalLevels_keeps (State.accrueScrub_keeps h8))

theorem huskList_keeps (h : Keeps s0 s) : Keeps s0 (huskList a1 a2 a3 a4 l s).1 := by
  induction l generalizing s with
  | nil => exact h
  | cons i r ih =>
    unfold huskList
    split
    · next e => exact ih (Keeps.ofPair e (State.checkBlk_keeps h))
    · next e => exact ih (Keeps.ofPair e (State.checkBlk_keeps h))

theorem State.regionDigest_keeps (h : Keeps s0 s) : Keeps s0 (State.regionDigest s a2 a3 a4).1 := by
  unfold State.regionDigest
  refine .foldl1 h fun p id h => ?_
  split
  · dsimp only
    split
    · exact State.huskStop_keeps (huskList_keeps h)
    · exact huskList_keeps h
  · exact h

theorem State.rankLost_keeps (h : Keeps s0 s) : Keeps s0 (State.rankLost s a2 a3) := by
  unfold State.rankLost
  split
  · refine .ite (.ite h (.foldl h fun _ _ h1 => (State.shardState_keeps h1))) ?_
    refine .ite h ?_
    refine .foldl h fun _ _ h1 => ?_
    split
    · extract_lets +onlyGivenNames s2
      have h2 : Keeps s0 s2 := State.shardState_keeps h1
      clear_value s2
      exact .ite h2 (State.setHull_keeps h2)
    · exact h1
  · exact h

theorem State.groupLoses_keeps (h : Keeps s0 s) : Keeps s0 (State.groupLoses s a2 a3 a4 a5) := by
  unfold State.groupLoses
  repeat' first
    | with_reducible assumption
    | with_reducible refine State.event_keeps ?_
    | with_reducible refine State.setGroup_keeps ?_

theorem State.replayReforms_keeps (h : Keeps s0 s) : Keeps s0 (State.replayReforms s a2) := by
  unfold State.replayReforms
  repeat' first
    | with_reducible refine State.rankLost_keeps ?_
    | with_reducible refine State.groupLoses_keeps ?_
    | with_reducible refine Keeps.ite ?_ ?_
    | with_reducible refine Keeps.foldl ?_ fun _ _ _ => ?_
    | with_reducible exact Keeps.put rfl rfl rfl rfl (by assumption)
    | split

theorem State.openStep_keeps (h : Keeps s0 s) : Keeps s0 (State.openStep s a2) := by
  unfold State.openStep
  repeat' first
    | (extract_lets +onlyGivenNames x; ((refine Keeps.cut (P := Keeps s0 x) ?_ fun _ => ?_) <;> [(unfold x; rename' x => y); (try clear_value x; rename' x => y)]))
    | (extract_lets +onlyGivenNames x; ((refine Keeps.cut (P := Keeps s0 x.1) ?_ fun _ => ?_) <;> [(unfold x; rename' x => y); (try clear_value x; rename' x => y)]))
    | with_reducible refine State.replayReforms_keeps ?_
    | with_reducible refine State.regionDigest_keeps ?_
    | with_reducible refine State.updTile_keeps ?_
    | with_reducible refine State.setHull_keeps ?_
    | with_reducible refine State.openTick_keeps ?_
    | with_reducible refine Keeps.foldl ?_ fun _ _ _ => ?_
    | with_reducible exact Keeps.put rfl rfl rfl rfl (by assumption)
    | split

theorem State.openWindow_keeps (h : Keeps s0 s) : Keeps s0 (State.openWindow s a2) := by
  unfold State.openWindow
  split
  · split
    · extract_lets +onlyGivenNames x1 x2 s3
      have h3 : Keeps s0 s3 := State.setHull_keeps h
      clear_value s3
      exact State.openTick_keeps h3
    · exact State.openStep_keeps h
  · exact h

theorem State.putRecord_keeps (h : Keeps s0 s) : Keeps s0 (State.putRecord s a2 a3 a4 a5) := by
  unfold State.putRecord
  repeat' first
    | with_reducible assumption
    | with_reducible refine State.stopIfLost_keeps ?_
    | with_reducible refine State.winWrite_keeps ?_

theorem State.logHold_keeps (h : Keeps s0 s) : Keeps s0 (State.logHold s a2) := by
  unfold State.logHold
  repeat' first
    | (extract_lets +onlyGivenNames x; (try clear_value x); rename' x => y)
    | with_reducible refine State.event_keeps ?_
    | with_reducible refine State.setHull_keeps ?_
    | with_reducible exact Keeps.put rfl rfl rfl rfl (by assumption)
    | split

theorem State.logFreed_keeps (h : Keeps s0 s) : Keeps s0 (State.logFreed s a2) := by
  unfold State.logFreed
  repeat' first
    | with_reducible assumption
    | with_reducible refine State.setHull_keeps ?_

theorem State.leaveBoundary_keeps (h : Keeps s0 s) : Keeps s0 (State.leaveBoundary s a2) := by
  unfold State.leaveBoundary
  repeat' first
    | (extract_lets +onlyGivenNames x; ((refine Keeps.cut (P := Keeps s0 x) ?_ fun _ => ?_) <;> [(unfold x; rename' x => y); (try clear_value x; rename' x => y)]))
    | (extract_lets +onlyGivenNames x; (try clear_value x); rename' x => y)
    | with_reducible refine State.logHold_keeps ?_
    | with_reducible refine State.putRecord_keeps ?_
    | with_reducible refine State.setHull_keeps ?_
    | with_reducible refine State.openWindow_keeps ?_
    | with_reducible refine State.logFreed_keeps ?_
    | with_reducible refine State.tickSlip_keeps ?_
    | with_reducible exact Keeps.put rfl rfl rfl rfl (by assumption)
    | split

theorem blksWf_moveBlocks {t : Tbl Blk} (per src dst : Nat) (h : blksWf t = true) : blksWf (moveBlocks per src dst t) = true := by
  have hall : (t.filter fun kv => kv.1 / per == src).all (fun kv => twf 0 kv.2.data) = true := by
    have := blksWf_filter (fun kv => kv.1 / per == src) h
    simp only [blksWf, Bool.and_eq_true] at this
    exact this.2
  unfold moveBlocks
  generalize (t.filter fun kv => kv.1 / per == src) = l at hall
  have h0 := blksWf_filter (fun kv => kv.1 / per != src && kv.1 / per != dst) h
  generalize (t.filter fun kv => kv.1 / per != src && kv.1 / per != dst) = u at h0
  induction l generalizing u with
  | nil => exact h0
  | cons x r ih =>
    rw [List.all_cons, Bool.and_eq_true] at hall
    exact ih hall.2 _ (blksWf_tset h0 hall.1)

theorem State.mapOutCopied_keeps (h : Keeps s0 s) : Keeps s0 (State.mapOutCopied s a2 a3) := by
  unfold State.mapOutCopied
  extract_lets tb per old x re m marks s1 fix y s2 r z s3
  have h1 : Keeps s0 s1 := by
    have h2 : Keeps s0 { s1 with mem := s.mem } := .upd h rfl
    refine ⟨h2.pending, h2.fixed, h2.content, h2.version, fun d => ?_⟩
    have d1 := h2.dram d
    simp only [State.dramWf, Bool.and_eq_true] at d1 ⊢
    refine ⟨⟨?_, ?_⟩, d1.2⟩
    · show blksWf (if tb then m.a else moveBlocks per old a3 m.a) = true
      split
      · exact d1.1.1
      · exact blksWf_moveBlocks _ _ _ d1.1.1
    · show blksWf (if tb then moveBlocks per old a3 m.b else m.b) = true
      split
      · exact blksWf_moveBlocks _ _ _ d1.1.2
      · exact d1.1.2
  have h2 : Keeps s0 s2 := State.setHull_keeps h1
  have h3 : Keeps s0 s3 := State.setUnit_keeps h2
  exact State.mapOut_keeps h3

theorem State.mapOutNext_keeps (h : Keeps s0 s) : Keeps s0 (State.mapOutNext a1 s) := by
  induction a1 generalizing s with
  | zero => exact h
  | succ n ih =>
    unfold State.mapOutNext
    split
    · exact ih (State.mapOutStart_keeps (.upd h rfl))
    · exact h

theorem State.markSeen_keeps (h : Keeps s0 s) : Keeps s0 (State.markSeen s a2) := by
  unfold State.markSeen
  extract_lets +onlyGivenNames x1 x2
  exact .upd h (by simp only [State.keptPart])

theorem State.measureBoot_keeps (h : Keeps s0 s) : Keeps s0 (State.measureBoot s a2) := by
  unfold State.measureBoot
  extract_lets +onlyGivenNames x1 x2
  exact .foldl h fun _ _ h3 => (State.extend_keeps h3)

theorem State.nmuEnd_keeps (h : Keeps s0 s) : Keeps s0 (State.nmuEnd s a2 a3) := by
  unfold State.nmuEnd
  split
  · exact State.descDone_keeps h
  · exact h

theorem Keeps.foldSt {α : Type} {f : Parts → α → Parts} {l : List α} {p : Parts} (h : Keeps s0 p.st)
    (k : ∀ p x, Keeps s0 p.st → Keeps s0 (f p x).st) : Keeps s0 (l.foldl f p).st := by
  induction l generalizing p with
  | nil => exact h
  | cons x r ih => exact ih (k p x h)

theorem Keeps.foldSt1 {α β : Type} {f : Parts × β → α → Parts × β} {l : List α} {p : Parts × β} (h : Keeps s0 p.1.st)
    (k : ∀ p x, Keeps s0 p.1.st → Keeps s0 (f p x).1.st) : Keeps s0 (l.foldl f p).1.st := by
  induction l generalizing p with
  | nil => exact h
  | cons x r ih => exact ih (k p x h)

theorem Parts.fail_keeps (h1 : Keeps s0 p1.st) : Keeps s0 (Parts.fail p1 a2 a3 a4 a5 a6).st := by
  unfold Parts.fail
  repeat' first
    | with_reducible assumption
    | with_reducible refine State.huskFail_keeps ?_

theorem State.parts_keeps (h : Keeps s0 s) : Keeps s0 (State.parts s).st := by
  unfold State.parts
  repeat' first
    | with_reducible assumption

theorem State.partStop_keeps (h : Keeps s0 s) : Keeps s0 (State.partStop s a2 a3) := by
  unfold State.partStop
  repeat' first
    | with_reducible assumption
    | with_reducible refine State.raise_keeps ?_
    | with_reducible refine State.stopHull_keeps ?_
    | with_reducible refine Keeps.ite ?_ ?_

theorem Parts.close_keeps (h1 : Keeps s0 p1.st) : Keeps s0 (Parts.close p1 a2) := by
  unfold Parts.close
  repeat' first
    | with_reducible assumption
    | with_reducible refine State.partStop_keeps ?_
    | with_reducible refine State.nmuEnd_keeps ?_

theorem State.nmuHusk_keeps (h : Keeps s0 s) : Keeps s0 (State.nmuHusk s a2 a3 a4 a5) := by
  unfold State.nmuHusk
  repeat' first
    | with_reducible assumption
    | with_reducible refine Parts.close_keeps ?_
    | with_reducible refine Parts.fail_keeps ?_
    | with_reducible refine State.parts_keeps ?_

theorem State.nmuReturn_keeps (h : Keeps s0 s) : Keeps s0 (State.nmuReturn s a2 a3) := by
  unfold State.nmuReturn
  split
  · exact State.updTile_keeps h
  · exact h

theorem State.takeInbox_keeps (h : Keeps s0 s) : Keeps s0 (State.takeInbox s a2) := by
  unfold State.takeInbox
  exact .upd h (by simp only [State.keptPart])

theorem State.nmuTake_keeps (h : Keeps s0 s) : Keeps s0 (State.nmuTake s a2) := by
  unfold State.nmuTake
  split
  · exact State.updTile_keeps h
  · exact State.takeInbox_keeps h

theorem State.countStale_keeps (h : Keeps s0 s) : Keeps s0 (State.countStale s a2) := by
  unfold State.countStale
  repeat' first
    | with_reducible assumption
    | with_reducible refine State.setHull_keeps ?_

theorem State.nmuRun_keeps (h : Keeps s0 s) (hf4 : ∀ y1, Keeps s0 y1 → ∀ y2, ∀ y3, ∀ y4, ∀ y5, Keeps s0 (f4 y1 y2 y3 y4 y5)) :
    Keeps s0 (State.nmuRun s a2 a3 f4) := by
  unfold State.nmuRun
  repeat' first
    | with_reducible refine hf4 _ ?_ _ _ _ _
    | with_reducible refine State.event_keeps ?_
    | with_reducible refine State.nmuTake_keeps ?_
    | with_reducible refine State.countStale_keeps ?_
    | with_reducible exact Keeps.put rfl rfl rfl rfl (by assumption)
    | split

theorem State.outOfService_keeps (h : Keeps s0 s) : Keeps s0 (State.outOfService s) := by
  unfold State.outOfService
  exact State.event_keeps (.upd h (by simp only [State.keptPart]))

theorem State.setShard_keeps (h : Keeps s0 s) : Keeps s0 (State.setShard s a2 a3) := by
  unfold State.setShard
  exact State.setHull_keeps h

theorem State.twinCompare_keeps (h : Keeps s0 s) : Keeps s0 (State.twinCompare s a2 a3 a4) := by
  unfold State.twinCompare
  split
  · split
    · refine .ite h ?_
      refine .ite ?_ ?_
      · split
        · extract_lets +onlyGivenNames x1 x2
          exact .ite (.foldl h fun _ _ h3 => (State.shardState_keeps h3)) h
        · exact h
      · split
        · exact State.shardState_keeps (State.event_keeps h)
        · extract_lets +onlyGivenNames s1
          have h1 : Keeps s0 s1 := State.event_keeps h
          clear_value s1
          extract_lets +onlyGivenNames s2
          have h2 : Keeps s0 s2 := State.setShard_keeps h1
          clear_value s2
          extract_lets +onlyGivenNames x3
          exact .ite (State.shardState_keeps h2) (State.shardState_keeps h2)
        · exact h
    · exact h
  · exact h

theorem State.twinDigests_keeps (h : Keeps s0 s) : Keeps s0 (State.twinDigests s a2 a3) := by
  unfold State.twinDigests
  split
  · refine .foldl h fun _ _ h1 => ?_
    split
    · extract_lets +onlyGivenNames x2
      refine .ite (State.regionDigest_keeps h1) ?_
      extract_lets +onlyGivenNames s3
      have h3 : Keeps s0 s3 := State.setShard_keeps (State.regionDigest_keeps h1)
      clear_value s3
      extract_lets +onlyGivenNames s4
      have h4 : Keeps s0 s4 := by
        unfold s4
        split
        · exact State.sendPrivBody_keeps h3
        · exact h3
      clear_value s4
      exact State.twinCompare_keeps h4
    · exact h1
  · exact h

theorem State.twinBoundary_keeps (h : Keeps s0 s) : Keeps s0 (State.twinBoundary s a2) := by
  unfold State.twinBoundary
  split
  · extract_lets +onlyGivenNames x1 x2 s3
    have h3 : Keeps s0 s3 := .ite (.foldl h fun _ _ h5 => (State.shardState_keeps h5)) h
    clear_value s3
    exact State.setHull_keeps h3
  · exact h

theorem State.trailers_keeps (h : Keeps s0 s) : Keeps s0 (State.trailers s a2 a3) := by
  unfold State.trailers
  extract_lets +onlyGivenNames x1
  refine .ite h ?_
  extract_lets +onlyGivenNames x2 x3 x4
  exact .foldl (State.regionDigest_keeps h) fun _ _ h5 => (State.collWrite_keeps h5)

theorem State.writeStepRecord_keeps (h : Keeps s0 s) : Keeps s0 (State.writeStepRecord s a2) := by
  unfold State.writeStepRecord
  repeat' first
    | (extract_lets +onlyGivenNames x; ((refine Keeps.cut (P := Keeps s0 x) ?_ fun _ => ?_) <;> [(unfold x; rename' x => y); (try clear_value x; rename' x => y)]))
    | (extract_lets +onlyGivenNames x; ((refine Keeps.cut (P := Keeps s0 x.1) ?_ fun _ => ?_) <;> [(unfold x; rename' x => y); (try clear_value x; rename' x => y)]))
    | with_reducible refine State.regionDigest_keeps ?_
    | with_reducible refine State.putRecord_keeps ?_
    | with_reducible refine State.setHull_keeps ?_
    | with_reducible refine State.trailers_keeps ?_
    | with_reducible refine Keeps.ite ?_ ?_
    | with_reducible exact Keeps.put rfl rfl rfl rfl (by assumption)
    | split

theorem State.passBoundary_keeps (h : Keeps s0 s) : Keeps s0 (State.passBoundary s a2) := by
  unfold State.passBoundary
  repeat' first
    | (extract_lets +onlyGivenNames x; ((refine Keeps.cut (P := Keeps s0 x) ?_ fun _ => ?_) <;> [(unfold x; rename' x => y); (try clear_value x; rename' x => y)]))
    | (extract_lets +onlyGivenNames x; (try clear_value x); rename' x => y)
    | with_reducible refine State.writeStepRecord_keeps ?_
    | with_reducible refine State.twinBoundary_keeps ?_
    | with_reducible refine State.twinDigests_keeps ?_
    | with_reducible refine State.ckptCut_keeps ?_
    | with_reducible refine State.setHull_keeps ?_
    | with_reducible refine State.raise_keeps ?_
    | with_reducible refine State.stopHull_keeps ?_
    | with_reducible refine State.setGen_keeps ?_
    | with_reducible refine State.recordBoundary_keeps ?_
    | with_reducible refine State.markUndo_keeps ?_
    | with_reducible exact Keeps.put rfl rfl rfl rfl (by assumption)
    | split

theorem State.passDecision_keeps (h : Keeps s0 s) : Keeps s0 (State.passDecision s a2 a3 a4) := by
  unfold State.passDecision
  exact .ite (State.sendPriv_keeps h) (.foldl h fun _ _ h1 => (State.sendPriv_keeps h1))

theorem State.passSetting_keeps (h : Keeps s0 s) : Keeps s0 (State.passSetting s a2 a3 a4) := by
  unfold State.passSetting
  extract_lets +onlyGivenNames s1
  have h1 : Keeps s0 s1 := by
    unfold s1
    split
    · exact .foldl h fun _ _ h3 => (State.sendPriv_keeps h3)
    · exact h
  clear_value s1
  split
  · split
    · refine .ite ?_ h1
      split
      · exact State.sendPriv_keeps h1
      · exact h1
    · exact h1
  · exact h1

theorem State.probeFail_keeps (h : Keeps s0 s) : Keeps s0 (State.probeFail s a2 a3) := by
  unfold State.probeFail
  extract_lets +onlyGivenNames x1 s2
  have h2 : Keeps s0 s2 := State.log1_keeps h
  clear_value s2
  extract_lets +onlyGivenNames s3
  have h3 : Keeps s0 s3 := State.event_keeps h2
  clear_value s3
  extract_lets +onlyGivenNames x4 s5
  have h5 : Keeps s0 s5 := .ite (.upd h3 (by simp only [State.keptPart])) (State.bypassPod_keeps h3)
  clear_value s5
  exact State.probeEnd_keeps h5

theorem State.probePass_keeps (h : Keeps s0 s) : Keeps s0 (State.probePass s) := by
  unfold State.probePass
  extract_lets +onlyGivenNames x1
  refine .ite (State.probeEnd_keeps h) ?_
  extract_lets +onlyGivenNames x2
  refine .ite (State.probeEnd_keeps h) ?_
  extract_lets +onlyGivenNames s3
  have h3 : Keeps s0 s3 := State.clearPod_keeps h
  clear_value s3
  extract_lets +onlyGivenNames x4 x5 x6 s7
  have h7 : Keeps s0 s7 := State.setPod_keeps h3
  clear_value s7
  extract_lets +onlyGivenNames s8
  have h8 : Keeps s0 s8 := .ite (State.setHull_keeps h7) h7
  clear_value s8
  exact State.probeEnd_keeps h8

theorem State.proceed_keeps (h : Keeps s0 s) : Keeps s0 (State.proceed s a2) := by
  unfold State.proceed
  exact .ite (State.hullGrant_keeps h) (State.probePod_keeps h)

theorem State.rotateSteps_keeps (h : Keeps s0 s) : Keeps s0 (State.rotateSteps a1 a2 s) := by
  induction a2 generalizing s with
  | zero => exact h
  | succ n ih =>
    unfold State.rotateSteps
    extract_lets r k slot src s1 finish
    have h1 : Keeps s0 s1 := by
      unfold s1
      split
      · refine .ite (State.sendOnce_keeps h) (.ite h ?_)
        split
        · next e => exact State.sendOnce_keeps (Keeps.ofPair e (State.collTake_keeps h))
        · next e => exact Keeps.ofPair e (State.collTake_keeps h)
      · exact h
    have hf : ∀ s, Keeps s0 s → Keeps s0 (finish s) := fun s h =>
      .ite (State.collDone_keeps (State.setRun_keeps h)) (State.signalCounter_keeps (State.setRun_keeps h))
    clear_value finish s1 slot
    refine .ite h ?_
    split
    · exact ih (hf _ (State.collWrite_keeps h1))
    · dsimp only
      split
      · exact ih (hf _ (State.collWrite_keeps (State.collWrite_keeps h1)))
      · exact h1

theorem State.reduceSteps_keeps (h : Keeps s0 s) : Keeps s0 (State.reduceSteps s a2 a3) := by
  unfold State.reduceSteps
  refine .foldl h fun _ _ h1 => ?_
  split
  · extract_lets +onlyGivenNames x2 x3 x4 s5 s6
    have h5 : Keeps s0 s5 := State.setRun_keeps h1
    clear_value s5
    have h6 : Keeps s0 s6 := .ite h1 (.ite (State.event_keeps h5) h5)
    clear_value s6
    split
    · exact State.sendOnce_keeps h6
    · exact .ite (State.placePiece_keeps h6) h6
  · exact h1

theorem State.progressOp_keeps (h : Keeps s0 s) : Keeps s0 (State.progressOp s a2 a3) := by
  unfold State.progressOp
  split
  · exact h
  · refine .ite h ?_
    extract_lets -merge -useContext -underBinder +onlyGivenNames x1
    try clear_value x1
    extract_lets -merge -useContext -underBinder +onlyGivenNames s2
    have h2 : Keeps s0 s2 := by
      unfold s2
      split
      · exact .foldl h fun _ _ h4 => (State.gatherSteps_keeps (State.reduceSteps_keeps h4))
      · exact .foldl h fun _ _ h4 => (State.gatherSteps_keeps (State.reduceSteps_keeps h4))
      · extract_lets -merge -useContext -underBinder +onlyGivenNames x4
        try clear_value x4
        extract_lets -merge -useContext -underBinder +onlyGivenNames s5
        have h5 : Keeps s0 s5 := .ite (State.placePiece_keeps h) h
        clear_value s5
        exact .foldl h5 fun _ _ h6 => (State.gatherSteps_keeps h6)
      · exact .foldl h fun _ _ h4 => (State.gatherSteps_keeps (State.directSteps_keeps h4))
      · exact State.rotateSteps_keeps h
      · exact State.exactProgress_keeps h
    clear_value s2
    exact State.collComplete_keeps h2

theorem State.progressGroup_keeps (h : Keeps s0 s) : Keeps s0 (State.progressGroup s a2 a3) := by
  unfold State.progressGroup
  split
  · exact .foldl h fun _ _ h1 => (State.progressOp_keeps h1)
  · exact h

theorem State.rcfgWrite_keeps (h : Keeps s0 s) : Keeps s0 (State.rcfgWrite s a2 a3) := by
  unfold State.rcfgWrite
  extract_lets +onlyGivenNames x1 x2 x3
  split
  · exact .ite (State.setRing_keeps h) (.ite (State.setRing_keeps h) (State.cmdCfgErr_keeps h))
  · exact .ite (State.cmdCfgErr_keeps h) (.ite h (State.setRing_keeps h))
  · exact .ite (State.cmdCfgErr_keeps h) h
  · exact .ite (State.cmdCfgErr_keeps h) (.ite (.ite h (State.cmdCfgErr_keeps h)) (State.setRing_keeps h))

theorem State.readClear_keeps (h : Keeps s0 s) : Keeps s0 (State.readClear s a2 a3) := by
  unfold State.readClear
  repeat' first
    | (extract_lets +onlyGivenNames x; ((refine Keeps.cut (P := Keeps s0 x) ?_ fun _ => ?_) <;> [(unfold x; rename' x => y); (try clear_value x; rename' x => y)]))
    | with_reducible refine State.emit_keeps ?_
    | with_reducible refine State.claim_keeps ?_
    | with_reducible refine State.clearView_keeps ?_
    | with_reducible refine State.setReg_keeps ?_
    | with_reducible refine Keeps.ite ?_ ?_
    | with_reducible exact Keeps.put rfl rfl rfl rfl (by assumption)
    | split

theorem State.rstCfgErr_keeps (h : Keeps s0 s) : Keeps s0 (State.rstCfgErr s) := by
  unfold State.rstCfgErr
  exact State.event_keeps h

theorem State.warmRings_keeps (h : Keeps s0 s) : Keeps s0 (State.warmRings s) := by
  unfold State.warmRings
  exact State.hevent_keeps (.upd h (by simp only [State.keptPart]))

theorem State.readmitCmd_keeps (h : Keeps s0 s) : Keeps s0 (State.readmitCmd s) := by
  unfold State.readmitCmd
  exact .ite (State.warmRings_keeps (.upd h (by simp only [State.keptPart]))) (State.rstCfgErr_keeps h)

theorem Parts.wrote_keeps (h : Keeps s0 p.st) : Keeps s0 (Parts.wrote p).st := by
  unfold Parts.wrote
  split
  · exact .upd h rfl
  · exact h

theorem reducePart_keeps (h : Keeps s0 p.st) : Keeps s0 (reducePart a1 a2 a3 a4 p a6).st := by
  unfold reducePart
  extract_lets part put o
  have hp : ∀ s x, Keeps s0 s → Keeps s0 (put s x).st := by
    intro s x h
    exact Parts.wrote_keeps (State.writeRange_keeps (.ite (State.event_keeps h) h))
  clear_value put
  split
  · exact hp _ _ h
  · split
    · exact hp _ _ h
    · have ho : Keeps s0 o.st := State.readRange_keeps h
      clear_value o
      split
      · exact Parts.fail_keeps ho
      · exact hp _ _ ho

theorem State.reduceApply_keeps (h : Keeps s0 s) : Keeps s0 (State.reduceApply s a2 a3 a4 a5).st := by
  unfold State.reduceApply
  repeat' first
    | with_reducible assumption
    | with_reducible refine Keeps.foldSt ?_ fun _ _ _ => ?_
    | with_reducible refine reducePart_keeps ?_
    | with_reducible refine State.parts_keeps ?_

theorem State.reduceDone_keeps (h : Keeps s0 s) : Keeps s0 (State.reduceDone s a2 a3 a4) := by
  unfold State.reduceDone
  repeat' first
    | with_reducible refine State.descDone_keeps ?_
    | with_reducible refine State.twinFeed_keeps ?_
    | with_reducible refine Keeps.foldl ?_ fun _ _ _ => ?_
    | with_reducible exact Keeps.put rfl rfl rfl rfl (by assumption)
    | split

theorem State.reduceRun_keeps (h : Keeps s0 s) : Keeps s0 (State.reduceRun a1 a2 a3 s a5 a6).1 := by
  induction a3 generalizing s a5 a6 with
  | zero => exact h
  | succ n ih =>
    have ha : Keeps s0 (s.reduceApply a5 a1 a2 a6).1 := State.reduceApply_keeps h
    unfold State.reduceRun
    dsimp only
    split
    · exact ha
    · split
      · exact ih ha
      · exact ha

theorem State.reduceRefuse_keeps (h : Keeps s0 s) : Keeps s0 (State.reduceRefuse s a2 a3) := by
  unfold State.reduceRefuse
  extract_lets +onlyGivenNames x1 s2
  have h2 : Keeps s0 s2 := .ite (State.event_keeps (State.setHull_keeps h)) h
  clear_value s2
  split
  · exact State.nmuEnd_keeps h2
  · exact State.event_keeps h2

theorem Parts.residue_keeps (h1 : Keeps s0 p1.st) : Keeps s0 (Parts.residue p1 a2 a3).st := by
  unfold Parts.residue
  repeat' first
    | with_reducible assumption
    | with_reducible refine State.regSat_keeps ?_
    | with_reducible refine State.event_keeps ?_
    | with_reducible refine State.free_keeps ?_
    | with_reducible refine State.log1_keeps ?_

theorem State.reduceAt_keeps (h : Keeps s0 s) : Keeps s0 (State.reduceAt s a2 a3 a4 a5 a6 a7) := by
  unfold State.reduceAt
  repeat' first
    | (extract_lets +onlyGivenNames x; ((refine Keeps.cut (P := Keeps s0 x) ?_ fun _ => ?_) <;> [(unfold x; rename' x => y); (try clear_value x; rename' x => y)]))
    | (extract_lets +onlyGivenNames x; ((refine Keeps.cut (P := Keeps s0 x.1) ?_ fun _ => ?_) <;> [(unfold x; rename' x => y); (try clear_value x; rename' x => y)]))
    | with_reducible refine State.reduceRefuse_keeps ?_
    | with_reducible refine State.nmuTake_keeps ?_
    | with_reducible refine State.nmuHusk_keeps ?_
    | with_reducible refine Parts.close_keeps ?_
    | with_reducible refine Parts.residue_keeps ?_
    | with_reducible refine State.parts_keeps ?_
    | with_reducible refine State.reduceRun_keeps ?_
    | with_reducible refine State.partStop_keeps ?_
    | with_reducible refine State.nmuEnd_keeps ?_
    | with_reducible refine State.reduceDone_keeps ?_
    | with_reducible refine Keeps.ite ?_ ?_
    | with_reducible exact Keeps.put rfl rfl rfl rfl (by assumption)
    | split

theorem State.relay_keeps (h : Keeps s0 s) : Keeps s0 (State.relay s a2) := by
  unfold State.relay
  split
  · exact h
  · split
    · exact State.emit_keeps (State.regSat_keeps h)
    · exact .ite (State.regSat_keeps h) (State.offerPriv_keeps (State.regSat_keeps h))

theorem State.removePower_keeps (h : Keeps s0 s) : Keeps s0 (State.removePower s) := by
  unfold State.removePower
  extract_lets +onlyGivenNames s1
  have h1 : Keeps s0 s1 := .ite (State.emit_keeps h) h
  clear_value s1
  exact State.coldState_keeps (.upd h1 (by simp only [State.keptPart]))

theorem State.resend_keeps (h : Keeps s0 s) : Keeps s0 (State.resend s a2 a3 a4) := by
  unfold State.resend
  split
  · refine .foldl h fun _ _ h1 => ?_
    extract_lets +onlyGivenNames x2
    exact State.sendMsg_keeps (State.takeE2e_keeps h1)
  · exact h

theorem State.restartStep_keeps (h : Keeps s0 s) : Keeps s0 (State.restartStep s a2) := by
  unfold State.restartStep
  extract_lets +onlyGivenNames x1
  split
  · exact h
  · exact .ite h (.ite (State.stopHull_keeps h) (State.askResend_keeps (State.restartCore_keeps h)))

theorem State.result_keeps (h : Keeps s0 s) : Keeps s0 (State.result s a2 a3 a4 a5) := by
  unfold State.result
  exact State.updTile_keeps h

theorem State.rheadWrite_keeps (h : Keeps s0 s) : Keeps s0 (State.rheadWrite s a2 a3) := by
  unfold State.rheadWrite
  extract_lets +onlyGivenNames x1 s2
  have h2 : Keeps s0 s2 := State.setRing_keeps h
  clear_value s2
  exact .ite (State.ringFault_keeps h2) h2

theorem State.rstCfgWrite_keeps (h : Keeps s0 s) : Keeps s0 (State.rstCfgWrite s a2) := by
  unfold State.rstCfgWrite
  extract_lets +onlyGivenNames x1 x2
  exact .ite h (.ite (State.setReg_keeps h) (State.rstCfgErr_keeps h))

theorem State.warmResetCmd_keeps (h : Keeps s0 s) : Keeps s0 (State.warmResetCmd s a2) := by
  unfold State.warmResetCmd
  exact .ite (State.hangFreeze_keeps h) (State.rstCfgErr_keeps h)

theorem State.rstCtlWrite_keeps (h : Keeps s0 s) : Keeps s0 (State.rstCtlWrite s a2) := by
  unfold State.rstCtlWrite
  extract_lets +onlyGivenNames s1
  have h1 : Keeps s0 s1 := .ite (State.warmResetCmd_keeps h) h
  clear_value s1
  extract_lets +onlyGivenNames s2
  have h2 : Keeps s0 s2 := .ite (State.readmitCmd_keeps h1) h1
  clear_value s2
  exact .ite (State.capReleaseCmd_keeps h2) h2

theorem State.sC_keeps (h : Keeps s0 s) : Keeps s0 (State.sC s a2 a3 a4) := by
  unfold State.sC
  refine State.guarded_keeps h fun _ h1 => ?_
  extract_lets +onlyGivenNames x2
  exact State.result_keeps h1

theorem State.sI_keeps (h : Keeps s0 s) : Keeps s0 (State.sI s a2 a3 a4 a5) := by
  unfold State.sI
  exact State.guarded_keeps h (fun _ h1 => (State.result_keeps h1))

theorem State.sP_keeps (h : Keeps s0 s) : Keeps s0 (State.sP s a2 a3 a4) := by
  unfold State.sP
  refine State.guarded_keeps h fun _ h1 => ?_
  extract_lets +onlyGivenNames x2
  exact State.result_keeps h1

theorem State.sR_keeps (h : Keeps s0 s) : Keeps s0 (State.sR s a2 a3 a4 a5) := by
  unfold State.sR
  refine State.guarded_keeps h fun _ h1 => ?_
  extract_lets +onlyGivenNames x2
  exact State.result_keeps h1

theorem State.scrubOne_keeps (h : Keeps s0 s) : Keeps s0 (State.scrubOne s a2 a3 a4 a5 a6) := by
  unfold State.scrubOne
  repeat' first
    | (extract_lets +onlyGivenNames x; ((refine Keeps.cut (P := Keeps s0 x) ?_ fun _ => ?_) <;> [(unfold x; rename' x => y); (try clear_value x; rename' x => y)]))
    | (extract_lets +onlyGivenNames x; ((refine Keeps.cut (P := Keeps s0 x.2) ?_ fun _ => ?_) <;> [(unfold x; rename' x => y); (try clear_value x; rename' x => y)]))
    | (extract_lets +onlyGivenNames x; (try clear_value x); rename' x => y)
    | with_reducible refine State.memEcc_keeps ?_
    | with_reducible refine State.huskFound_keeps ?_
    | with_reducible refine Keeps.ite ?_ ?_
    | with_reducible exact Keeps.put rfl rfl rfl rfl (by assumption)

theorem State.secCfgWrite_keeps (h : Keeps s0 s) : Keeps s0 (State.secCfgWrite s a2) := by
  unfold State.secCfgWrite
  exact State.extend_keeps (State.setReg_keeps h)

theorem State.sendSegment_keeps (h : Keeps s0 s) : Keeps s0 (State.sendSegment s a2) := by
  unfold State.sendSegment
  repeat' first
    | with_reducible assumption
    | (extract_lets +onlyGivenNames x; ((refine Keeps.cut (P := Keeps s0 x) ?_ fun _ => ?_) <;> [(unfold x; rename' x => y); (try clear_value x; rename' x => y)]))
    | with_reducible refine State.setHull_keeps ?_
    | with_reducible refine State.drainAt_keeps ?_
    | with_reducible refine State.emit_keeps ?_
    | with_reducible refine Keeps.ite ?_ ?_
    | with_reducible refine Keeps.foldl ?_ fun _ _ _ => ?_

theorem State.serveResends_keeps (h : Keeps s0 s) : Keeps s0 (State.serveResends s a2) := by
  unfold State.serveResends
  extract_lets +onlyGivenNames x1 x2 s3
  have h3 : Keeps s0 s3 := State.setHull_keeps h
  clear_value s3
  exact .foldl h3 fun _ _ h4 => (State.resend_keeps h4)

theorem State.setTj_keeps (h : Keeps s0 s) : Keeps s0 (State.setTj s a2 a3) := by
  unfold State.setTj
  extract_lets +onlyGivenNames x1
  exact .upd h (by simp only [State.keptPart])

theorem State.shareFinals_keeps (h : Keeps s0 s) : Keeps s0 (State.shareFinals s a2 a3 a4 a5) := by
  unfold State.shareFinals
  repeat' first
    | with_reducible refine State.sendHeld_keeps ?_
    | with_reducible refine Keeps.foldl ?_ fun _ _ _ => ?_
    | with_reducible exact Keeps.put rfl rfl rfl rfl (by assumption)
    | split

theorem State.switchSpares_keeps (h : Keeps s0 s) : Keeps s0 (State.switchSpares s a2) := by
  unfold State.switchSpares
  extract_lets +onlyGivenNames x1 s2
  have h2 : Keeps s0 s2 := .foldl h fun _ _ h4 => (State.setUnitA_keeps h4)
  clear_value s2
  exact .ite h2 (State.regOr_keeps h2)

theorem State.wipeMove_keeps (h : Keeps s0 s) : Keeps s0 (State.wipeMove s a2 a3) := by
  unfold State.wipeMove
  extract_lets tb per keep z
  refine State.mapOutCopied_keeps (.filterMem h (p := fun kv => kv.1 / per != unitNo a2 && kv.1 / per != a3)
    (q := fun kv => kv.1 / per != unitNo a2 && kv.1 / per != a3) ?_ ?_ rfl)
  · dsimp only; split
    · exact .inl rfl
    · exact .inr rfl
  · dsimp only; split
    · exact .inr rfl
    · exact .inl rfl

theorem State.trainOut_keeps (h : Keeps s0 s) : Keeps s0 (State.trainOut s a2 a3) := by
  unfold State.trainOut
  extract_lets +onlyGivenNames x1
  refine .ite h ?_
  extract_lets +onlyGivenNames x2
  refine .ite ?_ (State.mapOut_keeps h)
  split
  · exact State.wipeMove_keeps (State.setUnit_keeps h)
  · split
    · exact State.wipeMove_keeps (State.setUnit_keeps h)
    · exact State.mapOutFail_keeps h

theorem State.trainUnits_keeps (h : Keeps s0 s) : Keeps s0 (State.trainUnits s a2 a3) := by
  unfold State.trainUnits
  extract_lets +onlyGivenNames x1 x2 x3 s4
  have h4 : Keeps s0 s4 := .upd h (by simp only [State.keptPart]; rfl)
  clear_value s4
  extract_lets +onlyGivenNames x5
  exact .foldl h4 fun _ _ h6 => (State.trainOut_keeps h6)

theorem State.train_keeps (h : Keeps s0 s) : Keeps s0 (State.train s a2) := by
  unfold State.train
  extract_lets +onlyGivenNames s1
  have h1 : Keeps s0 s1 := State.pickFw_keeps (State.trainUnits_keeps (State.switchSpares_keeps h))
  clear_value s1
  exact .upd h1 (by simp only [State.keptPart])

theorem State.startUp_keeps (h : Keeps s0 s) : Keeps s0 (State.startUp s a2) := by
  unfold State.startUp
  extract_lets +onlyGivenNames s1
  have h1 : Keeps s0 s1 := State.freshNonce_keeps (State.measureBoot_keeps h)
  clear_value s1
  extract_lets +onlyGivenNames x2 s3
  have h3 : Keeps s0 s3 := .upd h1 (by simp only [State.keptPart]; rfl)
  clear_value s3
  extract_lets +onlyGivenNames s4
  have h4 : Keeps s0 s4 := State.clearPods_keeps (State.train_keeps h3)
  clear_value s4
  extract_lets +onlyGivenNames x5 s6
  have h6 : Keeps s0 s6 := .foldl h4 fun _ _ h8 => (State.bypassPod_keeps h8)
  clear_value s6
  exact .upd h6 (by simp only [State.keptPart])

theorem State.takeSetting_keeps (h : Keeps s0 s) : Keeps s0 (State.takeSetting s a2 a3 a4) := by
  unfold State.takeSetting
  extract_lets +onlyGivenNames x1 s2
  have h2 : Keeps s0 s2 := State.setHull_keeps h
  clear_value s2
  split
  · refine .ite (State.setHull_keeps h2) ?_
    refine .ite (State.serveResends_keeps (State.restartStep_keeps (State.setGen_keeps h2))) ?_
    extract_lets +onlyGivenNames s3
    have h3 : Keeps s0 s3 := State.serveResends_keeps (State.setGen_keeps h2)
    clear_value s3
    exact .ite (State.askResend_keeps h3) h3
  · exact State.serveResends_keeps (State.setGen_keeps h2)

theorem State.tickCfg_keeps (h : Keeps s0 s) : Keeps s0 (State.tickCfg s a2) := by
  unfold State.tickCfg
  extract_lets +onlyGivenNames x1 s2
  have h2 : Keeps s0 s2 := State.setRegF_keeps h
  clear_value s2
  extract_lets +onlyGivenNames x3
  exact .ite (State.timeCfgErr_keeps h2) (State.setRegF_keeps h2)

theorem State.trigger_keeps (h : Keeps s0 s) : Keeps s0 (State.trigger s a2 a3) := by
  unfold State.trigger
  exact .ite (State.hangFreeze_keeps h) (.ite (State.hangOther_keeps h) h)

theorem State.updateWrite_keeps (h : Keeps s0 s) : Keeps s0 (State.updateWrite s a2 a3 a4 a5 a6 a7) := by
  unfold State.updateWrite
  extract_lets +onlyGivenNames x1 x2 s3
  have h3 : Keeps s0 s3 := State.writeRange_keeps h
  clear_value s3
  extract_lets +onlyGivenNames f4
  have h4 : ∀ y1, Keeps s0 y1 → ∀ y2, ∀ y3, Keeps s0 (f4 y1 y2 y3) := by
    intro _ h6 _ _
    unfold f4
    split
    · split
      · exact State.writeRange_keeps h6
      · exact h6
    · exact h6
  clear_value f4
  exact h4 _ (h4 _ h3 _ _) _ _

theorem State.v0_keeps (h : Keeps s0 s) : Keeps s0 (State.v0 s a2 a3 a4 a5 a6) := by
  unfold State.v0
  refine State.slot_keeps h fun _ h1 => ?_
  extract_lets +onlyGivenNames f2
  have h2 : ∀ y1, Keeps s0 y1 → Keeps s0 (f2 y1) := by
    intro _ h4
    unfold f2
    extract_lets +onlyGivenNames x5
    exact State.result_keeps h4
  clear_value f2
  exact .ite (State.charge_keeps h1 (fun _ h3 => (h2 _ h3))) (h2 _ h1)

theorem State.v0Map_keeps (h : Keeps s0 s) : Keeps s0 (State.v0Map s a2 a3 a4 a5 a6) := by
  unfold State.v0Map
  exact State.v0_keeps h

theorem State.v0Arith_keeps (h : Keeps s0 s) : Keeps s0 (State.v0Arith s a2 a3 a4 a5 a6 a7) := by
  unfold State.v0Arith
  exact State.v0Map_keeps h

theorem State.v0Bits_keeps (h : Keeps s0 s) : Keeps s0 (State.v0Bits s a2 a3 a4) := by
  unfold State.v0Bits
  exact State.v0Map_keeps h

theorem State.v0Fn_keeps (h : Keeps s0 s) : Keeps s0 (State.v0Fn s a2 a3 a4) := by
  unfold State.v0Fn
  exact State.v0Map_keeps h

theorem State.v0Shift_keeps (h : Keeps s0 s) : Keeps s0 (State.v0Shift s a2 a3 a4) := by
  unfold State.v0Shift
  exact State.v0Map_keeps h

theorem State.v1_keeps (h : Keeps s0 s) : Keeps s0 (State.v1 s a2 a3 a4 a5 a6) := by
  unfold State.v1
  refine State.slot_keeps h fun _ h1 => ?_
  extract_lets +onlyGivenNames x2
  exact State.result_keeps h1

theorem State.v1Lg_keeps (h : Keeps s0 s) : Keeps s0 (State.v1Lg s a2 a3 a4 a5 a6) := by
  unfold State.v1Lg
  exact State.slot_keeps h (fun _ h1 => (State.result_keeps h1))

theorem State.waitOn_keeps (h : Keeps s0 s) : Keeps s0 (State.waitOn s a2 a3) := by
  unfold State.waitOn
  exact State.updTile_keeps h

theorem State.warmReset_keeps (h : Keeps s0 s) : Keeps s0 (State.warmReset s) := by
  unfold State.warmReset
  repeat' first
    | (extract_lets +onlyGivenNames x; ((refine Keeps.cut (P := Keeps s0 x) ?_ fun _ => ?_) <;> [(unfold x; rename' x => y); (try clear_value x; rename' x => y)]))
    | (extract_lets +onlyGivenNames x; let z : MemS := x; clear z; rename' x => y)
    | (extract_lets +onlyGivenNames x; let z : SecS := x; clear z; rename' x => y)
    | (extract_lets +onlyGivenNames x; let z : BoardS := x; clear z; rename' x => y)
    | (extract_lets +onlyGivenNames x; (try clear_value x); rename' x => y)
    | with_reducible refine State.ckptFail_keeps ?_
    | with_reducible refine State.fallCoarse_keeps ?_
    | with_reducible refine State.rootLock_keeps ?_
    | with_reducible refine State.warmRings_keeps ?_
    | with_reducible refine Keeps.ite ?_ ?_
    | with_reducible refine Keeps.foldl ?_ fun _ _ _ => ?_
    | with_reducible exact Keeps.put rfl rfl rfl rfl (by assumption)

theorem State.writeWord_keeps (h : Keeps s0 s) : Keeps s0 (State.writeWord s a2 a3 a4) := by
  unfold State.writeWord
  extract_lets +onlyGivenNames x1 x2 x3 x4
  exact .ite h (State.setReg_keeps h)

theorem State.writeReg_keeps (h : Keeps s0 s) : Keeps s0 (State.writeReg s a2 a3 a4) := by
  unfold State.writeReg
  split
  · exact h
  · extract_lets +onlyGivenNames x1 x2 x3
    refine .ite h ?_
    split
    · exact State.gtcSet_keeps h
    · exact State.tickCfg_keeps h
    · exact State.setDisable_keeps h
    · exact State.collCfgWrite_keeps h
    · exact State.hullCfgWrite_keeps h
    · exact State.hshareWrite_keeps h
    · exact State.rstCfgWrite_keeps h
    · exact State.rstCtlWrite_keeps h
    · exact State.secCfgWrite_keeps h
    · exact .ite (State.attGoWrite_keeps h) h
    · exact State.rcfgWrite_keeps h
    · exact State.baseWrite_keeps h
    · exact State.baseWrite_keeps h
    · exact State.ecfgWrite_keeps h
    · exact State.eaddrWrite_keeps h
    · exact State.eaddrWrite_keeps h
    · exact State.ctailWrite_keeps h
    · exact State.rheadWrite_keeps h
    · split
      · exact State.icWrite_keeps h
      · exact h
    · split
      · exact State.icWrite_keeps h
      · exact h
    · split
      · exact State.icWrite_keeps h
      · exact h
    · split
      · exact State.icWrite_keeps h
      · exact h
    · split
      · exact State.icWrite_keeps h
      · exact h
    · split
      · exact State.icWrite_keeps h
      · exact h
    · split
      · exact State.icWrite_keeps h
      · exact h
    · exact State.w1cView_keeps h
    · exact State.w1cView_keeps h
    · exact State.w1cView_keeps h
    · exact State.w1cView_keeps h
    · exact State.w1cView_keeps h
    · exact State.writeWord_keeps h

theorem State.ySend_keeps (h : Keeps s0 s) : Keeps s0 (State.ySend s a2 a3 a4 a5 a6 a7) := by
  unfold State.ySend
  extract_lets +onlyGivenNames x1 x2 x3
  refine .ite (State.contract_keeps h) ?_
  extract_lets +onlyGivenNames x4 x5 s6
  have h6 : Keeps s0 s6 := State.setTile_keeps h
  clear_value s6
  refine .ite ?_ (.upd h6 (by simp only [State.keptPart]))
  extract_lets +onlyGivenNames x7
  exact State.setPod_keeps h6

theorem State.yOp_keeps (h : Keeps s0 s) : Keeps s0 (State.yOp s a2 a3 a4 a5 a6 a7 a8 a9) := by
  unfold State.yOp
  exact State.guarded_keeps h (fun _ h1 => (State.ySend_keeps h1))

theorem readAll_keeps (h : Keeps s0 s) : Keeps s0 (readAll a1 a2 l s).1 := by
  induction l generalizing s with
  | nil => exact h
  | cons x r ih =>
    obtain ⟨t, o, n⟩ := x
    unfold readAll
    extract_lets a
    have ha : Keeps s0 a.st := by
      unfold a
      split
      · exact State.readRange_keeps h
      · exact h
    split
    · exact ha
    · exact ih ha

theorem State.freezeHull_keeps (h : Keeps s0 s) : Keeps s0 (State.freezeHull s a2 a3) := by
  unfold State.freezeHull
  repeat' first
    | with_reducible assumption
    | with_reducible refine State.raise_keeps ?_
    | with_reducible refine State.log1_keeps ?_
    | with_reducible refine State.stopHull_keeps ?_
    | with_reducible refine Keeps.ite ?_ ?_
    | with_reducible refine Keeps.foldl ?_ fun _ _ _ => ?_

theorem State.freezeFaults_keeps (h : Keeps s0 s) : Keeps s0 (State.freezeFaults s) := by
  unfold State.freezeFaults
  repeat' first
    | with_reducible refine State.freezeHull_keeps ?_
    | with_reducible refine Keeps.ite ?_ ?_
    | with_reducible refine Keeps.foldl ?_ fun _ _ _ => ?_
    | with_reducible exact Keeps.put rfl rfl rfl rfl (by assumption)

theorem State.engineBeat_keeps (h : Keeps s0 s) : Keeps s0 (State.engineBeat s a2 a3 a4).1 := by
  unfold State.engineBeat
  repeat' first
    | (extract_lets +onlyGivenNames x; ((refine Keeps.cut (P := Keeps s0 x) ?_ fun _ => ?_) <;> [(unfold x; rename' x => y); (try clear_value x; rename' x => y)]))
    | (extract_lets +onlyGivenNames x; (try clear_value x); rename' x => y)
    | with_reducible refine State.setEng_keeps ?_
    | with_reducible refine State.ausWriteStart_keeps ?_
    | with_reducible refine State.land1_keeps ?_
    | with_reducible exact Keeps.put rfl rfl rfl rfl (by assumption)
    | split

theorem State.engineBeats_keeps (h : Keeps s0 s) : Keeps s0 (State.engineBeats s a2 a3 a4) := by
  unfold State.engineBeats
  repeat' first
    | with_reducible assumption
    | with_reducible refine State.engineBeat_keeps ?_

theorem State.provTrailer_keeps (h : Keeps s0 s) : Keeps s0 (State.provTrailer s a2 a3).1 := by
  unfold State.provTrailer
  repeat' first
    | with_reducible assumption
    | (extract_lets +onlyGivenNames x; ((refine Keeps.cut (P := Keeps s0 x.1) ?_ fun _ => ?_) <;> [(unfold x; rename' x => y); (try clear_value x; rename' x => y)]))
    | with_reducible refine State.regionDigest_keeps ?_

theorem State.dropStale_keeps (h : Keeps s0 s) : Keeps s0 (State.dropStale s a2 a3) := by
  unfold State.dropStale
  repeat' first
    | with_reducible assumption
    | with_reducible refine State.countStale_keeps ?_
    | with_reducible refine State.takeInbox_keeps ?_

theorem State.announce_keeps (h : Keeps s0 s) : Keeps s0 (State.announce s a2) := by
  unfold State.announce
  repeat' first
    | with_reducible assumption
    | with_reducible refine State.passDecision_keeps ?_
    | with_reducible refine State.addDecision_keeps ?_

theorem State.announceAgain_keeps (h : Keeps s0 s) : Keeps s0 (State.announceAgain s a2 a3) := by
  unfold State.announceAgain
  repeat' first
    | with_reducible refine State.announce_keeps ?_
    | with_reducible refine Keeps.ite ?_ ?_
    | with_reducible refine Keeps.foldl ?_ fun _ _ _ => ?_
    | with_reducible exact Keeps.put rfl rfl rfl rfl (by assumption)
    | split

theorem State.sendProposal_keeps (h : Keeps s0 s) : Keeps s0 (State.sendProposal s a2 a3 a4) := by
  unfold State.sendProposal
  repeat' first
    | with_reducible assumption
    | with_reducible refine State.sendPriv_keeps ?_
    | with_reducible refine Keeps.ite ?_ ?_

theorem State.readRecords_keeps (h : Keeps s0 s) : Keeps s0 (State.readRecords s a2 a3 a4).1 := by
  unfold State.readRecords
  repeat' first
    | with_reducible refine Keeps.foldl1 ?_ fun _ _ _ => ?_
    | with_reducible refine State.windowRead_keeps ?_
    | with_reducible exact Keeps.put rfl rfl rfl rfl (by assumption)
    | split

theorem scrubPart_keeps (h4 : Keeps s0 p4.st) : Keeps s0 (scrubPart a1 a2 a3 p4 a5).st := by
  unfold scrubPart
  repeat' first
    | (extract_lets +onlyGivenNames x; ((refine Keeps.cut (P := Keeps s0 x) ?_ fun _ => ?_) <;> [(unfold x; rename' x => y); (try clear_value x; rename' x => y)]))
    | (extract_lets +onlyGivenNames x; ((refine Keeps.cut (P := Keeps s0 x.2.2) ?_ fun _ => ?_) <;> [(unfold x; rename' x => y); (try clear_value x; rename' x => y)]))
    | (extract_lets +onlyGivenNames x; (try clear_value x); rename' x => y)
    | with_reducible refine State.reject_keeps ?_
    | with_reducible refine State.holdAt_keeps ?_
    | with_reducible refine Parts.fail_keeps ?_
    | with_reducible refine State.takeMeet_keeps ?_
    | with_reducible refine State.scrubOne_keeps ?_
    | with_reducible exact Keeps.put rfl rfl rfl rfl (by assumption)
    | split

theorem deltaBlock_keeps (h7 : Keeps s0 p7.st) : Keeps s0 (deltaBlock a1 a2 a3 a4 a5 a6 p7 a8).st := by
  unfold deltaBlock
  repeat' first
    | with_reducible refine Keeps.ofPair (by with_reducible assumption) ?_
    | (extract_lets +onlyGivenNames x; ((refine Keeps.cut (P := Keeps s0 x) ?_ fun _ => ?_) <;> [(unfold x; rename' x => y); (try clear_value x; rename' x => y)]))
    | (extract_lets +onlyGivenNames x; ((refine Keeps.cut (P := Keeps s0 x.1) ?_ fun _ => ?_) <;> [(unfold x; rename' x => y); (try clear_value x; rename' x => y)]))
    | (extract_lets +onlyGivenNames x; (try clear_value x); rename' x => y)
    | with_reducible refine State.readCut_keeps ?_
    | with_reducible refine State.readRange_keeps ?_
    | with_reducible refine Parts.fail_keeps ?_
    | with_reducible refine State.drainAt_keeps ?_
    | with_reducible refine State.setHull_keeps ?_
    | with_reducible refine Parts.wrote_keeps ?_
    | with_reducible refine State.unmark_keeps ?_
    | with_reducible refine State.writeRange_keeps ?_
    | with_reducible refine State.reject_keeps ?_
    | with_reducible exact Keeps.put rfl rfl rfl rfl (by assumption)
    | split

theorem State.holdKey_keeps (h : Keeps s0 s) : Keeps s0 (State.holdKey s a2) := by
  unfold State.holdKey
  repeat' first
    | with_reducible assumption
    | with_reducible refine State.holdAt_keeps ?_

theorem verifyBlock_keeps (h4 : Keeps s0 p4.1.st) : Keeps s0 (verifyBlock a1 a2 a3 p4 a5).1.st := by
  unfold verifyBlock
  repeat' first
    | with_reducible refine Keeps.ofPair (by with_reducible assumption) ?_
    | (extract_lets +onlyGivenNames x; (try clear_value x); rename' x => y)
    | with_reducible refine State.checkBlk_keeps ?_
    | with_reducible refine Parts.fail_keeps ?_
    | with_reducible refine State.huskFound_keeps ?_
    | with_reducible exact Keeps.put rfl rfl rfl rfl (by assumption)
    | split

theorem scatterRow_keeps (h7 : Keeps s0 p7.1.st) : Keeps s0 (scatterRow a1 a2 a3 a4 a5 a6 p7 a8).1.st := by
  unfold scatterRow
  repeat' first
    | (extract_lets +onlyGivenNames x; ((refine Keeps.cut (P := Keeps s0 x) ?_ fun _ => ?_) <;> [(unfold x; rename' x => y); (try clear_value x; rename' x => y)]))
    | (extract_lets +onlyGivenNames x; ((refine Keeps.cut (P := Keeps s0 x.1) ?_ fun _ => ?_) <;> [(unfold x; rename' x => y); (try clear_value x; rename' x => y)]))
    | (extract_lets +onlyGivenNames x; (try clear_value x); rename' x => y)
    | with_reducible refine State.readRange_keeps ?_
    | with_reducible refine Parts.fail_keeps ?_
    | with_reducible refine Parts.residue_keeps ?_
    | with_reducible refine State.event_keeps ?_
    | with_reducible refine Parts.wrote_keeps ?_
    | with_reducible refine State.writeRange_keeps ?_
    | with_reducible exact Keeps.put rfl rfl rfl rfl (by assumption)
    | split

theorem updatePart_keeps (h6 : Keeps s0 p6.st) : Keeps s0 (updatePart a1 a2 a3 a4 a5 p6 a7).st := by
  unfold updatePart
  repeat' first
    | (extract_lets +onlyGivenNames x; ((refine Keeps.cut (P := Keeps s0 x.1) ?_ fun _ => ?_) <;> [(unfold x; rename' x => y); (try clear_value x; rename' x => y)]))
    | (extract_lets +onlyGivenNames x; (try clear_value x); rename' x => y)
    | with_reducible refine readAll_keeps ?_
    | with_reducible refine Parts.fail_keeps ?_
    | with_reducible refine Parts.residue_keeps ?_
    | with_reducible refine Parts.wrote_keeps ?_
    | with_reducible refine State.updateWrite_keeps ?_
    | with_reducible exact Keeps.put rfl rfl rfl rfl (by assumption)
    | split

theorem State.scrubWrap_keeps (h : Keeps s0 s) : Keeps s0 (State.scrubWrap s a2) := by
  unfold State.scrubWrap
  repeat' first
    | (extract_lets +onlyGivenNames x; ((refine Keeps.cut (P := Keeps s0 x) ?_ fun _ => ?_) <;> [(unfold x; rename' x => y); (try clear_value x; rename' x => y)]))
    | with_reducible refine State.setUnit_keeps ?_
    | with_reducible refine Keeps.ite ?_ ?_
    | with_reducible refine Keeps.foldl ?_ fun _ _ _ => ?_
    | with_reducible exact Keeps.put rfl rfl rfl rfl (by assumption)

theorem State.descIssued_keeps (h : Keeps s0 s) : Keeps s0 (State.descIssued s a2 a3 a4) := by
  unfold State.descIssued
  repeat' first
    | with_reducible assumption
    | with_reducible refine State.updTile_keeps ?_

theorem State.syncArrive_keeps (h : Keeps s0 s) : Keeps s0 (State.syncArrive s a2) := by
  unfold State.syncArrive
  repeat' first
    | with_reducible refine State.setPod_keeps ?_
    | with_reducible refine State.syncEffect_keeps ?_
    | with_reducible exact Keeps.put rfl rfl rfl rfl (by assumption)
    | split

end Sys2Proof.Machine
end

