-- ==== Sys2Proof/Laws/KeepsExec.lean ====
section
/-!
SUPPORT. Every meaning answers a next state that keeps the waiting commands, the fixed identity, the rule of probe content and the
memories' canonical form; and so do the operations that run meanings (fetched commands, the clock's cycle).
-/

namespace Sys2Proof.Machine

variable {s0 : State}

theorem execPwrBudgetRead_keeps (h : Keeps s0 s) : Answers s0 (execPwrBudgetRead a1 s) := by
  unfold execPwrBudgetRead
  exact .next (State.packet_keeps h (fun _ h1 => (State.budgetRead_keeps h1)))

theorem execDeviceStandby_keeps (h : Keeps s0 s) : Answers s0 (execDeviceStandby a1 s) := by
  unfold execDeviceStandby
  exact .next (State.packet_keeps h (fun _ h1 => (State.deviceStandby_keeps h1)))

theorem execDeviceActive_keeps (h : Keeps s0 s) : Answers s0 (execDeviceActive a1 s) := by
  unfold execDeviceActive
  exact .next (State.packet_keeps h (fun _ h1 => (State.deviceActive_keeps h1)))

theorem execPodWake_keeps (h : Keeps s0 s) : Answers s0 (execPodWake a1 s) := by
  unfold execPodWake
  exact .next (State.packet_keeps h (fun _ h1 => (State.podWake_keeps h1)))

theorem execPodSleep_keeps (h : Keeps s0 s) : Answers s0 (execPodSleep a1 s) := by
  unfold execPodSleep
  exact .next (State.packet_keeps h (fun _ h1 => (State.podSleep_keeps h1)))

theorem runPower_keeps (h : Keeps s0 s) : Answers s0 (runPower a1 s) := by
  unfold runPower
  split
  · exact execPodSleep_keeps h
  · exact execPodWake_keeps h
  · exact execDeviceActive_keeps h
  · exact execDeviceStandby_keeps h

theorem execHullResume_keeps (h : Keeps s0 s) : Answers s0 (execHullResume a1 s) := by
  unfold execHullResume
  exact .next (State.packet_keeps h (fun _ h1 => (State.hullHaltCmd_keeps h1)))

theorem execHullHalt_keeps (h : Keeps s0 s) : Answers s0 (execHullHalt a1 s) := by
  unfold execHullHalt
  exact .next (State.packet_keeps h (fun _ h1 => (State.hullHaltCmd_keeps h1)))

theorem execCoreResume_keeps (h : Keeps s0 s) : Answers s0 (execCoreResume a1 s) := by
  unfold execCoreResume
  exact .next (State.packet_keeps h (fun _ h1 => (State.coreHaltCmd_keeps h1)))

theorem execCoreHalt_keeps (h : Keeps s0 s) : Answers s0 (execCoreHalt a1 s) := by
  unfold execCoreHalt
  exact .next (State.packet_keeps h (fun _ h1 => (State.coreHaltCmd_keeps h1)))

theorem runHalt_keeps (h : Keeps s0 s) : Answers s0 (runHalt a1 s) := by
  unfold runHalt
  split
  · exact execCoreHalt_keeps h
  · exact execCoreResume_keeps h
  · exact execHullHalt_keeps h
  · exact execHullResume_keeps h

theorem execDbgPeek_keeps (h : Keeps s0 s) : Answers s0 (execDbgPeek a1 s) := by
  unfold execDbgPeek
  exact .next (State.packet_keeps h (fun _ h1 => (State.dbgPeek_keeps h1)))

theorem execDbgAttach_keeps (h : Keeps s0 s) : Answers s0 (execDbgAttach a1 s) := by
  unfold execDbgAttach
  exact .next (State.packet_keeps h (fun _ h1 => (State.dbgAttach_keeps h1)))

theorem execErrLogRead_keeps (h : Keeps s0 s) : Answers s0 (execErrLogRead a1 s) := by
  unfold execErrLogRead
  exact .next (State.packet_keeps h (fun _ h1 => (State.errLogRead_keeps h1)))

theorem execTestContentLoad_keeps (h : Keeps s0 s) : Answers s0 (execTestContentLoad a1 s) := by
  unfold execTestContentLoad
  exact .next (State.packet_keeps h (fun _ h1 => (State.testContentLoad_keeps h1)))

theorem execProbePod_keeps (h : Keeps s0 s) : Answers s0 (execProbePod a1 s) := by
  unfold execProbePod
  exact .next (State.packet_keeps h (fun _ h1 => (State.probePod_keeps h1)))

theorem execReleaseBundle_keeps (h : Keeps s0 s) : Answers s0 (execReleaseBundle a1 s) := by
  unfold execReleaseBundle
  exact .next (State.packet_keeps h (fun _ h1 => (State.bundleCmd_keeps h1)))

theorem execBypassBundle_keeps (h : Keeps s0 s) : Answers s0 (execBypassBundle a1 s) := by
  unfold execBypassBundle
  exact .next (State.packet_keeps h (fun _ h1 => (State.bundleCmd_keeps h1)))

theorem execMapoutUnit_keeps (h : Keeps s0 s) : Answers s0 (execMapoutUnit a1 s) := by
  unfold execMapoutUnit
  exact .next (State.packet_keeps h (fun _ h1 => (State.mapoutCmd_keeps h1)))

theorem execReleasePod_keeps (h : Keeps s0 s) : Answers s0 (execReleasePod a1 s) := by
  unfold execReleasePod
  exact .next (State.packet_keeps h (fun _ h1 => (State.releaseCmd_keeps h1)))

theorem execBypassPod_keeps (h : Keeps s0 s) : Answers s0 (execBypassPod a1 s) := by
  unfold execBypassPod
  exact .next (State.packet_keeps h (fun _ h1 => (State.bypassCmd_keeps h1)))

theorem execProbeNmu_keeps (h : Keeps s0 s) : Answers s0 (execProbeNmu a1 s) := by
  unfold execProbeNmu
  exact .next (State.packet_keeps h (fun _ h1 => (State.probeNmu_keeps h1)))

theorem runTest_keeps (h : Keeps s0 s) : Answers s0 (runTest a1 s) := by
  unfold runTest
  split
  · exact execProbeNmu_keeps h
  · exact execBypassPod_keeps h
  · exact execReleasePod_keeps h
  · exact execMapoutUnit_keeps h
  · exact execBypassBundle_keeps h
  · exact execReleaseBundle_keeps h
  · exact execProbePod_keeps h

theorem execShardExport_keeps (h : Keeps s0 s) : Answers s0 (execShardExport a1 s) := by
  unfold execShardExport
  exact .next (State.packet_keeps h (fun _ h1 => (State.shardExport_keeps h1)))

theorem execRestore_keeps (h : Keeps s0 s) : Answers s0 (execRestore a1 a2 s) := by
  unfold execRestore
  exact .next (State.packet_keeps h (fun _ h1 => (State.restore_keeps h1)))

theorem execCkptStatus_keeps (h : Keeps s0 s) : Answers s0 (execCkptStatus a1 s) := by
  unfold execCkptStatus
  exact .next (State.packet_keeps h (fun _ h1 => (State.ckptStatus_keeps h1)))

theorem execCkptBegin_keeps (h : Keeps s0 s) : Answers s0 (execCkptBegin a1 s) := by
  unfold execCkptBegin
  exact .next (State.packet_keeps h (fun _ h1 => (State.ckptBegin_keeps h1)))

theorem execAuResult_keeps (h : Keeps s0 s) : Answers s0 (execAuResult a1 s) := by
  unfold execAuResult
  exact .next (State.packet_keeps h (fun _ h1 => (State.auResult_keeps h1)))

theorem execAuSolve_keeps (h : Keeps s0 s) : Answers s0 (execAuSolve a1 s) := by
  unfold execAuSolve
  exact .next (State.packet_keeps h (fun _ h1 => (State.auSolve_keeps h1)))

theorem execAuDelta_keeps (h : Keeps s0 s) : Answers s0 (execAuDelta a1 s) := by
  unfold execAuDelta
  exact .next (State.packet_keeps h (fun _ h1 => (State.auDelta_keeps h1)))

theorem execAuStructLoad_keeps (h : Keeps s0 s) : Answers s0 (execAuStructLoad a1 s) := by
  unfold execAuStructLoad
  exact .next (State.packet_keeps h (fun _ h1 => (State.auStructLoad_keeps h1)))

theorem execLinkStatus_keeps (h : Keeps s0 s) : Answers s0 (execLinkStatus a1 s) := by
  unfold execLinkStatus
  exact .next (State.packet_keeps h (fun _ h1 => (State.linkStatus_keeps h1)))

theorem execLinkPlan_keeps (h : Keeps s0 s) : Answers s0 (execLinkPlan a1 s) := by
  unfold execLinkPlan
  exact .next (State.packet_keeps h (fun _ h1 => (State.linkPlan_keeps h1)))

theorem execGrpRead_keeps (h : Keeps s0 s) : Answers s0 (execGrpRead a1 s) := by
  unfold execGrpRead
  exact .next (State.packet_keeps h (fun _ h1 => (State.grpRead_keeps h1)))

theorem execGrpActivate_keeps (h : Keeps s0 s) : Answers s0 (execGrpActivate a1 s) := by
  unfold execGrpActivate
  exact .next (State.packet_keeps h (fun _ h1 => (State.grpActivate_keeps h1)))

theorem execGrpWrite_keeps (h : Keeps s0 s) : Answers s0 (execGrpWrite a1 s) := by
  unfold execGrpWrite
  exact .next (State.packet_keeps h (fun _ h1 => (State.grpWrite_keeps h1)))

theorem execMemMapStatus_keeps (h : Keeps s0 s) : Answers s0 (execMemMapStatus a1 s) := by
  unfold execMemMapStatus
  exact .next (State.packet_keeps h (fun _ h1 => (State.memMapStatus_keeps h1)))

theorem execMemFill_keeps (h : Keeps s0 s) : Answers s0 (execMemFill a1 s) := by
  unfold execMemFill
  exact .next (State.packet_keeps h (fun _ h1 => (State.memFill_keeps h1)))

theorem execMemCopy_keeps (h : Keeps s0 s) : Answers s0 (execMemCopy a1 s) := by
  unfold execMemCopy
  exact .next (State.packet_keeps h (fun _ h1 => (State.memCopy_keeps h1)))

theorem execProgEval_keeps (h : Keeps s0 s) : Answers s0 (execProgEval a1 s) := by
  unfold execProgEval
  exact .next (State.packet_keeps h (fun _ h1 => (State.progEval_keeps h1)))

theorem execSvcCall_keeps (h : Keeps s0 s) : Answers s0 (execSvcCall a1 s) := by
  unfold execSvcCall
  exact .next (State.packet_keeps h (fun _ h1 => (State.svcCall_keeps h1)))

theorem execProgQuery_keeps (h : Keeps s0 s) : Answers s0 (execProgQuery a1 s) := by
  unfold execProgQuery
  exact .next (State.packet_keeps h (fun _ h1 => (State.progQuery_keeps h1)))

theorem execProgStop_keeps (h : Keeps s0 s) : Answers s0 (execProgStop a1 s) := by
  unfold execProgStop
  exact .next (State.packet_keeps h (fun _ h1 => (State.progStop_keeps h1)))

theorem execProgStart_keeps (h : Keeps s0 s) : Answers s0 (execProgStart a1 s) := by
  unfold execProgStart
  exact .next (State.packet_keeps h (fun _ h1 => (State.progStart_keeps h1)))

theorem execProgLoad_keeps (h : Keeps s0 s) : Answers s0 (execProgLoad a1 a2 s) := by
  unfold execProgLoad
  exact .next (State.packet_keeps h (fun _ h1 => (State.progLoad_keeps h1)))

theorem execHullStatus_keeps (h : Keeps s0 s) : Answers s0 (execHullStatus a1 s) := by
  unfold execHullStatus
  exact .next (State.packet_keeps h (fun _ h1 => (State.hullStatus_keeps h1)))

theorem execHullDestroy_keeps (h : Keeps s0 s) : Answers s0 (execHullDestroy a1 s) := by
  unfold execHullDestroy
  exact .next (State.packet_keeps h (fun _ h1 => (State.hullDestroy_keeps h1)))

theorem execHullReclaim_keeps (h : Keeps s0 s) : Answers s0 (execHullReclaim a1 s) := by
  unfold execHullReclaim
  exact .next (State.packet_keeps h (fun _ h1 => (State.hullReclaim_keeps h1)))

theorem execHullGrant_keeps (h : Keeps s0 s) : Answers s0 (execHullGrant a1 s) := by
  unfold execHullGrant
  exact .next (State.packet_keeps h (fun _ h1 => (State.hullGrant_keeps h1)))

theorem execHullCreate_keeps (h : Keeps s0 s) : Answers s0 (execHullCreate a1 s) := by
  unfold execHullCreate
  exact .next (State.packet_keeps h (fun _ h1 => (State.hullCreate_keeps h1)))

theorem execTimeRead_keeps (h : Keeps s0 s) : Answers s0 (execTimeRead a1 s) := by
  unfold execTimeRead
  exact .next (State.packet_keeps h (fun _ h1 => (State.timeRead_keeps h1)))

theorem execTimeSetLaunch_keeps (h : Keeps s0 s) : Answers s0 (execTimeSetLaunch a1 s) := by
  unfold execTimeSetLaunch
  exact .next (State.packet_keeps h (fun _ h1 => (State.setLaunch_keeps h1)))

theorem execDevHealth_keeps (h : Keeps s0 s) : Answers s0 (execDevHealth a1 s) := by
  unfold execDevHealth
  exact .next (State.packet_keeps h (fun _ h1 => (State.devHealth_keeps h1)))

theorem execDevInfo_keeps (h : Keeps s0 s) : Answers s0 (execDevInfo a1 s) := by
  unfold execDevInfo
  exact .next (State.packet_keeps h (fun _ h1 => (State.devInfo_keeps h1)))

/-- What a fetched command of the first half of the table answers. -/
theorem runLow_keeps (h : Keeps s0 s) : ∀ o, runLow a1 s = some o → Answers s0 o := by
  intro o e
  unfold runLow at e
  dsimp only at e
  split at e <;> first | (cases e; done) | (injection e with e; subst e)
  exacts [execDevInfo_keeps h, execDevHealth_keeps h, execTimeSetLaunch_keeps h, execTimeRead_keeps h, execHullCreate_keeps h,
    execHullGrant_keeps h, execHullReclaim_keeps h, execHullDestroy_keeps h, execHullStatus_keeps h, execProgLoad_keeps h,
    execProgStart_keeps h, execProgStop_keeps h, execProgQuery_keeps h, execSvcCall_keeps h, execProgEval_keeps h,
    execMemCopy_keeps h, execMemFill_keeps h, execMemMapStatus_keeps h]

theorem runHigh_keeps (h : Keeps s0 s) : ∀ o, runHigh a1 s = some o → Answers s0 o := by
  intro o e
  unfold runHigh at e
  dsimp only at e
  split at e <;> first | (cases e; done) | (injection e with e; subst e)
  exacts [execGrpWrite_keeps h, execGrpActivate_keeps h, execGrpRead_keeps h, execLinkPlan_keeps h, execLinkStatus_keeps h,
    execAuStructLoad_keeps h, execAuDelta_keeps h, execAuSolve_keeps h, execAuResult_keeps h, execCkptBegin_keeps h,
    execCkptStatus_keeps h, execRestore_keeps h, execShardExport_keeps h, runTest_keeps h, execTestContentLoad_keeps h,
    execErrLogRead_keeps h, execDbgAttach_keeps h, execDbgPeek_keeps h, runHalt_keeps h, runPower_keeps h,
    execPwrBudgetRead_keeps h]

theorem State.runCmd_keeps (h : Keeps s0 s) : Keeps s0 (State.runCmd s a2) := by
  have hl : ∀ o, runLow a2 s = some o → Answers s0 o := runLow_keeps h
  have hh : ∀ o, runHigh a2 s = some o → Answers s0 o := runHigh_keeps h
  unfold State.runCmd
  split
  · next e => obtain ⟨t, rfl, k⟩ := hl _ e; exact k
  · split
    · next e => obtain ⟨t, rfl, k⟩ := hh _ e; exact k
    · exact State.packet_keeps h fun _ h => h

theorem State.startSome_keeps (h : Keeps s0 s) : Keeps s0 (State.startSome a1 a2 s) := by
  induction a1 generalizing a2 s with
  | zero => exact h
  | succ n ih =>
    unfold State.startSome
    split
    · exact ih (State.runCmd_keeps h)
    · exact h

theorem State.cycle_keeps (h : Keeps s0 s) : Keeps s0 (State.cycle s) := by
  unfold State.cycle
  repeat' first
    | (extract_lets +onlyGivenNames x; ((refine Keeps.cut (P := Keeps s0 x) ?_ fun _ => ?_) <;> [(unfold x; rename' x => y); (try clear_value x; rename' x => y)]))
    | (extract_lets +onlyGivenNames x; (try clear_value x); rename' x => y)
    | with_reducible refine State.engineCharge_keeps ?_
    | with_reducible refine State.forLive_keeps ?_ (fun _ _ _ => ?_)
    | with_reducible refine State.shiftBeat_keeps ?_
    | with_reducible refine State.updTile_keeps ?_
    | with_reducible refine State.transfers_keeps ?_
    | with_reducible refine State.beat_keeps ?_
    | with_reducible refine State.endIssue_keeps ?_
    | with_reducible refine State.setTile_keeps ?_
    | with_reducible refine State.stallTime_keeps ?_
    | with_reducible refine State.engineBeats_keeps ?_
    | with_reducible refine State.setPod_keeps ?_
    | with_reducible refine State.podBeat_keeps ?_
    | with_reducible refine State.freezeFaults_keeps ?_
    | with_reducible refine State.stopNow_keeps ?_
    | with_reducible refine State.startSome_keeps ?_
    | with_reducible refine State.beginIssue_keeps ?_
    | with_reducible refine Keeps.ite ?_ ?_
    | with_reducible refine Keeps.foldl ?_ fun _ _ _ => ?_
    | with_reducible exact Keeps.put rfl rfl rfl rfl (by assumption)

theorem execRailOutOfRegulation_keeps (h : Keeps s0 s) : Answers s0 (execRailOutOfRegulation s) := by
  unfold execRailOutOfRegulation
  exact .next (.ite (State.emit_keeps (.upd h (by simp only [State.keptPart]))) h)

theorem execTimeMessageSend_keeps (h : Keeps s0 s) : Answers s0 (execTimeMessageSend s) := by
  unfold execTimeMessageSend
  refine .next ?_
  split
  · exact .foldl h fun _ _ h1 => (.ite h1 (State.sendPriv_keeps h1))
  · exact h

theorem execInputUndervoltage_keeps (h : Keeps s0 s) : Answers s0 (execInputUndervoltage s) := by
  unfold execInputUndervoltage
  exact .next (State.removePower_keeps h)

theorem execPowerRemoval_keeps (h : Keeps s0 s) : Answers s0 (execPowerRemoval s) := by
  unfold execPowerRemoval
  refine .next ?_
  extract_lets +onlyGivenNames s1
  have h1 : Keeps s0 s1 := .ite h (State.emit_keeps h)
  clear_value s1
  exact State.removePower_keeps (.upd h1 (by simp only [State.keptPart]))

theorem execStartPhaseTimeout_keeps (h : Keeps s0 s) : Answers s0 (execStartPhaseTimeout s) := by
  unfold execStartPhaseTimeout
  refine .next ?_
  refine .ite h ?_
  extract_lets +onlyGivenNames x1 x2
  exact State.outOfService_keeps (State.log1_keeps (State.countReset_keeps h))

theorem State.hostWrite_sec (s : State) (a : Nat) (b : List Byte) : (s.hostWrite a b).sec = s.sec := rfl

theorem execAttDone_keeps (h : Keeps s0 s) : Answers s0 (execAttDone s) := by
  unfold execAttDone
  refine .next ?_
  split
  · extract_lets sig s1 z s2
    have h1 : Keeps s0 s1 := State.hostWrite_keeps h
    have hs : s1.sec = s.sec := State.hostWrite_sec _ _ _
    clear_value s1 sig
    exact State.event_keeps (.upd h1 (by simp only [State.keptPart, s2, z, hs]))
  · exact h

theorem execCapRelease_keeps (h : Keeps s0 s) : Answers s0 (execCapRelease s) := by
  unfold execCapRelease
  exact .next (State.capReleaseCmd_keeps h)

theorem execReadmit_keeps (h : Keeps s0 s) : Answers s0 (execReadmit s) := by
  unfold execReadmit
  exact .next (State.readmitCmd_keeps h)

theorem execRecoveryTimeout_keeps (h : Keeps s0 s) : Answers s0 (execRecoveryTimeout s) := by
  unfold execRecoveryTimeout
  exact .next (.ite h (State.outOfService_keeps (State.countReset_keeps h)))

theorem execCaptureComplete_keeps (h : Keeps s0 s) : Answers s0 (execCaptureComplete s) := by
  unfold execCaptureComplete
  refine .next ?_
  split
  · refine .ite h ?_
    extract_lets +onlyGivenNames s1
    have h1 : Keeps s0 s1 := .ite (State.capture_keeps h) h
    clear_value s1
    extract_lets +onlyGivenNames s2
    have h2 : Keeps s0 s2 := .ite (State.countReset_keeps h1) h1
    clear_value s2
    extract_lets +onlyGivenNames s3
    have h3 : Keeps s0 s3 := State.warmReset_keeps h2
    clear_value s3
    exact .ite (State.outOfService_keeps h3) (.upd h3 (by simp only [State.keptPart]))
  · exact h

theorem execWatchdogWarning_keeps (h : Keeps s0 s) : Answers s0 (execWatchdogWarning s) := by
  unfold execWatchdogWarning
  exact .next (.ite h (.foldl h fun _ _ h1 => (State.signal_keeps h1)))

theorem execFwWatchdog_keeps (h : Keeps s0 s) : Answers s0 (execFwWatchdog s) := by
  unfold execFwWatchdog
  exact .next (.ite h (.ite (State.outOfService_keeps (State.countReset_keeps h)) (State.trigger_keeps h)))

theorem execProbeTimeout_keeps (h : Keeps s0 s) : Answers s0 (execProbeTimeout s) := by
  unfold execProbeTimeout
  refine .next ?_
  extract_lets +onlyGivenNames x1
  refine .ite ?_ h
  extract_lets +onlyGivenNames x2
  exact State.probeFail_keeps (State.free_keeps h)

theorem execPrivRetry_keeps (h : Keeps s0 s) : Answers s0 (execPrivRetry s) := by
  unfold execPrivRetry
  exact .next (.foldl (.upd h (by simp only [State.keptPart])) fun _ _ h1 => (State.offerPriv_keeps h1))

theorem execHoldoverTimeout_keeps (h : Keeps s0 s) : Answers s0 (execHoldoverTimeout s) := by
  unfold execHoldoverTimeout
  repeat' first
    | with_reducible assumption
    | with_reducible refine Answers.next ?_
    | with_reducible refine State.rootLock_keeps ?_
    | with_reducible refine State.event_keeps ?_
    | with_reducible refine State.fallCoarse_keeps ?_
    | with_reducible refine Keeps.ite ?_ ?_

theorem execTimeMessageTimeout_keeps (h : Keeps s0 s) : Answers s0 (execTimeMessageTimeout s) := by
  unfold execTimeMessageTimeout
  refine .next ?_
  extract_lets +onlyGivenNames x1
  exact .ite (State.event_keeps (.upd h (by simp only [State.keptPart]))) h

theorem execVendorExpiry_keeps (h : Keeps s0 s) : Answers s0 (execVendorExpiry a1 s) := by
  unfold execVendorExpiry
  refine .next ?_
  extract_lets +onlyGivenNames x1
  exact .ite (State.vendorEnd_keeps h) h

theorem execPeerSignalDetect_keeps (h : Keeps s0 s) : Answers s0 (execPeerSignalDetect a1 s) := by
  unfold execPeerSignalDetect
  exact .next (.ite (State.leave_keeps h) h)

theorem execQueuePairError_keeps (h : Keeps s0 s) : Answers s0 (execQueuePairError a1 a2 s) := by
  unfold execQueuePairError
  exact .next (.ite (State.ckptFail_keeps h) h)

theorem execCollectorRetry_keeps (h : Keeps s0 s) : Answers s0 (execCollectorRetry a1 a2 s) := by
  unfold execCollectorRetry
  refine .next ?_
  split
  · extract_lets +onlyGivenNames s1
    have h1 : Keeps s0 s1 := by
      unfold s1
      exact .upd h (by simp only [State.keptPart])
    clear_value s1
    exact .ite (State.pushTo_keeps h1) h1
  · exact h

theorem execRecordPushAck_keeps (h : Keeps s0 s) : Answers s0 (execRecordPushAck a1 s) := by
  unfold execRecordPushAck
  refine .next ?_
  split
  · split
    · refine .ite ?_ h
      extract_lets +onlyGivenNames s1
      have h1 : Keeps s0 s1 := by
        unfold s1
        exact .upd h (by simp only [State.keptPart])
      clear_value s1
      extract_lets +onlyGivenNames x2
      exact State.pushTo_keeps (.ite (State.consume_keeps h1) h1)
    · exact h
  · exact h

theorem execTestAccessInstruction_keeps (h : Keeps s0 s) : Answers s0 (execTestAccessInstruction a1 s) := by
  unfold execTestAccessInstruction
  refine .next ?_
  refine .ite h ?_
  extract_lets +onlyGivenNames x1 s2
  have h2 : Keeps s0 s2 := .upd h (by simp only [State.keptPart]; rfl)
  clear_value s2
  split
  · exact State.emit_keeps h2
  · exact .ite (.upd h2 (by simp only [State.keptPart])) h2
  · exact .ite (.upd h2 (by simp only [State.keptPart])) h2
  · exact .ite (.upd h2 (by simp only [State.keptPart])) h2
  · exact h2
  · exact h2
  · exact h2

theorem execCoreTimer_keeps (h : Keeps s0 s) : Answers s0 (execCoreTimer a1 s) := by
  unfold execCoreTimer
  exact .next (.ite (State.signal_keeps h) h)

theorem execEthPortStateChange_keeps (h : Keeps s0 s) : Answers s0 (execEthPortStateChange a1 a2 s) := by
  unfold execEthPortStateChange
  refine .next ?_
  refine .ite h ?_
  split
  · exact .upd h (by simp only [State.keptPart])
  · exact .upd h (by simp only [State.keptPart])
  · exact h

theorem execNewTwinLost_keeps (h : Keeps s0 s) : Answers s0 (execNewTwinLost a1 s) := by
  unfold execNewTwinLost
  refine .next ?_
  split
  · refine .foldl h fun _ _ h1 => ?_
    extract_lets +onlyGivenNames x2
    exact State.shardState_keeps (State.setShard_keeps h1)
  · exact h

theorem execStoreTimeout_keeps (h : Keeps s0 s) : Answers s0 (execStoreTimeout a1 s) := by
  unfold execStoreTimeout
  refine .next ?_
  extract_lets +onlyGivenNames x1
  exact .ite (State.ckptFail_keeps h) h

theorem execRegisterWrite_keeps (h : Keeps s0 s) : Answers s0 (execRegisterWrite a1 a2 a3 s) := by
  unfold execRegisterWrite
  exact .next (.ite (State.writeReg_keeps h) h)

theorem execRcRead_keeps (h : Keeps s0 s) : Answers s0 (execRcRead a1 a2 s) := by
  unfold execRcRead
  repeat' first
    | with_reducible refine Answers.next ?_
    | with_reducible refine State.readClear_keeps ?_
    | with_reducible refine State.emit_keeps ?_
    | with_reducible exact Keeps.put rfl rfl rfl rfl (by assumption)
    | split

theorem execBar0InvalidAccess_keeps (h : Keeps s0 s) : Answers s0 (execBar0InvalidAccess a1 a2 a3 s) := by
  unfold execBar0InvalidAccess
  refine .next ?_
  refine .ite h ?_
  extract_lets +onlyGivenNames s1
  have h1 : Keeps s0 s1 := State.log1_keeps h
  clear_value s1
  extract_lets +onlyGivenNames s2
  have h2 : Keeps s0 s2 := State.event_keeps (State.setReg_keeps h1)
  clear_value s2
  exact .ite h2 (State.emit_keeps h2)

theorem execThermalTrip_keeps (h : Keeps s0 s) : Answers s0 (execThermalTrip a1 a2 a3 s) := by
  unfold execThermalTrip
  refine .next ?_
  refine .ite h ?_
  extract_lets +onlyGivenNames s1
  have h1 : Keeps s0 s1 := State.setTj_keeps h
  clear_value s1
  extract_lets +onlyGivenNames x2 s3
  have h3 : Keeps s0 s3 := State.envRec_keeps (.upd h1 (by simp only [State.keptPart]; rfl))
  clear_value s3
  extract_lets +onlyGivenNames s4
  have h4 : Keeps s0 s4 := State.emit_keeps h3
  clear_value s4
  exact State.removePower_keeps (.upd h4 (by simp only [State.keptPart]))

theorem execCoolant_keeps (h : Keeps s0 s) : Answers s0 (execCoolant a1 a2 a3 a4 s) := by
  unfold execCoolant
  refine .next ?_
  refine .ite h ?_
  extract_lets +onlyGivenNames x1 x2 s3
  have h3 : Keeps s0 s3 := .upd h (by simp only [State.keptPart]; rfl)
  clear_value s3
  exact .ite (State.event_keeps (State.envRec_keeps h3)) h3

theorem execLeak_keeps (h : Keeps s0 s) : Answers s0 (execLeak a1 s) := by
  have h1 : Keeps s0 { s with board := { s.board with leakN := a1 } } := .upd h rfl
  exact .next (.ite (State.leakNow_keeps h1) h1)

theorem execPerst_keeps (h : Keeps s0 s) : Answers s0 (execPerst a1 s) := by
  unfold execPerst
  extract_lets fell z s1
  have h1 : Keeps s0 s1 := .upd h rfl
  exact .next (.ite (State.regOr_keeps h1) h1)

theorem execStartUpEnd_keeps (h : Keeps s0 s) : Answers s0 (execStartUpEnd a1 s) := by
  unfold execStartUpEnd
  refine .next ?_
  refine .ite h ?_
  extract_lets +onlyGivenNames s1
  have h1 : Keeps s0 s1 := State.startUp_keeps h
  clear_value s1
  exact .ite (State.outOfService_keeps h1) (.ite (.upd h1 (by simp only [State.keptPart])) (State.decide__keeps h1))

theorem execPwrEnHigh_keeps (h : Keeps s0 s) : Answers s0 (execPwrEnHigh a1 a2 s) := by
  unfold execPwrEnHigh
  refine .next ?_
  refine .ite h ?_
  extract_lets +onlyGivenNames s1
  have h1 : Keeps s0 s1 := State.coldState_keeps h
  clear_value s1
  extract_lets +onlyGivenNames x2 x3 s4
  have h4 : Keeps s0 s4 := .upd h1 (by simp only [State.keptPart]; rfl)
  clear_value s4
  extract_lets +onlyGivenNames s5
  have h5 : Keeps s0 s5 := State.emit_keeps h4
  clear_value s5
  exact .ite h5 (State.leakNow_keeps h5)

theorem execWakeComplete_keeps (h : Keeps s0 s) : Answers s0 (execWakeComplete a1 s) := by
  unfold execWakeComplete
  refine .next ?_
  extract_lets +onlyGivenNames x1
  refine .ite h ?_
  extract_lets +onlyGivenNames s2
  have h2 : Keeps s0 s2 := State.clearPod_keeps h
  clear_value s2
  extract_lets +onlyGivenNames x3 s4
  have h4 : Keeps s0 s4 := State.raise_keeps (State.setPod_keeps h2)
  clear_value s4
  extract_lets +onlyGivenNames s5
  have h5 : Keeps s0 s5 := by
    unfold s5
    split
    · exact State.powerDone_keeps h4
    · exact h4
  clear_value s5
  exact .foldl h5 fun _ _ h6 => (State.proceed_keeps h6)

theorem execWakeTimer_keeps (h : Keeps s0 s) : Answers s0 (execWakeTimer a1 s) := by
  unfold execWakeTimer
  refine .next ?_
  extract_lets +onlyGivenNames x1
  exact .ite h (.ite (State.abortSleep_keeps h) (.ite (State.startWake_keeps h) h))

theorem execSleepEntryComplete_keeps (h : Keeps s0 s) : Answers s0 (execSleepEntryComplete a1 s) := by
  unfold execSleepEntryComplete
  refine .next ?_
  extract_lets +onlyGivenNames x1
  refine .ite h ?_
  extract_lets +onlyGivenNames s2
  have h2 : Keeps s0 s2 := State.setPod_keeps h
  clear_value s2
  split
  · exact State.powerDone_keeps h2
  · exact h2

theorem execServiceDeadline_keeps (h : Keeps s0 s) : Answers s0 (execServiceDeadline a1 a2 s) := by
  unfold execServiceDeadline
  refine .next ?_
  split
  · split
    · split
      · extract_lets +onlyGivenNames x1 x2 s3
        have h3 : Keeps s0 s3 := State.setHull_keeps h
        clear_value s3
        exact State.reply_keeps h3
      · exact h
    · exact h
  · exact h

theorem State.coreAcquire_keeps (h : Keeps s0 s) : ∀ t, State.coreAcquire s a2 = some t → Keeps s0 t := by
  intro t e
  unfold State.coreAcquire at e
  split at e
  · dsimp only at e
    split at e
    · cases e
    · rw [Option.map_eq_some_iff] at e
      obtain ⟨a, _, rfl⟩ := e
      exact .upd h rfl
  · cases e

theorem execServiceAnswer_keeps (h : Keeps s0 s) : Answers s0 (execServiceAnswer a1 a2 a3 s) := by
  unfold execServiceAnswer
  refine .next (State.meeting_keeps h fun s h => ?_)
  split
  · split
    · split
      · exact h
      · next p _ _ _ call d _ _ _ t e =>
        have ht := State.coreAcquire_keeps h _ e
        clear e
        extract_lets z s1 r s2 len fin tr
        have h1 : Keeps s0 s1 := State.setHull_keeps ht
        have h2 : Keeps s0 s2 := by
          have hr : Keeps s0 r.st := State.collRead_keeps h1
          unfold s2
          clear_value r
          cases r.bad with
          | none => exact hr
          | some b => exact State.huskFail_keeps hr
        have hf : ∀ a b c, Keeps s0 (fin a b c) := fun _ _ _ => State.reply_keeps h2
        have h3 : Keeps s0 tr.1 := .ite1 (State.provTrailer_keeps h2) h2
        exact .ite h1 (.ite (hf _ _ _) (.ite (hf _ _ _) (.ite (State.reply_keeps h3) (State.reply_keeps h3))))
    · exact h
  · exact h

theorem execCoreIdle_keeps (h : Keeps s0 s) : Answers s0 (execCoreIdle a1 s) := by
  unfold execCoreIdle
  exact .next (.ite (State.icLatch_keeps (State.setCore_keeps h)) h)

theorem execHoldoffExpire_keeps (h : Keeps s0 s) : Answers s0 (execHoldoffExpire a1 a2 s) := by
  unfold execHoldoffExpire
  refine .next ?_
  extract_lets +onlyGivenNames x1 x2
  exact .ite (State.icLatch_keeps (State.setIrq_keeps h)) h

theorem execSetPending_keeps (h : Keeps s0 s) : Answers s0 (execSetPending a1 a2 s) := by
  unfold execSetPending
  exact .next (.ite (State.signal_keeps h) h)

theorem execClrPending_keeps (h : Keeps s0 s) : Answers s0 (execClrPending a1 a2 s) := by
  unfold execClrPending
  exact .next (.ite (State.withdraw_keeps h) h)

theorem execIcComplete_keeps (h : Keeps s0 s) : Answers s0 (execIcComplete a1 a2 s) := by
  unfold execIcComplete
  exact .next (.ite (State.complete_keeps h) h)

theorem execIcClaim_keeps (h : Keeps s0 s) : Answers s0 (execIcClaim a1 s) := by
  unfold execIcClaim
  exact .next (.ite (State.claim_keeps h) h)

theorem execDatagramArrival_keeps (h : Keeps s0 s) : Answers s0 (execDatagramArrival a1 a2 a3 a4 a5 s) := by
  unfold execDatagramArrival
  repeat' first
    | with_reducible refine Answers.next ?_
    | (extract_lets +onlyGivenNames x; ((refine Keeps.cut (P := Keeps s0 x) ?_ fun _ => ?_) <;> [(unfold x; rename' x => y); (try clear_value x; rename' x => y)]))
    | (extract_lets +onlyGivenNames x; (try clear_value x); rename' x => y)
    | with_reducible refine State.hevent_keeps ?_
    | with_reducible refine State.setEndp_keeps ?_
    | with_reducible refine State.signal_keeps ?_
    | with_reducible refine State.emit_keeps ?_
    | with_reducible refine State.startSome_keeps ?_
    | with_reducible exact Keeps.put rfl rfl rfl rfl (by assumption)
    | split

theorem execEndpointEnable_keeps (h : Keeps s0 s) : Answers s0 (execEndpointEnable a1 a2 s) := by
  unfold execEndpointEnable
  exact .next (.ite (State.ecfgWrite_keeps h) h)

theorem execRingDisable_keeps (h : Keeps s0 s) : Answers s0 (execRingDisable a1 a2 s) := by
  unfold execRingDisable
  exact .next (.ite (State.rcfgWrite_keeps h) h)

theorem execRingEnable_keeps (h : Keeps s0 s) : Answers s0 (execRingEnable a1 a2 s) := by
  unfold execRingEnable
  exact .next (.ite (State.rcfgWrite_keeps h) h)

theorem execCmdRhead_keeps (h : Keeps s0 s) : Answers s0 (execCmdRhead a1 a2 s) := by
  unfold execCmdRhead
  exact .next (.ite (State.rheadWrite_keeps h) h)

theorem execCommandFetch_keeps (h : Keeps s0 s) : Answers s0 (execCommandFetch a1 a2 a3 a4 a5 s) := by
  unfold execCommandFetch
  repeat' first
    | with_reducible assumption
    | with_reducible refine Answers.next ?_
    | with_reducible refine State.startSome_keeps ?_
    | with_reducible refine State.fetch_keeps ?_
    | with_reducible refine Keeps.ite ?_ ?_

theorem execDoorbell_keeps (h : Keeps s0 s) : Answers s0 (execDoorbell a1 a2 s) := by
  unfold execDoorbell
  exact .next (.ite (State.ctailWrite_keeps h) h)

theorem execAttGo_keeps (h : Keeps s0 s) : Answers s0 (execAttGo a1 s) := by
  unfold execAttGo
  exact .next (.ite (State.attGoWrite_keeps h) h)

theorem execSecCfg_keeps (h : Keeps s0 s) : Answers s0 (execSecCfg a1 s) := by
  unfold execSecCfg
  exact .next (.ite (State.secCfgWrite_keeps h) h)

theorem execPwrHshare_keeps (h : Keeps s0 s) : Answers s0 (execPwrHshare a1 a2 s) := by
  unfold execPwrHshare
  exact .next (.ite (State.hshareWrite_keeps h) h)

theorem execHullCfg_keeps (h : Keeps s0 s) : Answers s0 (execHullCfg a1 s) := by
  unfold execHullCfg
  exact .next (.ite (State.hullCfgWrite_keeps h) h)

theorem execCollCfg_keeps (h : Keeps s0 s) : Answers s0 (execCollCfg a1 s) := by
  unfold execCollCfg
  exact .next (.ite (State.collCfgWrite_keeps h) h)

theorem execRstCfg_keeps (h : Keeps s0 s) : Answers s0 (execRstCfg a1 s) := by
  unfold execRstCfg
  exact .next (State.rstCfgWrite_keeps h)

theorem execWarmReset_keeps (h : Keeps s0 s) : Answers s0 (execWarmReset a1 s) := by
  unfold execWarmReset
  exact .next (State.warmResetCmd_keeps h)

theorem execRecoveryComplete_keeps (h : Keeps s0 s) : Answers s0 (execRecoveryComplete a1 s) := by
  unfold execRecoveryComplete
  refine .next ?_
  refine .ite h ?_
  refine .ite (State.outOfService_keeps (State.countReset_keeps h)) ?_
  extract_lets +onlyGivenNames s1
  have h1 : Keeps s0 s1 := State.freshNonce_keeps (State.extend_keeps h)
  clear_value s1
  extract_lets +onlyGivenNames s2
  have h2 : Keeps s0 s2 := State.clearPods_keeps (State.train_keeps h1)
  clear_value s2
  extract_lets +onlyGivenNames s3
  have h3 : Keeps s0 s3 := .foldl h2 fun _ _ h5 => (State.vendorEnd_keeps h5)
  clear_value s3
  extract_lets +onlyGivenNames x4 s5
  have h5 : Keeps s0 s5 := .upd h3 (by simp only [State.keptPart]; rfl)
  clear_value s5
  exact State.event_keeps (State.decide__keeps (State.rootLock_keeps h5))

theorem execOverrunRun_keeps (h : Keeps s0 s) : Answers s0 (execOverrunRun a1 s) := by
  unfold execOverrunRun
  refine .next ?_
  extract_lets +onlyGivenNames x1 x2
  split
  · exact .ite h (State.trigger_keeps h)
  · exact h

theorem execRunaway_keeps (h : Keeps s0 s) : Answers s0 (execRunaway a1 s) := by
  unfold execRunaway
  refine .next ?_
  extract_lets +onlyGivenNames x1 x2 x3
  exact .ite h (State.trigger_keeps h)

theorem execSyncTimeout_keeps (h : Keeps s0 s) : Answers s0 (execSyncTimeout a1 s) := by
  unfold execSyncTimeout
  refine .next ?_
  extract_lets +onlyGivenNames x1
  split
  · extract_lets +onlyGivenNames x2
    exact .ite h (State.trigger_keeps h)
  · exact h

theorem execQueueTimeout_keeps (h : Keeps s0 s) : Answers s0 (execQueueTimeout a1 s) := by
  unfold execQueueTimeout
  refine .next ?_
  extract_lets +onlyGivenNames x1 x2 x3
  refine .ite h ?_
  split
  · exact State.trigger_keeps h
  · exact State.trigger_keeps h
  · exact h

theorem execProbeRunEnd_keeps (h : Keeps s0 s) : Answers s0 (execProbeRunEnd a1 a2 a3 s) := by
  unfold execProbeRunEnd
  exact .next (.ite h (.ite (State.probePass_keeps h) (State.probeFail_keeps h)))

theorem execDrainEnd_keeps (h : Keeps s0 s) : Answers s0 (execDrainEnd a1 s) := by
  unfold execDrainEnd
  refine .next ?_
  extract_lets +onlyGivenNames x1 x2 x3
  exact .ite h (State.setHull_keeps h)

theorem execScrubComplete_keeps (h : Keeps s0 s) : Answers s0 (execScrubComplete a1 a2 a3 s) := by
  unfold execScrubComplete
  refine .next ?_
  extract_lets +onlyGivenNames x1
  split
  · exact State.event_keeps (State.freeHull_keeps h)
  · refine .ite h ?_
    extract_lets +onlyGivenNames s2
    have h2 : Keeps s0 s2 := State.event_keeps (State.scrubRemoved_keeps h)
    clear_value s2
    extract_lets +onlyGivenNames x3 s4
    have h4 : Keeps s0 s4 := State.setHull_keeps h2
    clear_value s4
    extract_lets +onlyGivenNames x5 x6 s7
    have h7 : Keeps s0 s7 := State.setHull_keeps (State.returnLoan_keeps h4)
    clear_value s7
    exact State.event_keeps (State.serveReclaim_keeps h7)
  · exact h

theorem execQuiesceComplete_keeps (h : Keeps s0 s) : Answers s0 (execQuiesceComplete a1 s) := by
  unfold execQuiesceComplete
  refine .next ?_
  extract_lets +onlyGivenNames x1
  split
  · exact .ite (State.setHull_keeps h) h
  · exact h

theorem execEvacuationTimeout_keeps (h : Keeps s0 s) : Answers s0 (execEvacuationTimeout a1 s) := by
  unfold execEvacuationTimeout
  refine .next ?_
  extract_lets +onlyGivenNames x1
  split
  · exact .ite (State.foldRest_keeps (State.foldStop_keeps h)) h
  · exact h

theorem execEvacuationComplete_keeps (h : Keeps s0 s) : Answers s0 (execEvacuationComplete a1 s) := by
  unfold execEvacuationComplete
  refine .next ?_
  extract_lets +onlyGivenNames x1
  split
  · refine .ite h ?_
    split
    · split
      · exact State.foldFinish_keeps h
      · exact State.foldRest_keeps (State.foldStop_keeps h)
    · exact h
    · exact h
    · exact State.foldFinish_keeps h
  · exact h

theorem execFoldPoint_keeps (h : Keeps s0 s) : Answers s0 (execFoldPoint a1 s) := by
  unfold execFoldPoint
  refine .next ?_
  extract_lets +onlyGivenNames x1
  split
  · split
    · exact .ite (State.foldFinish_keeps h) h
    · exact .ite h (State.foldFinish_keeps h)
  · refine .ite h ?_
    refine .ite (State.setHull_keeps h) ?_
    extract_lets +onlyGivenNames s2
    have h2 : Keeps s0 s2 := State.setHull_keeps h
    clear_value s2
    extract_lets +onlyGivenNames x3
    split
    · exact h2
    · extract_lets +onlyGivenNames x4
      refine .ite h2 ?_
      split
      · exact State.foldRest_keeps (State.foldStop_keeps h2)
      · split
        · exact .ite h2 (.ite (State.foldFinish_keeps h2) (State.setHull_keeps h2))
        · exact State.foldFinish_keeps h2
  · exact h

theorem execReclaimForceTimeout_keeps (h : Keeps s0 s) : Answers s0 (execReclaimForceTimeout a1 s) := by
  unfold execReclaimForceTimeout
  refine .next ?_
  extract_lets +onlyGivenNames x1
  refine .ite h ?_
  extract_lets +onlyGivenNames x2 x3
  split
  · refine .ite ?_ (.ite (State.setHull_keeps h) h)
    extract_lets +onlyGivenNames s4
    have h4 : Keeps s0 s4 := State.setHull_keeps h
    clear_value s4
    exact State.event_keeps h4
  · exact .ite (State.setHull_keeps h) h

theorem execResendRequest_keeps (h : Keeps s0 s) : Answers s0 (execResendRequest a1 a2 a3 a4 s) := by
  unfold execResendRequest
  refine .next ?_
  split
  · extract_lets -merge -useContext -underBinder +onlyGivenNames x1
    try clear_value x1
    extract_lets -merge -useContext -underBinder +onlyGivenNames x2
    try clear_value x2
    extract_lets -merge -useContext -underBinder +onlyGivenNames x3
    try clear_value x3
    extract_lets -merge -useContext -underBinder +onlyGivenNames s4
    have h4 : Keeps s0 s4 := .ite h (State.sendPriv_keeps h)
    clear_value s4
    extract_lets -merge -useContext -underBinder +onlyGivenNames s5
    have h5 : Keeps s0 s5 := .foldl h4 fun _ _ h7 => (State.sendPriv_keeps h7)
    clear_value s5
    extract_lets -merge -useContext -underBinder +onlyGivenNames x6
    try clear_value x6
    exact State.serveResends_keeps (State.setHull_keeps h5)
  · exact h

theorem execPlacementSetting_keeps (h : Keeps s0 s) : Answers s0 (execPlacementSetting a1 a2 a3 s) := by
  unfold execPlacementSetting
  exact .next (.ite (State.takeSetting_keeps (State.passSetting_keeps h)) h)

theorem execPlacementRequest_keeps (h : Keeps s0 s) : Answers s0 (execPlacementRequest a1 a2 a3 s) := by
  unfold execPlacementRequest
  refine .next ?_
  split
  · refine .ite h ?_
    extract_lets +onlyGivenNames x1 x2 x3
    exact State.takeSetting_keeps (State.passSetting_keeps h)
  · exact h

theorem execLayerCopy_keeps (h : Keeps s0 s) : Answers s0 (execLayerCopy a1 a2 a3 a4 s) := by
  unfold execLayerCopy
  repeat' first
    | with_reducible refine Answers.next ?_
    | (extract_lets +onlyGivenNames x; ((refine Keeps.cut (P := Keeps s0 x) ?_ fun _ => ?_) <;> [(unfold x; rename' x => y); (try clear_value x; rename' x => y)]))
    | (extract_lets +onlyGivenNames x; (try clear_value x); rename' x => y)
    | with_reducible refine State.meeting_keeps ?_ (fun _ _ => ?_)
    | with_reducible refine State.shardState_keeps ?_
    | with_reducible refine State.setShard_keeps ?_
    | with_reducible refine State.setHull_keeps ?_
    | with_reducible refine State.twinFeed_keeps ?_
    | with_reducible refine Keeps.foldl ?_ fun _ _ _ => ?_
    | with_reducible exact Keeps.put rfl rfl rfl rfl (by assumption)
    | split

theorem execTwinDigest_keeps (h : Keeps s0 s) : Answers s0 (execTwinDigest a1 a2 a3 a4 a5 s) := by
  unfold execTwinDigest
  refine .next ?_
  split
  · exact .ite h (State.twinCompare_keeps (State.setShard_keeps h))
  · exact h

theorem execTwinFeed_keeps (h : Keeps s0 s) : Answers s0 (execTwinFeed a1 a2 a3 s) := by
  unfold execTwinFeed
  repeat' first
    | with_reducible refine Answers.next ?_
    | (extract_lets +onlyGivenNames x; ((refine Keeps.cut (P := Keeps s0 x) ?_ fun _ => ?_) <;> [(unfold x; rename' x => y); (try clear_value x; rename' x => y)]))
    | (extract_lets +onlyGivenNames x; (try clear_value x); rename' x => y)
    | with_reducible refine State.meeting_keeps ?_ (fun _ _ => ?_)
    | with_reducible refine State.dropStale_keeps ?_
    | with_reducible refine State.takeInbox_keeps ?_
    | with_reducible refine State.huskStop_keeps ?_
    | with_reducible refine State.collWrite_keeps ?_
    | with_reducible refine State.setHull_keeps ?_
    | with_reducible exact Keeps.put rfl rfl rfl rfl (by assumption)
    | split

theorem execReformDecision_keeps (h : Keeps s0 s) : Answers s0 (execReformDecision a1 a2 a3 a4 a5 s) := by
  unfold execReformDecision
  repeat' first
    | with_reducible refine Answers.next ?_
    | (extract_lets +onlyGivenNames x; ((refine Keeps.cut (P := Keeps s0 x) ?_ fun _ => ?_) <;> [(unfold x; rename' x => y); (try clear_value x; rename' x => y)]))
    | (extract_lets +onlyGivenNames x; (try clear_value x); rename' x => y)
    | with_reducible refine State.meeting_keeps ?_ (fun _ _ => ?_)
    | with_reducible refine State.raise_keeps ?_
    | with_reducible refine State.stopHull_keeps ?_
    | with_reducible refine State.groupLoses_keeps ?_
    | with_reducible refine State.setHull_keeps ?_
    | with_reducible refine State.announceAgain_keeps ?_
    | with_reducible refine State.shareFinals_keeps ?_
    | with_reducible refine State.progressGroup_keeps ?_
    | with_reducible refine State.rankLost_keeps ?_
    | with_reducible exact Keeps.put rfl rfl rfl rfl (by assumption)
    | split

theorem execReformProposal_keeps (h : Keeps s0 s) : Answers s0 (execReformProposal a1 a2 a3 a4 a5 s) := by
  unfold execReformProposal
  repeat' first
    | with_reducible refine Answers.next ?_
    | (extract_lets +onlyGivenNames x; (try clear_value x); rename' x => y)
    | with_reducible refine State.sendProposal_keeps ?_
    | with_reducible refine State.event_keeps ?_
    | with_reducible refine State.sendPriv_keeps ?_
    | with_reducible refine Keeps.foldl ?_ fun _ _ _ => ?_
    | with_reducible exact Keeps.put rfl rfl rfl rfl (by assumption)
    | split

theorem execSuspect_keeps (h : Keeps s0 s) : Answers s0 (execSuspect a1 a2 a3 s) := by
  unfold execSuspect
  repeat' first
    | with_reducible refine Answers.next ?_
    | (extract_lets +onlyGivenNames x; ((refine Keeps.cut (P := Keeps s0 x) ?_ fun _ => ?_) <;> [(unfold x; rename' x => y); (try clear_value x; rename' x => y)]))
    | with_reducible refine State.event_keeps ?_
    | with_reducible refine State.sendProposal_keeps ?_
    | with_reducible refine Keeps.ite ?_ ?_
    | with_reducible exact Keeps.put rfl rfl rfl rfl (by assumption)
    | split

theorem execHeartbeat_keeps (h : Keeps s0 s) : Answers s0 (execHeartbeat a1 a2 s) := by
  unfold execHeartbeat
  refine .next ?_
  split
  · extract_lets +onlyGivenNames s1
    have h1 : Keeps s0 s1 := .foldl h fun _ _ h3 => (State.sendPriv_keeps h3)
    clear_value s1
    exact State.setGroup_keeps h1
  · exact h

theorem execExactRecord_keeps (h : Keeps s0 s) : Answers s0 (execExactRecord a1 a2 s) := by
  unfold execExactRecord
  repeat' first
    | with_reducible refine Answers.next ?_
    | with_reducible refine State.meeting_keeps ?_ (fun _ _ => ?_)
    | with_reducible refine State.progressGroup_keeps ?_
    | with_reducible refine State.exactResult_keeps ?_
    | with_reducible refine State.setRun_keeps ?_
    | with_reducible refine Keeps.ite ?_ ?_
    | with_reducible exact Keeps.put rfl rfl rfl rfl (by assumption)
    | split

theorem execDecisionMessage_keeps (h : Keeps s0 s) : Answers s0 (execDecisionMessage a1 a2 s) := by
  unfold execDecisionMessage
  repeat' first
    | with_reducible refine Answers.next ?_
    | (extract_lets +onlyGivenNames x; ((refine Keeps.cut (P := Keeps s0 x) ?_ fun _ => ?_) <;> [(unfold x; rename' x => y); (try clear_value x; rename' x => y)]))
    | with_reducible refine State.meeting_keeps ?_ (fun _ _ => ?_)
    | with_reducible refine State.addDecision_keeps ?_
    | with_reducible refine State.progressGroup_keeps ?_
    | with_reducible refine State.passDecision_keeps ?_
    | with_reducible refine Keeps.ite ?_ ?_
    | with_reducible exact Keeps.put rfl rfl rfl rfl (by assumption)
    | split

theorem execLateDecision_keeps (h : Keeps s0 s) : Answers s0 (execLateDecision a1 a2 s) := by
  unfold execLateDecision
  repeat' first
    | with_reducible refine Answers.next ?_
    | (extract_lets +onlyGivenNames x; ((refine Keeps.cut (P := Keeps s0 x) ?_ fun _ => ?_) <;> [(unfold x; rename' x => y); (try clear_value x; rename' x => y)]))
    | with_reducible refine State.meeting_keeps ?_ (fun _ _ => ?_)
    | with_reducible refine State.event_keeps ?_
    | with_reducible refine State.setRun_keeps ?_
    | with_reducible refine State.progressGroup_keeps ?_
    | with_reducible refine State.announce_keeps ?_
    | with_reducible refine Keeps.ite ?_ ?_
    | with_reducible exact Keeps.put rfl rfl rfl rfl (by assumption)
    | split

theorem execChunkReceive_keeps (h : Keeps s0 s) : Answers s0 (execChunkReceive a1 a2 a3 s) := by
  unfold execChunkReceive
  repeat' first
    | with_reducible refine Answers.next ?_
    | (extract_lets +onlyGivenNames x; ((refine Keeps.cut (P := Keeps s0 x) ?_ fun _ => ?_) <;> [(unfold x; rename' x => y); (try clear_value x; rename' x => y)]))
    | with_reducible refine State.meeting_keeps ?_ (fun _ _ => ?_)
    | with_reducible refine State.dropStale_keeps ?_
    | with_reducible refine State.takeInbox_keeps ?_
    | with_reducible refine State.setGroup_keeps ?_
    | with_reducible refine State.huskStop_keeps ?_
    | with_reducible refine State.setRun_keeps ?_
    | with_reducible refine State.raise_keeps ?_
    | with_reducible refine State.stopHull_keeps ?_
    | with_reducible refine State.collRec_keeps ?_
    | with_reducible refine State.event_keeps ?_
    | with_reducible refine State.progressGroup_keeps ?_
    | with_reducible refine State.landGather_keeps ?_
    | with_reducible refine Keeps.ite ?_ ?_
    | with_reducible exact Keeps.put rfl rfl rfl rfl (by assumption)
    | split

theorem execCollOpStart_keeps (h : Keeps s0 s) : Answers s0 (execCollOpStart a1 a2 a3 s) := by
  unfold execCollOpStart
  repeat' first
    | with_reducible refine Answers.next ?_
    | (extract_lets +onlyGivenNames x; ((refine Keeps.cut (P := Keeps s0 x) ?_ fun _ => ?_) <;> [(unfold x; rename' x => y); (try clear_value x; rename' x => y)]))
    | (extract_lets +onlyGivenNames x; ((refine Keeps.cut (P := Keeps s0 x.1) ?_ fun _ => ?_) <;> [(unfold x; rename' x => y); (try clear_value x; rename' x => y)]))
    | (extract_lets +onlyGivenNames x; (try clear_value x); rename' x => y)
    | with_reducible refine State.meeting_keeps ?_ (fun _ _ => ?_)
    | with_reducible refine State.raise_keeps ?_
    | with_reducible refine State.collRec_keeps ?_
    | with_reducible refine State.stopHull_keeps ?_
    | with_reducible refine State.collRead_keeps ?_
    | with_reducible refine State.huskStop_keeps ?_
    | with_reducible refine State.collWrite_keeps ?_
    | with_reducible refine State.collTake_keeps ?_
    | with_reducible refine State.progressGroup_keeps ?_
    | with_reducible refine State.setRun_keeps ?_
    | with_reducible exact Keeps.put rfl rfl rfl rfl (by assumption)
    | split

theorem execJvDisable_keeps (h : Keeps s0 s) : Answers s0 (execJvDisable a1 s) := by
  unfold execJvDisable
  exact .next (.ite (State.setDisable_keeps h) h)

theorem execDownTimeout_keeps (h : Keeps s0 s) : Answers s0 (execDownTimeout a1 s) := by
  unfold execDownTimeout
  exact .next (.ite (State.leave_keeps h) h)

theorem execTrainingComplete_keeps (h : Keeps s0 s) : Answers s0 (execTrainingComplete a1 a2 a3 a4 a5 s) := by
  unfold execTrainingComplete
  refine .next ?_
  extract_lets +onlyGivenNames x1
  split
  · extract_lets +onlyGivenNames x2 x3 x4 s5
    have h5 : Keeps s0 s5 := State.setBundle_keeps h
    clear_value s5
    refine .ite ?_ ?_
    · extract_lets +onlyGivenNames x6 s7
      have h7 : Keeps s0 s7 := State.setBundle_keeps h5
      clear_value s7
      extract_lets +onlyGivenNames s8
      have h8 : Keeps s0 s8 := State.event_keeps h7
      clear_value s8
      extract_lets +onlyGivenNames s9
      have h9 : Keeps s0 s9 := .ite (State.event_keeps h8) h8
      clear_value s9
      exact State.flushWaiting_keeps h9
    · extract_lets +onlyGivenNames s6
      have h6 : Keeps s0 s6 := .ite h5 (State.event_keeps h5)
      clear_value s6
      exact State.enterDown_keeps h6
  · exact h

theorem execLaneLoss_keeps (h : Keeps s0 s) : Answers s0 (execLaneLoss a1 a2 s) := by
  unfold execLaneLoss
  exact .next (.ite (State.leave_keeps h) h)

theorem execBundleRetrain_keeps (h : Keeps s0 s) : Answers s0 (execBundleRetrain a1 s) := by
  unfold execBundleRetrain
  refine .next ?_
  extract_lets +onlyGivenNames x1
  exact .ite (State.leave_keeps h) h

theorem execMessageReceive_keeps (h : Keeps s0 s) : Answers s0 (execMessageReceive a1 a2 s) := by
  unfold execMessageReceive
  refine .next ?_
  refine .ite h ?_
  refine .ite (State.regOr_keeps h) ?_
  refine .ite (.ite (State.relay_keeps h) h) ?_
  refine .ite h ?_
  extract_lets +onlyGivenNames s1
  have h1 : Keeps s0 s1 := State.hear_keeps (State.markSeen_keeps h)
  clear_value s1
  refine .ite h1 ?_
  refine .ite ?_ (.upd h1 (by simp only [State.keptPart]))
  extract_lets +onlyGivenNames x2
  exact State.setHull_keeps h1

theorem execFlitReceive_keeps (h : Keeps s0 s) : Answers s0 (execFlitReceive a1 a2 s) := by
  unfold execFlitReceive
  repeat' first
    | with_reducible refine Answers.next ?_
    | (extract_lets +onlyGivenNames x; ((refine Keeps.cut (P := Keeps s0 x) ?_ fun _ => ?_) <;> [(unfold x; rename' x => y); (try clear_value x; rename' x => y)]))
    | (extract_lets +onlyGivenNames x; (try clear_value x); rename' x => y)
    | with_reducible refine State.emit_keeps ?_
    | with_reducible refine State.setBundle_keeps ?_
    | with_reducible refine State.pump_keeps ?_
    | with_reducible exact Keeps.put rfl rfl rfl rfl (by assumption)
    | split

theorem execThrottleChange_keeps (h : Keeps s0 s) : Answers s0 (execThrottleChange a1 a2 s) := by
  unfold execThrottleChange
  extract_lets s1 b l soon s2 s3
  have h1 : Keeps s0 s1 := State.setTj_keeps h
  have h2 : Keeps s0 s2 := .upd h1 rfl
  have h3 : Keeps s0 s3 := .ite h2 (.foldl h2 fun _ _ h => State.setHull_keeps h)
  exact .next (.ite h (.ite h1 (State.raise_keeps (State.envRec_keeps h3))))

theorem execTimeTickCfg_keeps (h : Keeps s0 s) : Answers s0 (execTimeTickCfg a1 s) := by
  unfold execTimeTickCfg
  exact .next (.ite (State.tickCfg_keeps h) h)

theorem execLaunchFire_keeps (h : Keeps s0 s) : Answers s0 (execLaunchFire a1 s) := by
  unfold execLaunchFire
  refine .next ?_
  extract_lets +onlyGivenNames x1
  split
  · exact .ite (State.event_keeps (State.setHull_keeps h)) h
  · exact h

theorem execTimeMessage_keeps (h : Keeps s0 s) : Answers s0 (execTimeMessage a1 s) := by
  unfold execTimeMessage
  refine .next ?_
  split
  · exact h
  · extract_lets +onlyGivenNames x1 x2 x3
    split
    · exact .upd h (by simp only [State.keptPart])
    · extract_lets +onlyGivenNames x4 x5
      exact .upd h (by simp only [State.keptPart])
    · extract_lets +onlyGivenNames x4 x5
      exact .ite (State.event_keeps (.upd h (by simp only [State.keptPart]))) (.upd h (by simp only [State.keptPart]))
    · extract_lets +onlyGivenNames x4 x5
      exact .upd h (by simp only [State.keptPart])

theorem execTimeGtcSet_keeps (h : Keeps s0 s) : Answers s0 (execTimeGtcSet a1 s) := by
  unfold execTimeGtcSet
  exact .next (.ite (State.gtcSet_keeps h) h)

theorem execRollbackComplete_keeps (h : Keeps s0 s) : Answers s0 (execRollbackComplete a1 a2 s) := by
  unfold execRollbackComplete
  repeat' first
    | with_reducible refine Answers.next ?_
    | (extract_lets +onlyGivenNames x; ((refine Keeps.cut (P := Keeps s0 x) ?_ fun _ => ?_) <;> [(unfold x; rename' x => y); (try clear_value x; rename' x => y)]))
    | (extract_lets +onlyGivenNames x; (try clear_value x); rename' x => y)
    | with_reducible refine State.meeting_keeps ?_ (fun _ _ => ?_)
    | with_reducible refine State.restoreUndo_keeps ?_
    | with_reducible refine State.setHull_keeps ?_
    | with_reducible exact Keeps.put rfl rfl rfl rfl (by assumption)
    | split

theorem execSegmentAck_keeps (h : Keeps s0 s) : Answers s0 (execSegmentAck a1 a2 s) := by
  unfold execSegmentAck
  refine .next ?_
  extract_lets +onlyGivenNames x1 x2
  exact .ite h (.ite (State.ckptDone_keeps h) (.ite h (State.sendSegment_keeps (State.setHull_keeps h))))

theorem execExtractionComplete_keeps (h : Keeps s0 s) : Answers s0 (execExtractionComplete a1 a2 s) := by
  unfold execExtractionComplete
  repeat' first
    | with_reducible refine Answers.next ?_
    | (extract_lets +onlyGivenNames x; ((refine Keeps.cut (P := Keeps s0 x) ?_ fun _ => ?_) <;> [(unfold x; rename' x => y); (try clear_value x; rename' x => y)]))
    | (extract_lets +onlyGivenNames x; ((refine Keeps.cut (P := Keeps s0 x.1) ?_ fun _ => ?_) <;> [(unfold x; rename' x => y); (try clear_value x; rename' x => y)]))
    | (extract_lets +onlyGivenNames x; (try clear_value x); rename' x => y)
    | with_reducible refine State.meeting_keeps ?_ (fun _ _ => ?_)
    | with_reducible refine State.extractAll_keeps ?_
    | with_reducible refine State.drainClear_keeps ?_
    | with_reducible refine State.readRecords_keeps ?_
    | with_reducible refine State.windowRead_keeps ?_
    | with_reducible refine State.ckptFail_keeps ?_
    | with_reducible refine State.setHull_keeps ?_
    | with_reducible refine State.sendSegment_keeps ?_
    | with_reducible exact Keeps.put rfl rfl rfl rfl (by assumption)
    | split

theorem execTickBegin_keeps (h : Keeps s0 s) : Answers s0 (execTickBegin a1 a2 s) := by
  unfold execTickBegin
  repeat' first
    | with_reducible refine Answers.next ?_
    | (extract_lets +onlyGivenNames x; ((refine Keeps.cut (P := Keeps s0 x) ?_ fun _ => ?_) <;> [(unfold x; rename' x => y); (try clear_value x; rename' x => y)]))
    | (extract_lets +onlyGivenNames x; (try clear_value x); rename' x => y)
    | with_reducible refine State.meeting_keeps ?_ (fun _ _ => ?_)
    | with_reducible refine State.stopHull_keeps ?_
    | with_reducible refine State.logHold_keeps ?_
    | with_reducible refine State.openStep_keeps ?_
    | with_reducible refine State.recordBoundary_keeps ?_
    | with_reducible refine State.markUndo_keeps ?_
    | with_reducible refine State.logFreed_keeps ?_
    | with_reducible refine State.leaveBoundary_keeps ?_
    | with_reducible refine State.tickSlip_keeps ?_
    | with_reducible refine State.setHull_keeps ?_
    | with_reducible refine State.forcedHold_keeps ?_ ?_
    | with_reducible refine State.openTick_keeps ?_
    | with_reducible refine State.openWindow_keeps ?_
    | with_reducible refine State.passBoundary_keeps ?_
    | with_reducible exact Keeps.put rfl rfl rfl rfl (by assumption)
    | split

theorem execEngineComplete_keeps (h : Keeps s0 s) : Answers s0 (execEngineComplete a1 s) := by
  unfold execEngineComplete
  repeat' first
    | with_reducible refine Answers.next ?_
    | (extract_lets +onlyGivenNames x; ((refine Keeps.cut (P := Keeps s0 x) ?_ fun _ => ?_) <;> [(unfold x; rename' x => y); (try clear_value x; rename' x => y)]))
    | with_reducible refine State.meeting_keeps ?_ (fun _ _ => ?_)
    | with_reducible refine State.signalCounter_keeps ?_
    | with_reducible refine State.ausReply_keeps ?_
    | with_reducible refine State.winWrite_keeps ?_
    | with_reducible refine State.ausSettle_keeps ?_
    | with_reducible refine State.setEng_keeps ?_
    | with_reducible refine Keeps.ite ?_ ?_
    | with_reducible exact Keeps.put rfl rfl rfl rfl (by assumption)
    | split

theorem execAusFree_keeps (h : Keeps s0 s) : Answers s0 (execAusFree a1 s) := by
  unfold execAusFree
  refine .next ?_
  split
  · exact h
  · extract_lets +onlyGivenNames x1
    split
    · exact State.ausFinish_keeps (State.setEng_keeps h)
    · exact State.ausRefuse_keeps h

theorem execQpAdmm_keeps (h : Keeps s0 s) : Answers s0 (execQpAdmm a1 a2 s) := by
  unfold execQpAdmm
  exact .next (State.ausOp_keeps h)

theorem execQpIp_keeps (h : Keeps s0 s) : Answers s0 (execQpIp a1 a2 s) := by
  unfold execQpIp
  exact .next (State.ausOp_keeps h)

theorem execInvroot_keeps (h : Keeps s0 s) : Answers s0 (execInvroot a1 a2 s) := by
  unfold execInvroot
  exact .next (State.ausOp_keeps h)

theorem execRefine_keeps (h : Keeps s0 s) : Answers s0 (execRefine a1 a2 s) := by
  unfold execRefine
  exact .next (State.ausOp_keeps h)

theorem execSolve_keeps (h : Keeps s0 s) : Answers s0 (execSolve a1 a2 s) := by
  unfold execSolve
  exact .next (State.ausOp_keeps h)

theorem execFactor_keeps (h : Keeps s0 s) : Answers s0 (execFactor a1 a2 s) := by
  unfold execFactor
  exact .next (State.ausOp_keeps h)

theorem execAusDelta_keeps (h : Keeps s0 s) : Answers s0 (execAusDelta a1 a2 s) := by
  unfold execAusDelta
  repeat' first
    | with_reducible refine Answers.next ?_
    | (extract_lets +onlyGivenNames x; (try clear_value x); rename' x => y)
    | with_reducible refine State.ausMeet_keeps ?_ (fun _ _ => ?_)
    | with_reducible refine State.ausFinish_keeps ?_
    | with_reducible refine State.setEng_keeps ?_
    | with_reducible refine State.ausRefuse_keeps ?_
    | with_reducible exact Keeps.put rfl rfl rfl rfl (by assumption)
    | split

theorem execAusLoad_keeps (h : Keeps s0 s) : Answers s0 (execAusLoad a1 a2 s) := by
  unfold execAusLoad
  repeat' first
    | with_reducible refine Answers.next ?_
    | (extract_lets +onlyGivenNames x; (try clear_value x); rename' x => y)
    | with_reducible refine State.ausMeet_keeps ?_ (fun _ _ => ?_)
    | with_reducible refine State.ausRefuse_keeps ?_
    | with_reducible refine State.ausFinish_keeps ?_
    | with_reducible refine State.setEng_keeps ?_
    | with_reducible exact Keeps.put rfl rfl rfl rfl (by assumption)
    | split

theorem execNmuScrub_keeps (h : Keeps s0 s) : Answers s0 (execNmuScrub a1 a2 s) := by
  unfold execNmuScrub
  repeat' first
    | with_reducible assumption
    | with_reducible refine Answers.next ?_
    | with_reducible refine Keeps.foldSt ?_ fun _ _ _ => ?_
    | with_reducible refine State.meeting_keeps ?_ (fun _ _ => ?_)
    | with_reducible refine State.nmuRun_keeps ?_ (fun _ _ _ _ _ _ => ?_)
    | with_reducible refine Parts.close_keeps ?_
    | with_reducible refine scrubPart_keeps ?_
    | with_reducible refine State.parts_keeps ?_
    | with_reducible refine State.nmuTake_keeps ?_

theorem execNmuZero_keeps (h : Keeps s0 s) : Answers s0 (execNmuZero a1 a2 s) := by
  unfold execNmuZero
  repeat' first
    | with_reducible assumption
    | with_reducible refine Answers.next ?_
    | with_reducible refine State.meeting_keeps ?_ (fun _ _ => ?_)
    | with_reducible refine State.nmuRun_keeps ?_ (fun _ _ _ _ _ _ => ?_)
    | with_reducible refine Parts.close_keeps ?_
    | with_reducible refine Parts.wrote_keeps ?_
    | with_reducible refine State.nmuTake_keeps ?_
    | with_reducible refine State.zeroRange_keeps ?_

theorem execNmuDelta_keeps (h : Keeps s0 s) : Answers s0 (execNmuDelta a1 a2 s) := by
  unfold execNmuDelta
  repeat' first
    | with_reducible assumption
    | with_reducible refine Answers.next ?_
    | (extract_lets +onlyGivenNames x; ((refine Keeps.cut (P := Keeps s0 x) ?_ fun _ => ?_) <;> [(unfold x; rename' x => y); (try clear_value x; rename' x => y)]))
    | with_reducible refine Keeps.foldSt ?_ fun _ _ _ => ?_
    | with_reducible refine State.meeting_keeps ?_ (fun _ _ => ?_)
    | with_reducible refine State.nmuRun_keeps ?_ (fun _ _ _ _ _ _ => ?_)
    | with_reducible refine State.nmuTake_keeps ?_
    | with_reducible refine State.nmuEnd_keeps ?_
    | with_reducible refine Parts.close_keeps ?_
    | with_reducible refine deltaBlock_keeps ?_
    | with_reducible refine State.parts_keeps ?_
    | with_reducible refine Keeps.ite ?_ ?_

theorem execSnapshot_keeps (h : Keeps s0 s) : Answers s0 (execSnapshot a1 a2 s) := by
  unfold execSnapshot
  repeat' first
    | with_reducible refine Answers.next ?_
    | (extract_lets +onlyGivenNames x; ((refine Keeps.cut (P := Keeps s0 x) ?_ fun _ => ?_) <;> [(unfold x; rename' x => y); (try clear_value x; rename' x => y)]))
    | with_reducible refine State.meeting_keeps ?_ (fun _ _ => ?_)
    | with_reducible refine State.nmuRun_keeps ?_ (fun _ _ _ _ _ _ => ?_)
    | with_reducible refine State.nmuTake_keeps ?_
    | with_reducible refine State.nmuEnd_keeps ?_
    | with_reducible refine State.mark_keeps ?_
    | with_reducible refine State.holdKey_keeps ?_
    | with_reducible refine Keeps.ite ?_ ?_
    | with_reducible refine Keeps.foldl ?_ fun _ _ _ => ?_
    | with_reducible exact Keeps.put rfl rfl rfl rfl (by assumption)
    | split

theorem execVerify_keeps (h : Keeps s0 s) : Answers s0 (execVerify a1 a2 s) := by
  unfold execVerify
  repeat' first
    | with_reducible assumption
    | with_reducible refine Answers.next ?_
    | (extract_lets +onlyGivenNames x; ((refine Keeps.cut (P := Keeps s0 x.1.st) ?_ fun _ => ?_) <;> [(unfold x; rename' x => y); (try clear_value x; rename' x => y)]))
    | with_reducible refine Keeps.foldSt1 ?_ fun _ _ _ => ?_
    | with_reducible refine State.meeting_keeps ?_ (fun _ _ => ?_)
    | with_reducible refine State.nmuRun_keeps ?_ (fun _ _ _ _ _ _ => ?_)
    | with_reducible refine verifyBlock_keeps ?_
    | with_reducible refine State.parts_keeps ?_
    | with_reducible refine State.nmuTake_keeps ?_
    | with_reducible refine State.nmuEnd_keeps ?_
    | with_reducible refine State.nmuReturn_keeps ?_
    | with_reducible refine Parts.close_keeps ?_
    | with_reducible refine Keeps.ite ?_ ?_

theorem execNmuDigest_keeps (h : Keeps s0 s) : Answers s0 (execNmuDigest a1 a2 s) := by
  unfold execNmuDigest
  repeat' first
    | with_reducible assumption
    | with_reducible refine Answers.next ?_
    | (extract_lets +onlyGivenNames x; ((refine Keeps.cut (P := Keeps s0 x.1) ?_ fun _ => ?_) <;> [(unfold x; rename' x => y); (try clear_value x; rename' x => y)]))
    | with_reducible refine Keeps.foldSt ?_ fun _ _ _ => ?_
    | with_reducible refine State.meeting_keeps ?_ (fun _ _ => ?_)
    | with_reducible refine State.nmuRun_keeps ?_ (fun _ _ _ _ _ _ => ?_)
    | with_reducible refine huskList_keeps ?_
    | with_reducible refine State.nmuTake_keeps ?_
    | with_reducible refine State.nmuEnd_keeps ?_
    | with_reducible refine State.nmuReturn_keeps ?_
    | with_reducible refine Parts.close_keeps ?_
    | with_reducible refine Parts.fail_keeps ?_
    | with_reducible refine State.parts_keeps ?_
    | with_reducible refine Keeps.ite ?_ ?_

theorem execScatterAdd_keeps (h : Keeps s0 s) : Answers s0 (execScatterAdd a1 a2 a3 s) := by
  unfold execScatterAdd
  repeat' first
    | with_reducible assumption
    | with_reducible refine Answers.next ?_
    | (extract_lets +onlyGivenNames x; ((refine Keeps.cut (P := Keeps s0 x) ?_ fun _ => ?_) <;> [(unfold x; rename' x => y); (try clear_value x; rename' x => y)]))
    | (extract_lets +onlyGivenNames x; ((refine Keeps.cut (P := Keeps s0 x.1) ?_ fun _ => ?_) <;> [(unfold x; rename' x => y); (try clear_value x; rename' x => y)]))
    | (extract_lets +onlyGivenNames x; ((refine Keeps.cut (P := Keeps s0 x.1.st) ?_ fun _ => ?_) <;> [(unfold x; rename' x => y); (try clear_value x; rename' x => y)]))
    | with_reducible refine Keeps.foldSt1 ?_ fun _ _ _ => ?_
    | with_reducible refine State.meeting_keeps ?_ (fun _ _ => ?_)
    | with_reducible refine State.nmuRun_keeps ?_ (fun _ _ _ _ _ _ => ?_)
    | with_reducible refine State.nmuTake_keeps ?_
    | with_reducible refine scatterRow_keeps ?_
    | with_reducible refine State.parts_keeps ?_
    | with_reducible refine Parts.close_keeps ?_

theorem execUpdate_keeps (h : Keeps s0 s) : Answers s0 (execUpdate a1 a2 a3 s) := by
  unfold execUpdate
  repeat' first
    | with_reducible assumption
    | with_reducible refine Answers.next ?_
    | with_reducible refine Keeps.foldSt ?_ fun _ _ _ => ?_
    | with_reducible refine State.meeting_keeps ?_ (fun _ _ => ?_)
    | with_reducible refine State.nmuRun_keeps ?_ (fun _ _ _ _ _ _ => ?_)
    | with_reducible refine State.nmuTake_keeps ?_
    | with_reducible refine State.nmuEnd_keeps ?_
    | with_reducible refine Parts.close_keeps ?_
    | with_reducible refine updatePart_keeps ?_
    | with_reducible refine State.parts_keeps ?_
    | with_reducible refine Keeps.ite ?_ ?_

theorem execReduceHoldRelease_keeps (h : Keeps s0 s) : Answers s0 (execReduceHoldRelease a1 a2 s) := by
  unfold execReduceHoldRelease
  repeat' first
    | with_reducible refine Answers.next ?_
    | (extract_lets +onlyGivenNames x; ((refine Keeps.cut (P := Keeps s0 x) ?_ fun _ => ?_) <;> [(unfold x; rename' x => y); (try clear_value x; rename' x => y)]))
    | (extract_lets +onlyGivenNames x; (try clear_value x); rename' x => y)
    | with_reducible refine State.meeting_keeps ?_ (fun _ _ => ?_)
    | with_reducible refine State.nmuRun_keeps ?_ (fun _ _ _ _ _ _ => ?_)
    | with_reducible refine State.reduceAt_keeps ?_
    | with_reducible exact Keeps.put rfl rfl rfl rfl (by assumption)
    | split

theorem execReduce_keeps (h : Keeps s0 s) : Answers s0 (execReduce a1 a2 a3 s) := by
  unfold execReduce
  repeat' first
    | with_reducible assumption
    | with_reducible refine Answers.next ?_
    | with_reducible refine State.meeting_keeps ?_ (fun _ _ => ?_)
    | with_reducible refine State.nmuRun_keeps ?_ (fun _ _ _ _ _ _ => ?_)
    | with_reducible refine State.reduceAt_keeps ?_

theorem execScrubBlock_keeps (h : Keeps s0 s) : Answers s0 (execScrubBlock a1 a2 a3 a4 s) := by
  unfold execScrubBlock
  repeat' first
    | with_reducible refine Answers.next ?_
    | (extract_lets +onlyGivenNames x; ((refine Keeps.cut (P := Keeps s0 x) ?_ fun _ => ?_) <;> [(unfold x; rename' x => y); (try clear_value x; rename' x => y)]))
    | (extract_lets +onlyGivenNames x; (try clear_value x); rename' x => y)
    | with_reducible refine State.scrubWrap_keeps ?_
    | with_reducible refine State.setUnit_keeps ?_
    | with_reducible refine State.scrubOne_keeps ?_
    | with_reducible refine Keeps.ite ?_ ?_
    | with_reducible exact Keeps.put rfl rfl rfl rfl (by assumption)

theorem execRefreshHot_keeps (h : Keeps s0 s) : Answers s0 (execRefreshHot a1 a2 a3 a4 s) := by
  unfold execRefreshHot
  refine .next ?_
  refine .ite ?_ h
  extract_lets +onlyGivenNames x1 x2 x3 x4 s5
  have h5 : Keeps s0 s5 := .upd h (by simp only [State.keptPart]; rfl)
  clear_value s5
  exact .ite (State.event_keeps h5) h5

theorem execRefresh_keeps (h : Keeps s0 s) : Answers s0 (execRefresh a1 s) := by
  unfold execRefresh
  exact .next (.ite (State.setUnit_keeps h) h)

theorem execMapoutCopyComplete_keeps (h : Keeps s0 s) : Answers s0 (execMapoutCopyComplete a1 a2 s) := by
  unfold execMapoutCopyComplete
  refine .next ?_
  refine .ite h ?_
  extract_lets +onlyGivenNames x1 x2 x3 x4 s5
  have h5 : Keeps s0 s5 := .upd h (by simp only [State.keptPart]; rfl)
  clear_value s5
  extract_lets +onlyGivenNames s6
  have h6 : Keeps s0 s6 := by
    unfold s6
    split
    · refine .ite (State.mapOutCopied_keeps h5) ?_
      extract_lets +onlyGivenNames x8 x9 s10
      have h10 : Keeps s0 s10 := State.setUnit_keeps h5
      clear_value s10
      exact State.mapOutFail_keeps h10
    · exact h5
  clear_value s6
  exact State.mapOutNext_keeps h6

theorem execDescriptorRetire_keeps (h : Keeps s0 s) : Answers s0 (execDescriptorRetire a1 a2 a3 a4 a5 s) := by
  unfold execDescriptorRetire
  repeat' first
    | with_reducible refine Answers.next ?_
    | (extract_lets +onlyGivenNames x; ((refine Keeps.cut (P := Keeps s0 x.1) ?_ fun _ => ?_) <;> [(unfold x; rename' x => y); (try clear_value x; rename' x => y)]))
    | (extract_lets +onlyGivenNames x; (try clear_value x); rename' x => y)
    | with_reducible refine State.meeting_keeps ?_ (fun _ _ => ?_)
    | with_reducible refine State.updTile_keeps ?_
    | with_reducible refine State.retireFront_keeps ?_
    | with_reducible refine State.countStale_keeps ?_
    | with_reducible refine State.descIssued_keeps ?_
    | with_reducible refine State.doDesc_keeps ?_
    | with_reducible refine State.descDone_keeps ?_
    | with_reducible exact Keeps.put rfl rfl rfl rfl (by assumption)
    | split

theorem execLeaseBreak_keeps (h : Keeps s0 s) : Answers s0 (execLeaseBreak a1 s) := by
  unfold execLeaseBreak
  refine .next ?_
  split
  · exact .ite (State.breakLease_keeps h) h
  · exact h

theorem execSyncRequestArrive_keeps (h : Keeps s0 s) : Answers s0 (execSyncRequestArrive a1 s) := by
  unfold execSyncRequestArrive
  repeat' first
    | with_reducible refine Answers.next ?_
    | with_reducible refine State.syncArrive_keeps ?_
    | with_reducible exact Keeps.put rfl rfl rfl rfl (by assumption)
    | split

theorem execYBsw_keeps (h : Keeps s0 s) : Answers s0 (execYBsw a1 a2 s) := by
  unfold execYBsw
  exact .next (State.guarded_keeps h (fun _ h1 => (State.updTile_keeps h1)))

theorem execYEot_keeps (h : Keeps s0 s) : Answers s0 (execYEot a1 a2 s) := by
  unfold execYEot
  exact .next (State.guarded_keeps h (fun _ h1 => (State.updTile_keeps h1)))

theorem execYBufput_keeps (h : Keeps s0 s) : Answers s0 (execYBufput a1 a2 s) := by
  unfold execYBufput
  exact .next (State.yOp_keeps h)

theorem execYBufget_keeps (h : Keeps s0 s) : Answers s0 (execYBufget a1 a2 s) := by
  unfold execYBufget
  extract_lets +onlyGivenNames x1
  exact .next (State.yOp_keeps h)

theorem execYRelease_keeps (h : Keeps s0 s) : Answers s0 (execYRelease a1 a2 s) := by
  unfold execYRelease
  exact .next (State.yOp_keeps h)

theorem execYLease_keeps (h : Keeps s0 s) : Answers s0 (execYLease a1 a2 s) := by
  unfold execYLease
  exact .next (State.yOp_keeps h)

theorem execYBarr_keeps (h : Keeps s0 s) : Answers s0 (execYBarr a1 a2 s) := by
  unfold execYBarr
  exact .next (State.yOp_keeps h)

theorem execYArrive_keeps (h : Keeps s0 s) : Answers s0 (execYArrive a1 a2 s) := by
  unfold execYArrive
  exact .next (State.yOp_keeps h)

theorem execYAcq_keeps (h : Keeps s0 s) : Answers s0 (execYAcq a1 a2 s) := by
  unfold execYAcq
  exact .next (State.yOp_keeps h)

theorem execYSignal_keeps (h : Keeps s0 s) : Answers s0 (execYSignal a1 a2 s) := by
  unfold execYSignal
  exact .next (State.yOp_keeps h)

theorem execAAucmd_keeps (h : Keeps s0 s) : Answers s0 (execAAucmd a1 a2 a3 a4 a5 s) := by
  unfold execAAucmd
  repeat' first
    | with_reducible assumption
    | with_reducible refine Answers.next ?_
    | with_reducible refine State.guarded_keeps ?_ (fun _ _ => ?_)
    | with_reducible refine State.tsAccess_keeps ?_ (fun _ _ => ?_)
    | with_reducible refine State.tsEcc_keeps ?_ (fun _ _ => ?_)
    | with_reducible refine State.setEng_keeps ?_

theorem execAPget_keeps (h : Keeps s0 s) : Answers s0 (execAPget a1 a2 a3 a4 a5 a6 s) := by
  unfold execAPget
  exact .next (State.guarded_keeps h (fun _ h1 => (State.updTile_keeps h1)))

theorem execAPut_keeps (h : Keeps s0 s) : Answers s0 (execAPut a1 a2 a3 a4 a5 a6 a7 s) := by
  unfold execAPut
  repeat' first
    | with_reducible assumption
    | with_reducible refine Answers.next ?_
    | with_reducible refine State.guarded_keeps ?_ (fun _ _ => ?_)
    | with_reducible refine State.updTile_keeps ?_

theorem execAQstat_keeps (h : Keeps s0 s) : Answers s0 (execAQstat a1 a2 a3 a4 s) := by
  unfold execAQstat
  refine .next ?_
  refine State.guarded_keeps h fun _ h1 => ?_
  extract_lets +onlyGivenNames x2 s3
  have h3 : Keeps s0 s3 := State.result_keeps h1
  clear_value s3
  exact State.updTile_keeps h3

theorem execAWaitm_keeps (h : Keeps s0 s) : Answers s0 (execAWaitm a1 a2 a3 s) := by
  unfold execAWaitm
  exact .next (State.guarded_keeps h (fun _ h1 => (State.waitOn_keeps h1)))

theorem execAWait_keeps (h : Keeps s0 s) : Answers s0 (execAWait a1 a2 a3 a4 s) := by
  unfold execAWait
  exact .next (State.guarded_keeps h (fun _ h1 => (State.waitOn_keeps h1)))

theorem execAEnq_keeps (h : Keeps s0 s) : Answers s0 (execAEnq a1 a2 a3 a4 a5 a6 s) := by
  unfold execAEnq
  repeat' first
    | with_reducible assumption
    | with_reducible refine Answers.next ?_
    | with_reducible refine State.guarded_keeps ?_ (fun _ _ => ?_)
    | with_reducible refine State.tsAccess_keeps ?_ (fun _ _ => ?_)
    | with_reducible refine State.tsEcc_keeps ?_ (fun _ _ => ?_)
    | with_reducible refine State.enqueue_keeps ?_

theorem execSDraw_keeps (h : Keeps s0 s) : Answers s0 (execSDraw a1 a2 s) := by
  unfold execSDraw
  refine .next ?_
  refine State.guarded_keeps h fun _ h1 => ?_
  extract_lets +onlyGivenNames x2 x3 x4
  exact .ite (State.result_keeps h1) (State.contract_keeps h1)

theorem execSSetfl_keeps (h : Keeps s0 s) : Answers s0 (execSSetfl a1 a2 s) := by
  unfold execSSetfl
  exact .next (State.guarded_keeps h (fun _ h1 => (State.updTile_keeps h1)))

theorem execSRdstat_keeps (h : Keeps s0 s) : Answers s0 (execSRdstat a1 a2 s) := by
  unfold execSRdstat
  extract_lets +onlyGivenNames x1
  refine .next ?_
  refine State.guarded_keeps h fun _ h2 => ?_
  extract_lets +onlyGivenNames x3 s4
  have h4 : Keeps s0 s4 := State.result_keeps h2
  clear_value s4
  exact State.updTile_keeps h4

theorem execSBr_keeps (h : Keeps s0 s) : Answers s0 (execSBr a1 a2 a3 a4 s) := by
  unfold execSBr
  exact .next (State.guarded_keeps h (fun _ h1 => (State.updTile_keeps h1)))

theorem execSSt_keeps (h : Keeps s0 s) : Answers s0 (execSSt a1 a2 s) := by
  unfold execSSt
  refine .next ?_
  refine State.guarded_keeps h fun _ h1 => ?_
  extract_lets +onlyGivenNames x2 x3
  exact State.tsAccess_keeps h1 (fun _ h4 => (State.result_keeps h4))

theorem execSLd_keeps (h : Keeps s0 s) : Answers s0 (execSLd a1 a2 a3 s) := by
  unfold execSLd
  refine .next ?_
  refine State.guarded_keeps h fun _ h1 => ?_
  extract_lets +onlyGivenNames x2
  exact State.tsAccess_keeps h1 (fun _ h3 => (State.tsEcc_keeps h3 (fun _ h4 => (State.result_keeps h4))))

theorem execSPandn_keeps (h : Keeps s0 s) : Answers s0 (execSPandn a1 a2 s) := by
  unfold execSPandn
  exact .next (State.sP_keeps h)

theorem execSPor_keeps (h : Keeps s0 s) : Answers s0 (execSPor a1 a2 s) := by
  unfold execSPor
  exact .next (State.sP_keeps h)

theorem execSPand_keeps (h : Keeps s0 s) : Answers s0 (execSPand a1 a2 s) := by
  unfold execSPand
  exact .next (State.sP_keeps h)

theorem execSCgeu_keeps (h : Keeps s0 s) : Answers s0 (execSCgeu a1 a2 s) := by
  unfold execSCgeu
  exact .next (State.sC_keeps h)

theorem execSCltu_keeps (h : Keeps s0 s) : Answers s0 (execSCltu a1 a2 s) := by
  unfold execSCltu
  exact .next (State.sC_keeps h)

theorem execSCge_keeps (h : Keeps s0 s) : Answers s0 (execSCge a1 a2 s) := by
  unfold execSCge
  exact .next (State.sC_keeps h)

theorem execSClt_keeps (h : Keeps s0 s) : Answers s0 (execSClt a1 a2 s) := by
  unfold execSClt
  exact .next (State.sC_keeps h)

theorem execSCne_keeps (h : Keeps s0 s) : Answers s0 (execSCne a1 a2 s) := by
  unfold execSCne
  exact .next (State.sC_keeps h)

theorem execSCeq_keeps (h : Keeps s0 s) : Answers s0 (execSCeq a1 a2 s) := by
  unfold execSCeq
  exact .next (State.sC_keeps h)

theorem execSShri_keeps (h : Keeps s0 s) : Answers s0 (execSShri a1 a2 s) := by
  unfold execSShri
  exact .next (State.sI_keeps h)

theorem execSShli_keeps (h : Keeps s0 s) : Answers s0 (execSShli a1 a2 s) := by
  unfold execSShli
  exact .next (State.sI_keeps h)

theorem execSAddi_keeps (h : Keeps s0 s) : Answers s0 (execSAddi a1 a2 s) := by
  unfold execSAddi
  exact .next (State.sI_keeps h)

theorem execSLih_keeps (h : Keeps s0 s) : Answers s0 (execSLih a1 a2 s) := by
  unfold execSLih
  exact .next (State.sI_keeps h)

theorem execSLi_keeps (h : Keeps s0 s) : Answers s0 (execSLi a1 a2 s) := by
  unfold execSLi
  exact .next (State.sI_keeps h)

theorem execSMaxu_keeps (h : Keeps s0 s) : Answers s0 (execSMaxu a1 a2 s) := by
  unfold execSMaxu
  exact .next (State.sR_keeps h)

theorem execSMinu_keeps (h : Keeps s0 s) : Answers s0 (execSMinu a1 a2 s) := by
  unfold execSMinu
  exact .next (State.sR_keeps h)

theorem execSMax_keeps (h : Keeps s0 s) : Answers s0 (execSMax a1 a2 s) := by
  unfold execSMax
  exact .next (State.sR_keeps h)

theorem execSMin_keeps (h : Keeps s0 s) : Answers s0 (execSMin a1 a2 s) := by
  unfold execSMin
  exact .next (State.sR_keeps h)

theorem execSSra_keeps (h : Keeps s0 s) : Answers s0 (execSSra a1 a2 s) := by
  unfold execSSra
  exact .next (State.sR_keeps h)

theorem execSShr_keeps (h : Keeps s0 s) : Answers s0 (execSShr a1 a2 s) := by
  unfold execSShr
  exact .next (State.sR_keeps h)

theorem execSShl_keeps (h : Keeps s0 s) : Answers s0 (execSShl a1 a2 s) := by
  unfold execSShl
  exact .next (State.sR_keeps h)

theorem execSXor_keeps (h : Keeps s0 s) : Answers s0 (execSXor a1 a2 s) := by
  unfold execSXor
  exact .next (State.sR_keeps h)

theorem execSOr_keeps (h : Keeps s0 s) : Answers s0 (execSOr a1 a2 s) := by
  unfold execSOr
  exact .next (State.sR_keeps h)

theorem execSAnd_keeps (h : Keeps s0 s) : Answers s0 (execSAnd a1 a2 s) := by
  unfold execSAnd
  exact .next (State.sR_keeps h)

theorem execSMul_keeps (h : Keeps s0 s) : Answers s0 (execSMul a1 a2 s) := by
  unfold execSMul
  exact .next (State.sR_keeps h)

theorem execSSub_keeps (h : Keeps s0 s) : Answers s0 (execSSub a1 a2 s) := by
  unfold execSSub
  exact .next (State.sR_keeps h)

theorem execSAdd_keeps (h : Keeps s0 s) : Answers s0 (execSAdd a1 a2 s) := by
  unfold execSAdd
  exact .next (State.sR_keeps h)

theorem execVLgimp_keeps (h : Keeps s0 s) : Answers s0 (execVLgimp a1 a2 s) := by
  unfold execVLgimp
  exact .next (State.v1Lg_keeps h)

theorem execVLgexp_keeps (h : Keeps s0 s) : Answers s0 (execVLgexp a1 a2 s) := by
  unfold execVLgexp
  exact .next (State.v1_keeps h)

theorem execVLgfold_keeps (h : Keeps s0 s) : Answers s0 (execVLgfold a1 a2 s) := by
  unfold execVLgfold
  refine .next ?_
  refine State.slot_keeps h fun _ h1 => ?_
  extract_lets +onlyGivenNames x2
  exact State.result_keeps h1

theorem execVLgrd_keeps (h : Keeps s0 s) : Answers s0 (execVLgrd a1 a2 s) := by
  unfold execVLgrd
  exact .next (State.v1_keeps h)

theorem execVLgacc_keeps (h : Keeps s0 s) : Answers s0 (execVLgacc a1 a2 s) := by
  unfold execVLgacc
  exact .next (State.v1Lg_keeps h)

theorem execVLgzero_keeps (h : Keeps s0 s) : Answers s0 (execVLgzero a1 a2 s) := by
  unfold execVLgzero
  exact .next (State.v1Lg_keeps h)

theorem execVDraw_keeps (h : Keeps s0 s) : Answers s0 (execVDraw a1 a2 s) := by
  unfold execVDraw
  extract_lets +onlyGivenNames x1
  exact .next (State.v1_keeps h)

theorem execVBcast_keeps (h : Keeps s0 s) : Answers s0 (execVBcast a1 a2 s) := by
  unfold execVBcast
  exact .next (State.v1_keeps h)

theorem execVPerm_keeps (h : Keeps s0 s) : Answers s0 (execVPerm a1 a2 s) := by
  unfold execVPerm
  exact .next (State.v1_keeps h)

theorem execVCvt_keeps (h : Keeps s0 s) : Answers s0 (execVCvt a1 a2 s) := by
  unfold execVCvt
  exact .next (State.slot_keeps h (fun _ h1 => (State.updTile_keeps h1)))

theorem execVSt_keeps (h : Keeps s0 s) : Answers s0 (execVSt a1 a2 s) := by
  unfold execVSt
  exact .next (State.slot_keeps h (fun _ h1 => (State.updTile_keeps h1)))

theorem execVLd_keeps (h : Keeps s0 s) : Answers s0 (execVLd a1 a2 a3 s) := by
  unfold execVLd
  exact .next (State.slot_keeps h (fun _ h1 => (State.updTile_keeps h1)))

theorem execVGsum_keeps (h : Keeps s0 s) : Answers s0 (execVGsum a1 a2 s) := by
  unfold execVGsum
  exact .next (State.v0_keeps h)

theorem execVLog2_keeps (h : Keeps s0 s) : Answers s0 (execVLog2 a1 a2 s) := by
  unfold execVLog2
  exact .next (State.v0Fn_keeps h)

theorem execVExp2_keeps (h : Keeps s0 s) : Answers s0 (execVExp2 a1 a2 s) := by
  unfold execVExp2
  exact .next (State.v0Fn_keeps h)

theorem execVSqrt_keeps (h : Keeps s0 s) : Answers s0 (execVSqrt a1 a2 s) := by
  unfold execVSqrt
  exact .next (State.v0Fn_keeps h)

theorem execVRsq_keeps (h : Keeps s0 s) : Answers s0 (execVRsq a1 a2 s) := by
  unfold execVRsq
  exact .next (State.v0Fn_keeps h)

theorem execVRcp_keeps (h : Keeps s0 s) : Answers s0 (execVRcp a1 a2 s) := by
  unfold execVRcp
  exact .next (State.v0Fn_keeps h)

theorem execVSra_keeps (h : Keeps s0 s) : Answers s0 (execVSra a1 a2 s) := by
  unfold execVSra
  exact .next (State.v0Shift_keeps h)

theorem execVShr_keeps (h : Keeps s0 s) : Answers s0 (execVShr a1 a2 s) := by
  unfold execVShr
  exact .next (State.v0Shift_keeps h)

theorem execVShl_keeps (h : Keeps s0 s) : Answers s0 (execVShl a1 a2 s) := by
  unfold execVShl
  exact .next (State.v0Shift_keeps h)

theorem execVXor_keeps (h : Keeps s0 s) : Answers s0 (execVXor a1 a2 s) := by
  unfold execVXor
  exact .next (State.v0Bits_keeps h)

theorem execVOr_keeps (h : Keeps s0 s) : Answers s0 (execVOr a1 a2 s) := by
  unfold execVOr
  exact .next (State.v0Bits_keeps h)

theorem execVAnd_keeps (h : Keeps s0 s) : Answers s0 (execVAnd a1 a2 s) := by
  unfold execVAnd
  exact .next (State.v0Bits_keeps h)

theorem execVSel_keeps (h : Keeps s0 s) : Answers s0 (execVSel a1 a2 s) := by
  unfold execVSel
  exact .next (State.v0Map_keeps h)

theorem execVCmp_keeps (h : Keeps s0 s) : Answers s0 (execVCmp a1 a2 s) := by
  unfold execVCmp
  extract_lets +onlyGivenNames x1
  exact .next (State.v0Map_keeps h)

theorem execVMin_keeps (h : Keeps s0 s) : Answers s0 (execVMin a1 a2 s) := by
  unfold execVMin
  exact .next (State.v0Arith_keeps h)

theorem execVMax_keeps (h : Keeps s0 s) : Answers s0 (execVMax a1 a2 s) := by
  unfold execVMax
  exact .next (State.v0Arith_keeps h)

theorem execVMul_keeps (h : Keeps s0 s) : Answers s0 (execVMul a1 a2 s) := by
  unfold execVMul
  exact .next (State.v0Arith_keeps h)

theorem execVSub_keeps (h : Keeps s0 s) : Answers s0 (execVSub a1 a2 s) := by
  unfold execVSub
  exact .next (State.v0Arith_keeps h)

theorem execVAdd_keeps (h : Keeps s0 s) : Answers s0 (execVAdd a1 a2 s) := by
  unfold execVAdd
  exact .next (State.v0Arith_keeps h)

theorem execVFma_keeps (h : Keeps s0 s) : Answers s0 (execVFma a1 a2 s) := by
  unfold execVFma
  exact .next (State.v0Arith_keeps h)

theorem execMZero_keeps (h : Keeps s0 s) : Answers s0 (execMZero a1 a2 s) := by
  unfold execMZero
  exact .next (State.slot_keeps h (fun _ h1 => (State.updTile_keeps h1)))

theorem execMAccld_keeps (h : Keeps s0 s) : Answers s0 (execMAccld a1 a2 a3 a4 a5 s) := by
  unfold execMAccld
  exact .next (State.slot_keeps h (fun _ h1 => (State.updTile_keeps h1)))

theorem execMDrv_keeps (h : Keeps s0 s) : Answers s0 (execMDrv a1 a2 a3 a4 s) := by
  unfold execMDrv
  exact .next (State.slot_keeps h (fun _ h1 => (State.updTile_keeps h1)))

theorem execMDrain_keeps (h : Keeps s0 s) : Answers s0 (execMDrain a1 a2 a3 a4 a5 a6 a7 a8 s) := by
  unfold execMDrain
  exact .next (State.slot_keeps h (fun _ h1 => (State.updTile_keeps h1)))

theorem execMMma_keeps (h : Keeps s0 s) : Answers s0 (execMMma a1 a2 a3 a4 a5 a6 a7 a8 a9 a10 s) := by
  unfold execMMma
  exact .next (State.slot_keeps h (fun _ h1 => (State.updTile_keeps h1)))

theorem execMLdw_keeps (h : Keeps s0 s) : Answers s0 (execMLdw a1 a2 a3 a4 a5 a6 s) := by
  unfold execMLdw
  exact .next (State.slot_keeps h (fun _ h1 => (State.updTile_keeps h1)))

end Sys2Proof.Machine
end

