-- ==== Sys2Proof/Laws/State.lean ====
section
/-!
SUPPORT. What each update of the state leaves as it is: one lemma per field and update, true by unfolding, and what the accessor of
the updated part reads.
-/

namespace Sys2Proof.Machine

/-! ## setTile -/

@[simp] theorem State.setTile_pending (s : State) (t : Nat) (x : Tile) : (s.setTile t x).pending = s.pending := rfl
@[simp] theorem State.setTile_pods (s : State) (t : Nat) (x : Tile) : (s.setTile t x).pods = s.pods := rfl
@[simp] theorem State.setTile_sync (s : State) (t : Nat) (x : Tile) : (s.setTile t x).sync = s.sync := rfl
@[simp] theorem State.setTile_spine (s : State) (t : Nat) (x : Tile) : (s.setTile t x).spine = s.spine := rfl
@[simp] theorem State.setTile_mem (s : State) (t : Nat) (x : Tile) : (s.setTile t x).mem = s.mem := rfl
@[simp] theorem State.setTile_nmu (s : State) (t : Nat) (x : Tile) : (s.setTile t x).nmu = s.nmu := rfl
@[simp] theorem State.setTile_aus (s : State) (t : Nat) (x : Tile) : (s.setTile t x).aus = s.aus := rfl
@[simp] theorem State.setTile_hulls (s : State) (t : Nat) (x : Tile) : (s.setTile t x).hulls = s.hulls := rfl
@[simp] theorem State.setTile_time (s : State) (t : Nat) (x : Tile) : (s.setTile t x).time = s.time := rfl
@[simp] theorem State.setTile_jv (s : State) (t : Nat) (x : Tile) : (s.setTile t x).jv = s.jv := rfl
@[simp] theorem State.setTile_groups (s : State) (t : Nat) (x : Tile) : (s.setTile t x).groups = s.groups := rfl
@[simp] theorem State.setTile_rings (s : State) (t : Nat) (x : Tile) : (s.setTile t x).rings = s.rings := rfl
@[simp] theorem State.setTile_endpoints (s : State) (t : Nat) (x : Tile) : (s.setTile t x).endpoints = s.endpoints := rfl
@[simp] theorem State.setTile_irqs (s : State) (t : Nat) (x : Tile) : (s.setTile t x).irqs = s.irqs := rfl
@[simp] theorem State.setTile_cores (s : State) (t : Nat) (x : Tile) : (s.setTile t x).cores = s.cores := rfl
@[simp] theorem State.setTile_log (s : State) (t : Nat) (x : Tile) : (s.setTile t x).log = s.log := rfl
@[simp] theorem State.setTile_nextSeq (s : State) (t : Nat) (x : Tile) : (s.setTile t x).nextSeq = s.nextSeq := rfl
@[simp] theorem State.setTile_collectors (s : State) (t : Nat) (x : Tile) : (s.setTile t x).collectors = s.collectors := rfl
@[simp] theorem State.setTile_rst (s : State) (t : Nat) (x : Tile) : (s.setTile t x).rst = s.rst := rfl
@[simp] theorem State.setTile_probe (s : State) (t : Nat) (x : Tile) : (s.setTile t x).probe = s.probe := rfl
@[simp] theorem State.setTile_slots (s : State) (t : Nat) (x : Tile) : (s.setTile t x).slots = s.slots := rfl
@[simp] theorem State.setTile_maxVersion (s : State) (t : Nat) (x : Tile) : (s.setTile t x).maxVersion = s.maxVersion := rfl
@[simp] theorem State.setTile_bypass (s : State) (t : Nat) (x : Tile) : (s.setTile t x).bypass = s.bypass := rfl
@[simp] theorem State.setTile_sec (s : State) (t : Nat) (x : Tile) : (s.setTile t x).sec = s.sec := rfl
@[simp] theorem State.setTile_board (s : State) (t : Nat) (x : Tile) : (s.setTile t x).board = s.board := rfl
@[simp] theorem State.setTile_regs (s : State) (t : Nat) (x : Tile) : (s.setTile t x).regs = s.regs := rfl
@[simp] theorem State.setTile_host (s : State) (t : Nat) (x : Tile) : (s.setTile t x).host = s.host := rfl
@[simp] theorem State.setTile_out (s : State) (t : Nat) (x : Tile) : (s.setTile t x).out = s.out := rfl
@[simp] theorem State.setTile_fresh (s : State) (t : Nat) (x : Tile) : (s.setTile t x).fresh = s.fresh := rfl
@[simp] theorem State.setTile_pod (s : State) (t : Nat) (x : Tile) (k0 : Nat) : (s.setTile t x).pod k0 = s.pod k0 := rfl
@[simp] theorem State.setTile_hull (s : State) (t : Nat) (x : Tile) (k0 : Nat) : (s.setTile t x).hull k0 = s.hull k0 := rfl
@[simp] theorem State.setTile_eng (s : State) (t : Nat) (x : Tile) (k0 : Nat) : (s.setTile t x).eng k0 = s.eng k0 := rfl
@[simp] theorem State.setTile_group (s : State) (t : Nat) (x : Tile) (k0 : Nat) : (s.setTile t x).group k0 = s.group k0 := rfl
@[simp] theorem State.setTile_ring (s : State) (t : Nat) (x : Tile) (k0 : Nat) : (s.setTile t x).ring k0 = s.ring k0 := rfl
@[simp] theorem State.setTile_endp (s : State) (t : Nat) (x : Tile) (k0 : Nat) : (s.setTile t x).endp k0 = s.endp k0 := rfl
@[simp] theorem State.setTile_irq (s : State) (t : Nat) (x : Tile) (k0 : Nat) : (s.setTile t x).irq k0 = s.irq k0 := rfl
@[simp] theorem State.setTile_core (s : State) (t : Nat) (x : Tile) (k0 : Nat) : (s.setTile t x).core k0 = s.core k0 := rfl
@[simp] theorem State.setTile_bundle (s : State) (t : Nat) (x : Tile) (k0 : Nat) : (s.setTile t x).bundle k0 = s.bundle k0 := rfl
@[simp] theorem State.setTile_unitA (s : State) (t : Nat) (x : Tile) (k0 : Nat) : (s.setTile t x).unitA k0 = s.unitA k0 := rfl
@[simp] theorem State.setTile_unitB (s : State) (t : Nat) (x : Tile) (k0 : Nat) : (s.setTile t x).unitB k0 = s.unitB k0 := rfl
@[simp] theorem State.setTile_reg (s : State) (t : Nat) (x : Tile) (k0 : Nat) : (s.setTile t x).reg k0 = s.reg k0 := rfl
@[simp] theorem State.setTile_same (s : State) (t : Nat) (x : Tile) : (s.setTile t x).tile t = x := tget_tput_same _ _ _ _
theorem State.setTile_other (s : State) (t : Nat) (x : Tile) {i : Nat} (hi : i ≠ t) : (s.setTile t x).tile i = s.tile i := tget_tput_other _ _ _ hi
@[simp] theorem State.setTile_twice (s : State) (t : Nat) (x : Tile) (y : Tile) : (s.setTile t x).setTile t y = s.setTile t y := by
  simp [State.setTile]

/-! ## setPod -/

@[simp] theorem State.setPod_pending (s : State) (p : Nat) (x : Pod) : (s.setPod p x).pending = s.pending := rfl
@[simp] theorem State.setPod_tiles (s : State) (p : Nat) (x : Pod) : (s.setPod p x).tiles = s.tiles := rfl
@[simp] theorem State.setPod_sync (s : State) (p : Nat) (x : Pod) : (s.setPod p x).sync = s.sync := rfl
@[simp] theorem State.setPod_spine (s : State) (p : Nat) (x : Pod) : (s.setPod p x).spine = s.spine := rfl
@[simp] theorem State.setPod_mem (s : State) (p : Nat) (x : Pod) : (s.setPod p x).mem = s.mem := rfl
@[simp] theorem State.setPod_nmu (s : State) (p : Nat) (x : Pod) : (s.setPod p x).nmu = s.nmu := rfl
@[simp] theorem State.setPod_aus (s : State) (p : Nat) (x : Pod) : (s.setPod p x).aus = s.aus := rfl
@[simp] theorem State.setPod_hulls (s : State) (p : Nat) (x : Pod) : (s.setPod p x).hulls = s.hulls := rfl
@[simp] theorem State.setPod_time (s : State) (p : Nat) (x : Pod) : (s.setPod p x).time = s.time := rfl
@[simp] theorem State.setPod_jv (s : State) (p : Nat) (x : Pod) : (s.setPod p x).jv = s.jv := rfl
@[simp] theorem State.setPod_groups (s : State) (p : Nat) (x : Pod) : (s.setPod p x).groups = s.groups := rfl
@[simp] theorem State.setPod_rings (s : State) (p : Nat) (x : Pod) : (s.setPod p x).rings = s.rings := rfl
@[simp] theorem State.setPod_endpoints (s : State) (p : Nat) (x : Pod) : (s.setPod p x).endpoints = s.endpoints := rfl
@[simp] theorem State.setPod_irqs (s : State) (p : Nat) (x : Pod) : (s.setPod p x).irqs = s.irqs := rfl
@[simp] theorem State.setPod_cores (s : State) (p : Nat) (x : Pod) : (s.setPod p x).cores = s.cores := rfl
@[simp] theorem State.setPod_log (s : State) (p : Nat) (x : Pod) : (s.setPod p x).log = s.log := rfl
@[simp] theorem State.setPod_nextSeq (s : State) (p : Nat) (x : Pod) : (s.setPod p x).nextSeq = s.nextSeq := rfl
@[simp] theorem State.setPod_collectors (s : State) (p : Nat) (x : Pod) : (s.setPod p x).collectors = s.collectors := rfl
@[simp] theorem State.setPod_rst (s : State) (p : Nat) (x : Pod) : (s.setPod p x).rst = s.rst := rfl
@[simp] theorem State.setPod_probe (s : State) (p : Nat) (x : Pod) : (s.setPod p x).probe = s.probe := rfl
@[simp] theorem State.setPod_slots (s : State) (p : Nat) (x : Pod) : (s.setPod p x).slots = s.slots := rfl
@[simp] theorem State.setPod_maxVersion (s : State) (p : Nat) (x : Pod) : (s.setPod p x).maxVersion = s.maxVersion := rfl
@[simp] theorem State.setPod_bypass (s : State) (p : Nat) (x : Pod) : (s.setPod p x).bypass = s.bypass := rfl
@[simp] theorem State.setPod_sec (s : State) (p : Nat) (x : Pod) : (s.setPod p x).sec = s.sec := rfl
@[simp] theorem State.setPod_board (s : State) (p : Nat) (x : Pod) : (s.setPod p x).board = s.board := rfl
@[simp] theorem State.setPod_regs (s : State) (p : Nat) (x : Pod) : (s.setPod p x).regs = s.regs := rfl
@[simp] theorem State.setPod_host (s : State) (p : Nat) (x : Pod) : (s.setPod p x).host = s.host := rfl
@[simp] theorem State.setPod_out (s : State) (p : Nat) (x : Pod) : (s.setPod p x).out = s.out := rfl
@[simp] theorem State.setPod_fresh (s : State) (p : Nat) (x : Pod) : (s.setPod p x).fresh = s.fresh := rfl
@[simp] theorem State.setPod_tile (s : State) (p : Nat) (x : Pod) (k0 : Nat) : (s.setPod p x).tile k0 = s.tile k0 := rfl
@[simp] theorem State.setPod_hull (s : State) (p : Nat) (x : Pod) (k0 : Nat) : (s.setPod p x).hull k0 = s.hull k0 := rfl
@[simp] theorem State.setPod_eng (s : State) (p : Nat) (x : Pod) (k0 : Nat) : (s.setPod p x).eng k0 = s.eng k0 := rfl
@[simp] theorem State.setPod_group (s : State) (p : Nat) (x : Pod) (k0 : Nat) : (s.setPod p x).group k0 = s.group k0 := rfl
@[simp] theorem State.setPod_ring (s : State) (p : Nat) (x : Pod) (k0 : Nat) : (s.setPod p x).ring k0 = s.ring k0 := rfl
@[simp] theorem State.setPod_endp (s : State) (p : Nat) (x : Pod) (k0 : Nat) : (s.setPod p x).endp k0 = s.endp k0 := rfl
@[simp] theorem State.setPod_irq (s : State) (p : Nat) (x : Pod) (k0 : Nat) : (s.setPod p x).irq k0 = s.irq k0 := rfl
@[simp] theorem State.setPod_core (s : State) (p : Nat) (x : Pod) (k0 : Nat) : (s.setPod p x).core k0 = s.core k0 := rfl
@[simp] theorem State.setPod_bundle (s : State) (p : Nat) (x : Pod) (k0 : Nat) : (s.setPod p x).bundle k0 = s.bundle k0 := rfl
@[simp] theorem State.setPod_unitA (s : State) (p : Nat) (x : Pod) (k0 : Nat) : (s.setPod p x).unitA k0 = s.unitA k0 := rfl
@[simp] theorem State.setPod_unitB (s : State) (p : Nat) (x : Pod) (k0 : Nat) : (s.setPod p x).unitB k0 = s.unitB k0 := rfl
@[simp] theorem State.setPod_reg (s : State) (p : Nat) (x : Pod) (k0 : Nat) : (s.setPod p x).reg k0 = s.reg k0 := rfl
@[simp] theorem State.setPod_same (s : State) (p : Nat) (x : Pod) : (s.setPod p x).pod p = x := tget_tput_same _ _ _ _
theorem State.setPod_other (s : State) (p : Nat) (x : Pod) {i : Nat} (hi : i ≠ p) : (s.setPod p x).pod i = s.pod i := tget_tput_other _ _ _ hi
@[simp] theorem State.setPod_twice (s : State) (p : Nat) (x : Pod) (y : Pod) : (s.setPod p x).setPod p y = s.setPod p y := by
  simp [State.setPod]

/-! ## setHull -/

@[simp] theorem State.setHull_pending (s : State) (h : Nat) (x : Hull) : (s.setHull h x).pending = s.pending := rfl
@[simp] theorem State.setHull_tiles (s : State) (h : Nat) (x : Hull) : (s.setHull h x).tiles = s.tiles := rfl
@[simp] theorem State.setHull_pods (s : State) (h : Nat) (x : Hull) : (s.setHull h x).pods = s.pods := rfl
@[simp] theorem State.setHull_sync (s : State) (h : Nat) (x : Hull) : (s.setHull h x).sync = s.sync := rfl
@[simp] theorem State.setHull_spine (s : State) (h : Nat) (x : Hull) : (s.setHull h x).spine = s.spine := rfl
@[simp] theorem State.setHull_mem (s : State) (h : Nat) (x : Hull) : (s.setHull h x).mem = s.mem := rfl
@[simp] theorem State.setHull_nmu (s : State) (h : Nat) (x : Hull) : (s.setHull h x).nmu = s.nmu := rfl
@[simp] theorem State.setHull_aus (s : State) (h : Nat) (x : Hull) : (s.setHull h x).aus = s.aus := rfl
@[simp] theorem State.setHull_time (s : State) (h : Nat) (x : Hull) : (s.setHull h x).time = s.time := rfl
@[simp] theorem State.setHull_jv (s : State) (h : Nat) (x : Hull) : (s.setHull h x).jv = s.jv := rfl
@[simp] theorem State.setHull_groups (s : State) (h : Nat) (x : Hull) : (s.setHull h x).groups = s.groups := rfl
@[simp] theorem State.setHull_rings (s : State) (h : Nat) (x : Hull) : (s.setHull h x).rings = s.rings := rfl
@[simp] theorem State.setHull_endpoints (s : State) (h : Nat) (x : Hull) : (s.setHull h x).endpoints = s.endpoints := rfl
@[simp] theorem State.setHull_irqs (s : State) (h : Nat) (x : Hull) : (s.setHull h x).irqs = s.irqs := rfl
@[simp] theorem State.setHull_cores (s : State) (h : Nat) (x : Hull) : (s.setHull h x).cores = s.cores := rfl
@[simp] theorem State.setHull_log (s : State) (h : Nat) (x : Hull) : (s.setHull h x).log = s.log := rfl
@[simp] theorem State.setHull_nextSeq (s : State) (h : Nat) (x : Hull) : (s.setHull h x).nextSeq = s.nextSeq := rfl
@[simp] theorem State.setHull_collectors (s : State) (h : Nat) (x : Hull) : (s.setHull h x).collectors = s.collectors := rfl
@[simp] theorem State.setHull_rst (s : State) (h : Nat) (x : Hull) : (s.setHull h x).rst = s.rst := rfl
@[simp] theorem State.setHull_probe (s : State) (h : Nat) (x : Hull) : (s.setHull h x).probe = s.probe := rfl
@[simp] theorem State.setHull_slots (s : State) (h : Nat) (x : Hull) : (s.setHull h x).slots = s.slots := rfl
@[simp] theorem State.setHull_maxVersion (s : State) (h : Nat) (x : Hull) : (s.setHull h x).maxVersion = s.maxVersion := rfl
@[simp] theorem State.setHull_bypass (s : State) (h : Nat) (x : Hull) : (s.setHull h x).bypass = s.bypass := rfl
@[simp] theorem State.setHull_sec (s : State) (h : Nat) (x : Hull) : (s.setHull h x).sec = s.sec := rfl
@[simp] theorem State.setHull_board (s : State) (h : Nat) (x : Hull) : (s.setHull h x).board = s.board := rfl
@[simp] theorem State.setHull_regs (s : State) (h : Nat) (x : Hull) : (s.setHull h x).regs = s.regs := rfl
@[simp] theorem State.setHull_host (s : State) (h : Nat) (x : Hull) : (s.setHull h x).host = s.host := rfl
@[simp] theorem State.setHull_out (s : State) (h : Nat) (x : Hull) : (s.setHull h x).out = s.out := rfl
@[simp] theorem State.setHull_fresh (s : State) (h : Nat) (x : Hull) : (s.setHull h x).fresh = s.fresh := rfl
@[simp] theorem State.setHull_tile (s : State) (h : Nat) (x : Hull) (k0 : Nat) : (s.setHull h x).tile k0 = s.tile k0 := rfl
@[simp] theorem State.setHull_pod (s : State) (h : Nat) (x : Hull) (k0 : Nat) : (s.setHull h x).pod k0 = s.pod k0 := rfl
@[simp] theorem State.setHull_eng (s : State) (h : Nat) (x : Hull) (k0 : Nat) : (s.setHull h x).eng k0 = s.eng k0 := rfl
@[simp] theorem State.setHull_group (s : State) (h : Nat) (x : Hull) (k0 : Nat) : (s.setHull h x).group k0 = s.group k0 := rfl
@[simp] theorem State.setHull_ring (s : State) (h : Nat) (x : Hull) (k0 : Nat) : (s.setHull h x).ring k0 = s.ring k0 := rfl
@[simp] theorem State.setHull_endp (s : State) (h : Nat) (x : Hull) (k0 : Nat) : (s.setHull h x).endp k0 = s.endp k0 := rfl
@[simp] theorem State.setHull_irq (s : State) (h : Nat) (x : Hull) (k0 : Nat) : (s.setHull h x).irq k0 = s.irq k0 := rfl
@[simp] theorem State.setHull_core (s : State) (h : Nat) (x : Hull) (k0 : Nat) : (s.setHull h x).core k0 = s.core k0 := rfl
@[simp] theorem State.setHull_bundle (s : State) (h : Nat) (x : Hull) (k0 : Nat) : (s.setHull h x).bundle k0 = s.bundle k0 := rfl
@[simp] theorem State.setHull_unitA (s : State) (h : Nat) (x : Hull) (k0 : Nat) : (s.setHull h x).unitA k0 = s.unitA k0 := rfl
@[simp] theorem State.setHull_unitB (s : State) (h : Nat) (x : Hull) (k0 : Nat) : (s.setHull h x).unitB k0 = s.unitB k0 := rfl
@[simp] theorem State.setHull_reg (s : State) (h : Nat) (x : Hull) (k0 : Nat) : (s.setHull h x).reg k0 = s.reg k0 := rfl
@[simp] theorem State.setHull_same (s : State) (h : Nat) (x : Hull) : (s.setHull h x).hull h = x := tget_tput_same _ _ _ _
theorem State.setHull_other (s : State) (h : Nat) (x : Hull) {i : Nat} (hi : i ≠ h) : (s.setHull h x).hull i = s.hull i := tget_tput_other _ _ _ hi
@[simp] theorem State.setHull_twice (s : State) (h : Nat) (x : Hull) (y : Hull) : (s.setHull h x).setHull h y = s.setHull h y := by
  simp [State.setHull]

/-! ## setEng -/

@[simp] theorem State.setEng_pending (s : State) (a : Nat) (x : Engine) : (s.setEng a x).pending = s.pending := rfl
@[simp] theorem State.setEng_tiles (s : State) (a : Nat) (x : Engine) : (s.setEng a x).tiles = s.tiles := rfl
@[simp] theorem State.setEng_pods (s : State) (a : Nat) (x : Engine) : (s.setEng a x).pods = s.pods := rfl
@[simp] theorem State.setEng_sync (s : State) (a : Nat) (x : Engine) : (s.setEng a x).sync = s.sync := rfl
@[simp] theorem State.setEng_spine (s : State) (a : Nat) (x : Engine) : (s.setEng a x).spine = s.spine := rfl
@[simp] theorem State.setEng_mem (s : State) (a : Nat) (x : Engine) : (s.setEng a x).mem = s.mem := rfl
@[simp] theorem State.setEng_nmu (s : State) (a : Nat) (x : Engine) : (s.setEng a x).nmu = s.nmu := rfl
@[simp] theorem State.setEng_hulls (s : State) (a : Nat) (x : Engine) : (s.setEng a x).hulls = s.hulls := rfl
@[simp] theorem State.setEng_time (s : State) (a : Nat) (x : Engine) : (s.setEng a x).time = s.time := rfl
@[simp] theorem State.setEng_jv (s : State) (a : Nat) (x : Engine) : (s.setEng a x).jv = s.jv := rfl
@[simp] theorem State.setEng_groups (s : State) (a : Nat) (x : Engine) : (s.setEng a x).groups = s.groups := rfl
@[simp] theorem State.setEng_rings (s : State) (a : Nat) (x : Engine) : (s.setEng a x).rings = s.rings := rfl
@[simp] theorem State.setEng_endpoints (s : State) (a : Nat) (x : Engine) : (s.setEng a x).endpoints = s.endpoints := rfl
@[simp] theorem State.setEng_irqs (s : State) (a : Nat) (x : Engine) : (s.setEng a x).irqs = s.irqs := rfl
@[simp] theorem State.setEng_cores (s : State) (a : Nat) (x : Engine) : (s.setEng a x).cores = s.cores := rfl
@[simp] theorem State.setEng_log (s : State) (a : Nat) (x : Engine) : (s.setEng a x).log = s.log := rfl
@[simp] theorem State.setEng_nextSeq (s : State) (a : Nat) (x : Engine) : (s.setEng a x).nextSeq = s.nextSeq := rfl
@[simp] theorem State.setEng_collectors (s : State) (a : Nat) (x : Engine) : (s.setEng a x).collectors = s.collectors := rfl
@[simp] theorem State.setEng_rst (s : State) (a : Nat) (x : Engine) : (s.setEng a x).rst = s.rst := rfl
@[simp] theorem State.setEng_probe (s : State) (a : Nat) (x : Engine) : (s.setEng a x).probe = s.probe := rfl
@[simp] theorem State.setEng_slots (s : State) (a : Nat) (x : Engine) : (s.setEng a x).slots = s.slots := rfl
@[simp] theorem State.setEng_maxVersion (s : State) (a : Nat) (x : Engine) : (s.setEng a x).maxVersion = s.maxVersion := rfl
@[simp] theorem State.setEng_bypass (s : State) (a : Nat) (x : Engine) : (s.setEng a x).bypass = s.bypass := rfl
@[simp] theorem State.setEng_sec (s : State) (a : Nat) (x : Engine) : (s.setEng a x).sec = s.sec := rfl
@[simp] theorem State.setEng_board (s : State) (a : Nat) (x : Engine) : (s.setEng a x).board = s.board := rfl
@[simp] theorem State.setEng_regs (s : State) (a : Nat) (x : Engine) : (s.setEng a x).regs = s.regs := rfl
@[simp] theorem State.setEng_host (s : State) (a : Nat) (x : Engine) : (s.setEng a x).host = s.host := rfl
@[simp] theorem State.setEng_out (s : State) (a : Nat) (x : Engine) : (s.setEng a x).out = s.out := rfl
@[simp] theorem State.setEng_fresh (s : State) (a : Nat) (x : Engine) : (s.setEng a x).fresh = s.fresh := rfl
@[simp] theorem State.setEng_tile (s : State) (a : Nat) (x : Engine) (k0 : Nat) : (s.setEng a x).tile k0 = s.tile k0 := rfl
@[simp] theorem State.setEng_pod (s : State) (a : Nat) (x : Engine) (k0 : Nat) : (s.setEng a x).pod k0 = s.pod k0 := rfl
@[simp] theorem State.setEng_hull (s : State) (a : Nat) (x : Engine) (k0 : Nat) : (s.setEng a x).hull k0 = s.hull k0 := rfl
@[simp] theorem State.setEng_group (s : State) (a : Nat) (x : Engine) (k0 : Nat) : (s.setEng a x).group k0 = s.group k0 := rfl
@[simp] theorem State.setEng_ring (s : State) (a : Nat) (x : Engine) (k0 : Nat) : (s.setEng a x).ring k0 = s.ring k0 := rfl
@[simp] theorem State.setEng_endp (s : State) (a : Nat) (x : Engine) (k0 : Nat) : (s.setEng a x).endp k0 = s.endp k0 := rfl
@[simp] theorem State.setEng_irq (s : State) (a : Nat) (x : Engine) (k0 : Nat) : (s.setEng a x).irq k0 = s.irq k0 := rfl
@[simp] theorem State.setEng_core (s : State) (a : Nat) (x : Engine) (k0 : Nat) : (s.setEng a x).core k0 = s.core k0 := rfl
@[simp] theorem State.setEng_bundle (s : State) (a : Nat) (x : Engine) (k0 : Nat) : (s.setEng a x).bundle k0 = s.bundle k0 := rfl
@[simp] theorem State.setEng_unitA (s : State) (a : Nat) (x : Engine) (k0 : Nat) : (s.setEng a x).unitA k0 = s.unitA k0 := rfl
@[simp] theorem State.setEng_unitB (s : State) (a : Nat) (x : Engine) (k0 : Nat) : (s.setEng a x).unitB k0 = s.unitB k0 := rfl
@[simp] theorem State.setEng_reg (s : State) (a : Nat) (x : Engine) (k0 : Nat) : (s.setEng a x).reg k0 = s.reg k0 := rfl
@[simp] theorem State.setEng_same (s : State) (a : Nat) (x : Engine) : (s.setEng a x).eng a = x := tget_tput_same _ _ _ _
theorem State.setEng_other (s : State) (a : Nat) (x : Engine) {i : Nat} (hi : i ≠ a) : (s.setEng a x).eng i = s.eng i := tget_tput_other _ _ _ hi
@[simp] theorem State.setEng_twice (s : State) (a : Nat) (x : Engine) (y : Engine) : (s.setEng a x).setEng a y = s.setEng a y := by
  simp [State.setEng]

/-! ## setGroup -/

@[simp] theorem State.setGroup_pending (s : State) (g : Nat) (x : Group) : (s.setGroup g x).pending = s.pending := rfl
@[simp] theorem State.setGroup_tiles (s : State) (g : Nat) (x : Group) : (s.setGroup g x).tiles = s.tiles := rfl
@[simp] theorem State.setGroup_pods (s : State) (g : Nat) (x : Group) : (s.setGroup g x).pods = s.pods := rfl
@[simp] theorem State.setGroup_sync (s : State) (g : Nat) (x : Group) : (s.setGroup g x).sync = s.sync := rfl
@[simp] theorem State.setGroup_spine (s : State) (g : Nat) (x : Group) : (s.setGroup g x).spine = s.spine := rfl
@[simp] theorem State.setGroup_mem (s : State) (g : Nat) (x : Group) : (s.setGroup g x).mem = s.mem := rfl
@[simp] theorem State.setGroup_nmu (s : State) (g : Nat) (x : Group) : (s.setGroup g x).nmu = s.nmu := rfl
@[simp] theorem State.setGroup_aus (s : State) (g : Nat) (x : Group) : (s.setGroup g x).aus = s.aus := rfl
@[simp] theorem State.setGroup_hulls (s : State) (g : Nat) (x : Group) : (s.setGroup g x).hulls = s.hulls := rfl
@[simp] theorem State.setGroup_time (s : State) (g : Nat) (x : Group) : (s.setGroup g x).time = s.time := rfl
@[simp] theorem State.setGroup_jv (s : State) (g : Nat) (x : Group) : (s.setGroup g x).jv = s.jv := rfl
@[simp] theorem State.setGroup_rings (s : State) (g : Nat) (x : Group) : (s.setGroup g x).rings = s.rings := rfl
@[simp] theorem State.setGroup_endpoints (s : State) (g : Nat) (x : Group) : (s.setGroup g x).endpoints = s.endpoints := rfl
@[simp] theorem State.setGroup_irqs (s : State) (g : Nat) (x : Group) : (s.setGroup g x).irqs = s.irqs := rfl
@[simp] theorem State.setGroup_cores (s : State) (g : Nat) (x : Group) : (s.setGroup g x).cores = s.cores := rfl
@[simp] theorem State.setGroup_log (s : State) (g : Nat) (x : Group) : (s.setGroup g x).log = s.log := rfl
@[simp] theorem State.setGroup_nextSeq (s : State) (g : Nat) (x : Group) : (s.setGroup g x).nextSeq = s.nextSeq := rfl
@[simp] theorem State.setGroup_collectors (s : State) (g : Nat) (x : Group) : (s.setGroup g x).collectors = s.collectors := rfl
@[simp] theorem State.setGroup_rst (s : State) (g : Nat) (x : Group) : (s.setGroup g x).rst = s.rst := rfl
@[simp] theorem State.setGroup_probe (s : State) (g : Nat) (x : Group) : (s.setGroup g x).probe = s.probe := rfl
@[simp] theorem State.setGroup_slots (s : State) (g : Nat) (x : Group) : (s.setGroup g x).slots = s.slots := rfl
@[simp] theorem State.setGroup_maxVersion (s : State) (g : Nat) (x : Group) : (s.setGroup g x).maxVersion = s.maxVersion := rfl
@[simp] theorem State.setGroup_bypass (s : State) (g : Nat) (x : Group) : (s.setGroup g x).bypass = s.bypass := rfl
@[simp] theorem State.setGroup_sec (s : State) (g : Nat) (x : Group) : (s.setGroup g x).sec = s.sec := rfl
@[simp] theorem State.setGroup_board (s : State) (g : Nat) (x : Group) : (s.setGroup g x).board = s.board := rfl
@[simp] theorem State.setGroup_regs (s : State) (g : Nat) (x : Group) : (s.setGroup g x).regs = s.regs := rfl
@[simp] theorem State.setGroup_host (s : State) (g : Nat) (x : Group) : (s.setGroup g x).host = s.host := rfl
@[simp] theorem State.setGroup_out (s : State) (g : Nat) (x : Group) : (s.setGroup g x).out = s.out := rfl
@[simp] theorem State.setGroup_fresh (s : State) (g : Nat) (x : Group) : (s.setGroup g x).fresh = s.fresh := rfl
@[simp] theorem State.setGroup_tile (s : State) (g : Nat) (x : Group) (k0 : Nat) : (s.setGroup g x).tile k0 = s.tile k0 := rfl
@[simp] theorem State.setGroup_pod (s : State) (g : Nat) (x : Group) (k0 : Nat) : (s.setGroup g x).pod k0 = s.pod k0 := rfl
@[simp] theorem State.setGroup_hull (s : State) (g : Nat) (x : Group) (k0 : Nat) : (s.setGroup g x).hull k0 = s.hull k0 := rfl
@[simp] theorem State.setGroup_eng (s : State) (g : Nat) (x : Group) (k0 : Nat) : (s.setGroup g x).eng k0 = s.eng k0 := rfl
@[simp] theorem State.setGroup_ring (s : State) (g : Nat) (x : Group) (k0 : Nat) : (s.setGroup g x).ring k0 = s.ring k0 := rfl
@[simp] theorem State.setGroup_endp (s : State) (g : Nat) (x : Group) (k0 : Nat) : (s.setGroup g x).endp k0 = s.endp k0 := rfl
@[simp] theorem State.setGroup_irq (s : State) (g : Nat) (x : Group) (k0 : Nat) : (s.setGroup g x).irq k0 = s.irq k0 := rfl
@[simp] theorem State.setGroup_core (s : State) (g : Nat) (x : Group) (k0 : Nat) : (s.setGroup g x).core k0 = s.core k0 := rfl
@[simp] theorem State.setGroup_bundle (s : State) (g : Nat) (x : Group) (k0 : Nat) : (s.setGroup g x).bundle k0 = s.bundle k0 := rfl
@[simp] theorem State.setGroup_unitA (s : State) (g : Nat) (x : Group) (k0 : Nat) : (s.setGroup g x).unitA k0 = s.unitA k0 := rfl
@[simp] theorem State.setGroup_unitB (s : State) (g : Nat) (x : Group) (k0 : Nat) : (s.setGroup g x).unitB k0 = s.unitB k0 := rfl
@[simp] theorem State.setGroup_reg (s : State) (g : Nat) (x : Group) (k0 : Nat) : (s.setGroup g x).reg k0 = s.reg k0 := rfl
@[simp] theorem State.setGroup_same (s : State) (g : Nat) (x : Group) : (s.setGroup g x).group g = x := tget_tput_same _ _ _ _
theorem State.setGroup_other (s : State) (g : Nat) (x : Group) {i : Nat} (hi : i ≠ g) : (s.setGroup g x).group i = s.group i := tget_tput_other _ _ _ hi
@[simp] theorem State.setGroup_twice (s : State) (g : Nat) (x : Group) (y : Group) : (s.setGroup g x).setGroup g y = s.setGroup g y := by
  simp [State.setGroup]

/-! ## setRing -/

@[simp] theorem State.setRing_pending (s : State) (r : Nat) (x : Ring) : (s.setRing r x).pending = s.pending := rfl
@[simp] theorem State.setRing_tiles (s : State) (r : Nat) (x : Ring) : (s.setRing r x).tiles = s.tiles := rfl
@[simp] theorem State.setRing_pods (s : State) (r : Nat) (x : Ring) : (s.setRing r x).pods = s.pods := rfl
@[simp] theorem State.setRing_sync (s : State) (r : Nat) (x : Ring) : (s.setRing r x).sync = s.sync := rfl
@[simp] theorem State.setRing_spine (s : State) (r : Nat) (x : Ring) : (s.setRing r x).spine = s.spine := rfl
@[simp] theorem State.setRing_mem (s : State) (r : Nat) (x : Ring) : (s.setRing r x).mem = s.mem := rfl
@[simp] theorem State.setRing_nmu (s : State) (r : Nat) (x : Ring) : (s.setRing r x).nmu = s.nmu := rfl
@[simp] theorem State.setRing_aus (s : State) (r : Nat) (x : Ring) : (s.setRing r x).aus = s.aus := rfl
@[simp] theorem State.setRing_hulls (s : State) (r : Nat) (x : Ring) : (s.setRing r x).hulls = s.hulls := rfl
@[simp] theorem State.setRing_time (s : State) (r : Nat) (x : Ring) : (s.setRing r x).time = s.time := rfl
@[simp] theorem State.setRing_jv (s : State) (r : Nat) (x : Ring) : (s.setRing r x).jv = s.jv := rfl
@[simp] theorem State.setRing_groups (s : State) (r : Nat) (x : Ring) : (s.setRing r x).groups = s.groups := rfl
@[simp] theorem State.setRing_endpoints (s : State) (r : Nat) (x : Ring) : (s.setRing r x).endpoints = s.endpoints := rfl
@[simp] theorem State.setRing_irqs (s : State) (r : Nat) (x : Ring) : (s.setRing r x).irqs = s.irqs := rfl
@[simp] theorem State.setRing_cores (s : State) (r : Nat) (x : Ring) : (s.setRing r x).cores = s.cores := rfl
@[simp] theorem State.setRing_log (s : State) (r : Nat) (x : Ring) : (s.setRing r x).log = s.log := rfl
@[simp] theorem State.setRing_nextSeq (s : State) (r : Nat) (x : Ring) : (s.setRing r x).nextSeq = s.nextSeq := rfl
@[simp] theorem State.setRing_collectors (s : State) (r : Nat) (x : Ring) : (s.setRing r x).collectors = s.collectors := rfl
@[simp] theorem State.setRing_rst (s : State) (r : Nat) (x : Ring) : (s.setRing r x).rst = s.rst := rfl
@[simp] theorem State.setRing_probe (s : State) (r : Nat) (x : Ring) : (s.setRing r x).probe = s.probe := rfl
@[simp] theorem State.setRing_slots (s : State) (r : Nat) (x : Ring) : (s.setRing r x).slots = s.slots := rfl
@[simp] theorem State.setRing_maxVersion (s : State) (r : Nat) (x : Ring) : (s.setRing r x).maxVersion = s.maxVersion := rfl
@[simp] theorem State.setRing_bypass (s : State) (r : Nat) (x : Ring) : (s.setRing r x).bypass = s.bypass := rfl
@[simp] theorem State.setRing_sec (s : State) (r : Nat) (x : Ring) : (s.setRing r x).sec = s.sec := rfl
@[simp] theorem State.setRing_board (s : State) (r : Nat) (x : Ring) : (s.setRing r x).board = s.board := rfl
@[simp] theorem State.setRing_regs (s : State) (r : Nat) (x : Ring) : (s.setRing r x).regs = s.regs := rfl
@[simp] theorem State.setRing_host (s : State) (r : Nat) (x : Ring) : (s.setRing r x).host = s.host := rfl
@[simp] theorem State.setRing_out (s : State) (r : Nat) (x : Ring) : (s.setRing r x).out = s.out := rfl
@[simp] theorem State.setRing_fresh (s : State) (r : Nat) (x : Ring) : (s.setRing r x).fresh = s.fresh := rfl
@[simp] theorem State.setRing_tile (s : State) (r : Nat) (x : Ring) (k0 : Nat) : (s.setRing r x).tile k0 = s.tile k0 := rfl
@[simp] theorem State.setRing_pod (s : State) (r : Nat) (x : Ring) (k0 : Nat) : (s.setRing r x).pod k0 = s.pod k0 := rfl
@[simp] theorem State.setRing_hull (s : State) (r : Nat) (x : Ring) (k0 : Nat) : (s.setRing r x).hull k0 = s.hull k0 := rfl
@[simp] theorem State.setRing_eng (s : State) (r : Nat) (x : Ring) (k0 : Nat) : (s.setRing r x).eng k0 = s.eng k0 := rfl
@[simp] theorem State.setRing_group (s : State) (r : Nat) (x : Ring) (k0 : Nat) : (s.setRing r x).group k0 = s.group k0 := rfl
@[simp] theorem State.setRing_endp (s : State) (r : Nat) (x : Ring) (k0 : Nat) : (s.setRing r x).endp k0 = s.endp k0 := rfl
@[simp] theorem State.setRing_irq (s : State) (r : Nat) (x : Ring) (k0 : Nat) : (s.setRing r x).irq k0 = s.irq k0 := rfl
@[simp] theorem State.setRing_core (s : State) (r : Nat) (x : Ring) (k0 : Nat) : (s.setRing r x).core k0 = s.core k0 := rfl
@[simp] theorem State.setRing_bundle (s : State) (r : Nat) (x : Ring) (k0 : Nat) : (s.setRing r x).bundle k0 = s.bundle k0 := rfl
@[simp] theorem State.setRing_unitA (s : State) (r : Nat) (x : Ring) (k0 : Nat) : (s.setRing r x).unitA k0 = s.unitA k0 := rfl
@[simp] theorem State.setRing_unitB (s : State) (r : Nat) (x : Ring) (k0 : Nat) : (s.setRing r x).unitB k0 = s.unitB k0 := rfl
@[simp] theorem State.setRing_reg (s : State) (r : Nat) (x : Ring) (k0 : Nat) : (s.setRing r x).reg k0 = s.reg k0 := rfl
@[simp] theorem State.setRing_same (s : State) (r : Nat) (x : Ring) : (s.setRing r x).ring r = x := tget_tput_same _ _ _ _
theorem State.setRing_other (s : State) (r : Nat) (x : Ring) {i : Nat} (hi : i ≠ r) : (s.setRing r x).ring i = s.ring i := tget_tput_other _ _ _ hi
@[simp] theorem State.setRing_twice (s : State) (r : Nat) (x : Ring) (y : Ring) : (s.setRing r x).setRing r y = s.setRing r y := by
  simp [State.setRing]

/-! ## setEndp -/

@[simp] theorem State.setEndp_pending (s : State) (e : Nat) (x : Endpoint) : (s.setEndp e x).pending = s.pending := rfl
@[simp] theorem State.setEndp_tiles (s : State) (e : Nat) (x : Endpoint) : (s.setEndp e x).tiles = s.tiles := rfl
@[simp] theorem State.setEndp_pods (s : State) (e : Nat) (x : Endpoint) : (s.setEndp e x).pods = s.pods := rfl
@[simp] theorem State.setEndp_sync (s : State) (e : Nat) (x : Endpoint) : (s.setEndp e x).sync = s.sync := rfl
@[simp] theorem State.setEndp_spine (s : State) (e : Nat) (x : Endpoint) : (s.setEndp e x).spine = s.spine := rfl
@[simp] theorem State.setEndp_mem (s : State) (e : Nat) (x : Endpoint) : (s.setEndp e x).mem = s.mem := rfl
@[simp] theorem State.setEndp_nmu (s : State) (e : Nat) (x : Endpoint) : (s.setEndp e x).nmu = s.nmu := rfl
@[simp] theorem State.setEndp_aus (s : State) (e : Nat) (x : Endpoint) : (s.setEndp e x).aus = s.aus := rfl
@[simp] theorem State.setEndp_hulls (s : State) (e : Nat) (x : Endpoint) : (s.setEndp e x).hulls = s.hulls := rfl
@[simp] theorem State.setEndp_time (s : State) (e : Nat) (x : Endpoint) : (s.setEndp e x).time = s.time := rfl
@[simp] theorem State.setEndp_jv (s : State) (e : Nat) (x : Endpoint) : (s.setEndp e x).jv = s.jv := rfl
@[simp] theorem State.setEndp_groups (s : State) (e : Nat) (x : Endpoint) : (s.setEndp e x).groups = s.groups := rfl
@[simp] theorem State.setEndp_rings (s : State) (e : Nat) (x : Endpoint) : (s.setEndp e x).rings = s.rings := rfl
@[simp] theorem State.setEndp_irqs (s : State) (e : Nat) (x : Endpoint) : (s.setEndp e x).irqs = s.irqs := rfl
@[simp] theorem State.setEndp_cores (s : State) (e : Nat) (x : Endpoint) : (s.setEndp e x).cores = s.cores := rfl
@[simp] theorem State.setEndp_log (s : State) (e : Nat) (x : Endpoint) : (s.setEndp e x).log = s.log := rfl
@[simp] theorem State.setEndp_nextSeq (s : State) (e : Nat) (x : Endpoint) : (s.setEndp e x).nextSeq = s.nextSeq := rfl
@[simp] theorem State.setEndp_collectors (s : State) (e : Nat) (x : Endpoint) : (s.setEndp e x).collectors = s.collectors := rfl
@[simp] theorem State.setEndp_rst (s : State) (e : Nat) (x : Endpoint) : (s.setEndp e x).rst = s.rst := rfl
@[simp] theorem State.setEndp_probe (s : State) (e : Nat) (x : Endpoint) : (s.setEndp e x).probe = s.probe := rfl
@[simp] theorem State.setEndp_slots (s : State) (e : Nat) (x : Endpoint) : (s.setEndp e x).slots = s.slots := rfl
@[simp] theorem State.setEndp_maxVersion (s : State) (e : Nat) (x : Endpoint) : (s.setEndp e x).maxVersion = s.maxVersion := rfl
@[simp] theorem State.setEndp_bypass (s : State) (e : Nat) (x : Endpoint) : (s.setEndp e x).bypass = s.bypass := rfl
@[simp] theorem State.setEndp_sec (s : State) (e : Nat) (x : Endpoint) : (s.setEndp e x).sec = s.sec := rfl
@[simp] theorem State.setEndp_board (s : State) (e : Nat) (x : Endpoint) : (s.setEndp e x).board = s.board := rfl
@[simp] theorem State.setEndp_regs (s : State) (e : Nat) (x : Endpoint) : (s.setEndp e x).regs = s.regs := rfl
@[simp] theorem State.setEndp_host (s : State) (e : Nat) (x : Endpoint) : (s.setEndp e x).host = s.host := rfl
@[simp] theorem State.setEndp_out (s : State) (e : Nat) (x : Endpoint) : (s.setEndp e x).out = s.out := rfl
@[simp] theorem State.setEndp_fresh (s : State) (e : Nat) (x : Endpoint) : (s.setEndp e x).fresh = s.fresh := rfl
@[simp] theorem State.setEndp_tile (s : State) (e : Nat) (x : Endpoint) (k0 : Nat) : (s.setEndp e x).tile k0 = s.tile k0 := rfl
@[simp] theorem State.setEndp_pod (s : State) (e : Nat) (x : Endpoint) (k0 : Nat) : (s.setEndp e x).pod k0 = s.pod k0 := rfl
@[simp] theorem State.setEndp_hull (s : State) (e : Nat) (x : Endpoint) (k0 : Nat) : (s.setEndp e x).hull k0 = s.hull k0 := rfl
@[simp] theorem State.setEndp_eng (s : State) (e : Nat) (x : Endpoint) (k0 : Nat) : (s.setEndp e x).eng k0 = s.eng k0 := rfl
@[simp] theorem State.setEndp_group (s : State) (e : Nat) (x : Endpoint) (k0 : Nat) : (s.setEndp e x).group k0 = s.group k0 := rfl
@[simp] theorem State.setEndp_ring (s : State) (e : Nat) (x : Endpoint) (k0 : Nat) : (s.setEndp e x).ring k0 = s.ring k0 := rfl
@[simp] theorem State.setEndp_irq (s : State) (e : Nat) (x : Endpoint) (k0 : Nat) : (s.setEndp e x).irq k0 = s.irq k0 := rfl
@[simp] theorem State.setEndp_core (s : State) (e : Nat) (x : Endpoint) (k0 : Nat) : (s.setEndp e x).core k0 = s.core k0 := rfl
@[simp] theorem State.setEndp_bundle (s : State) (e : Nat) (x : Endpoint) (k0 : Nat) : (s.setEndp e x).bundle k0 = s.bundle k0 := rfl
@[simp] theorem State.setEndp_unitA (s : State) (e : Nat) (x : Endpoint) (k0 : Nat) : (s.setEndp e x).unitA k0 = s.unitA k0 := rfl
@[simp] theorem State.setEndp_unitB (s : State) (e : Nat) (x : Endpoint) (k0 : Nat) : (s.setEndp e x).unitB k0 = s.unitB k0 := rfl
@[simp] theorem State.setEndp_reg (s : State) (e : Nat) (x : Endpoint) (k0 : Nat) : (s.setEndp e x).reg k0 = s.reg k0 := rfl
@[simp] theorem State.setEndp_same (s : State) (e : Nat) (x : Endpoint) : (s.setEndp e x).endp e = x := tget_tput_same _ _ _ _
theorem State.setEndp_other (s : State) (e : Nat) (x : Endpoint) {i : Nat} (hi : i ≠ e) : (s.setEndp e x).endp i = s.endp i := tget_tput_other _ _ _ hi
@[simp] theorem State.setEndp_twice (s : State) (e : Nat) (x : Endpoint) (y : Endpoint) : (s.setEndp e x).setEndp e y = s.setEndp e y := by
  simp [State.setEndp]

/-! ## setIrq -/

@[simp] theorem State.setIrq_pending (s : State) (k : Nat) (x : IrqSrc) : (s.setIrq k x).pending = s.pending := rfl
@[simp] theorem State.setIrq_tiles (s : State) (k : Nat) (x : IrqSrc) : (s.setIrq k x).tiles = s.tiles := rfl
@[simp] theorem State.setIrq_pods (s : State) (k : Nat) (x : IrqSrc) : (s.setIrq k x).pods = s.pods := rfl
@[simp] theorem State.setIrq_sync (s : State) (k : Nat) (x : IrqSrc) : (s.setIrq k x).sync = s.sync := rfl
@[simp] theorem State.setIrq_spine (s : State) (k : Nat) (x : IrqSrc) : (s.setIrq k x).spine = s.spine := rfl
@[simp] theorem State.setIrq_mem (s : State) (k : Nat) (x : IrqSrc) : (s.setIrq k x).mem = s.mem := rfl
@[simp] theorem State.setIrq_nmu (s : State) (k : Nat) (x : IrqSrc) : (s.setIrq k x).nmu = s.nmu := rfl
@[simp] theorem State.setIrq_aus (s : State) (k : Nat) (x : IrqSrc) : (s.setIrq k x).aus = s.aus := rfl
@[simp] theorem State.setIrq_hulls (s : State) (k : Nat) (x : IrqSrc) : (s.setIrq k x).hulls = s.hulls := rfl
@[simp] theorem State.setIrq_time (s : State) (k : Nat) (x : IrqSrc) : (s.setIrq k x).time = s.time := rfl
@[simp] theorem State.setIrq_jv (s : State) (k : Nat) (x : IrqSrc) : (s.setIrq k x).jv = s.jv := rfl
@[simp] theorem State.setIrq_groups (s : State) (k : Nat) (x : IrqSrc) : (s.setIrq k x).groups = s.groups := rfl
@[simp] theorem State.setIrq_rings (s : State) (k : Nat) (x : IrqSrc) : (s.setIrq k x).rings = s.rings := rfl
@[simp] theorem State.setIrq_endpoints (s : State) (k : Nat) (x : IrqSrc) : (s.setIrq k x).endpoints = s.endpoints := rfl
@[simp] theorem State.setIrq_cores (s : State) (k : Nat) (x : IrqSrc) : (s.setIrq k x).cores = s.cores := rfl
@[simp] theorem State.setIrq_log (s : State) (k : Nat) (x : IrqSrc) : (s.setIrq k x).log = s.log := rfl
@[simp] theorem State.setIrq_nextSeq (s : State) (k : Nat) (x : IrqSrc) : (s.setIrq k x).nextSeq = s.nextSeq := rfl
@[simp] theorem State.setIrq_collectors (s : State) (k : Nat) (x : IrqSrc) : (s.setIrq k x).collectors = s.collectors := rfl
@[simp] theorem State.setIrq_rst (s : State) (k : Nat) (x : IrqSrc) : (s.setIrq k x).rst = s.rst := rfl
@[simp] theorem State.setIrq_probe (s : State) (k : Nat) (x : IrqSrc) : (s.setIrq k x).probe = s.probe := rfl
@[simp] theorem State.setIrq_slots (s : State) (k : Nat) (x : IrqSrc) : (s.setIrq k x).slots = s.slots := rfl
@[simp] theorem State.setIrq_maxVersion (s : State) (k : Nat) (x : IrqSrc) : (s.setIrq k x).maxVersion = s.maxVersion := rfl
@[simp] theorem State.setIrq_bypass (s : State) (k : Nat) (x : IrqSrc) : (s.setIrq k x).bypass = s.bypass := rfl
@[simp] theorem State.setIrq_sec (s : State) (k : Nat) (x : IrqSrc) : (s.setIrq k x).sec = s.sec := rfl
@[simp] theorem State.setIrq_board (s : State) (k : Nat) (x : IrqSrc) : (s.setIrq k x).board = s.board := rfl
@[simp] theorem State.setIrq_regs (s : State) (k : Nat) (x : IrqSrc) : (s.setIrq k x).regs = s.regs := rfl
@[simp] theorem State.setIrq_host (s : State) (k : Nat) (x : IrqSrc) : (s.setIrq k x).host = s.host := rfl
@[simp] theorem State.setIrq_out (s : State) (k : Nat) (x : IrqSrc) : (s.setIrq k x).out = s.out := rfl
@[simp] theorem State.setIrq_fresh (s : State) (k : Nat) (x : IrqSrc) : (s.setIrq k x).fresh = s.fresh := rfl
@[simp] theorem State.setIrq_tile (s : State) (k : Nat) (x : IrqSrc) (k0 : Nat) : (s.setIrq k x).tile k0 = s.tile k0 := rfl
@[simp] theorem State.setIrq_pod (s : State) (k : Nat) (x : IrqSrc) (k0 : Nat) : (s.setIrq k x).pod k0 = s.pod k0 := rfl
@[simp] theorem State.setIrq_hull (s : State) (k : Nat) (x : IrqSrc) (k0 : Nat) : (s.setIrq k x).hull k0 = s.hull k0 := rfl
@[simp] theorem State.setIrq_eng (s : State) (k : Nat) (x : IrqSrc) (k0 : Nat) : (s.setIrq k x).eng k0 = s.eng k0 := rfl
@[simp] theorem State.setIrq_group (s : State) (k : Nat) (x : IrqSrc) (k0 : Nat) : (s.setIrq k x).group k0 = s.group k0 := rfl
@[simp] theorem State.setIrq_ring (s : State) (k : Nat) (x : IrqSrc) (k0 : Nat) : (s.setIrq k x).ring k0 = s.ring k0 := rfl
@[simp] theorem State.setIrq_endp (s : State) (k : Nat) (x : IrqSrc) (k0 : Nat) : (s.setIrq k x).endp k0 = s.endp k0 := rfl
@[simp] theorem State.setIrq_core (s : State) (k : Nat) (x : IrqSrc) (k0 : Nat) : (s.setIrq k x).core k0 = s.core k0 := rfl
@[simp] theorem State.setIrq_bundle (s : State) (k : Nat) (x : IrqSrc) (k0 : Nat) : (s.setIrq k x).bundle k0 = s.bundle k0 := rfl
@[simp] theorem State.setIrq_unitA (s : State) (k : Nat) (x : IrqSrc) (k0 : Nat) : (s.setIrq k x).unitA k0 = s.unitA k0 := rfl
@[simp] theorem State.setIrq_unitB (s : State) (k : Nat) (x : IrqSrc) (k0 : Nat) : (s.setIrq k x).unitB k0 = s.unitB k0 := rfl
@[simp] theorem State.setIrq_reg (s : State) (k : Nat) (x : IrqSrc) (k0 : Nat) : (s.setIrq k x).reg k0 = s.reg k0 := rfl
@[simp] theorem State.setIrq_same (s : State) (k : Nat) (x : IrqSrc) : (s.setIrq k x).irq k = x := tget_tput_same _ _ _ _
theorem State.setIrq_other (s : State) (k : Nat) (x : IrqSrc) {i : Nat} (hi : i ≠ k) : (s.setIrq k x).irq i = s.irq i := tget_tput_other _ _ _ hi
@[simp] theorem State.setIrq_twice (s : State) (k : Nat) (x : IrqSrc) (y : IrqSrc) : (s.setIrq k x).setIrq k y = s.setIrq k y := by
  simp [State.setIrq]

/-! ## setCore -/

@[simp] theorem State.setCore_pending (s : State) (c : Nat) (x : CoreS) : (s.setCore c x).pending = s.pending := rfl
@[simp] theorem State.setCore_tiles (s : State) (c : Nat) (x : CoreS) : (s.setCore c x).tiles = s.tiles := rfl
@[simp] theorem State.setCore_pods (s : State) (c : Nat) (x : CoreS) : (s.setCore c x).pods = s.pods := rfl
@[simp] theorem State.setCore_sync (s : State) (c : Nat) (x : CoreS) : (s.setCore c x).sync = s.sync := rfl
@[simp] theorem State.setCore_spine (s : State) (c : Nat) (x : CoreS) : (s.setCore c x).spine = s.spine := rfl
@[simp] theorem State.setCore_mem (s : State) (c : Nat) (x : CoreS) : (s.setCore c x).mem = s.mem := rfl
@[simp] theorem State.setCore_nmu (s : State) (c : Nat) (x : CoreS) : (s.setCore c x).nmu = s.nmu := rfl
@[simp] theorem State.setCore_aus (s : State) (c : Nat) (x : CoreS) : (s.setCore c x).aus = s.aus := rfl
@[simp] theorem State.setCore_hulls (s : State) (c : Nat) (x : CoreS) : (s.setCore c x).hulls = s.hulls := rfl
@[simp] theorem State.setCore_time (s : State) (c : Nat) (x : CoreS) : (s.setCore c x).time = s.time := rfl
@[simp] theorem State.setCore_jv (s : State) (c : Nat) (x : CoreS) : (s.setCore c x).jv = s.jv := rfl
@[simp] theorem State.setCore_groups (s : State) (c : Nat) (x : CoreS) : (s.setCore c x).groups = s.groups := rfl
@[simp] theorem State.setCore_rings (s : State) (c : Nat) (x : CoreS) : (s.setCore c x).rings = s.rings := rfl
@[simp] theorem State.setCore_endpoints (s : State) (c : Nat) (x : CoreS) : (s.setCore c x).endpoints = s.endpoints := rfl
@[simp] theorem State.setCore_irqs (s : State) (c : Nat) (x : CoreS) : (s.setCore c x).irqs = s.irqs := rfl
@[simp] theorem State.setCore_log (s : State) (c : Nat) (x : CoreS) : (s.setCore c x).log = s.log := rfl
@[simp] theorem State.setCore_nextSeq (s : State) (c : Nat) (x : CoreS) : (s.setCore c x).nextSeq = s.nextSeq := rfl
@[simp] theorem State.setCore_collectors (s : State) (c : Nat) (x : CoreS) : (s.setCore c x).collectors = s.collectors := rfl
@[simp] theorem State.setCore_rst (s : State) (c : Nat) (x : CoreS) : (s.setCore c x).rst = s.rst := rfl
@[simp] theorem State.setCore_probe (s : State) (c : Nat) (x : CoreS) : (s.setCore c x).probe = s.probe := rfl
@[simp] theorem State.setCore_slots (s : State) (c : Nat) (x : CoreS) : (s.setCore c x).slots = s.slots := rfl
@[simp] theorem State.setCore_maxVersion (s : State) (c : Nat) (x : CoreS) : (s.setCore c x).maxVersion = s.maxVersion := rfl
@[simp] theorem State.setCore_bypass (s : State) (c : Nat) (x : CoreS) : (s.setCore c x).bypass = s.bypass := rfl
@[simp] theorem State.setCore_sec (s : State) (c : Nat) (x : CoreS) : (s.setCore c x).sec = s.sec := rfl
@[simp] theorem State.setCore_board (s : State) (c : Nat) (x : CoreS) : (s.setCore c x).board = s.board := rfl
@[simp] theorem State.setCore_regs (s : State) (c : Nat) (x : CoreS) : (s.setCore c x).regs = s.regs := rfl
@[simp] theorem State.setCore_host (s : State) (c : Nat) (x : CoreS) : (s.setCore c x).host = s.host := rfl
@[simp] theorem State.setCore_out (s : State) (c : Nat) (x : CoreS) : (s.setCore c x).out = s.out := rfl
@[simp] theorem State.setCore_fresh (s : State) (c : Nat) (x : CoreS) : (s.setCore c x).fresh = s.fresh := rfl
@[simp] theorem State.setCore_tile (s : State) (c : Nat) (x : CoreS) (k0 : Nat) : (s.setCore c x).tile k0 = s.tile k0 := rfl
@[simp] theorem State.setCore_pod (s : State) (c : Nat) (x : CoreS) (k0 : Nat) : (s.setCore c x).pod k0 = s.pod k0 := rfl
@[simp] theorem State.setCore_hull (s : State) (c : Nat) (x : CoreS) (k0 : Nat) : (s.setCore c x).hull k0 = s.hull k0 := rfl
@[simp] theorem State.setCore_eng (s : State) (c : Nat) (x : CoreS) (k0 : Nat) : (s.setCore c x).eng k0 = s.eng k0 := rfl
@[simp] theorem State.setCore_group (s : State) (c : Nat) (x : CoreS) (k0 : Nat) : (s.setCore c x).group k0 = s.group k0 := rfl
@[simp] theorem State.setCore_ring (s : State) (c : Nat) (x : CoreS) (k0 : Nat) : (s.setCore c x).ring k0 = s.ring k0 := rfl
@[simp] theorem State.setCore_endp (s : State) (c : Nat) (x : CoreS) (k0 : Nat) : (s.setCore c x).endp k0 = s.endp k0 := rfl
@[simp] theorem State.setCore_irq (s : State) (c : Nat) (x : CoreS) (k0 : Nat) : (s.setCore c x).irq k0 = s.irq k0 := rfl
@[simp] theorem State.setCore_bundle (s : State) (c : Nat) (x : CoreS) (k0 : Nat) : (s.setCore c x).bundle k0 = s.bundle k0 := rfl
@[simp] theorem State.setCore_unitA (s : State) (c : Nat) (x : CoreS) (k0 : Nat) : (s.setCore c x).unitA k0 = s.unitA k0 := rfl
@[simp] theorem State.setCore_unitB (s : State) (c : Nat) (x : CoreS) (k0 : Nat) : (s.setCore c x).unitB k0 = s.unitB k0 := rfl
@[simp] theorem State.setCore_reg (s : State) (c : Nat) (x : CoreS) (k0 : Nat) : (s.setCore c x).reg k0 = s.reg k0 := rfl
@[simp] theorem State.setCore_same (s : State) (c : Nat) (x : CoreS) : (s.setCore c x).core c = x := tget_tput_same _ _ _ _
theorem State.setCore_other (s : State) (c : Nat) (x : CoreS) {i : Nat} (hi : i ≠ c) : (s.setCore c x).core i = s.core i := tget_tput_other _ _ _ hi
@[simp] theorem State.setCore_twice (s : State) (c : Nat) (x : CoreS) (y : CoreS) : (s.setCore c x).setCore c y = s.setCore c y := by
  simp [State.setCore]

/-! ## setBundle -/

@[simp] theorem State.setBundle_pending (s : State) (b : Nat) (x : Bundle) : (s.setBundle b x).pending = s.pending := rfl
@[simp] theorem State.setBundle_tiles (s : State) (b : Nat) (x : Bundle) : (s.setBundle b x).tiles = s.tiles := rfl
@[simp] theorem State.setBundle_pods (s : State) (b : Nat) (x : Bundle) : (s.setBundle b x).pods = s.pods := rfl
@[simp] theorem State.setBundle_sync (s : State) (b : Nat) (x : Bundle) : (s.setBundle b x).sync = s.sync := rfl
@[simp] theorem State.setBundle_spine (s : State) (b : Nat) (x : Bundle) : (s.setBundle b x).spine = s.spine := rfl
@[simp] theorem State.setBundle_mem (s : State) (b : Nat) (x : Bundle) : (s.setBundle b x).mem = s.mem := rfl
@[simp] theorem State.setBundle_nmu (s : State) (b : Nat) (x : Bundle) : (s.setBundle b x).nmu = s.nmu := rfl
@[simp] theorem State.setBundle_aus (s : State) (b : Nat) (x : Bundle) : (s.setBundle b x).aus = s.aus := rfl
@[simp] theorem State.setBundle_hulls (s : State) (b : Nat) (x : Bundle) : (s.setBundle b x).hulls = s.hulls := rfl
@[simp] theorem State.setBundle_time (s : State) (b : Nat) (x : Bundle) : (s.setBundle b x).time = s.time := rfl
@[simp] theorem State.setBundle_groups (s : State) (b : Nat) (x : Bundle) : (s.setBundle b x).groups = s.groups := rfl
@[simp] theorem State.setBundle_rings (s : State) (b : Nat) (x : Bundle) : (s.setBundle b x).rings = s.rings := rfl
@[simp] theorem State.setBundle_endpoints (s : State) (b : Nat) (x : Bundle) : (s.setBundle b x).endpoints = s.endpoints := rfl
@[simp] theorem State.setBundle_irqs (s : State) (b : Nat) (x : Bundle) : (s.setBundle b x).irqs = s.irqs := rfl
@[simp] theorem State.setBundle_cores (s : State) (b : Nat) (x : Bundle) : (s.setBundle b x).cores = s.cores := rfl
@[simp] theorem State.setBundle_log (s : State) (b : Nat) (x : Bundle) : (s.setBundle b x).log = s.log := rfl
@[simp] theorem State.setBundle_nextSeq (s : State) (b : Nat) (x : Bundle) : (s.setBundle b x).nextSeq = s.nextSeq := rfl
@[simp] theorem State.setBundle_collectors (s : State) (b : Nat) (x : Bundle) : (s.setBundle b x).collectors = s.collectors := rfl
@[simp] theorem State.setBundle_rst (s : State) (b : Nat) (x : Bundle) : (s.setBundle b x).rst = s.rst := rfl
@[simp] theorem State.setBundle_probe (s : State) (b : Nat) (x : Bundle) : (s.setBundle b x).probe = s.probe := rfl
@[simp] theorem State.setBundle_slots (s : State) (b : Nat) (x : Bundle) : (s.setBundle b x).slots = s.slots := rfl
@[simp] theorem State.setBundle_maxVersion (s : State) (b : Nat) (x : Bundle) : (s.setBundle b x).maxVersion = s.maxVersion := rfl
@[simp] theorem State.setBundle_bypass (s : State) (b : Nat) (x : Bundle) : (s.setBundle b x).bypass = s.bypass := rfl
@[simp] theorem State.setBundle_sec (s : State) (b : Nat) (x : Bundle) : (s.setBundle b x).sec = s.sec := rfl
@[simp] theorem State.setBundle_board (s : State) (b : Nat) (x : Bundle) : (s.setBundle b x).board = s.board := rfl
@[simp] theorem State.setBundle_regs (s : State) (b : Nat) (x : Bundle) : (s.setBundle b x).regs = s.regs := rfl
@[simp] theorem State.setBundle_host (s : State) (b : Nat) (x : Bundle) : (s.setBundle b x).host = s.host := rfl
@[simp] theorem State.setBundle_out (s : State) (b : Nat) (x : Bundle) : (s.setBundle b x).out = s.out := rfl
@[simp] theorem State.setBundle_fresh (s : State) (b : Nat) (x : Bundle) : (s.setBundle b x).fresh = s.fresh := rfl
@[simp] theorem State.setBundle_tile (s : State) (b : Nat) (x : Bundle) (k0 : Nat) : (s.setBundle b x).tile k0 = s.tile k0 := rfl
@[simp] theorem State.setBundle_pod (s : State) (b : Nat) (x : Bundle) (k0 : Nat) : (s.setBundle b x).pod k0 = s.pod k0 := rfl
@[simp] theorem State.setBundle_hull (s : State) (b : Nat) (x : Bundle) (k0 : Nat) : (s.setBundle b x).hull k0 = s.hull k0 := rfl
@[simp] theorem State.setBundle_eng (s : State) (b : Nat) (x : Bundle) (k0 : Nat) : (s.setBundle b x).eng k0 = s.eng k0 := rfl
@[simp] theorem State.setBundle_group (s : State) (b : Nat) (x : Bundle) (k0 : Nat) : (s.setBundle b x).group k0 = s.group k0 := rfl
@[simp] theorem State.setBundle_ring (s : State) (b : Nat) (x : Bundle) (k0 : Nat) : (s.setBundle b x).ring k0 = s.ring k0 := rfl
@[simp] theorem State.setBundle_endp (s : State) (b : Nat) (x : Bundle) (k0 : Nat) : (s.setBundle b x).endp k0 = s.endp k0 := rfl
@[simp] theorem State.setBundle_irq (s : State) (b : Nat) (x : Bundle) (k0 : Nat) : (s.setBundle b x).irq k0 = s.irq k0 := rfl
@[simp] theorem State.setBundle_core (s : State) (b : Nat) (x : Bundle) (k0 : Nat) : (s.setBundle b x).core k0 = s.core k0 := rfl
@[simp] theorem State.setBundle_unitA (s : State) (b : Nat) (x : Bundle) (k0 : Nat) : (s.setBundle b x).unitA k0 = s.unitA k0 := rfl
@[simp] theorem State.setBundle_unitB (s : State) (b : Nat) (x : Bundle) (k0 : Nat) : (s.setBundle b x).unitB k0 = s.unitB k0 := rfl
@[simp] theorem State.setBundle_reg (s : State) (b : Nat) (x : Bundle) (k0 : Nat) : (s.setBundle b x).reg k0 = s.reg k0 := rfl
@[simp] theorem State.setBundle_jv_plan (s : State) (b : Nat) (x : Bundle) : (s.setBundle b x).jv.plan = s.jv.plan := rfl
@[simp] theorem State.setBundle_jv_disable (s : State) (b : Nat) (x : Bundle) : (s.setBundle b x).jv.disable = s.jv.disable := rfl
@[simp] theorem State.setBundle_jv_seen (s : State) (b : Nat) (x : Bundle) : (s.setBundle b x).jv.seen = s.jv.seen := rfl
@[simp] theorem State.setBundle_jv_nextE2e (s : State) (b : Nat) (x : Bundle) : (s.setBundle b x).jv.nextE2e = s.jv.nextE2e := rfl
@[simp] theorem State.setBundle_jv_waiting (s : State) (b : Nat) (x : Bundle) : (s.setBundle b x).jv.waiting = s.jv.waiting := rfl
@[simp] theorem State.setBundle_jv_privWait (s : State) (b : Nat) (x : Bundle) : (s.setBundle b x).jv.privWait = s.jv.privWait := rfl
@[simp] theorem State.setBundle_jv_inbox (s : State) (b : Nat) (x : Bundle) : (s.setBundle b x).jv.inbox = s.jv.inbox := rfl
@[simp] theorem State.setBundle_jv_rotation (s : State) (b : Nat) (x : Bundle) : (s.setBundle b x).jv.rotation = s.jv.rotation := rfl
@[simp] theorem State.setBundle_same (s : State) (b : Nat) (x : Bundle) : (s.setBundle b x).bundle b = x := tget_tput_same _ _ _ _
theorem State.setBundle_other (s : State) (b : Nat) (x : Bundle) {i : Nat} (hi : i ≠ b) : (s.setBundle b x).bundle i = s.bundle i := tget_tput_other _ _ _ hi
@[simp] theorem State.setBundle_twice (s : State) (b : Nat) (x : Bundle) (y : Bundle) : (s.setBundle b x).setBundle b y = s.setBundle b y := by
  simp [State.setBundle]

/-! ## setUnitA -/

@[simp] theorem State.setUnitA_pending (s : State) (c : Nat) (x : UnitS) : (s.setUnitA c x).pending = s.pending := rfl
@[simp] theorem State.setUnitA_tiles (s : State) (c : Nat) (x : UnitS) : (s.setUnitA c x).tiles = s.tiles := rfl
@[simp] theorem State.setUnitA_pods (s : State) (c : Nat) (x : UnitS) : (s.setUnitA c x).pods = s.pods := rfl
@[simp] theorem State.setUnitA_sync (s : State) (c : Nat) (x : UnitS) : (s.setUnitA c x).sync = s.sync := rfl
@[simp] theorem State.setUnitA_spine (s : State) (c : Nat) (x : UnitS) : (s.setUnitA c x).spine = s.spine := rfl
@[simp] theorem State.setUnitA_nmu (s : State) (c : Nat) (x : UnitS) : (s.setUnitA c x).nmu = s.nmu := rfl
@[simp] theorem State.setUnitA_aus (s : State) (c : Nat) (x : UnitS) : (s.setUnitA c x).aus = s.aus := rfl
@[simp] theorem State.setUnitA_hulls (s : State) (c : Nat) (x : UnitS) : (s.setUnitA c x).hulls = s.hulls := rfl
@[simp] theorem State.setUnitA_time (s : State) (c : Nat) (x : UnitS) : (s.setUnitA c x).time = s.time := rfl
@[simp] theorem State.setUnitA_jv (s : State) (c : Nat) (x : UnitS) : (s.setUnitA c x).jv = s.jv := rfl
@[simp] theorem State.setUnitA_groups (s : State) (c : Nat) (x : UnitS) : (s.setUnitA c x).groups = s.groups := rfl
@[simp] theorem State.setUnitA_rings (s : State) (c : Nat) (x : UnitS) : (s.setUnitA c x).rings = s.rings := rfl
@[simp] theorem State.setUnitA_endpoints (s : State) (c : Nat) (x : UnitS) : (s.setUnitA c x).endpoints = s.endpoints := rfl
@[simp] theorem State.setUnitA_irqs (s : State) (c : Nat) (x : UnitS) : (s.setUnitA c x).irqs = s.irqs := rfl
@[simp] theorem State.setUnitA_cores (s : State) (c : Nat) (x : UnitS) : (s.setUnitA c x).cores = s.cores := rfl
@[simp] theorem State.setUnitA_log (s : State) (c : Nat) (x : UnitS) : (s.setUnitA c x).log = s.log := rfl
@[simp] theorem State.setUnitA_nextSeq (s : State) (c : Nat) (x : UnitS) : (s.setUnitA c x).nextSeq = s.nextSeq := rfl
@[simp] theorem State.setUnitA_collectors (s : State) (c : Nat) (x : UnitS) : (s.setUnitA c x).collectors = s.collectors := rfl
@[simp] theorem State.setUnitA_rst (s : State) (c : Nat) (x : UnitS) : (s.setUnitA c x).rst = s.rst := rfl
@[simp] theorem State.setUnitA_probe (s : State) (c : Nat) (x : UnitS) : (s.setUnitA c x).probe = s.probe := rfl
@[simp] theorem State.setUnitA_slots (s : State) (c : Nat) (x : UnitS) : (s.setUnitA c x).slots = s.slots := rfl
@[simp] theorem State.setUnitA_maxVersion (s : State) (c : Nat) (x : UnitS) : (s.setUnitA c x).maxVersion = s.maxVersion := rfl
@[simp] theorem State.setUnitA_bypass (s : State) (c : Nat) (x : UnitS) : (s.setUnitA c x).bypass = s.bypass := rfl
@[simp] theorem State.setUnitA_sec (s : State) (c : Nat) (x : UnitS) : (s.setUnitA c x).sec = s.sec := rfl
@[simp] theorem State.setUnitA_board (s : State) (c : Nat) (x : UnitS) : (s.setUnitA c x).board = s.board := rfl
@[simp] theorem State.setUnitA_regs (s : State) (c : Nat) (x : UnitS) : (s.setUnitA c x).regs = s.regs := rfl
@[simp] theorem State.setUnitA_host (s : State) (c : Nat) (x : UnitS) : (s.setUnitA c x).host = s.host := rfl
@[simp] theorem State.setUnitA_out (s : State) (c : Nat) (x : UnitS) : (s.setUnitA c x).out = s.out := rfl
@[simp] theorem State.setUnitA_fresh (s : State) (c : Nat) (x : UnitS) : (s.setUnitA c x).fresh = s.fresh := rfl
@[simp] theorem State.setUnitA_tile (s : State) (c : Nat) (x : UnitS) (k0 : Nat) : (s.setUnitA c x).tile k0 = s.tile k0 := rfl
@[simp] theorem State.setUnitA_pod (s : State) (c : Nat) (x : UnitS) (k0 : Nat) : (s.setUnitA c x).pod k0 = s.pod k0 := rfl
@[simp] theorem State.setUnitA_hull (s : State) (c : Nat) (x : UnitS) (k0 : Nat) : (s.setUnitA c x).hull k0 = s.hull k0 := rfl
@[simp] theorem State.setUnitA_eng (s : State) (c : Nat) (x : UnitS) (k0 : Nat) : (s.setUnitA c x).eng k0 = s.eng k0 := rfl
@[simp] theorem State.setUnitA_group (s : State) (c : Nat) (x : UnitS) (k0 : Nat) : (s.setUnitA c x).group k0 = s.group k0 := rfl
@[simp] theorem State.setUnitA_ring (s : State) (c : Nat) (x : UnitS) (k0 : Nat) : (s.setUnitA c x).ring k0 = s.ring k0 := rfl
@[simp] theorem State.setUnitA_endp (s : State) (c : Nat) (x : UnitS) (k0 : Nat) : (s.setUnitA c x).endp k0 = s.endp k0 := rfl
@[simp] theorem State.setUnitA_irq (s : State) (c : Nat) (x : UnitS) (k0 : Nat) : (s.setUnitA c x).irq k0 = s.irq k0 := rfl
@[simp] theorem State.setUnitA_core (s : State) (c : Nat) (x : UnitS) (k0 : Nat) : (s.setUnitA c x).core k0 = s.core k0 := rfl
@[simp] theorem State.setUnitA_bundle (s : State) (c : Nat) (x : UnitS) (k0 : Nat) : (s.setUnitA c x).bundle k0 = s.bundle k0 := rfl
@[simp] theorem State.setUnitA_unitB (s : State) (c : Nat) (x : UnitS) (k0 : Nat) : (s.setUnitA c x).unitB k0 = s.unitB k0 := rfl
@[simp] theorem State.setUnitA_reg (s : State) (c : Nat) (x : UnitS) (k0 : Nat) : (s.setUnitA c x).reg k0 = s.reg k0 := rfl
@[simp] theorem State.setUnitA_mem_a (s : State) (c : Nat) (x : UnitS) : (s.setUnitA c x).mem.a = s.mem.a := rfl
@[simp] theorem State.setUnitA_mem_b (s : State) (c : Nat) (x : UnitS) : (s.setUnitA c x).mem.b = s.mem.b := rfl
@[simp] theorem State.setUnitA_mem_fwChannel (s : State) (c : Nat) (x : UnitS) : (s.setUnitA c x).mem.fwChannel = s.mem.fwChannel := rfl
@[simp] theorem State.setUnitA_mem_usableA (s : State) (c : Nat) (x : UnitS) : (s.setUnitA c x).mem.usableA = s.mem.usableA := rfl
@[simp] theorem State.setUnitA_mem_usableB (s : State) (c : Nat) (x : UnitS) : (s.setUnitA c x).mem.usableB = s.mem.usableB := rfl
@[simp] theorem State.setUnitA_mem_trained (s : State) (c : Nat) (x : UnitS) : (s.setUnitA c x).mem.trained = s.mem.trained := rfl
@[simp] theorem State.setUnitA_mem_hot (s : State) (c : Nat) (x : UnitS) : (s.setUnitA c x).mem.hot = s.mem.hot := rfl
@[simp] theorem State.setUnitA_mem_temp (s : State) (c : Nat) (x : UnitS) : (s.setUnitA c x).mem.temp = s.mem.temp := rfl
@[simp] theorem State.setUnitA_mem_marks (s : State) (c : Nat) (x : UnitS) : (s.setUnitA c x).mem.marks = s.mem.marks := rfl
@[simp] theorem State.setUnitA_mem_mapoutQueue (s : State) (c : Nat) (x : UnitS) : (s.setUnitA c x).mem.mapoutQueue = s.mem.mapoutQueue := rfl
@[simp] theorem State.setUnitA_mem_mapout (s : State) (c : Nat) (x : UnitS) : (s.setUnitA c x).mem.mapout = s.mem.mapout := rfl
@[simp] theorem State.setUnitA_mem_unitsB (s : State) (c : Nat) (x : UnitS) : (s.setUnitA c x).mem.unitsB = s.mem.unitsB := rfl
@[simp] theorem State.setUnitA_same (s : State) (c : Nat) (x : UnitS) : (s.setUnitA c x).unitA c = x := tget_tput_same _ _ _ _
theorem State.setUnitA_other (s : State) (c : Nat) (x : UnitS) {i : Nat} (hi : i ≠ c) : (s.setUnitA c x).unitA i = s.unitA i := tget_tput_other _ _ _ hi
@[simp] theorem State.setUnitA_twice (s : State) (c : Nat) (x : UnitS) (y : UnitS) : (s.setUnitA c x).setUnitA c y = s.setUnitA c y := by
  simp [State.setUnitA]

/-! ## setUnitB -/

@[simp] theorem State.setUnitB_pending (s : State) (j : Nat) (x : UnitS) : (s.setUnitB j x).pending = s.pending := rfl
@[simp] theorem State.setUnitB_tiles (s : State) (j : Nat) (x : UnitS) : (s.setUnitB j x).tiles = s.tiles := rfl
@[simp] theorem State.setUnitB_pods (s : State) (j : Nat) (x : UnitS) : (s.setUnitB j x).pods = s.pods := rfl
@[simp] theorem State.setUnitB_sync (s : State) (j : Nat) (x : UnitS) : (s.setUnitB j x).sync = s.sync := rfl
@[simp] theorem State.setUnitB_spine (s : State) (j : Nat) (x : UnitS) : (s.setUnitB j x).spine = s.spine := rfl
@[simp] theorem State.setUnitB_nmu (s : State) (j : Nat) (x : UnitS) : (s.setUnitB j x).nmu = s.nmu := rfl
@[simp] theorem State.setUnitB_aus (s : State) (j : Nat) (x : UnitS) : (s.setUnitB j x).aus = s.aus := rfl
@[simp] theorem State.setUnitB_hulls (s : State) (j : Nat) (x : UnitS) : (s.setUnitB j x).hulls = s.hulls := rfl
@[simp] theorem State.setUnitB_time (s : State) (j : Nat) (x : UnitS) : (s.setUnitB j x).time = s.time := rfl
@[simp] theorem State.setUnitB_jv (s : State) (j : Nat) (x : UnitS) : (s.setUnitB j x).jv = s.jv := rfl
@[simp] theorem State.setUnitB_groups (s : State) (j : Nat) (x : UnitS) : (s.setUnitB j x).groups = s.groups := rfl
@[simp] theorem State.setUnitB_rings (s : State) (j : Nat) (x : UnitS) : (s.setUnitB j x).rings = s.rings := rfl
@[simp] theorem State.setUnitB_endpoints (s : State) (j : Nat) (x : UnitS) : (s.setUnitB j x).endpoints = s.endpoints := rfl
@[simp] theorem State.setUnitB_irqs (s : State) (j : Nat) (x : UnitS) : (s.setUnitB j x).irqs = s.irqs := rfl
@[simp] theorem State.setUnitB_cores (s : State) (j : Nat) (x : UnitS) : (s.setUnitB j x).cores = s.cores := rfl
@[simp] theorem State.setUnitB_log (s : State) (j : Nat) (x : UnitS) : (s.setUnitB j x).log = s.log := rfl
@[simp] theorem State.setUnitB_nextSeq (s : State) (j : Nat) (x : UnitS) : (s.setUnitB j x).nextSeq = s.nextSeq := rfl
@[simp] theorem State.setUnitB_collectors (s : State) (j : Nat) (x : UnitS) : (s.setUnitB j x).collectors = s.collectors := rfl
@[simp] theorem State.setUnitB_rst (s : State) (j : Nat) (x : UnitS) : (s.setUnitB j x).rst = s.rst := rfl
@[simp] theorem State.setUnitB_probe (s : State) (j : Nat) (x : UnitS) : (s.setUnitB j x).probe = s.probe := rfl
@[simp] theorem State.setUnitB_slots (s : State) (j : Nat) (x : UnitS) : (s.setUnitB j x).slots = s.slots := rfl
@[simp] theorem State.setUnitB_maxVersion (s : State) (j : Nat) (x : UnitS) : (s.setUnitB j x).maxVersion = s.maxVersion := rfl
@[simp] theorem State.setUnitB_bypass (s : State) (j : Nat) (x : UnitS) : (s.setUnitB j x).bypass = s.bypass := rfl
@[simp] theorem State.setUnitB_sec (s : State) (j : Nat) (x : UnitS) : (s.setUnitB j x).sec = s.sec := rfl
@[simp] theorem State.setUnitB_board (s : State) (j : Nat) (x : UnitS) : (s.setUnitB j x).board = s.board := rfl
@[simp] theorem State.setUnitB_regs (s : State) (j : Nat) (x : UnitS) : (s.setUnitB j x).regs = s.regs := rfl
@[simp] theorem State.setUnitB_host (s : State) (j : Nat) (x : UnitS) : (s.setUnitB j x).host = s.host := rfl
@[simp] theorem State.setUnitB_out (s : State) (j : Nat) (x : UnitS) : (s.setUnitB j x).out = s.out := rfl
@[simp] theorem State.setUnitB_fresh (s : State) (j : Nat) (x : UnitS) : (s.setUnitB j x).fresh = s.fresh := rfl
@[simp] theorem State.setUnitB_tile (s : State) (j : Nat) (x : UnitS) (k0 : Nat) : (s.setUnitB j x).tile k0 = s.tile k0 := rfl
@[simp] theorem State.setUnitB_pod (s : State) (j : Nat) (x : UnitS) (k0 : Nat) : (s.setUnitB j x).pod k0 = s.pod k0 := rfl
@[simp] theorem State.setUnitB_hull (s : State) (j : Nat) (x : UnitS) (k0 : Nat) : (s.setUnitB j x).hull k0 = s.hull k0 := rfl
@[simp] theorem State.setUnitB_eng (s : State) (j : Nat) (x : UnitS) (k0 : Nat) : (s.setUnitB j x).eng k0 = s.eng k0 := rfl
@[simp] theorem State.setUnitB_group (s : State) (j : Nat) (x : UnitS) (k0 : Nat) : (s.setUnitB j x).group k0 = s.group k0 := rfl
@[simp] theorem State.setUnitB_ring (s : State) (j : Nat) (x : UnitS) (k0 : Nat) : (s.setUnitB j x).ring k0 = s.ring k0 := rfl
@[simp] theorem State.setUnitB_endp (s : State) (j : Nat) (x : UnitS) (k0 : Nat) : (s.setUnitB j x).endp k0 = s.endp k0 := rfl
@[simp] theorem State.setUnitB_irq (s : State) (j : Nat) (x : UnitS) (k0 : Nat) : (s.setUnitB j x).irq k0 = s.irq k0 := rfl
@[simp] theorem State.setUnitB_core (s : State) (j : Nat) (x : UnitS) (k0 : Nat) : (s.setUnitB j x).core k0 = s.core k0 := rfl
@[simp] theorem State.setUnitB_bundle (s : State) (j : Nat) (x : UnitS) (k0 : Nat) : (s.setUnitB j x).bundle k0 = s.bundle k0 := rfl
@[simp] theorem State.setUnitB_unitA (s : State) (j : Nat) (x : UnitS) (k0 : Nat) : (s.setUnitB j x).unitA k0 = s.unitA k0 := rfl
@[simp] theorem State.setUnitB_reg (s : State) (j : Nat) (x : UnitS) (k0 : Nat) : (s.setUnitB j x).reg k0 = s.reg k0 := rfl
@[simp] theorem State.setUnitB_mem_a (s : State) (j : Nat) (x : UnitS) : (s.setUnitB j x).mem.a = s.mem.a := rfl
@[simp] theorem State.setUnitB_mem_b (s : State) (j : Nat) (x : UnitS) : (s.setUnitB j x).mem.b = s.mem.b := rfl
@[simp] theorem State.setUnitB_mem_fwChannel (s : State) (j : Nat) (x : UnitS) : (s.setUnitB j x).mem.fwChannel = s.mem.fwChannel := rfl
@[simp] theorem State.setUnitB_mem_usableA (s : State) (j : Nat) (x : UnitS) : (s.setUnitB j x).mem.usableA = s.mem.usableA := rfl
@[simp] theorem State.setUnitB_mem_usableB (s : State) (j : Nat) (x : UnitS) : (s.setUnitB j x).mem.usableB = s.mem.usableB := rfl
@[simp] theorem State.setUnitB_mem_trained (s : State) (j : Nat) (x : UnitS) : (s.setUnitB j x).mem.trained = s.mem.trained := rfl
@[simp] theorem State.setUnitB_mem_hot (s : State) (j : Nat) (x : UnitS) : (s.setUnitB j x).mem.hot = s.mem.hot := rfl
@[simp] theorem State.setUnitB_mem_temp (s : State) (j : Nat) (x : UnitS) : (s.setUnitB j x).mem.temp = s.mem.temp := rfl
@[simp] theorem State.setUnitB_mem_marks (s : State) (j : Nat) (x : UnitS) : (s.setUnitB j x).mem.marks = s.mem.marks := rfl
@[simp] theorem State.setUnitB_mem_mapoutQueue (s : State) (j : Nat) (x : UnitS) : (s.setUnitB j x).mem.mapoutQueue = s.mem.mapoutQueue := rfl
@[simp] theorem State.setUnitB_mem_mapout (s : State) (j : Nat) (x : UnitS) : (s.setUnitB j x).mem.mapout = s.mem.mapout := rfl
@[simp] theorem State.setUnitB_mem_unitsA (s : State) (j : Nat) (x : UnitS) : (s.setUnitB j x).mem.unitsA = s.mem.unitsA := rfl
@[simp] theorem State.setUnitB_same (s : State) (j : Nat) (x : UnitS) : (s.setUnitB j x).unitB j = x := tget_tput_same _ _ _ _
theorem State.setUnitB_other (s : State) (j : Nat) (x : UnitS) {i : Nat} (hi : i ≠ j) : (s.setUnitB j x).unitB i = s.unitB i := tget_tput_other _ _ _ hi
@[simp] theorem State.setUnitB_twice (s : State) (j : Nat) (x : UnitS) (y : UnitS) : (s.setUnitB j x).setUnitB j y = s.setUnitB j y := by
  simp [State.setUnitB]

/-! ## setReg -/

@[simp] theorem State.setReg_pending (s : State) (o v : Nat) : (s.setReg o v).pending = s.pending := rfl
@[simp] theorem State.setReg_tiles (s : State) (o v : Nat) : (s.setReg o v).tiles = s.tiles := rfl
@[simp] theorem State.setReg_pods (s : State) (o v : Nat) : (s.setReg o v).pods = s.pods := rfl
@[simp] theorem State.setReg_sync (s : State) (o v : Nat) : (s.setReg o v).sync = s.sync := rfl
@[simp] theorem State.setReg_spine (s : State) (o v : Nat) : (s.setReg o v).spine = s.spine := rfl
@[simp] theorem State.setReg_mem (s : State) (o v : Nat) : (s.setReg o v).mem = s.mem := rfl
@[simp] theorem State.setReg_nmu (s : State) (o v : Nat) : (s.setReg o v).nmu = s.nmu := rfl
@[simp] theorem State.setReg_aus (s : State) (o v : Nat) : (s.setReg o v).aus = s.aus := rfl
@[simp] theorem State.setReg_hulls (s : State) (o v : Nat) : (s.setReg o v).hulls = s.hulls := rfl
@[simp] theorem State.setReg_time (s : State) (o v : Nat) : (s.setReg o v).time = s.time := rfl
@[simp] theorem State.setReg_jv (s : State) (o v : Nat) : (s.setReg o v).jv = s.jv := rfl
@[simp] theorem State.setReg_groups (s : State) (o v : Nat) : (s.setReg o v).groups = s.groups := rfl
@[simp] theorem State.setReg_rings (s : State) (o v : Nat) : (s.setReg o v).rings = s.rings := rfl
@[simp] theorem State.setReg_endpoints (s : State) (o v : Nat) : (s.setReg o v).endpoints = s.endpoints := rfl
@[simp] theorem State.setReg_irqs (s : State) (o v : Nat) : (s.setReg o v).irqs = s.irqs := rfl
@[simp] theorem State.setReg_cores (s : State) (o v : Nat) : (s.setReg o v).cores = s.cores := rfl
@[simp] theorem State.setReg_log (s : State) (o v : Nat) : (s.setReg o v).log = s.log := rfl
@[simp] theorem State.setReg_nextSeq (s : State) (o v : Nat) : (s.setReg o v).nextSeq = s.nextSeq := rfl
@[simp] theorem State.setReg_collectors (s : State) (o v : Nat) : (s.setReg o v).collectors = s.collectors := rfl
@[simp] theorem State.setReg_rst (s : State) (o v : Nat) : (s.setReg o v).rst = s.rst := rfl
@[simp] theorem State.setReg_probe (s : State) (o v : Nat) : (s.setReg o v).probe = s.probe := rfl
@[simp] theorem State.setReg_slots (s : State) (o v : Nat) : (s.setReg o v).slots = s.slots := rfl
@[simp] theorem State.setReg_maxVersion (s : State) (o v : Nat) : (s.setReg o v).maxVersion = s.maxVersion := rfl
@[simp] theorem State.setReg_bypass (s : State) (o v : Nat) : (s.setReg o v).bypass = s.bypass := rfl
@[simp] theorem State.setReg_sec (s : State) (o v : Nat) : (s.setReg o v).sec = s.sec := rfl
@[simp] theorem State.setReg_board (s : State) (o v : Nat) : (s.setReg o v).board = s.board := rfl
@[simp] theorem State.setReg_host (s : State) (o v : Nat) : (s.setReg o v).host = s.host := rfl
@[simp] theorem State.setReg_out (s : State) (o v : Nat) : (s.setReg o v).out = s.out := rfl
@[simp] theorem State.setReg_fresh (s : State) (o v : Nat) : (s.setReg o v).fresh = s.fresh := rfl
@[simp] theorem State.setReg_tile (s : State) (o v : Nat) (k0 : Nat) : (s.setReg o v).tile k0 = s.tile k0 := rfl
@[simp] theorem State.setReg_pod (s : State) (o v : Nat) (k0 : Nat) : (s.setReg o v).pod k0 = s.pod k0 := rfl
@[simp] theorem State.setReg_hull (s : State) (o v : Nat) (k0 : Nat) : (s.setReg o v).hull k0 = s.hull k0 := rfl
@[simp] theorem State.setReg_eng (s : State) (o v : Nat) (k0 : Nat) : (s.setReg o v).eng k0 = s.eng k0 := rfl
@[simp] theorem State.setReg_group (s : State) (o v : Nat) (k0 : Nat) : (s.setReg o v).group k0 = s.group k0 := rfl
@[simp] theorem State.setReg_ring (s : State) (o v : Nat) (k0 : Nat) : (s.setReg o v).ring k0 = s.ring k0 := rfl
@[simp] theorem State.setReg_endp (s : State) (o v : Nat) (k0 : Nat) : (s.setReg o v).endp k0 = s.endp k0 := rfl
@[simp] theorem State.setReg_irq (s : State) (o v : Nat) (k0 : Nat) : (s.setReg o v).irq k0 = s.irq k0 := rfl
@[simp] theorem State.setReg_core (s : State) (o v : Nat) (k0 : Nat) : (s.setReg o v).core k0 = s.core k0 := rfl
@[simp] theorem State.setReg_bundle (s : State) (o v : Nat) (k0 : Nat) : (s.setReg o v).bundle k0 = s.bundle k0 := rfl
@[simp] theorem State.setReg_unitA (s : State) (o v : Nat) (k0 : Nat) : (s.setReg o v).unitA k0 = s.unitA k0 := rfl
@[simp] theorem State.setReg_unitB (s : State) (o v : Nat) (k0 : Nat) : (s.setReg o v).unitB k0 = s.unitB k0 := rfl
theorem State.setReg_same (s : State) (o v : Nat) (hv : v < 2 ^ 64) : (s.setReg o v).reg o = v := by
  simp [State.reg, State.setReg]; omega
theorem State.setReg_other (s : State) (o v : Nat) {i : Nat} (hi : i ≠ o) : (s.setReg o v).reg i = s.reg i := by
  simp [State.reg, State.setReg, tget_tput_other _ _ _ hi]

/-! ## emit -/

@[simp] theorem State.emit_pending (s : State) (o : Out) : (s.emit o).pending = s.pending := rfl
@[simp] theorem State.emit_tiles (s : State) (o : Out) : (s.emit o).tiles = s.tiles := rfl
@[simp] theorem State.emit_pods (s : State) (o : Out) : (s.emit o).pods = s.pods := rfl
@[simp] theorem State.emit_sync (s : State) (o : Out) : (s.emit o).sync = s.sync := rfl
@[simp] theorem State.emit_spine (s : State) (o : Out) : (s.emit o).spine = s.spine := rfl
@[simp] theorem State.emit_mem (s : State) (o : Out) : (s.emit o).mem = s.mem := rfl
@[simp] theorem State.emit_nmu (s : State) (o : Out) : (s.emit o).nmu = s.nmu := rfl
@[simp] theorem State.emit_aus (s : State) (o : Out) : (s.emit o).aus = s.aus := rfl
@[simp] theorem State.emit_hulls (s : State) (o : Out) : (s.emit o).hulls = s.hulls := rfl
@[simp] theorem State.emit_time (s : State) (o : Out) : (s.emit o).time = s.time := rfl
@[simp] theorem State.emit_jv (s : State) (o : Out) : (s.emit o).jv = s.jv := rfl
@[simp] theorem State.emit_groups (s : State) (o : Out) : (s.emit o).groups = s.groups := rfl
@[simp] theorem State.emit_rings (s : State) (o : Out) : (s.emit o).rings = s.rings := rfl
@[simp] theorem State.emit_endpoints (s : State) (o : Out) : (s.emit o).endpoints = s.endpoints := rfl
@[simp] theorem State.emit_irqs (s : State) (o : Out) : (s.emit o).irqs = s.irqs := rfl
@[simp] theorem State.emit_cores (s : State) (o : Out) : (s.emit o).cores = s.cores := rfl
@[simp] theorem State.emit_log (s : State) (o : Out) : (s.emit o).log = s.log := rfl
@[simp] theorem State.emit_nextSeq (s : State) (o : Out) : (s.emit o).nextSeq = s.nextSeq := rfl
@[simp] theorem State.emit_collectors (s : State) (o : Out) : (s.emit o).collectors = s.collectors := rfl
@[simp] theorem State.emit_rst (s : State) (o : Out) : (s.emit o).rst = s.rst := rfl
@[simp] theorem State.emit_probe (s : State) (o : Out) : (s.emit o).probe = s.probe := rfl
@[simp] theorem State.emit_slots (s : State) (o : Out) : (s.emit o).slots = s.slots := rfl
@[simp] theorem State.emit_maxVersion (s : State) (o : Out) : (s.emit o).maxVersion = s.maxVersion := rfl
@[simp] theorem State.emit_bypass (s : State) (o : Out) : (s.emit o).bypass = s.bypass := rfl
@[simp] theorem State.emit_sec (s : State) (o : Out) : (s.emit o).sec = s.sec := rfl
@[simp] theorem State.emit_board (s : State) (o : Out) : (s.emit o).board = s.board := rfl
@[simp] theorem State.emit_regs (s : State) (o : Out) : (s.emit o).regs = s.regs := rfl
@[simp] theorem State.emit_host (s : State) (o : Out) : (s.emit o).host = s.host := rfl
@[simp] theorem State.emit_fresh (s : State) (o : Out) : (s.emit o).fresh = s.fresh := rfl
@[simp] theorem State.emit_tile (s : State) (o : Out) (k0 : Nat) : (s.emit o).tile k0 = s.tile k0 := rfl
@[simp] theorem State.emit_pod (s : State) (o : Out) (k0 : Nat) : (s.emit o).pod k0 = s.pod k0 := rfl
@[simp] theorem State.emit_hull (s : State) (o : Out) (k0 : Nat) : (s.emit o).hull k0 = s.hull k0 := rfl
@[simp] theorem State.emit_eng (s : State) (o : Out) (k0 : Nat) : (s.emit o).eng k0 = s.eng k0 := rfl
@[simp] theorem State.emit_group (s : State) (o : Out) (k0 : Nat) : (s.emit o).group k0 = s.group k0 := rfl
@[simp] theorem State.emit_ring (s : State) (o : Out) (k0 : Nat) : (s.emit o).ring k0 = s.ring k0 := rfl
@[simp] theorem State.emit_endp (s : State) (o : Out) (k0 : Nat) : (s.emit o).endp k0 = s.endp k0 := rfl
@[simp] theorem State.emit_irq (s : State) (o : Out) (k0 : Nat) : (s.emit o).irq k0 = s.irq k0 := rfl
@[simp] theorem State.emit_core (s : State) (o : Out) (k0 : Nat) : (s.emit o).core k0 = s.core k0 := rfl
@[simp] theorem State.emit_bundle (s : State) (o : Out) (k0 : Nat) : (s.emit o).bundle k0 = s.bundle k0 := rfl
@[simp] theorem State.emit_unitA (s : State) (o : Out) (k0 : Nat) : (s.emit o).unitA k0 = s.unitA k0 := rfl
@[simp] theorem State.emit_unitB (s : State) (o : Out) (k0 : Nat) : (s.emit o).unitB k0 = s.unitB k0 := rfl
@[simp] theorem State.emit_reg (s : State) (o : Out) (k0 : Nat) : (s.emit o).reg k0 = s.reg k0 := rfl
@[simp] theorem State.emit_out (s : State) (o : Out) : (s.emit o).out = o :: s.out := rfl

end Sys2Proof.Machine
end

