-- ==== Sys2Proof/Laws/Meeting.lean ====
section
/-!
SUPPORT. Accesses to memory: what a command that meets nothing ends with, and what an access to a unit can answer (R179, R198, R199, R392).
-/

namespace Sys2Proof.Machine

@[simp] theorem State.settled_meets (s : State) : s.settled.mem.meets = [] := rfl
@[simp] theorem State.settled_lost (s : State) : s.settled.mem.lost = false := rfl
@[simp] theorem State.settled_stuck (s : State) : s.settled.mem.stuck = false := rfl
@[simp] theorem State.settled_settled (s : State) : s.settled.settled = s.settled := rfl
@[simp] theorem State.settled_hull (s : State) (h : Nat) : s.settled.hull h = s.hull h := rfl
@[simp] theorem State.settled_unit (s : State) (u : MemUnit) : s.settled.unit u = s.unit u := by cases u <;> rfl
@[simp] theorem State.settled_blk (s : State) (tb : Bool) (k : Nat) : s.settled.blk tb k = s.blk tb k := rfl

/-- A state in which nothing is noted of an access is its own settled form. -/
theorem State.settled_of_quiet {s : State} (h : s.quiet) : s.settled = s := by
  obtain ⟨h1, h2, h3⟩ := h
  have e : { s.mem with meets := [], lost := false, stuck := false } = s.mem := by
    cases hm : s.mem
    simp_all
  unfold State.settled
  rw [e]

/-- A command of whose accesses none is held ends with what it does, and nothing noted. -/
theorem State.meeting_done (s : State) (f : State → State) (h : (f s.settled).mem.stuck = false) :
    s.meeting [] f = (f s.settled).settled := by
  change (if (f s.settled).mem.stuck = true then s else (f s.settled).settled) = _
  rw [h]
  rfl

/-- A command one of whose accesses is held has no effect yet (R199). -/
theorem State.meeting_held (s : State) (m : List Meet) (f : State → State)
    (h : (f { s with mem := { s.mem with meets := m, lost := false, stuck := false } }).mem.stuck = true) : s.meeting m f = s := by
  unfold State.meeting
  simp only [h, if_true]

/-- Nothing is met at a row that the command's list does not name. -/
theorem State.takeMeet_nil {s : State} (h : s.mem.meets = []) (u : MemUnit) (row : Nat) : s.takeMeet u row = (.ok, 0, s) := by
  unfold State.takeMeet
  rw [h]
  rfl

/-- What an access answers where the command meets nothing: the unit's range is unassigned, or it is being copied, or its near-memory
unit failed its probe, or the access is served and leaves no trace. -/
theorem State.access_nil {s : State} (h : s.mem.meets = []) (hull : Nat) (u : MemUnit) (row : Nat) (write whole : Bool) :
    s.access hull u row write whole =
      if s.physAssigned (blockAddr u row) = false then
        (.unassigned, s.physReject (0x0200 + nmuOf u) hull write (blockAddr u row) 256)
      else if (s.unit u).copySource = true then (.lost, s.holdAt u)
      else if s.unitFailed u = true then (.lost, s)
      else (.done, s) := by
  unfold State.access
  rw [State.takeMeet_nil h]
  cases whole <;> simp [State.memEcc]

/-- A served block's access is done and leaves no trace. -/
theorem State.access_served {s : State} (h : s.mem.meets = []) {hull : Nat} {tierB : Bool} {wb u row : Nat}
    (k : s.servesAt hull tierB wb u row) (write whole : Bool) :
    s.access hull (unitOf tierB u) row write whole = (.done, s) := by
  obtain ⟨-, k1, k2, k3⟩ := k
  rw [State.access_nil h, k1, k2, k3]
  rfl

/-- A fetch of a served block answers its content; it leaves a trace only of an unwritten one under a debug class (R195). -/
theorem State.fetchBlk_served {s : State} (h : s.mem.meets = []) {hull : Nat} {tierB : Bool} {wb u row : Nat}
    (k : s.servesAt hull tierB wb u row) :
    s.fetchBlk hull tierB wb =
      (if (s.blk tierB (blkPer tierB * u + row)).isUnwritten = true then s.sawUnwritten hull tierB wb else s,
        some (s.blk tierB (blkPer tierB * u + row))) := by
  unfold State.fetchBlk
  rw [k.1]
  simp only [State.access_served h k]

/-- With no debug class a read of an unwritten block leaves no trace. -/
theorem State.sawUnwritten_none {s : State} {hull : Nat} (h : (s.hull hull).dbg = 0) (tierB : Bool) (wb : Nat) :
    s.sawUnwritten hull tierB wb = s := by
  unfold State.sawUnwritten
  simp [h]

/-- A clean block passes its check and its read leaves no trace. -/
theorem State.checkBlk_clean {s : State} (h : s.mem.meets = []) {hull : Nat} {tierB : Bool} {base tensor i : Nat}
    (k : s.clean hull tierB base tensor i) :
    ∃ u row, s.servesAt hull tierB (base / 4096 + i) u row ∧
      s.checkBlk hull tierB (base / 4096 + i) (some (huskTag tensor i)) = (s, s.blk tierB (blkPer tierB * u + row), .pass) := by
  obtain ⟨u, row, k1, k2, k3⟩ := k
  refine ⟨u, row, k1, ?_⟩
  unfold State.checkBlk
  rw [State.fetchBlk_served h k1]
  rcases k3 with k3 | k3
  · simp [k3, k2]
  · simp [State.sawUnwritten_none k3, k2]

/-- A read of clean blocks gives their bytes and leaves no trace. -/
theorem readBlocks_clean {hull : Nat} {tierB : Bool} {base tensor : Nat} (l : List Nat) {s : State} (h : s.mem.meets = [])
    (k : ∀ i ∈ l, s.clean hull tierB base tensor i) (d : List Byte) :
    ∃ d', readBlocks hull tierB (base / 4096) tensor l { st := s, data := d, bad := none } = { st := s, data := d', bad := none } := by
  induction l generalizing d with
  | nil => exact ⟨d, rfl⟩
  | cons i r ih =>
    obtain ⟨u, row, -, e⟩ := State.checkBlk_clean h (k i (.head _))
    obtain ⟨d', e'⟩ := ih (fun j hj => k j (.tail _ hj)) (d ++ (s.blk tierB (blkPer tierB * u + row)).payload)
    exact ⟨d', by simp only [readBlocks, e, e']⟩

/-- A range of clean blocks reads whole, and leaves no trace. -/
theorem State.readRange_clean {s : State} (h : s.mem.meets = []) {hull : Nat} {tierB : Bool} {base tensor off len : Nat}
    (k : ∀ i ∈ blocksOf off len, s.clean hull tierB base tensor i) :
    (s.readRange hull tierB base tensor off len).st = s ∧ (s.readRange hull tierB base tensor off len).bad = none := by
  obtain ⟨d, e⟩ := readBlocks_clean (blocksOf off len) h k []
  unfold State.readRange
  rw [e]
  exact ⟨rfl, rfl⟩

/-- A read within one clean block gives its bytes. -/
theorem State.readRange_one {s : State} (h : s.mem.meets = []) {hull : Nat} {tierB : Bool} {base tensor off len i u row : Nat}
    (hb : blocksOf off len = [i]) (k : s.servesAt hull tierB (base / 4096 + i) u row)
    (hc : (s.blk tierB (blkPer tierB * u + row)).check (some (huskTag tensor i)) = .pass)
    (hd : (s.blk tierB (blkPer tierB * u + row)).isUnwritten = false ∨ (s.hull hull).dbg = 0) :
    s.readRange hull tierB base tensor off len =
      { st := s, data := ((s.blk tierB (blkPer tierB * u + row)).payload.drop (off % 4096)).take len, bad := none } := by
  have hk : s.checkBlk hull tierB (base / 4096 + i) (some (huskTag tensor i)) = (s, s.blk tierB (blkPer tierB * u + row), .pass) := by
    unfold State.checkBlk
    rw [State.fetchBlk_served h k]
    rcases hd with hd | hd
    · simp [hd, hc]
    · simp [State.sawUnwritten_none hd, hc]
  simp only [State.readRange, hb, readBlocks, hk, List.nil_append]

/-- A window read within one served block that passes its check gives its bytes and leaves no trace (R203). -/
theorem State.windowRead_one {s : State} (h : s.mem.meets = []) {src hull : Nat} {tierB : Bool} {off len i u row : Nat}
    (hb : blocksOf off len = [i]) (k : s.servesAt hull tierB i u row) (hc : (s.blk tierB (blkPer tierB * u + row)).check none = .pass)
    (hd : (s.blk tierB (blkPer tierB * u + row)).isUnwritten = false ∨ (s.hull hull).dbg = 0) :
    s.windowRead src hull tierB off len =
      (s, some (((s.blk tierB (blkPer tierB * u + row)).payload.drop (off % 4096)).take len)) := by
  have hk : s.checkBlk hull tierB i none = (s, s.blk tierB (blkPer tierB * u + row), .pass) := by
    unfold State.checkBlk
    rw [State.fetchBlk_served h k]
    rcases hd with hd | hd
    · simp [hd, hc]
    · simp [State.sawUnwritten_none hd, hc]
  simp only [State.windowRead, hb, List.foldl_cons, List.foldl_nil, hk, List.nil_append, Option.map_some]

end Sys2Proof.Machine
end

