-- ==== Sys2Proof/Laws/Packet.lean ====
section
/-!
SUPPORT. What serving a command packet does before the opcode's own rules (R417).
-/

namespace Sys2Proof.Machine

/-- Taking a command up does not change what the checks answer. -/
theorem State.begin_preCheck (s : State) (c d : Cmd) (op op' : Nat) : (s.begin_ d op').preCheck c op = s.preCheck c op := by
  have h : (s.begin_ d op').rst = s.rst ∧ (s.begin_ d op').board = s.board := by
    unfold State.begin_
    cases hd : d.org with
    | ring r =>
      simp only []
      split <;> (try split) <;> exact ⟨rfl, rfl⟩
    | udp e => exact ⟨rfl, rfl⟩
  unfold State.preCheck
  rw [h.1, h.2]

/-- Without power, in recovery or on a halted core nothing is served. -/
theorem State.packet_none (s : State) (c : Cmd) (op : Nat) (f : State → State)
    (h : s.rst.dev = .cold ∨ s.rst.dev = .recovering ∨ (s.core (s.coreOf c)).halted = true) : s.packet c op f = s := by
  unfold State.packet
  rcases h with h | h | h
  · simp [h]
  · simp [h]
  · split <;> simp [h]

/-- A core that serves answers the failed check, or runs the opcode's rules. -/
theorem State.packet_serves (s : State) (c : Cmd) (op : Nat) (f : State → State) (h1 : s.rst.dev ≠ .cold) (h2 : s.rst.dev ≠ .recovering)
    (h3 : (s.core (s.coreOf c)).halted = false) :
    s.packet c op f = s.meeting c.meets fun s => match s.preCheck c op with
      | some st => (s.begin_ c op).reply c op st 0
      | none => f (s.begin_ c op) := by
  unfold State.packet
  split
  · contradiction
  · contradiction
  · simp only [h3, State.begin_preCheck]; rfl

/-- A command that is served runs its opcode's rules on the state that has taken it up, with no error to meet. -/
theorem State.packet_run (s : State) (c : Cmd) (op : Nat) (f : State → State) (h : s.serving c op) :
    s.packet c op f = s.meeting [] fun s => f (s.begin_ c op) := by
  obtain ⟨hm, h1, h2, h3, h4⟩ := h
  rw [State.packet_serves s c op f h1 h2 h3, hm]
  have e (m : MemS) : ({ s with mem := m } : State).preCheck c op = s.preCheck c op := rfl
  unfold State.meeting
  simp only [e, h4]

/-- Where no access of it is held, such a command ends with what its rules do, and nothing noted. -/
theorem State.packet_done (s : State) (c : Cmd) (op : Nat) (f : State → State) (h : s.serving c op)
    (hs : (f (s.settled.begin_ c op)).mem.stuck = false) : s.packet c op f = (f (s.settled.begin_ c op)).settled := by
  rw [State.packet_run s c op f h, State.meeting_done s _ hs]

/-- A command that is a packet is served as its opcode. -/
theorem exec_packetIn (i : Instr) (op : Nat) (c : Cmd) (h : packetIn i = some (op, c)) (s : State) :
    ∃ f, exec i s = .next (s.packet c op f) := by
  cases i <;> simp only [packetIn, Option.some.injEq, Prod.mk.injEq, reduceCtorEq] at h <;> obtain ⟨rfl, rfl⟩ := h <;> exact ⟨_, rfl⟩

end Sys2Proof.Machine
end

