-- ==== Sys2Proof/Laws/PerInstr.lean ====
section
/-!
SUPPORT. Per instruction: a command that is a command packet carries an opcode of the table (R430), and is well-formed only with a
well-formed packet.
-/

namespace Sys2Proof.Laws.Packet

/-- The packet of a command: an opcode of the table, and well-formed where the command is. -/
def Statement (i : Instr) : Prop :=
  ∀ op c, Machine.packetIn i = some (op, c) → op ∈ Machine.opcodes ∧ (i.wf = true → c.wf = true)

/-- A command that is no packet. -/
theorem none_holds (i : Instr) (h : Machine.packetIn i = none) : Statement i := by
  intro op c hp
  rw [h] at hp
  cases hp

/-- A command that is a packet of an opcode. -/
theorem some_holds (i : Instr) (op : Nat) (c : Cmd) (h : Machine.packetIn i = some (op, c)) (ho : op ∈ Machine.opcodes)
    (hw : i.wf = c.wf) : Statement i := by
  intro op' c' hp
  rw [h] at hp
  cases hp
  exact ⟨ho, fun h => hw ▸ h⟩

theorem mLdw a1 a2 a3 a4 a5 a6 : Statement (.mLdw a1 a2 a3 a4 a5 a6) := none_holds _ rfl
theorem mMma a1 a2 a3 a4 a5 a6 a7 a8 a9 a10 : Statement (.mMma a1 a2 a3 a4 a5 a6 a7 a8 a9 a10) := none_holds _ rfl
theorem mDrain a1 a2 a3 a4 a5 a6 a7 a8 : Statement (.mDrain a1 a2 a3 a4 a5 a6 a7 a8) := none_holds _ rfl
theorem mDrv a1 a2 a3 a4 : Statement (.mDrv a1 a2 a3 a4) := none_holds _ rfl
theorem mAccld a1 a2 a3 a4 a5 : Statement (.mAccld a1 a2 a3 a4 a5) := none_holds _ rfl
theorem mZero a1 a2 : Statement (.mZero a1 a2) := none_holds _ rfl
theorem vFma a1 a2 : Statement (.vFma a1 a2) := none_holds _ rfl
theorem vAdd a1 a2 : Statement (.vAdd a1 a2) := none_holds _ rfl
theorem vSub a1 a2 : Statement (.vSub a1 a2) := none_holds _ rfl
theorem vMul a1 a2 : Statement (.vMul a1 a2) := none_holds _ rfl
theorem vMax a1 a2 : Statement (.vMax a1 a2) := none_holds _ rfl
theorem vMin a1 a2 : Statement (.vMin a1 a2) := none_holds _ rfl
theorem vCmp a1 a2 : Statement (.vCmp a1 a2) := none_holds _ rfl
theorem vSel a1 a2 : Statement (.vSel a1 a2) := none_holds _ rfl
theorem vAnd a1 a2 : Statement (.vAnd a1 a2) := none_holds _ rfl
theorem vOr a1 a2 : Statement (.vOr a1 a2) := none_holds _ rfl
theorem vXor a1 a2 : Statement (.vXor a1 a2) := none_holds _ rfl
theorem vShl a1 a2 : Statement (.vShl a1 a2) := none_holds _ rfl
theorem vShr a1 a2 : Statement (.vShr a1 a2) := none_holds _ rfl
theorem vSra a1 a2 : Statement (.vSra a1 a2) := none_holds _ rfl
theorem vRcp a1 a2 : Statement (.vRcp a1 a2) := none_holds _ rfl
theorem vRsq a1 a2 : Statement (.vRsq a1 a2) := none_holds _ rfl
theorem vSqrt a1 a2 : Statement (.vSqrt a1 a2) := none_holds _ rfl
theorem vExp2 a1 a2 : Statement (.vExp2 a1 a2) := none_holds _ rfl
theorem vLog2 a1 a2 : Statement (.vLog2 a1 a2) := none_holds _ rfl
theorem vGsum a1 a2 : Statement (.vGsum a1 a2) := none_holds _ rfl
theorem vLd a1 a2 a3 : Statement (.vLd a1 a2 a3) := none_holds _ rfl
theorem vSt a1 a2 : Statement (.vSt a1 a2) := none_holds _ rfl
theorem vCvt a1 a2 : Statement (.vCvt a1 a2) := none_holds _ rfl
theorem vPerm a1 a2 : Statement (.vPerm a1 a2) := none_holds _ rfl
theorem vBcast a1 a2 : Statement (.vBcast a1 a2) := none_holds _ rfl
theorem vDraw a1 a2 : Statement (.vDraw a1 a2) := none_holds _ rfl
theorem vLgzero a1 a2 : Statement (.vLgzero a1 a2) := none_holds _ rfl
theorem vLgacc a1 a2 : Statement (.vLgacc a1 a2) := none_holds _ rfl
theorem vLgrd a1 a2 : Statement (.vLgrd a1 a2) := none_holds _ rfl
theorem vLgfold a1 a2 : Statement (.vLgfold a1 a2) := none_holds _ rfl
theorem vLgexp a1 a2 : Statement (.vLgexp a1 a2) := none_holds _ rfl
theorem vLgimp a1 a2 : Statement (.vLgimp a1 a2) := none_holds _ rfl
theorem sAdd a1 a2 : Statement (.sAdd a1 a2) := none_holds _ rfl
theorem sSub a1 a2 : Statement (.sSub a1 a2) := none_holds _ rfl
theorem sMul a1 a2 : Statement (.sMul a1 a2) := none_holds _ rfl
theorem sAnd a1 a2 : Statement (.sAnd a1 a2) := none_holds _ rfl
theorem sOr a1 a2 : Statement (.sOr a1 a2) := none_holds _ rfl
theorem sXor a1 a2 : Statement (.sXor a1 a2) := none_holds _ rfl
theorem sShl a1 a2 : Statement (.sShl a1 a2) := none_holds _ rfl
theorem sShr a1 a2 : Statement (.sShr a1 a2) := none_holds _ rfl
theorem sSra a1 a2 : Statement (.sSra a1 a2) := none_holds _ rfl
theorem sMin a1 a2 : Statement (.sMin a1 a2) := none_holds _ rfl
theorem sMax a1 a2 : Statement (.sMax a1 a2) := none_holds _ rfl
theorem sMinu a1 a2 : Statement (.sMinu a1 a2) := none_holds _ rfl
theorem sMaxu a1 a2 : Statement (.sMaxu a1 a2) := none_holds _ rfl
theorem sLi a1 a2 : Statement (.sLi a1 a2) := none_holds _ rfl
theorem sLih a1 a2 : Statement (.sLih a1 a2) := none_holds _ rfl
theorem sAddi a1 a2 : Statement (.sAddi a1 a2) := none_holds _ rfl
theorem sShli a1 a2 : Statement (.sShli a1 a2) := none_holds _ rfl
theorem sShri a1 a2 : Statement (.sShri a1 a2) := none_holds _ rfl
theorem sCeq a1 a2 : Statement (.sCeq a1 a2) := none_holds _ rfl
theorem sCne a1 a2 : Statement (.sCne a1 a2) := none_holds _ rfl
theorem sClt a1 a2 : Statement (.sClt a1 a2) := none_holds _ rfl
theorem sCge a1 a2 : Statement (.sCge a1 a2) := none_holds _ rfl
theorem sCltu a1 a2 : Statement (.sCltu a1 a2) := none_holds _ rfl
theorem sCgeu a1 a2 : Statement (.sCgeu a1 a2) := none_holds _ rfl
theorem sPand a1 a2 : Statement (.sPand a1 a2) := none_holds _ rfl
theorem sPor a1 a2 : Statement (.sPor a1 a2) := none_holds _ rfl
theorem sPandn a1 a2 : Statement (.sPandn a1 a2) := none_holds _ rfl
theorem sLd a1 a2 a3 : Statement (.sLd a1 a2 a3) := none_holds _ rfl
theorem sSt a1 a2 : Statement (.sSt a1 a2) := none_holds _ rfl
theorem sBr a1 a2 a3 a4 : Statement (.sBr a1 a2 a3 a4) := none_holds _ rfl
theorem sRdstat a1 a2 : Statement (.sRdstat a1 a2) := none_holds _ rfl
theorem sSetfl a1 a2 : Statement (.sSetfl a1 a2) := none_holds _ rfl
theorem sDraw a1 a2 : Statement (.sDraw a1 a2) := none_holds _ rfl
theorem aEnq a1 a2 a3 a4 a5 a6 : Statement (.aEnq a1 a2 a3 a4 a5 a6) := none_holds _ rfl
theorem aWait a1 a2 a3 a4 : Statement (.aWait a1 a2 a3 a4) := none_holds _ rfl
theorem aWaitm a1 a2 a3 : Statement (.aWaitm a1 a2 a3) := none_holds _ rfl
theorem aQstat a1 a2 a3 a4 : Statement (.aQstat a1 a2 a3 a4) := none_holds _ rfl
theorem aPut a1 a2 a3 a4 a5 a6 a7 : Statement (.aPut a1 a2 a3 a4 a5 a6 a7) := none_holds _ rfl
theorem aPget a1 a2 a3 a4 a5 a6 : Statement (.aPget a1 a2 a3 a4 a5 a6) := none_holds _ rfl
theorem aAucmd a1 a2 a3 a4 a5 : Statement (.aAucmd a1 a2 a3 a4 a5) := none_holds _ rfl
theorem ySignal a1 a2 : Statement (.ySignal a1 a2) := none_holds _ rfl
theorem yAcq a1 a2 : Statement (.yAcq a1 a2) := none_holds _ rfl
theorem yArrive a1 a2 : Statement (.yArrive a1 a2) := none_holds _ rfl
theorem yBarr a1 a2 : Statement (.yBarr a1 a2) := none_holds _ rfl
theorem yLease a1 a2 : Statement (.yLease a1 a2) := none_holds _ rfl
theorem yRelease a1 a2 : Statement (.yRelease a1 a2) := none_holds _ rfl
theorem yBufget a1 a2 : Statement (.yBufget a1 a2) := none_holds _ rfl
theorem yBufput a1 a2 : Statement (.yBufput a1 a2) := none_holds _ rfl
theorem yEot a1 a2 : Statement (.yEot a1 a2) := none_holds _ rfl
theorem yBsw a1 a2 : Statement (.yBsw a1 a2) := none_holds _ rfl
theorem syncRequestArrive a1 : Statement (.syncRequestArrive a1) := none_holds _ rfl
theorem leaseBreak a1 : Statement (.leaseBreak a1) := none_holds _ rfl
theorem descriptorRetire a1 a2 a3 a4 a5 : Statement (.descriptorRetire a1 a2 a3 a4 a5) := none_holds _ rfl
theorem mapoutCopyComplete a1 a2 : Statement (.mapoutCopyComplete a1 a2) := none_holds _ rfl
theorem refresh a1 : Statement (.refresh a1) := none_holds _ rfl
theorem refreshHot a1 a2 a3 a4 : Statement (.refreshHot a1 a2 a3 a4) := none_holds _ rfl
theorem scrubBlock a1 a2 a3 a4 : Statement (.scrubBlock a1 a2 a3 a4) := none_holds _ rfl
theorem reduce a1 a2 a3 : Statement (.reduce a1 a2 a3) := none_holds _ rfl
theorem reduceHoldRelease a1 a2 : Statement (.reduceHoldRelease a1 a2) := none_holds _ rfl
theorem update a1 a2 a3 : Statement (.update a1 a2 a3) := none_holds _ rfl
theorem scatterAdd a1 a2 a3 : Statement (.scatterAdd a1 a2 a3) := none_holds _ rfl
theorem nmuDigest a1 a2 : Statement (.nmuDigest a1 a2) := none_holds _ rfl
theorem verify a1 a2 : Statement (.verify a1 a2) := none_holds _ rfl
theorem snapshot a1 a2 : Statement (.snapshot a1 a2) := none_holds _ rfl
theorem nmuDelta a1 a2 : Statement (.nmuDelta a1 a2) := none_holds _ rfl
theorem nmuZero a1 a2 : Statement (.nmuZero a1 a2) := none_holds _ rfl
theorem nmuScrub a1 a2 : Statement (.nmuScrub a1 a2) := none_holds _ rfl
theorem ausLoad a1 a2 : Statement (.ausLoad a1 a2) := none_holds _ rfl
theorem ausDelta a1 a2 : Statement (.ausDelta a1 a2) := none_holds _ rfl
theorem factor a1 a2 : Statement (.factor a1 a2) := none_holds _ rfl
theorem solve a1 a2 : Statement (.solve a1 a2) := none_holds _ rfl
theorem refine a1 a2 : Statement (.refine a1 a2) := none_holds _ rfl
theorem invroot a1 a2 : Statement (.invroot a1 a2) := none_holds _ rfl
theorem qpIp a1 a2 : Statement (.qpIp a1 a2) := none_holds _ rfl
theorem qpAdmm a1 a2 : Statement (.qpAdmm a1 a2) := none_holds _ rfl
theorem ausFree a1 : Statement (.ausFree a1) := none_holds _ rfl
theorem engineComplete a1 : Statement (.engineComplete a1) := none_holds _ rfl
theorem tickBegin a1 a2 : Statement (.tickBegin a1 a2) := none_holds _ rfl
theorem extractionComplete a1 a2 : Statement (.extractionComplete a1 a2) := none_holds _ rfl
theorem segmentAck a1 a2 : Statement (.segmentAck a1 a2) := none_holds _ rfl
theorem rollbackComplete a1 a2 : Statement (.rollbackComplete a1 a2) := none_holds _ rfl
theorem timeGtcSet a1 : Statement (.timeGtcSet a1) := none_holds _ rfl
theorem timeMessage a1 : Statement (.timeMessage a1) := none_holds _ rfl
theorem launchFire a1 : Statement (.launchFire a1) := none_holds _ rfl
theorem timeTickCfg a1 : Statement (.timeTickCfg a1) := none_holds _ rfl
theorem throttleChange a1 a2 : Statement (.throttleChange a1 a2) := none_holds _ rfl
theorem flitReceive a1 a2 : Statement (.flitReceive a1 a2) := none_holds _ rfl
theorem messageReceive a1 a2 : Statement (.messageReceive a1 a2) := none_holds _ rfl
theorem bundleRetrain a1 : Statement (.bundleRetrain a1) := none_holds _ rfl
theorem laneLoss a1 a2 : Statement (.laneLoss a1 a2) := none_holds _ rfl
theorem trainingComplete a1 a2 a3 a4 a5 : Statement (.trainingComplete a1 a2 a3 a4 a5) := none_holds _ rfl
theorem downTimeout a1 : Statement (.downTimeout a1) := none_holds _ rfl
theorem jvDisable a1 : Statement (.jvDisable a1) := none_holds _ rfl
theorem collOpStart a1 a2 a3 : Statement (.collOpStart a1 a2 a3) := none_holds _ rfl
theorem chunkReceive a1 a2 a3 : Statement (.chunkReceive a1 a2 a3) := none_holds _ rfl
theorem lateDecision a1 a2 : Statement (.lateDecision a1 a2) := none_holds _ rfl
theorem decisionMessage a1 a2 : Statement (.decisionMessage a1 a2) := none_holds _ rfl
theorem exactRecord a1 a2 : Statement (.exactRecord a1 a2) := none_holds _ rfl
theorem heartbeat a1 a2 : Statement (.heartbeat a1 a2) := none_holds _ rfl
theorem suspect a1 a2 a3 : Statement (.suspect a1 a2 a3) := none_holds _ rfl
theorem reformProposal a1 a2 a3 a4 a5 : Statement (.reformProposal a1 a2 a3 a4 a5) := none_holds _ rfl
theorem reformDecision a1 a2 a3 a4 a5 : Statement (.reformDecision a1 a2 a3 a4 a5) := none_holds _ rfl
theorem twinFeed a1 a2 a3 : Statement (.twinFeed a1 a2 a3) := none_holds _ rfl
theorem twinDigest a1 a2 a3 a4 a5 : Statement (.twinDigest a1 a2 a3 a4 a5) := none_holds _ rfl
theorem layerCopy a1 a2 a3 a4 : Statement (.layerCopy a1 a2 a3 a4) := none_holds _ rfl
theorem placementRequest a1 a2 a3 : Statement (.placementRequest a1 a2 a3) := none_holds _ rfl
theorem placementSetting a1 a2 a3 : Statement (.placementSetting a1 a2 a3) := none_holds _ rfl
theorem resendRequest a1 a2 a3 a4 : Statement (.resendRequest a1 a2 a3 a4) := none_holds _ rfl
theorem reclaimForceTimeout a1 : Statement (.reclaimForceTimeout a1) := none_holds _ rfl
theorem foldPoint a1 : Statement (.foldPoint a1) := none_holds _ rfl
theorem evacuationComplete a1 : Statement (.evacuationComplete a1) := none_holds _ rfl
theorem evacuationTimeout a1 : Statement (.evacuationTimeout a1) := none_holds _ rfl
theorem quiesceComplete a1 : Statement (.quiesceComplete a1) := none_holds _ rfl
theorem scrubComplete a1 a2 a3 : Statement (.scrubComplete a1 a2 a3) := none_holds _ rfl
theorem drainEnd a1 : Statement (.drainEnd a1) := none_holds _ rfl
theorem probeRunEnd a1 a2 a3 : Statement (.probeRunEnd a1 a2 a3) := none_holds _ rfl
theorem queueTimeout a1 : Statement (.queueTimeout a1) := none_holds _ rfl
theorem syncTimeout a1 : Statement (.syncTimeout a1) := none_holds _ rfl
theorem runaway a1 : Statement (.runaway a1) := none_holds _ rfl
theorem overrunRun a1 : Statement (.overrunRun a1) := none_holds _ rfl
theorem recoveryComplete a1 : Statement (.recoveryComplete a1) := none_holds _ rfl
theorem warmReset a1 : Statement (.warmReset a1) := none_holds _ rfl
theorem rstCfg a1 : Statement (.rstCfg a1) := none_holds _ rfl
theorem collCfg a1 : Statement (.collCfg a1) := none_holds _ rfl
theorem hullCfg a1 : Statement (.hullCfg a1) := none_holds _ rfl
theorem pwrHshare a1 a2 : Statement (.pwrHshare a1 a2) := none_holds _ rfl
theorem secCfg a1 : Statement (.secCfg a1) := none_holds _ rfl
theorem attGo a1 : Statement (.attGo a1) := none_holds _ rfl
theorem doorbell a1 a2 : Statement (.doorbell a1 a2) := none_holds _ rfl
theorem commandFetch a1 a2 a3 a4 a5 : Statement (.commandFetch a1 a2 a3 a4 a5) := none_holds _ rfl
theorem cmdRhead a1 a2 : Statement (.cmdRhead a1 a2) := none_holds _ rfl
theorem ringEnable a1 a2 : Statement (.ringEnable a1 a2) := none_holds _ rfl
theorem ringDisable a1 a2 : Statement (.ringDisable a1 a2) := none_holds _ rfl
theorem endpointEnable a1 a2 : Statement (.endpointEnable a1 a2) := none_holds _ rfl
theorem datagramArrival a1 a2 a3 a4 a5 : Statement (.datagramArrival a1 a2 a3 a4 a5) := none_holds _ rfl
theorem icClaim a1 : Statement (.icClaim a1) := none_holds _ rfl
theorem icComplete a1 a2 : Statement (.icComplete a1 a2) := none_holds _ rfl
theorem clrPending a1 a2 : Statement (.clrPending a1 a2) := none_holds _ rfl
theorem setPending a1 a2 : Statement (.setPending a1 a2) := none_holds _ rfl
theorem holdoffExpire a1 a2 : Statement (.holdoffExpire a1 a2) := none_holds _ rfl
theorem coreIdle a1 : Statement (.coreIdle a1) := none_holds _ rfl
theorem devInfo a1 : Statement (.devInfo a1) := some_holds _ _ _ rfl (by decide) rfl
theorem devHealth a1 : Statement (.devHealth a1) := some_holds _ _ _ rfl (by decide) rfl
theorem timeSetLaunch a1 : Statement (.timeSetLaunch a1) := some_holds _ _ _ rfl (by decide) rfl
theorem timeRead a1 : Statement (.timeRead a1) := some_holds _ _ _ rfl (by decide) rfl
theorem hullCreate a1 : Statement (.hullCreate a1) := some_holds _ _ _ rfl (by decide) rfl
theorem hullGrant a1 : Statement (.hullGrant a1) := some_holds _ _ _ rfl (by decide) rfl
theorem hullReclaim a1 : Statement (.hullReclaim a1) := some_holds _ _ _ rfl (by decide) rfl
theorem hullDestroy a1 : Statement (.hullDestroy a1) := some_holds _ _ _ rfl (by decide) rfl
theorem hullStatus a1 : Statement (.hullStatus a1) := some_holds _ _ _ rfl (by decide) rfl
theorem progLoad a1 a2 : Statement (.progLoad a1 a2) := some_holds _ _ _ rfl (by decide) rfl
theorem progStart a1 : Statement (.progStart a1) := some_holds _ _ _ rfl (by decide) rfl
theorem progStop a1 : Statement (.progStop a1) := some_holds _ _ _ rfl (by decide) rfl
theorem progQuery a1 : Statement (.progQuery a1) := some_holds _ _ _ rfl (by decide) rfl
theorem svcCall a1 : Statement (.svcCall a1) := some_holds _ _ _ rfl (by decide) rfl
theorem serviceAnswer a1 a2 a3 : Statement (.serviceAnswer a1 a2 a3) := none_holds _ rfl
theorem serviceDeadline a1 a2 : Statement (.serviceDeadline a1 a2) := none_holds _ rfl
theorem progEval a1 : Statement (.progEval a1) := some_holds _ _ _ rfl (by decide) rfl
theorem memCopy a1 : Statement (.memCopy a1) := some_holds _ _ _ rfl (by decide) rfl
theorem memFill a1 : Statement (.memFill a1) := some_holds _ _ _ rfl (by decide) rfl
theorem memMapStatus a1 : Statement (.memMapStatus a1) := some_holds _ _ _ rfl (by decide) rfl
theorem grpWrite a1 : Statement (.grpWrite a1) := some_holds _ _ _ rfl (by decide) rfl
theorem grpActivate a1 : Statement (.grpActivate a1) := some_holds _ _ _ rfl (by decide) rfl
theorem grpRead a1 : Statement (.grpRead a1) := some_holds _ _ _ rfl (by decide) rfl
theorem linkPlan a1 : Statement (.linkPlan a1) := some_holds _ _ _ rfl (by decide) rfl
theorem linkStatus a1 : Statement (.linkStatus a1) := some_holds _ _ _ rfl (by decide) rfl
theorem auStructLoad a1 : Statement (.auStructLoad a1) := some_holds _ _ _ rfl (by decide) rfl
theorem auDelta a1 : Statement (.auDelta a1) := some_holds _ _ _ rfl (by decide) rfl
theorem auSolve a1 : Statement (.auSolve a1) := some_holds _ _ _ rfl (by decide) rfl
theorem auResult a1 : Statement (.auResult a1) := some_holds _ _ _ rfl (by decide) rfl
theorem ckptBegin a1 : Statement (.ckptBegin a1) := some_holds _ _ _ rfl (by decide) rfl
theorem ckptStatus a1 : Statement (.ckptStatus a1) := some_holds _ _ _ rfl (by decide) rfl
theorem restore a1 a2 : Statement (.restore a1 a2) := some_holds _ _ _ rfl (by decide) rfl
theorem shardExport a1 : Statement (.shardExport a1) := some_holds _ _ _ rfl (by decide) rfl
theorem probePod a1 : Statement (.probePod a1) := some_holds _ _ _ rfl (by decide) rfl
theorem probeNmu a1 : Statement (.probeNmu a1) := some_holds _ _ _ rfl (by decide) rfl
theorem bypassPod a1 : Statement (.bypassPod a1) := some_holds _ _ _ rfl (by decide) rfl
theorem releasePod a1 : Statement (.releasePod a1) := some_holds _ _ _ rfl (by decide) rfl
theorem mapoutUnit a1 : Statement (.mapoutUnit a1) := some_holds _ _ _ rfl (by decide) rfl
theorem bypassBundle a1 : Statement (.bypassBundle a1) := some_holds _ _ _ rfl (by decide) rfl
theorem releaseBundle a1 : Statement (.releaseBundle a1) := some_holds _ _ _ rfl (by decide) rfl
theorem testContentLoad a1 : Statement (.testContentLoad a1) := some_holds _ _ _ rfl (by decide) rfl
theorem errLogRead a1 : Statement (.errLogRead a1) := some_holds _ _ _ rfl (by decide) rfl
theorem dbgAttach a1 : Statement (.dbgAttach a1) := some_holds _ _ _ rfl (by decide) rfl
theorem dbgPeek a1 : Statement (.dbgPeek a1) := some_holds _ _ _ rfl (by decide) rfl
theorem hullHalt a1 : Statement (.hullHalt a1) := some_holds _ _ _ rfl (by decide) rfl
theorem hullResume a1 : Statement (.hullResume a1) := some_holds _ _ _ rfl (by decide) rfl
theorem coreHalt a1 : Statement (.coreHalt a1) := some_holds _ _ _ rfl (by decide) rfl
theorem coreResume a1 : Statement (.coreResume a1) := some_holds _ _ _ rfl (by decide) rfl
theorem deviceStandby a1 : Statement (.deviceStandby a1) := some_holds _ _ _ rfl (by decide) rfl
theorem deviceActive a1 : Statement (.deviceActive a1) := some_holds _ _ _ rfl (by decide) rfl
theorem podSleep a1 : Statement (.podSleep a1) := some_holds _ _ _ rfl (by decide) rfl
theorem podWake a1 : Statement (.podWake a1) := some_holds _ _ _ rfl (by decide) rfl
theorem pwrBudgetRead a1 : Statement (.pwrBudgetRead a1) := some_holds _ _ _ rfl (by decide) rfl
theorem sleepEntryComplete a1 : Statement (.sleepEntryComplete a1) := none_holds _ rfl
theorem wakeTimer a1 : Statement (.wakeTimer a1) := none_holds _ rfl
theorem wakeComplete a1 : Statement (.wakeComplete a1) := none_holds _ rfl
theorem pwrEnHigh a1 a2 : Statement (.pwrEnHigh a1 a2) := none_holds _ rfl
theorem startUpEnd a1 : Statement (.startUpEnd a1) := none_holds _ rfl
theorem perst a1 : Statement (.perst a1) := none_holds _ rfl
theorem leak a1 : Statement (.leak a1) := none_holds _ rfl
theorem coolant a1 a2 a3 a4 : Statement (.coolant a1 a2 a3 a4) := none_holds _ rfl
theorem thermalTrip a1 a2 a3 : Statement (.thermalTrip a1 a2 a3) := none_holds _ rfl
theorem bar0InvalidAccess a1 a2 a3 : Statement (.bar0InvalidAccess a1 a2 a3) := none_holds _ rfl
theorem rcRead a1 a2 : Statement (.rcRead a1 a2) := none_holds _ rfl
theorem registerWrite a1 a2 a3 : Statement (.registerWrite a1 a2 a3) := none_holds _ rfl
theorem storeTimeout a1 : Statement (.storeTimeout a1) := none_holds _ rfl
theorem newTwinLost a1 : Statement (.newTwinLost a1) := none_holds _ rfl
theorem ethPortStateChange a1 a2 : Statement (.ethPortStateChange a1 a2) := none_holds _ rfl
theorem coreTimer a1 : Statement (.coreTimer a1) := none_holds _ rfl
theorem testAccessInstruction a1 : Statement (.testAccessInstruction a1) := none_holds _ rfl
theorem recordPushAck a1 : Statement (.recordPushAck a1) := none_holds _ rfl
theorem collectorRetry a1 a2 : Statement (.collectorRetry a1 a2) := none_holds _ rfl
theorem queuePairError a1 a2 : Statement (.queuePairError a1 a2) := none_holds _ rfl
theorem peerSignalDetect a1 : Statement (.peerSignalDetect a1) := none_holds _ rfl
theorem vendorExpiry a1 : Statement (.vendorExpiry a1) := none_holds _ rfl
theorem timeMessageTimeout : Statement (.timeMessageTimeout) := none_holds _ rfl
theorem holdoverTimeout : Statement (.holdoverTimeout) := none_holds _ rfl
theorem privRetry : Statement (.privRetry) := none_holds _ rfl
theorem probeTimeout : Statement (.probeTimeout) := none_holds _ rfl
theorem fwWatchdog : Statement (.fwWatchdog) := none_holds _ rfl
theorem watchdogWarning : Statement (.watchdogWarning) := none_holds _ rfl
theorem captureComplete : Statement (.captureComplete) := none_holds _ rfl
theorem recoveryTimeout : Statement (.recoveryTimeout) := none_holds _ rfl
theorem readmit : Statement (.readmit) := none_holds _ rfl
theorem capRelease : Statement (.capRelease) := none_holds _ rfl
theorem attDone : Statement (.attDone) := none_holds _ rfl
theorem startPhaseTimeout : Statement (.startPhaseTimeout) := none_holds _ rfl
theorem powerRemoval : Statement (.powerRemoval) := none_holds _ rfl
theorem inputUndervoltage : Statement (.inputUndervoltage) := none_holds _ rfl
theorem timeMessageSend : Statement (.timeMessageSend) := none_holds _ rfl
theorem railOutOfRegulation : Statement (.railOutOfRegulation) := none_holds _ rfl

end Sys2Proof.Laws.Packet
end

