-- ==== Sys2Proof/Laws/Tile.lean ====
section
/-!
SUPPORT. What the shared operations of a tile's issue do once their conditions hold: a slot taken or turned away (R92, R120), a
result made due, a guarded slot (R119), a V0 or V1 instruction run over its lanes (R108, R109, R112).
-/

namespace Sys2Proof.Machine

/-- An open slot with its operands in rule and its destinations not yet due runs its effect on the tile that took it. -/
theorem State.slot_taken (s : State) (t k : Nat) (ds) (f : State → State) (h : s.canIssue t k ds) :
    s.slot t k true ds f = f (s.setTile t ((s.tile t).took k ds)) := by
  obtain ⟨h1, h2⟩ := h
  unfold State.slot
  rw [if_pos h1]
  simp only [h2]; rfl

/-- A guarded slot whose predicate holds runs its effect. -/
theorem State.guarded_taken (s : State) (t k : Nat) (pg) (ds) (f : State → State) (h : s.canIssue t k ds) (hp : (s.tile t).preg pg = true) :
    s.guarded t k pg true ds f = f (s.setTile t ((s.tile t).took k ds)) := by
  unfold State.guarded
  rw [State.slot_taken s t k ds _ h]
  have : (((s.setTile t ((s.tile t).took k ds)).tile t).preg pg) = true := by simpa [Tile.took, Tile.preg] using hp
  simp only [this, if_true]

/-- A guarded slot whose predicate does not hold is taken without an effect. -/
theorem State.guarded_not (s : State) (t k : Nat) (pg) (ds) (f : State → State) (h : s.canIssue t k ds) (hp : (s.tile t).preg pg = false) :
    s.guarded t k pg true ds f = (s.setTile t ((s.tile t).took k ds)) := by
  unfold State.guarded
  rw [State.slot_taken s t k ds _ h]
  have : (((s.setTile t ((s.tile t).took k ds)).tile t).preg pg) = false := by simpa [Tile.took, Tile.preg] using hp
  simp only [this]; rfl

/-- A result without flags is one pending write. -/
theorem State.result0 (s : State) (t lat : Nat) (x : Tile) (d : Dest) : (s.setTile t x).result t lat d 0 = s.setTile t (x.due lat d) := by
  simp [State.result, State.updTile, Tile.pendFlags, Tile.pendAt, Tile.due]

@[simp] theorem State.result00 (s : State) (t lat : Nat) (x : Tile) (d : Dest) : (s.setTile t x).result t lat d 0#7 = s.setTile t (x.due lat d) := State.result0 s t lat x d

@[simp] theorem State.storeCe_tile (s : State) (p k : Nat) : (s.storeCe p).tile k = s.tile k := rfl

/-- An open slot with operands out of rule is a contract violation (R120). -/
theorem State.slot_not (s : State) (t k : Nat) (ds) (f : State → State) (h : s.slotOpen t k = true) :
    s.slot t k false ds f = (s.setTile t { s.tile t with slots := 127#7 }).contract t tfBadBundle := by
  unfold State.slot
  rw [if_pos h]; simp

@[simp] theorem State.setTile_setTile (s : State) (t) (x y) : (s.setTile t x).setTile t y = s.setTile t y := by
  simp [State.setTile]

@[simp] theorem Tile.took_sreg (x : Tile) (k ds i) : (x.took k ds).sreg i = x.sreg i := rfl

@[simp] theorem Tile.took_preg (x : Tile) (k ds i) : (x.took k ds).preg i = x.preg i := rfl

/-- A second write of one destination in a bundle is a contract violation (R120). -/
theorem State.slot_dup (s : State) (t k : Nat) (ok) (ds) (f : State → State) (h : s.slotOpen t k = true) (hd : ds.any (s.tile t).dests.contains = true) :
    s.slot t k ok ds f = (s.setTile t { s.tile t with slots := 127#7 }).contract t tfBadBundle := by
  unfold State.slot
  rw [if_pos h]; simp [hd]

/-- A result is one pending write, with its flags where it has any. -/
theorem State.result_set (s : State) (t lat : Nat) (x : Tile) (d : Dest) (fl) : (s.setTile t x).result t lat d fl = s.setTile t (x.dueF lat d fl) := by
  unfold State.result Tile.dueF
  by_cases h : fl = 0 <;> simp [h, State.updTile, Tile.pendFlags, Tile.pendAt, Tile.due]

/-- A V0 instruction that may issue makes its lanes and flags due and charges its cycle. -/
theorem State.v0_done (s : State) (t : Nat) (f : V0) (lat : Nat) (g : Tile → Tbl Word32 × Flg) (r) (h : s.canV0 t f)
    (hr : g ((s.tile t).took slV0 [(dkV, f.vd.toNat)]) = r) : s.v0 t f true lat g = s.v0Done t f lat r := by
  obtain ⟨h, hg⟩ := h
  subst hr
  unfold State.v0 State.v0Done
  rw [State.slot_taken s t slV0 _ _ h]
  have ep : (s.setTile t ((s.tile t).took slV0 [(dkV, f.vd.toNat)])).pod (podOf t) = s.pod (podOf t) := rfl
  by_cases h0 : f.gm = 0
  · have hb := hg h0
    rw [if_pos h0, if_pos h0]
    unfold State.charge
    have hn : ¬ ((s.pod (podOf t)).ledgerSum + 12 > ledgerWindow * (s.pod (podOf t)).share) := by
      simp [ledgerWindow]; exact hb
    simp only [ep, hn, if_false]
    have hc : ∀ (x y : Tile) (p : Pod), (((s.setTile t x).setPod (podOf t) p).setTile t y) = (s.setTile t y).setPod (podOf t) p := by
      intro x y p
      have := State.setTile_setTile (s.setPod (podOf t) p) t x y
      exact this
    have hr : ∀ (x : Tile) (p : Pod) (d : Dest) (fl : Flg), (((s.setTile t x).setPod (podOf t) p).result t lat d fl) = (s.setTile t (x.dueF lat d fl)).setPod (podOf t) p := by
      intro x p d fl
      have := State.result_set (s.setPod (podOf t) p) t lat x d fl
      exact this
    rw [hr]
    have et : ∀ (x : Tile) (p : Pod), ((s.setTile t x).setPod (podOf t) p).tile t = x := by
      intro x p; exact State.setTile_same (s.setPod (podOf t) p) t x
    simp only [et]; rfl
  · rw [if_neg h0, if_neg h0]
    simp only [State.result_set, State.setTile_same]

/-- A V0 instruction computed lane by lane, its lane function exchanged for an equal one. -/
theorem State.v0Map_done (s : State) (t : Nat) (f : V0) (lat : Nat) (g h) (hc : s.canV0 t f) (e : ∀ a b c, g a b c = h a b c) :
    s.v0Map t f true lat g = s.v0Done t f lat ((s.tile t).overLanes f h) := by
  have : g = h := by funext a b c; exact e a b c
  subst this
  exact State.v0_done s t f lat _ _ hc rfl

/-- Lane by lane equal values and flags give an equal table. -/
theorem laneMap_congr (ls : List Nat) (g h : Nat → Nat × Flg) (e : ∀ l, BitVec.ofNat 32 (g l).1 = BitVec.ofNat 32 (h l).1 ∧ (g l).2 = (h l).2) :
    laneMap ls g = laneMap ls h := by
  unfold laneMap
  congr 1
  funext acc l
  simp [(e l).1, (e l).2]

/-- `v0Map_done` where the lane functions agree on 32-bit operands. -/
theorem State.v0Map_done' (s : State) (t : Nat) (f : V0) (lat : Nat) (g h) (hc : s.canV0 t f) (e : ∀ a b c, a < 2^32 → b < 2^32 → c < 2^32 → BitVec.ofNat 32 (g a b c).1 = BitVec.ofNat 32 (h a b c).1 ∧ (g a b c).2 = (h a b c).2) :
    s.v0Map t f true lat g = s.v0Done t f lat ((s.tile t).overLanes f h) := by
  refine State.v0_done s t f lat _ _ hc ?_
  unfold Tile.overLanes
  exact laneMap_congr _ _ _ (fun l => e _ _ _ (BitVec.isLt _) (BitVec.isLt _) (BitVec.isLt _))

/-- A lane function without flags is a plain table. -/
theorem laneMap_pure (ls : List Nat) (h : Nat → Nat) (h' : Nat → Word32) (e : ∀ l, BitVec.ofNat 32 (h l) = h' l) :
    laneMap ls (fun l => (h l, 0)) = (ls.map fun l => (l, h' l), 0) := by
  unfold laneMap
  have : ∀ (acc : Tbl Word32), ls.foldl (fun (acc : Tbl Word32 × Flg) l => (acc.1 ++ [(l, BitVec.ofNat 32 (h l))], acc.2 ||| (0 : Flg))) (acc, 0) = (acc ++ ls.map fun l => (l, h' l), 0) := by
    induction ls with
    | nil => intro acc; simp
    | cons a r ih => intro acc; simp only [List.foldl_cons]; rw [show ((0 : Flg) ||| 0) = 0 from rfl, ih]; simp [e]
  simpa using this []

/-- A V1 instruction that may issue makes its lanes and flags due. -/
theorem State.v1_done (s : State) (t : Nat) (f : V1G) (lat : Nat) (g : Tile → Tbl Word32 × Flg) (r) (h : s.canIssue t slV1 [(dkV, f.vd.toNat)])
    (hr : g ((s.tile t).took slV1 [(dkV, f.vd.toNat)]) = r) :
    s.v1 t f true lat g = s.v1Done t (dkV, f.vd.toNat) lat (.vreg f.vd.toNat r.1) r.2 := by
  unfold State.v1 State.v1Done
  rw [State.slot_taken s t slV1 _ _ h]
  subst hr
  simp only [State.result_set, State.setTile_same]

/-- A V1 instruction with a lane-group destination makes it due. -/
theorem State.v1Lg_done (s : State) (t : Nat) (f : V1G) (lat : Nat) (g : Tile → Dest × Flg) (r) (h : s.canIssue t slV1 [(dkLg, f.lg.toNat)])
    (hr : g ((s.tile t).took slV1 [(dkLg, f.lg.toNat)]) = r) :
    s.v1Lg t f true lat g = s.v1Done t (dkLg, f.lg.toNat) lat r.1 r.2 := by
  unfold State.v1Lg State.v1Done
  rw [State.slot_taken s t slV1 _ _ h]
  subst hr
  simp only [State.result_set, State.setTile_same]

/-- `slot_taken` with the rule as a hypothesis. -/
theorem State.slot_taken' (s : State) (t k : Nat) (ok) (ds) (f : State → State) (h : s.canIssue t k ds) (hok : ok = true) :
    s.slot t k ok ds f = f (s.setTile t ((s.tile t).took k ds)) := by subst hok; exact State.slot_taken s t k ds f h

/-- `guarded_taken` with the rule as a hypothesis. -/
theorem State.guarded_taken' (s : State) (t k : Nat) (pg ok) (ds) (f : State → State) (h : s.canIssue t k ds) (hp : (s.tile t).preg pg = true) (hok : ok = true) :
    s.guarded t k pg ok ds f = f (s.setTile t ((s.tile t).took k ds)) := by subst hok; exact State.guarded_taken s t k pg ds f h hp

/-- `slot_not` with the rule as a hypothesis. -/
theorem State.slot_not' (s : State) (t k : Nat) (ok) (ds) (f : State → State) (h : s.slotOpen t k = true) (hok : ok = false) :
    s.slot t k ok ds f = (s.setTile t { s.tile t with slots := 127#7 }).contract t tfBadBundle := by subst hok; exact State.slot_not s t k ds f h

/-- `v1Lg_done` with the rule as a hypothesis. -/
theorem State.v1Lg_done' (s : State) (t : Nat) (f : V1G) (ok) (lat : Nat) (g : Tile → Dest × Flg) (r) (h : s.canIssue t slV1 [(dkLg, f.lg.toNat)]) (hok : ok = true)
    (hr : g ((s.tile t).took slV1 [(dkLg, f.lg.toNat)]) = r) :
    s.v1Lg t f ok lat g = s.v1Done t (dkLg, f.lg.toNat) lat r.1 r.2 := by subst hok; exact State.v1Lg_done s t f lat g r h hr

@[simp] theorem Tile.took_queue (x : Tile) (k ds q) : (x.took k ds).queue q = x.queue q := rfl

@[simp] theorem Tile.took_tsRead (x : Tile) (k ds a n) : (x.took k ds).tsRead a n = x.tsRead a n := rfl

@[simp] theorem Tile.took_inFlight (x : Tile) (k ds w a n) : (x.took k ds).inFlight w a n = x.inFlight w a n := rfl

end Sys2Proof.Machine
end

