-- ==== Sys2Proof/Tests/Slice0.lean ====
section
/-!
SUPPORT. Tests: what well-formedness refuses, what single commands do on small states by the spec's own rules, and, for every
statement with hypotheses, a state and operands that meet them all, clause by clause, at boundary values where a clause has a range.
-/

namespace Sys2Proof.Tests

open Sys2Proof.Machine

-- One theorem at a time: a thread for each would reserve its stack, and together they would not fit.
set_option Elab.async false

/-! ## Small states -/

/-- A tensor in tier B at offset 0, of two blocks, and one in tier A. -/
def tenB : TensorDecl :=
  { id := 1, bytes := 8192, places := [(.tierB, 0)], home := 0, persistent := true, weight := false, input := false, twin := false,
    carry := false, provenance := false }

def tenA : TensorDecl := { tenB with id := 2, places := [(.tierA, 0)], persistent := false }

/-- A plan for one position on one pod, whose schedule is one bundle without instructions. -/
def fold0 : FoldPlan :=
  { foldLog2 := 0, podShares := [800], windowPeaks := [0], tileStoreBytes := 0, podStoreBytes := 0, bundles := 1, ticks := 2,
    spineGroups := 0, reseeds := [], segments := [[BitVec.ofNat 256 (2 ^ 252)]] }

/-- An image for one tile and one pod, of one fold. -/
def img1 : Image :=
  { digest := 0, signatureOk := true, staticOk := true, constDescs := [], constStore := [], constSync := [], updates := [],
    geometry := { tiles := 1, fanins := [], worldRank := 0, groups := [], domains := [7], bytes := [] },
    tickPeriodUs := 1000, stepTicks := 2,
    folds := [fold0],
    tensors := [tenA, tenB], annex := [], engines := [], sync := [], coll := [], services := [], evals := [], evalBudget := 0,
    recordBase := 0, recordLen := 4, ckptAreas := none, undoArea := none, eager := false, shards := [], pairs := [],
    computesNorm := false, usesDraws := true }

/-- The image's program, running. -/
def prog1 : Prog :=
  { Prog.loaded img1 0 0 [] [] 1 (267911168, 17146314752) 800 with
    state := 3, placed := [(1, .tierB, 0), (2, .tierA, 0)] }

/-- A hull that runs it, with one unit of each tier. -/
def hull1 : Hull :=
  { Hull.init with
    state := .running, owner := 5, prog := some prog1, syncBase := 0, syncCount := 64, share := 800,
    extA := [{ units := [0], key := 0, grant := 0 }], extB := [{ units := [1], key := 0, grant := 0 }],
    limitA := 1071644672, limitB := 17146314752 }

/-- Pod 0 of hull 1 is ACTIVE. -/
def pod0 : Pod := { Pod.init with state := .active, hull := 1, share := 800 }

/-- A device in service. -/
def ready : State := { State.reset with rst := { State.reset.rst with dev := .ready, startPhase := 0 } }

/-- Tile 0 of hull 1 as given. -/
def withTile (x : Tile) : State := { ready with tiles := [(0, { x with live := true })], pods := [(0, pod0)], hulls := [(1, hull1)] }

/-- A tile that issues its bundle: predicates 1 set, register 1 holds 3, register 2 holds 5. -/
def tile1 : Tile := { Tile.init with p := 2, s := [(1, 3), (2, 5)], v := [(1024, 7)] }

/-- The block with that tile, and nothing of its bundle issued yet. -/
def run1 : State := withTile tile1

/-- Hull 1 as given. -/
def withHull (x : Hull) : State := { ready with pods := [(0, pod0)], hulls := [(1, x)] }

/-- A command packet from ring 0. -/
def pk (fields : List (Nat × Nat × Nat)) : Cmd :=
  { org := .ring 0, format := 1, flags := 0, tag := 1, tailBytes := 0, resv := 0, params := mkFields fields, tail := [], meets := [] }

/-- Ring 0 is running on core 0 for an operator with caller identity 5. -/
def ring0 : Ring := { Ring.init with state := .running, en := true, operator := true, core := 0, caller := 5 }

/-- Hull 1 as given, and that ring. -/
def served (x : Hull) : State := { withHull x with rings := [(0, ring0)] }

/-- Pods 0 of hull 1 and 7 of none, the latter as given; the device in standby or not. -/
def slept (x : Pod) (standby : Bool) (h : Hull) : State :=
  { served h with pods := [(0, pod0), (7, x)], board := { ready.board with standby := standby } }
def idle7 : Pod := { Pod.init with state := .idle }
/-! ## Hypotheses of the statements: slots of a bundle -/

/-- Form R with operands s1 and s2 and destination s3, or the last register of slot S1. -/
def fr : SR := { s1 := false, pg := 0, rd := 3, ra := 1, rb := 2 }
def frHigh : SR := { s1 := true, pg := 1, rd := 31, ra := 1, rb := 2 }

theorem witness_ScalarArithmeticGivesItsResult :
    (run1.canIssue 0 (scalarSlot fr.s1) (scalarDest dkS fr.rd.toNat) ∧ (run1.tile 0).preg fr.pg = true) ∧
    (run1.canIssue 0 (scalarSlot frHigh.s1) (scalarDest dkS frHigh.rd.toNat) ∧ (run1.tile 0).preg frHigh.pg = true) := by
  unfold State.canIssue; decide

def fi : SI := { s1 := false, pg := 0, rd := 1, imm := 63 }

theorem witness_ScalarImmediatesAndComparesGiveTheirResult :
    (run1.canIssue 0 (scalarSlot fi.s1) (scalarDest dkS fi.rd.toNat) ∧ (run1.tile 0).preg fi.pg = true ∧ fi.imm.toNat < 64) ∧
    run1.canIssue 0 slS1 (scalarDest dkP 7) ∧ (run1.tile 0).preg 1 = true := by
  unfold State.canIssue; decide

/-- A tile whose queue 0 fills its store's first bytes. -/
def filling : Desc :=
  { kind := 1, flags := 0, syncId := 0, tensor := 1, offset := 0, loc := 0, length := 256, aux := 0, count := 0, image := [], block := [],
    bank := false, pgen := 0, bad := false, completed := false, issued := false, status := 0 }

def run2 : State := withTile { tile1 with s := [], queues := [(0, { Queue.empty with descs := [filling] })] }
def run3 : State := withTile { tile1 with banks := [0] }

theorem witness_ScalarLoadAndStoreAccessTheTileStore :
    run1.canIssue 0 slS0 (scalarDest dkS 3) ∧ run1.canIssue 0 slS0 [] ∧
    ((run2.tile 0).inFlight false 0 8 = true ∧ (run2.tile 0).inFlight true 0 8 = true ∧ run2.canIssue 0 slS0 []) ∧
    ((run3.tile 0).inFlight false 8 8 = false ∧ ((run3.tile 0).took slS0 []).access (granules 8 8) [] = none ∧ run3.canIssue 0 slS0 []) ∧
    (run1.tile 0).inFlight false 8 8 = false ∧ (run1.tile 0).inFlight true 8 8 = false ∧
    (((run1.tile 0).took slS0 []).access (granules 8 8) []).isSome = true := by
  unfold State.canIssue; decide

theorem witness_ScalarControlInstructionsComplete :
    run1.canIssue 0 slS0 [] ∧ run1.slotOpen 0 slS1 = true ∧ run1.canIssue 0 slS1 (scalarDest dkS 0) ∧ (run1.tile 0).preg 1 = true ∧
    (7#10).toNat < 8 ∧ (run1.hull (run1.pod (podOf 0)).hull).prog = some prog1 := by
  unfold State.canIssue; decide

theorem witness_GuardsAndDestinationsDecideTheIssue :
    ((run1.tile 0).preg 2 = false ∧ run1.canIssue 0 slS0 (scalarDest dkS 3) ∧ run1.canIssue 0 slS0 [] ∧ run1.canIssue 0 slA [] ∧
      run1.canIssue 0 slY []) ∧
    ((withTile { tile1 with slots := 1, dests := [(dkS, 3), (dkV, 4)] }).slotOpen 0 slS0 = true ∧
      (withTile { tile1 with slots := 1, dests := [(dkS, 3), (dkV, 4)] }).slotOpen 0 slV0 = true ∧
      (dkS, 3) ∈ ((withTile { tile1 with slots := 1, dests := [(dkS, 3), (dkV, 4)] }).tile 0).dests ∧
      (dkV, 4) ∈ ((withTile { tile1 with slots := 1, dests := [(dkS, 3), (dkV, 4)] }).tile 0).dests) := by
  unfold State.canIssue; decide

/-- V0 on all lanes, which charges the ledger, and on one group, in the three formats. -/
def fv : V0 := { vd := 2, va := 1, vb := 1, vc := 0, fmt := 0, gm := 0, imm := 0 }

theorem witness_VectorArithmeticGivesEveryLane :
    (∀ fmt ∈ [(0 : BitVec 4), 1, 2], ∀ gm ∈ [(0 : BitVec 2), 1, 3], run1.canV0 0 { fv with fmt := fmt, gm := gm }) ∧ fv.imm = 0 ∧ fv.vc = 0 := by
  unfold State.canV0 State.canIssue; decide

theorem witness_VectorComparesAndBitOperationsGiveEveryLane :
    (∀ fmt ∈ [(0 : BitVec 4), 1, 2], run1.canV0 0 { fv with fmt := fmt, imm := 6 } ∧ (6#10).toNat < 7) ∧
    run1.canV0 0 fv ∧ run1.canV0 0 { fv with vb := 0, imm := 31 } ∧ (31#10).toNat < 32 := by
  unfold State.canV0 State.canIssue; decide

theorem witness_VectorFunctionsGiveEveryLane : run1.canV0 0 { fv with vb := 0, gm := 2 } := by
  unfold State.canV0 State.canIssue; decide

/-- V1 with every optional field zero. -/
def fg : V1G := { vd := 2, va := 1, vb := 0, lg := 0, fmtS := 0, rnd := 0, gm := 0, fmtD := 0, imm6 := 0 }

theorem witness_VectorMovesAndDrawsGiveEveryLane :
    run1.canIssue 0 slV1 [(dkV, 2)] ∧ v1Only { fg with vb := 3 } true true true false false ∧
    v1Only { fg with imm6 := 63 } true true false false true ∧ v1Only fg true true false false false := by
  unfold State.canIssue v1Only; decide

theorem witness_VectorTransfersTakeThePath : run1.canIssue 0 slV1 [(dkV, 63)] ∧ run1.canIssue 0 slV1 [] := by
  unfold State.canIssue; decide

theorem witness_VectorConversionCompletes :
    run1.canIssue 0 slV1 [(dkV, 2)] ∧
    (∃ src dst, vFmt 0 = some src ∧ vFmt 1 = some dst ∧ cvtOk { fg with fmtD := 1 } = true ∧ cvtOk { fg with fmtD := 1, rnd := 1 } = true) := by
  refine ⟨by unfold State.canIssue; decide, _, _, rfl, rfl, ?_, ?_⟩ <;> decide

theorem witness_ExactAccumulationCompletes :
    run1.canIssue 0 slV1 [(dkLg, 15)] ∧ v1Only { fg with vd := 0, va := 0, lg := 15 } false false false true false ∧
    v1Only { fg with vd := 0, lg := 15 } false true false true false ∧ run1.canIssue 0 slV1 [(dkV, 0)] ∧
    ({ fg with fmtD := 7 } : V1G).fmtD = 7 := by
  unfold State.canIssue v1Only; decide

theorem witness_MatrixInstructionsTakeTheirSide :
    (run1.canIssue 0 slM [(dkWb, 1)] ∧ (mClass 0).isSome ∧ mClass 0 = mClass ((run1.tile 0).wfmt 1)) ∧
    (∀ acc ∈ [0, 7], run1.canIssue 0 slM [(dkAcc, acc)]) ∧ run1.canIssue 0 slM [(dkV, 63)] ∧
    (run1.slotOpen 0 slM = true ∧ mClass 2 ≠ mClass ((run1.tile 0).wfmt 0)) ∧
    drainOk ((run1.tile 0).accInt.getLsbD 7) 0 0 = true := by
  unfold State.canIssue; decide

theorem witness_AccessInstructionsComplete :
    (run1.tile 0).preg 0 = true ∧ run1.canIssue 0 slA [] ∧ (255 : BitVec 8) ≠ 0 ∧ run1.canIssue 0 slA (scalarDest dkS 31) ∧
    (16 : BitVec 5).toNat < 17 := by
  unfold State.canIssue; decide

theorem witness_EnqueueAndEngineCommandComplete :
    (run1.tile 0).preg 0 = true ∧ run1.canIssue 0 slA [] ∧ (run1.tile 0).inFlight false 0 32 = false ∧
    (((run1.tile 0).took slA []).access (granules 0 32 ++ granules 64 64) []).isSome = true ∧
    (((run1.tile 0).took slA []).access (granules 0 64) []).isSome = true ∧ (run1.tile 0).inFlight false 0 64 = false ∧
    (run1.hull (run1.pod (podOf 0)).hull).prog = some prog1 := by
  unfold State.canIssue; decide

theorem witness_SyncOperationsAreSentToTheirHome :
    (run1.tile 0).preg 0 = true ∧ run1.canIssue 0 slY [] ∧ (1 : BitVec 7) ≠ 0 ∧ (31#7).toNat < 32 ∧ (31#7).getLsbD 6 = false ∧
    run1.canIssue 0 slY (scalarDest dkS 31) ∧ (run1.hull (run1.pod (podOf 0)).hull).ownsSync 63 = true ∧
    (run1.hull (run1.pod (podOf 0)).hull).ownsSync 64 = false := by
  unfold State.canIssue; decide

theorem witness_MarkerAndBankSwitchComplete : (run1.tile 0).preg 0 = true ∧ run1.canIssue 0 slY [] := by
  unfold State.canIssue; decide

/-- Sync objects: a counter with a waiter, one without, a lease held too long. -/
def counter : SyncObj :=
  { kind := 0, hull := 1, home := 0, pod := 0, timeout := 4, holdLimit := 0, param := 0, init := 0, value := 0xFFFFFFFF, gen := 0,
    broken := false, holder := none, heldTicks := 0, former := [], held := [], waiters := [] }

def waiter : SyncReq :=
  { left := none, tile := some 0, src := 0, hull := 1, op := 2, id := 4, amount := 3, nowait := false, rd := 0, stamp := 0, gtc := 0 }

def lease : SyncObj := { counter with kind := 2, value := 0, holdLimit := 2, holder := some 9, heldTicks := 3, waiters := [{ waiter with op := 5 }] }

def synced : State := { run1 with sync := [(3, counter), (4, { counter with value := 4, waiters := [waiter] }), (5, lease)] }

/-- Two requests of tiles 0 and 1 for the counter on the spine. -/
def onSpine : State := { synced with spine := [{ waiter with id := 3 }, { waiter with id := 3, tile := some 1, src := 1 }] }

theorem witness_CountersAreSignalledAndServedInOrder :
    synced.rst.dev ≠ .cold ∧ 1 ≤ 1 ∧ 1 ≤ 8 ∧ 8 ≤ 8 ∧
    (onSpine.spine[1]? = some { waiter with id := 3, tile := some 1, src := 1 } ∧
      (onSpine.spine.take 1).any (fun q => q.tile == some 1 && q.id == 3) = false ∧ tfind onSpine.sync 3 = some counter) ∧
    (tfind synced.sync 3 = some counter ∧ counter.hull = 1 ∧ counter.kind = 0 ∧ counter.waiters = [] ∧ counter.value + 0 ≤ 0xFFFFFFFF ∧
      counter.value + 1 > 0xFFFFFFFF) ∧
    (tfind synced.sync 5 = some lease ∧ lease.kind ≠ 0) ∧ tfind synced.sync 6 = none ∧
    (∀ r ∈ ({ counter with waiters := [waiter] } : SyncObj).waiters, r.op = 2) := by
  decide

theorem witness_OverheldLeaseIsBroken :
    tfind synced.sync 6 = none ∧ (tfind synced.sync 3 = some counter ∧ counter.kind ≠ 2) ∧ ({ lease with holder := none } : SyncObj).holder = none ∧
    ({ lease with holdLimit := 0 } : SyncObj).holdLimit = 0 ∧
    tfind synced.sync 5 = some lease ∧ lease.kind = 2 ∧ lease.holder = some 9 ∧ lease.holdLimit ≠ 0 ∧ lease.heldTicks > lease.holdLimit ∧
    ({ lease with heldTicks := 2 } : SyncObj).heldTicks ≤ lease.holdLimit ∧
    (∃ r ∈ lease.waiters, r.tile = some 0 ∧ (synced.tile 0).live = true ∧ (synced.tile 0).syncStatus = 0 ∧ lease.waiters = [r]) := by
  decide

/-! ## Hypotheses of the statements: descriptors, memory, near-memory requests, engines -/

theorem mem_of_tfind {α : Type} {t : Tbl α} {k : Nat} {v : α} (h : tfind t k = some v) : (k, v) ∈ t := by
  induction t with
  | nil => simp [tfind] at h
  | cons q r ih =>
    rw [tfind] at h
    split at h
    · rename_i e
      obtain rfl := Option.some.inj h
      exact e ▸ List.mem_cons_self
    · exact List.mem_cons_of_mem _ (ih h)

/-- No unit of either table is being copied. -/
theorem noHold_of {s : State} (h : (s.mem.unitsA ++ s.mem.unitsB).all (fun q => !q.2.copySource) = true) : s.noHold := by
  have key : ∀ (t : Tbl UnitS) n, (∀ q ∈ t, q ∈ s.mem.unitsA ++ s.mem.unitsB) → (tget UnitS.init t n).copySource = false := by
    intro t n ht
    rw [tget]
    cases hf : tfind t n with
    | none => rfl
    | some v => simpa using List.all_eq_true.mp h _ (ht _ (mem_of_tfind hf))
  intro u
  cases u with
  | a n => exact key _ n fun q hq => List.mem_append_left _ hq
  | b n => exact key _ n fun q hq => List.mem_append_right _ hq

/-- A block of hull 1 in tier B, or in tier A, that was never written, on its first unit. -/
theorem clean_at {s : State} {tierB : Bool} {base tensor i u row : Nat} (hs : s.servesAt 1 tierB (base / 4096 + i) u row)
    (hb : s.blk tierB (blkPer tierB * u + row) = Blk.unwritten) (hd : (s.hull 1).dbg = 0) : s.clean 1 tierB base tensor i :=
  ⟨u, row, hs, by rw [hb]; rfl, .inr hd⟩

/-- The address of a unit's block is assigned where the unit was not mapped out. -/
theorem assigned_at {s : State} {u : MemUnit} {row : Nat} (h : s.unit u = UnitS.init)
    (e : physHome (blockAddr u row) = some (.data u row 0)) : s.physAssigned (blockAddr u row) = true := by
  unfold State.physAssigned
  rw [e]
  simp only [PhysHome.unit?, h]
  rfl

/-- A block of hull 1's window on a unit as it was at reset. -/
theorem serves_at {s : State} {tierB : Bool} {i n row : Nat} (hf : (s.hull 1).find tierB i = some (n, row))
    (hu : s.unit (unitOf tierB n) = UnitS.init) (e : physHome (blockAddr (unitOf tierB n) row) = some (.data (unitOf tierB n) row 0))
    (hg : s.unitFailed (unitOf tierB n) = false) : s.servesAt 1 tierB i n row :=
  ⟨hf, assigned_at hu e, by rw [hu]; rfl, hg⟩

/-- Block 0 of hull 1's window in tier B lies on its unit 1, never written. -/
def FreshB (s : State) : Prop :=
  s.servesAt 1 true 0 1 0 ∧ s.blk true (blkPer true * 1 + 0) = Blk.unwritten ∧ (s.hull 1).dbg = 0

theorem FreshB.clean {s : State} (h : FreshB s) (tensor : Nat) : ∀ i ∈ [0], s.clean 1 true 0 tensor i := by
  intro i hi
  obtain rfl := List.mem_singleton.mp hi
  exact clean_at h.1 h.2.1 h.2.2

theorem witness_ReadDescriptorLandsAndRetires :
    run2.settled = run2 ∧ run2.noHold ∧ (run2.tile 0).live = true ∧ (run2.tile 0).frozen = false ∧ (run2.hull 1).state = .running ∧
    (run2.hull 1).prog = some prog1 ∧
    (∀ d ∈ [{ filling with completed := true }, filling, { filling with kind := 3 }, { filling with kind := 4, bad := true }],
      ([d] : List Desc)[0]? = some d ∧ (([d] : List Desc).take 0).any (fun o => !o.completed && o.overlaps d) = false ∧ d.issued = false ∧
        (d.completed = true ∨ d.completed = false) ∧ (d.kind = 4 → d.bad = true) ∧ d.pgen = (run2.hull 1).pgen) ∧
    ((run2.tile 0).queue 0).descs = [filling] ∧ filling.completed = false ∧ filling.bad = false ∧ filling.kind = 1 ∧ filling.flags = 0 ∧
    prog1.memPlace 1 = some (true, 0) ∧ (∀ i ∈ blocksOf 0 256, run2.clean 1 true 0 1 i) ∧
    ([] : List Desc).all (fun e => !e.completed) = true := by
  refine ⟨rfl, noHold_of rfl, by decide, by decide, by decide, rfl, by decide, rfl, rfl, rfl, rfl, rfl, rfl, ?_, rfl⟩
  exact FreshB.clean ⟨by unfold State.servesAt; decide, rfl, rfl⟩ 1

/-- Trained memory; and unit 1 of tier B being copied to unit 2, or out of service. -/
def trained : State := { ready with mem := { ready.mem with trained := true } }
def leaving : State :=
  { trained with mem := { trained.mem with
      mapout := some (.b 1)
      unitsB := [(1, { UnitS.init with state := 1, copySource := true, replacement := some 2 }), (2, { UnitS.init with state := 3 })] } }
def unitGone : State :=
  { withHull hull1 with mem := { ready.mem with unitsB := [(1, { UnitS.init with state := 2 })] } }
/-- The last unit of tier B, at its last block. -/
def scrubbing : State :=
  { trained with mem := { trained.mem with unitsB := (upFrom 48 16).map fun n => (n, { UnitS.init with scrubRow := 4186112 - if n = 63 then 1 else 0 }) } }

theorem witness_MemoryUpkeepKeepsEveryBlock :
    (MemUnit.b 63).wf = true ∧ trained.mem.trained = true ∧ (15 < if true then 16 else 8) ∧ (7 < if false then 16 else 8) ∧
    trained.rst.dev ≠ .cold ∧ twf 0 trained.mem.temp = true ∧
    (∀ q ∈ [(trained, MemUnit.b 0, 0), (scrubbing, MemUnit.b 63, 4186111)],
      q.1.inService = true ∧ q.1.board.standby = false ∧ q.1.scrubUnit? (nmuOf q.2.1) = some q.2.1 ∧ q.2.2 = (q.1.unit q.2.1).scrubRow ∧
        (q.1.blk (unitTier q.2.1) (q.2.1.rows * unitNo q.2.1 + q.2.2)).check none = .pass) ∧
    1 ≠ (trained.unit (.b 0)).scrubRow ∧
    (leaving.inService = true ∧ leaving.mem.mapout = some (.b 1) ∧ leaving.mem.mapoutQueue = [] ∧
      (leaving.unit (.b 1)).replacement = some 2 ∧
      (leaving.unit (.b 1)).state = 1 ∧ leaving.extentLeaving (.b 1) = false ∧ (unitOf true 2).wf = true ∧ 2 ≠ unitNo (.b 1) ∧
      (∀ row, row < (MemUnit.b 1).rows → (leaving.blk true ((MemUnit.b 1).rows * 1 + row)).check none = .pass) ∧
      blksWf leaving.mem.a = true ∧ blksWf leaving.mem.b = true) ∧
    (∀ u ∈ [MemUnit.a 0, .a 511, .b 0, .b 63], u.wf = true ∧ u.rows - 1 < u.rows) ∧
    (0x8000000000 ≤ 0xFFFFFFFFFF ∧ 0xFFFFFFFFFF < 0x010000000000 ∧ 0x020000000000 ≤ 0x03FFFFFFFFFF ∧ 0x03FFFFFFFFFF < 0x040000000000) ∧
    ((unitGone.hull 1).find true 0 = some (1, 0) ∧ (unitOf true 1).wf = true ∧ 0 < (unitOf true 1).rows ∧
      (unitGone.unit (unitOf true 1)).state = 2) := by
  refine ⟨?_, ?_, ?_, ?_, ?_, ?_, ?_, ?_, ⟨?_, ?_, ?_, ?_, ?_, ?_, ?_, ?_, ?_, ?_, ?_⟩, ?_, ?_, ?_⟩ <;>
    first | (intro row _; rfl) | decide +kernel

/-- A near-memory request of one block of tensor 1 at the head of queue 4. -/
def request (block : List Byte) (len : Nat) : Desc := { filling with kind := 4, length := len, block := block }

def asked (block : List Byte) (len : Nat) : State :=
  withTile { tile1 with queues := [(4, { Queue.empty with descs := [request block len] })] }

/-- A request block: operation, then bytes by offset. -/
def blockOf (op : Nat) (fields : List (Nat × Byte)) : List Byte := getBytes ((0, BitVec.ofNat 8 op) :: fields) 0 64

/-- That request as its unit takes it, with its bytes of the tile store where it carries some. -/
def req (block : List Byte) (len : Nat) (data : List Byte) : NReq :=
  { hull := 1, desc := request block len, at_ := some (0, 4, 0), data := data }

/-- A request of the program's tensor in tier B is taken where its unit finds it. -/
theorem ready_of {s : State} {op : Nat} {block data : List Byte} {len : Nat} (hn : s.noHold)
    (hf : s.nmuFind op (.desc 0 4 0) = some (req block len data)) (hp : (s.hull 1).prog = some prog1) (hg : (s.hull 1).pgen = 0) :
    s.nmuReady op (.desc 0 4 0) (req block len data) prog1 true 0 :=
  ⟨hn, hf, hp, rfl, hg.symm⟩

theorem asked_noHold (block : List Byte) (len : Nat) : (asked block len).noHold := noHold_of rfl

theorem asked_fresh (block : List Byte) (len : Nat) : FreshB (asked block len) :=
  ⟨⟨rfl, assigned_at (u := .b 1) rfl (by decide), rfl, rfl⟩, rfl, rfl⟩

/-- The bytes of the tile store that a contribution carries. -/
def carried (block : List Byte) (len : Nat) : List Byte := ((asked block len).tile 0).tsRead 0 len

/-- A block operation on the tensor's first block, whose operation is found. -/
theorem asked_ready {op : Nat} {block data : List Byte} {len : Nat}
    (hf : (asked block len).nmuFind op (.desc 0 4 0) = some (req block len data)) :
    (asked block len).nmuReady op (.desc 0 4 0) (req block len data) prog1 true 0 :=
  ready_of (asked_noHold block len) hf rfl rfl

/-- The snapshot's mark of the request's block is of another hull or none: the block of tensor 2 in tier A is clean. -/
theorem witness_NearMemoryBlockOperationsComplete :
    (∀ op ∈ [4, 5, 6, 7, 8, 9], let b := blockOf op [(8, 2)]
      (asked b 4096).settled = asked b 4096 ∧ (asked b 4096).nmuReady op (.desc 0 4 0) (req b 4096 []) prog1 true 0 ∧
        (∀ i ∈ blocksOf 0 4096, (asked b 4096).clean 1 true 0 1 i) ∧
        (∀ i ∈ blocksOf 0 4096, (asked b 4096).served 1 true (0 / 4096 + i)) ∧ fieldLe b 8 4 = 2 ∧ fieldLe b 0x18 8 = 0) ∧
    (let b := blockOf 6 [(8, 2)]
     (asked b 8192).nmuReady 6 (.desc 0 4 0) (req b 8192 []) prog1 true 0 ∧ 0 + 4096 * (blocksOf 0 8192).length ≤ prog1.bytesOf 2) ∧
    prog1.inMemory 2 = true ∧ 0 + 8 * (blocksOf 0 4096).length ≤ prog1.bytesOf 2 ∧ blocksOf 0 4096 = [0] ∧
    (let s := asked (blockOf 7 [(8, 2)]) 4096
     s.servesAt 1 true (0 / 4096 + 0) 1 0 ∧ prog1.memPlace 2 = some (false, 0) ∧ s.cleanRange 1 prog1 2 0 8 ∧
       s.cutMark 1 (true, blkPer true * 1 + 0) = none) := by
  have hb : blocksOf 0 4096 = [0] := by decide
  refine ⟨?_, ⟨asked_ready rfl, by decide⟩, by decide, by decide, hb, (asked_fresh _ _).1, rfl, ?_, rfl⟩
  · intro op ho
    have hc : ∀ b, ∀ i ∈ blocksOf 0 4096, (asked b 4096).clean 1 true 0 1 i := fun b => by rw [hb]; exact (asked_fresh b 4096).clean 1
    have hs : ∀ b, ∀ i ∈ blocksOf 0 4096, (asked b 4096).served 1 true (0 / 4096 + i) := fun b i hi => by
      obtain ⟨u, row, h, -⟩ := hc b i hi
      exact ⟨u, row, h⟩
    simp only [List.mem_cons, List.not_mem_nil, or_false] at ho
    rcases ho with rfl | rfl | rfl | rfl | rfl | rfl <;> exact ⟨rfl, asked_ready rfl, hc _, hs _, by decide, by decide⟩
  · refine ⟨false, 0, rfl, ?_⟩
    rw [show blocksOf 0 8 = [0] by decide]
    intro i hi
    obtain rfl := List.mem_singleton.mp hi
    exact clean_at (u := 0) (row := 0) ⟨rfl, by decide, rfl, rfl⟩ rfl rfl

theorem witness_ZeroMarksBlocksUnwritten :
    0 % 4096 = 0 ∧ run1.servesAt 1 true (0 / 4096 + 1) 1 1 ∧ run1.mem.meets = [] ∧ run1.mem.marks = [] ∧
    twf Blk.unwritten run1.mem.a = true ∧ twf Blk.unwritten run1.mem.b = true := by
  refine ⟨by decide, ⟨by decide, by decide, rfl, rfl⟩, rfl, rfl, by decide, by decide⟩

/-- A REDUCE of one contribution that starts EMPTY, the first, second and third of three, an UPDATE of rule 3, one past its tensor's end, a
SCATTER_ADD of row 0. -/
def reduceOne : List Byte := blockOf 1 [(2, 4), (6, 1)]
def reduceFirst : List Byte := blockOf 1 [(2, 4), (6, 3)]
def reduceLate : List Byte := blockOf 1 [(2, 4), (4, 1), (6, 3)]
def updateOne : List Byte := blockOf 2 [(3, 3), (8, 2)]
def updatePast : List Byte := blockOf 2 [(3, 3), (8, 9)]
def scatterOne : List Byte := blockOf 3 [(6, 1)]
def opened : RTarget :=
  { hull := 1, tensor := 1, offset := 0, length := 256, count := 3, fmt := 0, start := 2, next := 0, staged := [], owners := [], failed := [] }
def granted (s : State) : State := { s with nmu := { s.nmu with slots := [(0, 1)] } }

/-- The same with targets, held requests and a shard's copies. -/
def reducing (block : List Byte) (targets : List RTarget) (held : List HeldReq) : State :=
  granted { asked block 256 with nmu := { run1.nmu with targets := targets, held := held } }

theorem reducing_ready {block : List Byte} {t : List RTarget} {e : List HeldReq}
    (hf : (reducing block t e).nmuFind 1 (.desc 0 4 0) = some (req block 256 (carried block 256))) :
    (reducing block t e).nmuReady 1 (.desc 0 4 0) (req block 256 (carried block 256)) prog1 true 0 :=
  ready_of (noHold_of rfl) hf rfl rfl

theorem reducing_fits {block : List Byte} {t : List RTarget} {e : List HeldReq}
    (h : let r := req block 256 []
         let g := (reducing block t e).targetOf r
         reduceSeq block < reduceCount block ∧ g.count = reduceCount block ∧ g.fmt = fieldLe block 1 1 ∧ g.start = reduceStart block ∧
           g.next ≤ reduceSeq block ∧ tfind g.staged (reduceSeq block) = none) :
    (reducing block t e).reduceFits (.desc 0 4 0) (req block 256 (carried block 256)) prog1
      ((reducing block t e).targetOf (req block 256 (carried block 256))) := by
  obtain ⟨h1, h2, h3, h4, h5, h6⟩ := h
  exact ⟨(fun h => nomatch h), h1, h2, h3, h4, h5, h6, rfl⟩

/-- A program whose shard's gradient, tensor 2, is fed, and one whose shard waits for its peer's digest. -/
def fedProg (own : Option (Nat × BitVec 256)) (state : TwinState) (owner : Bool) : Prog :=
  { prog1 with
    image := { img1 with shards := [{ id := 1, owner := 0, tensors := [1, 2], elemFmt := 0, layout := 0, shape := [], origin := [], extent := [], matrix := none }] }
    shards := [{ id := 1, owner := owner, state := state, mismatches := 0, layersCopied := 0, copiedStep := 0, own := own, peer := none }] }

theorem witness_NearMemoryArithmeticCompletes :
    (let s := reducing reduceOne [] []
     let r := req reduceOne 256 (carried reduceOne 256)
     s.settled = s ∧ s.nmuReady 1 (.desc 0 4 0) r prog1 true 0 ∧ s.reduceFits (.desc 0 4 0) r prog1 (s.targetOf r) ∧ s.roomFor r = true ∧
       reduceSeq reduceOne = (s.targetOf r).next ∧ s.residueUnit r true 0 none = none ∧ (s.residueUnit r true 0 (some 0)).isSome = true) ∧
    (let s := asked updateOne 256
     let r := req updateOne 256 []
     s.settled = s ∧ s.nmuReady 2 (.desc 0 4 0) r prog1 true 0 ∧ s.twinWait 1 1 = false ∧ prog1.feedWait r.desc = false ∧
       (updateRanges r.desc).all (fun q => prog1.inMemory q.1 && decide (q.2.1 + q.2.2 ≤ prog1.bytesOf q.1)) = true ∧
       blocksOf 0 256 = [0 / 4096] ∧ (∀ q ∈ updateRanges r.desc, s.cleanRange 1 prog1 q.1 q.2.1 q.2.2)) ∧
    ((asked updatePast 256).nmuReady 2 (.desc 0 4 0) (req updatePast 256 []) prog1 true 0 ∧ (asked updatePast 256).twinWait 1 1 = false ∧
       prog1.feedWait (request updatePast 256) = false ∧
       (updateRanges (request updatePast 256)).all (fun q => prog1.inMemory q.1 && decide (q.2.1 + q.2.2 ≤ prog1.bytesOf q.1)) = false) ∧
    ((fedProg none .onboarding false).feedWait (request updateOne 256) = true ∧
      (let p := fedProg (some (0, 0)) .paired true
       let s := { asked updateOne 256 with hulls := [(1, { hull1 with prog := some p, step := 1 })] }
       s.nmuReady 2 (.desc 0 4 0) (req updateOne 256 []) p true 0 ∧ s.twinWait 1 1 = true)) ∧
    (let r := req scatterOne 32 (carried scatterOne 32)
     (asked scatterOne 32).settled = asked scatterOne 32 ∧ (asked scatterOne 32).nmuReady 3 (.desc 0 4 0) r prog1 true 0) ∧
    (∀ t ∈ [opened, { opened with start := 1 }, { opened with start := 0 }, { opened with next := 1 }],
      let p := (asked reduceOne 256).parts
      p.st.quiet ∧ (∀ i ∈ blocksOf 0 256, p.st.served t.hull true (0 / 4096 + i)) ∧ (∀ i ∈ blocksOf 0 256, p.st.clean t.hull true 0 t.tensor i) ∧
        (t.start = 0 ∨ t.start = 1 ∨ t.start = 2)) ∧
    ((asked scatterOne 32).parts.st.quiet ∧ 8192 < 0 + 32 * 256 + 32 ∧ 0 + 32 * 127 + 32 ≤ 8192 ∧
      (∀ b ∈ blocksOf (0 + 32 * 127) 32, (asked scatterOne 32).parts.st.clean 1 true 0 1 b)) := by
  have hb : blocksOf 0 256 = [0] := by decide
  have hc : ∀ b n i, i ∈ blocksOf 0 256 → (asked b n).clean 1 true 0 1 i := fun b n => by rw [hb]; exact (asked_fresh b n).clean 1
  refine ⟨⟨rfl, reducing_ready rfl, reducing_fits (by decide), by decide +kernel, rfl, rfl, by decide +kernel⟩,
    ⟨rfl, asked_ready rfl, rfl, by decide, by decide, by decide, ?_⟩, ⟨asked_ready rfl, rfl, by decide, by decide⟩,
    ⟨by decide, ⟨noHold_of rfl, rfl, rfl, rfl, rfl⟩, by decide⟩, ⟨rfl, asked_ready rfl⟩, ?_, ⟨rfl, rfl, rfl⟩, by decide, by decide, ?_⟩
  · intro q hq
    have h : q = (1, 0, 256) ∨ q = (2, 0, 256) := by
      have e : updateRanges (request updateOne 256) = [(1, 0, 256), (2, 0, 256)] := by decide
      have hq' : q ∈ updateRanges (request updateOne 256) := hq
      rw [e] at hq'
      simpa using hq'
    rcases h with rfl | rfl
    · exact ⟨true, 0, rfl, hc _ _⟩
    · refine ⟨false, 0, rfl, ?_⟩
      rw [hb]
      intro i hi
      obtain rfl := List.mem_singleton.mp hi
      exact clean_at (u := 0) (row := 0) ⟨rfl, by decide, rfl, rfl⟩ rfl rfl
  · intro t ht
    simp only [List.mem_cons, List.not_mem_nil, or_false] at ht
    have hs : ∀ i ∈ blocksOf 0 256, (asked reduceOne 256).parts.st.served 1 true (0 / 4096 + i) := fun i hi => by
      obtain ⟨u, row, h, -⟩ := hc reduceOne 256 i hi
      exact ⟨u, row, h⟩
    rcases ht with rfl | rfl | rfl | rfl <;> exact ⟨⟨rfl, rfl, rfl⟩, hs, hc _ _, by decide⟩
  · rw [show blocksOf (0 + 32 * 127) 32 = [0] by decide]
    exact (asked_fresh _ _).clean 1

theorem witness_ContributionsTakeEffectInTheirOrder :
    (let e := HeldReq.desc 0 4 []
     let s := reducing reduceOne [] [e]
     let v := reducing reduceOne [] []
     let r := req reduceOne 256 (carried reduceOne 256)
     s.nmu.held[0]? = some e ∧ s.settled = s ∧ { s with nmu := { s.nmu with held := dropAt s.nmu.held 0 } } = v ∧
       s.heldSrc e = some (.desc 0 4 0) ∧ s.heldSrc (.desc 0 5 []) = none ∧ v.nmuReady 1 (.desc 0 4 0) r prog1 true 0 ∧
       v.reduceFits (.desc 0 4 0) r prog1 (v.targetOf r) ∧ v.roomFor r = true ∧ reduceSeq reduceOne = (v.targetOf r).next) ∧
    (let v := asked reduceOne 256
     let r := req reduceOne 256 (carried reduceOne 256)
     v.nmuReady 1 (.desc 0 4 0) r prog1 true 0 ∧ v.reduceFits (.desc 0 4 0) r prog1 (v.targetOf r) ∧ v.roomFor r = false ∧
       v.nmu.held.contains (.desc 0 4 []) = false) ∧
    ready.nmu.held[0]? = none ∧
    (let s := reducing reduceLate [opened] []
     let r := req reduceLate 256 (carried reduceLate 256)
     s.settled = s ∧ s.nmuReady 1 (.desc 0 4 0) r prog1 true 0 ∧ s.reduceFits (.desc 0 4 0) r prog1 (s.targetOf r) ∧ s.roomFor r = true ∧
       (s.targetOf r).next < reduceSeq reduceLate) ∧
    (∀ g ∈ [{ opened with next := 2 }, { opened with staged := [(1, [])] }],
      let s := reducing reduceLate [g] []
      let r := req reduceLate 256 (carried reduceLate 256)
      s.nmuReady 1 (.desc 0 4 0) r prog1 true 0 ∧ reduceSeq reduceLate < reduceCount reduceLate ∧ s.targetOf r = g ∧
        g.count = reduceCount reduceLate ∧ g.fmt = fieldLe reduceLate 1 1 ∧ g.start = reduceStart reduceLate ∧
        (reduceSeq reduceLate < g.next ∨ (tfind g.staged (reduceSeq reduceLate)).isSome = true)) := by
  refine ⟨⟨rfl, rfl, rfl, rfl, rfl, reducing_ready rfl, reducing_fits (by decide), by decide +kernel, rfl⟩,
    ⟨asked_ready rfl, ⟨(fun h => nomatch h), by decide, rfl, by decide, rfl, by decide, rfl, rfl⟩, by decide +kernel, rfl⟩, rfl,
    ⟨rfl, reducing_ready rfl, reducing_fits (by decide), by decide +kernel, by decide⟩, ?_⟩
  intro g hg
  simp only [List.mem_cons, List.not_mem_nil, or_false] at hg
  rcases hg with rfl | rfl <;> exact ⟨reducing_ready rfl, by decide, rfl, by decide, by decide, by decide, by decide⟩

/-- Structures of the three kinds that the operations take: factored, QP and DENSE, each of dimension 1. -/
def factored : AStruct :=
  { kind := 0, banded := false, n := 1, m := 0, stages := 0, refine := 0, params := [], panels := [(1, 0)], perm := [0],
    blocks := [(0, 0, [0x3FF0000000000000])], dense := [], q := [], l := [], u := [], x0 := [], dirty := true, warmX := none, warmS := none,
    bytes := 0 }
def quadratic : AStruct := { factored with kind := 2, stages := 1 }
def dense1 : AStruct := { factored with kind := 3, panels := [], perm := [], blocks := [], dense := [0x3FF0000000000000] }

/-- A command block: operation, then bytes by offset; tolerances of 1.0 where the operation iterates. -/
def cmdBlock (op : Nat) (fields : List (Nat × Byte)) : List Byte :=
  blockOf op (fields ++ (if op < 5 then [] else [(6, 1), (0x1E, 0xF0), (0x1F, 0x3F)])
    ++ if op < 7 then [] else [(0x26, 0xF0), (0x27, 0x3F), (0x2E, 0xF0), (0x2F, 0x3F)])

/-- Engine 0 with a structure of handle 0, if any, and one firmware command. -/
def engined (st : Option AStruct) (block input : List Byte) : State :=
  { ready with aus := [(0, { Engine.init with
      bankCount := 16, phase := 2, structs := st.toList.map fun x => (0, x), queue := [ACmd.fresh block none 1 input 0 1] })] }

/-- The operation is at the head, its block is in rule, and so is its structure. -/
def headOk (op : Nat) (st : Option AStruct) (block input : List Byte) : Bool :=
  (match (engined st block input).ausHead 0 op with
    | some c => ausBlockOk c.block c.tile.isSome && tfind ((engined st block input).eng 0).structs c.handle == st
    | none => false)
  && (match st with | some x => op == 2 || op == 9 || ausStructOk block x | none => true)

/-- A DENSE structure of dimension 1 as AU_STRUCT_LOAD reads it, and a delta of its one value. -/
def denseBytes : List Byte := getBytes [(0, 1), (2, 3), (4, 1)] 0 136
def deltaBytes : List Byte := getBytes [(0, 1), (4, 1)] 0 32

theorem witness_EngineOperationsComplete :
    headOk 3 (some factored) (cmdBlock 3 []) [] = true ∧ headOk 4 (some factored) (cmdBlock 4 [(3, 1), (0x10, 8)]) (zeros 8) = true ∧
    headOk 5 (some factored) (cmdBlock 5 [(3, 1), (0x10, 8)]) (zeros 8) = true ∧ headOk 6 (some dense1) (cmdBlock 6 [(3, 2)]) [] = true ∧
    headOk 7 (some quadratic) (cmdBlock 7 []) [] = true ∧ headOk 8 (some quadratic) (cmdBlock 8 []) [] = true ∧
    (headOk 1 none (cmdBlock 1 [(0x10, 136)]) denseBytes = true ∧
      ((parseStruct denseBytes).all fun st => ({ Engine.init with bankCount := 1 } : Engine).loadShort st == 0) = true ∧
      (parseStruct denseBytes).isSome = true) ∧
    (headOk 2 (some dense1) (cmdBlock 2 [(0x10, 32)]) deltaBytes = true ∧ (dense1.delta deltaBytes).isSome = true) ∧
    headOk 9 (some dense1) (blockOf 9 []) [] = true := by
  decide +kernel

/-- A firmware command without a reply owed whose engine cycles are over, and engine 15 with a command at the end of its write-back. -/
def finished : ACmd := { ACmd.fresh (blockOf 3 []) none 1 [] 0 1 with done := true }
def writtenBack (c : ACmd) : State := { withHull hull1 with aus := [(15, { Engine.init with phase := 3, queue := [c] })] }

theorem witness_EngineRefusesEmptyHandlesAndWritesBack :
    (∀ op ∈ [2, 3, 4, 5, 6, 7, 8, 9], ((engined none (blockOf op []) []).ausHead 0 op).isSome = true ∧
      tfind ((engined none (blockOf op []) []).eng 0).structs 0 = none) ∧
    (∀ c ∈ [finished, { finished with tile := some 0 }, { finished with owed := some (pk []) }],
      let s := writtenBack c
      s.settled = s ∧ s.engineRuns 15 = true ∧ (s.eng 15).queue = [c] ∧ (s.eng 15).phase = 3 ∧ (s.eng 15).left = 0 ∧ (s.eng 15).settle = 0 ∧
        s.noHold) ∧
    (finished.tile = none ∧ finished.owed = none ∧ (∀ i ∈ blocksOf finished.outOff finished.output.length, (writtenBack finished).served 1 true i)) := by
  refine ⟨by decide, ?_, rfl, rfl, ?_⟩
  · intro c hc
    simp only [List.mem_cons, List.not_mem_nil, or_false] at hc
    rcases hc with rfl | rfl | rfl <;> exact ⟨rfl, by decide, rfl, rfl, rfl, rfl, noHold_of rfl⟩
  · rw [show blocksOf finished.outOff finished.output.length = [0] by decide]
    intro i hi
    obtain rfl := List.mem_singleton.mp hi
    exact ⟨1, 0, by decide, by decide, rfl, rfl⟩

/-- An iterate that never converges. -/
def iterate (n : Nat) : Iter Nat := ⟨n, 0, 0, 0, 0, false⟩

theorem witness_DeadlineBoundsTheSolverLoop :
    (∃ e, loopFrom (fun n => .ok (iterate (n + 1))) 3 10 4 2 3 0 0 0 (iterate 0) (iterate 0) = .ok e ∧ 0 < e.k ∧ e.status = 0x20 ∧
      e.cause = 1) ∧
    (∃ e, loopFrom (fun n => .ok (iterate (n + 1))) 1 0 4 2 1 0 0 0 (iterate 0) (iterate 0) = .ok e ∧ 0 < e.k ∧ e.cause = 2) := by
  refine ⟨⟨_, rfl, ?_⟩, ⟨_, rfl, ?_⟩⟩ <;> decide

/-! ## Hypotheses of the statements: ticks, checkpoints, time -/

def waitingLaunch : State := withHull { hull1 with prog := some { prog1 with state := 2 }, armed := true }

/-- Hull 1 at the start of its program, whose log holds the records of the steps given, with that stop pending. -/
def startHull (undrained : List Nat) (stops : List (Bool × Cmd)) : Hull :=
  { hull1 with prog := some { prog1 with image := { img1 with ckptAreas := some (0, 0, 0) }, between := 2, undrained := undrained, stops := stops } }

/-- The verdict of a step that is not applied. -/
def skip : Verdict := { sum := 0, vflags := 0, requests := 0, skipped := true, cause := 1, step := 0 }

/-- Tile 0 at its marker or not, one period after the tick began, with the program as given. -/
def atMarkerOf (eot : Bool) (p : Prog) : State :=
  { withTile { tile1 with eot := eot } with
    hulls := [(1, { hull1 with prog := some p })]
    time := { ready.time with gtc := 1000000 } }

/-- The program in a tick of its step, without or with its verdict, which is to skip. -/
def inTick (tick : Nat) : Prog := { prog1 with tickInStep := tick, image := { img1 with eager := true }, verdict := some skip }

theorem witness_TicksBeginAndStepsRollBack :
    ((waitingLaunch.hull 1).state = .running ∧ (waitingLaunch.hull 1).armed = true ∧
      (waitingLaunch.hull 1).launch ≤ waitingLaunch.time.gtc ∧ (waitingLaunch.hull 1).prog = some { prog1 with state := 2 }) ∧
    (∀ q ∈ [(startHull [] [], false, false), (startHull [4] [], false, true), (startHull [] [(true, pk [])], true, false)],
      let s := withHull q.1
      s.noHold ∧ s.settled = s ∧ (s.hull 1).state = .running ∧ (s.hull 1).free = true ∧ (s.hull 1).launch ≤ s.time.gtc ∧
        (s.hull 1).logFull = q.2.2 ∧ ((s.hull 1).prog.all fun p => p.state == 3 && p.between == 2 && (p.stops.any fun c => c.1) == q.2.1) = true) ∧
    (∀ q ∈ [(true, inTick 0), (true, inTick 1), (true, prog1), (true, { prog1 with tickInStep := 1 }), (false, prog1),
        (true, { prog1 with between := 1 }), (true, { prog1 with between := 1, evalRun := some (0, 2) }),
        (false, { prog1 with between := 1, evalRun := some (0, 2) })],
      let s := atMarkerOf q.1 q.2
      s.noHold ∧ s.settled = s ∧ (s.hull 1).prog = some q.2 ∧ (s.hull 1).state = .running ∧ q.2.state = 3 ∧ (s.hull 1).free = true ∧
        (q.2.stops.any fun c => c.1) = false ∧ q.2.between ≠ 2 ∧ (s.hull 1).tickStart + 1000 * s.periodUs ≤ s.time.gtc ∧ s.markersDone 1 = q.1) ∧
    ((inTick 0).tickInStep + 1 < (inTick 0).ticks ∧ (inTick 1).ticks ≤ (inTick 1).tickInStep + 1 ∧
      (atMarkerOf true (inTick 1)).boundaryReady 1 = false ∧ (atMarkerOf true { prog1 with tickInStep := 1 }).boundaryReady 1 = true) ∧
    (let s := atMarkerOf true (inTick 1)
     (s.hull 1).verdict = some skip ∧ (inTick 1).image.eager = true ∧ skip.skipped = true ∧ (inTick 1).rollback = false ∧ s.updatesDone 1 = true) := by
  refine ⟨by decide, ?_, ?_, by decide, by decide⟩
  · intro q hq
    simp only [List.mem_cons, List.not_mem_nil, or_false] at hq
    rcases hq with rfl | rfl | rfl <;> exact ⟨noHold_of rfl, rfl, by decide⟩
  · intro q hq
    simp only [List.mem_cons, List.not_mem_nil, or_false] at hq
    rcases hq with rfl | rfl | rfl | rfl | rfl | rfl | rfl | rfl <;> exact ⟨noHold_of rfl, rfl, rfl, by decide⟩

/-- A checkpoint in extraction of a program without persistent tensors, and one with, whose first block fails its check. -/
def extracting : Ckpt := { Ckpt.init with state := 2, full := true, step := 3 }
def noState : Prog := { prog1 with image := { img1 with tensors := [tenA] } }

/-- A target descriptor at window offset 0 whose limit is all ones. -/
def target : Blk := { husk := huskOf (getBytes ((upFrom 0x28 8).map fun a => (a, 0xFF)) 0 4096) 1, data := (upFrom 0x28 8).map fun a => (a, 0xFF) }

def cut : State :=
  { withHull { hull1 with prog := some noState, ckpt := extracting } with mem := { ready.mem with b := [(4186112, target)] } }
def cutBad : State :=
  { withHull { hull1 with ckpt := extracting } with mem := { ready.mem with b := [(4186112, { Blk.unwritten with data := [(0, 1)] })] } }

/-- A checkpoint in its drain. -/
def draining : Ckpt := { Ckpt.init with state := 3, sent := 2, object := zeros 70000, lastAckGtc := 0 }
def drained (k : Ckpt) : State := { withHull { hull1 with ckpt := k } with time := { ready.time with gtc := 10000000000 } }

theorem cut_block : cut.blk true (blkPer true * 1 + 0) = target := rfl

theorem target_passes : target.check none = .pass := Blk.check_husk _ 1 (by decide) (by decide)

/-- The bytes of a block that a table holds. -/
theorem payload_take (d : Tbl Byte) (w : Word) {n : Nat} (h : n ≤ 4096) : ((Blk.mk w d).payload.drop (0 % 4096)).take n = getBytes d 0 n := by
  obtain ⟨k, hk⟩ := Nat.le.dest h
  rw [Nat.zero_mod, List.drop_zero, Blk.payload, ← hk, getBytes_take]

/-- A window read within the first block of hull 1's window in tier B, on a unit that serves it. -/
theorem windowRead_first {s : State} {w : Word} {d : Tbl Byte} (src n : Nat) (hm : s.mem.meets = []) (hn : blocksOf 0 n = [0]) (hl : n ≤ 4096)
    (hs : s.servesAt 1 true 0 1 0) (hb : s.blk true (blkPer true * 1 + 0) = Blk.mk w d) (hc : (Blk.mk w d).check none = .pass)
    (hd : (s.hull 1).dbg = 0) : s.windowRead src 1 true 0 n = (s, some (getBytes d 0 n)) := by
  rw [State.windowRead_one hm hn hs (by rw [hb]; exact hc) (.inr hd), hb, payload_take d w hl]

/-- The same of a command's window: clean, and its bytes. -/
theorem window_first {s : State} {w : Word} {d : Tbl Byte} (n : Nat) (hm : s.mem.meets = []) (hn : blocksOf 0 n = [0]) (hl : n ≤ 4096)
    (hs : s.servesAt 1 true 0 1 0) (hb : s.blk true (blkPer true * 1 + 0) = Blk.mk w d) (hc : (Blk.mk w d).check none = .pass)
    (hd : (s.hull 1).dbg = 0) : s.windowClean 1 0 n ∧ s.windowBytes 1 0 n = getBytes d 0 n := by
  refine ⟨fun i hi => ?_, ?_⟩
  · rw [hn, List.mem_singleton] at hi
    subst hi
    exact ⟨1, 0, hs, by rw [hb]; exact hc, .inr hd⟩
  · rw [State.windowBytes, windowRead_first _ n hm hn hl hs hb hc hd]
    rfl

theorem cut_target : cut.windowRead 0x0600 1 true 0 48 = (cut, some (getBytes target.data 0 48)) :=
  windowRead_first _ _ rfl (by decide) (by decide) ⟨by decide, by decide, rfl, rfl⟩ cut_block target_passes rfl

theorem target_limit : fieldLe (getBytes target.data 0 48) 0x28 8 = 2 ^ 64 - 1 := by decide

theorem cut_object_length (recs : List (List Byte)) (h : recs = []) :
    (objParts (cut.hull 1) 1 noState extracting [] recs).bytes.length ≤ 2 ^ 64 - 1 := by
  subst h
  have ht : (objParts (cut.hull 1) 1 noState extracting [] []).tensors = [] := by decide
  have hr : (objParts (cut.hull 1) 1 noState extracting [] []).records = [] := rfl
  generalize objParts (cut.hull 1) 1 noState extracting [] [] = o at ht hr
  unfold ObjParts.bytes
  simp only [ht, hr, ObjParts.table, List.flatMap_nil, List.length_append, List.length_nil, List.flatten_nil]
  have p := fun l => padBlock_length_le l
  refine Nat.le_trans (Nat.add_le_add (Nat.add_le_add (Nat.add_le_add (Nat.add_le_add (Nat.add_le_add
    (Nat.add_le_add (p _) (p _)) (Nat.le_refl _)) (Nat.le_refl _)) (p _)) (p _)) (p _)) ?_
  simp only [List.length_append, natLe_length, zeros_length, List.length_nil]
  have hs := sha256Bytes_length_le
  refine Nat.le_trans (Nat.add_le_add_left (Nat.add_le_add_right (Nat.add_le_add_left (hs _) _) _) _) ?_
  decide

theorem witness_CheckpointDrainCompletes :
    (cut.settled = cut ∧ cut.noHold ∧ (cut.hull 1).prog = some noState ∧ (cut.hull 1).ckpt.state = 2 ∧ cut.drainClear 1 = cut ∧
      State.extractAll 1 noState true [] (noState.blocks noState.persistent) cut [] = (cut, some []) ∧ noState.undrained = [] ∧
      cut.readRecords 1 noState [] = (cut, some []) ∧ (cut.windowRead 0x0600 1 true extracting.target 48).1 = cut ∧
      ∃ target, (cut.windowRead 0x0600 1 true extracting.target 48).2 = some target ∧
        (objParts (cut.hull 1) 1 noState extracting [] []).bytes.length ≤ fieldLe target 0x28 8) ∧
    (cutBad.settled = cutBad ∧ cutBad.noHold ∧ (cutBad.hull 1).prog = some prog1 ∧ (cutBad.hull 1).ckpt.state = 2 ∧
      (State.extractAll 1 prog1 true [] (prog1.blocks prog1.persistent) (cutBad.drainClear 1) []).2 = none) ∧
    (((drained { draining with trailer := true }).hull 1).ckpt.state = 3 ∧
      ((drained { draining with trailer := true }).hull 1).ckpt.trailer = true) ∧
    ((drained draining).hull 1).ckpt.state = 3 ∧ 1 < draining.sent ∧ draining.acked.contains 1 = false ∧ 1 ≠ 2 ∧
    (drained draining).time.gtc - ((drained draining).hull 1).ckpt.lastAckGtc ≥ 10000000000 ∧ 1 < 2 := by
  refine ⟨⟨rfl, noHold_of rfl, rfl, rfl, rfl, rfl, rfl, rfl, congrArg Prod.fst cut_target, _, congrArg Prod.snd cut_target, ?_⟩,
    ⟨rfl, noHold_of rfl, rfl, rfl, by decide⟩, by decide, by decide, by decide, by decide, by decide, by decide, by decide⟩
  rw [target_limit]
  exact cut_object_length [] rfl

/-- The device in service with a time block. -/
def timed (t : TimeS) : State := { ready with time := t }
def time1 : TimeS := State.reset.time

/-- A plan whose TIME_UP is neighbour 0, at level 1, over an UP bundle. -/
def plan1 : Plan :=
  { root := false, fid := 7, timeUp := 0, timeAlt := 0xFF, planId := 1, bundles := [], neighbours := [(9, 1, 0), (11, 3, 0)], routes := [] }
def planned (t : TimeS) : State :=
  { timed t with jv := { ready.jv with
      plan := some plan1
      bundles := [(0, { Bundle.init with state := .up, width := 4, lanes := 0xF, neighbour := 0, owner := 1, credits := [384, 256, 64, 64] })] } }

theorem witness_TimeAndThrottleFollowTheirInputs :
    (ready.blockOpen 0x010008 = true ∧ ready.time.align = .unset ∧ ready.time.gtc ≤ (0 : Word).toNat ∧
      (timed { time1 with align := .holdover }).time.align = .holdover ∧ (timed { time1 with align := .locked }).time.align = .locked) ∧
    ((planned time1).timeSource = some 0 ∧ (20 : Int).natAbs ≤ (planned time1).timeBound 0 ∧
      (planned time1).timeBound 0 < (-21 : Int).natAbs ∧
      (planned { time1 with align := .coarse, good := 15 }).time.align = .coarse ∧ (0 : Int) ≤ 0 ∧ 16 ≤ 15 + 1 ∧ (-1 : Int) < 0) ∧
    ((timed { time1 with align := .locked, gtc := 1000000 }).isTimeRoot = false ∧ 1000000 ≤ 1000000 - time1.lastMsg) ∧
    1000000 * max 1 ((timed { time1 with align := .holdover, gtc := 60000000001 }).regF 0x010018 31 16) < 60000000001 - time1.holdStart ∧
    (ready.blockOpen 0x010020 = true ∧ periodOk ((10000 : Word).toNat % 2 ^ 14) = true ∧ periodOk ((55 : Word).toNat % 2 ^ 14) = false ∧
      (hullNos.any fun h => (ready.hull h).state == .running || (ready.hull h).state == .draining) = false ∧
      (withHull hull1).blockOpen 0x010020 = true ∧ ((withHull hull1).hull 1).state = .running) ∧
    ((planned { time1 with align := .locked }).jv.plan = some plan1) ∧
    (2 < 3 ∧ ready.rst.dev ≠ .cold ∧ throttleFor ready.board.throttle (ready.setTj 2 104).board.tj.toNat = ready.board.throttle ∧
      throttleFor ready.board.throttle (ready.setTj 2 105).board.tj.toNat ≠ ready.board.throttle ∧
      ready.board.throttleGtc.all (fun g => !decide (ready.time.gtc - g < 1000000)) = true) := by
  decide

/-! ## Hypotheses of the statements: links and collectives -/

/-- A flit of a type and SEQ with a sound CRC. -/
def flit (type seq : Nat) : Flit :=
  { bytes := natLe 2 (4096 * type + seq) ++ zeros 250, crc := crc32c (natLe 2 (4096 * type + seq) ++ zeros 250), fecCorrected := 0,
    uncorrectable := false, nak := none, credits := [] }

/-- A message of a class for hull 1 of this module. -/
def msg (cls : Nat) (tag : Word) (body : List Byte) : Msg :=
  { dstFid := 7, srcFid := 9, cls := cls, dstHull := 1, hops := 0, e2e := 3, pgen := 0, tag := tag, body := body }

/-- A bundle with two flits that wait for their acknowledgement, and a CONTROL flit that names the second. -/
def unacked : State :=
  { planned time1 with jv := { (planned time1).jv with
      bundles := [(0, { (planned time1).bundle 0 with retry := [0, 1], txSeq := 2 })] } }
def control (nak : Option (BitVec 12)) : Flit := { flit 2 0 with nak := nak, credits := [1, 0, 0, 0] }

theorem witness_FlitsAndMessagesAreTakenInOrder :
    ((planned time1).bundle 0).state = .up ∧
    ((flit 1 0).bytes.length = 252 ∧ (flit 1 0).crc = crc32c (flit 1 0).bytes ∧ (flit 1 0).uncorrectable = false ∧
      flitType (flit 1 0) = 1 ∧ flitSeq (flit 1 0) = ((planned time1).bundle 0).rxSeq ∧ flitSeq (flit 1 4095) ≠ ((planned time1).bundle 0).rxSeq ∧
      (flit 0 0).bytes.length = 252 ∧ (flit 0 0).crc = crc32c (flit 0 0).bytes ∧ flitType (flit 0 0) = 0 ∧
      ({ flit 1 0 with bytes := [] } : Flit).bytes.length ≠ 252) ∧
    ((control none).bytes.length = 252 ∧ (control none).crc = crc32c (control none).bytes ∧ flitType (control none) = 2 ∧
      (unacked.bundle 0).state = .up ∧ ((unacked.bundle 0).acked (flitAck (control none))).replayOf (control none) = [] ∧
      ((unacked.bundle 0).acked (flitAck (control (some 1)))).replayOf (control (some 1)) ≠ []) ∧
    ((msg 0 0 []).body.length ≤ 69632 ∧ (msg 3 0 []).cls < 4 ∧ (planned time1).rst.dev ≠ .recovering ∧
      ((planned time1).bundle 0).owner = (msg 0 0 []).dstHull ∧
      (msg 0 0 []).dstFid = (planned time1).fid ∧ (planned time1).delivered (msg 0 0 []) = false ∧
      (msg 0 0 []).pgen = ((planned time1).hull 1).pgen ∧ ({ msg 0 0 [] with pgen := 1 } : Msg).pgen ≠ ((planned time1).hull 1).pgen ∧
      ({ planned time1 with jv := { (planned time1).jv with seen := [(9, 0, 3)] } } : State).delivered (msg 0 0 []) = true) := by
  refine ⟨by decide, ⟨by simp [flit], rfl, by decide, by decide, by decide, by decide, by simp [flit], rfl, by decide, by decide⟩,
    ⟨by simp [control, flit], rfl, by decide, by decide, by decide, by decide⟩, ?_⟩
  decide

def bundled (x : Bundle) : State :=
  { timed { time1 with gtc := 1000000000 } with jv := { ready.jv with
      plan := some plan1
      bundles := [(35, { x with neighbour := 0 })] } }

theorem witness_BundleStatesChange :
    (((bundled { Bundle.init with state := .down }).bundle 35).state = .down ∧
      1000000000 ≤ (bundled { Bundle.init with state := .down }).time.gtc - 0) ∧
    (((bundled { Bundle.init with state := .up, msReplays := 1000, lanes := 8 }).bundle 35).state = .up ∧
      (bundled Bundle.init).replayMax < 1000 ∧ (8 : BitVec 4).getLsbD 3 = true) ∧
    (((bundled { Bundle.init with state := .training }).bundle 35).state = .training ∧
      (bundled { Bundle.init with state := .training }).jv.plan = some plan1 ∧
      ((9 : BitVec 24) = (plan1.neighbours.getD 0 (0, 0, 0)).1 ∧ (trainedLanes 15).1 ≠ 0 ∧ 1 ≤ (trainedLanes 15).1 ∧ (trainedLanes 0).1 = 0 ∧
        (8 : BitVec 24) ≠ (plan1.neighbours.getD 0 (0, 0, 0)).1)) ∧
    (bundled Bundle.init).blockOpen 0x0A0018 = true := by
  decide

/-- An operation of group 3, which defers into tensor 2. -/
def collOp (kind : Nat) : CollDecl :=
  { op := 1, group := 3, kind := kind, fmt := 0, startId := 3, src := 1, dst := 2, bytes := 4096, doneId := 4, startAmount := 1, defer := 2 }

/-- Group 3 of hull 1, of three members in a ring, this module at a position. -/
def group3 (me : Nat) : Group :=
  { Group.init with
    state := 2, hull := 1, policy := 1, members := 3, myPos := me, n1 := 3, n2 := 1, n3 := 1, chunkLog2 := 12, share := 1,
    roster := [(0, 7, 0), (1, 9, 1), (2, 11, 2)] }

/-- A program with that operation, and its run. -/
def collProg (kind : Nat) (runs : List OpRun) : Prog :=
  { prog1 with image := { img1 with coll := [collOp kind] }, ops := runs }

/-- That program with group 3 as given. -/
def collWith (p : Prog) (g : Group) (inbox : List Msg) : State :=
  { withHull { hull1 with prog := some p } with
    groups := [(3, g)], sync := [(3, counter)], jv := { ready.jv with inbox := inbox }
    time := { ready.time with gtc := 3000000 } }

def collState (kind me : Nat) (runs : List OpRun) (inbox : List Msg) : State := collWith (collProg kind runs) (group3 me) inbox

def ctx (kind me : Nat) : CCtx := { h := 1, g := group3 me, gid := 3, e := collOp kind, step := 0, lost := [] }

/-- Hull 1's window on tier B begins with a block that was never written. -/
theorem coll_clean (p : Prog) (g : Group) (inbox : List Msg) : ∀ i ∈ [0], (collWith p g inbox).clean 1 true 0 1 i :=
  FreshB.clean ⟨⟨rfl, assigned_at (u := .b 1) rfl (by decide), rfl, rfl⟩, rfl, rfl⟩ 1

theorem coll_cleanRange {p : Prog} {g : Group} {inbox : List Msg} (h : p.memPlace 1 = some (true, 0)) :
    (collWith p g inbox).cleanRange 1 p 1 0 4096 := by
  refine ⟨true, 0, h, ?_⟩
  rw [show blocksOf 0 4096 = [0] by decide]
  exact coll_clean p g inbox

/-- The first block of tensor 2, in tier A. -/
theorem coll_deferRange {p : Prog} {g : Group} {inbox : List Msg} (h : p.memPlace 2 = some (false, 0)) :
    (collWith p g inbox).cleanRange 1 p 2 0 4096 := by
  refine ⟨false, 0, h, ?_⟩
  rw [show blocksOf 0 4096 = [0] by decide]
  intro i hi
  obtain rfl := List.mem_singleton.mp hi
  exact clean_at (u := 0) (row := 0) ⟨rfl, assigned_at (u := .a 0) rfl (by decide), rfl, rfl⟩ rfl rfl

/-- A block that is written and passes its check lies clean in tensor 2's place. -/
theorem put_clean {p : Prog} {g : Group} {sync : Tbl SyncObj} {b : Blk} (hu : b.isUnwritten = false)
    (hc : b.check (some (huskTag 2 0)) = .pass) :
    let v := State.putBlk { collWith p g [] with sync := sync } false 0 b
    v.clean 1 false 0 2 0 ∧ v.mem.meets = [] ∧ v.mem.lost = false := by
  have hne : b ≠ Blk.unwritten := fun h => by
    rw [h] at hu
    exact absurd hu (by decide)
  have ht : tset Blk.unwritten ([] : Tbl Blk) 0 b = [(0, b)] := by
    unfold tset
    rw [if_neg hne]
    rfl
  have hv : State.putBlk { collWith p g [] with sync := sync } false 0 b =
      { collWith p g [] with sync := sync, mem := { ready.mem with a := tset Blk.unwritten [] 0 b } } := rfl
  rw [hv, ht]
  exact ⟨⟨0, 0, ⟨rfl, assigned_at (u := .a 0) rfl (by decide), rfl, rfl⟩, hc, .inr rfl⟩, rfl, rfl⟩

/-- A contribution written to tensor 2 can be read there. -/
theorem deferred_reads (p : Prog) (hp : p.memPlace 2 = some (false, 0)) (g : Group) (data : List Byte) (hl : data.length = 4096) (sync : Tbl SyncObj) :
    (State.collTake (State.collWrite { collWith p g [] with sync := sync } 1 2 0 data) 1 p 2 0 4096).2 ≠ none := by
  have hs : State.servesAt { collWith p g [] with sync := sync } 1 false 0 0 0 :=
    ⟨rfl, assigned_at (u := .a 0) rfl (by decide), rfl, rfl⟩
  have hm := Blk.merged_passes (State.blk { collWith p g [] with sync := sync } false (blkPer false * 0 + 0)) (huskTag 2 0) 0 data
    (by decide) (by decide)
  have hk := put_clean (p := p) (g := g) (sync := sync) hm.1 hm.2
  have hb : blocksOf 0 4096 = [0] := by decide
  have hpr : (State.hull { collWith p g [] with sync := sync } 1).prog.bind (fun p => p.memPlace 2) = some (false, 0) := hp
  have hf : (State.hull { collWith p g [] with sync := sync } 1).find false 0 = some (0, 0) := rfl
  have ha := State.access_served (s := { collWith p g [] with sync := sync }) rfl hs true true
  generalize { collWith p g [] with sync := sync } = s at hs hm hk hpr hf ha ⊢
  have ht : (data.drop (max 0 (4096 * 0) - 0)).take (min (0 + 4096) (4096 * (0 + 1)) - max 0 (4096 * 0)) = data := by
    rw [show max 0 (4096 * 0) - 0 = 0 from rfl, List.drop_zero]
    exact List.take_of_length_le (by rw [hl]; decide)
  have hw : s.collWrite 1 2 0 data = s.putBlk false 0 ((s.blk false (blkPer false * 0 + 0)).merged (huskTag 2 0) 0 data) := by
    unfold State.collWrite
    simp only [hpr, State.writeRange, hl, hb, List.foldl_cons, List.foldl_nil, ht, State.writePart, State.storeBlk, Nat.zero_div, Nat.zero_add, hf,
      beq_self_eq_true, ha]
    rw [State.stopIfLost]
    simp only [Nat.mul_zero, Nat.add_zero, Nat.max_self, Nat.sub_self] at hk ⊢
    rw [if_neg (by rw [hk.2.2]; decide)]
  have hr := State.readRange_clean (s := s.collWrite 1 2 0 data) (hull := 1) (tierB := false) (base := 0) (tensor := 2) (off := 0)
    (len := 4096) (by rw [hw]; exact hk.2.1) (by rw [hb, hw]; intro i hi; rw [List.mem_singleton.mp hi]; exact hk.1)
  unfold State.collTake State.collRead
  simp only [hp]
  rw [hr.2]
  exact Option.some_ne_none _

/-- A record of the exact operation from a position. -/
def record (pos : Nat) : ExactRecord :=
  { group := 3, op := 1, step := 0, pos := pos, heir := false, sums := [], flags := [], requests := 0 }

/-- A chunk without blocks, and one whose one block carries a husk of no tag. -/
def emptyChunk (epoch : Byte) : Msg := msg 0 (BitVec.ofNat 64 (3 + 4096)) (getBytes [(14, epoch)] 0 32)
def badChunk : Msg := msg 0 (BitVec.ofNat 64 (3 + 4096)) (zeros 4136)

/-- A chunk of one block whose husk reads 0 fails its check: its tag is not the block's. -/
theorem chunk_without_husk (body : List Byte) (hl : body.length = 4136) (hz : Machine.fieldLe body 4096 8 = 0) :
    (chunkBad (ctx 1 0) (readChunk (msg 0 (BitVec.ofNat 64 (3 + 4096)) body))).isSome = true := by
  have hn : (readChunk (msg 0 (BitVec.ofNat 64 (3 + 4096)) body)).husks = [BitVec.ofNat 64 (Machine.fieldLe body 4096 8)] := by
    simp only [readChunk, msg, hl, show (4136 - 32) / 4104 = 1 from by decide, upFrom, List.map_cons, List.map_nil, Nat.mul_zero, Nat.mul_one,
      Nat.add_zero]
  generalize hq : readChunk (msg 0 (BitVec.ofNat 64 (3 + 4096)) body) = q at hn
  have h1 : q.chunk.piece = 0 := by rw [← hq]; simp only [readChunk, msg]; decide
  have h2 : q.chunk.chunk = 0 := by rw [← hq]; simp only [readChunk, msg]; decide
  clear hq
  have ht : huskTag (ctx 1 0).e.dst ((ctx 1 0).firstBlock q.chunk.piece + q.chunk.chunk * (ctx 1 0).chunk / 4096 + 0) = 2 := by
    rw [h1, h2]
    decide
  have key : ∀ (w got : Word) (ix : Nat), w ≠ got →
      (if w.toNat % 2 ^ 32 ≠ got.toNat % 2 ^ 32 then some (ix, Check.fail 1 w got)
        else if w ≠ got then some (ix, Check.fail 2 w got) else none).isSome = true := by
    intro w got ix hne
    split <;> rfl
  unfold chunkBad
  refine List.findSome?_isSome_iff.mpr ⟨0, by rw [hn]; exact List.mem_cons_self, key _ _ _ ?_⟩
  rw [ht, hn]
  intro hw
  have h := huskOf_tag (slice q.chunk.payload (4096 * 0) 4096) 2 (by decide)
  rw [hw, hz] at h
  revert h
  decide

theorem badChunk_bad : (chunkBad (ctx 1 0) (readChunk badChunk)).isSome = true := by
  refine chunk_without_husk (zeros 4136) (zeros_length 4136) ?_
  have h : slice (zeros 4136) 4096 8 = zeros 8 := by
    simp only [slice, zeros, List.drop_replicate, List.take_replicate, List.length_replicate]
    rfl
  rw [Machine.fieldLe, h]
  decide

/-- A last chunk of an EMPTY partial, whose digest is not that of its piece. -/
def lastChunk : Msg := msg 0 (BitVec.ofNat 64 (3 + 4096 + 2 ^ 60 + 2 ^ 61)) (getBytes [(0, 1)] 0 32)

/-- The operation's run decided as deferred, and group 3 with its member lost. -/
def deferredRun : OpRun := { OpRun.fresh 1 0 with decided := some 1 }
def deferredProg (p : Prog) : Prog := { p with deferred := [(1, 3, 0)] }
def groupLost (me lost : Nat) : Group := { group3 me with lost := [(lost, 1, 0)] }

theorem witness_CollectiveOperationsTakeTheirInputs :
    (∀ kind ∈ [1, 6], ∀ me ∈ [0, 1], (collState kind me [] []).cctx 1 1 = some (ctx kind me) ∧ (collState kind me [] []).noHold ∧
      (collState kind me [] []).settled = collState kind me [] []) ∧
    ((collState 1 0 [] []).hull 1).prog = some (collProg 1 []) ∧ ((collState 1 0 [] []).hull 1).state = .running ∧
    (((collState 1 0 [] []).opRun 1 1).starts = 0 ∧ (collOp 1).kind ≠ ckRotate ∧ (ctx 1 0).g.state = 2 ∧ (ctx 1 0).g.hull = 1 ∧
      tfind (collState 1 0 [] []).sync 3 = some counter ∧ counter.kind = 0 ∧ counter.hull = 1 ∧ counter.waiters = [] ∧
      (collOp 1).startAmount ≤ counter.value) ∧
    (∀ runs ∈ [[], [deferredRun]], ∀ p ∈ [collProg 1 runs, deferredProg (collProg 1 runs)],
      let s := collWith p (group3 0) []
      s.cctx 1 1 = some (ctx 1 0) ∧ s.cleanRange 1 p 1 0 4096 ∧ s.cleanRange 1 p 2 0 4096 ∧
        s.decidedOf (ctx 1 0) (s.opRun 1 1) = (if runs = [] then none else some 1)) ∧
    ((collState 1 0 [] []).deferredIn (ctx 1 0) 0 = false ∧ (collWith (deferredProg (collProg 1 [])) (group3 0) []).deferredIn (ctx 1 0) 0 = true ∧
      (collOp 1).defer ≠ 0 ∧
      (∀ data sync, data.length = 4096 →
        (State.collTake (State.collWrite { collWith (deferredProg (collProg 1 [deferredRun])) (group3 0) [] with sync := sync } 1 2 0 data) 1
          (deferredProg (collProg 1 [deferredRun])) 2 0 4096).2 ≠ none)) ∧
    (((ready.group 3).state ≠ 2) ∧
      ({ collState 1 0 [] [] with groups := [] } : State).cctx 1 1 = some { ctx 1 0 with g := Group.init }) ∧
    ((∀ e ∈ [(0 : Byte), 255], (emptyChunk e).cls = 0 ∧ (emptyChunk e).dstHull = 1 ∧ (emptyChunk e).body.length = 32 ∧
        (readChunk (emptyChunk e)).op = 1 ∧ (readChunk (emptyChunk e)).gid = 3 ∧ (readChunk (emptyChunk e)).epoch = e ∧
        (emptyChunk e).pgen = hull1.pgen ∧ chunkBad (ctx 1 0) (readChunk (emptyChunk e)) = none) ∧ newer 8 255 0 = false ∧
      ({ emptyChunk 0 with pgen := 1 } : Msg).pgen ≠ hull1.pgen ∧
      ((OpRun.fresh 1 0).received (readChunk (emptyChunk 0)).chunk 0).digestBad (ctx 1 0) (readChunk (emptyChunk 0)).chunk = false) ∧
    (lastChunk.cls = 0 ∧ lastChunk.dstHull = 1 ∧ lastChunk.body.length = 32 ∧ (readChunk lastChunk).op = 1 ∧ (readChunk lastChunk).gid = 3 ∧
      chunkBad (ctx 1 0) (readChunk lastChunk) = none ∧
      ((OpRun.fresh 1 0).received (readChunk lastChunk).chunk 3000000).digestBad (ctx 1 0) (readChunk lastChunk).chunk = true) ∧
    (badChunk.body.length = 4136 ∧ (chunkBad (ctx 1 0) (readChunk badChunk)).isSome = true) ∧
    ((ctx 6 1).me ≠ (ctx 6 1).root ∧ (record 0).pos = (ctx 6 1).parent 1 ∧ (record 2).pos ≠ (ctx 6 1).parent 1 ∧ (record 2).step = 0 ∧
      (((collState 6 0 [{ OpRun.fresh 1 0 with records := [record 2] }] []).opRun 1 1).records.any
        fun k => k.pos == (record 2).pos && k.heir == (record 2).heir) = true ∧
      (((collState 6 0 [] []).opRun 1 1).records.any fun k => k.pos == (record 2).pos && k.heir == (record 2).heir) = false) ∧
    (let c := { ctx 6 1 with g := groupLost 1 1, lost := [1] }
     (collWith (collProg 6 []) (groupLost 1 1) []).cctx 1 1 = some c ∧ c.alive c.me = false ∧ c.posOf (c.heirOf c.me) = some (record 1).pos ∧
       c.posOf (c.heirOf c.me) ≠ some (record 0).pos) := by
  refine ⟨?_, by decide, by decide, ⟨by decide, by decide, by decide, by decide, by decide, by decide, by decide, by decide, by decide⟩, ?_,
    ⟨by decide, by decide, by decide, fun data sync hl => deferred_reads _ rfl _ data hl sync⟩, ⟨by decide, rfl⟩, by decide, by decide,
    ⟨zeros_length 4136, badChunk_bad⟩, by decide, ⟨rfl, by decide, by decide, by decide⟩⟩
  · intro kind hk me hm
    simp only [List.mem_cons, List.not_mem_nil, or_false] at hk hm
    rcases hk with rfl | rfl <;> rcases hm with rfl | rfl <;> exact ⟨rfl, noHold_of rfl, rfl⟩
  · intro runs hr p hp
    simp only [List.mem_cons, List.not_mem_nil, or_false] at hr hp
    rcases hr with rfl | rfl <;> rcases hp with rfl | rfl <;> exact ⟨rfl, coll_cleanRange rfl, coll_deferRange rfl, by decide⟩

/-- A decision of step 0 about a position, with an EPOCH. -/
def decision (pos epoch : Nat) : Decision := { group := 3, op := 1, step := 0, epoch := epoch, pos := pos, kinds := [1] }

theorem witness_LateAndLostMembersAreDecided :
    (let r := { OpRun.fresh 1 0 with firstMsgGtc := some 0 }
     let s := collState 1 1 [r] []
     s.noHold ∧ s.settled = s ∧ s.cctx 1 1 = some (ctx 1 1) ∧ (s.hull 1).prog = some (collProg 1 [r]) ∧ (s.hull 1).state = .running ∧
       (collProg 1 [r]).isReplay = false ∧ (ctx 1 1).g.policy ≠ 0 ∧ (ctx 1 1).e.kind = ckAllReduce ∧
       (s.opRun 1 1).starts = 0 ∧ (s.opRun 1 1).decided = none ∧ (s.opRun 1 1).firstMsgGtc = some 0 ∧
       1000 * (ctx 1 1).g.lateUs ≤ s.time.gtc - 0) ∧
    ((ctx 1 1).alive (decision 2 0).pos = true ∧ (decision 2 0).epoch = (ctx 1 1).g.epoch.toNat ∧
      (decision 2 255).epoch ≠ (ctx 1 1).g.epoch.toNat ∧ newer 8 (decision 2 255).epoch (ctx 1 1).g.epoch.toNat = false ∧
      CCtx.alive { ctx 1 1 with g := groupLost 1 2, lost := [2] } (decision 2 0).pos = false) ∧
    (let r := { OpRun.fresh 1 0 with starts := 1, openGtc := 0 }
     let s := collState 1 1 [r] []
     s.openOp 1 3 = some (ctx 1 1) ∧ (ctx 1 1).neighbours.contains 2 = true ∧
       1000 * s.regF 0x0B0010 27 16 ≤ s.time.gtc - max (tget 0 (ctx 1 1).g.heard 2) (s.opRun 1 1).openGtc ∧
       s.inReplay 1 = false ∧ (ctx 1 1).me ≠ treeRoot (ctx 1 1).n [2] ∧ (ctx 1 0).me = treeRoot (ctx 1 0).n [2]) := by
  refine ⟨⟨noHold_of rfl, rfl, rfl, ?_⟩, by decide, ⟨rfl, ?_⟩⟩ <;> decide

/-- Twin copies: an owner that onboards with no layer copied, and a twin role. -/
def shardDecl : ShardDecl := { id := 1, owner := 0, tensors := [1], elemFmt := 0, layout := 0, shape := [], origin := [], extent := [], matrix := none }
def onboarding : ShardS :=
  { id := 1, owner := true, state := .onboarding, mismatches := 0, layersCopied := 0, copiedStep := 0, own := none, peer := none }
def twinProg (twinOnly : Bool) : Prog :=
  { prog1 with image := { img1 with shards := [shardDecl] }, shards := [onboarding, { onboarding with owner := false }], twinOnly := twinOnly }

/-- A feed of one block of zeros of tensor 1, with its husk. -/
def feedBody : List Byte := zeros 4096 ++ natLe 8 (huskOf (zeros 4096) (huskTag 1 0)).toNat

theorem feedBody_ok : ∀ i, i < 1 → huskOf (slice (feedBody.take (4096 * 1)) (4096 * i) 4096) (huskTag 1 (0 + i)) =
    BitVec.ofNat 64 (fieldLe feedBody (4096 * 1 + 8 * i) 8) := by
  intro i hi
  obtain rfl : i = 0 := by omega
  have h1 : slice (feedBody.take (4096 * 1)) (4096 * 0) 4096 = zeros 4096 := by
    have ht : feedBody.take (4096 * 1) = zeros 4096 := by
      rw [feedBody]
      exact List.take_left' (zeros_length 4096)
    have h := slice_append_left (zeros 4096) []
    rw [zeros_length, List.append_nil] at h
    rw [ht]
    exact h
  have h2 : slice feedBody (4096 * 1 + 8 * 0) 8 = natLe 8 (huskOf (zeros 4096) (huskTag 1 0)).toNat := by
    have h := slice_append_right (zeros 4096) (natLe 8 (huskOf (zeros 4096) (huskTag 1 0)).toNat)
    rw [zeros_length, natLe_length] at h
    exact h
  rw [h1, Machine.fieldLe, h2, leNat_natLe 8 _ (BitVec.isLt _)]
  simp

theorem witness_ReformsAndTwinsTakeEffect :
    (∀ me ∈ [0, 1],
      let s := collState 1 me [] []
      s.noHold ∧ s.settled = s ∧ (s.hull 1).prog = some (collProg 1 []) ∧ (s.hull 1).state = .running ∧ (collProg 1 []).isReplay = false ∧
       (((collProg 1 []).image.coll.filter fun e => e.group == 3).head?.bind fun e => s.cctx 1 e.op) = some (ctx 1 me) ∧
       ((ctx 1 me).g.lost.map fun l => l.1).contains 2 = false ∧ ((ctx 1 me).g.lost.map fun l => l.1).contains (ctx 1 me).me = false ∧
       (ctx 1 me).me ≠ 2 ∧ 2 < (ctx 1 me).n ∧
       (s.group 3).state = 2 ∧ (s.group 3).hull = 1 ∧ ((s.group 3).lost.any fun l => l.1 == 2) = false ∧ (s.group 3).myPos ≠ 2 ∧
       (s.group 3).myPos = me) ∧
    ((ctx 1 0).me = treeRoot (ctx 1 0).n (2 :: (ctx 1 0).g.lost.map fun l => l.1) ∧
      (ctx 1 1).me ≠ treeRoot (ctx 1 1).n (2 :: (ctx 1 1).g.lost.map fun l => l.1)) ∧
    (∀ twinOnly, let p := twinProg twinOnly
     let s := { withHull { hull1 with prog := some p } with jv := { ready.jv with inbox := [msg 1 1 feedBody] } }
     s.noHold ∧ s.settled = s ∧ (s.hull 1).prog = some p ∧ (s.hull 1).state = .running ∧ s.jv.inbox[0]? = some (msg 1 1 feedBody) ∧
       (msg 1 1 feedBody).cls = 1 ∧ (msg 1 1 feedBody).dstHull = 1 ∧ (msg 1 1 feedBody).pgen = (s.hull 1).pgen) ∧
    (∀ twinOnly, let p := twinProg twinOnly
     p.isTwinTensor 1 = true ∧
       p.copy 1 true = some onboarding ∧ (p.copy 1 false).isSome = true ∧ p.twinOnly = twinOnly ∧
       (ascending ((p.shards.filter fun q => q.state == .onboarding && decide (q.layersCopied < p.layers q.id)).map
         fun q => q.id)).head? = some 1 ∧
       ((p.shards.filter fun q => q.state == .onboarding && decide (q.layersCopied < p.layers q.id)).find?
         fun q => q.id == 1) = some onboarding ∧ p.shard 1 = some shardDecl ∧ p.rehomeStart ≤ hull1.step ∧
       p.copiedBytes = 0) ∧
    feedBody.length = 4104 ∧
    (∀ i, i < 1 → huskOf (slice (feedBody.take (4096 * 1)) (4096 * i) 4096) (huskTag 1 (0 + i)) =
      BitVec.ofNat 64 (fieldLe feedBody (4096 * 1 + 8 * i) 8)) := by
  refine ⟨?_, by decide, fun b => ⟨noHold_of rfl, rfl, rfl, rfl, rfl, rfl, rfl, rfl⟩, ?_, ?_, feedBody_ok⟩
  · intro me hm
    simp only [List.mem_cons, List.not_mem_nil, or_false] at hm
    rcases hm with rfl | rfl <;> exact ⟨noHold_of rfl, rfl, rfl, rfl, rfl, rfl, by decide⟩
  · intro b
    cases b <;> decide
  · rw [feedBody, List.length_append, zeros_length, natLe_length]

/-! ## Hypotheses of the statements: reclaims, probes, hang timers -/

/-- The reclaim of an empty grant, in a phase. -/
def reclaimIn (phase : Nat) : Reclaim :=
  { grant := { id := 0, pods := 0, unitsA := 0, unitsB := 0, spine := 0, nmu := 0, share := 0, syncCount := 0, lender := none }, forceMs := 100
    forceNow := false, gtc := 0, phase := phase, forced := false, stopped := false, removedA := [], removedB := [], removedPods := 0,
    removedSync := (0, 0), foldGtc := 0 }

/-- Hull 1 as given with that reclaim, 25 s after it began. -/
def reclaiming (x : Hull) (phase : Nat) : State :=
  { withHull { x with reclaims := [reclaimIn phase] } with time := { ready.time with gtc := 25000000000 } }

/-- A group of every member of the program's hull, this module at a position. -/
def worldState (me : Nat) : State := { withHull hull1 with groups := [(3, { group3 me with world := true })] }
def worldIn (me : Nat) : CCtx :=
  { h := 1, g := { group3 me with world := true }, gid := 3, step := 0, lost := [],
    e := { op := 0, group := 3, kind := 6, fmt := 0x11, startId := 0, src := 0, dst := 0, bytes := 64, doneId := 0, startAmount := 1,
           defer := 0 } }

theorem witness_ReclaimsRunTheirCourse :
    (∀ phase ∈ [1, 2, 3, 4], ((reclaiming hull1 phase).hull 1).reclaims = [reclaimIn phase]) ∧
    (hull1.state = .running ∧ hull1.foldForced = false ∧ hull1.holds.getLsbD 0 = false ∧ hull1.prog = some prog1 ∧
      (reclaimIn 1).gtc + 1000000 * (reclaimIn 1).forceMs ≤ (reclaiming hull1 1).time.gtc) ∧
    ((∀ phase ∈ [1, 2], (reclaiming hull1 phase).copyingIn 1 (reclaimIn phase) = false) ∧
      (reclaiming { hull1 with state := .granted } 1).copyingIn 1 (reclaimIn 1) = false ∧
      (reclaimIn 2).foldGtc + 1000000000 * (reclaiming hull1 2).regF 0x020010 20 16 ≤ (reclaiming hull1 2).time.gtc) ∧
    (let held := { hull1 with holds := 1 }
     let due := withHull { held with newPods := true }
     held.holds.getLsbD 0 = true ∧ due.foldDue 1 = true ∧ (due.hull 1).prog = some prog1 ∧ (due.hull 1).reclaims = [] ∧
       (due.hull 1).ckpt.state ≠ 2 ∧ due.foldTarget 1 prog1 = some (0, []) ∧ (withHull held).foldDue 1 = false) ∧
    (let s := withHull { hull1 with state := .draining }
     (s.hull 1).ckpt.state ≠ 2 ∧ (s.hull 1).ckpt.state ≠ 3 ∧
       ((s.podsOf 1).all fun p => (s.eng (2 * p)).queue.isEmpty && (s.eng (2 * p + 1)).queue.isEmpty) = true ∧ s.mem.mapout = none) ∧
    ((blkPer false - 1) / blkPer false = 0 ∧ blkPer false / blkPer false ≠ 0) ∧
    (∀ me ∈ [0, 1], (worldState me).worldCtx 1 = some (worldIn me)) ∧ (worldIn 0).me = (worldIn 0).root ∧ (worldIn 1).me ≠ (worldIn 1).root ∧
    (isHull 1 = true ∧ ((withHull hull1).hull 1).state ≠ .free) := by
  refine ⟨by decide, by decide, by decide, by decide, by decide, by decide, ?_, by decide, by decide, by decide⟩
  intro me hm
  simp only [List.mem_cons, List.not_mem_nil, or_false] at hm
  rcases hm with rfl | rfl <;> rfl

/-- A probe run that began at 0 and may last 100 ms, one nanosecond past its end. -/
def probing : State :=
  { timed { time1 with gtc := 100000001 } with
    probe := { state := 2, nmu := false, target := 0, slot := 0, version := 1, gtc := 0, hull := 0, share := 0, durationMs := 100 } }

/-- Tile 0 as given, with the overruns of its program. -/
def hanging (x : Tile) : State :=
  { withTile x with hulls := [(1, { hull1 with prog := some { prog1 with overruns := 255 } })], sync := [(3, counter)] }

theorem witness_ProbesAndHangTimersEnd :
    (probing.probe.state = 2 ∧ probing.probe.gtc + 1000000 * probing.probe.durationMs < probing.time.gtc) ∧
    (let x := { tile1 with waited := 10 ^ 18, issued := 10 ^ 18, wait := some (.queue 7 63) }
     (hanging x).timersOf 0 = true ∧ ((hanging x).tile 0).wait = some (.queue 7 63) ∧
       18 * 1000000 * (hanging x).regF 0x0D0010 15 0 ≤ ((hanging x).tile 0).waited) ∧
    (let x := { tile1 with waited := 10 ^ 18, syncWait := some (.sync 3) }
     (hanging x).timersOf 0 = true ∧ ((hanging x).tile 0).syncWait.bind Wait.object = some 3 ∧
       18 * (1000 * (hanging x).periodUs * (match tfind (hanging x).sync 3 with | some o => o.timeout | none => 4))
         ≤ ((hanging x).tile 0).waited) ∧
    (let x := { tile1 with issued := 10 ^ 18 }
     (hanging x).timersOf 0 = true ∧ ((hanging x).hull 1).holds = 0 ∧ ((hanging x).tile 0).eot = false ∧ ((hanging x).tile 0).wait = none ∧
       ((hanging x).tile 0).syncWait = none ∧
       (hanging x).periodUs * 1200 + (hanging x).regF 0x0D0010 31 16 * 1000 < ((hanging x).tile 0).issued) ∧
    (let s := hanging tile1
     let t := { s with regs := tput s.regs 0x0D0010 (0x2000A07D0 : Word) }
     isHull 1 = true ∧ (t.hull 1).prog = some { prog1 with overruns := 255 } ∧ (t.hull 1).state = .running ∧ (t.hull 1).holds = 0 ∧
       0 < t.regF 0x0D0010 39 32 ∧ t.regF 0x0D0010 39 32 ≤ 255) ∧
    (∀ h ∈ [0, 4], (if h = 0 then ready.sec.ctx0End else (ready.hull h).notAfter) ≤ ready.time.gtc) := by
  refine ⟨?_, ?_, ?_, ?_, ?_, ?_⟩ <;> decide

/-! ## Hypotheses of the statements: resets, power, pins -/

/-- A device in a state of its reset, in a phase, after a hang or none, at a GTC. -/
def inReset (dev : DevState) (phase : Nat) (hang : Option (Nat × Bool × Nat × Bool)) (gtc : Nat) : State :=
  { timed { time1 with gtc := gtc } with rst := { ready.rst with dev := dev, phase := phase, hang := hang } }

/-- What training found: firmware as given. -/
def training (ok : Bool) : Training :=
  { failA := [], failB := [], failPods := [], spares := [], linkGen := 5, linkWidth := 16, firmwareOk := ok, firmwareDigest := 0 }

theorem witness_ResetsRunTheirPhases :
    (State.reset.inService = false ∧ ready.inService = true) ∧
    (∀ esc ∈ [true, false], (inReset .recovering 1 (some (6, true, 0, esc)) 0).rst.hang = some (6, true, 0, esc) ∧
      (inReset .recovering 1 (some (6, true, 0, esc)) 0).rst.dev = .recovering ∧
      (inReset .recovering 1 (some (6, true, 0, esc)) 0).rst.phase = 1) ∧
    (let s := inReset .recovering 4 (some (6, true, 0, false)) 12000000000
     s.rst.dev = .recovering ∧ s.rst.phase = 4 ∧ s.time.gtc ≤ s.reg 0x0D0028 + 12000000000 ∧ (training true).firmwareOk = true ∧
       (training false).firmwareOk = false) ∧
    ((inReset .outOfService 0 none 0).rst.dev = .outOfService ∧ ready.rst.dev ≠ .outOfService ∧ ready.rst.dev ≠ .cold) ∧
    ((inReset .ready 0 none 1000000000).wdogLate 1000000000 = true ∧ (inReset .ready 0 none 0).rst.dev ≠ .recovering ∧
      (inReset .recovering 1 (some (6, true, 0, false)) 0).freezing = true ∧ (inReset .ready 0 none 500000000).wdogLate 500000000 = true) := by
  decide

/-- A device whose power is not enabled. -/
def unpowered : State := { ready with board := { ready.board with pwrEn := false } }

theorem witness_PowerAndPinsTakeEffect :
    unpowered.board.pwrEn = false ∧
    (State.reset.rst.dev = .init ∧ State.reset.rst.startPhase ≠ 0 ∧ State.reset.rst.bscanUsed = false) ∧
    (ready.rst.dev ≠ .cold ∧ 2 < 3 ∧ 120 ≤ (120 : Byte).toNat ∧ 65 ≤ (65 : Byte).toNat ∧ ready.board.pwrGood = true) ∧
    (∀ i ∈ [TapInstr.idcode, .extest, .extestPulse, .extestTrain, .bypass, .sample, .other 2],
      i = .idcode ∨ (i = .extest ∨ i = .extestPulse ∨ i = .extestTrain) ∨ i = .bypass ∨ i = .sample ∨ ∃ n, i = .other n) := by
  refine ⟨by decide, by decide, by decide, ?_⟩
  intro i hi
  simp only [List.mem_cons, List.not_mem_nil, or_false] at hi
  rcases hi with rfl | rfl | rfl | rfl | rfl | rfl | rfl <;> simp

/-! ## Hypotheses of the statements: registers, configuration, interrupts, rings -/

theorem witness_RegisterAccessesFollowTheFieldTypes :
    (ready.reaches .host 0x0F0018 = true ∧ State.reset.reaches (.core 7) 0x000030 = true ∧ State.reset.reaches .host 0x0F0018 = false ∧
      (0x0F0018 : BitVec 24).toNat % 8 = 0) ∧
    (0x0F0018 ∈ wordRegs ∧ 0x000030 ∈ wordRegs ∧ (∀ off ∈ wordRegs, ∃ r, regAt off = some r)) ∧
    ((regAt 0x010028).any fun r => decide (r.maskOf .rc = 0 ∧ r.name ≠ .icClaim ∧ r.maskOf .rw &&& r.maskOf .w1c = 0)) = true ∧
    (ready.rst.dev ≠ .cold ∧ (4 : BitVec 48).toNat % 8 ≠ 0 ∧ 4 ≠ 8) ∧
    (ready.reaches .host 0xFFFFF8 = true ∧ (0xFFFFF8 : BitVec 24).toNat % 8 = 0 ∧ regAt 0xFFFFF8 = none) ∧
    (State.reset.rst.dev ≠ .cold ∧ State.reset.blockOpen (0x0F0018 : BitVec 24).toNat = false) := by
  refine ⟨by decide, ⟨by decide, by decide, ?_⟩, by decide, by decide, by decide, by decide⟩
  have h : wordRegs.all (fun off => (regAt off).isSome) = true := by decide
  intro off ho
  exact Option.isSome_iff_exists.mp (List.all_eq_true.mp h off ho)

theorem witness_ConfigurationsAreTakenInRange :
    (∀ off ∈ [0x0B0010, 0x020010, 0x030040, 0x0F0008, 0x0F0020], ready.blockOpen off = true ∧ State.reset.blockOpen off = false) ∧
    ready.rst.dev ≠ .cold ∧ isHull 4 = true ∧ isHull 5 = false ∧ isHull 0 = false ∧
    ({ ready with sec := { ready.sec with att := some 1 } } : State).sec.att = some 1 := by
  decide

/-- Source 1 of core 0, pending and enabled at priority 2 with its hold-off elapsed, or held by the core. -/
def sourced (x : IrqSrc) : State := { ready with irqs := [(privKey 7 1, x)] }
def raised : IrqSrc := { IrqSrc.init with enable := true, prio := 2, pending := true, elapsed := true, count := 1 }
def claimed : IrqSrc := { IrqSrc.init with active := true, activeOn := 7 }

theorem witness_InterruptsAreClaimedAndCompleted :
    7 < 8 ∧ ready.rst.dev ≠ .cold ∧ (sourced raised).winner 7 = some (privKey 7 1, raised) ∧ ready.winner 7 = none ∧
    ((1 : BitVec 10).toNat ≠ 0 ∧ (1022 : BitVec 10).toNat ≠ 1023 ∧ irqKey 7 1 = privKey 7 1 ∧ ((sourced claimed).irq (irqKey 7 1)).active = true ∧
      ((sourced claimed).irq (irqKey 7 1)).activeOn = 7 ∧ ((sourced raised).irq (irqKey 7 1)).active = false ∧
      ((sourced raised).irq (irqKey 7 1)).pending = true ∧ (sourced raised).heldOff (irqKey 7 1) raised = true) ∧
    ready.activeOn 7 = 0 := by
  decide

/-- Endpoint 0 as given. -/
def ended (x : Endpoint) : State := { ready with endpoints := [(15, x)] }
def endp0 : Endpoint := { Endpoint.init with enable := true, caller := 5, addrLo := 1 }
/-- The address 100::, of which `addrLo` holds the first eight bytes. -/
def from1 : BitVec 128 := BitVec.ofNat 128 (2 ^ 120)

theorem witness_RingsAndEndpointsTakeCommands :
    (∀ off ∈ [0x051000, 0x051018, 0x050100, 0x050400], ready.blockOpen off = true) ∧
    (let y := (ready.ring 7).cfg ((0x50110 : Word) ||| 1).toNat
     let z := ({ (ready.ring 7) with cmdLog2 := 12, rplLog2 := 12 }).cfg ((0x50330 : Word) ||| 1).toNat
     (ready.ring 7).state = .disabled ∧ 4 ≤ z.cmdLog2 ∧ z.cmdLog2 ≤ 12 ∧ 4 ≤ z.rplLog2 ∧ z.rplLog2 ≤ 12 ∧ callerOk y.caller = true ∧ 4 ≤ y.cmdLog2 ∧
       4 ≤ y.rplLog2 ∧ callerOk z.caller = true) ∧
    (let x := { ring0 with cmdLog2 := 4, rplLog2 := 4, ctail := 1 }
     let s := { ready with rings := [(7, x)] }
     (s.ring 7).state = .running ∧ x.cfg ((0x00050112 : Word) &&& ~~~1).toNat = x ∧ x.cfg ((0x00060112 : Word) &&& ~~~1).toNat ≠ x ∧
       s.serves x.core = true ∧ x.chead ≠ x.ctail ∧ (x.rtail - x.rhead).toNat + x.inProgress.length < 2 ^ x.rplLog2 ∧ x.inProgress.length < 64) ∧
    (let y := Endpoint.init.cfg 0x500008001
     (ready.endp 15).enable = false ∧ callerOk y.caller = true ∧ y.prefixLen ≤ 128 ∧ y.enable = true ∧ y.prefixLen = 128) ∧
    ((ended endp0).endp 15).enable = true ∧ { endp0.cfg 0x500008001 with enable := true } = endp0 ∧
    { endp0.cfg 0x600008001 with enable := true } ≠ endp0 ∧
    ready.rst.dev ≠ .cold ∧ ready.rst.dev ≠ .recovering ∧ ready.sec.state ≠ 2 ∧
    endp0.inPrefix from1 = true ∧ endp0.inPrefix 0 = false ∧ fieldLe (zeros 64) 8 2 = 0 ∧ (zeros 64).length = 64 + 0 ∧
    ((endp0.recent.find? fun q => q.1 == (packetOf (.udp 15) ((zeros 64).take 64) ((zeros 64).drop 64) []).2.tag) = none) ∧
    (({ endp0 with recent := [(0, none, 0, 0)] }).recent.find?
      fun q => q.1 == (packetOf (.udp 15) ((zeros 64).take 64) ((zeros 64).drop 64) []).2.tag) = some (0, none, 0, 0) := by
  refine ⟨?_, ?_, ?_, ?_, ?_, ?_, ?_, ?_, ?_, ?_, ?_, ?_, ?_, ?_, ?_, ?_⟩ <;> decide

/-! ## Hypotheses of the statements: command packets -/

/-- The reading commands' packets: hull 1 where one is named. -/
def reading : List (Nat × Cmd) :=
  [(0x0100, pk []), (0x0101, pk []), (0x0111, pk []), (0x0511, pk []), (0x0A01, pk []), (0x0204, pk [(0, 1, 1)]), (0x0303, pk [(0, 1, 1)]),
   (0x0701, pk [(0, 1, 1)]), (0x0402, pk [(0, 1, 8)]), (0x0502, pk [(0, 1, 1), (2, 2, 3)]), (0x0603, pk [(0, 1, 1), (4, 4, 7)]),
   (0x0802, pk [(8, 1, 64), (16, 8, 64)])]

theorem pk_in_rule (op : Nat) : HeaderInRule (pk []) op :=
  ⟨rfl, by decide, rfl, fun _ _ => rfl, fun _ h => by simp [pk] at h⟩

theorem pk_carried (op : Nat) (h : op ≠ 0x0304) :
    (∀ r, (pk []).org = .ring r → op ≠ 0x0304) ∧ (∀ e, (pk []).org = .udp e → op ∈ [0x0101, 0x0111, 0x0303, 0x0304]) :=
  ⟨fun _ _ => h, fun _ h => by simp [pk] at h⟩

theorem witness_PacketsAreCheckedBeforeTheirRules :
    packetIn (.linkPlan (pk [])) = some (0x0510, pk []) ∧ packetIn (.svcCall (pk [])) = some (0x0304, pk []) ∧
    (State.coldState ready).rst.dev = .cold ∧ (inReset .recovering 1 none 0).rst.dev = .recovering ∧
    ((served hull1).rst.dev ≠ .cold ∧ (served hull1).rst.dev ≠ .recovering ∧ ((served hull1).core ((served hull1).coreOf (pk []))).halted = false ∧
      (served hull1).preCheck (pk []) 0x0304 = some sDENIED) ∧
    ¬ HeaderInRule { pk [] with format := 2 } 0x0100 ∧
    (HeaderInRule (pk []) 0x0306 ∧ 0x0306 ∉ opcodes) ∧
    (HeaderInRule (pk []) 0x0304 ∧ 0x0304 ∈ opcodes ∧ ∃ r, (pk []).org = .ring r) ∧
    (HeaderInRule (pk []) 0x0200 ∧ 0x0200 ∈ opcodes ∧ (inReset .outOfService 0 none 0).rst.dev = .outOfService ∧
      0x0200 ∉ [0x0100, 0x0101, 0x0111, 0x0802, 0x0402, 0x0511] ∧ State.reset.rst.dev = .init ∧ 0x0200 ∉ [0x0100, 0x0101, 0x0111] ∧
      ready.rst.dev ≠ .outOfService ∧ ready.rst.dev ≠ .init ∧ (slept idle7 true hull1).board.standby = true ∧ 0x0200 ∉ standbyOpcodes ∧
      ready.board.standby = false) ∧
    ((∀ r, (pk []).org = .ring r → 0x0200 ≠ 0x0304) ∧ (∀ e, (pk []).org = .udp e → 0x0200 ∈ [0x0101, 0x0111, 0x0303, 0x0304])) := by
  refine ⟨rfl, rfl, by decide, by decide, by decide, ?_, ⟨pk_in_rule _, by decide⟩, ⟨pk_in_rule _, by decide, 0, rfl⟩,
    ⟨pk_in_rule _, by decide⟩, pk_carried _ (by decide)⟩
  intro h
  exact absurd h.1 (by decide)

/-- A result of ticket 7, and an engine with it, or with its command waiting. -/
def answered : ACmd := { ACmd.fresh (blockOf 3 []) none 1 [] 0 7 with done := true }

/-- The log holds one record. -/
def record0 : ErrRec :=
  { seq := 0, gtc := 0, cls := 1, severity := 0, source := 0x0600, hull := 0, pod := 0xFF, tile := 0xFF, code := 0, pc := 0, detail := [],
    consumed := false }

theorem witness_ReadingCommandsAnswerTheirFields :
    (∀ q ∈ reading, (served hull1).serving q.2 q.1) ∧ (∀ q ∈ reading.take 5, restZero q.2 0 = true) ∧
    (∀ q ∈ (reading.drop 5).take 4, restZero q.2 1 = true) ∧
    (∀ op ∈ [0x0204, 0x0303, 0x0701, 0x0502, 0x0603], ((served hull1).settled.begin_ (pk [(0, 1, 1)]) op).ownsHull (pk [(0, 1, 1)]) 1 = true) ∧
    isHull (pf (pk [(0, 1, 1)]).params 0 1) = true ∧ ((served hull1).hull 1).prog = some prog1 ∧
    ((served { hull1 with prog := none }).hull 1).prog = none ∧ pf (pk [(0, 1, 8)]).params 0 1 ≤ 8 ∧
    (let c := pk [(0, 1, 1), (2, 2, 3)]
     let s := { served hull1 with groups := [(3, group3 1)] }
     isHull (pf c.params 0 1) = true ∧ pf c.params 1 1 = 0 ∧ pf c.params 2 2 < 4096 ∧ restZero c 4 = true ∧ (s.group (pf c.params 2 2)).state ≠ 0 ∧
       (s.group (pf c.params 2 2)).hull = 1) ∧
    (let c := pk [(0, 1, 1), (4, 4, 7)]
     let e := { Engine.init with results := [answered] }
     let f := { Engine.init with queue := [answered] }
     let u := State.begin_ { served hull1 with aus := [(0, e)] } c 0x0603
     let v := State.begin_ { served hull1 with aus := [(0, f)] } c 0x0603
     isHull (pf c.params 0 1) = true ∧ pf c.params 1 1 < 16 ∧ pf c.params 2 2 = 0 ∧ restZero c 8 = true ∧
       u.auGate c 1 0 false = none ∧ v.auGate c 1 0 false = none ∧
       (u.eng 0).kept.find? (fun r => r.ticket == pf c.params 4 4) = some answered ∧
       (v.eng 0).kept.find? (fun r => r.ticket == pf c.params 4 4) = none ∧ (v.eng 0).waitingTickets.contains (pf c.params 4 4) = true) ∧
    (∀ n ∈ [1, 64],
      let c := pk [(8, 1, n), (16, 8, 64)]
      1 ≤ pf c.params 8 1 ∧ pf c.params 8 1 ≤ 64 ∧ pf c.params 9 7 = 0 ∧ restZero c 0x18 = true ∧ pf c.params 0x10 8 % 64 = 0) ∧
    (let c := pk [(8, 1, 1), (16, 8, 64)]
     let u := State.begin_ { served hull1 with log := [record0] } c 0x0802
     let copied := ((u.log.filter fun r => decide (pf c.params 0 8 ≤ r.seq)).filter
       fun r => u.isOperator c || (r.hull != 0 && u.ownsHull c r.hull)).take (pf c.params 8 1)
     copied.length = pf c.params 8 1 ∧ copied.getLast? = some record0) := by
  unfold State.serving
  refine ⟨?_, ?_, ?_, ?_, ?_, ?_, ?_, ?_, ?_, ?_, ?_, ?_⟩ <;> decide

/-! ## Hypotheses of the statements: hulls and programs -/

/-- A grant of share, and of memory. -/
def grantS : Grant := { (reclaimIn 0).grant with share := 10 }

theorem witness_HullCommandsTakeEffect :
    (let c := pk [(0, 1, 1), (2, 2, 5)]
     let s := served Hull.init
     s.serving c 0x0200 ∧ isHull (pf c.params 0 1) = true ∧ pf c.params 1 1 = 0 ∧ pf c.params 4 4 = 0 ∧ restZero c 24 = true ∧
       pf c.params 2 2 ≠ 0 ∧ pf c.params 2 2 ≠ 0xFFFF ∧ (s.settled.begin_ c 0x0200).isOperator c = true ∧ ((s.settled.begin_ c 0x0200).hull 1).state = .free) ∧
    (∀ c ∈ [pk [(0, 1, 1), (8, 2, 10)], pk [(0, 1, 1), (1, 1, 1), (2, 1, 2), (8, 2, 10)]],
      let s := { served hull1 with hulls := [(1, hull1), (2, { hull1 with prog := none })] }
      let u := s.settled.begin_ c 0x0201
      s.serving c 0x0201 ∧ u.grantOk c = true ∧ u.isOperator c = true ∧ (u.hull 1).live = true ∧ (u.hull 1).reclaims = [] ∧
        (u.hull 1).grants.length < 16 ∧ (u.hull 2).live = true ∧ ((upFrom 0 8).filter fun p => bitOf (askOf c).pods p && (u.pod p).asleep) = [] ∧
        u.grantShort 1 (askOf c) = none) ∧
    (∀ ms ∈ [0, 10, 30000],
      let c := pk [(0, 1, 1), (4, 4, ms)]
      let s := served { hull1 with grants := [grantS] }
      let u := s.settled.begin_ c 0x0202
      s.serving c 0x0202 ∧ isHull (pf c.params 0 1) = true ∧ pf c.params 1 1 < 2 ∧ pf c.params 3 1 = 0 ∧ restZero c 8 = true ∧
        (pf c.params 4 4 = 0 ∨ 10 ≤ pf c.params 4 4 ∧ pf c.params 4 4 ≤ 30000) ∧ (u.hull 1).reclaimable (pf c.params 2 1) = some grantS ∧
        u.isOperator c = true ∧ (u.hull 1).live = true) ∧
    (let c := pk [(0, 1, 1)]
     let u := (served hull1).settled.begin_ c 0x0203
     (served hull1).serving c 0x0203 ∧ isHull (pf c.params 0 1) = true ∧ restZero c 1 = true ∧ u.isOperator c = true ∧ (u.hull 1).live = true) := by
  unfold State.serving
  refine ⟨?_, ?_, ?_, ?_⟩ <;> decide +kernel

/-- An image that may be loaded, with a service and an evaluation run. -/
def service : ServiceDecl := { reqTensor := 1, ansTensor := 1, reqSem := 3, ansSem := 3, slots := 1, deadlineUs := 10, provenance := false }
def img2 : Image :=
  { img1 with recordLen := 64, services := [], evals := [{ ticks := 1, domains := [7], writes := [], reseeds := [[]] }], evalBudget := 1 }

def loadCmd (fl : Nat) : Cmd := pk [(0, 1, 1), (1, 1, fl), (16, 8, 1)]
def loading : State := served { hull1 with state := .granted, prog := none }
def loadingBy (fl : Nat) : State := loading.settled.begin_ (loadCmd fl) 0x0300

/-- The image as it is loaded from that byte. -/
def loadedImg : Image := { img2 with digest := sha256 [0] }

theorem img2_loads (fl : Nat) (hf : fl = 0 ∨ fl = 1) :
    (loadingBy fl).imgOk 1 loadedImg = true ∧ imgChooseFold loadedImg ((loadingBy fl).podsOf 1).length = some 0 ∧
      imgFold loadedImg 0 = some fold0 ∧ fold0.foldLog2 = 0 ∧ (loadingBy fl).levelShort 1 loadedImg fold0 = none := by
  rcases hf with rfl | rfl <;> decide +kernel

theorem loading_reads (fl : Nat) (hf : fl = 0 ∨ fl = 1) : (loadingBy fl).windowClean 1 0 1 ∧ (loadingBy fl).windowBytes 1 0 1 = [0] := by
  rcases hf with rfl | rfl <;>
    exact window_first (w := unwrittenHusk) (d := []) 1 rfl (by decide) (by decide) ⟨rfl, assigned_at (u := .b 1) rfl (by decide), rfl, rfl⟩ rfl
      rfl rfl

/-- A program of hull 1 in a state of its own, its service and its run declared. -/
def progIn (n : Nat) : Prog := { prog1 with state := n, image := { img2 with services := [service] } }
def starting : Prog := { progIn 1 with restored := true }

/-- A request by datagram, and the endpoint that takes it. -/
def udpCmd : Cmd := { pk [(0, 1, 1)] with org := .udp 0 }
def asking (calls : List Call) : State :=
  { served { hull1 with prog := some { progIn 3 with calls := calls } } with
    endpoints := [(0, endp0)], sync := [(3, counter)], time := { time1 with gtc := 10000 } }
def call0 (replied : Bool) : Call := { svc := 0, k := 0, cmd := udpCmd, landed := 0, replied := replied, dirty := false }

theorem asking_clean (calls : List Call) (p : Prog) (h : p.memPlace 1 = some (true, 0)) : (asking calls).cleanRange 1 p 1 0 4096 := by
  refine ⟨true, 0, h, ?_⟩
  rw [show blocksOf 0 4096 = [0] by decide]
  exact FreshB.clean ⟨⟨rfl, assigned_at (u := .b 1) rfl (by decide), rfl, rfl⟩, rfl, rfl⟩ 1

/-- A packet of hull 1 with flags, and the state that begins it. -/
def flagged (fl : Nat) : Cmd := pk [(0, 1, 1), (1, 1, fl)]

theorem witness_ProgramCommandsTakeEffect :
    (loading.noHold ∧ (asking []).noHold ∧ (asking [call0 false]).noHold) ∧
    (∀ fl, fl = 0 ∨ fl = 1 →
      let c := loadCmd fl
      let u := loading.settled.begin_ c 0x0300
      let i := loadedImg
      loading.serving c 0x0300 ∧ isHull (pf c.params 0 1) = true ∧ pf c.params 1 1 = fl ∧ fl < 2 ∧ pf c.params 2 6 = 0 ∧
        restZero c 0x18 = true ∧ pf c.params 0x10 8 ≠ 0 ∧ pf c.params 8 8 % 4096 = 0 ∧ u.inWindow 1 true 0 1 = true ∧ u.ownsHull c 1 = true ∧
        (u.hull 1).state = .granted ∧ (u.windowClean 1 0 1 ∧ u.windowBytes 1 0 1 = [0]) ∧ u.imgOk 1 i = true ∧
        imgChooseFold i (u.podsOf 1).length = some 0 ∧ imgFold i 0 = some fold0 ∧ fold0.foldLog2 = 0 ∧ u.levelShort 1 i fold0 = none) ∧
    (∀ fl ∈ [0, 1],
      let c := flagged fl
      let s := served { hull1 with state := .granted, prog := some starting }
      let u := s.settled.begin_ c 0x0301
      s.serving c 0x0301 ∧ isHull (pf c.params 0 1) = true ∧ pf c.params 1 1 < 2 ∧ pf c.params 2 6 = 0 ∧ pf c.params 8 8 ≤ maxStep ∧
        pf c.params 0x10 8 = 0 ∧ pf c.params 0x18 8 = 0 ∧ u.ownsHull c 1 = true ∧ (u.hull 1).state = .granted ∧
        (u.hull 1).prog = some starting ∧ pf c.params 8 8 = 0 ∧ u.engineBusy 1 starting = false ∧ u.shrunk 1 starting = false ∧
        starting.image.tickPeriodUs = u.periodUs) ∧
    (∀ q ∈ [(1, progIn 2), (0, progIn 3), (1, { progIn 3 with logWait := true }), (1, progIn 3)],
      let c := flagged q.1
      let u := (served { hull1 with prog := some q.2 }).settled.begin_ c 0x0302
      (served { hull1 with prog := some q.2 }).serving c 0x0302 ∧ pf c.params 1 1 < 2 ∧ restZero c 2 = true ∧ u.ownsHull c 1 = true ∧
        (u.hull 1).state = .running ∧ (u.hull 1).prog = some q.2 ∧ (u.hull 1).holds &&& 0b01111 = 0) ∧
    (let c := flagged 0
     let u := (served { hull1 with prog := some (progIn 3) }).settled.begin_ c 0x0305
     (served { hull1 with prog := some (progIn 3) }).serving c 0x0305 ∧ pf c.params 1 1 < 16 ∧ restZero c 2 = true ∧ u.ownsHull c 1 = true ∧
       (u.hull 1).prog = some (progIn 3) ∧ pf c.params 1 1 < (progIn 3).image.evals.length ∧ (progIn 3).state = 3 ∧
       (progIn 3).evalTicksOf ((progIn 3).evals ++ [0]) ≤ (progIn 3).image.evalBudget) ∧
    (∀ g ∈ [0, 2000000, 60000000000],
      let c := pk [(0, 1, 1), (8, 8, g)]
      let s := { served { hull1 with prog := some (progIn 2), armed := true, launch := 2000000 } with time := { time1 with align := .locked } }
      let u := s.settled.begin_ c 0x0110
      s.serving c 0x0110 ∧ isHull (pf c.params 0 1) = true ∧ pf c.params 1 7 = 0 ∧ restZero c 16 = true ∧ pf c.params 8 8 = g ∧
        u.ownsHull c 1 = true ∧ (u.hull 1).state = .running ∧ (u.hull 1).prog = some (progIn 2) ∧ (progIn 2).state = 2 ∧
        u.time.align = .locked ∧ u.time.gtc + 2000000 ≤ (u.hull 1).launch ∧
        (u.time.gtc + 2000000 ≤ g ∧ g ≤ u.time.gtc + 60000000000 ∨ g = 0)) ∧
    (let u := (asking []).settled.begin_ udpCmd 0x0304
     (asking []).serving udpCmd 0x0304 ∧ isHull (pf udpCmd.params 0 1) = true ∧ pf udpCmd.params 1 1 < 16 ∧ restZero udpCmd 2 = true ∧
       u.ownsHull udpCmd 1 = true ∧ (u.hull 1).state = .running ∧ (u.hull 1).prog = some (progIn 3) ∧
       (progIn 3).image.services[0]? = some service ∧ (progIn 3).calls = []) ∧
    (∀ replied ∈ [false, true],
      let s := asking [call0 replied]
      let p := { progIn 3 with calls := [call0 replied] }
      s.settled = s ∧ (s.hull 1).prog = some p ∧ p.calls.find? (fun q => q.svc == 0) = some (call0 replied) ∧ p.image.services[0]? = some service ∧
        (s.settled.coreAcquire service.ansSem).isSome = true ∧ p.dirtyTick = false ∧ (call0 replied).dirty = false ∧
        (call0 replied).replied = replied ∧ service.provenance = false) ∧
    (let s := asking [call0 false]
     let p := { progIn 3 with calls := [call0 false] }
     s.cleanRange 1 p 1 0 4096 ∧ (asking [{ call0 false with dirty := true }]).cleanRange 1 { p with calls := [{ call0 false with dirty := true }] } 1 0 4096 ∧
     ((s.coreAcquire service.ansSem).all fun v =>
        let w := v.setHull 1 { v.hull 1 with prog := (v.hull 1).prog.map fun (p : Prog) => { p with calls := p.calls.erase (call0 false) } }
        decide (fieldLe (w.collRead 1 p 1 0 4096).data 0 4 ≤ 1024 ∧ ((w.provTrailer 1 p).1.hull 1).state = .running)) = true ∧
     p.calls.find? (fun q => q.svc == 0 && !q.replied && decide (q.landed + 1000 * service.deadlineUs ≤ s.time.gtc)) = some (call0 false)) := by
  unfold State.serving
  refine ⟨⟨noHold_of rfl, noHold_of rfl, noHold_of rfl⟩, ?_, ?_, ?_, ?_, ?_, ?_, ?_, ?_⟩
  · intro fl hf
    obtain ⟨h1, h2, h3⟩ := img2_loads fl hf
    refine ⟨?_, ?_, ?_, ?_, ?_, ?_, ?_, ?_, ?_, ?_, ?_, loading_reads fl hf, h1, h2, h3⟩ <;> (rcases hf with rfl | rfl <;> decide)
  case refine_7 =>
    intro replied hr
    simp only [List.mem_cons, List.not_mem_nil, or_false] at hr
    rcases hr with rfl | rfl <;> exact ⟨rfl, by decide⟩
  case refine_8 => exact ⟨asking_clean _ _ rfl, asking_clean _ _ rfl, by decide, by decide⟩
  all_goals decide

/-! ## Hypotheses of the statements: memory, groups, links, engines, checkpoints -/

/-- One block of a host range or of a window, and a link plan of one neighbour in host memory. -/
def copyCmd (fl : Nat) : Cmd := pk [(0, 1, 1), (1, 1, fl), (4, 4, 1), (16, 8, if fl % 4 = 2 then 4096 else 0), (24, 8, 4096)]
def fillCmd (fl : Nat) : Cmd := pk [(0, 1, 1), (1, 1, fl), (4, 4, if bitOf fl 1 then 1 else 0), (16, 8, 4096)]
def planHost : Tbl Byte :=
  [(0, 1), (2, 1), (3, 1), (4, 7), (8, 0xFF), (9, 0xFF), (67, 1)] ++ (upFrom 1 35).flatMap (fun i => [(64 + 8 * i, 0xFF), (67 + 8 * i, 1)])
    ++ [(352, 9), (356, 1)]
def planCmd : Cmd := pk [(16, 4, 360)]

/-- A group entry of one member whose heir is no member, and the group as written or active. -/
def grpCmd : Cmd := pk [(0, 1, 1), (2, 2, 3), (8, 1, 1), (9, 1, 1), (10, 2, 1), (12, 1, 12), (13, 1, 64)]
def grpState (x : Group) : State := { served hull1 with groups := [(3, x)], host := [(5, 1)] }

theorem witness_MemoryGroupAndLinkCommandsTakeEffect :
    (∀ fl ∈ [0, 1, 2, 14],
      let c := copyCmd fl
      let u := (served hull1).settled.begin_ c 0x0400
      let f := fun (a n : Nat) => pf c.params a n
      (served hull1).serving c 0x0400 ∧ isHull (f 0 1) = true ∧ f 1 1 = fl ∧ fl < 16 ∧ fl % 4 ≠ 3 ∧ (fl % 4 = 0 → bitOf fl 2 = false) ∧
        (fl % 4 = 1 → bitOf fl 3 = false) ∧ f 2 2 = 0 ∧ tagOk (f 4 4) = true ∧ f 8 8 % 4096 = 0 ∧ f 0x10 8 % 4096 = 0 ∧
        copyLenOk (f 0x18 8) = true ∧ u.ownsHull c 1 = true ∧ (u.hull 1).workable = true ∧
        (fl % 4 = 0 ∨ u.inWindow 1 (bitOf fl 2) (f 8 8) (f 0x18 8) = true) ∧ (fl % 4 = 1 ∨ u.inWindow 1 (bitOf fl 3) (f 0x10 8) (f 0x18 8) = true)) ∧
    (∀ fl ∈ [0, 1, 2, 3],
      let c := fillCmd fl
      let u := (served hull1).settled.begin_ c 0x0401
      let f := fun (a n : Nat) => pf c.params a n
      (served hull1).serving c 0x0401 ∧ f 1 1 = fl ∧ f 2 2 = 0 ∧ (if bitOf fl 1 then tagOk (f 4 4) = true else f 4 4 = 0 ∧ f 0x18 8 = 0) ∧
        f 8 8 % 4096 = 0 ∧ copyLenOk (f 0x10 8) = true ∧ u.ownsHull c 1 = true ∧ (u.hull 1).workable = true ∧
        u.inWindow 1 (bitOf fl 0) (f 8 8) (f 0x10 8) = true) ∧
    (∀ x ∈ [Group.init, { group3 0 with state := 1 }],
      let u := (grpState x).settled.begin_ grpCmd 0x0500
      (grpState x).serving grpCmd 0x0500 ∧ u.grpFieldsOk grpCmd = true ∧ u.ownsHull grpCmd 1 = true ∧ (u.group 3).state ≠ 2 ∧
        ((u.group 3).state = 1 → (u.group 3).hull = 1) ∧
        rosterOk (rosterOf (getBytes u.host 0 8) 1) (bitOf (pf grpCmd.params 1 1) 1) (pf grpCmd.params 6 2) (u.jv.plan.map fun p => p.fid) = true) ∧
    (∀ fl ∈ [0, 1],
      let c := pk [(0, 1, 1), (1, 1, fl), (2, 2, 3)]
      let s := grpState { group3 0 with state := fl + 1, world := true, share := 64 }
      let u := s.settled.begin_ c 0x0501
      s.serving c 0x0501 ∧ isHull (pf c.params 0 1) = true ∧ pf c.params 2 2 < 4096 ∧ restZero c 4 = true ∧ u.ownsHull c 1 = true ∧
        (u.group 3).hull = 1 ∧ (u.group 3).state = fl + 1 ∧ u.groupChanged 1 3 = false ∧ u.otherWorld 1 3 = false ∧
        (fl = 0 → u.shareUsed 1 + (u.group 3).share ≤ 64) ∧ (u.openOp 1 3).isNone = true) ∧
    (let s := { served Hull.init with host := planHost }
     let u := s.settled.begin_ planCmd 0x0510
     s.serving planCmd 0x0510 ∧ pf planCmd.params 0 1 < 2 ∧ pf planCmd.params 1 7 = 0 ∧ restZero planCmd 0x14 = true ∧ pf planCmd.params 8 8 % 4096 = 0 ∧
       (∃ r, planCmd.org = .ring r) ∧
       pf planCmd.params 0x10 4 = 64 + 8 * (36 + fieldLe (getBytes u.host 0 64) 2 1 + fieldLe (getBytes u.host 0 64) 0xA 2) ∧
       (hullNos.all fun h => (u.hull h).state == .free) = true ∧ planBad (getBytes u.host 0 360) = none) := by
  unfold State.serving
  refine ⟨?_, ?_, ?_, ?_, ?_, ?_, ?_, ?_, ?_, ⟨0, rfl⟩, ?_, ?_, ?_⟩ <;> decide +kernel

/-- The blocks that the commands above copy, fill and write are served; those copied from a window are clean. -/
theorem witness_MemoryGroupAndLinkCommandsTakeEffect_blocks :
    ((served hull1).noHold ∧ (grpState Group.init).noHold ∧ (grpState { group3 0 with state := 1 }).noHold) ∧
    (∀ fl ∈ [0, 1, 2, 14],
      let c := copyCmd fl
      let u := (served hull1).settled.begin_ c 0x0400
      let f := fun (a n : Nat) => pf c.params a n
      (fl % 4 ≠ 0 → ∀ i, i < f 0x18 8 / 4096 → u.clean 1 (bitOf fl 2) (f 8 8) (f 4 4) i) ∧
        (fl % 4 ≠ 1 → ∀ i, i < f 0x18 8 / 4096 → u.served 1 (bitOf fl 3) (f 0x10 8 / 4096 + i)) ∧
        (fl % 4 = 2 → u.mem.marks = [] ∧ ∀ i j, i < f 0x18 8 / 4096 → j < f 0x18 8 / 4096 → bitOf fl 2 = bitOf fl 3 →
          (u.hull 1).find (bitOf fl 2) (f 8 8 / 4096 + i) ≠ (u.hull 1).find (bitOf fl 3) (f 0x10 8 / 4096 + j))) ∧
    (∀ fl ∈ [0, 1, 2, 3],
      let u := (served hull1).settled.begin_ (fillCmd fl) 0x0401
      ∀ i, i < pf (fillCmd fl).params 0x10 8 / 4096 → u.served 1 (bitOf fl 0) (pf (fillCmd fl).params 8 8 / 4096 + i)) ∧
    (∀ x ∈ [Group.init, { group3 0 with state := 1 }],
      let u := (grpState x).settled.begin_ grpCmd 0x0500
      ∀ i, i < rosterBlocks (pf grpCmd.params 4 2 + 1) → u.served 1 true (pf grpCmd.params 24 8 / 4096 + i)) := by
  refine ⟨⟨noHold_of rfl, noHold_of rfl, noHold_of rfl⟩, ?_, ?_, ?_⟩
  · intro fl hf
    simp only [List.mem_cons, List.not_mem_nil, or_false] at hf
    rcases hf with rfl | rfl | rfl | rfl
    · refine ⟨fun h => absurd rfl h, fun _ i hi => ?_, fun h => absurd h (by decide)⟩
      obtain rfl : i = 0 := Nat.lt_one_iff.mp hi
      exact ⟨0, 0, serves_at (by decide) rfl (by decide) rfl⟩
    · refine ⟨fun _ i hi => ?_, fun h => absurd rfl h, fun h => absurd h (by decide)⟩
      obtain rfl : i = 0 := Nat.lt_one_iff.mp hi
      exact clean_at (u := 0) (row := 0) (serves_at (by decide) rfl (by decide) rfl) rfl rfl
    · refine ⟨fun _ i hi => ?_, fun _ i hi => ?_, fun _ => ⟨rfl, fun i j hi hj _ => ?_⟩⟩
      · obtain rfl : i = 0 := Nat.lt_one_iff.mp hi
        exact clean_at (u := 0) (row := 0) (serves_at (by decide) rfl (by decide) rfl) rfl rfl
      · obtain rfl : i = 0 := Nat.lt_one_iff.mp hi
        exact ⟨0, 1, serves_at (by decide) rfl (by decide) rfl⟩
      · obtain rfl : i = 0 := Nat.lt_one_iff.mp hi
        obtain rfl : j = 0 := Nat.lt_one_iff.mp hj
        decide
    · refine ⟨fun _ i hi => ?_, fun _ i hi => ?_, fun _ => ⟨rfl, fun i j hi hj _ => ?_⟩⟩
      · obtain rfl : i = 0 := Nat.lt_one_iff.mp hi
        exact clean_at (u := 1) (row := 0) (serves_at (by decide) rfl (by decide) rfl) rfl rfl
      · obtain rfl : i = 0 := Nat.lt_one_iff.mp hi
        exact ⟨1, 1, serves_at (by decide) rfl (by decide) rfl⟩
      · obtain rfl : i = 0 := Nat.lt_one_iff.mp hi
        obtain rfl : j = 0 := Nat.lt_one_iff.mp hj
        decide
  · intro fl hf
    simp only [List.mem_cons, List.not_mem_nil, or_false] at hf
    rcases hf with rfl | rfl | rfl | rfl <;> intro u i hi <;> obtain rfl : i = 0 := Nat.lt_one_iff.mp hi
    · exact ⟨0, 0, serves_at (by decide) rfl (by decide) rfl⟩
    · exact ⟨1, 0, serves_at (by decide) rfl (by decide) rfl⟩
    · exact ⟨0, 0, serves_at (by decide) rfl (by decide) rfl⟩
    · exact ⟨1, 0, serves_at (by decide) rfl (by decide) rfl⟩
  · intro x hx
    simp only [List.mem_cons, List.not_mem_nil, or_false] at hx
    rcases hx with rfl | rfl <;> intro u i hi <;> obtain rfl : i = 0 := Nat.lt_one_iff.mp hi
    · exact ⟨1, 0, serves_at (by decide) rfl (by decide) rfl⟩
    · exact ⟨1, 0, serves_at (by decide) rfl (by decide) rfl⟩

/-- Tier B of hull 1 begins with a block of these bytes; engine 0 as given; 16 tokens beyond the pod's. -/
def withBytes (d : Tbl Byte) (e : Engine) : State :=
  { served { hull1 with share := 816 } with
    aus := [(0, e)], mem := { ready.mem with b := [(4186112, Blk.mk (huskOf (getBytes d 0 4096) 1) d)] } }

theorem withBytes_window (d : Tbl Byte) (e : Engine) (c : Cmd) (op n : Nat) (hn : blocksOf 0 n = [0]) (hl : n ≤ 4096) (hc : c.org = .ring 0) :
    ((withBytes d e).settled.begin_ c op).windowClean 1 0 n ∧
      ((withBytes d e).settled.begin_ c op).windowBytes 1 0 n = getBytes d 0 n := by
  refine window_first (w := huskOf (getBytes d 0 4096) 1) n ?_ hn hl (serves_at ?_ ?_ (by decide) ?_) ?_
    (Blk.check_husk d 1 (by decide) (by decide)) ?_
  all_goals
    unfold State.begin_
    rw [hc]
    rfl

def bank1 : Engine := { Engine.init with bankCount := 1 }
def held1 : Engine := { bank1 with structs := [(0, dense1)] }
def factor1 : Engine := { bank1 with structs := [(0, factored)] }

/-- A structure, a delta and a solver block as bytes of memory. -/
def denseTbl : Tbl Byte := [(0, 1), (2, 3), (4, 1)]
def deltaTbl : Tbl Byte := [(0, 1), (4, 1)]
def solveTbl : Tbl Byte := [(0, 3)]

def loadShortOk (e : Engine) (b : List Byte) : Bool := (parseStruct b).any fun st => e.loadShort st == 0

theorem witness_EngineAndCheckpointCommandsTakeEffect_engines :
    (let c := pk [(0, 1, 1), (16, 8, 136)]
     let s := withBytes denseTbl bank1
     let u := s.settled.begin_ c 0x0600
     let f := fun (a n : Nat) => pf c.params a n
     s.serving c 0x0600 ∧ isHull (f 0 1) = true ∧ f 1 1 < 16 ∧ f 2 1 < 64 ∧ f 3 1 = 0 ∧ f 4 1 = 0 ∧ f 5 1 = 0 ∧ f 6 2 = 0 ∧ restZero c 0x18 = true ∧
       f 8 8 % 64 = 0 ∧ f 0x10 8 ≠ 0 ∧ u.inWindow 1 true (f 8 8) (f 0x10 8) = true ∧
       (u.windowClean 1 0 136 ∧ u.windowBytes 1 0 136 = getBytes denseTbl 0 136) ∧ f 8 8 = 0 ∧ f 0x10 8 = 136 ∧ (parseStruct (getBytes denseTbl 0 136)).isSome = true ∧
       u.auGate c 1 0 true = none ∧ tfind (u.eng 0).structs 0 = none ∧ ((u.eng 0).queue.any fun q => q.op == 1 && q.handle == 0) = false ∧
       loadShortOk (u.eng 0).ahead (getBytes denseTbl 0 136) = true ∧ u.auTokensShort 1 0 = false) ∧
    (let c := pk [(0, 1, 1), (3, 1, 1)]
     let s := withBytes [] held1
     let u := s.settled.begin_ c 0x0600
     let f := fun (a n : Nat) => pf c.params a n
     s.serving c 0x0600 ∧ f 3 1 = 1 ∧ f 4 1 = 0 ∧ f 5 1 = 0 ∧ f 6 2 = 0 ∧ restZero c 0x18 = true ∧ f 8 8 = 0 ∧ f 0x10 8 = 0 ∧
       u.auGate c 1 0 true = none ∧ tfind (u.eng 0).structs 0 = some dense1) ∧
    (let c := pk [(0, 1, 1), (16, 8, 32)]
     let s := withBytes deltaTbl held1
     let u := s.settled.begin_ c 0x0601
     let f := fun (a n : Nat) => pf c.params a n
     s.serving c 0x0601 ∧ f 3 5 = 0 ∧ restZero c 0x18 = true ∧ u.inWindow 1 true (f 8 8) (f 0x10 8) = true ∧
       (u.windowClean 1 0 32 ∧ u.windowBytes 1 0 32 = getBytes deltaTbl 0 32) ∧ f 8 8 = 0 ∧ f 0x10 8 = 32 ∧ packetOk (getBytes deltaTbl 0 32) = true ∧
       tfind (u.eng 0).structs 0 = some dense1 ∧ (dense1.delta (getBytes deltaTbl 0 32)).isSome = true ∧ u.auGate c 1 0 true = none ∧
       u.auTokensShort 1 0 = false) ∧
    (let c := pk [(0, 1, 1), (24, 8, 4096)]
     let s := withBytes solveTbl factor1
     let u := s.settled.begin_ c 0x0602
     let f := fun (a n : Nat) => pf c.params a n
     let b := getBytes solveTbl 0 64
     s.serving c 0x0602 ∧ f 2 6 = 0 ∧ f 8 8 % 64 = 0 ∧ f 0x10 8 % 64 = 0 ∧ f 0x18 8 % 4096 = 0 ∧ u.inWindow 1 true (f 8 8) 64 = true ∧
       (u.windowClean 1 0 64 ∧ u.windowBytes 1 0 64 = b) ∧ f 8 8 = 0 ∧ tfind (u.eng 0).structs (fieldLe b 1 1) = some factored ∧ ausBlockOk b false = true ∧
       3 ≤ fieldLe b 0 1 ∧ fieldLe b 0 1 ≤ 8 ∧ bitOf (fieldLe b 2 1) 0 = false ∧ ausStructOk b factored = true ∧
       (fieldLe b 0x10 4 = 0 → f 0x10 8 = 0) ∧ u.inWindow 1 true (f 0x10 8) (fieldLe b 0x10 4) = true ∧
       u.inWindow 1 true (f 0x18 8) (64 + 8 * ausPayload (fieldLe b 0 1) (fieldLe b 3 1) factored) = true ∧ u.auGate c 1 0 true = none ∧
       (blocksOf (f 0x10 8) (fieldLe b 0x10 4) = [] ∧ fieldLe b 0x10 4 = 0) ∧ u.auTokensShort 1 0 = false) := by
  unfold State.serving
  refine ⟨⟨?_, ?_, ?_, ?_, ?_, ?_, ?_, ?_, ?_, ?_, ?_, ?_, withBytes_window _ _ _ _ _ (by decide) (by decide) rfl, ?_, ?_, ?_, ?_, ?_, ?_, ?_, ?_⟩, ?_,
    ⟨?_, ?_, ?_, ?_, withBytes_window _ _ _ _ _ (by decide) (by decide) rfl, ?_, ?_, ?_, ?_, ?_, ?_, ?_⟩,
    ⟨?_, ?_, ?_, ?_, ?_, ?_, withBytes_window _ _ _ _ _ (by decide) (by decide) rfl, ?_, ?_, ?_, ?_, ?_, ?_, ?_, ?_, ?_, ?_, ?_, ?_, ?_⟩⟩ <;>
      decide +kernel

/-- No unit is being copied in those states. -/
theorem witness_EngineAndCheckpointCommandsTakeEffect_noHold (d : Tbl Byte) (e : Engine) : (withBytes d e).noHold := noHold_of rfl

/-- Bytes of a read are the bytes of their own addresses. -/
theorem getBytes_slice (t : Tbl Byte) (a n m : Nat) (h : a + n ≤ m) : slice (getBytes t 0 m) a n = getBytes t a n := by
  obtain ⟨k, rfl⟩ := Nat.le.dest h
  have hd : (getBytes t 0 (a + n + k)).drop a = getBytes t a (n + k) := by
    rw [Nat.add_assoc]
    simp only [getBytes, upFrom_add, List.map_append, Nat.zero_add]
    rw [List.drop_append_of_le_length (by simp), List.drop_eq_nil_of_le (by simp), List.nil_append]
  simp only [slice, hd, getBytes_take, getBytes_length, Nat.sub_self]
  simp [zeros]

theorem getBytes_fieldLe (t : Tbl Byte) (a n m : Nat) (h : a + n ≤ m) : Machine.fieldLe (getBytes t 0 m) a n = leNat (getBytes t a n) := by
  rw [Machine.fieldLe, getBytes_slice t a n m h]

/-- A full object of no tensors, of a header block and a trailer: its totals, its payload at 0 and its husks at the trailer, the caller's key,
the digest of no husks, and the digest of no bytes. -/
def restoreKey : Nat := (keyCheck 0 0).toNat
def placed (a : Nat) (l : List Byte) : Tbl Byte := (upFrom a l.length).zip l
def objectTbl (geo : Nat) : Tbl Byte :=
  placed 0 [1] ++ placed 0x40 (natLe 8 4096) ++ placed 0x50 (natLe 8 8192) ++ placed 0x58 (natLe 8 restoreKey) ++ placed 0x80 (natLe 32 geo)
    ++ placed 0xA0 (natLe 32 (sha256 []).toNat) ++ placed 4096 [1] ++ placed (4096 + 0x18) (natLe 8 8192) ++ placed (4096 + 0x20) (sha256Bytes [])
def object (geo : Nat) : List Byte := getBytes (objectTbl geo) 0 8192

/-- What reading it gives. -/
def objectIn (geo : Nat) : ObjIn :=
  { full := true, rank := 0, step := 0, id := 0, parentId := 0, key := restoreKey, prog := 0, geo := geo, state := (sha256 []).toNat, tensors := [],
    records := [], bytes := 8192 }

theorem object_read : readObject (object 0) = some (objectIn 0) := by
  have hl : (object 0).length = 8192 := getBytes_length _ _ _
  have hf : ∀ a n, a + n ≤ 8192 → Machine.fieldLe (object 0) a n = leNat (getBytes (objectTbl 0) a n) :=
    fun a n h => getBytes_fieldLe (objectTbl 0) a n 8192 h
  have hs : ∀ a n, a + n ≤ 8192 → slice (object 0) a n = getBytes (objectTbl 0) a n :=
    fun a n h => getBytes_slice (objectTbl 0) a n 8192 h
  have v1 : leNat (getBytes (objectTbl 0) 0x50 8) = 8192 := by decide +kernel
  have v2 : leNat (getBytes (objectTbl 0) 0x38 8) = 0 := by decide +kernel
  have v3 : leNat (getBytes (objectTbl 0) 0x40 8) = 4096 := by decide +kernel
  have f1 := (hf 0x50 8 (by decide)).trans v1
  have f2 := (hf 0x38 8 (by decide)).trans v2
  have f3 := (hf 0x40 8 (by decide)).trans v3
  have e0 : slice (object 0) 0 0 ++ slice (object 0) 4096 (4096 - 4096) = [] := by
    rw [hs 0 0 (by decide), Nat.sub_self, hs 4096 0 (by decide)]
    rfl
  unfold readObject
  simp only [f1, f2, f3, show 8192 - 4096 = 4096 from rfl, e0, hl]
  rw [hf 0 2 (by decide), hf 2 1 (by decide), hf 4096 2 (by decide), hf (4096 + 8) 8 (by decide), hf 8 8 (by decide), hf (4096 + 0x10) 8 (by decide),
    hf 0x18 8 (by decide), hf (4096 + 0x18) 8 (by decide), hs (4096 + 0x20) 32 (by decide), hf 4 2 (by decide), hf 0x20 8 (by decide),
    hf 0x58 8 (by decide), hf 0x60 32 (by decide), hf 0x80 32 (by decide), hf 0xA0 32 (by decide), hf 6 2 (by decide), hf 0x30 4 (by decide)]
  rw [if_pos (by decide +kernel)]
  decide +kernel

/-- Programs that may be checkpointed, restored, and whose shard may be exported. -/
def areas : Prog := { prog1 with image := { img1 with ckptAreas := some (0, 0, 0) } }
def plain : Prog := { prog1 with image := { img1 with tensors := [tenA] }, state := 1 }
def exporting : Prog :=
  { prog1 with image := { img1 with shards := [shardDecl], undoArea := some 8192 }, shards := [{ onboarding with state := .paired }] }

/-- The list of one object, which is this module's own, in a window that was never written. -/
def ownList : List Byte := getBytes [] 0 64

/-- Hull 1 as given, with a block of its window in tier B that fails its check. -/
def servedBad (x : Hull) : State := { served x with mem := { ready.mem with b := [(4186112, { Blk.unwritten with data := [(0, 1)] })] } }

theorem witness_EngineAndCheckpointCommandsTakeEffect_checkpoints :
    (∀ k ∈ [0, 4, 5], ∀ w ∈ [false, true],
      let c := pk [(0, 1, 1)]
      let s := served { hull1 with prog := some { areas with logWait := w }, ckpt := { Ckpt.init with state := k } }
      let u := s.settled.begin_ c 0x0700
      s.serving c 0x0700 ∧ isHull (pf c.params 0 1) = true ∧ pf c.params 1 1 < 2 ∧ pf c.params 2 6 = 0 ∧ pf c.params 8 8 = 0 ∧
        pf c.params 0x18 8 % 64 = 0 ∧ u.inWindow 1 true (pf c.params 0x18 8) 48 = true ∧ (u.hull 1).prog = some { areas with logWait := w } ∧
        areas.image.ckptAreas.isSome = true ∧ u.ownsHull c 1 = true ∧ (u.hull 1).state = .running ∧
        ((u.hull 1).ckpt.state = 0 ∨ 3 < (u.hull 1).ckpt.state) ∧ (u.hull 1).inLogWait = w) ∧
    (let c := pk [(0, 1, 1), (2, 2, 1)]
     let s := served { hull1 with state := .granted, prog := some plain }
     let u := s.settled.begin_ c 0x0702
     let own := withRole (chainRoles c ownList) [objectIn 0] 0
     let twin := withRole (chainRoles c ownList) [objectIn 0] 1
     s.noHold ∧ (u.windowClean 1 0 64 ∧ u.windowBytes 1 0 64 = ownList) ∧ s.serving c 0x0702 ∧ u.restoreOk c ownList = true ∧ u.ownsHull c 1 = true ∧
       (u.hull 1).prog = some plain ∧ (u.hull 1).state = .granted ∧ pf c.params 8 8 = 0 ∧
       pf c.params 2 2 ≤ [object 0].length ∧ (u.hull 1).objectsOk plain own twin = true ∧ (u.applyChain 1 plain own twin).2 = true ∧
       ((u.applyChain 1 plain own twin).1.huskDigest 1 plain plain.persistent).toNat = (match own.getLast? with | some o => o.state | none => 0)) ∧
    ([object 0].take 1).map readObject = [objectIn 0].map some ∧
    (∀ q ∈ [(0, HullState.running), (1, .running), (0, .granted)],
      let c := pk [(0, 1, 1), (1, 1, q.1), (2, 2, 1), (16, 8, 3 * 4096 + 256)]
      let x := { hull1 with state := q.2, prog := some exporting }
      let s := served x
      let u := s.settled.begin_ c 0x0703
      let out := u.exportAll (u.cmdSrc c) 1 exporting ((u.hull 1).state == .running) shardDecl (u.hull 1).exportStep (q.1 / 2 % 2 == 1)
      let w := if q.1 % 2 = 1 then out.1.winWrite 1 true (pf c.params 8 8) out.2.1 else out.1.hostWrite (pf c.params 8 8) out.2.1
      s.serving c 0x0703 ∧ u.exportOf c = some (exporting, { onboarding with state := .paired }, shardDecl) ∧ u.exportOk c = true ∧
        u.ownsHull c 1 = true ∧ (u.hull 1).exportable exporting = true ∧
        sumOf (shardDecl.tensors.map fun t => exportSize (exporting.bytesOf t)) ≤ pf c.params 0x10 8 ∧ out.2.2 = false ∧ w.mem.lost = false ∧
        (State.exportAll ((servedBad x).settled.begin_ c 0x0703) (u.cmdSrc c) 1 exporting ((u.hull 1).state == .running) shardDecl
          (u.hull 1).exportStep (q.1 / 2 % 2 == 1)).2.2 = true) ∧
    (∀ t ∈ shardDecl.tensors, State.cleanRange ((served { hull1 with state := .granted, prog := some exporting }).settled.begin_
      (pk [(0, 1, 1), (1, 1, 0), (2, 2, 1), (16, 8, 3 * 4096 + 256)]) 0x0703) 1 exporting t 0 (exporting.bytesOf t)) := by
  unfold State.serving
  refine ⟨by decide +kernel, ⟨noHold_of rfl, ?_, ?_⟩, ?_, by decide +kernel, ?_⟩
  · exact window_first (w := unwrittenHusk) (d := []) 64 rfl (by decide) (by decide) (serves_at (by decide) rfl (by decide) rfl) rfl rfl rfl
  · decide +kernel
  · simp only [List.take_succ_cons, List.take_zero, List.map_cons, List.map_nil, object_read]
  · intro t ht
    obtain rfl : t = 1 := List.mem_singleton.mp ht
    refine ⟨true, 0, rfl, ?_⟩
    rw [show blocksOf 0 (exporting.bytesOf 1) = [0, 1] by decide]
    intro i hi
    simp only [List.mem_cons, List.not_mem_nil, or_false] at hi
    rcases hi with rfl | rfl
    · exact clean_at (u := 1) (row := 0) (serves_at (by decide) rfl (by decide) rfl) rfl rfl
    · exact clean_at (u := 1) (row := 1) (serves_at (by decide) rfl (by decide) rfl) rfl rfl

/-- A block whose first bytes say a longer answer than an answer may have, where the service's answers lie. -/
def longAnswer : Blk := Blk.unwritten.merged (huskTag 1 0) 1 [8]

theorem longAnswer_long : Machine.fieldLe ((longAnswer.payload.drop (0 % 4096)).take 4096) 0 4 = 2048 := by
  have h : (longAnswer.payload.drop (0 % 4096)).take 4096 = getBytes longAnswer.data 0 4096 := payload_take _ longAnswer.husk (Nat.le_refl _)
  rw [h, getBytes_fieldLe _ 0 4 4096 (by decide)]
  decide

theorem longAnswer_read {v : State} {p : Prog} (hp : p.memPlace 1 = some (true, 0)) (hm : v.mem.meets = []) (hs : v.servesAt 1 true 0 1 0)
    (hb : v.blk true (blkPer true * 1 + 0) = longAnswer) (hd : (v.hull 1).dbg = 0) :
    1024 < Machine.fieldLe (v.collRead 1 p 1 0 4096).data 0 4 := by
  have hk := Blk.merged_passes Blk.unwritten (huskTag 1 0) 1 [8] (by decide) (by decide)
  have h := State.readRange_one (tierB := true) (tensor := 1) (base := 0) (i := 0) (u := 1) (row := 0) hm (off := 0) (len := 4096)
    (by decide) hs (hb ▸ hk.2) (.inr hd)
  unfold State.collRead
  simp only [hp, h, hb, longAnswer_long]
  decide

/-- The states of the clauses on an answer that is too long. -/
theorem witness_ProgramCommandsTakeEffect_longAnswer :
    let call := call0 false
    let p := { progIn 3 with calls := [call] }
    let s : State := { asking [call] with mem := { ready.mem with b := [(4186112, longAnswer)] } }
    s.noHold ∧ s.cleanRange 1 p 1 0 4096 ∧ ∃ v, s.settled.coreAcquire service.ansSem = some v ∧
      1024 < Machine.fieldLe (State.collRead (v.setHull 1 { v.hull 1 with
        prog := (v.hull 1).prog.map fun (p : Prog) => { p with calls := p.calls.erase call } }) 1 p 1 0 4096).data 0 4 := by
  have hm := Blk.merged_passes Blk.unwritten (huskTag 1 0) 1 [8] (by decide) (by decide)
  have hb : blocksOf 0 4096 = [0] := by decide
  refine ⟨noHold_of rfl, ⟨true, 0, rfl, ?_⟩, _, rfl, ?_⟩
  · rw [hb]
    intro i hi
    obtain rfl := List.mem_singleton.mp hi
    exact ⟨1, 0, serves_at rfl rfl (by decide) rfl, hm.2, .inr rfl⟩
  · exact longAnswer_read rfl rfl (serves_at (n := 1) (row := 0) rfl rfl (by decide) rfl) rfl rfl

/-! ### A signed probe program: the digest of its 4096 zero bytes, four blocks of SHA-384 at a time -/

def zeroRounds : Nat → List (BitVec 64) → List (BitVec 64)
  | 0, h => h
  | k + 1, h => zeroRounds k (shaBlock rot512 sha512K h (List.replicate 16 0))

theorem zeroRounds_add (a b : Nat) (h : List (BitVec 64)) : zeroRounds (a + b) h = zeroRounds b (zeroRounds a h) := by
  induction a generalizing h with
  | zero => rw [Nat.zero_add]; rfl
  | succ a ih =>
    rw [Nat.succ_add]
    exact ih _

theorem zeros_add (a b : Nat) : zeros (a + b) = zeros a ++ zeros b := List.replicate_add ..

theorem shaBlocks_zeros (k m : Nat) (l : List Byte) (h : List (BitVec 64)) :
    shaBlocks rot512 sha512K 8 (k + m) (zeros (128 * k) ++ l) h = shaBlocks rot512 sha512K 8 m l (zeroRounds k h) := by
  induction k generalizing h with
  | zero => rw [Nat.zero_add]; rfl
  | succ k ih =>
    have hz : zeros (128 * (k + 1)) ++ l = zeros 128 ++ (zeros (128 * k) ++ l) := by
      rw [Nat.mul_succ, Nat.add_comm, zeros_add, List.append_assoc]
    rw [hz, Nat.succ_add]
    generalize zeros (128 * k) ++ l = q at ih ⊢
    have hw : ((upFrom 0 16).map fun i => BitVec.ofNat 64 (beNat (((zeros 128 ++ q).drop (8 * i)).take 8))) = List.replicate 16 0 := rfl
    have hd : (zeros 128 ++ q).drop (16 * 8) = q := rfl
    rw [shaBlocks, hw, hd]
    exact ih _

def zeroSt1 : List (BitVec 64) :=
  [0xb4f17373d387da42, 0x846ddb3ee7b014dd, 0x6df8303e0d268503, 0xd6fbd9c8d01884a3,
   0x0914ea7577b4649d, 0x8dd2b69667bfe131, 0xa3531b5dc734bffb, 0x20bee0140717d0c8]
def zeroSt2 : List (BitVec 64) :=
  [0x715d870ce8855d09, 0x74a720dff84a3aad, 0x67d9d41703df64ed, 0xe93a103f02de7f08,
   0xb720c0bde7a88d53, 0xf6d932f9da2d449c, 0x97adf0c54c30bfe8, 0x486735bc287b129d]
def zeroSt3 : List (BitVec 64) :=
  [0x29a4605abee67b4f, 0x3541a7327cca98ea, 0x56c580191802a900, 0x6a7c062efd394da1,
   0xb3382d55b805784f, 0xe2082b0018915b91, 0x72a8a504499f8064, 0xded8b99c2480a7ad]
def zeroSt4 : List (BitVec 64) :=
  [0x2cbac553e1441f68, 0xa1902c48e3e001f6, 0xa23cfdfc7895e96a, 0x9dbb316e8239981f,
   0xe00173a252eed119, 0x432178a83f66b2f6, 0x130d12fa07045a9f, 0x73912893957a9159]
def zeroSt5 : List (BitVec 64) :=
  [0x2161287e24144e4b, 0xa87dd2f6378f147b, 0xa3e3b4008d85691d, 0x360c3f46b38ba49d,
   0x94125b8fd2681576, 0xf9234afa7e1240b1, 0x788bcfeeefb4050a, 0x0675723f591277f1]
def zeroSt6 : List (BitVec 64) :=
  [0xba3095818bc538f0, 0xe4c7a0be8665b75c, 0x070a8f9e4156ea94, 0x9e4a24d20da6f50c,
   0xb126521944510898, 0xf19ed58f7694d081, 0x83993eeed4267a97, 0xbc0170fc32417e75]
def zeroSt7 : List (BitVec 64) :=
  [0x37c32ce6d191d341, 0x3b2a4f38498e5434, 0x0307406e2de36e25, 0xbd453c44337ef512,
   0xe83b88e6587f1133, 0x101d698bdcc2ff23, 0xd177b074971a6f46, 0x80ae4a9202cdc2b5]
def zeroSt8 : List (BitVec 64) :=
  [0x74b65552241defc5, 0x7f47133eabb8ee03, 0xd337485e3c967777, 0x56305aa7077a987b,
   0x61a9641c5d5cc4f8, 0xb37b48e9d5999090, 0x60fb67c06fd0b9a9, 0x54dfc9c6af525c14]
theorem zeroSt1_eq : zeroRounds 4 sha384H = zeroSt1 := by decide +kernel
theorem zeroSt2_eq : zeroRounds 4 zeroSt1 = zeroSt2 := by decide +kernel
theorem zeroSt3_eq : zeroRounds 4 zeroSt2 = zeroSt3 := by decide +kernel
theorem zeroSt4_eq : zeroRounds 4 zeroSt3 = zeroSt4 := by decide +kernel
theorem zeroSt5_eq : zeroRounds 4 zeroSt4 = zeroSt5 := by decide +kernel
theorem zeroSt6_eq : zeroRounds 4 zeroSt5 = zeroSt6 := by decide +kernel
theorem zeroSt7_eq : zeroRounds 4 zeroSt6 = zeroSt7 := by decide +kernel
theorem zeroSt8_eq : zeroRounds 4 zeroSt7 = zeroSt8 := by decide +kernel

/-- Bytes above every entry of a table read as zero. -/
theorem getBytes_above (t : Tbl Byte) (a n : Nat) (h : t.all (fun q => decide (q.1 < a)) = true) : getBytes t a n = zeros n := by
  induction n generalizing a with
  | zero => rfl
  | succ n ih =>
    have hf : tfind t a = none := by
      clear ih
      induction t with
      | nil => rfl
      | cons q r ihr =>
        simp only [List.all_cons, Bool.and_eq_true, decide_eq_true_eq] at h
        rw [tfind, if_neg (by omega)]
        exact ihr h.2
    have h' : t.all (fun q => decide (q.1 < a + 1)) = true :=
      List.all_eq_true.mpr fun q hq => by
        have := List.all_eq_true.mp h q hq
        simp only [decide_eq_true_eq] at this ⊢
        omega
    have e := ih (a + 1) h'
    simp only [getBytes, upFrom, List.map_cons, tget, hf, Option.getD_none, zeros, List.replicate_succ] at e ⊢
    rw [e]

theorem sha384_zeros : sha384Bytes (zeros 4096) = [192, 229, 154, 62, 63, 251, 211, 181, 199, 84, 40, 251, 54, 67, 47, 172, 171, 199, 69, 148, 66, 150, 255, 81]
    ++ [95, 115, 124, 79, 239, 78, 252, 100, 88, 104, 9, 247, 161, 111, 86, 53, 74, 30, 174, 207, 42, 168, 215, 116] := by
  have hp : shaPad 128 16 (zeros 4096) = zeros (128 * 32) ++ ([0x80] ++ zeros 111 ++ natBe 16 32768) := by
    simp only [shaPad, zeros_length, List.append_assoc]
  have hl : (shaPad 128 16 (zeros 4096)).length / 128 = 32 + 1 := by
    rw [hp]
    simp only [List.length_append, zeros_length, natBe_length, List.length_cons, List.length_nil]
  have hz : zeroRounds 32 sha384H = zeroSt8 := by
    rw [show (32 : Nat) = 4 + (4 + (4 + (4 + (4 + (4 + (4 + 4)))))) from rfl]
    simp only [zeroRounds_add, zeroSt1_eq, zeroSt2_eq, zeroSt3_eq, zeroSt4_eq, zeroSt5_eq, zeroSt6_eq, zeroSt7_eq, zeroSt8_eq]
  unfold sha384Bytes
  dsimp only
  rw [hl, hp, shaBlocks_zeros, hz]
  decide +kernel

/-- The signed header in host memory, and the key that signed it. -/
def headTbl1 : Tbl Byte :=
  [(0, 1), (3, 161), (4, 1), (8, 32), (9, 78), (12, 128), (13, 2), (17, 16), (24, 192), (25, 229), (26, 154), (27, 62), (28, 63),
   (29, 251), (30, 211), (31, 181), (32, 199), (33, 84), (34, 40), (35, 251), (36, 54), (37, 67), (38, 47), (39, 172), (40, 171),
   (41, 199), (42, 69), (43, 148), (44, 66), (45, 150), (46, 255), (47, 81), (48, 95), (49, 115), (50, 124), (51, 79), (52, 239),
   (53, 78), (54, 252), (55, 100), (56, 88), (57, 104), (58, 9), (59, 247), (60, 161), (61, 111), (62, 86), (63, 53), (64, 74), (65, 30),
   (66, 174), (67, 207), (68, 42), (69, 168), (70, 215), (71, 116), (72, 21), (73, 112), (74, 157), (75, 98), (76, 239), (77, 97),
   (78, 170), (79, 211), (80, 102), (81, 51), (82, 231), (83, 135), (84, 176), (85, 235), (86, 128), (87, 234), (88, 135), (89, 14),
   (90, 9)]
def headTbl2 : Tbl Byte :=
  [(91, 46), (93, 212), (94, 254), (95, 117), (96, 72), (97, 89), (98, 210), (99, 144), (100, 6), (101, 167), (102, 14), (103, 227),
   (104, 50), (105, 157), (106, 23), (107, 148), (108, 37), (109, 92), (110, 170), (111, 139), (112, 239), (113, 62), (114, 229),
   (115, 149), (116, 48), (117, 196), (118, 244), (119, 48), (120, 77), (121, 218), (122, 92), (123, 138), (124, 120), (125, 114),
   (126, 87), (127, 66), (128, 159), (129, 81), (130, 83), (131, 215), (132, 3), (133, 225), (134, 253), (135, 184), (136, 14),
   (137, 20), (138, 105), (139, 203), (140, 79), (141, 4), (142, 142), (143, 12), (144, 130), (145, 219), (146, 67), (147, 128),
   (148, 149), (149, 39), (150, 216), (151, 118), (152, 101), (153, 37), (154, 86), (155, 193), (156, 135), (157, 115), (158, 152),
   (159, 210), (160, 198), (161, 70), (162, 249), (163, 125), (164, 19), (165, 150), (166, 114), (167, 17)]
def contentTbl : Tbl Byte := headTbl1 ++ headTbl2
def signKey : BitVec 768 :=
  BitVec.ofNat 768 (0x32acb9eb4faa60155600564c9e13438f09ff56cfb3c7baf8d762e18a7e087d5ab6a405a980daea3ede8617a96d91070c * 2 ^ 384
    + 0x300562f34fb764aca1d79bb613c59b61e507dfa9f5173545b0a338ad2f2c2c05827c6027e9c7132e13b39a381a0baced)

/-! ## Hypotheses of the statements: maintenance, debug, power -/

/-- Content of slot 0 for pods, of slot 1 for near-memory units. -/
def slots2 : Tbl SlotS :=
  [(0, { kind := 0, version := 1, durationMs := 100, share := 640, bytes := 4096 }),
   (1, { kind := 1, version := 1, durationMs := 100, share := 0, bytes := 4096 })]
def tested (x : Hull) : State := { served x with slots := slots2, pods := [(0, pod0), (7, { Pod.init with state := .idle })] }
def testCmd (op : Nat) (fields : List (Nat × Nat × Nat)) : Cmd := pk ((0, 1, op) :: fields)

/-- Pod 7 belongs to no hull. -/
theorem witness_MaintenanceCommandsTakeEffect :
    (∀ p ∈ [0, 7],
      let c := testCmd 1 [(1, 1, p)]
      let x := { hull1 with prog := none }
      let u := (tested x).settled.begin_ c 0x0800
      (tested x).serving c 0x0800 ∧ u.isOperator c = true ∧ (u.slotFor (pf c.params 2 1) 0).isSome = true ∧ testFieldsOk c 1 = true ∧
        u.board.fused.getLsbD p = false ∧ u.probe.active = false ∧ ((u.pod p).hull = 0 ∨ (u.hull (u.pod p).hull).prog = none) ∧
        (u.pod p).asleep = false ∧ u.probeShort (u.pod p).hull 640 = 0) ∧
    (let c := testCmd 2 [(2, 1, 1), (3, 1, 11)]
     let u := (tested hull1).settled.begin_ c 0x0800
     (tested hull1).serving c 0x0800 ∧ u.isOperator c = true ∧ (u.slotFor (pf c.params 2 1) 1).isSome = true ∧ testFieldsOk c 2 = true ∧
       u.probe.active = false) ∧
    (∀ p ∈ [0, 7],
      let c := testCmd 3 [(1, 1, p)]
      let x := { hull1 with prog := none }
      let u := (tested x).settled.begin_ c 0x0800
      (tested x).serving c 0x0800 ∧ u.isOperator c = true ∧ testFieldsOk c 3 = true ∧ u.board.fused.getLsbD p = false ∧
        (u.pod p).hull = (if p = 0 then 1 else 0) ∧ (u.hull 1).prog = none) ∧
    (let c := testCmd 4 [(1, 1, 7)]
     let s := { tested hull1 with bypass := 0x80 }
     let u := s.settled.begin_ c 0x0800
     s.serving c 0x0800 ∧ u.isOperator c = true ∧ testFieldsOk c 4 = true ∧ u.board.fused.getLsbD 7 = false ∧ u.bypass.getLsbD 7 = true) ∧
    (∀ n ∈ [0, 511, 512, 575],
      let c := testCmd 5 [(4, 2, n)]
      let u := (tested hull1).settled.begin_ c 0x0800
      let m := if n < 512 then MemUnit.a n else .b (n - 512)
      (tested hull1).serving c 0x0800 ∧ u.isOperator c = true ∧ testFieldsOk c 5 = true ∧ (u.unit m).state ≠ 2 ∧ u.mem.mapout ≠ some m ∧
        (u.mem.mapoutQueue.any fun q => q.2.1 == m) = false) ∧
    (∀ op ∈ [6, 7],
      let c := testCmd op [(6, 1, 35)]
      (tested hull1).serving c 0x0800 ∧ ((tested hull1).settled.begin_ c 0x0800).isOperator c = true ∧ testFieldsOk c op = true) ∧
    (let k : Collector := { configured := true, reachable := true, next := 0 }
     let s := { ready with collectors := [k], log := [record0] }
     s.collectors[0]? = some k ∧ k.configured = true ∧ k.reachable = true ∧ s.pushNext k = some record0) := by
  unfold State.serving
  refine ⟨?_, ?_, ?_, ?_, ?_, ?_, ?_⟩ <;> decide +kernel

/-- The block with that content in host memory and its key, and a recorded version of its kind. -/
def contentState (ver : Nat) : State :=
  { served hull1 with host := contentTbl, maxVersion := [(0, ver)], sec := { ready.sec with contentKey := signKey } }

def contentCmd : Cmd := pk [(16, 8, 4352)]

theorem contentState_body (ver : Nat) : getBytes (((contentState ver).settled.begin_ contentCmd 0x0801).host) 256 4096 = zeros 4096 :=
  getBytes_above contentTbl 256 4096 (by decide)

theorem contentTbl_signed : sigOk signKey (slice (getBytes contentTbl 0 256) 0x48 96) (slice (getBytes contentTbl 0 256) 0 0x48) = true := by
  decide +kernel

/-- The versions of the two clauses: none recorded before, and a newer one. -/
theorem witness_MaintenanceCommandsTakeEffect_content : ∀ ver ∈ [0, 1, 2],
    let c := contentCmd
    let u := (contentState ver).settled.begin_ c 0x0801
    let n := pf c.params 0x10 8
    let head := getBytes u.host (pf c.params 8 8) 256
    let body := getBytes u.host (pf c.params 8 8 + 256) (n - 256)
    (contentState ver).serving c 0x0801 ∧ pf c.params 0 1 < 8 ∧ pf c.params 1 7 = 0 ∧ restZero c 0x18 = true ∧ pf c.params 8 8 % 4096 = 0 ∧
      contentOk head n = true ∧ u.isOperator c = true ∧ u.probe.active = false ∧ sha384Bytes body = slice head 0x18 48 ∧
      sigOk u.sec.contentKey (slice head 0x48 96) (slice head 0 0x48) = true ∧ fieldLe head 4 4 = 1 ∧
      tget 0 u.maxVersion (fieldLe head 2 1) = ver := by
  intro ver hv
  unfold State.serving
  have hn : pf contentCmd.params 0x10 8 - 256 = 4096 := by decide
  have ha : pf contentCmd.params 8 8 + 256 = 256 := by decide
  have hb := contentState_body ver
  refine ⟨?_, ?_, ?_, ?_, ?_, ?_, ?_, ?_, ?_, contentTbl_signed, ?_, ?_⟩
  case refine_9 =>
    rw [hn, ha, hb, sha384_zeros, show pf contentCmd.params 8 8 = 0 by decide,
      show ((contentState ver).settled.begin_ contentCmd 0x0801).host = contentTbl from rfl]
    decide +kernel
  all_goals
    simp only [List.mem_cons, List.not_mem_nil, or_false] at hv
    rcases hv with rfl | rfl | rfl <;> decide +kernel

/-- A debug token of each scope in host memory, signed, for GTCs below 1000. -/
def token0_1 : Tbl Byte :=
  [(0, 1), (8, 232), (9, 3), (64, 21), (65, 112), (66, 157), (67, 98), (68, 239), (69, 97), (70, 170), (71, 211), (72, 102), (73, 51),
   (74, 231), (75, 135), (76, 176), (77, 235), (78, 128), (79, 234), (80, 135), (81, 14), (82, 9), (83, 46), (85, 212), (86, 254),
   (87, 117), (88, 72), (89, 89), (90, 210), (91, 144), (92, 6), (93, 167), (94, 14), (95, 227), (96, 50), (97, 157), (98, 23),
   (99, 148), (100, 37), (101, 92), (102, 170), (103, 139), (104, 239), (105, 62), (106, 229), (107, 149), (108, 48), (109, 196),
   (110, 244)]
def token0_2 : Tbl Byte :=
  [(111, 48), (112, 142), (113, 117), (114, 215), (115, 207), (116, 239), (117, 213), (118, 108), (119, 196), (120, 205), (121, 103),
   (122, 234), (123, 30), (124, 205), (125, 180), (126, 37), (127, 253), (128, 82), (129, 1), (130, 16), (131, 81), (132, 176),
   (133, 14), (134, 114), (135, 67), (136, 130), (137, 144), (138, 219), (139, 55), (140, 87), (141, 112), (142, 31), (143, 159),
   (144, 28), (145, 215), (146, 89), (147, 7), (148, 197), (149, 180), (150, 234), (151, 33), (152, 194), (153, 117), (154, 8),
   (155, 51), (156, 131), (157, 66), (158, 45), (159, 49)]
def token1_1 : Tbl Byte :=
  [(0, 1), (2, 1), (8, 232), (9, 3), (64, 21), (65, 112), (66, 157), (67, 98), (68, 239), (69, 97), (70, 170), (71, 211), (72, 102),
   (73, 51), (74, 231), (75, 135), (76, 176), (77, 235), (78, 128), (79, 234), (80, 135), (81, 14), (82, 9), (83, 46), (85, 212),
   (86, 254), (87, 117), (88, 72), (89, 89), (90, 210), (91, 144), (92, 6), (93, 167), (94, 14), (95, 227), (96, 50), (97, 157),
   (98, 23), (99, 148), (100, 37), (101, 92), (102, 170), (103, 139), (104, 239), (105, 62), (106, 229), (107, 149), (108, 48),
   (109, 196)]
def token1_2 : Tbl Byte :=
  [(110, 244), (111, 48), (112, 210), (113, 30), (114, 171), (115, 23), (116, 108), (117, 138), (118, 86), (119, 36), (120, 179),
   (121, 112), (122, 146), (123, 14), (124, 160), (125, 131), (126, 168), (127, 8), (128, 217), (129, 205), (130, 220), (131, 217),
   (132, 168), (133, 8), (134, 245), (135, 106), (136, 18), (137, 36), (138, 88), (139, 34), (140, 181), (141, 89), (142, 249),
   (143, 190), (144, 167), (145, 195), (146, 9), (147, 184), (148, 240), (149, 119), (150, 245), (151, 208), (152, 20), (153, 50),
   (154, 153), (155, 205), (156, 188), (157, 47), (158, 1), (159, 187)]

/-- Hull 1 with class k, the tokens' key, and a device whose debug of tenants is on. -/
def debugged (k : Nat) (host : Tbl Byte) : State :=
  { served { hull1 with dbg := k } with
    host := host, regs := [(0x0F0008, 1)], sec := { ready.sec with debugKey := signKey, ctx0 := k } }
def attachState (h k : Nat) : State := debugged 0 (if k = 2 then (if h = 0 then token0_1 ++ token0_2 else token1_1 ++ token1_2) else [])
def attachCmd (h k : Nat) : Cmd := pk [(0, 1, h), (1, 1, k), (16, 4, if k = 2 then 160 else 0)]

/-- A lease that core 7 holds. -/
def coreLease : SyncObj := { counter with kind := 2, value := 0, holdLimit := 2, holder := some 0x0307 }

theorem witness_DebugCommandsTakeEffect :
    (∀ q ∈ [(0, 0), (0, 2), (1, 0), (1, 1), (1, 2)],
      let c := attachCmd q.1 q.2
      let s := attachState q.1 q.2
      let u := s.settled.begin_ c 0x0900
      s.serving c 0x0900 ∧ pf c.params 0 1 = q.1 ∧ pf c.params 1 1 = q.2 ∧ attachOk c = true ∧
        (if q.1 = 0 then u.isOperator c else u.ownsHull c q.1) = true ∧ (q.2 = 1 → u.reg 0x0F0008 % 2 = 1) ∧ (q.1 ≠ 0 → (u.hull q.1).live = true) ∧
        (q.2 = 2 → u.tokenOk (getBytes u.host (pf c.params 8 8) 160) (if q.1 = 0 then 0 else 1) = true)) ∧
    (∀ q ∈ [(0, 0, 0), (1, 1, 4096), (2, 1, 0), (3, 1, 0), (4, 1, 4096), (5, 1, 0), (6, 1, 0), (7, 0, 0)],
      let c := pk [(0, 1, q.1), (1, 1, q.2.1), (4, 4, 8), (16, 8, q.2.2)]
      let s := debugged 2 []
      let t := s.setHull 1 { s.hull 1 with halted := true }
      let u := t.settled.begin_ c 0x0901
      t.serving c 0x0901 ∧ u.peekOk c = true ∧ u.peekReach c = true ∧ u.peekBusy c = false) ∧
    (∀ q ∈ [(0, false), (1, true)],
      let c := pk [(1, 1, 1), (3, 1, q.1)]
      let s := debugged 1 []
      let t := s.setHull 1 { s.hull 1 with halted := q.2 }
      let u := t.settled.begin_ c 0x0902
      t.serving c 0x0902 ∧ haltOk c 0 q.1 = true ∧ u.classOf c (pf c.params 1 1) ≠ 0 ∧ (u.hull (pf c.params 1 1)).state = .running ∧
        (u.hull (pf c.params 1 1)).halted = q.2) ∧
    (∀ q ∈ [(0, 0, false), (2, 1, false), (1, 0, true)],
      let c := pk [(0, 1, 1), (2, 1, 7), (3, 1, q.1)]
      let s := { debugged 1 [] with sync := if q.2.1 = 0 then [] else [(9, coreLease)] }
      let t := s.setCore 7 { s.core 7 with halted := q.2.2 }
      let u := t.settled.begin_ c 0x0902
      t.serving c 0x0902 ∧ u.classOf c 0 ≠ 0 ∧ (u.ring 0).core ≠ 7 ∧ haltOk c 1 (q.1 % 2) = true ∧ (u.core 7).halted = q.2.2 ∧
        (q.1 % 2 = 0 → (u.coreLeases 7).length = q.2.1 ∧ ((upFrom 0 8).filter fun i => (u.core i).halted).length < 7)) := by
  unfold State.serving
  refine ⟨?_, ?_, ?_, ?_⟩ <;> decide +kernel

theorem witness_PowerStatesChange :
    (∀ gtc ∈ [0, 1],
      let c := pk [(0, 1, 1), (1, 1, 7), (3, 1, 7), (8, 8, gtc)]
      let u := (slept idle7 false hull1).settled.begin_ c 0x0A00
      (slept idle7 false hull1).serving c 0x0A00 ∧ u.isOperator c = true ∧ u.powerOk c 1 0 = true ∧ u.podState 7 = .idle ∧ u.podHeld 7 = false ∧
        (u.pod 7).entering = false) ∧
    (let c := pk [(0, 1, 1), (1, 1, 7), (2, 1, 1)]
     let s := slept { Pod.init with state := .off } false hull1
     let u := s.settled.begin_ c 0x0A00
     s.serving c 0x0A00 ∧ u.isOperator c = true ∧ u.powerOk c 1 1 = true ∧ u.podState 7 = .off ∧ (u.pod 7).standbyState = .off ∧
       (u.pod 7).waking = false) ∧
    (let c := pk [(2, 1, 1)]
     let s := slept idle7 false { hull1 with state := .granted }
     let u := s.settled.begin_ c 0x0A00
     s.serving c 0x0A00 ∧ u.isOperator c = true ∧ u.powerOk c 0 1 = true ∧ u.mayStandby = true) ∧
    (let c := pk []
     let s := slept idle7 true { hull1 with state := .granted }
     let u := s.settled.begin_ c 0x0A00
     s.serving c 0x0A00 ∧ u.isOperator c = true ∧ u.powerOk c 0 0 = true ∧ u.board.standby = true) ∧
    (let x := { idle7 with entering := true, wakeMask := 4 }
     ((slept x false hull1).pod 7).entering = true ∧ ((slept x false hull1).pod 7).wakeMask.getLsbD 2 = true ∧
       ((slept x false hull1).pod 7).wakeGtc ≤ (slept x false hull1).time.gtc) ∧
    (let x := { Pod.init with state := .off, wakeMask := 4 }
     (x.entering = false ∧ x.state = .off ∧ x.standbyState = .off ∧ x.waking = false ∧ x.wakeMask.getLsbD 2 = true) ∧
       (slept x false hull1).inService = true ∧ ((slept { x with waking := true } false hull1).pod 7).waking = true) := by
  unfold State.serving
  refine ⟨?_, ?_, ?_, ?_, ?_, ?_⟩ <;> decide +kernel

/-! ## Hypotheses of the statements: formats, steps -/

/-- Largest and smallest finite magnitudes, an infinity and zeros of the formats. -/
theorem witness_ExactValuesKeepTheirEncoding :
    (∀ q ∈ [(fp64, 0x7FEFFFFFFFFFFFFF), (fp64, 1), (fp64, 0xFFF0000000000000), (fp32, 0x7F7FFFFF), (fp16, 0x7BFF), (bf16, 0x8000), (e5m2, 0x7B),
        (e4m3, 0x7E), (e3m2, 0x1F), (e2m3, 0x3F), (e2m1, 0x0)],
      q.1 ∈ [fp64, fp32, fp16, bf16, e5m2, e4m3, e3m2, e2m3, e2m1] ∧ q.2 < 2 ^ q.1.bits ∧ decodeF q.1 q.2 ≠ .nan ∧
        (q.1.flush = true → q.2 / 2 ^ q.1.fb % 2 ^ q.1.eb = 0 → q.2 % 2 ^ q.1.fb = 0)) := by
  decide +kernel

/-- Reset with a command that waits, which a step takes: the queue moves on and the pin has its level. -/
def waiting : State := { State.reset with pending := [.perst false, .inputUndervoltage] }

theorem witness_StepTakesTheFrontCommand :
    waiting.pending = .perst false :: [.inputUndervoltage] ∧ State.reset.pending = [] := ⟨rfl, rfl⟩

theorem witness_NoStepChangesTheFixedIdentity : ∃ t, step waiting = .next t ∧ t.pending = [.inputUndervoltage] ∧ t.board.perstN = false :=
  ⟨_, rfl, rfl, rfl⟩

theorem witness_ProbeContentNeverRollsBack : (∃ t, step waiting = .next t) ∧ waiting.contentOk :=
  ⟨⟨_, rfl⟩, fun k e h => by simp [waiting, State.reset, tfind] at h⟩

theorem witness_MemoryKeepsItsCanonicalForm : waiting.dramWf = true ∧ ∃ t, step waiting = .next t := ⟨by decide, _, rfl⟩

/-! ## What well-formedness refuses: one command per check, beside one that passes -/

/-- A packet whose tail is not as long as its header says, and one from a ring that does not exist. -/
def longTail : Cmd := { pk [] with tailBytes := 2, tail := [0] }
def ring8 : Cmd := { pk [] with org := .ring 8 }
def endpoint16 : Cmd := { pk [] with org := .udp 16 }

/-- Each a number past the last. -/
theorem test_ill_formed_is_refused : ∀ i ∈ ([.sAdd 128 fr, .tickBegin 0 [], .tickBegin 5 [], .wakeTimer 8, .throttleChange 3 0, .bundleRetrain 36,
   .ausFree 16, .icClaim 8, .doorbell 8 0, .endpointEnable 16 0, .heartbeat 1 4096, .leaseBreak 16384, .setPending 0 0, .setPending 0 1023,
   .descriptorRetire 0 8 0 .ok [], .descriptorRetire 0 0 64 .ok [], .refresh (.a 512), .refresh (.b 64), .refreshHot false 8 true 0,
   .refreshHot true 16 true 0, .scrubBlock (.a 0) 261632 .ok 0, .scrubBlock (.b 0) 4186112 .ok 0, .verify (.desc 0 0 64) [], .devInfo longTail,
   .devInfo ring8, .devInfo endpoint16, .syncRequestArrive (.core 0 1 16 0 0 false), .rcRead (.core 8) 0,
   .mMma 0 0 0 0 false 0 0 0 [] (.mismatch 128 0 0), .laneLoss 0 4, .messageReceive 0 (msg 5 0 []), .flitReceive 0 { flit 1 0 with bytes := [] },
   .startUpEnd { training true with failPods := [8] }, .probeRunEnd true 16 0, .recordPushAck 2, .ethPortStateChange 2 true, .vendorExpiry 5,
   .attGo 5] : List Instr), i.wf = false := by
  decide

/-- Each the last number. -/
theorem test_well_formed_is_accepted : ∀ i ∈ ([.sAdd 127 fr, .tickBegin 4 [], .wakeTimer 7, .throttleChange 2 0, .bundleRetrain 35, .ausFree 15,
   .icClaim 7, .doorbell 7 0, .endpointEnable 15 0, .heartbeat 1 4095, .leaseBreak 16383, .setPending 0 1022, .descriptorRetire 0 7 63 .ok [],
   .refresh (.a 511), .refresh (.b 63), .refreshHot false 7 true 0, .refreshHot true 15 true 0, .scrubBlock (.a 0) 261631 .ok 0,
   .scrubBlock (.b 0) 4186111 .ok 0, .verify (.desc 0 7 63) [], .devInfo (pk []), .syncRequestArrive (.core 0 1 15 0 0 false), .rcRead (.core 7) 0,
   .mMma 0 0 0 0 false 0 0 0 [] (.mismatch 127 127 7), .laneLoss 0 3, .messageReceive 0 (msg 4 0 []), .startUpEnd (training true),
   .probeRunEnd true 15 0, .recordPushAck 1, .ethPortStateChange 1 true, .vendorExpiry 4, .attGo 4]
    : List Instr), i.wf = true := by
  decide

theorem test_flit_well_formed : (flit 1 0).wf = true := by simp [Flit.wf, flit]

/-- No row of the opcode table has bits. -/
theorem test_no_word_spells_a_command : ∀ nbits w, decodeTableWord nbits w = none := fun _ _ => rfl

/-- A bundle written out slot by slot (R91, R97, R109, R111, R121, R126, R133): M.ZERO of accumulator 5, V.ADD of V1 from V2 and V3, V.BCAST
of element 63 of V5 to V4, S.ADDI of S7 with 1023, S.ADD of S8 under P3, A.WAIT on queue 3 for 5, Y.EOT. -/
def bundleM : Nat := 6 * 2 ^ 44 + 5 * 2 ^ 41
def bundleV0 : Nat := 0x02 * 2 ^ 40 + 1 * 2 ^ 34 + 2 * 2 ^ 28 + 3 * 2 ^ 22
def bundleV1 : Nat := 0x2A * 2 ^ 40 + 4 * 2 ^ 34 + 5 * 2 ^ 28 + 63
def bundleS0 : Nat := 0x12 * 2 ^ 18 + 7 * 2 ^ 10 + 1023
def bundleS1 : Nat := 0x01 * 2 ^ 18 + 3 * 2 ^ 15 + 8 * 2 ^ 10 + 1 * 2 ^ 5 + 2
def bundleA : Nat := 2 * 2 ^ 34 + 3 * 2 ^ 28 + 5
def bundleY : Nat := 0x10 * 2 ^ 15
def bundleWith (m s1 format : Nat) : Nat :=
  m + 2 ^ 48 * bundleV0 + 2 ^ 96 * bundleV1 + 2 ^ 144 * bundleS0 + 2 ^ 168 * s1 + 2 ^ 192 * bundleA + 2 ^ 232 * bundleY + 2 ^ 252 * format

theorem test_bundle_decodes : decodeBundle 9 (bundleWith bundleM bundleS1 1) = some
    [.mZero 9 5, .vAdd 9 { vd := 1, va := 2, vb := 3, vc := 0, fmt := 0, gm := 0, imm := 0 },
     .vBcast 9 { vd := 4, va := 5, vb := 0, lg := 0, fmtS := 0, rnd := 0, gm := 0, fmtD := 0, imm6 := 63 },
     .sAddi 9 { s1 := false, pg := 0, rd := 7, imm := 1023 }, .sAdd 9 { s1 := true, pg := 3, rd := 8, ra := 1, rb := 2 },
     .aWait 9 0 3 5, .yEot 9 { pg := 0, so := 0, imm := 0 }] ∧ bundleOk (bundleWith bundleM bundleS1 1) = true := by
  decide +kernel

/-- R91, R92: another FORMAT, an opcode of M that names nothing, a NOP with a bit set, a zero field that is not, S.BR in slot S1, two
destinations alike: each is no valid bundle. -/
theorem test_invalid_bundles : ∀ w ∈ [bundleWith bundleM bundleS1 2, bundleWith (7 * 2 ^ 44) bundleS1 1, bundleWith 1 bundleS1 1,
    bundleWith (bundleM + 1) bundleS1 1, bundleWith bundleM (0x28 * 2 ^ 18) 1, bundleWith bundleM (0x01 * 2 ^ 18 + 7 * 2 ^ 10) 1],
    bundleOk w = false := by
  decide +kernel

/-- Empty memory of reset is in canonical form. -/
theorem test_reset_memory : State.reset.dramWf = true := by decide

/-! ## The standards' own check values (log entry 12) -/

/-- The check value of CRC-32C, over the digits 1 to 9. -/
theorem test_crc32c : crc32c [0x31, 0x32, 0x33, 0x34, 0x35, 0x36, 0x37, 0x38, 0x39] = 0xE3069283 := by decide +kernel

/-- FIPS 180-4's example "abc": the first eight bytes of each digest. -/
theorem test_sha256 : (sha256Bytes [0x61, 0x62, 0x63]).take 8 = [0xBA, 0x78, 0x16, 0xBF, 0x8F, 0x01, 0xCF, 0xEA] := by decide +kernel
theorem test_sha384 : (sha384Bytes [0x61, 0x62, 0x63]).take 8 = [0xCB, 0x00, 0x75, 0x3F, 0x45, 0xA3, 0x5E, 0x8B] := by decide +kernel

/-! ## Single commands -/

/-- What a command leaves, where it answers a next state. -/
def after (i : Instr) (s : State) : Option State :=
  match exec i s with
  | .next t => some t
  | .fault _ => none
  | .refused _ => none

/-- R122: 64-bit addition wraps, −1 + 5 = 4, usable the next cycle. -/
theorem test_add_wraps : (after (.sAdd 0 fr) (withTile { tile1 with s := [(1, 0xFFFFFFFFFFFFFFFF), (2, 5)] })).map (fun t => (t.tile 0).pend) =
    some [{ left := 1, stamp := 0, dest := .sreg 3 4 }] := by decide

/-- R122: the unsigned comparison of 2^64 − 1 with 5. -/
theorem test_compare_unsigned : (after (.sCltu 0 { s1 := false, pg := 0, pd := 3, ra := 1, rb := 2 })
    (withTile { tile1 with s := [(1, 0xFFFFFFFFFFFFFFFF), (2, 5)] })).map (fun t => (t.tile 0).pend) =
    some [{ left := 1, stamp := 0, dest := .preg 3 false }] := by decide

/-- R422: a doorbell takes the index. -/
theorem test_doorbell : (after (.doorbell 0 1) (served hull1)).map (fun t => ((t.ring 0).ctail, (t.ring 0).chead)) = some (1, 0) := by decide

/-- R49: a tick period out of range leaves the period; one in range is taken. -/
theorem test_tick_period : (after (.timeTickCfg 55) ready).map State.periodUs = some 1000 ∧
    (after (.timeTickCfg 60) ready).map State.periodUs = some 60 := by decide

end Sys2Proof.Tests
end

section
/-!
PROOFS. Time alignment (R46–R48), the tick period (R49) and the throttle (R464): one lemma for what each of their commands answers in
each state of the alignment, and the statement TimeAndThrottleFollowTheirInputs assembled from them.
-/

namespace Sys2Proof.Machine

/-! ## TIME_GTC_SET (R46, R47) -/

/-- R46, R47: a module in COARSE whose GTC has been set locks where it is the root, and stays as it is where it is not. -/
theorem State.rootLock_of_set {s : State} (hc : s.time.align = .coarse) (hw : s.time.wasSet = true) :
    s.rootLock = if s.isTimeRoot then { s with time := { s.time with align := .locked, offset := 0 } } else s := by
  simp [State.rootLock, hc, hw]

theorem State.gtcSet_of_not_behind {s : State} {v : Word} (ha : s.time.align = .unset ∨ s.time.align = .coarse)
    (hv : s.time.gtc ≤ v.toNat) :
    s.gtcSet v = ({ s with time := { s.time with gtc := v.toNat, frac := 0, align := .coarse, wasSet := true } }).rootLock := by
  rcases ha with ha | ha <;> simp [State.gtcSet, ha, Nat.not_lt.mpr hv]

theorem State.gtcSet_of_aligned {s : State} (v : Word) (ha : s.time.align = .locked ∨ s.time.align = .holdover) :
    s.gtcSet v = s.timeCfgErr := by
  rcases ha with ha | ha <;> simp [State.gtcSet, ha]

theorem execTimeGtcSet_of_open {s : State} (v : Word) (h : s.blockOpen 0x010008 = true) :
    execTimeGtcSet v s = .next (s.gtcSet v) := by
  simp [execTimeGtcSet, h]

/-- R46: a time that is not behind is taken; the root locks with it, every other module is COARSE. -/
theorem execTimeGtcSet_of_not_behind {s : State} {v : Word} (h : s.blockOpen 0x010008 = true)
    (ha : s.time.align = .unset ∨ s.time.align = .coarse) (hv : s.time.gtc ≤ v.toNat) :
    execTimeGtcSet v s = .next { s with time :=
      if s.isTimeRoot then { s.time with gtc := v.toNat, frac := 0, align := .locked, wasSet := true, offset := 0 }
      else { s.time with gtc := v.toNat, frac := 0, align := .coarse, wasSet := true } } := by
  rw [execTimeGtcSet_of_open v h, State.gtcSet_of_not_behind ha hv, State.rootLock_of_set rfl rfl]
  have hroot (t : TimeS) : ({ s with time := t } : State).isTimeRoot = s.isTimeRoot := rfl
  rw [hroot]
  cases s.isTimeRoot <;> rfl

/-! ## Time messages (R46, R48): the answer in each state of the alignment -/

section Message

variable {s : State} {n : Nat} (o : Int) (hn : s.timeSource = some n)
include hn

/-- A LOCKED module slews at every message; the fourth in a row outside the bound ends in HOLDOVER. -/
theorem execTimeMessage_locked (ha : s.time.align = .locked) :
    execTimeMessage o s =
      let b := if o.natAbs ≤ s.timeBound n then 0 else s.time.bad + 1
      .next (if b ≥ 4 then
          ({ s with time := { s.time.heard o with
              slew := -o, align := .holdover, good := 0, bad := 0, holdStart := s.time.gtc } }).event evTime 0 64
        else { s with time := { s.time.heard o with slew := -o, bad := b } }) := by
  simp [execTimeMessage, hn, ha, TimeS.heard]

/-- A module in HOLDOVER slews at every message, and so does a COARSE one that is not behind; the sixteenth in a row within the bound
locks it. -/
theorem execTimeMessage_slewing (ha : s.time.align = .coarse ∧ 0 ≤ o ∨ s.time.align = .holdover) :
    execTimeMessage o s =
      let g := if o.natAbs ≤ s.timeBound n then s.time.good + 1 else 0
      .next { s with time :=
        if g ≥ 16 then { s.time.heard o with slew := -o, align := .locked, good := 0, bad := 0 }
        else { s.time.heard o with slew := -o, good := g } } := by
  rcases ha with ⟨ha, ho⟩ | ha
  · simp [execTimeMessage, hn, ha, TimeS.heard, Int.not_lt.mpr ho]
  · simp [execTimeMessage, hn, ha, TimeS.heard]

/-- A COARSE module that is behind its neighbour steps forward, and locks at the sixteenth message in a row within the bound. -/
theorem execTimeMessage_coarse_behind (ha : s.time.align = .coarse) (ho : o < 0) :
    execTimeMessage o s =
      let near := decide (o.natAbs ≤ s.timeBound n)
      let m := { s.time.heard o with gtc := (s.time.gtc + o.natAbs) % 2 ^ 64, slew := 0 }
      .next { s with time := if near ∧ 16 ≤ s.time.good + 1 then { m with align := .locked, good := 0, bad := 0 }
                             else { m with good := if near then s.time.good + 1 else 0 } } := by
  by_cases hnear : o.natAbs ≤ s.timeBound n <;> simp [execTimeMessage, hn, ha, TimeS.heard, ho, hnear]

end Message

/-! ## Timeouts of the alignment (R46) -/

theorem execTimeMessageTimeout_of_silent {s : State} (ha : s.time.align = .locked) (hr : s.isTimeRoot = false)
    (hg : 1000000 ≤ s.time.gtc - s.time.lastMsg) :
    execTimeMessageTimeout s =
      .next (({ s with time := { s.time with align := .holdover, good := 0, bad := 0, holdStart := s.time.gtc } }).event evTime 0 64) := by
  simp [execTimeMessageTimeout, ha, hr, hg]

theorem execHoldoverTimeout_of_over {s : State} (ha : s.time.align = .holdover)
    (hg : 1000000 * max 1 (s.regF 0x010018 31 16) < s.time.gtc - s.time.holdStart) :
    execHoldoverTimeout s = .next (s.fallCoarse.event evTime 1 65).rootLock := by
  simp only [execHoldoverTimeout]
  rw [if_pos ⟨ha, hg⟩]

/-! ## The tick period (R49, R52) -/

theorem periodOk_iff (p : Nat) : periodOk p = true ↔ 50 ≤ p ∧ p ≤ 10000 ∧ p % 10 = 0 := by
  simp [periodOk]

/-- The hull numbers of the device are 1 to 4. -/
theorem mem_hullNos {h : Nat} : h ∈ hullNos ↔ 1 ≤ h ∧ h ≤ 4 := by
  simp only [hullNos, List.mem_cons, List.not_mem_nil, or_false]
  omega

/-- A hull is RUNNING or DRAINING: the period may not change (R49). -/
def State.periodHeld (s : State) : Bool :=
  hullNos.any fun h => (s.hull h).state == .running || (s.hull h).state == .draining

theorem State.periodHeld_of_busy_hull {s : State}
    (h : ∃ h, 1 ≤ h ∧ h ≤ 4 ∧ ((s.hull h).state = .running ∨ (s.hull h).state = .draining)) : s.periodHeld = true := by
  obtain ⟨h, hlo, hhi, hs⟩ := h
  exact List.any_eq_true.mpr ⟨h, mem_hullNos.mpr ⟨hlo, hhi⟩, by simpa using hs⟩

/-- A write of TIME_TICK_CFG: SLIP_MAX_US is taken; the period is taken where it is in rule and no hull runs, else CFG_ERR is set. -/
theorem State.tickCfg_eq (s : State) (v : Word) :
    s.tickCfg v =
      let u := s.setRegF 0x010020 29 16 (v.toNat / 2 ^ 16 % 2 ^ 14)
      if s.periodHeld = true ∨ periodOk (v.toNat % 2 ^ 14) = false then u.event evTime 5 69
      else u.setRegF 0x010020 13 0 (v.toNat % 2 ^ 14) := by
  have hp : bitsOf v.toNat 13 0 = v.toNat % 2 ^ 14 := by simp [bitsOf]
  have hm : bitsOf v.toNat 29 16 = v.toNat / 2 ^ 16 % 2 ^ 14 := rfl
  simp only [State.tickCfg, hp, hm, State.timeCfgErr, Bool.not_eq_true']
  rfl

theorem execTimeTickCfg_of_open {s : State} (v : Word) (h : s.blockOpen 0x010020 = true) :
    execTimeTickCfg v s = .next (s.tickCfg v) := by
  simp [execTimeTickCfg, h]

theorem regF_period_reset : State.reset.regF 0x010020 13 0 = 1000 := by decide

/-! ## A LOCKED module sends its time (R47) -/

theorem execTimeMessageSend_of_locked {s : State} {p : Plan} (ha : s.time.align = .locked) (hp : s.jv.plan = some p) :
    execTimeMessageSend s =
      .next ((upFrom 0 p.neighbours.length).foldl (fun (s : State) n =>
        if n = p.timeUp ∨ n = p.timeAlt then s else s.sendPriv 0 (p.neighbours.getD n (0, 0, 0)).1 pkTime [s.time.gtc]) s) := by
  simp [execTimeMessageSend, ha, hp]

/-! ## Throttle (R464) -/

@[simp] theorem State.setTj_time (s : State) (die : Nat) (tj : Byte) : (s.setTj die tj).time = s.time := rfl
@[simp] theorem State.setTj_throttle (s : State) (die : Nat) (tj : Byte) :
    (s.setTj die tj).board.throttle = s.board.throttle := rfl
@[simp] theorem State.setTj_throttleGtc (s : State) (die : Nat) (tj : Byte) :
    (s.setTj die tj).board.throttleGtc = s.board.throttleGtc := rfl

section Throttle

variable {s : State} {die : Nat} (tj : Byte) (hd : die < 3) (hc : s.rst.dev ≠ .cold)
include hd hc

theorem execThrottleChange_same_level
    (hl : throttleFor s.board.throttle (s.setTj die tj).board.tj.toNat = s.board.throttle) :
    execThrottleChange die tj s = .next (s.setTj die tj) := by
  have hin : ¬ (die ≥ 3 ∨ s.rst.dev = .cold) := not_or.mpr ⟨Nat.not_le.mpr hd, hc⟩
  simp only [execThrottleChange, State.setTj_throttle, if_neg hin]
  exact congrArg Host.Outcome.next (if_pos (Or.inl hl))

/-- Another level a millisecond or more after the last change. -/
theorem execThrottleChange_new_level
    (hl : throttleFor s.board.throttle (s.setTj die tj).board.tj.toNat ≠ s.board.throttle)
    (hg : s.board.throttleGtc.all (fun g => !decide (s.time.gtc - g < 1000000)) = true) :
    execThrottleChange die tj s =
      let l := throttleFor s.board.throttle (s.setTj die tj).board.tj.toNat
      let v := { s.setTj die tj with board := { (s.setTj die tj).board with throttle := l, throttleGtc := some s.time.gtc } }
      let w := hullNos.foldl (fun (s : State) h => s.setHull h { s.hull h with
        prog := (s.hull h).prog.map fun (p : Prog) => if p.state = 3 then { p with throttled := true } else p }) v
      .next (((if l = 0 then v else w).envRec 3 0).raise 100) := by
  have hin : ¬ (die ≥ 3 ∨ s.rst.dev = .cold) := not_or.mpr ⟨Nat.not_le.mpr hd, hc⟩
  simp only [execThrottleChange, State.setTj_throttle, State.setTj_throttleGtc, State.setTj_time, if_neg hin]
  refine congrArg Host.Outcome.next (if_neg (not_or.mpr ⟨hl, ?_⟩))
  cases hb : s.board.throttleGtc with
  | none => simp
  | some g =>
    have hlate : 1000000 ≤ s.time.gtc - g := by simpa [hb] using hg
    simp [Nat.not_lt.mpr hlate]

end Throttle

/-! ## The statement -/

/-- Settles O31: each clause is what the lemma about its command gives in that state of the alignment. -/
theorem timeAndThrottleFollowTheirInputs : Obligations.TimeAndThrottleFollowTheirInputs := by
  refine ⟨fun s => ⟨fun v hopen => ⟨?setAhead, ?setAligned⟩,
    fun n o hn => ⟨fun hnear => ⟨?lockedNear, ?coarseNear, ?holdoverNear⟩, ?lockedFar, ?coarseBehind⟩,
    execTimeMessageTimeout_of_silent, execHoldoverTimeout_of_over, ?periodTaken, ?periodRefused, periodOk_iff, regF_period_reset,
    fun p => execTimeMessageSend_of_locked⟩,
    fun s die tj hd hc => ⟨execThrottleChange_same_level tj hd hc, execThrottleChange_new_level tj hd hc⟩⟩
  case setAhead => exact execTimeGtcSet_of_not_behind hopen
  case setAligned =>
    intro ha
    exact (execTimeGtcSet_of_open v hopen).trans (congrArg _ (State.gtcSet_of_aligned v ha))
  case lockedNear =>
    intro ha
    refine (execTimeMessage_locked o hn ha).trans ?_
    simp [hnear]
  case coarseNear =>
    intro ha ho hg
    refine (execTimeMessage_slewing o hn (.inl ⟨ha, ho⟩)).trans ?_
    simp [hnear, hg]
  case holdoverNear =>
    intro ha hg
    refine (execTimeMessage_slewing o hn (.inr ha)).trans ?_
    simp [hnear, hg]
  case lockedFar =>
    intro hfar ha
    refine (execTimeMessage_locked o hn ha).trans ?_
    simp [Nat.not_le.mpr hfar]
  case coarseBehind => exact execTimeMessage_coarse_behind o hn
  case periodTaken =>
    intro v hopen hp (hidle : s.periodHeld = false)
    have htaken : ¬ (s.periodHeld = true ∨ periodOk (v.toNat % 2 ^ 14) = false) := by rw [hidle, hp]; decide
    refine (execTimeTickCfg_of_open v hopen).trans ?_
    rw [State.tickCfg_eq]
    simp only [if_neg htaken]
  case periodRefused =>
    intro v hopen hbad
    have hrefused := hbad.symm.imp_left State.periodHeld_of_busy_hull
    refine (execTimeTickCfg_of_open v hopen).trans ?_
    rw [State.tickCfg_eq]
    simp only [if_pos hrefused]

end Sys2Proof.Machine
end

section
/-!
PROOFS. The scalar control instructions S.BR, S.RDSTAT, S.SETFL and S.DRAW (R122–R125): one lemma for what each of them answers once
its slot is taken, and the statement ScalarControlInstructionsComplete assembled from them.
-/

namespace Sys2Proof.Machine

/-! ## The shared operations -/

/-- Changing a tile that has just been set sets the changed tile. -/
theorem State.updTile_setTile (s : State) (t : Nat) (x : Tile) (f : Tile → Tile) : (s.setTile t x).updTile t f = s.setTile t (f x) := by
  simp [State.updTile]

/-- R92, R119: a field out of rule makes the bundle invalid whatever the guard is. -/
theorem State.guarded_out_of_rule {s : State} {t k : Nat} (pg : BitVec 3) (ds : List (Nat × Nat)) (f : State → State)
    (h : s.slotOpen t k = true) : s.guarded t k pg false ds f = s.badBundle t :=
  State.slot_not s t k ds _ h

/-- Flags of the instruction that issues now are one result on its way, and none where no flag is raised. -/
theorem Tile.pendFlags_cyc (x : Tile) (lat : Nat) (fl : Flg) :
    x.pendFlags x.cyc lat fl = if fl = 0 then x else x.due lat (.flags fl) := rfl

/-- R124: no status item tells that the slot was taken. -/
theorem State.statItem_took (s : State) (t k : Nat) (ds : List (Nat × Nat)) (i : Nat) :
    (s.setTile t ((s.tile t).took k ds)).statItem t i = s.statItem t i := by
  unfold State.statItem
  rw [State.setTile_same]
  rfl

/-! ## What each instruction answers -/

section Issue

variable {s : State} {t : Nat}

/-- R123: a taken branch in S0 is held in the tile until its next issue. -/
theorem execSBr_taken {pg : BitVec 3} (target : BitVec 13) (h : s.canIssue t slS0 []) (hg : (s.tile t).preg pg = true) :
    execSBr t false pg target s = .next (s.setTile t { (s.tile t).took slS0 [] with branch := some target }) := by
  have hslot := State.guarded_taken' s t slS0 pg (!false) [] (fun s => s.updTile t fun x => { x with branch := some target }) h hg rfl
  exact congrArg Host.Outcome.next (hslot.trans (State.updTile_setTile ..))

/-- R123: a branch in S1 makes the bundle invalid. -/
theorem execSBr_s1 (pg : BitVec 3) (target : BitVec 13) (h : s.slotOpen t slS1 = true) :
    execSBr t true pg target s = .next (s.badBundle t) :=
  congrArg Host.Outcome.next (State.guarded_out_of_rule pg [] _ h)

/-- R124, log entry 40: the item is the one before the issue; items 5 and 7 are cleared as they are read. -/
theorem execSRdstat_taken {f : SI} (h : s.canIssue t (scalarSlot f.s1) (scalarDest dkS f.rd.toNat)) (hg : (s.tile t).preg f.pg = true)
    (hi : f.imm.toNat < 8) :
    execSRdstat t f s =
      let x := ((s.tile t).took (scalarSlot f.s1) (scalarDest dkS f.rd.toNat)).due 1 (.sreg f.rd.toNat (s.statItem t f.imm.toNat))
      .next (s.setTile t
        { x with syncStatus := if f.imm.toNat = 5 then 0 else x.syncStatus, flags := if f.imm.toNat = 7 then 0 else x.flags }) := by
  simp only [execSRdstat]
  rw [State.guarded_taken' s t _ f.pg _ _ _ h hg (decide_eq_true hi)]
  simp only [State.statItem_took, State.result0, State.updTile_setTile]

/-- R122: the low seven bits of s[ra] are raised as flags, usable after a cycle. -/
theorem execSSetfl_taken {f : SR} (h : s.canIssue t (scalarSlot f.s1) []) (hg : (s.tile t).preg f.pg = true) (hd : f.rd = 0)
    (hb : f.rb = 0) :
    execSSetfl t f s =
      let fl : Flg := ((s.tile t).sreg f.ra).truncate 7
      let x := (s.tile t).took (scalarSlot f.s1) []
      .next (s.setTile t (if fl = 0 then x else x.due 1 (.flags fl))) := by
  have hzero : (f.rd == 0 && f.rb == 0) = true := by simp [hd, hb]
  unfold execSSetfl
  rw [State.guarded_taken' s t _ f.pg _ _ _ h hg hzero]
  rw [State.updTile_setTile]
  exact congrArg (fun y => Host.Outcome.next (s.setTile t y)) (Tile.pendFlags_cyc ..)

/-- R125: a domain of the program that runs becomes the tile's draw context after a cycle, with the tensor id of s[rb]; another domain
is outside the hull (R79). -/
theorem execSDraw_taken {f : SR} {p : Prog} (h : s.canIssue t (scalarSlot f.s1) []) (hg : (s.tile t).preg f.pg = true) (hd : f.rd = 0)
    (hp : (s.hull (s.pod (podOf t)).hull).prog = some p) :
    execSDraw t f s =
      let d : Half := ((s.tile t).sreg f.ra).truncate 16
      let x := (s.tile t).took (scalarSlot f.s1) []
      if p.domains.contains d.toNat then .next (s.setTile t (x.due 1 (.drawCtx d (((s.tile t).sreg f.rb).truncate 20))))
      else .next ((s.setTile t x).contract t tfBound) := by
  have hzero : (f.rd == 0) = true := by simp [hd]
  unfold execSDraw
  rw [State.guarded_taken' s t _ f.pg _ _ _ h hg hzero]
  simp only [State.setTile_same, State.setTile_pod, State.setTile_hull, hp, Tile.took_sreg, State.result0]
  exact apply_ite Host.Outcome.next ..

end Issue

/-! ## The statement -/

/-- Settles O4: each clause is what the lemma about its instruction gives. -/
theorem scalarControlInstructionsComplete : Obligations.ScalarControlInstructionsComplete := fun _ _ =>
  ⟨fun _ => execSBr_taken, execSBr_s1, fun _ => execSRdstat_taken, fun _ => execSSetfl_taken, fun _ _ => execSDraw_taken⟩

end Sys2Proof.Machine
end

section
/-!
PROOFS. The states of JV bundles (R287, R296–R299): what TRAINING_COMPLETE ends in, the condition of each other transition, and the
statement BundleStatesChange assembled from them.
-/

namespace Sys2Proof.Machine

/-! ## The end of training (R295–R297) -/

/-- A bundle comes UP on the lanes that training keeps: full credits, empty numbering and a new millisecond, interrupt 386, 384 where it is
degraded, and the waiting messages are offered again (R297, R298). -/
def State.bringUp (s : State) (b : Nat) (w : Nat × BitVec 4) : State :=
  let v := (s.setBundle b { s.bundle b with
    state := .up, width := w.1, lanes := w.2, credits := fullCredits, slot := 0, rxSeq := 0, txSeq := 0, retry := []
    msStart := s.time.gtc, msReplays := 0, msFec := 0 }).event evJv 2 386
  (if w.1 < 4 then v.event evJv 0 384 else v).flushWaiting

/-- The peer's announcement agrees with the plan, and with the peer's own plan for its end (R295). -/
def Plan.agrees (p : Plan) (n : Nat) (fid : BitVec 24) (owner planOwner : Nat) : Prop :=
  fid = (p.neighbours.getD n (0, 0, 0)).1 ∧ owner = planOwner

section Training

variable {s : State} {b : Nat} {lanes : BitVec 4} {fid : BitVec 24} {owner planOwner : Nat} {p : Plan}
variable (hx : (s.bundle b).state = .training) (hp : s.jv.plan = some p)
include hx hp

/-- Training whose announcement agrees brings the bundle UP where its lanes are wide enough, and ends in DOWN where they are not. -/
theorem execTrainingComplete_of_agreement (ha : p.agrees (s.bundle b).neighbour fid owner planOwner) :
    execTrainingComplete b lanes fid owner planOwner s =
      let u := s.setBundle b { s.bundle b with peerFid := fid }
      let w := trainedLanes lanes
      .next (if w.1 ≠ 0 ∧ (s.bundle b).minWidth ≤ w.1 then u.bringUp b w else u.enterDown b) := by
  obtain ⟨hfid, howner⟩ := ha
  simp [execTrainingComplete, State.bringUp, hx, hp, hfid, howner]

/-- Training with a peer that the plan does not name there ends in DOWN, with interrupt 389. -/
theorem execTrainingComplete_of_disagreement (ha : ¬ p.agrees (s.bundle b).neighbour fid owner planOwner) :
    execTrainingComplete b lanes fid owner planOwner s =
      .next (((s.setBundle b { s.bundle b with peerFid := fid }).event evJv 5 389).enterDown b) := by
  have hbool : (fid == (p.neighbours.getD (s.bundle b).neighbour (0, 0, 0)).1 && owner == planOwner) = false := by
    simpa [Plan.agrees] using ha
  simp only [execTrainingComplete, hx, hp, hbool, Bool.false_eq_true, and_false, if_false]

end Training

/-! ## The statement -/

/-- Settles O33: every other transition is its command's condition, which the hypotheses meet. -/
theorem bundleStatesChange : Obligations.BundleStatesChange := by
  refine ⟨fun s b => ⟨?peerSignal, ?downTimeout, ?pastLimit, ?laneLoss, fun lanes fid owner planOwner p hx hp =>
    ⟨?up, ?narrow, ?disagreement⟩⟩, ?disable, fun s => rfl⟩
  case peerSignal => exact fun hx => congrArg Host.Outcome.next (if_pos hx)
  case downTimeout => exact fun hx ht => congrArg Host.Outcome.next (if_pos ⟨hx, ht⟩)
  case pastLimit => exact fun hx hm => congrArg Host.Outcome.next (if_pos ⟨hx, hm⟩)
  case laneLoss => exact fun lane hx hl => congrArg Host.Outcome.next (if_pos ⟨hx, hl⟩)
  case up =>
    exact fun ha h0 hw => (execTrainingComplete_of_agreement hx hp ha).trans (congrArg Host.Outcome.next (if_pos ⟨h0, hw⟩))
  case narrow =>
    exact fun ha hw => (execTrainingComplete_of_agreement hx hp ha).trans (congrArg Host.Outcome.next (if_neg (by omega)))
  case disagreement => exact execTrainingComplete_of_disagreement hx hp
  case disable => exact fun s v ho => congrArg Host.Outcome.next (if_pos ho)

end Sys2Proof.Machine
end

section
/-!
PROOFS. The commands that read (R204, R255, R302, R332, R357, R371, R399, R434, R463, R484, R485): a command that only replies leaves
nothing of its accesses to settle, and the statement ReadingCommandsAnswerTheirFields assembled from what each of them replies.
-/

namespace Sys2Proof.Machine

/-! ## Taking a command up and replying leave the device's memory alone -/

@[simp] theorem State.begin_mem (s : State) (c : Cmd) (op : Nat) : (s.begin_ c op).mem = s.mem := by
  unfold State.begin_
  cases c.org with
  | udp e => rfl
  | ring n =>
    cases hx : (s.ring n).state with
    | running | draining => simp only [hx]; split <;> rfl
    | disabled | fault => simp only [hx]

@[simp] theorem State.hevent_mem (s : State) (bit : Nat) : (s.hevent bit).mem = s.mem := by
  unfold State.hevent
  split <;> rfl

@[simp] theorem State.ringFault_mem (s : State) (r : Nat) : (s.ringFault r).mem = s.mem := by
  cases hx : (s.ring r).state <;> simp [State.ringFault, hx]

/-- R416: a reply is written to host memory or sent as a datagram. -/
@[simp] theorem State.reply_mem (s : State) (c : Cmd) (op : Nat) (st : Byte) (r : Params) (tail : List Byte) :
    (s.reply c op st r tail).mem = s.mem := by
  unfold State.reply
  split
  case isTrue => rfl
  case isFalse =>
    cases c.org with
    | udp e => simp only []; split <;> rfl
    | ring n =>
      cases hx : (s.ring n).state with
      | running | draining =>
        simp only [State.emit_ring, hx]
        split
        case isTrue => simp
        case isFalse => split <;> rfl
      | disabled | fault => simp only [State.emit_ring, hx, State.emit_mem]

/-- R399: a read of the log writes host memory and marks records. -/
theorem State.errLogRead_mem (s : State) (c : Cmd) : (s.errLogRead c).mem = s.mem := by
  unfold State.errLogRead
  extract_lets
  split
  case isTrue => exact State.reply_mem ..
  case isFalse => exact State.reply_mem ..

/-! ## A command that leaves the device's memory alone -/

/-- A served command whose rules leave the device's memory alone ends with what they do. -/
theorem State.packet_of_mem_kept {s : State} {c : Cmd} {op : Nat} {f : State → State} (h : s.serving c op)
    (hf : (f (s.settled.begin_ c op)).mem = (s.settled.begin_ c op).mem) : s.packet c op f = f (s.settled.begin_ c op) := by
  have hq : (f (s.settled.begin_ c op)).quiet := by simp [State.quiet, hf]
  have ⟨_, _, hstuck⟩ := hq
  rw [State.packet_done s c op f h hstuck, State.settled_of_quiet hq]

/-- A served command whose rules come to one reply answers it from the state that has taken the command up. -/
theorem State.packet_replies {s : State} {c : Cmd} {op : Nat} {f : State → State} {st : Byte} {r : Params} (h : s.serving c op)
    (hf : f (s.settled.begin_ c op) = (s.settled.begin_ c op).reply c op st r) :
    (.next (s.packet c op f) : Outcome) = .next ((s.settled.begin_ c op).reply c op st r) := by
  rw [State.packet_of_mem_kept h (by rw [hf, State.reply_mem]), hf]

/-! ## What the commands with more than one answer reply -/

section AuResult

variable {s : State} {c : Cmd} (hh : isHull (pf c.params 0 1) = true) (ha : pf c.params 1 1 < 16) (h2 : pf c.params 2 2 = 0)
  (hz : restZero c 8 = true) (hg : s.auGate c (pf c.params 0 1) (pf c.params 1 1) false = none)
include hh ha h2 hz hg

/-- R255: a ticket among the engine's last results answers its result. -/
theorem State.auResult_of_kept {r : ACmd} (hr : (s.eng (pf c.params 1 1)).kept.find? (fun r => r.ticket == pf c.params 4 4) = some r) :
    s.auResult c = s.reply c 0x0603 r.status (mkFields [(0, 4, r.iterations), (4, 4, r.returned), (8, 4, r.cycles), (0xC, 1, r.cause.toNat),
      (0x10, 8, r.rp.toNat), (0x18, 8, r.rd.toNat)]) := by
  simp [State.auResult, hh, h2, hz, hg, hr, Nat.not_le.mpr ha]

/-- R255: a ticket whose command is queued or runs answers BUSY. -/
theorem State.auResult_of_waiting (hr : (s.eng (pf c.params 1 1)).kept.find? (fun r => r.ticket == pf c.params 4 4) = none)
    (hw : (s.eng (pf c.params 1 1)).waitingTickets.contains (pf c.params 4 4) = true) : s.auResult c = s.reply c 0x0603 sBUSY 0 := by
  simp only [State.auResult, hr, hw, hg]
  simp [hh, h2, hz, Nat.not_le.mpr ha]

end AuResult

/-! ## The statement -/

/-- Settles O46: each packet is in rule and its caller allowed, so that no refusal of its command applies. -/
theorem readingCommandsAnswerTheirFields : Obligations.ReadingCommandsAnswerTheirFields := by
  intro s c
  refine ⟨?devInfo, ?devHealth, ?timeRead, ?hullStatus, ?progQuery, ?memMapStatus, ?grpRead, ?linkStatus, ?auResult, ?ckptStatus,
    ?budgetRead, ?errLogRead⟩
  case devInfo => exact fun hs hz => State.packet_replies hs (if_neg (by simp [hz]))
  case devHealth => exact fun hs hz => State.packet_replies hs (if_neg (by simp [hz]))
  case timeRead => exact fun hs hz => State.packet_replies hs (if_neg (by simp [hz]))
  case linkStatus => exact fun hs hz => State.packet_replies hs (if_neg (by simp [hz]))
  case budgetRead => exact fun hs hz => State.packet_replies hs (if_neg (by simp [hz]))
  case hullStatus =>
    intro hs hh hz u x ho
    have hallowed : ¬ ((!u.ownsHull c (pf c.params 0 1)) = true ∧ (!u.isOperator c) = true) := by grind
    exact State.packet_replies hs ((if_neg (by simp [hh, hz])).trans (if_neg hallowed))
  case ckptStatus =>
    intro hs hh hz u k ho
    exact State.packet_replies hs ((if_neg (by simp [hh, hz])).trans (if_neg (by simp [u, ho])))
  case progQuery =>
    intro hs hh hz u x ho
    have hreply : u.progQuery c = _ := (if_neg (by simp [hh, hz])).trans (if_neg (by simp [ho]))
    constructor
    case left =>
      intro p (hp : (u.hull (pf c.params 0 1)).prog = some p)
      exact State.packet_replies hs (hreply.trans (by rw [hp]; rfl))
    case right =>
      intro (hp : (u.hull (pf c.params 0 1)).prog = none)
      exact State.packet_replies hs (hreply.trans (by rw [hp]; rfl))
  case memMapStatus =>
    intro hs hh hz
    refine State.packet_replies hs ((if_neg (by simp [hz, hh])).trans ?_)
    simp only [List.contains_cons, List.contains_nil, Bool.or_false]
    rfl
  case grpRead =>
    intro hs hh h1 h2 hz u g ho hg hgh
    exact State.packet_replies hs ((if_neg (by simp [hh, h1, hz, h2])).trans ((if_neg (by simp [u, g, ho, hgh])).trans (if_neg hg)))
  case auResult =>
    intro hs hh ha h2 hz u e hg
    exact ⟨fun r hr => State.packet_replies hs (State.auResult_of_kept hh ha h2 hz hg hr),
      fun hr hw => State.packet_replies hs (State.auResult_of_waiting hh ha h2 hz hg hr hw)⟩
  case errLogRead =>
    intro hs h1 h64 h9 hz hd u first held copied w
    have hinrule : ¬ (pf c.params 8 1 = 0 ∨ pf c.params 8 1 > 64 ∨ pf c.params 9 7 ≠ 0 ∨ (!restZero c 0x18) = true ∨
        pf c.params 0x10 8 % 64 ≠ 0) := by grind
    refine ⟨_, congrArg Host.Outcome.next ((State.packet_of_mem_kept hs (State.errLogRead_mem _ c)).trans (if_neg hinrule)), ?_⟩
    intro r hl hr
    rw [if_pos hl, hr]

end Sys2Proof.Machine
end

section
/-!
PROOFS. The commands of hulls (R355–R358): what of the device's memory each shared operation leaves alone, what each command does where no
refusal applies, and the statement HullCommandsTakeEffect assembled from them.
-/

namespace Sys2Proof.Machine

/-! ## Operations that leave the device's memory alone -/

/-- A sequence of changes leaves memory alone where each of them does. -/
theorem State.foldl_mem {α : Type} {f : State → α → State} (hf : ∀ s x, (f s x).mem = s.mem) (s : State) (l : List α) :
    (l.foldl f s).mem = s.mem :=
  List.foldlRecOn (motive := fun v => v.mem = s.mem) l f rfl fun v hv x _ => (hf v x).trans hv

@[simp] theorem State.icLatch_mem (s : State) : s.icLatch.mem = s.mem :=
  State.foldl_mem (fun _ _ => by split <;> rfl) s _

@[simp] theorem State.raise_mem (s : State) (id : Nat) : (s.raise id).mem = s.mem := by
  simp [State.raise, State.signal]

@[simp] theorem State.event_mem (s : State) (off bit id : Nat) : (s.event off bit id).mem = s.mem := by
  simp [State.event, State.regOr]

@[simp] theorem State.pushTo_mem (s : State) (i : Nat) : (s.pushTo i).mem = s.mem := by
  unfold State.pushTo
  split
  case h_1 k _ =>
    split
    case h_1 => split <;> rfl
    case h_2 => rfl
  case h_2 => rfl

@[simp] theorem State.pushNew_mem (s : State) (seq : Nat) : (s.pushNew seq).mem = s.mem := by
  refine State.foldl_mem (fun s i => ?_) s _
  split
  case h_1 => split <;> simp
  case h_2 => rfl

/-- R398: a record goes to the log and to the collectors. -/
@[simp] theorem State.log1_mem (s : State) (r : ErrRec) : (s.log1 r).mem = s.mem := by
  unfold State.log1
  extract_lets +onlyGivenNames r l _ v
  have hv : v.mem = s.mem := State.pushNew_mem ..
  clear_value l v
  split
  case h_1 => split <;> simp [State.regSat, State.setRegF, hv]
  case h_2 => exact hv

@[simp] theorem State.drainClear_mem (s : State) (h : Nat) : (s.drainClear h).mem = s.mem :=
  State.foldl_mem (fun _ _ => by rfl) s _

@[simp] theorem State.ckptFail_mem (s : State) (h cause : Nat) : (s.ckptFail h cause).mem = s.mem := by
  simp [State.ckptFail]

/-- R335: the stop of a program acts on tiles, pods, engines, requests and the hull. -/
@[simp] theorem State.stopHull_mem (s : State) (h reason : Nat) (st : Byte) (freeze : Bool) :
    (s.stopHull h reason st freeze).mem = s.mem := by
  unfold State.stopHull
  extract_lets +onlyGivenNames x
  split
  case h_2 => rfl
  case h_1 =>
    extract_lets _ tilesHalted tilesFrozen podsIdle _ _ _ ckptFailed
    have hhalted : tilesHalted.mem = s.mem := State.foldl_mem (fun _ _ => by rfl) s _
    have hfrozen : tilesFrozen.mem = tilesHalted.mem := by
      unfold tilesFrozen
      split
      case isTrue => exact State.foldl_mem (fun _ _ => by exact State.foldl_mem (fun _ _ => by rfl) _ _) _ _
      case isFalse => rfl
    have hidle : podsIdle.mem = tilesFrozen.mem := State.foldl_mem (fun _ _ => by rfl) _ _
    have hckpt : ckptFailed.mem = podsIdle.mem := by
      unfold ckptFailed
      split
      case isTrue => exact State.ckptFail_mem ..
      case isFalse => rfl
    calc _ = ckptFailed.mem := State.foldl_mem (fun _ _ => State.reply_mem ..) _ _
      _ = s.mem := by rw [hckpt, hidle, hfrozen, hhalted]

@[simp] theorem State.abortProbe_mem (s : State) (pods : Nat) : (s.abortProbe pods).mem = s.mem := by
  unfold State.abortProbe
  extract_lets
  split
  case isTrue => simp [State.probeEnd]
  case isFalse => rfl

@[simp] theorem State.serveReclaim_mem (s : State) (h : Nat) : (s.serveReclaim h).mem = s.mem := by
  unfold State.serveReclaim
  extract_lets
  split
  case h_1 => split <;> rfl
  case h_2 => rfl

/-! ## Operations that note nothing of an access -/

/-- What is noted of an access is part of the device's memory. -/
theorem State.quiet_of_mem {s v : State} (hm : v.mem = s.mem) (hs : s.quiet) : v.quiet := by
  unfold State.quiet
  rwa [hm]

theorem State.settled_begin_quiet (s : State) (c : Cmd) (op : Nat) : (s.settled.begin_ c op).quiet :=
  State.quiet_of_mem (State.begin_mem ..) ⟨rfl, rfl, rfl⟩

/-- The state of a memory unit is no access to it. -/
theorem State.setUnit_quiet {s : State} (u : MemUnit) (x : UnitS) (hs : s.quiet) : (s.setUnit u x).quiet := by
  cases u with
  | a n => exact hs
  | b n => exact hs

/-- R337: a grant appends an extent of units, which change hands. -/
theorem State.addExtent_quiet {s : State} (h : Nat) (tierB : Bool) (units : List Nat) (grant : Nat) (hs : s.quiet) :
    (s.addExtent h tierB units grant).quiet := by
  unfold State.addExtent
  split
  case isTrue => exact hs
  case isFalse => exact List.foldlRecOn (motive := State.quiet) _ _ hs fun v hv _ _ => State.setUnit_quiet _ _ hv

theorem State.giveGrant_quiet {s : State} (h : Nat) (a : Ask) (lender : Option Nat) (hs : s.quiet) :
    (s.giveGrant h a lender).quiet := by
  unfold State.giveGrant
  extract_lets _ _ _ _ _ _ _ _ _ _ _ _ _ podsGiven
  have hpods : podsGiven.mem = s.mem := State.foldl_mem (fun _ _ => by split <;> rfl) _ _
  exact State.addExtent_quiet _ _ _ _ (State.addExtent_quiet _ _ _ _ (State.quiet_of_mem hpods hs))

/-- A served command whose rules come to a state with nothing noted of an access, and a reply from it, ends with that reply. -/
theorem State.packet_replies_after {s v : State} {c : Cmd} {op : Nat} {f : State → State} {st : Byte} {r : Params} (h : s.serving c op)
    (hf : f (s.settled.begin_ c op) = v.reply c op st r) (hv : v.quiet) :
    (.next (s.packet c op f) : Outcome) = .next (v.reply c op st r) := by
  have hq : (f (s.settled.begin_ c op)).quiet := by
    rw [hf]
    exact State.quiet_of_mem (State.reply_mem ..) hv
  have ⟨_, _, hstuck⟩ := hq
  rw [State.packet_done s c op f h hstuck, State.settled_of_quiet hq, hf]

/-! ## HULL_CREATE -/

/-- What a FREE hull becomes at its creation: its owner and its key, and what HULL_HRECLAIM shows of the last reclaim (R355). -/
def Hull.created (x : Hull) (owner : Nat) (k0 k1 : Word) : Hull :=
  { Hull.init with
    state := .granted, owner := BitVec.ofNat 16 owner, k0 := k0, k1 := k1, lastGrant := x.lastGrant, lastForced := x.lastForced,
    lastStopped := x.lastStopped, lastReturned := x.lastReturned, lastGtc := x.lastGtc }

theorem State.hullCreate_of_free {s : State} {c : Cmd} (hh : isHull (pf c.params 0 1) = true) (h1 : pf c.params 1 1 = 0)
    (h4 : pf c.params 4 4 = 0) (hz : restZero c 24 = true) (h0 : pf c.params 2 2 ≠ 0) (hF : pf c.params 2 2 ≠ 0xFFFF)
    (hop : s.isOperator c = true) (hfree : (s.hull (pf c.params 0 1)).state = .free) :
    s.hullCreate c =
      let h := pf c.params 0 1
      let k0 := BitVec.ofNat 64 (pf c.params 8 8)
      let k1 := BitVec.ofNat 64 (pf c.params 16 8)
      (s.setHull h ((s.hull h).created (pf c.params 2 2) k0 k1)).reply c 0x0200 sDONE (mkFields [(0, 8, (keyCheck k0 k1).toNat)]) :=
  (if_neg (by simp [hh, h1, h4, hz, h0, hF])).trans ((if_neg (by simp [hop])).trans (if_neg (by simp [hfree])))

/-! ## HULL_GRANT -/

/-- R460: a command that names no sleeping pod waits for none. -/
theorem State.wakeFor_nil (s : State) (cause op : Nat) (c : Cmd) : s.wakeFor [] cause op c = (s, false) := rfl

/-- R356: what is free and asked for by a packet in rule is given at once where no pod of it sleeps. -/
theorem State.hullGrant_of_free {s : State} {c : Cmd} (hok : s.grantOk c = true) (hop : s.isOperator c = true)
    (hlive : (s.hull (pf c.params 0 1)).live = true) (hreclaims : (s.hull (pf c.params 0 1)).reclaims = [])
    (hgrants : (s.hull (pf c.params 0 1)).grants.length < 16) (hl : pf c.params 1 1 = 1 → (s.hull (pf c.params 2 1)).live = true)
    (hawake : ((upFrom 0 8).filter fun p => bitOf (askOf c).pods p && (s.pod p).asleep) = [])
    (hfree : s.grantShort (pf c.params 0 1) (askOf c) = none) :
    s.hullGrant c =
      let h := pf c.params 0 1
      let v := s.giveGrant h (askOf c) (if pf c.params 1 1 = 1 then some (pf c.params 2 1) else none)
      v.reply c 0x0201 sDONE (mkFields [(0, 1, (s.hull h).freeGrant.getD 0), (2, 2, (v.hull h).syncBase), (16, 8, (v.hull h).limitA),
        (24, 8, (v.hull h).limitB)]) := by
  have hnamed : (((upFrom 0 8).filter fun p => bitOf (askOf c).pods p).filter fun p => (s.pod p).asleep) = [] := by
    rw [List.filter_filter, ← hawake]
    exact List.filter_congr fun _ _ => Bool.and_comm ..
  have hroom := Nat.not_le.mpr hgrants
  simp only [State.hullGrant, hnamed, hfree, State.wakeFor_nil]
  by_cases hlent : pf c.params 1 1 = 1
  case pos => simp [hok, hop, hlive, hreclaims, hroom, hlent, hl hlent]
  case neg => simp [hok, hop, hlive, hreclaims, hroom, hlent]

/-! ## HULL_RECLAIM -/

/-- The reclaim of a grant as it is queued: its force time is the default where the packet gives none (R341). -/
def State.newReclaim (s : State) (c : Cmd) (g : Grant) : Reclaim :=
  let ms := pf c.params 4 4
  { grant := g, forceMs := if ms = 0 then s.regF 0x020010 14 0 else ms, forceNow := pf c.params 1 1 == 1, gtc := s.time.gtc, phase := 0,
    forced := false, stopped := false, removedA := [], removedB := [], removedPods := 0, removedSync := (0, 0), foldGtc := 0 }

theorem State.hullReclaim_of_reclaimable {s : State} {c : Cmd} {g : Grant} (hh : isHull (pf c.params 0 1) = true)
    (h1 : pf c.params 1 1 < 2) (h3 : pf c.params 3 1 = 0) (hz : restZero c 8 = true)
    (hms : pf c.params 4 4 = 0 ∨ 10 ≤ pf c.params 4 4 ∧ pf c.params 4 4 ≤ 30000)
    (hg : (s.hull (pf c.params 0 1)).reclaimable (pf c.params 2 1) = some g) (hop : s.isOperator c = true)
    (hlive : (s.hull (pf c.params 0 1)).live = true) :
    s.hullReclaim c =
      let h := pf c.params 0 1
      let v := s.setHull h { s.hull h with reclaims := (s.hull h).reclaims ++ [s.newReclaim c g] }
      ((((v.serveReclaim h).abortProbe g.pods.toNat).event evHull 0 80)).reply c 0x0202 sACCEPTED 0 := by
  simp only [State.hullReclaim, hg]
  exact (if_neg (by simp [hh, h1, h3, hz, hms])).trans ((if_neg (by simp [hop])).trans (if_neg (by simp [hlive])))

/-! ## HULL_DESTROY -/

/-- A grant that a hull lent is lent by nobody. -/
def Grant.unlent (h : Nat) (g : Grant) : Grant := if g.lender = some h then { g with lender := none } else g

/-- A hull whose grants, also those under reclaim, no longer name a lender (R351). -/
def Hull.unlent (h : Nat) (x : Hull) : Hull :=
  { x with grants := x.grants.map (Grant.unlent h), reclaims := x.reclaims.map fun r => { r with grant := r.grant.unlent h } }

theorem Grant.unlent_lender (h : Nat) (g : Grant) : (g.unlent h).lender ≠ some h := by
  unfold Grant.unlent
  split
  case isTrue => simp
  case isFalse hl => exact hl

theorem Hull.unlent_lender {h : Nat} {x : Hull} {g : Grant} (hg : g ∈ (x.unlent h).grants) : g.lender ≠ some h := by
  obtain ⟨g, _, rfl⟩ := List.mem_map.mp hg
  exact g.unlent_lender h

/-- Listed hulls are each changed. -/
def State.mapHulls (s : State) (f : Hull → Hull) (l : List Nat) : State := l.foldl (fun s k => s.setHull k (f (s.hull k))) s

theorem State.mapHulls_mem (s : State) (f : Hull → Hull) (l : List Nat) : (s.mapHulls f l).mem = s.mem :=
  State.foldl_mem (fun _ _ => by rfl) s l

theorem State.mapHulls_groups (s : State) (f : Hull → Hull) (l : List Nat) : (s.mapHulls f l).groups = s.groups :=
  List.foldlRecOn (motive := fun v : State => v.groups = s.groups) l _ rfl fun _ hv _ _ => by exact hv

theorem State.mapHulls_hull_of_not_mem {f : Hull → Hull} {l : List Nat} {k : Nat} (s : State) (hk : k ∉ l) :
    (s.mapHulls f l).hull k = s.hull k :=
  List.foldlRecOn (motive := fun v : State => v.hull k = s.hull k) l _ rfl fun _ hv _ hi => by
    exact (State.setHull_other _ _ _ (ne_of_mem_of_not_mem hi hk).symm).trans hv

theorem State.mapHulls_hull {f : Hull → Hull} {l : List Nat} {k : Nat} (s : State) (hk : k ∈ l) (hl : l.Nodup) :
    (s.mapHulls f l).hull k = f (s.hull k) := by
  induction l generalizing s with
  | nil => cases hk
  | cons i l ih =>
    obtain ⟨hi, hl⟩ := List.nodup_cons.mp hl
    rcases List.mem_cons.mp hk with rfl | hk
    · exact (State.mapHulls_hull_of_not_mem _ hi).trans (State.setHull_same ..)
    · exact (ih _ hk hl).trans (congrArg f (State.setHull_other _ _ _ (ne_of_mem_of_not_mem hk hi)))

/-- A hull whose program has stopped, and a probe of whose pods is aborted (R335, R393). -/
def State.stopped (s : State) (h : Nat) : State :=
  let v := s.stopHull h 6 sDONE false
  v.abortProbe (v.podMask h ||| (v.hull h).grants.foldl (fun m g => m ||| g.pods.toNat) 0)

/-- A hull that drains: its halt ends, and so do the reclaims whose removal has not begun (R351, R357). -/
def Hull.drained (x : Hull) : Hull :=
  { x with state := .draining, halted := false, holds := 0, reclaims := x.reclaims.filter fun r => decide (3 ≤ r.phase) }

/-- A hull begins to drain, and its groups are gone (R351, R357). -/
def State.drained (s : State) (h : Nat) : State :=
  { s.setHull h (s.hull h).drained with groups := s.groups.filter fun g => g.2.hull != h }

/-- What HULL_DESTROY makes of the state before it replies. -/
def State.destroyed (s : State) (h : Nat) : State := ((s.stopped h).drained h).mapHulls (Hull.unlent h) hullNos

theorem State.hullDestroy_of_live {s : State} {c : Cmd} (hh : isHull (pf c.params 0 1) = true) (hz : restZero c 1 = true)
    (hop : s.isOperator c = true) (hlive : (s.hull (pf c.params 0 1)).live = true) :
    s.hullDestroy c = (s.destroyed (pf c.params 0 1)).reply c 0x0203 sACCEPTED 0 :=
  (if_neg (by simp [hh, hz])).trans ((if_neg (by simp [hop])).trans (if_neg (by simp [hlive])))

theorem State.destroyed_mem (s : State) (h : Nat) : (s.destroyed h).mem = s.mem :=
  calc (s.destroyed h).mem = (s.stopped h).mem := State.mapHulls_mem ..
    _ = s.mem := by simp [State.stopped]

theorem State.destroyed_groups (s : State) (h : Nat) : ∀ g ∈ (s.destroyed h).groups, g.2.hull ≠ h := by
  intro g hg
  rw [State.destroyed, State.mapHulls_groups] at hg
  simpa using List.of_mem_filter hg

theorem State.destroyed_hull {k : Nat} (s : State) (h : Nat) (hk : k ∈ hullNos) :
    (s.destroyed h).hull k = (((s.stopped h).drained h).hull k).unlent h :=
  State.mapHulls_hull _ hk (by decide)

theorem State.drained_hull (s : State) (h : Nat) : (s.drained h).hull h = (s.hull h).drained :=
  State.setHull_same ..

/-! ## The statement -/

theorem isHull_iff_mem_hullNos {h : Nat} : isHull h = true ↔ h ∈ hullNos := by simp [isHull, mem_hullNos]

/-- Settles O47: no refusal of R358 applies, and what each command does notes nothing of an access. -/
theorem hullCommandsTakeEffect : Obligations.HullCommandsTakeEffect := by
  intro s c h
  refine ⟨?create, ?grant, ?reclaim, ?destroy⟩
  case create =>
    intro hs hh h1 h4 hz owner h0 hF u x hop hfree k0 k1
    exact State.packet_replies_after hs (State.hullCreate_of_free hh h1 h4 hz h0 hF hop hfree)
      (State.quiet_of_mem rfl (s.settled_begin_quiet c 0x0200))
  case grant =>
    intro hs u a lender hok hop hlive hreclaims hgrants hl hawake hfree v y
    have hlender : pf c.params 1 1 = 1 → (u.hull (pf c.params 2 1)).live = true := fun h1 => hl _ (if_pos h1)
    exact State.packet_replies_after hs (State.hullGrant_of_free hok hop hlive hreclaims hgrants hlender hawake hfree)
      (State.giveGrant_quiet h a lender (s.settled_begin_quiet c 0x0201))
  case reclaim =>
    intro g hs hh h1 h3 hz ms hms u x hg hop hlive r
    exact State.packet_replies_after hs (State.hullReclaim_of_reclaimable hh h1 h3 hz hms hg hop hlive)
      (State.quiet_of_mem (by simp [u]) (s.settled_begin_quiet c 0x0202))
  case destroy =>
    intro hs hh hz u hop hlive
    have hmem : (u.destroyed h).mem = u.mem := u.destroyed_mem h
    have hhull := (u.destroyed_hull h (isHull_iff_mem_hullNos.mp hh)).trans (congrArg (Hull.unlent h) (State.drained_hull ..))
    refine ⟨u.destroyed h, State.packet_replies_after hs (State.hullDestroy_of_live hh hz hop hlive)
      (State.quiet_of_mem hmem (s.settled_begin_quiet c 0x0203)), ?_, ?_, u.destroyed_groups h, ?_, hmem, ?_⟩
    · rw [hhull]; rfl
    · rw [hhull]; rfl
    · intro r hr
      rw [hhull] at hr
      obtain ⟨q, hq, rfl⟩ := List.mem_map.mp hr
      simpa using List.of_mem_filter hq
    · intro k hk g hgk
      rw [u.destroyed_hull h hk] at hgk
      exact Hull.unlent_lender hgk

end Sys2Proof.Machine
end

section
/-!
PROOFS. The interrupt controller's commands (R438–R442): what a claim and a completion do in each case, and the statement
InterruptsAreClaimedAndCompleted assembled from them.
-/

namespace Sys2Proof.Machine

theorem State.coreRuns_of_powered {s : State} {c : Nat} (hc : c < 8) (hd : s.rst.dev ≠ .cold) : s.coreRuns c = true := by
  simp [State.coreRuns, hc, hd]

theorem irqIn_of_le {c id : Nat} (hc : c < 8) (h1 : 1 ≤ id) (h2 : id ≤ 1022) : irqIn c id = true := by
  simp [irqIn, hc, h1, h2]

/-! ## Claims -/

/-- The state after the read of a core's claim register: its value goes out, the core is awake, and LATCH is clear (R440). -/
def State.claimRead (s : State) (c : Nat) : State :=
  (s.emit (.regRead (.core c) (0x040100 + 0x40 * c) (BitVec.ofNat 64 ((s.claimValue c).1 + (s.claimValue c).2 * 2 ^ 16)))).setCore c
    { s.core c with latch := false, idle := false }

theorem State.claim_of_winner {s : State} {c k : Nat} {x : IrqSrc} (h : s.winner c = some (k, x)) :
    s.claim c =
      ((s.claimRead c).setIrq k { x with active := true, activeOn := c, pending := false, count := 0 }).icLatch := by
  unfold State.claim
  rw [h]
  rfl

theorem State.claim_of_no_winner {s : State} {c : Nat} (h : s.winner c = none) : s.claim c = (s.claimRead c).icLatch := by
  unfold State.claim
  rw [h]
  rfl

/-! ## Completions -/

/-- A core that writes is awake (log entry 60). -/
def State.awakened (s : State) (c : Nat) : State := s.setCore c { s.core c with idle := false }

/-- Ids 0 and 1023 name no source (R441). -/
theorem State.complete_of_no_source {s : State} {c id : Nat} (h : id = 0 ∨ id = 1023) : s.complete c id = s.awakened c :=
  if_pos h

section Complete

variable {s : State} {c id : Nat} (h0 : id ≠ 0) (h1023 : id ≠ 1023)
include h0 h1023

/-- A source that the core holds ends; where it has become pending again its hold-off starts now (R439, R441). -/
theorem State.complete_of_held (ha : (s.irq (irqKey c id)).active = true) (hc : (s.irq (irqKey c id)).activeOn = c) :
    let y := { s.irq (irqKey c id) with active := false, activeOn := 0 }
    s.complete c id = ((s.awakened c).setIrq (irqKey c id)
      (if (s.irq (irqKey c id)).pending then (s.awakened c).startHoldoff (irqKey c id) y else y)).icLatch :=
  (if_neg (by simp [h0, h1023])).trans (if_pos ⟨ha, hc⟩)

/-- R441: a source that is not active for the core sets its ERR. -/
theorem State.complete_of_not_held (h : (s.irq (irqKey c id)).active = false ∨ (s.irq (irqKey c id)).activeOn ≠ c) :
    s.complete c id = (s.awakened c).setCore c { (s.awakened c).core c with err := true } :=
  (if_neg (by simp [h0, h1023])).trans (if_neg (by rcases h with h | h <;> simp [h]))

end Complete

/-! ## The statement -/

/-- Settles O43: the core has power and the source exists, so every command does its operation on the state that it meets. -/
theorem interruptsAreClaimedAndCompleted : Obligations.InterruptsAreClaimedAndCompleted := by
  intro s c hc hd reads awake
  have hruns : s.coreRuns c = true := State.coreRuns_of_powered hc hd
  refine ⟨?claimed, ?unclaimed, ?completed, ?noSource, ?source, ?idle, ?timer⟩
  case claimed => exact fun k x hw => congrArg Host.Outcome.next ((if_pos hruns).trans (State.claim_of_winner hw))
  case unclaimed => exact fun hw => congrArg Host.Outcome.next ((if_pos hruns).trans (State.claim_of_no_winner hw))
  case completed =>
    exact fun id h0 h1023 =>
      ⟨fun ha ho => congrArg Host.Outcome.next ((if_pos hruns).trans (State.complete_of_held h0 h1023 ha ho)),
        fun h => congrArg Host.Outcome.next ((if_pos hruns).trans (State.complete_of_not_held h0 h1023 h))⟩
  case noSource => exact fun id h => congrArg Host.Outcome.next ((if_pos hruns).trans (State.complete_of_no_source h))
  case source =>
    intro id h1 h1022 k x
    have hin : irqIn c id = true := irqIn_of_le hc h1 h1022
    have hmay : (irqIn c id && s.coreRuns c) = true := by simp [hin, hruns]
    refine ⟨congrArg Host.Outcome.next (if_pos hmay), congrArg Host.Outcome.next (if_pos hmay), fun hp ha he => ?_⟩
    exact congrArg Host.Outcome.next (if_pos ⟨hin, hp, by simpa [x, k] using ha, he⟩)
  case idle => exact fun ha => congrArg Host.Outcome.next (if_pos ⟨hruns, ha⟩)
  case timer => exact congrArg Host.Outcome.next (if_pos hruns)

end Sys2Proof.Machine
end

section
/-!
PROOFS. The checks before an opcode's own rules (R413, R415, R417, R426, R462): which rule of the order a packet falls under, what a packet
so answered leaves behind, and the statement PacketsAreCheckedBeforeTheirRules assembled from both.
-/

namespace Sys2Proof.Machine

/-! ## The rules that the header meets -/

theorem headerOk_iff {c : Cmd} {op : Nat} : headerOk c op = true ↔ HeaderInRule c op := by
  cases ho : c.org with
  | ring r => simp [headerOk, HeaderInRule, ho, and_assoc]
  | udp e =>
    have hflags : c.flags.toNat = 0 ↔ c.flags = 0 := by bv_omega
    simp [headerOk, HeaderInRule, ho, hflags, or_iff_not_imp_left, and_assoc]
    exact fun _ _ _ => and_comm

/-- The wire that a packet came by carries its opcode: no service call over a ring, and four opcodes by datagram (R417, R426). -/
def Carried (c : Cmd) (op : Nat) : Prop :=
  (∀ r, c.org = .ring r → op ≠ 0x0304) ∧ (∀ e, c.org = .udp e → op ∈ udpOpcodes)

/-- The test of the packet's wire in R417's order. -/
def wireOk (c : Cmd) (op : Nat) : Bool :=
  match c.org with
  | .ring _ => op != 0x0304
  | .udp _ => udpOpcodes.contains op

theorem wireOk_iff {c : Cmd} {op : Nat} : wireOk c op = true ↔ Carried c op := by
  cases ho : c.org <;> simp [wireOk, Carried, ho]

/-! ## The rules that the device's state decides -/

/-- The last rules of R417's order: the device is out of service, starts up, or is in STANDBY. -/
def State.serviceCheck (s : State) (c : Cmd) (op : Nat) : Option Byte :=
  if s.rst.dev = .outOfService ∧ !oosOpcodes.contains op then some sOOS
  else if s.rst.dev = .init ∧ !initOpcodes.contains op then some sBUSY
  else if s.board.standby ∧ !standbyOpcodes.contains op ∧ !(op = 0x0902 ∧ pf c.params 0 1 = 1) then some sBUSY
  else none

section Service

variable {s : State} {c : Cmd} {op : Nat}

theorem State.serviceCheck_outOfService (hd : s.rst.dev = .outOfService) (hop : op ∉ oosOpcodes) : s.serviceCheck c op = some sOOS :=
  if_pos (by simp [hd, hop])

theorem State.serviceCheck_init (hd : s.rst.dev = .init) (hop : op ∉ initOpcodes) : s.serviceCheck c op = some sBUSY :=
  (if_neg (by simp [hd])).trans (if_pos (by simp [hd, hop]))

/-- An opcode that the device's state lets through is left to the rule of STANDBY. -/
theorem State.serviceCheck_of_served (hoos : s.rst.dev = .outOfService → op ∈ oosOpcodes) (hinit : s.rst.dev = .init → op ∈ initOpcodes) :
    s.serviceCheck c op =
      if s.board.standby ∧ !standbyOpcodes.contains op ∧ !(op = 0x0902 ∧ pf c.params 0 1 = 1) then some sBUSY else none :=
  (if_neg (by simpa using hoos)).trans (if_neg (by simpa using hinit))

/-! ## The order of the rules -/

theorem State.preCheck_of_headerOutOfRule (h : ¬ HeaderInRule c op) : s.preCheck c op = some sBADPARAM :=
  if_pos (by simpa [← headerOk_iff] using h)

section InRule

variable (h : HeaderInRule c op)
include h

theorem State.preCheck_of_unknownOpcode (hop : op ∉ opcodes) : s.preCheck c op = some sBADOPCODE :=
  (if_neg (by simpa [headerOk_iff] using h)).trans (if_pos (by simpa using hop))

variable (hop : op ∈ opcodes)
include hop

/-- A packet in rule of an opcode of the index is left to the tests of its wire and of the device's state. -/
theorem State.preCheck_of_opcode : s.preCheck c op = if !wireOk c op then some sDENIED else s.serviceCheck c op :=
  (if_neg (by simpa [headerOk_iff] using h)).trans (if_neg (by simpa using hop))

theorem State.preCheck_of_not_carried (hc : ¬ Carried c op) : s.preCheck c op = some sDENIED :=
  (State.preCheck_of_opcode h hop).trans (if_pos (by simpa [← wireOk_iff] using hc))

theorem State.preCheck_of_carried (hc : Carried c op) : s.preCheck c op = s.serviceCheck c op :=
  (State.preCheck_of_opcode h hop).trans (if_neg (by simpa [wireOk_iff] using hc))

end InRule

end Service

/-! ## A refused packet's reply, whatever the command notes of accesses to memory -/

/-- The state with another device memory. -/
def State.withMem (s : State) (m : MemS) : State := { s with mem := m }

section WithMem

variable (s : State) (m : MemS)

@[simp] theorem State.withMem_rst : (s.withMem m).rst = s.rst := rfl
@[simp] theorem State.withMem_board : (s.withMem m).board = s.board := rfl
@[simp] theorem State.withMem_ring (r : Nat) : (s.withMem m).ring r = s.ring r := rfl
@[simp] theorem State.withMem_endp (e : Nat) : (s.withMem m).endp e = s.endp e := rfl
@[simp] theorem State.withMem_reg (off : Nat) : (s.withMem m).reg off = s.reg off := rfl
@[simp] theorem State.withMem_emit (o : Out) : (s.withMem m).emit o = (s.emit o).withMem m := rfl
@[simp] theorem State.withMem_setRing (r : Nat) (x : Ring) : (s.withMem m).setRing r x = (s.setRing r x).withMem m := rfl

@[simp] theorem State.withMem_preCheck (c : Cmd) (op : Nat) : (s.withMem m).preCheck c op = s.preCheck c op := rfl

@[simp] theorem State.withMem_begin (c : Cmd) (op : Nat) : (s.withMem m).begin_ c op = (s.begin_ c op).withMem m := by
  unfold State.begin_
  cases c.org with
  | udp e => rfl
  | ring n =>
    cases hx : (s.ring n).state with
    | running | draining => simp only [State.withMem_ring, hx]; split <;> rfl
    | disabled | fault => simp only [State.withMem_ring, hx]

@[simp] theorem State.withMem_hevent (bit : Nat) : (s.withMem m).hevent bit = (s.hevent bit).withMem m := by
  unfold State.hevent
  rw [State.withMem_reg]
  split <;> rfl

@[simp] theorem State.withMem_ringFault (n : Nat) : (s.withMem m).ringFault n = (s.ringFault n).withMem m := by
  cases hx : (s.ring n).state <;> simp [State.ringFault, hx]

/-- R416: a reply goes to host memory or out as a datagram, and reads nothing of the device's memory. -/
theorem State.withMem_reply (c : Cmd) (op : Nat) (st : Byte) (r : Params) :
    (s.withMem m).reply c op st r = (s.reply c op st r).withMem m := by
  simp only [State.reply, State.withMem_rst]
  split
  case isTrue => rfl
  case isFalse =>
    cases c.org with
    | udp e =>
      simp only [State.withMem_emit, State.withMem_endp]
      split <;> rfl
    | ring n =>
      cases hx : (s.ring n).state with
      | running | draining =>
        simp only [State.withMem_emit, State.withMem_ring, State.emit_ring, hx, State.withMem_board]
        split
        case isTrue => simp
        case isFalse => split <;> rfl
      | disabled | fault => simp only [State.withMem_emit, State.withMem_ring, State.emit_ring, hx]

end WithMem

/-- The device memory with what a command's accesses will meet, and nothing noted of them yet. -/
def MemS.meeting (m : MemS) (l : List Meet) : MemS := { m with meets := l, lost := false, stuck := false }

theorem State.meeting_eq (s : State) (l : List Meet) (f : State → State) :
    s.meeting l f = if (f (s.withMem (s.mem.meeting l))).mem.stuck then s else (f (s.withMem (s.mem.meeting l))).settled := rfl

/-- A command that neither reads nor changes the device's memory ends with what it does, and nothing noted. -/
theorem State.meeting_of_mem_unread {s : State} {f : State → State} (hf : ∀ m, f (s.withMem m) = (f s).withMem m) (l : List Meet) :
    s.meeting l f = f s.settled :=
  calc s.meeting l f = (f (s.withMem (s.mem.meeting l))).settled := by
        rw [State.meeting_eq, hf]
        exact if_neg Bool.false_ne_true
    _ = (f s).withMem s.settled.mem := by rw [hf]; rfl
    _ = f s.settled := (hf s.settled.mem).symm

/-- R417: a packet that fails a check is taken up and answered, and has no other effect. -/
theorem State.packet_of_preCheck {s : State} {c : Cmd} {op : Nat} {st : Byte} (f : State → State) (hcold : s.rst.dev ≠ .cold)
    (hrec : s.rst.dev ≠ .recovering) (hh : (s.core (s.coreOf c)).halted = false) (hp : s.preCheck c op = some st) :
    s.packet c op f = (s.settled.begin_ c op).reply c op st 0 := by
  have hsettled : s.settled.preCheck c op = some st := hp
  rw [State.packet_serves s c op f hcold hrec hh, State.meeting_of_mem_unread]
  case hf => intro m; simp only [State.withMem_preCheck, hp, State.withMem_begin, State.withMem_reply]
  simp only [hsettled]

/-! ## The statement -/

/-- Settles O45: a packet falls under the first rule of R417's order that it meets, and what answers it leaves the rest of the state alone. -/
theorem packetsAreCheckedBeforeTheirRules : Obligations.PacketsAreCheckedBeforeTheirRules := by
  constructor
  case left =>
    intro s i op c hi
    obtain ⟨f, hexec⟩ := exec_packetIn i op c hi s
    rw [hexec]
    exact ⟨fun h => congrArg Host.Outcome.next (State.packet_none s c op f h),
      fun st hcold hrec hh hp => congrArg Host.Outcome.next (State.packet_of_preCheck f hcold hrec hh hp)⟩
  case right =>
    intro s op c carried served
    refine ⟨?badParam, ?badOpcode, ?denied, ?outOfService, ?init, ?standby, ?passed⟩
    case badParam => exact State.preCheck_of_headerOutOfRule
    case badOpcode => exact State.preCheck_of_unknownOpcode
    case denied => exact State.preCheck_of_not_carried
    case outOfService => exact fun h hop hc hd hn => (State.preCheck_of_carried h hop hc).trans (State.serviceCheck_outOfService hd hn)
    case init => exact fun h hop hc hd hn => (State.preCheck_of_carried h hop hc).trans (State.serviceCheck_init hd hn)
    case standby =>
      intro h hop hc ⟨hoos, hinit⟩ hs hn hhalt
      calc s.preCheck c op = s.serviceCheck c op := State.preCheck_of_carried h hop hc
        _ = _ := State.serviceCheck_of_served hoos hinit
        _ = some sBUSY := if_pos (by simpa [hs, hn, imp_iff_not_or] using hhalt)
    case passed =>
      intro h hop hc ⟨hoos, hinit⟩ hs
      calc s.preCheck c op = s.serviceCheck c op := State.preCheck_of_carried h hop hc
        _ = _ := State.serviceCheck_of_served hoos hinit
        _ = none := if_neg (by simp [hs])

end Sys2Proof.Machine
end

section
/-!
PROOFS. What every command and every step keeps: the frame lemma of each command gathered over the dispatch, and from it the statements
EveryCommandIsAnsweredAndKeepsTheQueue, NoStepChangesTheFixedIdentity, MemoryKeepsItsCanonicalForm and StepTakesTheFrontCommand; and the
state after reset, which meets the invariants.
-/

namespace Sys2Proof.Machine

/-! ## Every command, every step -/

theorem exec_keeps (i : Instr) (s : State) : Answers s (exec i s) := by
  unfold exec
  cases i with
  | mLdw => exact execMLdw_keeps (.refl s)
  | mMma => exact execMMma_keeps (.refl s)
  | mDrain => exact execMDrain_keeps (.refl s)
  | mDrv => exact execMDrv_keeps (.refl s)
  | mAccld => exact execMAccld_keeps (.refl s)
  | mZero => exact execMZero_keeps (.refl s)
  | vFma => exact execVFma_keeps (.refl s)
  | vAdd => exact execVAdd_keeps (.refl s)
  | vSub => exact execVSub_keeps (.refl s)
  | vMul => exact execVMul_keeps (.refl s)
  | vMax => exact execVMax_keeps (.refl s)
  | vMin => exact execVMin_keeps (.refl s)
  | vCmp => exact execVCmp_keeps (.refl s)
  | vSel => exact execVSel_keeps (.refl s)
  | vAnd => exact execVAnd_keeps (.refl s)
  | vOr => exact execVOr_keeps (.refl s)
  | vXor => exact execVXor_keeps (.refl s)
  | vShl => exact execVShl_keeps (.refl s)
  | vShr => exact execVShr_keeps (.refl s)
  | vSra => exact execVSra_keeps (.refl s)
  | vRcp => exact execVRcp_keeps (.refl s)
  | vRsq => exact execVRsq_keeps (.refl s)
  | vSqrt => exact execVSqrt_keeps (.refl s)
  | vExp2 => exact execVExp2_keeps (.refl s)
  | vLog2 => exact execVLog2_keeps (.refl s)
  | vGsum => exact execVGsum_keeps (.refl s)
  | vLd => exact execVLd_keeps (.refl s)
  | vSt => exact execVSt_keeps (.refl s)
  | vCvt => exact execVCvt_keeps (.refl s)
  | vPerm => exact execVPerm_keeps (.refl s)
  | vBcast => exact execVBcast_keeps (.refl s)
  | vDraw => exact execVDraw_keeps (.refl s)
  | vLgzero => exact execVLgzero_keeps (.refl s)
  | vLgacc => exact execVLgacc_keeps (.refl s)
  | vLgrd => exact execVLgrd_keeps (.refl s)
  | vLgfold => exact execVLgfold_keeps (.refl s)
  | vLgexp => exact execVLgexp_keeps (.refl s)
  | vLgimp => exact execVLgimp_keeps (.refl s)
  | sAdd => exact execSAdd_keeps (.refl s)
  | sSub => exact execSSub_keeps (.refl s)
  | sMul => exact execSMul_keeps (.refl s)
  | sAnd => exact execSAnd_keeps (.refl s)
  | sOr => exact execSOr_keeps (.refl s)
  | sXor => exact execSXor_keeps (.refl s)
  | sShl => exact execSShl_keeps (.refl s)
  | sShr => exact execSShr_keeps (.refl s)
  | sSra => exact execSSra_keeps (.refl s)
  | sMin => exact execSMin_keeps (.refl s)
  | sMax => exact execSMax_keeps (.refl s)
  | sMinu => exact execSMinu_keeps (.refl s)
  | sMaxu => exact execSMaxu_keeps (.refl s)
  | sLi => exact execSLi_keeps (.refl s)
  | sLih => exact execSLih_keeps (.refl s)
  | sAddi => exact execSAddi_keeps (.refl s)
  | sShli => exact execSShli_keeps (.refl s)
  | sShri => exact execSShri_keeps (.refl s)
  | sCeq => exact execSCeq_keeps (.refl s)
  | sCne => exact execSCne_keeps (.refl s)
  | sClt => exact execSClt_keeps (.refl s)
  | sCge => exact execSCge_keeps (.refl s)
  | sCltu => exact execSCltu_keeps (.refl s)
  | sCgeu => exact execSCgeu_keeps (.refl s)
  | sPand => exact execSPand_keeps (.refl s)
  | sPor => exact execSPor_keeps (.refl s)
  | sPandn => exact execSPandn_keeps (.refl s)
  | sLd => exact execSLd_keeps (.refl s)
  | sSt => exact execSSt_keeps (.refl s)
  | sBr => exact execSBr_keeps (.refl s)
  | sRdstat => exact execSRdstat_keeps (.refl s)
  | sSetfl => exact execSSetfl_keeps (.refl s)
  | sDraw => exact execSDraw_keeps (.refl s)
  | aEnq => exact execAEnq_keeps (.refl s)
  | aWait => exact execAWait_keeps (.refl s)
  | aWaitm => exact execAWaitm_keeps (.refl s)
  | aQstat => exact execAQstat_keeps (.refl s)
  | aPut => exact execAPut_keeps (.refl s)
  | aPget => exact execAPget_keeps (.refl s)
  | aAucmd => exact execAAucmd_keeps (.refl s)
  | ySignal => exact execYSignal_keeps (.refl s)
  | yAcq => exact execYAcq_keeps (.refl s)
  | yArrive => exact execYArrive_keeps (.refl s)
  | yBarr => exact execYBarr_keeps (.refl s)
  | yLease => exact execYLease_keeps (.refl s)
  | yRelease => exact execYRelease_keeps (.refl s)
  | yBufget => exact execYBufget_keeps (.refl s)
  | yBufput => exact execYBufput_keeps (.refl s)
  | yEot => exact execYEot_keeps (.refl s)
  | yBsw => exact execYBsw_keeps (.refl s)
  | syncRequestArrive => exact execSyncRequestArrive_keeps (.refl s)
  | leaseBreak => exact execLeaseBreak_keeps (.refl s)
  | descriptorRetire => exact execDescriptorRetire_keeps (.refl s)
  | mapoutCopyComplete => exact execMapoutCopyComplete_keeps (.refl s)
  | refresh => exact execRefresh_keeps (.refl s)
  | refreshHot => exact execRefreshHot_keeps (.refl s)
  | scrubBlock => exact execScrubBlock_keeps (.refl s)
  | reduce => exact execReduce_keeps (.refl s)
  | reduceHoldRelease => exact execReduceHoldRelease_keeps (.refl s)
  | update => exact execUpdate_keeps (.refl s)
  | scatterAdd => exact execScatterAdd_keeps (.refl s)
  | nmuDigest => exact execNmuDigest_keeps (.refl s)
  | verify => exact execVerify_keeps (.refl s)
  | snapshot => exact execSnapshot_keeps (.refl s)
  | nmuDelta => exact execNmuDelta_keeps (.refl s)
  | nmuZero => exact execNmuZero_keeps (.refl s)
  | nmuScrub => exact execNmuScrub_keeps (.refl s)
  | ausLoad => exact execAusLoad_keeps (.refl s)
  | ausDelta => exact execAusDelta_keeps (.refl s)
  | factor => exact execFactor_keeps (.refl s)
  | solve => exact execSolve_keeps (.refl s)
  | refine => exact execRefine_keeps (.refl s)
  | invroot => exact execInvroot_keeps (.refl s)
  | qpIp => exact execQpIp_keeps (.refl s)
  | qpAdmm => exact execQpAdmm_keeps (.refl s)
  | ausFree => exact execAusFree_keeps (.refl s)
  | engineComplete => exact execEngineComplete_keeps (.refl s)
  | tickBegin => exact execTickBegin_keeps (.refl s)
  | extractionComplete => exact execExtractionComplete_keeps (.refl s)
  | segmentAck => exact execSegmentAck_keeps (.refl s)
  | rollbackComplete => exact execRollbackComplete_keeps (.refl s)
  | timeGtcSet => exact execTimeGtcSet_keeps (.refl s)
  | timeMessage => exact execTimeMessage_keeps (.refl s)
  | launchFire => exact execLaunchFire_keeps (.refl s)
  | timeTickCfg => exact execTimeTickCfg_keeps (.refl s)
  | throttleChange => exact execThrottleChange_keeps (.refl s)
  | flitReceive => exact execFlitReceive_keeps (.refl s)
  | messageReceive => exact execMessageReceive_keeps (.refl s)
  | bundleRetrain => exact execBundleRetrain_keeps (.refl s)
  | laneLoss => exact execLaneLoss_keeps (.refl s)
  | trainingComplete => exact execTrainingComplete_keeps (.refl s)
  | downTimeout => exact execDownTimeout_keeps (.refl s)
  | jvDisable => exact execJvDisable_keeps (.refl s)
  | collOpStart => exact execCollOpStart_keeps (.refl s)
  | chunkReceive => exact execChunkReceive_keeps (.refl s)
  | lateDecision => exact execLateDecision_keeps (.refl s)
  | decisionMessage => exact execDecisionMessage_keeps (.refl s)
  | exactRecord => exact execExactRecord_keeps (.refl s)
  | heartbeat => exact execHeartbeat_keeps (.refl s)
  | suspect => exact execSuspect_keeps (.refl s)
  | reformProposal => exact execReformProposal_keeps (.refl s)
  | reformDecision => exact execReformDecision_keeps (.refl s)
  | twinFeed => exact execTwinFeed_keeps (.refl s)
  | twinDigest => exact execTwinDigest_keeps (.refl s)
  | layerCopy => exact execLayerCopy_keeps (.refl s)
  | placementRequest => exact execPlacementRequest_keeps (.refl s)
  | placementSetting => exact execPlacementSetting_keeps (.refl s)
  | resendRequest => exact execResendRequest_keeps (.refl s)
  | reclaimForceTimeout => exact execReclaimForceTimeout_keeps (.refl s)
  | foldPoint => exact execFoldPoint_keeps (.refl s)
  | evacuationComplete => exact execEvacuationComplete_keeps (.refl s)
  | evacuationTimeout => exact execEvacuationTimeout_keeps (.refl s)
  | quiesceComplete => exact execQuiesceComplete_keeps (.refl s)
  | scrubComplete => exact execScrubComplete_keeps (.refl s)
  | drainEnd => exact execDrainEnd_keeps (.refl s)
  | probeRunEnd => exact execProbeRunEnd_keeps (.refl s)
  | queueTimeout => exact execQueueTimeout_keeps (.refl s)
  | syncTimeout => exact execSyncTimeout_keeps (.refl s)
  | runaway => exact execRunaway_keeps (.refl s)
  | overrunRun => exact execOverrunRun_keeps (.refl s)
  | recoveryComplete => exact execRecoveryComplete_keeps (.refl s)
  | warmReset => exact execWarmReset_keeps (.refl s)
  | rstCfg => exact execRstCfg_keeps (.refl s)
  | collCfg => exact execCollCfg_keeps (.refl s)
  | hullCfg => exact execHullCfg_keeps (.refl s)
  | pwrHshare => exact execPwrHshare_keeps (.refl s)
  | secCfg => exact execSecCfg_keeps (.refl s)
  | attGo => exact execAttGo_keeps (.refl s)
  | doorbell => exact execDoorbell_keeps (.refl s)
  | commandFetch => exact execCommandFetch_keeps (.refl s)
  | cmdRhead => exact execCmdRhead_keeps (.refl s)
  | ringEnable => exact execRingEnable_keeps (.refl s)
  | ringDisable => exact execRingDisable_keeps (.refl s)
  | endpointEnable => exact execEndpointEnable_keeps (.refl s)
  | datagramArrival => exact execDatagramArrival_keeps (.refl s)
  | icClaim => exact execIcClaim_keeps (.refl s)
  | icComplete => exact execIcComplete_keeps (.refl s)
  | clrPending => exact execClrPending_keeps (.refl s)
  | setPending => exact execSetPending_keeps (.refl s)
  | holdoffExpire => exact execHoldoffExpire_keeps (.refl s)
  | coreIdle => exact execCoreIdle_keeps (.refl s)
  | devInfo => exact execDevInfo_keeps (.refl s)
  | devHealth => exact execDevHealth_keeps (.refl s)
  | timeSetLaunch => exact execTimeSetLaunch_keeps (.refl s)
  | timeRead => exact execTimeRead_keeps (.refl s)
  | hullCreate => exact execHullCreate_keeps (.refl s)
  | hullGrant => exact execHullGrant_keeps (.refl s)
  | hullReclaim => exact execHullReclaim_keeps (.refl s)
  | hullDestroy => exact execHullDestroy_keeps (.refl s)
  | hullStatus => exact execHullStatus_keeps (.refl s)
  | progLoad => exact execProgLoad_keeps (.refl s)
  | progStart => exact execProgStart_keeps (.refl s)
  | progStop => exact execProgStop_keeps (.refl s)
  | progQuery => exact execProgQuery_keeps (.refl s)
  | svcCall => exact execSvcCall_keeps (.refl s)
  | serviceAnswer => exact execServiceAnswer_keeps (.refl s)
  | serviceDeadline => exact execServiceDeadline_keeps (.refl s)
  | progEval => exact execProgEval_keeps (.refl s)
  | memCopy => exact execMemCopy_keeps (.refl s)
  | memFill => exact execMemFill_keeps (.refl s)
  | memMapStatus => exact execMemMapStatus_keeps (.refl s)
  | grpWrite => exact execGrpWrite_keeps (.refl s)
  | grpActivate => exact execGrpActivate_keeps (.refl s)
  | grpRead => exact execGrpRead_keeps (.refl s)
  | linkPlan => exact execLinkPlan_keeps (.refl s)
  | linkStatus => exact execLinkStatus_keeps (.refl s)
  | auStructLoad => exact execAuStructLoad_keeps (.refl s)
  | auDelta => exact execAuDelta_keeps (.refl s)
  | auSolve => exact execAuSolve_keeps (.refl s)
  | auResult => exact execAuResult_keeps (.refl s)
  | ckptBegin => exact execCkptBegin_keeps (.refl s)
  | ckptStatus => exact execCkptStatus_keeps (.refl s)
  | restore => exact execRestore_keeps (.refl s)
  | shardExport => exact execShardExport_keeps (.refl s)
  | probePod => exact execProbePod_keeps (.refl s)
  | probeNmu => exact execProbeNmu_keeps (.refl s)
  | bypassPod => exact execBypassPod_keeps (.refl s)
  | releasePod => exact execReleasePod_keeps (.refl s)
  | mapoutUnit => exact execMapoutUnit_keeps (.refl s)
  | bypassBundle => exact execBypassBundle_keeps (.refl s)
  | releaseBundle => exact execReleaseBundle_keeps (.refl s)
  | testContentLoad => exact execTestContentLoad_keeps (.refl s)
  | errLogRead => exact execErrLogRead_keeps (.refl s)
  | dbgAttach => exact execDbgAttach_keeps (.refl s)
  | dbgPeek => exact execDbgPeek_keeps (.refl s)
  | hullHalt => exact execHullHalt_keeps (.refl s)
  | hullResume => exact execHullResume_keeps (.refl s)
  | coreHalt => exact execCoreHalt_keeps (.refl s)
  | coreResume => exact execCoreResume_keeps (.refl s)
  | deviceStandby => exact execDeviceStandby_keeps (.refl s)
  | deviceActive => exact execDeviceActive_keeps (.refl s)
  | podSleep => exact execPodSleep_keeps (.refl s)
  | podWake => exact execPodWake_keeps (.refl s)
  | pwrBudgetRead => exact execPwrBudgetRead_keeps (.refl s)
  | sleepEntryComplete => exact execSleepEntryComplete_keeps (.refl s)
  | wakeTimer => exact execWakeTimer_keeps (.refl s)
  | wakeComplete => exact execWakeComplete_keeps (.refl s)
  | pwrEnHigh => exact execPwrEnHigh_keeps (.refl s)
  | startUpEnd => exact execStartUpEnd_keeps (.refl s)
  | perst => exact execPerst_keeps (.refl s)
  | leak => exact execLeak_keeps (.refl s)
  | coolant => exact execCoolant_keeps (.refl s)
  | thermalTrip => exact execThermalTrip_keeps (.refl s)
  | bar0InvalidAccess => exact execBar0InvalidAccess_keeps (.refl s)
  | rcRead => exact execRcRead_keeps (.refl s)
  | registerWrite => exact execRegisterWrite_keeps (.refl s)
  | storeTimeout => exact execStoreTimeout_keeps (.refl s)
  | newTwinLost => exact execNewTwinLost_keeps (.refl s)
  | ethPortStateChange => exact execEthPortStateChange_keeps (.refl s)
  | coreTimer => exact execCoreTimer_keeps (.refl s)
  | testAccessInstruction => exact execTestAccessInstruction_keeps (.refl s)
  | recordPushAck => exact execRecordPushAck_keeps (.refl s)
  | collectorRetry => exact execCollectorRetry_keeps (.refl s)
  | queuePairError => exact execQueuePairError_keeps (.refl s)
  | peerSignalDetect => exact execPeerSignalDetect_keeps (.refl s)
  | vendorExpiry => exact execVendorExpiry_keeps (.refl s)
  | timeMessageTimeout => exact execTimeMessageTimeout_keeps (.refl s)
  | holdoverTimeout => exact execHoldoverTimeout_keeps (.refl s)
  | privRetry => exact execPrivRetry_keeps (.refl s)
  | probeTimeout => exact execProbeTimeout_keeps (.refl s)
  | fwWatchdog => exact execFwWatchdog_keeps (.refl s)
  | watchdogWarning => exact execWatchdogWarning_keeps (.refl s)
  | captureComplete => exact execCaptureComplete_keeps (.refl s)
  | recoveryTimeout => exact execRecoveryTimeout_keeps (.refl s)
  | readmit => exact execReadmit_keeps (.refl s)
  | capRelease => exact execCapRelease_keeps (.refl s)
  | attDone => exact execAttDone_keeps (.refl s)
  | startPhaseTimeout => exact execStartPhaseTimeout_keeps (.refl s)
  | powerRemoval => exact execPowerRemoval_keeps (.refl s)
  | inputUndervoltage => exact execInputUndervoltage_keeps (.refl s)
  | timeMessageSend => exact execTimeMessageSend_keeps (.refl s)
  | railOutOfRegulation => exact execRailOutOfRegulation_keeps (.refl s)

/-- A step keeps what every command keeps, seen from the state without the command that it takes. -/
theorem step_keeps {s t : State} (h : step s = .next t) : Keeps { s with pending := s.pending.tail } t := by
  unfold step at h
  split at h
  case h_1 hp =>
    obtain rfl := Host.Outcome.next.inj h
    have hs : ({ s with pending := s.pending.tail } : State) = s := by rw [hp, List.tail_nil, ← hp]
    rw [hs]
    exact State.cycle_keeps (.refl s)
  case h_2 c rest hp =>
    obtain ⟨u, hu, hk⟩ := exec_keeps c { s with pending := rest }
    rw [hu] at h
    obtain rfl := Host.Outcome.next.inj h
    rw [hp, List.tail_cons]
    exact hk

/-! ## The statements -/

/-- Settles O56: each command's frame lemma names its next state, with the queue as it was. -/
theorem everyCommandIsAnsweredAndKeepsTheQueue : Obligations.EveryCommandIsAnsweredAndKeepsTheQueue := by
  intro i s
  obtain ⟨t, ht, hk⟩ := exec_keeps i s
  exact ⟨t, ht, hk.pending⟩

/-- Settles O58: the fixed part is part of what every step keeps. -/
theorem noStepChangesTheFixedIdentity : Obligations.NoStepChangesTheFixedIdentity :=
  fun _ _ h => (step_keeps h).fixed

/-- Settles O60: the canonical form is part of what every step keeps. -/
theorem memoryKeepsItsCanonicalForm : Obligations.MemoryKeepsItsCanonicalForm :=
  fun _ _ hs h => (step_keeps h).dram hs

/-- Settles O55: the two cases of the queue are the two arms of a step, and the decoder answers no command for any word. -/
theorem stepTakesTheFrontCommand : Obligations.StepTakesTheFrontCommand := by
  intro s
  refine ⟨fun c rest hp => ?_, fun hp => ?_, fun _ _ => rfl⟩
  · simp only [step, hp]
  · simp only [step, hp]

/-- Settles O57: no table lists anything, so that every entry reads as its default. -/
theorem resetLeavesTheTabledValues : Obligations.ResetLeavesTheTabledValues := by
  refine ⟨rfl, rfl, fun _ => rfl, rfl, rfl, rfl, fun _ => ⟨rfl, rfl, rfl⟩, fun _ => rfl, fun _ => rfl, fun _ => rfl, rfl, rfl, rfl, rfl,
    rfl, fun tb _ => ?blocks, ?content, rfl⟩
  case blocks =>
    cases tb with
    | false => rfl
    | true => rfl
  case content =>
    intro k e hk
    cases hk

end Sys2Proof.Machine
end

section
/-!
PROOFS. The scalar slots (R118–R122) and what decides an issue (R91, R119, R120): the result of each form of scalar instruction, what S.LD and
S.ST meet, and the statements ScalarArithmeticGivesItsResult, ScalarImmediatesAndComparesGiveTheirResult,
ScalarLoadAndStoreAccessTheTileStore and GuardsAndDestinationsDecideTheIssue.
-/

namespace Sys2Proof.Machine

/-! ## The scalar forms -/

section Forms

variable {s : State} {t : Nat}

theorem State.sR_done {f : SR} (lat : Nat) (g : Word → Word → Word) (h : s.canIssue t (scalarSlot f.s1) (scalarDest dkS f.rd.toNat))
    (hp : (s.tile t).preg f.pg = true) :
    s.sR t f lat g = s.scalarDone t f.s1 f.rd lat (g ((s.tile t).sreg f.ra) ((s.tile t).sreg f.rb)) := by
  unfold State.sR State.scalarDone
  rw [State.guarded_taken s t _ f.pg _ _ h hp]
  simp only [State.setTile_same, Tile.took_sreg, State.result0]

theorem State.sI_done {f : SI} {ok : Bool} (g : Word → BitVec 10 → Word) (hok : ok = true)
    (h : s.canIssue t (scalarSlot f.s1) (scalarDest dkS f.rd.toNat)) (hp : (s.tile t).preg f.pg = true) :
    s.sI t f ok g = s.scalarDone t f.s1 f.rd 1 (g ((s.tile t).sreg f.rd) f.imm) := by
  unfold State.sI State.scalarDone
  rw [State.guarded_taken' s t _ f.pg _ _ _ h hp hok]
  simp only [State.setTile_same, Tile.took_sreg, State.result0]

theorem State.sC_done {f : SC} (g : Word → Word → Bool) (h : s.canIssue t (scalarSlot f.s1) (scalarDest dkP f.pd.toNat))
    (hp : (s.tile t).preg f.pg = true) :
    s.sC t f g = s.predDone t f.s1 f.pd (g ((s.tile t).sreg f.ra) ((s.tile t).sreg f.rb)) := by
  unfold State.sC State.predDone
  rw [State.guarded_taken s t _ f.pg _ _ h hp]
  simp only [State.setTile_same, Tile.took_sreg, State.result0]

theorem State.sP_done {f : SP} (g : Bool → Bool → Bool) (h : s.canIssue t (scalarSlot f.s1) (scalarDest dkP f.pd.toNat))
    (hp : (s.tile t).preg f.pg = true) :
    s.sP t f g = s.predDone t f.s1 f.pd (g ((s.tile t).preg f.pa) ((s.tile t).preg f.pb)) := by
  unfold State.sP State.predDone
  rw [State.guarded_taken s t _ f.pg _ _ h hp]
  simp only [State.setTile_same, Tile.took_preg, State.result0]

end Forms

/-! ## The words -/

theorem minWord_eq (a b : Word) : (if b.slt a then b else a) = if a.toInt ≤ b.toInt then a else b := by
  by_cases h : a.toInt ≤ b.toInt
  · simp [BitVec.slt, h, Int.not_lt.mpr h]
  · simp [BitVec.slt, h, Int.not_le.mp h]

/-- Equal integers are equal words, so that a tie gives the same word either way. -/
theorem maxWord_eq (a b : Word) : (if a.slt b then b else a) = if a.toInt ≤ b.toInt then b else a := by
  rcases Int.lt_trichotomy a.toInt b.toInt with h | h | h
  · simp [BitVec.slt, h, Int.le_of_lt h]
  · simp [BitVec.eq_of_toInt_eq h]
  · simp [BitVec.slt, Int.not_le.mpr h, Int.not_lt.mpr (Int.le_of_lt h)]

theorem minuWord_eq (a b : Word) : (if b.ult a then b else a) = if a.toNat ≤ b.toNat then a else b := by
  by_cases h : a.toNat ≤ b.toNat
  · simp [BitVec.ult, h, Nat.not_lt.mpr h]
  · simp [BitVec.ult, h, Nat.not_le.mp h]

theorem maxuWord_eq (a b : Word) : (if a.ult b then b else a) = if a.toNat ≤ b.toNat then b else a := by
  rcases Nat.lt_trichotomy a.toNat b.toNat with h | h | h
  · simp [BitVec.ult, h, Nat.le_of_lt h]
  · simp [BitVec.eq_of_toNat_eq h]
  · simp [BitVec.ult, Nat.not_le.mpr h, Nat.not_lt.mpr (Nat.le_of_lt h)]

/-- S.LIH: the register's value times 1,024, the immediate below it. -/
theorem shiftLeft_ten_or (r : Word) (i : BitVec 10) :
    (r <<< 10) ||| i.zeroExtend 64 = BitVec.ofNat 64 (r.toNat * 1024 + i.toNat) := by
  apply BitVec.eq_of_toNat_eq
  have hi : i.toNat < 2 ^ 10 := i.isLt
  have hm : r.toNat * 1024 % 2 ^ 64 = 2 ^ 10 * (r.toNat % 2 ^ 54) := by omega
  have he : (i.zeroExtend 64).toNat = i.toNat := by simp [BitVec.toNat_setWidth]; omega
  rw [BitVec.toNat_or, he, BitVec.toNat_shiftLeft, Nat.shiftLeft_eq, hm, BitVec.toNat_ofNat, ← Nat.two_pow_add_eq_or_of_lt hi]
  omega

theorem shiftLeft_eq_mul (r : Word) (n : Nat) : r <<< n = BitVec.ofNat 64 (r.toNat * 2 ^ n) := by
  apply BitVec.eq_of_toNat_eq
  rw [BitVec.toNat_shiftLeft, Nat.shiftLeft_eq, BitVec.toNat_ofNat]

theorem shiftRight_eq_div (r : Word) (n : Nat) : r >>> n = BitVec.ofNat 64 (r.toNat / 2 ^ n) := by
  apply BitVec.eq_of_toNat_eq
  rw [BitVec.toNat_ushiftRight, Nat.shiftRight_eq_div_pow, BitVec.toNat_ofNat,
    Nat.mod_eq_of_lt (Nat.lt_of_le_of_lt (Nat.div_le_self ..) r.isLt)]

/-! ## S.LD and S.ST -/

section Access

variable {s : State} {t : Nat}

theorem State.tsAccess_inFlight {x : Tile} {write : Bool} {a n : Nat} (f : State → State) (h : x.inFlight write a n = true) :
    (s.setTile t x).tsAccess t write [(a, n)] [] f = (s.setTile t x).contract t tfInFlight := by
  simp [State.tsAccess, h]

theorem State.tsAccess_busy {x : Tile} {write : Bool} {a n : Nat} (f : State → State) (h : x.inFlight write a n = false)
    (hb : x.access (granules a n) [] = none) :
    (s.setTile t x).tsAccess t write [(a, n)] [] f = (s.setTile t x).contract t tfBank := by
  simp [State.tsAccess, h, hb]

theorem State.tsAccess_free {x y : Tile} {write : Bool} {a n : Nat} (f : State → State) (h : x.inFlight write a n = false)
    (hb : x.access (granules a n) [] = some y) : (s.setTile t x).tsAccess t write [(a, n)] [] f = f (s.setTile t y) := by
  simp [State.tsAccess, h, hb]

/-- An access marks banks and may raise a flag: it changes no byte of the store. -/
theorem Tile.access_tsRead {x y : Tile} {gs own : List Nat} (h : x.access gs own = some y) (a n : Nat) : y.tsRead a n = x.tsRead a n := by
  unfold Tile.access at h
  simp only [Option.ite_none_left_eq_some, Option.some.injEq] at h
  obtain ⟨-, rfl⟩ := h
  unfold Tile.tsRead
  split
  · rfl
  · rfl

end Access

/-! ## Guards and destinations -/

section Refused

variable {s : State} {t : Nat}

/-- R119: with a zero guard a scalar instruction of form R takes its slot and destination. -/
theorem State.sR_not {f : SR} (lat : Nat) (g : Word → Word → Word) (h : s.canIssue t (scalarSlot f.s1) (scalarDest dkS f.rd.toNat))
    (hp : (s.tile t).preg f.pg = false) :
    s.sR t f lat g = s.setTile t ((s.tile t).took (scalarSlot f.s1) (scalarDest dkS f.rd.toNat)) :=
  State.guarded_not s t _ f.pg _ _ h hp

/-- R119: with a zero guard an operation on a sync object is not sent. -/
theorem State.yOp_not {f : YF} {ok : Bool} {op : Nat} {amount : Tile → Nat} (hok : ok = true) (h : s.canIssue t slY [])
    (hp : (s.tile t).preg f.pg = false) :
    s.yOp t f ok [] op amount false 0 = s.setTile t ((s.tile t).took slY []) := by
  subst hok
  exact State.guarded_not s t slY f.pg [] _ h hp

/-- R120: a form R operation whose destination the bundle has named makes the bundle invalid. -/
theorem State.sR_dup {f : SR} (lat : Nat) (g : Word → Word → Word) (h0 : f.rd ≠ 0) (h : s.slotOpen t (scalarSlot f.s1) = true)
    (hd : (dkS, f.rd.toNat) ∈ (s.tile t).dests) : s.sR t f lat g = s.badBundle t := by
  have hne : f.rd.toNat ≠ 0 := fun h => h0 (BitVec.eq_of_toNat_eq h)
  exact State.slot_dup s t _ true _ _ h (by simpa [scalarDest, hne] using hd)

/-- R120: so does a V0 operation. -/
theorem State.v0_dup {f : V0} (ok : Bool) (lat : Nat) (g : Tile → Tbl Word32 × Flg) (h : s.slotOpen t slV0 = true)
    (hd : (dkV, f.vd.toNat) ∈ (s.tile t).dests) : s.v0 t f ok lat g = s.badBundle t :=
  State.slot_dup s t slV0 ok _ _ h (by simpa using hd)

theorem State.v0Arith_dup {f : V0} (ok : Bool) (lat : Nat) (op : Val → Val → Val → Val × Flg) (iop : Int → Int → Int)
    (h : s.slotOpen t slV0 = true) (hd : (dkV, f.vd.toNat) ∈ (s.tile t).dests) : s.v0Arith t f ok lat op iop = s.badBundle t := by
  unfold State.v0Arith State.v0Map
  exact State.v0_dup _ lat _ h hd

end Refused

/-! ## The statements -/

/-- Settles O1: every instruction is form R with its own operation; the comparisons of S.MIN and its like are those of the integers. -/
theorem scalarArithmeticGivesItsResult : Obligations.ScalarArithmeticGivesItsResult := by
  intro s t f h hp a b done
  have hdone (lat : Nat) (g : Word → Word → Word) : (.next (s.sR t f lat g) : Outcome) = done lat (g a b) :=
    congrArg Host.Outcome.next (State.sR_done lat g h hp)
  refine ⟨hdone 1 _, hdone 1 _, hdone 3 _, hdone 1 _, hdone 1 _, hdone 1 _, hdone 1 _, hdone 1 _, hdone 1 _, ?_, ?_, ?_, ?_⟩
  · exact (hdone 1 _).trans (congrArg _ (minWord_eq a b))
  · exact (hdone 1 _).trans (congrArg _ (maxWord_eq a b))
  · exact (hdone 1 _).trans (congrArg _ (minuWord_eq a b))
  · exact (hdone 1 _).trans (congrArg _ (maxuWord_eq a b))

/-- Settles O2: every instruction is of form I, C or P with its own operation. -/
theorem scalarImmediatesAndComparesGiveTheirResult : Obligations.ScalarImmediatesAndComparesGiveTheirResult := by
  refine ⟨?immediates, ?compares, ?predicates⟩
  case immediates =>
    intro s t f h hp r done
    have hdone {ok : Bool} (g : Word → BitVec 10 → Word) (hok : ok = true) {v : Word} (hv : g r f.imm = v) :
        (.next (s.sI t f ok g) : Outcome) = done v :=
      congrArg Host.Outcome.next ((State.sI_done g hok h hp).trans (congrArg _ hv))
    refine ⟨hdone _ rfl rfl, hdone _ rfl (shiftLeft_ten_or r f.imm), hdone _ rfl ?_, fun hi =>
      ⟨hdone _ (decide_eq_true hi) (shiftLeft_eq_mul r _), hdone _ (decide_eq_true hi) (shiftRight_eq_div r _)⟩⟩
    simp [BitVec.ofInt_add, BitVec.signExtend]
  case compares =>
    intro s t f h hp a b done
    have hdone (g : Word → Word → Bool) {v : Bool} (hv : g a b = v) : (.next (s.sC t f g) : Outcome) = done v :=
      congrArg Host.Outcome.next ((State.sC_done g h hp).trans (congrArg _ hv))
    exact ⟨hdone _ (beq_eq_decide ..), hdone _ (by simp [bne, beq_eq_decide]), hdone _ rfl, hdone _ (by simp [BitVec.sle]), hdone _ rfl,
      hdone _ (by simp [BitVec.ule])⟩
  case predicates =>
    intro s t f h hp a b done
    have hdone (g : Bool → Bool → Bool) : (.next (s.sP t f g) : Outcome) = done (g a b) :=
      congrArg Host.Outcome.next (State.sP_done g h hp)
    exact ⟨hdone _, hdone _, hdone _⟩

/-- Settles O3: the guard holds, so that the access is what the instruction does; its three ends are those of a tile-store access. -/
theorem scalarLoadAndStoreAccessTheTileStore : Obligations.ScalarLoadAndStoreAccessTheTileStore := by
  intro s t f hp x a ld st
  constructor
  case left =>
    intro h
    have hload (e : Ecc) : exec (.sLd t f e) s = .next ((s.setTile t ld).tsAccess t false [(a, 8)] [] fun s => s.tsEcc t a e fun s =>
        s.result t 5 (.sreg f.rd.toNat (BitVec.ofNat 64 (leNat ((s.tile t).tsRead a 8)))) 0) := by
      refine congrArg Host.Outcome.next ((State.guarded_taken s t _ f.pg _ _ h hp).trans ?_)
      rw [State.setTile_same]
      rfl
    refine ⟨fun e hf => ?_, fun e hf hb => ?_, fun y hf hb => ?_⟩
    · rw [hload, State.tsAccess_inFlight (x := ld) _ hf]
    · rw [hload, State.tsAccess_busy (x := ld) _ hf hb]
    · intro got
      have hread : y.tsRead a 8 = x.tsRead a 8 := (Tile.access_tsRead hb a 8).trans (Tile.took_tsRead ..)
      refine ⟨?_, ?_, ?_⟩
      · rw [hload, State.tsAccess_free (x := ld) _ hf hb]
        simp [State.tsEcc, hread, got]
      · rw [hload, State.tsAccess_free (x := ld) _ hf hb]
        simp [State.tsEcc, hread, got, State.result, State.updTile, Tile.pendFlags, Tile.due, Tile.pendAt]
      · rw [hload, State.tsAccess_free (x := ld) _ hf hb]
        rfl
  case right =>
    intro h
    have hstore : exec (.sSt t f) s = .next ((s.setTile t st).tsAccess t true [(a, 8)] [] fun s =>
        s.result t 5 (.store a (natLe 8 (x.sreg f.rd).toNat)) 0) := by
      refine congrArg Host.Outcome.next ((State.guarded_taken s t _ f.pg _ _ h hp).trans ?_)
      rw [State.setTile_same]
      rfl
    refine ⟨fun hf => ?_, fun hf hb => ?_, fun y hf hb => ?_⟩
    · rw [hstore, State.tsAccess_inFlight (x := st) _ hf]
    · rw [hstore, State.tsAccess_busy (x := st) _ hf hb]
    · rw [hstore, State.tsAccess_free (x := st) _ hf hb, State.result0]

/-- Settles O5: a zero guard leaves the slot taken and nothing more; a destination named twice turns the bundle away. -/
theorem guardsAndDestinationsDecideTheIssue : Obligations.GuardsAndDestinationsDecideTheIssue := by
  refine ⟨?guards, ?destinations⟩
  case guards =>
    intro s t g hg took
    have hnot {k : Nat} {ds : List (Nat × Nat)} {F : State → State} (h : s.canIssue t k ds) :
        (.next (s.guarded t k g true ds F) : Outcome) = took k ds :=
      congrArg Host.Outcome.next (State.guarded_not s t k g ds F h hg)
    refine ⟨?formR, ?store, fun target h => hnot h, fun h => ⟨fun q sd sx e => hnot h, fun q n => hnot h, fun sd eng e => hnot h⟩, ?amounts,
      ?rest⟩
    case formR =>
      rintro f rfl h u
      exact ⟨hnot h, hnot h, hnot h, fun e => hnot h⟩
    case store =>
      rintro f rfl h
      exact hnot h
    case amounts =>
      rintro f rfl hi h
      have hok : (f.imm != 0) = true := by simpa using hi
      exact ⟨congrArg Host.Outcome.next (State.yOp_not hok h hg), congrArg Host.Outcome.next (State.yOp_not hok h hg)⟩
    case rest =>
      rintro f rfl hi h
      have hok : (f.imm == 0) = true := by simpa using hi
      exact ⟨congrArg Host.Outcome.next (State.yOp_not hok h hg), congrArg Host.Outcome.next (State.yOp_not hok h hg), congrArg Host.Outcome.next (State.yOp_not hok h hg),
        congrArg Host.Outcome.next (State.yOp_not hok h hg)⟩
  case destinations =>
    intro s t f g h0
    refine ⟨fun h hd => ?_, fun h hd => ?_⟩
    · have hR (lat : Nat) (op : Word → Word → Word) : (.next (s.sR t f lat op) : Outcome) = .next (s.badBundle t) :=
        congrArg Host.Outcome.next (State.sR_dup lat op h0 h hd)
      exact ⟨hR 1 _, hR 1 _⟩
    · have hV (ok : Bool) (op : Val → Val → Val → Val × Flg) (iop : Int → Int → Int) :
          (.next (s.v0Arith t g ok 4 op iop) : Outcome) = .next (s.badBundle t) :=
        congrArg Host.Outcome.next (State.v0Arith_dup ok 4 op iop h hd)
      exact ⟨hV _ _ _, hV _ _ _, congrArg Host.Outcome.next (State.v0_dup _ 14 _ h hd)⟩

end Sys2Proof.Machine
end

section
/-!
PROOFS. The vector slots (R108–R116): a V0 operation in each of its formats, the field rules of V1, and the statements
VectorArithmeticGivesEveryLane, VectorComparesAndBitOperationsGiveEveryLane, VectorFunctionsGiveEveryLane,
VectorMovesAndDrawsGiveEveryLane, VectorTransfersTakeThePath, VectorConversionCompletes and ExactAccumulationCompletes.
-/

namespace Sys2Proof.Machine

/-! ## Two's complement (R142) -/

theorem toSigned_eq_toInt (w v : Nat) : toSigned w v = (BitVec.ofNat w v).toInt := by
  unfold toSigned
  rw [BitVec.toInt_eq_toNat_cond, BitVec.toNat_ofNat]
  cases w with
  | zero => simp [Nat.mod_one]
  | succ w =>
    have hpow : 2 * 2 ^ w = 2 ^ (w + 1) := by rw [Nat.pow_succ, Nat.mul_comm]
    by_cases h : v % 2 ^ (w + 1) < 2 ^ w
    · rw [if_pos (by simpa using h), if_pos (by omega)]
    · rw [if_neg (by simpa using h), if_neg (by omega)]
      simp

theorem ofSigned_eq_toNat (w : Nat) (v : Int) : ofSigned w v = (BitVec.ofInt w v).toNat := by
  simp [ofSigned, BitVec.toNat_ofInt]

/-! ## V0 by format (R109) -/

section Formats

variable {s : State} {t : Nat} {f : V0}

/-- A V0 instruction in rule that may issue gives every selected lane. -/
theorem State.v0Map_given {ok : Bool} (lat : Nat) (g : Nat → Nat → Nat → Nat × Flg) (hc : s.canV0 t f) (hok : ok = true) :
    s.v0Map t f ok lat g = s.v0Done t f lat ((s.tile t).overLanes f g) := by
  subst hok
  exact State.v0Map_done s t f lat g g hc fun _ _ _ => rfl

theorem v0Fmt_of_float (h : f.fmt.toNat < 2) : v0Fmt f.fmt = some (if f.fmt = 0 then .f32 else .bf) := by
  have h01 : f.fmt = 0 ∨ f.fmt = 1 := by bv_omega
  rcases h01 with h | h <;> simp [v0Fmt, h]

/-- FMT 0 is FP32, FMT 1 two BF16 values a lane. -/
theorem State.v0Arith_float {ok : Bool} (lat : Nat) (op : Val → Val → Val → Val × Flg) (iop : Int → Int → Int) (hc : s.canV0 t f)
    (hi : f.imm = 0) (hok : ok = true) (hf : f.fmt.toNat < 2) :
    s.v0Arith t f ok lat op iop =
      s.v0Done t f lat ((s.tile t).overLanes f (if f.fmt = 0 then inFmt fp32 op else onHalves (inFmt bf16 op))) := by
  have hlane : v0Lane ((v0Fmt f.fmt).getD .f32) op iop = if f.fmt = 0 then inFmt fp32 op else onHalves (inFmt bf16 op) := by
    rw [v0Fmt_of_float hf]
    by_cases h0 : f.fmt = 0
    · simp only [h0, if_true]; rfl
    · simp only [h0, if_false]; rfl
  unfold State.v0Arith
  rw [State.v0Map_given _ _ hc (by simp [hok, v0Fmt_of_float hf, hi]), hlane]

/-- FMT 2 is INT32: the operation on the integers wraps as the one on words does. -/
theorem State.v0Arith_int {ok : Bool} (lat : Nat) (op : Val → Val → Val → Val × Flg) {iop : Int → Int → Int}
    {g : Word32 → Word32 → Word32} (hg : ∀ a b : Word32, BitVec.ofInt 32 (iop a.toInt b.toInt) = g a b) (hc : s.canV0 t f)
    (hi : f.imm = 0) (hok : ok = true) (hf : f.fmt = 2) :
    s.v0Arith t f ok lat op iop = s.v0Done t f lat ((s.tile t).overLanes f fun a b _ =>
      ((g (BitVec.ofNat 32 a) (BitVec.ofNat 32 b)).toNat, 0)) := by
  have hlane : v0Lane ((v0Fmt f.fmt).getD .f32) op iop = fun a b _ => ((g (BitVec.ofNat 32 a) (BitVec.ofNat 32 b)).toNat, 0) := by
    funext a b c
    simp [v0Fmt, hf, v0Lane, toSigned_eq_toInt, ofSigned_eq_toNat, hg]
  unfold State.v0Arith
  rw [State.v0Map_given _ _ hc (by simp [hok, v0Fmt, hf, hi]), hlane]

end Formats

theorem ofInt_sub (a b : Word32) : BitVec.ofInt 32 (a.toInt - b.toInt) = a - b := by
  simp [sub_eq_add_neg, BitVec.ofInt_add, BitVec.ofInt_neg]

theorem ofInt_max (a b : Word32) : BitVec.ofInt 32 (max a.toInt b.toInt) = if a.toInt ≤ b.toInt then b else a := by
  by_cases h : a.toInt ≤ b.toInt
  · simp [h]
  · simp [h, max_eq_left (Int.le_of_lt (Int.not_le.mp h))]

theorem ofInt_min (a b : Word32) : BitVec.ofInt 32 (min a.toInt b.toInt) = if a.toInt ≤ b.toInt then a else b := by
  by_cases h : a.toInt ≤ b.toInt
  · simp [h]
  · simp [h, min_eq_right (Int.le_of_lt (Int.not_le.mp h))]

/-! ## The statements about V0 -/

/-- Settles O6: each instruction is its operation in the format that FMT names. -/
theorem vectorArithmeticGivesEveryLane : Obligations.VectorArithmeticGivesEveryLane := by
  intro s t f hc hi x done fp
  have hvc (h : f.vc = 0) : (f.vc == 0) = true := by simpa using h
  refine ⟨?fma, ?float, ?int⟩
  case fma => exact fun hf => congrArg Host.Outcome.next (State.v0Arith_float 4 _ _ hc hi (decide_eq_true hf) hf)
  case float =>
    intro h hf
    exact ⟨congrArg Host.Outcome.next (State.v0Arith_float 4 _ _ hc hi (hvc h) hf), congrArg Host.Outcome.next (State.v0Arith_float 4 _ _ hc hi (hvc h) hf),
      congrArg Host.Outcome.next (State.v0Arith_float 4 _ _ hc hi (hvc h) hf), congrArg Host.Outcome.next (State.v0Arith_float 2 _ _ hc hi (hvc h) hf),
      congrArg Host.Outcome.next (State.v0Arith_float 2 _ _ hc hi (hvc h) hf)⟩
  case int =>
    intro h hf i32
    have hint (lat : Nat) (op : Val → Val → Val → Val × Flg) (iop : Int → Int → Int) (g : Word32 → Word32 → Word32)
        (hg : ∀ a b : Word32, BitVec.ofInt 32 (iop a.toInt b.toInt) = g a b) :
        (.next (s.v0Arith t f (f.vc == 0) lat op iop) : Outcome) = done lat (i32 g) :=
      congrArg Host.Outcome.next (State.v0Arith_int lat op hg hc hi (hvc h) hf)
    refine ⟨hint 4 _ (· + ·) (· + ·) ?_, hint 4 _ (· - ·) (· - ·) ofInt_sub, hint 4 _ (· * ·) (· * ·) ?_, ?_, ?_⟩
    · exact fun a b => by simp [BitVec.ofInt_add]
    · exact fun a b => by simp [BitVec.ofInt_mul]
    · exact hint 2 _ max (fun a b => if a.toInt ≤ b.toInt then b else a) ofInt_max
    · exact hint 2 _ min (fun a b => if a.toInt ≤ b.toInt then a else b) ofInt_min

/-- Settles O7: a comparison is its condition in the format that FMT names; the other instructions are their operation on raw lanes. -/
theorem vectorComparesAndBitOperationsGiveEveryLane : Obligations.VectorComparesAndBitOperationsGiveEveryLane := by
  refine ⟨?compares, ?bits⟩
  case compares =>
    intro s t f hc hvc hi x fp
    have hmod : f.imm.toNat % 8 = f.imm.toNat := Nat.mod_eq_of_lt (by omega)
    refine ⟨fun hf => ?_, fun hf => ?_, fun hf => ?_⟩
    · refine congrArg Host.Outcome.next ((State.v0Map_given 2 _ hc (by simp [v0Fmt, hf, hvc, hi])).trans ?_)
      simp only [v0Fmt, hf, hmod]
      rfl
    · refine congrArg Host.Outcome.next ((State.v0Map_given 2 _ hc (by simp [v0Fmt, hf, hvc, hi])).trans ?_)
      simp only [v0Fmt, hf, hmod]
      rfl
    · refine congrArg Host.Outcome.next ((State.v0Map_given 2 _ hc (by simp [v0Fmt, hf, hvc, hi])).trans ?_)
      simp only [v0Fmt, hf, hmod, toSigned_eq_toInt]
      rfl
  case bits =>
    intro s t f hc hf x done w
    refine ⟨fun hi => ?_, fun hi hvc => ⟨?_, ?_, ?_⟩, fun hi hvb hvc => ⟨?_, ?_, ?_⟩⟩
    · exact congrArg Host.Outcome.next (State.v0Map_given 2 _ hc (by simp [hf, hi]))
    · exact congrArg Host.Outcome.next (State.v0Map_given 2 _ hc (by simp [hf, hi, hvc]))
    · exact congrArg Host.Outcome.next (State.v0Map_given 2 _ hc (by simp [hf, hi, hvc]))
    · exact congrArg Host.Outcome.next (State.v0Map_given 2 _ hc (by simp [hf, hi, hvc]))
    · exact congrArg Host.Outcome.next (State.v0Map_given 2 _ hc (by simp [hf, hi, hvb, hvc]))
    · exact congrArg Host.Outcome.next (State.v0Map_given 2 _ hc (by simp [hf, hi, hvb, hvc]))
    · exact congrArg Host.Outcome.next (State.v0Map_given 2 _ hc (by simp [hf, hi, hvb, hvc]))

/-- Settles O8: each function is rounded once to FP32 in every lane; V.GSUM works group by group. -/
theorem vectorFunctionsGiveEveryLane : Obligations.VectorFunctionsGiveEveryLane := by
  intro s t f hc hf hvb hvc hi x done
  have hok : (f.fmt == 0 && f.vb == 0 && f.vc == 0 && f.imm == 0) = true := by simp [hf, hvb, hvc, hi]
  have hfn (g : Val → Val × Flg) : (.next (s.v0Fn t f g) : Outcome) = done g := congrArg Host.Outcome.next (State.v0Map_given 12 _ hc hok)
  refine ⟨hfn _, hfn _, hfn _, hfn _, hfn _, congrArg Host.Outcome.next ?_⟩
  rw [hok]
  exact State.v0_done s t f 14 _ _ hc rfl

/-! ## The statements about V1 -/

/-- Settles O9: the fields are in rule, and a lane function that raises no flag is a plain table of lanes. -/
theorem vectorMovesAndDrawsGiveEveryLane : Obligations.VectorMovesAndDrawsGiveEveryLane := by
  intro s t f hc x lanes done h
  have hv1 {ok : Bool} (lat : Nat) (g : Tile → Nat → Nat) (g' : Nat → Word32) (hok : ok = true)
      (hg : ∀ l, BitVec.ofNat 32 (g (x.took slV1 [(dkV, f.vd.toNat)]) l) = g' l) :
      (.next (s.v1 t f ok lat fun x => laneMap (gmLanes f.gm) fun l => (g x l, 0)) : Outcome) = done lat g' := by
    subst hok
    exact congrArg Host.Outcome.next (State.v1_done s t f lat _ (lanes g', 0) hc (laneMap_pure _ _ g' hg))
  refine ⟨?perm, ?bcast, ?draw⟩
  case perm =>
    intro ⟨_, _, _, hlg, hi, hs, hr, hd⟩
    exact hv1 3 (fun x l => x.laneN f.va (l / 64 * 64 + x.laneN f.vb l % 64)) _ (by simp_all [plainV1])
      fun l => BitVec.ofNat_toNat ..
  case bcast =>
    intro ⟨_, _, hvb, hlg, _, hs, hr, hd⟩
    exact hv1 2 (fun x l => x.laneN f.va (l / 64 * 64 + f.imm6.toNat)) _ (by simp_all [plainV1]) fun l => BitVec.ofNat_toNat ..
  case draw =>
    intro ⟨_, _, hvb, hlg, hi, hs, hr, hd⟩
    exact hv1 6 (fun x l => (drawWord h.k0 h.k1 x.drawDomain.toNat h.drawStep x.drawTensor.toNat (x.laneN f.va l)).toNat) _
      (by simp_all [plainV1]) fun l => BitVec.ofNat_toNat ..

/-- Settles O10: a taken slot runs its change of the tile. -/
theorem vectorTransfersTakeThePath : Obligations.VectorTransfersTakeThePath := by
  intro s t f x a
  refine ⟨fun e h => congrArg Host.Outcome.next ?_, fun h => congrArg Host.Outcome.next ?_⟩
  · rw [State.slot_taken s t slV1 _ _ h, State.updTile_setTile]
    rfl
  · rw [State.slot_taken s t slV1 _ _ h, State.updTile_setTile]
    rfl

/-- The draws of a conversion advance lane generators and nothing that a result on its way needs. -/
theorem Tile.cvtElems_pend (x : Tile) (va : BitVec 6) (src dst : VFmt) (rnd gm : BitVec 2) :
    (x.cvtElems va src dst rnd gm).2.2.cyc = x.cyc := by
  unfold Tile.cvtElems
  refine List.foldlRecOn (motive := fun st : List Nat × Flg × Tile => st.2.2.cyc = x.cyc) _ _ rfl fun st hst e _ => ?_
  by_cases hr : rnd = 1
  · simp only [hr, if_true]; exact hst
  · simp only [hr, if_false]; exact hst

/-- A conversion of valid formats makes its packed elements due, with the flags that they raise. -/
theorem Tile.cvt_eq {x : Tile} {f : V1G} {src dst : VFmt} (hs : vFmt f.fmtS = some src) (hd : vFmt f.fmtD = some dst) :
    x.cvt f =
      let n := 64 * gmGroups f.gm
      let r := x.cvtElems f.va src dst f.rnd f.gm
      r.2.2.dueF 4 (.vreg f.vd.toNat (((upFrom 0 n).zip (packLanes dst.bits r.1 n)).map fun p => (p.1, BitVec.ofNat 32 p.2))) r.2.1 := by
  have hc := x.cvtElems_pend f.va src dst f.rnd f.gm
  simp only [Tile.cvt, hs, hd, Tile.dueF, ← hc]
  rfl

/-- Settles O11: the field rules are in force, and a conversion waits for the matrix slot's draws only where it is stochastic. -/
theorem vectorConversionCompletes : Obligations.VectorConversionCompletes := by
  intro s t f src dst h hs hd hok x n r ls
  have hcvt : exec (.vCvt t f) s = .next (s.setTile t (if f.rnd = 1 then { x with cvtNow := some f } else x.cvt f)) := by
    refine congrArg Host.Outcome.next ((State.slot_taken' s t slV1 _ _ _ h hok).trans ?_)
    rw [State.updTile_setTile]
  have hrules := hok
  simp only [cvtOk, hs, hd, Bool.and_eq_true, Bool.or_eq_true, bne_iff_ne, beq_iff_eq, Bool.not_eq_true', ne_eq] at hrules
  obtain ⟨⟨⟨⟨⟨⟨⟨⟨hne, h64s⟩, h64d⟩, h3⟩, hex⟩, hbits⟩, _⟩, _⟩, _⟩ := hrules
  refine ⟨fun h1 => ?_, fun h1 => ?_, hne, h64s, h64d, h3, fun he => ?_, fun hb => hbits.resolve_left hb⟩
  · rw [hcvt, if_pos h1]
  · rw [hcvt, if_neg h1, Tile.cvt_eq hs hd]
  · exact hex.resolve_right (by simp [he])

/-- Settles O12: the fields are in rule; each instruction makes its elements or lanes due. -/
theorem exactAccumulationCompletes : Obligations.ExactAccumulationCompletes := by
  intro s t f x groups lanes added
  refine ⟨fun h => ⟨?zero, ?acc, ?imp, ?fold⟩, fun h hva hvb hs hr hi => ⟨?read, ?exported⟩⟩
  case zero =>
    intro ⟨hvd, hva, hvb, _, hi, hs, hr, hd⟩ hg
    exact congrArg Host.Outcome.next (State.v1Lg_done' s t f _ 1 _ _ h (by simp_all) rfl)
  case acc =>
    intro ⟨hvd, _, hvb, _, hi, hs, hr, hd⟩
    exact congrArg Host.Outcome.next (State.v1Lg_done' s t f _ 6 _ _ h (by simp_all) rfl)
  case imp =>
    intro ⟨hvd, _, hvb, _, hi, hs, hr, hd⟩
    exact congrArg Host.Outcome.next (State.v1Lg_done' s t f _ 6 _ _ h (by simp_all) rfl)
  case fold =>
    intro ⟨hvd, hva, hvb, _, hi, hs, hr, hd⟩ hg
    refine congrArg Host.Outcome.next ((State.slot_taken' s t slV1 _ _ _ h (by simp_all)).trans ?_)
    rw [State.setTile_same, State.result_set]
    rfl
  case read =>
    intro hd
    have hok : (f.va == 0 && f.vb == 0 && f.fmtS == 0 && f.rnd == 0 && (f.fmtD == 0 || f.fmtD == 7) && f.imm6 == 0) = true := by
      rcases hd with hd | hd <;> simp [hva, hvb, hs, hr, hi, hd]
    refine congrArg Host.Outcome.next ?_
    rw [hok]
    exact State.v1_done s t f 8 _ _ h rfl
  case exported =>
    intro hd
    have hok : (f.va == 0 && f.vb == 0 && f.fmtS == 0 && f.rnd == 0 && f.fmtD == 0 && f.imm6 == 0) = true := by
      simp [hva, hvb, hs, hr, hi, hd]
    refine congrArg Host.Outcome.next ?_
    rw [hok]
    exact State.v1_done s t f 4 _ _ h rfl

end Sys2Proof.Machine
end

section
/-!
PROOFS. The matrix slot (R95–R105), the access slot (R126–R132) and the sync slot (R133–R139): what each instruction does once its slot is
taken, and the statements MatrixInstructionsTakeTheirSide, AccessInstructionsComplete, EnqueueAndEngineCommandComplete,
SyncOperationsAreSentToTheirHome and MarkerAndBankSwitchComplete.
-/

namespace Sys2Proof.Machine

/-! ## Slots that change their tile -/

section Slots

variable {s : State} {t k : Nat} {ds : List (Nat × Nat)} {pg : BitVec 3} {ok : Bool}

/-- A slot whose effect is a change of its tile changes the tile that took it. -/
theorem State.slot_updTile (f : Tile → Tile) (h : s.canIssue t k ds) (hok : ok = true) :
    s.slot t k ok ds (fun s => s.updTile t f) = s.setTile t (f ((s.tile t).took k ds)) := by
  rw [State.slot_taken' s t k ok ds _ h hok, State.updTile_setTile]

theorem State.guarded_updTile (f : Tile → Tile) (h : s.canIssue t k ds) (hp : (s.tile t).preg pg = true) (hok : ok = true) :
    s.guarded t k pg ok ds (fun s => s.updTile t f) = s.setTile t (f ((s.tile t).took k ds)) := by
  rw [State.guarded_taken' s t k pg ok ds _ h hp hok, State.updTile_setTile]

end Slots

/-- Settles O13: each instruction is a change of its tile; the rule of M.MMA's classes is that of its slot. -/
theorem matrixInstructionsTakeTheirSide : Obligations.MatrixInstructionsTakeTheirSide := by
  intro s t x addr done
  refine ⟨?ldw, ?mma, ?wrongClass, ?drain, ?drv, ?accld, ?zero⟩
  case ldw =>
    intro wb fmt sb off e c h hc
    refine congrArg Host.Outcome.next ((State.slot_updTile _ h (by simp [hc])).trans ?_)
    simp only [hc]
    rfl
  case mma =>
    intro acc wb fmtA z sb off rows1 e r h hs hc
    have hok : ((mClass fmtA).isSome && mClass fmtA == mClass ((s.tile t).wfmt wb.toNat)) = true := by
      rw [hs, ← hc]
      simp
    exact congrArg Host.Outcome.next (State.slot_updTile _ h hok)
  case wrongClass =>
    intro acc wb fmtA z sb off rows1 e r h hc
    have hbad : ((mClass fmtA).isSome && mClass fmtA == mClass ((s.tile t).wfmt wb.toNat)) = false := by
      rw [beq_eq_false_iff_ne.mpr hc, Bool.and_false]
    exact congrArg Host.Outcome.next (State.slot_not' s t slM _ _ _ h hbad)
  case drain => exact fun acc fmtO rnd sb off rows1 z h hok => congrArg Host.Outcome.next (State.slot_updTile _ h hok)
  case drv => exact fun acc vd row8 h => congrArg Host.Outcome.next (State.slot_updTile _ h rfl)
  case accld => exact fun acc vs row8 int h => congrArg Host.Outcome.next (State.slot_updTile _ h rfl)
  case zero => exact fun acc h => congrArg Host.Outcome.next (State.slot_updTile _ h rfl)

/-! ## Waits and transfers -/

/-- R70, R129: a wait that is met covers its queues, one that is not stalls the tile from now on. -/
theorem execWait_eq {s : State} {t : Nat} {pg : BitVec 3} {ok : Bool} (w : Wait) (h : s.canIssue t slA []) (hp : (s.tile t).preg pg = true)
    (hok : ok = true) :
    s.guarded t slA pg ok [] (fun s => s.waitOn t w) =
      if (s.tile t).waitMet w then s.setTile t (((s.tile t).took slA []).cover w)
      else s.setTile t { (s.tile t).took slA [] with wait := some w, stallGtc := s.time.gtc, waited := 0 } := by
  rw [State.guarded_taken' s t slA pg ok [] _ h hp hok]
  have hmet : ((s.tile t).took slA []).waitMet w = (s.tile t).waitMet w := by cases w <;> rfl
  unfold State.waitOn
  rw [State.updTile_setTile, hmet]
  cases (s.tile t).waitMet w <;> rfl

/-- Settles O14: a met wait is one of its cases; the others are changes of their tile. -/
theorem accessInstructionsComplete : Obligations.AccessInstructionsComplete := by
  intro s t pg hp x done took
  refine ⟨?wait, ?waitm, ?qstat, ?put, ?get⟩
  case wait =>
    intro q n h
    have hmet : x.waitMet (.queue q.toNat n.toNat) = decide ((x.queue q.toNat).descs.length ≤ n.toNat) := rfl
    refine (congrArg Host.Outcome.next (execWait_eq (.queue q.toNat n.toNat) h hp rfl)).trans ?_
    rw [show s.tile t = x from rfl, hmet]
    by_cases hle : (x.queue q.toNat).descs.length ≤ n.toNat
    · simp only [hle, decide_true, if_true]; rfl
    · simp only [hle, decide_false, Bool.false_eq_true, if_false]; rfl
  case waitm =>
    intro m h hm qs
    have hmet : x.waitMet (.queues m) = qs.all fun q => (x.queue q).descs.isEmpty := rfl
    refine (congrArg Host.Outcome.next (execWait_eq (.queues m) h hp (by simpa using hm))).trans ?_
    rw [show s.tile t = x from rfl, hmet]
    cases qs.all fun q => (x.queue q).descs.isEmpty with
    | true => rfl
    | false => rfl
  case qstat =>
    intro q rd h
    refine congrArg Host.Outcome.next ((State.guarded_taken s t slA pg _ _ h hp).trans ?_)
    simp only [State.setTile_same, State.result0, State.updTile_setTile]
    rfl
  case put =>
    exact fun ss sdst port n1 e h hport => congrArg Host.Outcome.next (State.guarded_updTile _ h hp (decide_eq_true hport))
  case get => exact fun ss sdst n1 e h => congrArg Host.Outcome.next (State.guarded_updTile _ h hp rfl)

/-! ## Reads of descriptors and command blocks -/

section Reads

variable {s : State} {t : Nat} {x y : Tile}

/-- An access that meets nothing in flight and no bank in use is performed. -/
theorem State.tsAccess_ranges {write : Bool} {rs : List (Nat × Nat)} (f : State → State)
    (h : (rs.any fun r => x.inFlight write r.1 r.2) = false) (hb : x.access (rs.flatMap fun r => granules r.1 r.2) [] = some y) :
    (s.setTile t x).tsAccess t write rs [] f = f (s.setTile t y) := by
  simp [State.tsAccess, h, hb]

/-- R72, R73: an uncorrectable error ends a read, any other state of it goes on. -/
theorem State.tsEcc_eq (a : Nat) (e : Ecc) (f : State → State) :
    s.tsEcc t a e f = if e = .uncorrectable then s.storeUe t a else f (s.afterRead t e) := by
  cases e <;> rfl

theorem Tile.access_queue {gs own : List Nat} (h : x.access gs own = some y) (q : Nat) : y.queue q = x.queue q := by
  unfold Tile.access at h
  simp only [Option.ite_none_left_eq_some, Option.some.injEq] at h
  obtain ⟨-, rfl⟩ := h
  unfold Tile.queue
  split <;> rfl

theorem State.afterRead_setTile_same (e : Ecc) : ((s.setTile t y).afterRead t e).tile t = y := by
  unfold State.afterRead
  split <;> simp

theorem State.afterRead_hull (e : Ecc) (p h : Nat) :
    ((s.setTile t y).afterRead t e).hull h = s.hull h ∧ ((s.setTile t y).afterRead t e).pod p = s.pod p ∧
      ∀ k, ((s.setTile t y).afterRead t e).eng k = s.eng k := by
  unfold State.afterRead
  split <;> exact ⟨rfl, rfl, fun k => rfl⟩

end Reads

/-- R128: what a descriptor read for a hull with a program comes to. -/
theorem State.enqueue_eq {s : State} {t q : Nat} {d : Desc} {p : Prog} (hp : (s.hull (s.pod (podOf t)).hull).prog = some p) :
    s.enqueue t q d =
      if ((s.tile t).queue q).descs.length ≥ 64 then s.contract t tfOverflow (some q)
      else if d.offset + d.length > p.bytesOf d.tensor || (d.flags.toNat % 2 == 1 && !(s.hull (s.pod (podOf t)).hull).ownsSync d.syncId) then
        s.contract t tfBound (some q)
      else s.setTile t ((s.tile t).setQueue q { (s.tile t).queue q with
        descs := ((s.tile t).queue q).descs ++ [{ d with
          bad := !descOk d q (p.inMemory d.tensor) || (d.flags.toNat / 4 % 2 == 1 && s.inPrivate (podOf t) d.loc d.length) }] }) := by
  unfold State.enqueue
  simp only [hp]

/-- Settles O15: both instructions are one read of the tile store, and what follows it. -/
theorem enqueueAndEngineCommandComplete : Obligations.EnqueueAndEngineCommandComplete := by
  intro s t pg hp h x hull
  refine ⟨?enq, ?aucmd⟩
  case enq =>
    intro q sd sx e y p a im b nmu d hf hfb hb hprog full outside v
    have hx : y.queue q.toNat = x.queue q.toNat := Tile.access_queue hb _
    obtain ⟨hhull, hpod, -⟩ := State.afterRead_hull (s := s) (y := y) (t := t) e (podOf t) (s.pod (podOf t)).hull
    have hv : v.hull (v.pod (podOf t)).hull = hull := by rw [hpod]; exact hhull
    have hpriv : v.inPrivate (podOf t) d.loc d.length = s.inPrivate (podOf t) d.loc d.length := by
      unfold State.inPrivate
      simp only [(State.afterRead_hull (s := s) (y := y) (t := t) e 0 0).2.2, v]
    have hread : exec (.aEnq t pg q sd sx e) s =
        .next ((s.setTile t (x.took slA [])).tsAccess t false ((a, 32) :: if nmu then [(b, 64)] else []) [] fun s =>
          s.tsEcc t a e fun s => s.enqueue t q.toNat (descOf im (if nmu then x.tsRead b 64 else []) (x.sreg sx) (!x.bank)
            (s.hull (s.pod (podOf t)).hull).pgen)) := by
      refine congrArg Host.Outcome.next ((State.guarded_taken s t slA pg _ _ h hp).trans ?_)
      simp only [State.setTile_same]
      rfl
    have hmeet : (((a, 32) :: if nmu then [(b, 64)] else []).any fun r => (x.took slA []).inFlight false r.1 r.2) = false := by
      cases hn : nmu
      · simpa using hf
      · simpa using ⟨hf, hfb hn⟩
    have hgr : (((a, 32) :: if nmu then [(b, 64)] else []).flatMap fun r => granules r.1 r.2) =
        granules a 32 ++ if nmu then granules b 64 else [] := by
      cases nmu <;> simp
    rw [hread, State.tsAccess_ranges _ hmeet (hgr ▸ hb), State.tsEcc_eq]
    split
    · rfl
    · rw [hv, State.enqueue_eq (p := p) (hv ▸ hprog), hv, hpriv, State.afterRead_setTile_same, hx]
      simp only [full, outside, decide_eq_true_eq, apply_ite Host.Outcome.next]
      rfl
  case aucmd =>
    intro sd eng e y a k hf hb
    have hread : exec (.aAucmd t pg sd eng e) s =
        .next ((s.setTile t (x.took slA [])).tsAccess t false [(a, 64)] [] fun s => s.tsEcc t a e fun s =>
          s.setEng k { s.eng k with sent := (s.eng k).sent ++ [(6, (s.tile t).tsRead a 64, t)] }) := by
      refine congrArg Host.Outcome.next ((State.guarded_taken s t slA pg _ _ h hp).trans ?_)
      simp only [State.setTile_same]
      rfl
    rw [hread, State.tsAccess_free (x := x.took slA []) _ hf hb, State.tsEcc_eq]
    split
    · rfl
    · rw [State.afterRead_setTile_same, (State.afterRead_hull e 0 0).2.2, Tile.access_tsRead hb]
      rfl

/-! ## The sync slot -/

/-- R133, R134, R138: an operation on an object is sent to its home, or is outside the hull. -/
theorem State.yOp_eq {s : State} {t : Nat} {f : YF} {ok : Bool} {ds : List (Nat × Nat)} (op : Nat) (amount : Tile → Nat) (nowait : Bool)
    (rd : Nat) (hok : ok = true) (h : s.canIssue t slY ds) (hp : (s.tile t).preg f.pg = true)
    (ha : amount ((s.tile t).took slY ds) = amount (s.tile t)) :
    s.yOp t f ok ds op amount nowait rd =
      if (s.hull (s.pod (podOf t)).hull).ownsSync (((s.tile t).sreg f.so).toNat % 2 ^ 14) then
        s.ySent t op ds f (amount (s.tile t)) nowait rd
      else (s.setTile t ((s.tile t).took slY ds)).contract t tfBound := by
  unfold State.yOp
  rw [State.guarded_taken' s t slY f.pg ok ds _ h hp hok, State.setTile_same, ha]
  unfold State.ySend
  simp only [State.setTile_same, State.setTile_pod, State.setTile_hull, State.setTile_twice, Tile.soId, Tile.took_sreg]
  cases (s.hull (s.pod (podOf t)).hull).ownsSync (((s.tile t).sreg f.so).toNat % 2 ^ 14) with
  | false => rfl
  | true => rfl

/-- Settles O16: every operation is a send with its own opcode and amount. -/
theorem syncOperationsAreSentToTheirHome : Obligations.SyncOperationsAreSentToTheirHome := by
  intro s t f hp x id owns sent
  have hsend {ok : Bool} (op : Nat) (amount : Tile → Nat) (hok : ok = true) (h : s.canIssue t slY [])
      (ha : amount (x.took slY []) = amount x) : (.next (s.yOp t f ok [] op amount false 0) : Outcome) = sent op (amount x) :=
    (congrArg Host.Outcome.next (State.yOp_eq op amount false 0 hok h hp ha)).trans (apply_ite ..)
  refine ⟨fun h hi => ?_, fun h hi => ?_, fun h hi => ?_, fun hi h ho => ?_⟩
  · have hok : (f.imm != 0) = true := by simpa using hi
    exact ⟨hsend 1 _ hok h rfl, hsend 2 _ hok h rfl⟩
  · have hok : (f.imm == 0) = true := by simpa using hi
    exact ⟨hsend 3 _ hok h rfl, hsend 4 _ hok h rfl, hsend 5 _ hok h rfl, hsend 6 _ hok h rfl⟩
  · exact hsend 8 _ (decide_eq_true hi) h rfl
  · refine congrArg Host.Outcome.next ((State.yOp_eq yoBufget (fun _ => 0) _ _ (by rw [hi]; rfl) h hp rfl).trans ?_)
    exact if_pos ho

/-- Settles O17: both are changes of their tile. -/
theorem markerAndBankSwitchComplete : Obligations.MarkerAndBankSwitchComplete := by
  intro s t f hp h hso himm
  have hok : (f.so == 0 && f.imm == 0) = true := by simp [hso, himm]
  exact ⟨congrArg Host.Outcome.next (State.guarded_updTile _ h hp hok), congrArg Host.Outcome.next (State.guarded_updTile _ h hp hok)⟩

end Sys2Proof.Machine
end

section
/-!
PROOFS. Sync objects at their home (R134–R137). First what every report (an interrupt, an event, an error record) leaves as it is; then
the service of a counter in arrival order, and the statements CountersAreSignalledAndServedInOrder and OverheldLeaseIsBroken.
-/

namespace Sys2Proof.Machine

/-! ## Reports -/

/-- The state without what a report can change: register words, interrupt sources, cores, the error log and the outputs. -/
def State.body (s : State) : State := { s with regs := [], irqs := [], cores := [], log := [], nextSeq := 0, out := [] }

/-- A part of the state that no report can change. -/
theorem State.of_body {γ : Type} {s v : State} (g : State → γ) (hg : ∀ s, g s.body = g s) (h : v.body = s.body) : g v = g s := by
  rw [← hg v, h, hg]

/-- A sequence of changes leaves a part of the state alone where each of them does. -/
theorem foldl_keeps {σ α γ : Type} {g : σ → γ} {f : σ → α → σ} (hf : ∀ s x, g (f s x) = g s) (s : σ) (l : List α) :
    g (l.foldl f s) = g s :=
  List.foldlRecOn (motive := fun v => g v = g s) l f rfl fun v hv x _ => (hf v x).trans hv

@[simp] theorem State.emit_body (s : State) (o : Out) : (s.emit o).body = s.body := rfl

@[simp] theorem State.setRegF_body (s : State) (off hi lo v : Nat) : (s.setRegF off hi lo v).body = s.body := rfl

@[simp] theorem State.regSat_body (s : State) (off hi lo n : Nat) : (s.regSat off hi lo n).body = s.body := rfl

@[simp] theorem State.icLatch_body (s : State) : s.icLatch.body = s.body :=
  foldl_keeps (fun _ _ => by split <;> rfl) s _

@[simp] theorem State.setIrq_body (s : State) (key : Nat) (x : IrqSrc) : (s.setIrq key x).body = s.body := rfl

@[simp] theorem State.setReg_body (s : State) (off v : Nat) : (s.setReg off v).body = s.body := rfl

@[simp] theorem State.raise_body (s : State) (id : Nat) : (s.raise id).body = s.body := by
  simp [State.raise, State.signal]

@[simp] theorem State.event_body (s : State) (off bit id : Nat) : (s.event off bit id).body = s.body := by
  simp [State.event, State.regOr]

@[simp] theorem State.pushTo_body (s : State) (i : Nat) : (s.pushTo i).body = s.body := by
  unfold State.pushTo
  split
  case h_1 =>
    split
    case h_1 => split <;> rfl
    case h_2 => rfl
  case h_2 => rfl

@[simp] theorem State.pushNew_body (s : State) (seq : Nat) : (s.pushNew seq).body = s.body := by
  refine foldl_keeps (fun s i => ?_) s _
  split
  case h_1 => split <;> simp
  case h_2 => rfl

theorem State.withLog_body (s : State) (l : List ErrRec) (n : Nat) : ({ s with log := l, nextSeq := n } : State).body = s.body := rfl

/-- R398: a record goes to the log and to the collectors; the count of lost ones may rise. -/
@[simp] theorem State.log1_body (s : State) (r : ErrRec) : (s.log1 r).body = s.body := by
  unfold State.log1
  extract_lets +onlyGivenNames r l _ v
  have hv : v.body = s.body := (State.pushNew_body ..).trans (State.withLog_body ..)
  clear_value l v
  split
  case h_1 => split <;> simp [hv]
  case h_2 => exact hv

@[simp] theorem State.icLatch_nextSeq (s : State) : s.icLatch.nextSeq = s.nextSeq :=
  foldl_keeps (g := State.nextSeq) (fun _ _ => by split <;> rfl) s _

@[simp] theorem State.event_nextSeq (s : State) (off bit id : Nat) : (s.event off bit id).nextSeq = s.nextSeq := by
  simp [State.event, State.regOr, State.raise, State.signal]

theorem State.pushNew_nextSeq (s : State) (seq : Nat) : (s.pushNew seq).nextSeq = s.nextSeq := by
  refine foldl_keeps (g := State.nextSeq) (fun s i => ?_) s _
  split
  case h_1 =>
    split
    case isTrue =>
      unfold State.pushTo
      split
      case h_1 =>
        split
        case h_1 => split <;> rfl
        case h_2 => rfl
      case h_2 => rfl
    case isFalse => rfl
  case h_2 => rfl

/-- R398: every record has the next number. -/
theorem State.log1_nextSeq (s : State) (r : ErrRec) : (s.log1 r).nextSeq = s.nextSeq + 1 := by
  unfold State.log1
  extract_lets +onlyGivenNames r l _ v
  have hv : v.nextSeq = s.nextSeq + 1 := State.pushNew_nextSeq ..
  clear_value l v
  split
  case h_1 =>
    split <;> simp [State.regSat, State.setRegF, hv]
  case h_2 => exact hv

/-! ## Answers -/

section Answers

variable (s : State) (l : List Answer)

/-- An answer changes tiles and outputs only. -/
theorem State.answer_same {γ : Type} (g : State → γ) (ht : ∀ s t x, g (s.setTile t x) = g s) (ho : ∀ s o, g (s.emit o) = g s) (a : Answer) :
    g (s.answer a) = g s := by
  unfold State.answer
  split
  case h_1 =>
    split
    case isTrue => exact ht ..
    case isFalse => rfl
  case h_2 => exact ho ..

theorem State.answers_sync : (l.foldl State.answer s).sync = s.sync :=
  foldl_keeps (fun s a => State.answer_same s State.sync (fun _ _ _ => rfl) (fun _ _ => rfl) a) s l

theorem State.answers_nextSeq : (l.foldl State.answer s).nextSeq = s.nextSeq :=
  foldl_keeps (fun s a => State.answer_same s State.nextSeq (fun _ _ _ => rfl) (fun _ _ => rfl) a) s l

theorem State.answers_mem : (l.foldl State.answer s).mem = s.mem :=
  foldl_keeps (fun s a => State.answer_same s State.mem (fun _ _ _ => rfl) (fun _ _ => rfl) a) s l

theorem State.answers_hulls : (l.foldl State.answer s).hulls = s.hulls :=
  foldl_keeps (fun s a => State.answer_same s State.hulls (fun _ _ _ => rfl) (fun _ _ => rfl) a) s l

end Answers

/-- R138: the first status other than DONE stands in a tile that had none. -/
theorem Tile.answered_syncStatus {x : Tile} {a : Answer} (h0 : x.syncStatus = 0) (hst : a.st ≠ 0) (hv : a.val = none) :
    (x.answered a).syncStatus = a.st := by
  unfold Tile.answered
  simp only [hv, Tile.sync, hst, h0, ne_eq, not_false_eq_true, true_or, and_self, if_true]
  split
  case h_1 =>
    split
    case isTrue => unfold Tile.resume; split <;> rfl
    case isFalse => rfl
  case h_2 => rfl

/-! ## Service of a counter -/

/-- R135: a counter's waiters are served from the head as long as what is left suffices. -/
theorem SyncObj.serve_eq (ws : List SyncReq) (hop : ∀ r ∈ ws, r.op = 2) (o : SyncObj) (ho : o.waiters = ws) (l : List Answer) :
    ∃ (n : Nat) (u : SyncObj), n ≤ ws.length ∧
      SyncObj.serve ws.length o l = (u, l ++ (ws.take n).map fun r => ⟨r, sDONE, none⟩) ∧
      u.waiters = ws.drop n ∧ u.value + sumOf ((ws.take n).map (·.amount)) = o.value ∧ u.settled := by
  induction ws generalizing o l with
  | nil => exact ⟨0, o, Nat.le_refl 0, by simp [SyncObj.serve], ho, rfl, by simp [SyncObj.settled, ho]⟩
  | cons r rest ih =>
    have hr : r.op = yoAcq := hop r (List.mem_cons_self ..)
    by_cases hv : r.amount ≤ o.value
    case pos =>
      obtain ⟨v, htry, hvalue⟩ : ∃ v, o.tryGrant r = some (v, ⟨r, sDONE, none⟩) ∧ v.value = o.value - r.amount := by
        simp [SyncObj.tryGrant, hr, hv, SyncObj.advance]
      obtain ⟨n, u, hn, hserve, hwait, hsum, hset⟩ := ih (fun q hq => hop q (List.mem_cons_of_mem _ hq)) { v with waiters := rest } rfl
        (l ++ [⟨r, sDONE, none⟩])
      refine ⟨n + 1, u, Nat.succ_le_succ hn, ?_, by simpa using hwait, ?_, hset⟩
      · simp only [List.length_cons, SyncObj.serve, ho, htry, hserve]
        simp
      · have hsum' : u.value + sumOf ((rest.take n).map (·.amount)) = o.value - r.amount := hsum.trans hvalue
        have hfold : sumOf (r.amount :: (rest.take n).map (·.amount)) = r.amount + sumOf ((rest.take n).map (·.amount)) := by
          simp only [sumOf, ← List.sum_eq_foldl, List.sum_cons]
        simp only [List.take_succ_cons, List.map_cons, hfold]
        omega
    case neg =>
      have htry : o.tryGrant r = none := by simp [SyncObj.tryGrant, hr, hv]
      refine ⟨0, o, Nat.zero_le _, ?_, ho, rfl, ?_⟩
      · simp [SyncObj.serve, ho, htry]
      · simp only [SyncObj.settled, ho]
        exact fun _ => Nat.lt_of_not_le hv

/-! ## The statements -/

/-- Settles O18: an arrival is a place in its home's list, an effect is that of its object, and the service of a counter is `serve_eq`. -/
theorem countersAreSignalledAndServedInOrder : Obligations.CountersAreSignalledAndServedInOrder := by
  refine ⟨?arrive, ?carried, ?effect, ?serve⟩
  case arrive =>
    intro s src hull op id amount nowait hcold h1 h8 req
    have harrive : exec (.syncRequestArrive (.core src hull op id amount nowait)) s = .next (s.syncArrive req) :=
      congrArg Host.Outcome.next (if_pos ⟨h1, h8, hcold⟩)
    refine ⟨fun o ho => ?_, fun ho => ?_⟩
    · rw [harrive]
      simp only [State.syncArrive, req, ho]
    · rw [harrive]
      simp only [State.syncArrive, State.syncEffect, State.answer, req, ho]
      rfl
  case carried =>
    intro s k r o hk hfirst ho v
    refine congrArg Host.Outcome.next ?_
    simp only [hk, hfirst, Bool.false_eq_true, if_false, State.syncArrive, ho]
    rfl
  case effect =>
    intro s o src hull id amount nowait left ho req answered
    refine ⟨?counter, ?other⟩
    case counter =>
      intro hh hkind hw
      have heffect : s.syncEffect req =
          answered { s with sync := tput s.sync id (o.add amount).1 } (o.add amount).2 := by
        have hwaiters : (o.add amount).1.waiters = [] := by unfold SyncObj.add; split <;> exact hw
        simp only [State.syncEffect, req, ho, hh, ne_eq, not_true_eq_false, if_false, SyncObj.apply, hkind, yKind, yoSignal, hwaiters]
        rfl
      refine ⟨fun hle => ?_, fun hgt => ?_⟩
      · rw [heffect, SyncObj.add, if_neg (Nat.not_lt.mpr hle)]
      · rw [heffect, SyncObj.add, if_pos hgt]
    case other =>
      intro hbad
      by_cases hh : o.hull = hull
      case neg =>
        have heffect : s.syncEffect req = answered s sBADPARAM := by
          simp only [State.syncEffect, req, ho, ne_eq, hh, not_false_eq_true, if_true]
          rfl
        rw [heffect]
        exact ⟨rfl, fun i => rfl⟩
      case pos =>
        have hkind : 0 ≠ o.kind := fun h => hbad.elim (· hh) (· h.symm)
        have heffect : s.syncEffect req = answered { s with sync := tput s.sync id o } sBADPARAM := by
          simp only [State.syncEffect, req, ho, hh, ne_eq, not_true_eq_false, if_false, SyncObj.apply, yKind, yoSignal, Nat.one_le_ofNat,
            if_true, hkind, not_false_eq_true]
          rfl
        rw [heffect]
        refine ⟨rfl, fun i => ?_⟩
        show tfind (tput s.sync id o) i = tfind s.sync i
        rw [tfind_tput]
        split
        case isTrue hi => rw [hi, ho]
        case isFalse => rfl
  case serve =>
    intro o hkind hop u n
    obtain ⟨m, v, hm, hserve, hwait, hsum, hset⟩ := SyncObj.serve_eq o.waiters hop o rfl []
    have hu : u = (v, (o.waiters.take m).map fun r => ⟨r, sDONE, none⟩) := hserve
    have hn : n = m := by simp [n, hu, hm]
    rw [hn, hu]
    refine ⟨by simp [Function.comp_def], hwait, ?_, hsum, hset⟩
    simp only [List.mem_map]
    rintro a ⟨r, -, rfl⟩
    rfl

/-- Settles O19: only a lease that is held past its limit is broken; answers and the record leave the other objects alone. -/
theorem overheldLeaseIsBroken : Obligations.OverheldLeaseIsBroken := by
  refine ⟨?none, ?object⟩
  case none =>
    intro s id ho
    exact congrArg Host.Outcome.next (by rw [ho])
  case object =>
    intro s id o ho
    refine ⟨?stays, ?broken⟩
    case stays =>
      intro hstay
      refine congrArg Host.Outcome.next ?_
      rw [ho]
      refine ite_eq_right_iff.mpr fun ⟨hlimit, hheld⟩ => ?_
      simp only [State.breakLease, ho]
      split
      case h_1 src hsrc =>
        have hkind : o.kind ≠ 2 := by
          rcases hstay with h | h | h | h
          · exact h
          · simp [h] at hsrc
          · exact absurd h hlimit
          · omega
        exact if_neg hkind
      case h_2 => rfl
    case broken =>
      intro src hkind hsrc hlimit hheld o' v u
      have hv : v.sync = tput s.sync id o' := State.answers_sync ..
      have hbody : u.body = v.body := State.log1_body ..
      have hsync : u.sync = tput s.sync id o' := (congrArg State.sync hbody).trans hv
      refine ⟨congrArg Host.Outcome.next ?_, ?_, fun i hi => ?_, ?_, ?_, ?_, ?_⟩
      · rw [ho]
        refine (if_pos ⟨hlimit, hheld⟩).trans ?_
        simp only [State.breakLease, ho, hsrc]
        exact if_pos hkind
      · rw [hsync, tfind_tput_same]
      · rw [hsync, tfind_tput_other _ _ hi]
      · exact (State.log1_nextSeq ..).trans (congrArg (· + 1) (State.answers_nextSeq ..))
      · exact (congrArg State.mem hbody).trans (State.answers_mem ..)
      · exact (congrArg State.hulls hbody).trans (State.answers_hulls ..)
      · intro r t hw htile hlive hstatus
        have htiles : u.tile t = v.tile t := congrArg (tget Tile.init · t) (congrArg State.tiles hbody :)
        have hanswer : v = State.updTile { s with sync := tput s.sync id o' } t fun x => x.answered ⟨r, sLEASEBROKEN, none⟩ := by
          simp only [v, hw, List.map_cons, List.map_nil, List.foldl_cons, List.foldl_nil, State.answer, htile]
          exact if_pos hlive
        rw [htiles, hanswer, State.updTile, State.setTile_same]
        exact Tile.answered_syncStatus hstatus (show sLEASEBROKEN ≠ 0 by decide) rfl

end Sys2Proof.Machine
end

section
/-!
PROOFS. A calm state: no unit is being copied for a map-out, and nothing is met, so that no access is held (R179, R199). What each access
to memory, and each way of work that uses it, makes of a calm state is calm; the statement ReadDescriptorLandsAndRetires uses this.
-/

namespace Sys2Proof.Machine

/-! ## Calm states -/

/-- No access meets an error or is held. -/
def State.calm (s : State) : Prop := s.noHold ∧ s.mem.meets = [] ∧ s.mem.stuck = false

section Calm

variable {s : State}

theorem State.settled_calm (h : s.noHold) : s.settled.calm := ⟨fun u => by simpa using h u, rfl, rfl⟩

theorem State.calm.meets (h : s.calm) : s.mem.meets = [] := h.2.1

/-- A unit's state is part of the device's memory. -/
theorem State.noHold_of_units {v : State} (ha : v.mem.unitsA = s.mem.unitsA) (hb : v.mem.unitsB = s.mem.unitsB) (h : s.noHold) : v.noHold := by
  intro u
  have hu : v.unit u = s.unit u := by
    cases u with
    | a c => simp only [State.unit, State.unitA, ha]
    | b j => simp only [State.unit, State.unitB, hb]
  rw [hu]
  exact h u

theorem State.calm_of_units {v : State} (ha : v.mem.unitsA = s.mem.unitsA) (hb : v.mem.unitsB = s.mem.unitsB)
    (hm : v.mem.meets = s.mem.meets) (hs : v.mem.stuck = s.mem.stuck) (h : s.calm) : v.calm := by
  obtain ⟨hhold, hmeets, hstuck⟩ := h
  exact ⟨State.noHold_of_units ha hb hhold, hm.trans hmeets, hs.trans hstuck⟩

theorem State.calm_of_mem {v : State} (hm : v.mem = s.mem) (h : s.calm) : v.calm :=
  State.calm_of_units (by rw [hm]) (by rw [hm]) (by rw [hm]) (by rw [hm]) h

/-- A command whose work comes to a calm state ends with it, and nothing noted. -/
theorem State.meeting_of_calm {f : State → State} {v : State} (hf : f s.settled = v) (h : v.calm) : s.meeting [] f = v.settled := by
  subst hf
  exact State.meeting_done s f h.2.2

/-- A command whose work comes to a state with the same memory ends with it. -/
theorem State.meeting_of_mem_kept {f : State → State} {v : State} (hf : f s.settled = v) (h : v.mem = s.settled.mem) :
    s.meeting [] f = v := by
  subst hf
  have hq : (f s.settled).quiet := State.quiet_of_mem h ⟨rfl, rfl, rfl⟩
  rw [State.meeting_done s f hq.2.2, State.settled_of_quiet hq]

end Calm

/-! ## Operations that leave memory as it is -/

@[simp] theorem State.reject_mem (s : State) (h : Nat) (tierB write : Bool) (off : Nat) : (s.reject h tierB write off).mem = s.mem := by
  simp only [State.reject, State.log1_mem]
  rfl

@[simp] theorem State.physReject_mem (s : State) (src h : Nat) (write : Bool) (a size : Nat) :
    (s.physReject src h write a size).mem = s.mem := by
  simp [State.physReject]

@[simp] theorem State.sawUnwritten_mem (s : State) (h : Nat) (tierB : Bool) (wb : Nat) : (s.sawUnwritten h tierB wb).mem = s.mem := by
  unfold State.sawUnwritten
  extract_lets
  split <;> rfl

@[simp] theorem State.huskFail_mem (s : State) (src h pod tile tensor index : Nat) (c : Check) :
    (s.huskFail src h pod tile tensor index c).mem = s.mem := by
  cases c with
  | pass | uncorr => rfl
  | fail code want stored =>
    simp only [State.huskFail, State.log1_mem, State.event_mem, State.setHull_mem]
    split <;> rfl

@[simp] theorem State.huskStop_mem (s : State) (src h pod tile tensor index : Nat) (c : Check) :
    (s.huskStop src h pod tile tensor index c).mem = s.mem := by
  simp [State.huskStop]

@[simp] theorem State.faultHull_mem (s : State) (h : Nat) (r : ErrRec) : (s.faultHull h r).mem = s.mem := by
  unfold State.faultHull
  simp

@[simp] theorem State.podUe_mem (s : State) (p addr : Nat) : (s.podUe p addr).mem = s.mem := by
  simp only [State.podUe, State.faultHull_mem]
  rfl

@[simp] theorem State.storeUe_mem (s : State) (t addr : Nat) : (s.storeUe t addr).mem = s.mem := rfl

@[simp] theorem State.storeEcc_mem (s : State) (tile : Option Nat) (p addr : Nat) (e : Ecc) : (s.storeEcc tile p addr e).2.mem = s.mem := by
  cases e with
  | ok | corrected => rfl
  | uncorrectable =>
    cases tile <;> simp [State.storeEcc]

@[simp] theorem State.updTile_mem (s : State) (t : Nat) (f : Tile → Tile) : (s.updTile t f).mem = s.mem := rfl

/-- R128: a signalled counter and those it answers. -/
@[simp] theorem State.signalCounter_mem (s : State) (id : Nat) : (s.signalCounter id).1.mem = s.mem := by
  unfold State.signalCounter
  split
  case h_1 =>
    split
    case isTrue => rfl
    case isFalse => exact State.answers_mem ..
  case h_2 => rfl

/-- R128, R129: retirement is a matter of the tile and the counters. -/
@[simp] theorem State.retireFront_mem (t q n : Nat) (s : State) : (State.retireFront t q n s).mem = s.mem := by
  induction n generalizing s with
  | zero => rfl
  | succ n ih =>
    unfold State.retireFront
    extract_lets
    split
    case h_1 =>
      split
      case isTrue =>
        refine (ih _).trans ?_
        simp only [State.updTile_mem]
        split
        case isTrue => exact State.signalCounter_mem ..
        case isFalse => rfl
      case isFalse => rfl
    case h_2 => rfl

@[simp] theorem State.descDone_mem (s : State) (t q slot : Nat) (st : Byte) : (s.descDone t q slot st).mem = s.mem := by
  unfold State.descDone
  split
  case isTrue => rfl
  case isFalse => simp

/-! ## Accesses -/

section Accesses

variable {s : State}

theorem State.setBlk_calm {tierB : Bool} {key : Nat} {b : Blk} (h : s.calm) : (s.setBlk tierB key b).calm := by
  unfold State.setBlk
  split
  case isTrue => exact State.calm_of_units rfl rfl rfl rfl h
  case isFalse => exact State.calm_of_units rfl rfl rfl rfl h

theorem State.copyOut_calm (n : Nat) (tierB : Bool) (key : Nat) (h : s.calm) : (State.copyOut n tierB key s).calm := by
  induction n generalizing tierB key s with
  | zero => exact h
  | succ n ih =>
    unfold State.copyOut
    extract_lets
    split
    case h_1 => exact h
    case h_2 => exact ih _ _ (State.setBlk_calm (ih _ _ (State.calm_of_units (s := s) rfl rfl rfl rfl h)))

theorem State.putBlk_calm {tierB : Bool} {key : Nat} {b : Blk} (h : s.calm) : (s.putBlk tierB key b).calm :=
  State.setBlk_calm (State.copyOut_calm _ _ _ h)

/-- An access in a calm state is served, or lost to a failed unit, or rejected; none is held. -/
theorem State.access_calm (hull : Nat) (u : MemUnit) (row : Nat) (write whole : Bool) (h : s.calm) :
    (s.access hull u row write whole).2.calm := by
  obtain ⟨hhold, hmeets, -⟩ := id h
  rw [State.access_nil hmeets, hhold u]
  split
  case isTrue =>
    dsimp only
    exact State.calm_of_mem (State.physReject_mem ..) h
  case isFalse =>
    simp only [Bool.false_eq_true, if_false]
    split <;> exact h

theorem State.fetchBlk_calm (hull : Nat) (tierB : Bool) (wb : Nat) (h : s.calm) : (s.fetchBlk hull tierB wb).1.calm := by
  unfold State.fetchBlk
  split
  case h_1 => exact State.calm_of_mem (State.reject_mem ..) h
  case h_2 u row _ =>
    have ha : (s.access hull (unitOf tierB u) row false false).2.calm := State.access_calm _ _ _ _ _ h
    extract_lets
    split
    case h_1 =>
      dsimp only
      split
      case isTrue => exact State.calm_of_mem (State.sawUnwritten_mem ..) ha
      case isFalse => exact ha
    case h_2 => exact ha
    case h_3 => exact ha

theorem State.checkBlk_calm (hull : Nat) (tierB : Bool) (wb : Nat) (tag : Option Nat) (h : s.calm) :
    (s.checkBlk hull tierB wb tag).1.calm := by
  have hf := State.fetchBlk_calm hull tierB wb h
  unfold State.checkBlk
  split
  case h_1 heq => rwa [heq] at hf
  case h_2 heq => rwa [heq] at hf

theorem readBlocks_calm (hull : Nat) (tierB : Bool) (base tensor : Nat) (l : List Nat) (o : ReadOut) (h : o.st.calm) :
    (readBlocks hull tierB base tensor l o).st.calm := by
  induction l generalizing o with
  | nil => exact h
  | cons i r ih =>
    have hc := State.checkBlk_calm hull tierB (base + i) (some (huskTag tensor i)) h
    unfold readBlocks
    split
    case h_1 => exact h
    case h_2 =>
      split
      case h_1 heq => exact ih _ (by rwa [heq] at hc)
      case h_2 heq => rwa [heq] at hc

theorem State.readRange_calm (hull : Nat) (tierB : Bool) (base tensor off len : Nat) (h : s.calm) :
    (s.readRange hull tierB base tensor off len).st.calm :=
  readBlocks_calm _ _ _ _ _ _ h

theorem State.storeBlk_calm (hull : Nat) (tierB : Bool) (wb lo : Nat) (whole : Bool) (f : Blk → Blk) (h : s.calm) :
    (s.storeBlk hull tierB wb lo whole f).calm := by
  unfold State.storeBlk
  split
  case h_1 => exact State.calm_of_mem (State.reject_mem ..) h
  case h_2 u row _ =>
    have ha : (s.access hull (unitOf tierB u) row true whole).2.calm := State.access_calm _ _ _ _ _ h
    extract_lets
    split
    case h_1 => exact State.putBlk_calm ha
    case h_2 => exact State.calm_of_units rfl rfl rfl rfl ha
    case h_3 => exact ha

theorem State.writePart_calm (hull : Nat) (tierB : Bool) (wb tag lo : Nat) (bytes : List Byte) (h : s.calm) :
    (s.writePart hull tierB wb tag lo bytes).calm :=
  State.storeBlk_calm _ _ _ _ _ _ h

/-- A sequence of changes that each leave a calm state calm. -/
theorem State.foldl_calm {α : Type} {f : State → α → State} (hf : ∀ s x, s.calm → (f s x).calm) (l : List α) (h : s.calm) :
    (l.foldl f s).calm :=
  List.foldlRecOn (motive := State.calm) l f h fun v hv x _ => hf v x hv

theorem State.writeRange_calm (hull : Nat) (tierB : Bool) (base tensor off : Nat) (bytes : List Byte) (h : s.calm) :
    (s.writeRange hull tierB base tensor off bytes).calm :=
  State.foldl_calm (fun _ _ hs => State.writePart_calm _ _ _ _ _ _ hs) _ h

theorem State.zeroRange_calm (hull : Nat) (tierB : Bool) (base tensor off len : Nat) (h : s.calm) :
    (s.zeroRange hull tierB base tensor off len).calm := by
  refine State.foldl_calm (fun v i hv => ?_) _ h
  dsimp only
  split
  case isTrue => exact State.storeBlk_calm _ _ _ _ _ _ hv
  case isFalse => exact State.writePart_calm _ _ _ _ _ _ hv

theorem State.narrowRead_calm (hull : Nat) (tierB : Bool) (a : Nat) (h : s.calm) : (s.narrowRead hull tierB a).1.calm :=
  State.fetchBlk_calm _ _ _ h

theorem State.calm_of_narrowRead {hull : Nat} {tierB : Bool} {a : Nat} {v : State} {b : Option (List Byte)} (h : s.calm)
    (hv : s.narrowRead hull tierB a = (v, b)) : v.calm := by
  have hn := State.narrowRead_calm hull tierB a h
  rwa [hv] at hn

/-! ## The work of a descriptor -/

theorem State.tensorFetch_calm (t hull : Nat) (pr : Prog) (tensor off len : Nat) (e : Ecc) (h : s.calm) :
    (s.tensorFetch t hull pr tensor off len e).1.calm := by
  have hread (tierB : Bool) (base : Nat) := State.readRange_calm hull tierB base tensor off len h
  unfold State.tensorFetch
  extract_lets lam mem
  have hmem (tierB : Bool) (base : Nat) : (mem tierB base).1.calm := by
    unfold mem
    extract_lets o
    have ho : o.st.calm := hread tierB base
    clear_value o
    split
    case h_1 => exact ho
    case h_2 => exact ho
    case h_3 =>
      dsimp only
      exact State.calm_of_mem (State.huskStop_mem ..) ho
  split
  case h_1 => exact hmem ..
  case h_2 => exact hmem ..
  case h_3 =>
    split
    case h_1 => exact h
    case h_2 =>
      extract_lets own r
      have hr : r.2.calm := State.calm_of_mem (State.storeEcc_mem ..) h
      split <;> exact hr
  case h_4 => exact h

theorem State.tensorStore_calm (hull : Nat) (pr : Prog) (tensor off : Nat) (b : List Byte) (h : s.calm) :
    (s.tensorStore hull pr tensor off b).calm := by
  unfold State.tensorStore
  split
  case h_1 => exact State.writeRange_calm _ _ _ _ _ _ h
  case h_2 => exact State.writeRange_calm _ _ _ _ _ _ h
  case h_3 =>
    extract_lets
    split
    case h_1 => exact h
    case h_2 => split <;> exact State.calm_of_mem (s := s) rfl h
  case h_4 => exact h

theorem State.doRead_calm (t hull : Nat) (pr : Prog) (d : Desc) (e : Ecc) (h : s.calm) : (s.doRead t hull pr d e).1.calm := by
  have hf := State.tensorFetch_calm t hull pr d.tensor d.offset d.length e h
  unfold State.doRead
  extract_lets
  split
  case isTrue => exact State.calm_of_mem (s := s) rfl h
  case isFalse =>
    split
    case isTrue => exact State.calm_of_mem rfl hf
    case isFalse => split <;> exact State.calm_of_mem rfl hf

theorem State.doWrite_calm (t hull : Nat) (pr : Prog) (d : Desc) (e : Ecc) (h : s.calm) : (s.doWrite t hull pr d e).1.calm := by
  unfold State.doWrite
  extract_lets pod r
  have hr : r.2.calm := State.calm_of_mem (State.storeEcc_mem ..) h
  split
  case isTrue => exact hr
  case isFalse => exact State.tensorStore_calm _ _ _ _ _ hr

theorem State.doGather_calm (t hull : Nat) (pr : Prog) (d : Desc) (h : s.calm) : (s.doGather t hull pr d).1.calm := by
  unfold State.doGather
  split
  case h_1 =>
    refine List.foldlRecOn (motive := fun w : Work => w.1.calm) _ _ h fun w hw ix _ => ?_
    extract_lets
    split
    case isTrue => exact State.calm_of_mem (s := w.1) rfl hw
    case isFalse =>
      split
      case h_1 v _ hv => exact State.calm_of_mem (s := v) rfl (State.calm_of_narrowRead hw hv)
      case h_2 hv => exact State.calm_of_narrowRead hw hv
  case h_2 => exact h

theorem State.doDesc_calm (t hull : Nat) (pr : Prog) (d : Desc) (e : Ecc) (h : s.calm) : (s.doDesc t hull pr d e).1.calm := by
  unfold State.doDesc
  split
  case isTrue => exact h
  case isFalse =>
    split
    case h_1 => exact State.doRead_calm _ _ _ _ _ h
    case h_2 => exact State.doWrite_calm _ _ _ _ _ h
    case h_3 => exact State.doGather_calm _ _ _ _ h

end Accesses

/-! ## A READ that lands -/

section Read

variable {s : State} {t h q : Nat} {pr : Prog} {d : Desc} {rest : List Desc} {tierB : Bool} {base : Nat}

/-- R84: a tensor in a tier of memory whose blocks are clean is delivered whole. -/
theorem State.tensorFetch_clean (hm : s.mem.meets = []) (hp : pr.memPlace d.tensor = some (tierB, base))
    (hc : ∀ i ∈ blocksOf d.offset d.length, s.clean h tierB base d.tensor i) (e : Ecc) :
    s.tensorFetch t h pr d.tensor d.offset d.length e = (s, (s.readRange h tierB base d.tensor d.offset d.length).data, sDONE) := by
  obtain ⟨hst, hbad⟩ := State.readRange_clean hm hc
  unfold Prog.memPlace at hp
  unfold State.tensorFetch
  split at hp
  case h_1 hplace =>
    cases hp
    simp only [hplace, hbad, hst]
  case h_2 hplace =>
    cases hp
    simp only [hplace, hbad, hst]
  case h_3 => cases hp

/-- R127: a READ without flags lands what it fetches in the tile store. -/
theorem State.doDesc_read (hbad : d.bad = false) (hkind : d.kind = 1) (hflags : d.flags = 0) (hm : s.mem.meets = [])
    (hp : pr.memPlace d.tensor = some (tierB, base)) (hc : ∀ i ∈ blocksOf d.offset d.length, s.clean h tierB base d.tensor i) (e : Ecc) :
    s.doDesc t h pr d e =
      (s.setTile t ((s.tile t).tsWrite d.loc (s.readRange h tierB base d.tensor d.offset d.length).data), sDONE) := by
  simp only [State.doDesc, hbad, hkind, Bool.false_eq_true, if_false, State.doRead, hflags, State.tensorFetch_clean hm hp hc]
  rfl

/-- R129: behind a descriptor that is complete, and signals nothing, none retires that is not. -/
theorem State.retireFront_one (hq : ((s.tile t).queue q).descs = d :: rest) (hd : d.completed = true) (hflags : d.flags = 0)
    (hrest : rest.all (fun e => !e.completed) = true) (n : Nat) :
    State.retireFront t q (n + 1) s = s.setTile t ((s.tile t).setQueue q
      { (s.tile t).queue q with descs := rest, uncovered := ((s.tile t).queue q).uncovered ++ [d] }) := by
  have hone : State.retireFront t q (n + 1) s = State.retireFront t q n (s.setTile t ((s.tile t).setQueue q
      { (s.tile t).queue q with descs := rest, uncovered := ((s.tile t).queue q).uncovered ++ [d] })) := by
    have hsig : ¬ (d.status = 0 ∧ d.flags.toNat % 2 = 1) := by simp [hflags]
    rw [State.retireFront]
    simp only [hq, hd, hsig, if_true, if_false]
    rfl
  rw [hone]
  cases n with
  | zero => rfl
  | succ n =>
    unfold State.retireFront
    simp only [State.setTile_same, Tile.setQueue, Tile.queue, tget_tput_same]
    cases rest with
    | nil => rfl
    | cons e rest =>
      have he : e.completed = false := by simp at hrest; exact hrest.1
      simp only [he, Bool.false_eq_true, if_false]

/-- The tile with a descriptor's work complete. -/
def Tile.descCompleted (x : Tile) (q slot : Nat) (st : Byte) : Tile :=
  match (x.queue q).descs[slot]? with
  | some d => x.setQueue q { x.queue q with descs := setAt (x.queue q).descs slot { d with completed := true, status := st } }
  | none => x

theorem State.descDone_eq (hlive : (s.tile t).live = true) (hfrozen : (s.tile t).frozen = false) (slot : Nat) (st : Byte) :
    s.descDone t q slot st = (State.retireFront t q (((s.tile t).descCompleted q slot st).queue q).descs.length
      (s.setTile t ((s.tile t).descCompleted q slot st))).updTile t Tile.wakeA := by
  have hupd : s.descDone t q slot st = (State.retireFront t q (((s.updTile t (·.descCompleted q slot st)).tile t).queue q).descs.length
      (s.updTile t (·.descCompleted q slot st))).updTile t Tile.wakeA :=
    if_neg (by simp [hlive, hfrozen])
  rw [hupd, show s.updTile t (·.descCompleted q slot st) = s.setTile t ((s.tile t).descCompleted q slot st) from rfl, State.setTile_same]

/-- R129, R70: the oldest descriptor completes, retires, and a wait that it meets is over. -/
theorem State.descDone_oldest {qu : Queue} (hlive : (s.tile t).live = true) (hfrozen : (s.tile t).frozen = false)
    (hqu : (s.tile t).queue q = qu) (hq : qu.descs = d :: rest) (hflags : d.flags = 0) (hrest : rest.all (fun e => !e.completed) = true)
    (st : Byte) :
    s.descDone t q 0 st = s.setTile t (((s.tile t).setQueue q { qu with
      descs := rest, uncovered := qu.uncovered ++ [{ d with completed := true, status := st }] }).wakeA) := by
  have hcomplete : (s.tile t).descCompleted q 0 st =
      (s.tile t).setQueue q { qu with descs := { d with completed := true, status := st } :: rest } := by
    simp [Tile.descCompleted, hqu, hq, setAt]
  rw [State.descDone_eq hlive hfrozen, hcomplete]
  have hqueue (v : Queue) : ((s.tile t).setQueue q v).queue q = v := by simp [Tile.queue, Tile.setQueue]
  rw [hqueue, List.length_cons, State.retireFront_one (d := { d with completed := true, status := st })
    (by rw [State.setTile_same, hqueue]) rfl hflags hrest, State.setTile_same, hqueue,
    State.updTile_setTile, State.setTile_twice]
  simp [Tile.setQueue]

end Read

/-- Settles O20: the work of a descriptor on a calm state is calm; a READ of clean blocks lands them, and only it retires. -/
theorem readDescriptorLandsAndRetires : Obligations.ReadDescriptorLandsAndRetires := by
  intro raw t q pr hhold s x h hlive hfrozen hrun hprog
  have hcalm : s.calm := State.settled_calm hhold
  have hready : ¬ ((!x.live || x.frozen || decide ((s.hull h).state ≠ .running)) = true) := by simp [hlive, hfrozen, hrun]
  refine ⟨fun slot e d hd => ⟨fun hdone => ?retires, ?works⟩, ?lands⟩
  case retires =>
    refine congrArg Host.Outcome.next (State.meeting_of_mem_kept ?_ (by simp [s]))
    simp only [x, s, h] at hprog hd hready
    simp only [hprog, hd, hready, hdone, if_true]
    rfl
  case works =>
    intro hdone holder hissued hkind hpgen w
    constructor
    case left =>
      have hw : w.1.calm := State.doDesc_calm _ _ _ _ _ hcalm
      refine congrArg Host.Outcome.next (State.meeting_of_calm ?_ (State.calm_of_mem (State.descDone_mem ..) hw))
      have hserved : ¬ (d.issued = true ∨ d.kind = 4 ∧ (!d.bad) = true) := by grind
      have hstale : ¬ (d.kind = 3 ∧ (!d.bad) = true ∧ d.pgen ≠ (s.hull h).pgen) := by grind
      simp only [x, s, h] at hprog hd hready holder hstale
      simp only [hprog, hd, hready, hdone, holder, hserved, hstale, if_false]
      rfl
    case right => exact fun hbad => if_pos hbad
  case lands =>
    intro d rest tierB base hdescs hdone hissued hbad hkind hflags hplace hclean hrest o
    have hm : s.mem.meets = [] := rfl
    have hdone' : (s.doDesc t h pr d .ok).1.descDone t q 0 (s.doDesc t h pr d .ok).2 = s.setTile t
        (((x.tsWrite d.loc o.data).setQueue q { x.queue q with
          descs := rest, uncovered := (x.queue q).uncovered ++ [{ d with completed := true, status := 0 }] }).wakeA) := by
      rw [State.doDesc_read hbad hkind hflags hm hplace hclean]
      refine (State.descDone_oldest (d := d) (rest := rest) (qu := x.queue q) ?_ ?_ ?_ hdescs hflags hrest _).trans ?_
      · rw [State.setTile_same]; exact hlive
      · rw [State.setTile_same]; exact hfrozen
      · rw [State.setTile_same]; rfl
      · rw [State.setTile_same, State.setTile_twice]; rfl
    refine congrArg Host.Outcome.next (State.meeting_of_mem_kept ?_ rfl)
    refine Eq.trans ?_ hdone'
    have hd : (x.queue q).descs[0]? = some d := by rw [hdescs]; rfl
    simp only [x, s, h] at hprog hd hready
    simp only [hprog, hd, hready, hdone, hissued, hkind]
    simp
    rfl

end Sys2Proof.Machine
end

section
/-!
PROOFS. Memory units (R9, R10, R177–R200, R220): what lies at an address, what a unit's state leaves alone, what a map-out's copy moves; and
the statements MemoryUpkeepKeepsEveryBlock and ZeroMarksBlocksUnwritten.
-/

namespace Sys2Proof.Machine

/-! ## Addresses of units -/

theorem unitIn_eq_wf (u : MemUnit) : unitIn u = u.wf := by cases u <;> rfl

theorem blkPer_unitTier (u : MemUnit) : blkPer (unitTier u) = u.rows := by cases u <;> rfl

@[simp] theorem unitOf_unitTier_unitNo (u : MemUnit) : unitOf (unitTier u) (unitNo u) = u := by cases u <;> rfl

@[simp] theorem unitTier_unitOf (tierB : Bool) (n : Nat) : unitTier (unitOf tierB n) = tierB := by cases tierB <;> rfl

@[simp] theorem unitNo_unitOf (tierB : Bool) (n : Nat) : unitNo (unitOf tierB n) = n := by cases tierB <;> rfl

/-- R9: an address in tier A. -/
theorem physHome_tierA {a : Nat} (h : a < 0x8000000000) :
    physHome a = some (unitHome (.a (a / 0x40000000)) (a % 0x40000000)) := if_pos h

/-- R9: an address in tier B. -/
theorem physHome_tierB {a : Nat} (h : 0x010000000000 ≤ a) (h' : a < 0x020000000000) :
    physHome a = some (unitHome (.b ((a - 0x010000000000) / 0x400000000)) ((a - 0x010000000000) % 0x400000000)) :=
  (if_neg (by omega)).trans (if_pos ⟨h, h'⟩)

/-- An offset in a unit's range lies in the unit. -/
theorem physHome_unitBase {u : MemUnit} {o : Nat} (hu : u.wf = true) (ho : o < unitBytes (unitTier u)) :
    physHome (unitBase u + o) = some (unitHome u o) := by
  cases u with
  | a c =>
    have hc : c < 512 := of_decide_eq_true hu
    have ho : o < 0x40000000 := ho
    have hb : unitBase (.a c) = c * 0x40000000 := Nat.zero_add _
    rw [hb, physHome_tierA (by omega), show (c * 0x40000000 + o) / 0x40000000 = c by omega,
      show (c * 0x40000000 + o) % 0x40000000 = o by omega]
  | b j =>
    have hj : j < 64 := of_decide_eq_true hu
    have ho : o < 0x400000000 := ho
    have hb : unitBase (.b j) = 0x010000000000 + j * 0x400000000 := rfl
    rw [hb, physHome_tierB (by omega) (by omega), show (0x010000000000 + j * 0x400000000 + o - 0x010000000000) / 0x400000000 = j by omega,
      show (0x010000000000 + j * 0x400000000 + o - 0x010000000000) % 0x400000000 = o by omega]

theorem rows_pos (u : MemUnit) : 0 < u.rows := by cases u <;> simp [MemUnit.rows]

theorem unit_layout (u : MemUnit) : dataBytes (unitTier u) = 4096 * u.rows ∧
    dataBytes (unitTier u) + 8 * u.rows ≤ unitBytes (unitTier u) := by
  cases u with
  | a c =>
    simp only [dataBytes, unitTier, MemUnit.rows, unitBytes, Bool.false_eq_true, if_false, true_and]
    omega
  | b j =>
    simp only [dataBytes, unitTier, MemUnit.rows, unitBytes, if_true, true_and]
    omega

/-- R9: a data block of a unit lies at its address. -/
theorem physHome_blockAddr {u : MemUnit} {row : Nat} (hu : u.wf = true) (hr : row < u.rows) :
    physHome (blockAddr u row) = some (.data u row 0) := by
  obtain ⟨hd, hend⟩ := unit_layout u
  unfold blockAddr
  rw [physHome_unitBase hu (by omega)]
  simp only [unitHome, hd, show 4096 * row < 4096 * u.rows by omega, if_true]
  simp

/-- R9: so does the husk of one. -/
theorem physHome_huskAddr {u : MemUnit} {row : Nat} (hu : u.wf = true) (hr : row < u.rows) :
    physHome (huskAddr u row) = some (.husk u row 0) := by
  obtain ⟨hd, hend⟩ := unit_layout u
  unfold huskAddr
  rw [Nat.add_assoc, physHome_unitBase hu (by omega)]
  simp only [unitHome, blkPer_unitTier]
  rw [if_neg (by omega), if_pos (by omega), show dataBytes (unitTier u) + 8 * row - dataBytes (unitTier u) = 8 * row by omega]
  simp

/-- R198: the range of a unit that is mapped out is unassigned. -/
theorem State.physAssigned_blockAddr {s : State} {u : MemUnit} {row : Nat} (hu : u.wf = true) (hr : row < u.rows) :
    s.physAssigned (blockAddr u row) = ((s.unit u).state != 2) := by
  simp only [State.physAssigned, physHome_blockAddr hu hr, PhysHome.unit?]

/-! ## The state of a unit -/

section Units

variable {s : State} {u w : MemUnit} {x : UnitS}

@[simp] theorem State.setUnit_same (s : State) (u : MemUnit) (x : UnitS) : (s.setUnit u x).unit u = x := by
  cases u with
  | a c => exact State.setUnitA_same ..
  | b j => exact State.setUnitB_same ..

theorem State.setUnit_other (s : State) (x : UnitS) (h : w ≠ u) : (s.setUnit u x).unit w = s.unit w := by
  cases u with
  | a c =>
    cases w with
    | a d => exact State.setUnitA_other _ _ _ fun hd => h (congrArg _ hd)
    | b d => rfl
  | b j =>
    cases w with
    | a d => rfl
    | b d => exact State.setUnitB_other _ _ _ fun hd => h (congrArg _ hd)

/-- The state without the state of its memory units and without what the scrub counts. -/
def State.unitless (s : State) : State :=
  { s with mem := { s.mem with unitsA := [], unitsB := [] }, nmu := { s.nmu with backlog := [], passes := [] } }

@[simp] theorem State.setUnit_unitless (s : State) (u : MemUnit) (x : UnitS) : (s.setUnit u x).unitless = s.unitless := by
  cases u <;> rfl

@[simp] theorem State.setUnit_memA (s : State) (u : MemUnit) (x : UnitS) : (s.setUnit u x).mem.a = s.mem.a := by cases u <;> rfl
@[simp] theorem State.setUnit_memB (s : State) (u : MemUnit) (x : UnitS) : (s.setUnit u x).mem.b = s.mem.b := by cases u <;> rfl
@[simp] theorem State.setUnit_mapout (s : State) (u : MemUnit) (x : UnitS) : (s.setUnit u x).mem.mapout = s.mem.mapout := by cases u <;> rfl
@[simp] theorem State.setUnit_mapoutQueue (s : State) (u : MemUnit) (x : UnitS) :
    (s.setUnit u x).mem.mapoutQueue = s.mem.mapoutQueue := by cases u <;> rfl

theorem State.unit_of_mem {v : State} (h : v.mem = s.mem) (u : MemUnit) : v.unit u = s.unit u := by
  cases u with
  | a c => exact congrArg (fun m : MemS => tget UnitS.init m.unitsA c) h
  | b j => exact congrArg (fun m : MemS => tget UnitS.init m.unitsB j) h

theorem State.blk_of_mem {v : State} (ha : v.mem.a = s.mem.a) (hb : v.mem.b = s.mem.b) (tierB : Bool) (key : Nat) :
    v.blk tierB key = s.blk tierB key := by
  unfold State.blk
  rw [ha, hb]

end Units

/-! ## Blocks moved to another unit -/

theorem tfind_filter_key (p : Nat → Bool) (t : Tbl α) (k : Nat) :
    tfind (t.filter fun kv => p kv.1) k = if p k then tfind t k else none := by
  induction t with
  | nil => simp [tfind]
  | cons kv r ih =>
    obtain ⟨j, v⟩ := kv
    by_cases hj : p j
    case pos =>
      rw [List.filter_cons_of_pos (by simpa using hj), tfind, ih, tfind]
      by_cases hk : k = j
      case pos => simp [hk, hj]
      case neg => simp [hk]
    case neg =>
      rw [List.filter_cons_of_neg (by simpa using hj), ih, tfind]
      by_cases hk : k = j
      case pos => simp [hk, hj]
      case neg => simp [hk]

/-- Keys of a canonical table are each listed once. -/
theorem tfind_of_mem {t : Tbl α} {b : Option Nat} (h : risingFrom b t = true) {k : Nat} {v : α} (hm : (k, v) ∈ t) : tfind t k = some v := by
  induction t generalizing b with
  | nil => cases hm
  | cons kv r ih =>
    obtain ⟨j, w⟩ := kv
    have hr : risingFrom (some j) r = true := by
      cases b with
      | none => exact h
      | some b => exact (Bool.and_eq_true_iff.mp h).2
    rcases List.mem_cons.mp hm with heq | hm
    · cases heq
      simp [tfind]
    · have hfind := ih hr hm
      by_cases hk : k = j
      case pos =>
        rw [hk, tfind_below hr (Nat.le_refl j)] at hfind
        cases hfind
      case neg => simpa [tfind, hk] using hfind

/-- Blocks of one unit written to the rows of another, in any order. -/
theorem tget_foldl_move {per src dst : Nat} (hper : 0 < per) (l : Tbl Blk) (acc : Tbl Blk) (hl : ∀ kv ∈ l, kv.1 / per = src)
    (hrise : risingFrom none l = true) (hacc : twf Blk.unwritten acc = true) :
    (∀ row, row < per → tget Blk.unwritten (l.foldl (fun t kv => tset Blk.unwritten t (per * dst + kv.1 % per) kv.2) acc) (per * dst + row) =
      (tfind l (per * src + row)).getD (tget Blk.unwritten acc (per * dst + row))) ∧
    ∀ key, key / per ≠ dst →
      tget Blk.unwritten (l.foldl (fun t kv => tset Blk.unwritten t (per * dst + kv.1 % per) kv.2) acc) key = tget Blk.unwritten acc key := by
  induction l generalizing acc with
  | nil => exact ⟨fun row _ => rfl, fun key _ => rfl⟩
  | cons kv r ih =>
    obtain ⟨k, v⟩ := kv
    have hk : per * src + k % per = k := by
      have hdiv : k / per = src := hl (k, v) (.head _)
      rw [← hdiv, Nat.div_add_mod]
    obtain ⟨hmoved, hother⟩ := ih (tset Blk.unwritten acc (per * dst + k % per) v) (fun kv h => hl kv (.tail _ h)) (risingFrom_none hrise)
      (twf_tset _ _ hacc)
    refine ⟨fun row hrow => ?_, fun key hkey => ?_⟩
    · rw [List.foldl_cons, hmoved row hrow, tget_tset hacc, tfind]
      by_cases hrowk : per * src + row = k
      case pos =>
        have hrow' : row = k % per := by omega
        have hnone : tfind r (per * src + row) = none := by
          rw [hrowk]
          exact tfind_below hrise (Nat.le_refl k)
        simp [hrowk, ← hrow', hrowk ▸ hnone]
      case neg =>
        have hrow' : row ≠ k % per := by omega
        simp [hrowk, hrow']
    · have hne : key ≠ per * dst + k % per := by
        rintro rfl
        exact hkey (by rw [Nat.mul_add_div hper, Nat.div_eq_of_lt (Nat.mod_lt _ hper), Nat.add_zero])
      rw [List.foldl_cons, hother key hkey, tget_tset_other _ _ _ hne]

/-- R199: the replacement's rows hold the unit's blocks, the unit's rows none, and every other row what it held. -/
theorem tget_moveBlocks {per src dst row : Nat} (hper : 0 < per) {t : Tbl Blk} (ht : twf Blk.unwritten t = true) (hrow : row < per) :
    tget Blk.unwritten (moveBlocks per src dst t) (per * dst + row) = tget Blk.unwritten t (per * src + row) ∧
    ∀ k, k ≠ src → k ≠ dst → tget Blk.unwritten (moveBlocks per src dst t) (per * k + row) = tget Blk.unwritten t (per * k + row) := by
  have hdiv (k : Nat) : (per * k + row) / per = k := by
    rw [Nat.mul_add_div hper, Nat.div_eq_of_lt hrow, Nat.add_zero]
  have hrise : risingFrom none t = true := (Bool.and_eq_true_iff.mp ht).1
  obtain ⟨hmoved, hother⟩ := tget_foldl_move (src := src) (dst := dst) hper (t.filter fun kv => kv.1 / per == src)
    (t.filter fun kv => kv.1 / per != src && kv.1 / per != dst) (fun kv h => by simpa using (List.mem_filter.mp h).2)
    (risingFrom_filter _ hrise) (twf_filter _ ht)
  refine ⟨(hmoved row hrow).trans ?_, fun k hs hd => (hother _ (by rw [hdiv]; exact hd)).trans ?_⟩
  · rw [tfind_filter_key (fun k => k / per == src), tget, tget, tfind_filter_key (fun k => k / per != src && k / per != dst)]
    simp [hdiv]
  · rw [tget, tget, tfind_filter_key (fun k => k / per != src && k / per != dst)]
    simp [hdiv, hs, hd]

/-- A block stored is the block read. -/
theorem State.setBlk_blk {s : State} {tierB : Bool} (h : twf Blk.unwritten (if tierB then s.mem.b else s.mem.a) = true) (key k : Nat)
    (b : Blk) : (s.setBlk tierB key b).blk tierB k = if k = key then b else s.blk tierB k := by
  cases tierB with
  | false => exact tget_tset h key k b
  | true => exact tget_tset h key k b

/-! ## Map-out -/

/-- R198: the state of a unit that has been mapped out. -/
def UnitS.mappedOut (x : UnitS) (cause : Nat) : UnitS :=
  { x with
    state := 2, cause := cause, hull := 0, extent := 0, slot := 0, copySource := false, replacement := none, pendingCause := 0 }

section MapOut

variable {s : State} {u : MemUnit}

/-- R198: a unit that is not context 0's leaves service; the tiers' blocks, the other units and the map-out under way stay. -/
theorem State.mapOut_of_state (cause trigger : Nat) (repl : Option Nat) (hx : (s.unit u).state ≠ 4) :
    (s.mapOut u cause trigger repl).unit u = (s.unit u).mappedOut cause ∧
    (∀ w, w ≠ u → (s.mapOut u cause trigger repl).unit w = s.unit w) ∧
    (s.mapOut u cause trigger repl).mem.a = s.mem.a ∧ (s.mapOut u cause trigger repl).mem.b = s.mem.b ∧
    (s.mapOut u cause trigger repl).mem.mapout = s.mem.mapout ∧
    (s.mapOut u cause trigger repl).mem.mapoutQueue = s.mem.mapoutQueue := by
  let v := s.setUnit u ((s.unit u).mappedOut cause)
  let m : MemS := if unitTier u then { v.mem with usableB := v.mem.usableB - 1 } else { v.mem with usableA := v.mem.usableA - 1 }
  have hmem : (s.mapOut u cause trigger repl).mem = m := by
    unfold State.mapOut
    extract_lets tb x gone _ counted shown picked
    have hpicked : picked = shown := if_neg hx
    rw [State.event_mem, hpicked]
    cases u <;> rfl
  have hunit (w : MemUnit) : (s.mapOut u cause trigger repl).unit w = v.unit w := by
    rw [State.unit_of_mem (s := { v with mem := m }) hmem]
    cases w <;> cases u <;> rfl
  refine ⟨(hunit u).trans (State.setUnit_same ..), fun w hw => (hunit w).trans (State.setUnit_other _ _ hw), ?_, ?_, ?_, ?_⟩ <;>
  · rw [hmem]
    cases u <;> rfl

/-- R199: the state in which the blocks have moved and the replacement has taken the unit's slot, the unit not yet out of service. -/
theorem State.mapOutCopied_eq {n : Nat} (hne : n ≠ unitNo u) (hstate : (s.unit u).state = 1) :
    ((s.mapOutCopied u n).unit u).state = 2 ∧ ((s.mapOutCopied u n).unit u).cause = (s.unit u).pendingCause ∧
    ((s.mapOutCopied u n).unit (unitOf (unitTier u) n)).state = 1 ∧
    ((s.mapOutCopied u n).unit (unitOf (unitTier u) n)).hull = (s.unit u).hull ∧
    ((s.mapOutCopied u n).unit (unitOf (unitTier u) n)).extent = (s.unit u).extent ∧
    ((s.mapOutCopied u n).unit (unitOf (unitTier u) n)).slot = (s.unit u).slot ∧
    (s.mapOutCopied u n).mem.a =
      (if unitTier u then s.mem.a else moveBlocks (blkPer (unitTier u)) (unitNo u) n s.mem.a) ∧
    (s.mapOutCopied u n).mem.b =
      (if unitTier u then moveBlocks (blkPer (unitTier u)) (unitNo u) n s.mem.b else s.mem.b) ∧
    (s.mapOutCopied u n).mem.mapout = s.mem.mapout ∧ (s.mapOutCopied u n).mem.mapoutQueue = s.mem.mapoutQueue := by
  have hru : u ≠ unitOf (unitTier u) n := by
    intro h
    exact hne (by rw [h, unitNo_unitOf])
  unfold State.mapOutCopied
  extract_lets tb per old x re m marks moved fix y hulled r was given
  have hgiven (w : MemUnit) : (hulled.unit w) = s.unit w := by
    unfold hulled moved
    cases w <;> rfl
  have hold : given.unit u = s.unit u := (State.setUnit_other _ _ hru).trans (hgiven u)
  have hnew : given.unit r = { s.unit r with state := 1, hull := x.hull, extent := x.extent, slot := x.slot } :=
    (State.setUnit_same ..).trans (by simp only [was, hgiven])
  obtain ⟨hunit, hother, ha, hb, hmapout, hqueue⟩ := State.mapOut_of_state (s := given) (u := u) x.pendingCause x.trigger (some n)
    (by rw [hold, hstate]; decide)
  rw [hunit, hother r hru.symm, ha, hb, hmapout, hqueue, hnew]
  refine ⟨rfl, rfl, rfl, rfl, rfl, rfl, ?_, ?_, ?_, ?_⟩
  · exact State.setUnit_memA ..
  · exact State.setUnit_memB ..
  · exact State.setUnit_mapout ..
  · exact State.setUnit_mapoutQueue ..

/-- A unit whose rows all pass their checks has no listed block that fails it. -/
theorem State.unit_all_pass (hwf : twf Blk.unwritten (if unitTier u then s.mem.b else s.mem.a) = true)
    (hpass : ∀ row, row < u.rows → (s.blk (unitTier u) (u.rows * unitNo u + row)).check none = .pass) :
    ((if unitTier u then s.mem.b else s.mem.a).all fun kv => kv.1 / blkPer (unitTier u) != unitNo u || kv.2.check none == .pass) = true := by
  refine List.all_eq_true.mpr fun ⟨k, b⟩ hm => ?_
  by_cases hk : k / u.rows = unitNo u
  case neg => simp [blkPer_unitTier, hk]
  case pos =>
    have hkey : u.rows * unitNo u + k % u.rows = k := by rw [← hk, Nat.div_add_mod]
    have hb : s.blk (unitTier u) k = b := by
      unfold State.blk tget
      rw [tfind_of_mem (Bool.and_eq_true_iff.mp hwf).1 hm]
      rfl
    have hp := hpass _ (Nat.mod_lt k (rows_pos u))
    rw [hkey, hb] at hp
    simp [hp]

end MapOut

/-- No map-out is under way. -/
def State.unmapping (s : State) : State := { s with mem := { s.mem with mapout := none } }

/-- R199: a copy that met no bad block is complete, and waiting map-outs follow. -/
theorem execMapoutCopyComplete_copied {s : State} {u : MemUnit} {n : Nat} (hmapout : s.mem.mapout = some u) (hs : s.inService = true)
    (hrepl : (s.unit u).replacement = some n) (hleaving : s.extentLeaving u = false)
    (hall : ((if unitTier u then s.mem.b else s.mem.a).all fun kv =>
      kv.1 / blkPer (unitTier u) != unitNo u || kv.2.check none == .pass) = true) :
    execMapoutCopyComplete u true s = .next ((s.unmapping.mapOutCopied u n).mapOutNext
      (s.unmapping.mapOutCopied u n).mem.mapoutQueue.length) := by
  unfold execMapoutCopyComplete
  rw [if_neg (by simp [hmapout, hs])]
  simp only [State.unmapping, hrepl, hall, hleaving, Bool.not_false, Bool.and_self, if_true]

/-! ## The statements -/

theorem getBytes_nil (a n : Nat) : getBytes [] a n = zeros n := by
  have hmap : getBytes [] a n = (upFrom a n).map fun _ => (0 : Byte) := rfl
  rw [hmap, List.map_const', upFrom_length]
  rfl

/-- Settles O23: the block is the only one of its range, its unit serves it, and with no mark its write is one of the block. -/
theorem zeroMarksBlocksUnwritten : Obligations.ZeroMarksBlocksUnwritten := by
  intro s h tierB base tensor i u row _ hserved hmeets hmarks hwfA hwfB v
  have hblocks : blocksOf (4096 * i) 4096 = [i] := by
    have hlen : (4096 * i + 4096 - 1) / 4096 + 1 - 4096 * i / 4096 = 1 := by omega
    have hfirst : 4096 * i / 4096 = i := by omega
    have hup : blocksOf (4096 * i) 4096 = upFrom (4096 * i / 4096) ((4096 * i + 4096 - 1) / 4096 + 1 - 4096 * i / 4096) := if_neg (by decide)
    rw [hup, hlen, hfirst]
    rfl
  have hwhole : min (4096 * i + 4096) (4096 * (i + 1)) - max (4096 * i) (4096 * i) = 4096 := by omega
  have hv : v = s.setBlk tierB (blkPer tierB * u + row) Blk.unwritten := by
    simp only [v, State.zeroRange, hblocks, List.foldl_cons, List.foldl_nil, hwhole, if_true, State.storeBlk, hserved.1,
      State.access_served hmeets hserved, State.putBlk, State.copyOut, hmarks, List.find?_nil]
  have hblk (key : Nat) : v.blk tierB key = if key = blkPer tierB * u + row then Blk.unwritten else s.blk tierB key := by
    rw [hv]
    exact State.setBlk_blk (by cases tierB <;> assumption) ..
  have hthis : v.blk tierB (blkPer tierB * u + row) = Blk.unwritten := (hblk _).trans (if_pos rfl)
  refine ⟨?_, ?_, fun key hkey => (hblk key).trans (if_neg hkey), fun key => ?_, ?_, ?_⟩
  · rw [hthis]; exact beq_self_eq_true _
  · rw [hthis]; exact getBytes_nil 0 4096
  · rw [hv]; cases tierB <;> rfl
  · rw [hv]; cases tierB <;> rfl
  · rw [hv]; cases tierB <;> rfl

/-! ## Readouts and the scrub -/

/-- A bit of a word set or cleared. -/
theorem getLsbD_withBit {w : Nat} (x : BitVec w) {k : Nat} (hk : k < w) (b : Bool) (i : Nat) :
    (if b then x ||| BitVec.ofNat w (2 ^ k) else x &&& ~~~BitVec.ofNat w (2 ^ k)).getLsbD i = if i = k then b else x.getLsbD i := by
  have hbit : (BitVec.ofNat w (2 ^ k)).getLsbD i = decide (i = k) := by
    rw [BitVec.getLsbD_ofNat, Nat.testBit_two_pow]
    by_cases hi : i = k
    · simp [hi, hk]
    · simp [hi, Ne.symm hi]
  cases b with
  | true =>
    simp only [if_true, BitVec.getLsbD_or, hbit]
    by_cases hi : i = k <;> simp [hi]
  | false =>
    simp only [Bool.false_eq_true, if_false, BitVec.getLsbD_and, BitVec.getLsbD_not, hbit]
    by_cases hi : i = k
    · simp [hi]
    · simp only [hi, decide_false, Bool.not_false, Bool.and_true, if_false]
      by_cases hw : i < w
      · simp [hw]
      · simp [hw, BitVec.getLsbD_of_ge x i (Nat.le_of_not_lt hw)]

/-- R190: a stack's or package's readout taken note of. -/
def State.readout (s : State) (k : Nat) (hot : Bool) (c : Byte) : State :=
  { s with mem := { s.mem with
    hot := if hot then s.mem.hot ||| BitVec.ofNat 24 (2 ^ k) else s.mem.hot &&& ~~~BitVec.ofNat 24 (2 ^ k)
    temp := tset 0 s.mem.temp k c } }

theorem State.regs_raise (s : State) (id : Nat) : (s.raise id).regs = s.regs := by
  have hlatch (s : State) : s.icLatch.regs = s.regs := foldl_keeps (g := State.regs) (fun _ _ => by split <;> rfl) s _
  simp only [State.raise, State.signal, hlatch]
  rfl

/-- R424: an event's bit reads set. -/
theorem State.event_bit (s : State) (off bit id : Nat) (hb : bit < 64) : bitOf ((s.event off bit id).reg off) bit = true := by
  have hlt : s.reg off ||| 2 ^ bit < 2 ^ 64 := Nat.or_lt_two_pow (BitVec.isLt _) (Nat.pow_lt_pow_right (by decide) hb)
  have hreg : (s.event off bit id).reg off = s.reg off ||| 2 ^ bit := by
    refine Eq.trans ?_ (State.setReg_same s off _ hlt)
    unfold State.event State.regOr State.reg
    rw [State.regs_raise]
  have htest : (s.reg off ||| 2 ^ bit).testBit bit = true := by simp
  rw [hreg, bitOf]
  rw [Nat.testBit, Nat.shiftRight_eq_div_pow, Nat.one_and_eq_mod_two] at htest
  simpa using htest

section Scrub

variable {s : State} {u : MemUnit} {n : Nat}

/-- R220: a pass that a unit has still to take part in goes on. -/
theorem State.scrubWrap_of_some (h : s.scrubUnit? n = some u) : s.scrubWrap n = s := by
  unfold State.scrubWrap
  rw [if_pos (by simp [h])]

/-- A pass that ends changes the units' rows and its count, nothing else of the state. -/
theorem State.scrubWrap_unitless (s : State) (n : Nat) : (s.scrubWrap n).unitless = s.unitless := by
  have hunits : ((s.servedUnits n).foldl (fun s u => s.setUnit u { s.unit u with scrubRow := 0 }) s).unitless = s.unitless :=
    foldl_keeps (fun s u => State.setUnit_unitless ..) s _
  unfold State.scrubWrap
  split
  case isTrue => rfl
  case isFalse => exact hunits

/-- The owner's backlog with one block less. -/
def State.scrubPaid (s : State) (u : MemUnit) : State :=
  let k := 8 * nmuOf u + s.scrubOwner u
  let bl := tget (0, 0, 0) s.nmu.backlog k
  { s with nmu := { s.nmu with backlog := tset (0, 0, 0) s.nmu.backlog k (bl.1 - 1, bl.2) } }

/-- The state after a clean block's read: the owner's backlog and the unit's row have moved on. -/
def State.scrubbed (s : State) (u : MemUnit) (row : Nat) : State :=
  (s.scrubPaid u).setUnit u { (s.scrubPaid u).unit u with scrubRow := row + 1 }

theorem State.scrubbed_unitless (s : State) (u : MemUnit) (row : Nat) : (s.scrubbed u row).unitless = s.unitless :=
  State.setUnit_unitless ..

theorem State.scrubbed_unit {row : Nat} :
    ((s.scrubbed u row).unit u).scrubRow = row + 1 ∧ ((s.scrubbed u row).unit u).state = (s.unit u).state := by
  have hpaid : (s.scrubPaid u).unit u = s.unit u := State.unit_of_mem rfl u
  unfold State.scrubbed
  rw [State.setUnit_same]
  exact ⟨rfl, (congrArg UnitS.state hpaid :)⟩

/-- The unit still has rows to scrub, so that the pass goes on. -/
theorem State.scrubbed_unit? {row : Nat} (hat : s.scrubUnit? (nmuOf u) = some u) (hrow : row + 1 < u.rows) :
    ((s.scrubbed u row).scrubUnit? (nmuOf u)).isSome = true := by
  obtain ⟨hrow', hstate'⟩ := State.scrubbed_unit (s := s) (u := u) (row := row)
  obtain ⟨hmem, hstate⟩ := List.mem_filter.mp (List.mem_of_find?_eq_some hat)
  refine List.find?_isSome.mpr ⟨u, List.mem_filter.mpr ⟨hmem, ?_⟩, ?_⟩
  · rw [hstate']
    exact hstate
  · simp [hrow', blkPer_unitTier, hrow]

theorem execScrubBlock_clean {row : Nat} (hu : u.wf = true) (ht : s.mem.trained = true) (hs : s.inService = true)
    (hb : s.board.standby = false) (hat : s.scrubUnit? (nmuOf u) = some u) (hrow : row = (s.unit u).scrubRow)
    (hpass : (s.blk (unitTier u) (u.rows * unitNo u + row)).check none = .pass) :
    execScrubBlock u row .ok 0 s = .next ((s.scrubbed u row).scrubWrap (nmuOf u)) := by
  have hblk : (s.scrubbed u row).blk (unitTier u) (u.rows * unitNo u + row) = s.blk (unitTier u) (u.rows * unitNo u + row) :=
    State.blk_of_mem (State.setUnit_memA ..) (State.setUnit_memB ..) _ _
  have hone : (s.scrubbed u row).scrubOne u row .ok 0 none = s.scrubbed u row := by
    have hecc (v : State) (h : Nat) : v.memEcc u h row .ok 0 = (true, v) := rfl
    simp only [State.scrubOne, hecc, blkPer_unitTier]
    simp [hblk, hpass, State.huskFound]
  have hwhole : execScrubBlock u row .ok 0 s =
      .next (if unitIn u && s.mem.trained && s.inService && !s.board.standby && s.scrubUnit? (nmuOf u) == some u &&
        decide (row = (s.unit u).scrubRow) then ((s.scrubbed u row).scrubOne u row .ok 0 none).scrubWrap (nmuOf u) else s) := by
    unfold execScrubBlock
    simp only [State.scrubWrap_of_some hat]
    rfl
  rw [hwhole, if_pos, hone]
  simp [unitIn_eq_wf, hu, ht, hs, hb, hat, ← hrow]

end Scrub

/-- Settles O21: refresh, readouts and the scrub change only what they keep count of; a copy that met no bad block moves the unit's blocks
to the replacement's rows. -/
theorem memoryUpkeepKeepsEveryBlock : Obligations.MemoryUpkeepKeepsEveryBlock := by
  refine ⟨⟨?refresh, ?hot, ?scrub⟩, ?mapout, ?addresses, ?unassigned, ?rejected⟩
  case refresh =>
    intro s u hu ht
    exact congrArg Host.Outcome.next (if_pos (by rw [unitIn_eq_wf, hu, ht]; rfl))
  case hot =>
    intro s tierB ix hot c hix hcold htemp k
    have hk : k < 24 := by cases tierB <;> simp [k] at hix ⊢ <;> omega
    let v := s.readout k hot c
    have hexec : exec (.refreshHot tierB ix hot c) s =
        .next (if hot && !s.mem.hot.getLsbD k then v.event (memEv tierB) 4 (memIrq tierB + 4) else v) :=
      congrArg Host.Outcome.next (if_pos ⟨hix, hcold⟩)
    have hbody : (if hot && !s.mem.hot.getLsbD k then v.event (memEv tierB) 4 (memIrq tierB + 4) else v).body = v.body := by
      split
      case isTrue => exact State.event_body ..
      case isFalse => rfl
    have hmem := congrArg State.mem hbody
    refine ⟨_, hexec, ?_, ?_, fun i hi => ?_, (congrArg MemS.a hmem :), (congrArg MemS.b hmem :), (congrArg State.hulls hbody :),
      fun hh hwas => ?_, fun hno => ?_⟩
    · exact ((congrArg (·.hot.getLsbD k) hmem :)).trans ((getLsbD_withBit _ hk hot k).trans (if_pos rfl))
    · exact ((congrArg (tget 0 ·.temp k) hmem :)).trans ((tget_tset htemp k k c).trans (if_pos rfl))
    · exact ((congrArg (·.hot.getLsbD i) hmem :)).trans ((getLsbD_withBit _ hk hot i).trans (if_neg hi))
    · rw [if_pos (by simp [hh, hwas])]
      exact State.event_bit _ _ _ _ (by decide)
    · rw [if_neg (by simpa using hno)]
      exact ⟨rfl, rfl⟩
  case scrub =>
    intro s u row hu ht hs hb hat
    refine ⟨fun hrow e retries => ?_, fun hrow hpass => ?_⟩
    · refine congrArg Host.Outcome.next ?_
      simp only [State.scrubWrap_of_some hat]
      exact if_neg (by simp [hrow])
    · refine ⟨_, execScrubBlock_clean hu ht hs hb hat hrow hpass, fun hlast => ?_, ?_⟩
      · have hgo : (s.scrubbed u row).scrubWrap (nmuOf u) = s.scrubbed u row := by
          obtain ⟨w, hw⟩ := Option.isSome_iff_exists.mp (State.scrubbed_unit? hat hlast)
          exact State.scrubWrap_of_some hw
        rw [hgo]
        exact State.scrubbed_unit.1
      · have hun : ((s.scrubbed u row).scrubWrap (nmuOf u)).unitless = s.unitless :=
          (State.scrubWrap_unitless ..).trans (State.scrubbed_unitless ..)
        exact ⟨(congrArg (·.mem.a) hun :), (congrArg (·.mem.b) hun :), (congrArg State.hulls hun :), (congrArg State.log hun :),
          (congrArg State.regs hun :), (congrArg State.tiles hun :), (congrArg State.pods hun :)⟩
  case mapout =>
    intro s u n hu hn hne hs hmapout hqueue hrepl hstate hleaving hpass hwfA hwfB tb
    let v : State := { s with mem := { s.mem with mapout := none } }
    have hwf : blksWf (if tb then s.mem.b else s.mem.a) = true := by
      cases tb <;> assumption
    have htwf := (Bool.and_eq_true_iff.mp hwf).1
    have hvunit : v.unit u = s.unit u := by cases u <;> rfl
    obtain ⟨hst, hcause, hnst, hnhull, hnextent, hnslot, ha, hb, hvm, hvq⟩ := State.mapOutCopied_eq (s := v) hne (by rw [hvunit]; exact hstate)
    have hexec : exec (.mapoutCopyComplete u true) s = .next (v.mapOutCopied u n) := by
      have hall := State.unit_all_pass (s := s) (u := u) htwf hpass
      have hq : (v.mapOutCopied u n).mem.mapoutQueue = [] := hvq.trans hqueue
      refine (execMapoutCopyComplete_copied hmapout hs hrepl hleaving hall).trans ?_
      rw [show s.unmapping = v from rfl, hq]
      rfl
    have hthis (key : Nat) : (v.mapOutCopied u n).blk (unitTier u) key =
        tget Blk.unwritten (moveBlocks (blkPer (unitTier u)) (unitNo u) n (if unitTier u then s.mem.b else s.mem.a)) key := by
      unfold State.blk
      rw [ha, hb]
      cases unitTier u <;> rfl
    have hthat (key : Nat) : (v.mapOutCopied u n).blk (!unitTier u) key = s.blk (!unitTier u) key := by
      unfold State.blk
      rw [ha, hb]
      cases unitTier u <;> rfl
    rw [blkPer_unitTier] at hthis
    rw [hvunit] at hcause hnhull hnextent hnslot
    refine ⟨_, hexec, hvm, hst, hcause, hnst, hnhull, hnextent, hnslot, fun row hrow => ?_, fun k row hrow hk hk' => ?_, fun key => ?_⟩
    · exact (hthis _).trans (tget_moveBlocks (rows_pos u) htwf hrow).1
    · exact (hthis _).trans ((tget_moveBlocks (rows_pos u) htwf hrow).2 k hk' hk)
    · exact hthat key
  case addresses => exact fun u row hu hr => ⟨physHome_blockAddr hu hr, physHome_huskAddr hu hr⟩
  case unassigned =>
    intro s a hlow ha
    have hnone : physHome a = none := by
      unfold physHome
      rw [if_neg (by omega), if_neg (by omega), if_neg (by omega), if_neg (by omega)]
    simp only [State.physAssigned, hnone]
  case rejected =>
    intro s h tierB wb n row hfind u hu hr hstate
    have haccess : s.access h u row false false =
        (.unassigned, s.physReject (0x0200 + nmuOf u) h false (blockAddr u row) 256) := by
      unfold State.access
      rw [State.physAssigned_blockAddr hu hr, hstate]
      rfl
    simp only [State.fetchBlk, hfind, haccess, u]

end Sys2Proof.Machine
end

section
/-!
PROOFS. Served and clean blocks under changes of the state (R183–R195), what a served write leaves alone, and the near-memory units' parts:
each of them leaves a calm state calm.
-/

namespace Sys2Proof.Machine

/-! ## Sending and counting leave memory alone -/

@[simp] theorem State.regSat_mem (s : State) (off hi lo n : Nat) : (s.regSat off hi lo n).mem = s.mem := rfl

@[simp] theorem State.free_mem (s : State) : s.free.2.mem = s.mem := rfl

/-- The state without its links and outputs. -/
def State.linkless (s : State) : State := { s with jv := State.reset.jv, out := [] }

theorem State.pumpClass_linkless (b cls n : Nat) (s : State) : (State.pumpClass b cls n s).linkless = s.linkless := by
  induction n generalizing s with
  | zero => rfl
  | succ n ih =>
    unfold State.pumpClass
    split
    case h_1 i e _ =>
      extract_lets x y v _ w
      have hw : w.linkless = s.linkless := by
        unfold w
        split <;> rfl
      clear_value w
      split
      case h_1 =>
        split
        case isTrue => exact (ih _).trans hw
        case isFalse => exact hw
      case h_2 => exact hw
    case h_2 => rfl

/-- R288: a bundle's turn to send is a matter of the links. -/
@[simp] theorem State.pump_linkless (s : State) (b : Nat) : (s.pump b).linkless = s.linkless := by
  unfold State.pump
  split
  case h_1 => exact foldl_keeps (fun _ _ => State.pumpClass_linkless ..) s _
  case h_2 => rfl

@[simp] theorem State.sendMsg_linkless (s : State) (m : Msg) : (s.sendMsg m).linkless = s.linkless := by
  unfold State.sendMsg
  split
  case h_1 => exact State.pump_linkless ..
  case h_2 => rfl

/-- R348: a message that is sent enters its hull's ledger, and the links. -/
@[simp] theorem State.send_mem (s : State) (h cls : Nat) (dst : BitVec 24) (tag : Word) (body : List Byte) :
    (s.send h cls dst tag body).mem = s.mem := by
  unfold State.send
  extract_lets
  split
  case isTrue => rfl
  case isFalse => exact (congrArg State.mem (State.sendMsg_linkless _ _) :)

/-! ## What a window's block is -/

section Window

variable {s v : State} {h : Nat} {tierB : Bool}

/-- A block is served by the same row of a unit wherever the hull's extents, the units and the fuses are the same. -/
theorem State.servesAt_of (hfind : ∀ tierB wb, (v.hull h).find tierB wb = (s.hull h).find tierB wb) (hunit : ∀ u, v.unit u = s.unit u)
    (hfailed : v.nmu.failed = s.nmu.failed) (hboard : v.board = s.board) {wb u row : Nat} (k : s.servesAt h tierB wb u row) :
    v.servesAt h tierB wb u row := by
  have hassigned (a : Nat) : v.physAssigned a = s.physAssigned a := by
    simp only [State.physAssigned, hboard, hunit]
  simpa only [State.servesAt, hfind, hassigned, hunit, State.unitFailed, hfailed] using k

/-- The parts of the state that decide what an access to memory finds. -/
def State.sameMemory (s v : State) : Prop := v.mem = s.mem ∧ v.hulls = s.hulls ∧ v.nmu.failed = s.nmu.failed ∧ v.board = s.board

theorem State.sameMemory.hull (k : s.sameMemory v) (h : Nat) : v.hull h = s.hull h := by
  obtain ⟨-, hh, -, -⟩ := k
  unfold State.hull
  rw [hh]

theorem State.sameMemory.blk (k : s.sameMemory v) (tierB : Bool) (key : Nat) : v.blk tierB key = s.blk tierB key := by
  obtain ⟨hm, -, -, -⟩ := k
  unfold State.blk
  rw [hm]

theorem State.sameMemory.servesAt (k : s.sameMemory v) {wb u row : Nat} (ks : s.servesAt h tierB wb u row) : v.servesAt h tierB wb u row := by
  obtain ⟨hm, -, hf, hb⟩ := id k
  exact State.servesAt_of (fun _ _ => by rw [k.hull]) (State.unit_of_mem hm) hf hb ks

theorem State.sameMemory.clean (k : s.sameMemory v) {base tensor i : Nat} (kc : s.clean h tierB base tensor i) : v.clean h tierB base tensor i := by
  obtain ⟨u, row, hs, hpass, hdbg⟩ := kc
  exact ⟨u, row, k.servesAt hs, by rwa [k.blk], by rwa [k.blk, k.hull]⟩

/-- The block of a hull's window; unwritten where there is none. -/
def State.winBlk (s : State) (h : Nat) (tierB : Bool) (wb : Nat) : Blk :=
  match (s.hull h).find tierB wb with
  | some (u, row) => s.blk tierB (blkPer tierB * u + row)
  | none => Blk.unwritten

theorem State.servesAt.winBlk {wb u row : Nat} (k : s.servesAt h tierB wb u row) : s.winBlk h tierB wb = s.blk tierB (blkPer tierB * u + row) := by
  simp only [State.winBlk, k.1]

theorem State.sameMemory.winBlk (k : s.sameMemory v) (wb : Nat) : v.winBlk h tierB wb = s.winBlk h tierB wb := by
  simp only [State.winBlk, k.hull, k.blk]

theorem State.clean.served {base tensor i : Nat} (k : s.clean h tierB base tensor i) : s.served h tierB (base / 4096 + i) := by
  obtain ⟨u, row, hs, -, -⟩ := k
  exact ⟨u, row, hs⟩

/-- A clean block passes its check, and the check leaves no trace. -/
theorem State.checkBlk_of_clean (hm : s.mem.meets = []) {base tensor i : Nat} (k : s.clean h tierB base tensor i) :
    s.checkBlk h tierB (base / 4096 + i) (some (huskTag tensor i)) = (s, s.winBlk h tierB (base / 4096 + i), .pass) := by
  obtain ⟨u, row, hs, hcheck⟩ := State.checkBlk_clean hm k
  rw [hcheck, hs.winBlk]

/-- Clean blocks read whole: their payloads, in order. -/
theorem readBlocks_of_clean {base tensor : Nat} (hm : s.mem.meets = []) (l : List Nat) (k : ∀ i ∈ l, s.clean h tierB base tensor i)
    (d : List Byte) :
    readBlocks h tierB (base / 4096) tensor l { st := s, data := d, bad := none } =
      { st := s, data := d ++ l.flatMap fun i => (s.winBlk h tierB (base / 4096 + i)).payload, bad := none } := by
  induction l generalizing d with
  | nil => simp [readBlocks]
  | cons i r ih =>
    simp only [readBlocks, State.checkBlk_of_clean hm (k i (.head _)), ih (fun j hj => k j (.tail _ hj)), List.flatMap_cons,
      List.append_assoc]

theorem State.readRange_of_clean {base tensor off len : Nat} (hm : s.mem.meets = [])
    (k : ∀ i ∈ blocksOf off len, s.clean h tierB base tensor i) :
    s.readRange h tierB base tensor off len =
      { st := s, data := (((blocksOf off len).flatMap fun i => (s.winBlk h tierB (base / 4096 + i)).payload).drop (off % 4096)).take len,
        bad := none } := by
  simp only [State.readRange, readBlocks_of_clean hm _ k, List.nil_append]

/-- The same clean blocks read the same. -/
theorem State.sameMemory.readRange (k : s.sameMemory v) {base tensor off len : Nat} (hm : s.mem.meets = [])
    (kc : ∀ i ∈ blocksOf off len, s.clean h tierB base tensor i) :
    v.readRange h tierB base tensor off len =
      { st := v, data := (s.readRange h tierB base tensor off len).data, bad := none } := by
  obtain ⟨hmem, -, -, -⟩ := id k
  rw [State.readRange_of_clean hm kc, State.readRange_of_clean (hmem ▸ hm) fun i hi => k.clean (kc i hi)]
  simp only [k.winBlk]

end Window

/-! ## Writes of served blocks -/

/-- The state without the content of its tiers. -/
def State.contentless (s : State) : State := { s with mem := { s.mem with a := [], b := [], marks := [] } }

@[simp] theorem State.setBlk_contentless (s : State) (tierB : Bool) (key : Nat) (b : Blk) : (s.setBlk tierB key b).contentless = s.contentless := by
  unfold State.setBlk
  split <;> rfl

theorem State.copyOut_contentless (n : Nat) (tierB : Bool) (key : Nat) (s : State) :
    (State.copyOut n tierB key s).contentless = s.contentless := by
  induction n generalizing tierB key s with
  | zero => rfl
  | succ n ih =>
    unfold State.copyOut
    extract_lets
    split
    case h_1 => rfl
    case h_2 => exact (ih ..).trans ((State.setBlk_contentless ..).trans (ih ..))

@[simp] theorem State.putBlk_contentless (s : State) (tierB : Bool) (key : Nat) (b : Blk) :
    (s.putBlk tierB key b).contentless = s.contentless :=
  (State.setBlk_contentless ..).trans (State.copyOut_contentless ..)

section Writes

variable {s v : State} {h : Nat} {tierB : Bool}

theorem State.unit_of_contentless (e : v.contentless = s.contentless) (u : MemUnit) : v.unit u = s.unit u := by
  have hmem := congrArg State.mem e
  cases u with
  | a c => exact (congrArg (fun m : MemS => tget UnitS.init m.unitsA c) hmem :)
  | b j => exact (congrArg (fun m : MemS => tget UnitS.init m.unitsB j) hmem :)

theorem State.served_of_contentless (e : v.contentless = s.contentless) {wb : Nat} (k : s.served h tierB wb) : v.served h tierB wb := by
  obtain ⟨u, row, hs⟩ := k
  have hhull : v.hull h = s.hull h := (congrArg (fun s : State => s.hull h) e :)
  exact ⟨u, row, State.servesAt_of (fun _ _ => by rw [hhull]) (State.unit_of_contentless e) (congrArg (·.nmu.failed) e :) (congrArg State.board e :) hs⟩

theorem State.quiet_of_contentless (e : v.contentless = s.contentless) (hq : s.quiet) : v.quiet := by
  obtain ⟨h1, h2, h3⟩ := hq
  exact ⟨(congrArg (·.mem.meets) e :).trans h1, (congrArg (·.mem.lost) e :).trans h2, (congrArg (·.mem.stuck) e :).trans h3⟩

/-- A served block takes what is written to it. -/
theorem State.storeBlk_served (hm : s.mem.meets = []) {wb : Nat} (k : s.served h tierB wb) (lo : Nat) (whole : Bool) (f : Blk → Blk) :
    (s.storeBlk h tierB wb lo whole f).contentless = s.contentless := by
  obtain ⟨u, row, hs⟩ := k
  simp only [State.storeBlk, hs.1, State.access_served hm hs]
  exact State.putBlk_contentless ..

/-- Two sequences of changes whose steps agree where an invariant holds, which they keep. -/
theorem foldl_eq_of_inv {σ α : Type} {f g : σ → α → σ} {P : σ → Prop} (l : List α) (hfg : ∀ s, P s → ∀ x ∈ l, f s x = g s x ∧ P (g s x))
    {s : σ} (hs : P s) : l.foldl f s = l.foldl g s ∧ P (l.foldl g s) := by
  induction l generalizing s with
  | nil => exact ⟨rfl, hs⟩
  | cons x l ih =>
    obtain ⟨hx, hp⟩ := hfg s hs x (.head _)
    rw [List.foldl_cons, List.foldl_cons, hx]
    exact ih (fun s hs y hy => hfg s hs y (.tail _ hy)) hp

/-- A sequence of writes, each of a served block. -/
theorem State.foldl_served {base : Nat} {f : State → Nat → State} (l : List Nat)
    (hf : ∀ v i, v.mem.meets = [] → v.served h tierB (base / 4096 + i) → (f v i).contentless = v.contentless) (hm : s.mem.meets = [])
    (k : ∀ i ∈ l, s.served h tierB (base / 4096 + i)) : (l.foldl f s).contentless = s.contentless := by
  refine List.foldlRecOn (motive := fun v => v.contentless = s.contentless) l f rfl fun v hv i hi => ?_
  exact (hf v i ((congrArg (·.mem.meets) hv :).trans hm) (State.served_of_contentless hv (k i hi))).trans hv

theorem State.writeRange_served {base tensor off : Nat} {bytes : List Byte} (hm : s.mem.meets = [])
    (k : ∀ i ∈ blocksOf off bytes.length, s.served h tierB (base / 4096 + i)) :
    (s.writeRange h tierB base tensor off bytes).contentless = s.contentless :=
  State.foldl_served _ (fun _ _ hv ks => State.storeBlk_served hv ks ..) hm k

theorem State.zeroRange_served {base tensor off len : Nat} (hm : s.mem.meets = [])
    (k : ∀ i ∈ blocksOf off len, s.served h tierB (base / 4096 + i)) :
    (s.zeroRange h tierB base tensor off len).contentless = s.contentless := by
  refine State.foldl_served _ (fun v i hv ks => ?_) hm k
  dsimp only
  split
  case isTrue => exact State.storeBlk_served hv ks ..
  case isFalse => exact State.storeBlk_served hv ks ..

end Writes

theorem mem_upFrom {a n i : Nat} : i ∈ upFrom a n ↔ a ≤ i ∧ i < a + n := by
  induction n generalizing a with
  | zero => simp [upFrom]
  | succ n ih => simp only [upFrom, List.mem_cons, ih]; omega

/-- A shorter range touches no further block. -/
theorem mem_blocksOf_of_le {off m n i : Nat} (hn : m ≤ n) (hi : i ∈ blocksOf off m) : i ∈ blocksOf off n := by
  unfold blocksOf at *
  split at hi
  case isTrue => cases hi
  case isFalse hm =>
    rw [if_neg (by omega)]
    rw [mem_upFrom] at *
    have hle : (off + m - 1) / 4096 ≤ (off + n - 1) / 4096 := Nat.div_le_div_right (by omega)
    omega

/-! ## Requests at their units -/

theorem State.descIssued_eq (s : State) (t q slot : Nat) : ∃ x, s.descIssued t q slot = s.setTile t x :=
  ⟨_, rfl⟩

/-- A request taken up changes its tile or the inbox. -/
theorem State.nmuTake_same (s : State) (src : NmuSrc) : s.sameMemory (s.nmuTake src) := by
  cases src <;> exact ⟨rfl, rfl, rfl, rfl⟩

@[simp] theorem State.nmuTake_mem (s : State) (src : NmuSrc) : (s.nmuTake src).mem = s.mem := (s.nmuTake_same src).1

@[simp] theorem State.nmuTake_hull (s : State) (src : NmuSrc) (h : Nat) : (s.nmuTake src).hull h = s.hull h := (s.nmuTake_same src).hull h

@[simp] theorem State.nmuEnd_mem (s : State) (r : NReq) (st : Byte) : (s.nmuEnd r st).mem = s.mem := by
  unfold State.nmuEnd
  split
  case h_1 => exact State.descDone_mem ..
  case h_2 => rfl

@[simp] theorem State.nmuReturn_mem (s : State) (r : NReq) (b : List Byte) : (s.nmuReturn r b).mem = s.mem := by
  unfold State.nmuReturn
  split <;> rfl

@[simp] theorem State.partStop_mem (s : State) (h : Nat) (stop : Bool) : (s.partStop h stop).mem = s.mem := by
  unfold State.partStop
  split <;> simp

@[simp] theorem Parts.close_mem (p : Parts) (r : NReq) : (p.close r).mem = p.st.mem := by
  simp [Parts.close]

/-- R207: parts that all completed end their request with DONE. -/
theorem Parts.close_done (s : State) (r : NReq) : (s.parts).close r = s.nmuEnd r sDONE := rfl

/-- A request that is ready is performed. -/
theorem State.nmuRun_of_ready {s : State} {op : Nat} {src : NmuSrc} {r : NReq} {pr : Prog} {tierB : Bool} {base : Nat}
    (k : s.nmuReady op src r pr tierB base) (f : State → NReq → Prog → Bool → Nat → State) : s.nmuRun op src f = f s r pr tierB base := by
  obtain ⟨-, hfind, hprog, hplace, hgen⟩ := k
  simp only [State.nmuRun, hfind, hprog, hplace, hgen, ne_eq, not_true_eq_false, if_false]

section Ready

variable {raw : State} {op : Nat} {src : NmuSrc} {r : NReq} {pr : Prog} {tierB : Bool} {base : Nat}
  {f : State → NReq → Prog → Bool → Nat → State}

theorem State.nmuReady.calm (k : raw.settled.nmuReady op src r pr tierB base) : raw.settled.calm := by
  obtain ⟨hhold, -⟩ := k
  exact ⟨hhold, rfl, rfl⟩

/-- A ready request that comes to a calm state ends with it. -/
theorem State.nmu_done (k : raw.settled.nmuReady op src r pr tierB base) {v : State} (hf : f raw.settled r pr tierB base = v) (hv : v.calm) :
    raw.meeting [] (fun s => s.nmuRun op src f) = v.settled :=
  State.meeting_of_calm ((State.nmuRun_of_ready k f).trans hf) hv

/-- A ready request that comes to a quiet state ends with just that. -/
theorem State.nmu_done_quiet (k : raw.settled.nmuReady op src r pr tierB base) {v : State} (hf : f raw.settled r pr tierB base = v)
    (hv : v.quiet) : raw.meeting [] (fun s => s.nmuRun op src f) = v := by
  have hr : raw.settled.nmuRun op src f = v := (State.nmuRun_of_ready k f).trans hf
  rw [State.meeting_done raw _ (by rw [hr]; exact hv.2.2), hr, State.settled_of_quiet hv]

end Ready

/-! ## Parts leave a calm state calm -/

section Calm

variable {p : Parts}

theorem Parts.fail_calm (h u tensor i : Nat) (c : Check) (k : p.st.calm) : (p.fail h u tensor i c).st.calm := by
  dsimp only [Parts.fail]
  exact State.calm_of_mem (State.huskFail_mem ..) k

theorem Parts.residue_calm (h u : Nat) (k : p.st.calm) : (p.residue h u).st.calm := by
  refine State.calm_of_mem (s := p.st) ?_ k
  simp only [Parts.residue, State.log1_mem, State.free_mem, State.regSat_mem, State.event_mem]

theorem Parts.wrote_calm (k : p.st.calm) : p.wrote.st.calm := by
  unfold Parts.wrote
  split
  case isTrue => exact State.calm_of_units (s := p.st) rfl rfl rfl rfl k
  case isFalse => exact k

theorem Parts.close_calm (r : NReq) (k : p.st.calm) : (p.close r).calm := State.calm_of_mem (Parts.close_mem ..) k

theorem Parts.wrote_of_kept (hl : p.st.mem.lost = false) : p.wrote = p := by
  unfold Parts.wrote
  rw [hl]
  rfl

theorem foldl_parts_calm {α : Type} {f : Parts → α → Parts} (hf : ∀ p x, p.st.calm → (f p x).st.calm) (l : List α) (k : p.st.calm) :
    (l.foldl f p).st.calm :=
  List.foldlRecOn (motive := fun p : Parts => p.st.calm) l f k fun p hp x _ => hf p x hp

end Calm

end Sys2Proof.Machine
end

section
/-!
PROOFS. Near-memory block operations (R211, R193, R217, R220): each request that is ready and meets clean blocks comes to the state with its
result, and the statement NearMemoryBlockOperationsComplete assembled from them.
-/

namespace Sys2Proof.Machine

/-! ## One block of each operation -/

theorem blocksOf_singleton {off len i : Nat} (h : blocksOf off len = [i]) : i = off / 4096 := by
  unfold blocksOf at h
  split at h
  case isTrue => cases h
  case isFalse =>
    cases hn : (off + len - 1) / 4096 + 1 - off / 4096 with
    | zero =>
      rw [hn] at h
      cases h
    | succ n =>
      rw [hn] at h
      exact (List.cons.inj h).1.symm

section Blocks

variable {r : NReq} {pr : Prog} {tierB : Bool} {base t2 o2 : Nat} {p : Parts}

/-- The husks of clean blocks, none of which fails. -/
theorem huskList_of_clean {s : State} {h tensor : Nat} (hm : s.mem.meets = []) (l : List Nat) (k : ∀ i ∈ l, s.clean h tierB base tensor i) :
    (huskList h tierB base tensor l s).1 = s ∧ (huskList h tierB base tensor l s).2.2 = [] := by
  induction l with
  | nil => exact ⟨rfl, rfl⟩
  | cons i l ih =>
    obtain ⟨hst, hbad⟩ := ih fun j hj => k j (.tail _ hj)
    simp only [huskList, State.checkBlk_of_clean hm (k i (.head _))]
    exact ⟨hst, hbad⟩

/-- R220: a clean block scrubbed leaves no trace. -/
theorem scrubPart_of_clean {i : Nat} (hm : p.st.mem.meets = []) (k : p.st.clean r.hull tierB base r.desc.tensor i) :
    scrubPart r tierB base p i = p := by
  obtain ⟨u, row, ⟨hfind, -, hcopy, hfailed⟩, hpass, -⟩ := k
  have hhold : p.st.holdAt (unitOf tierB u) = p.st := if_neg (by simp [hcopy])
  have hone : p.st.scrubOne (unitOf tierB u) row .ok 0 (some (huskTag r.desc.tensor i)) = p.st := by
    have hecc (h : Nat) : p.st.memEcc (unitOf tierB u) h row .ok 0 = (true, p.st) := rfl
    simp only [State.scrubOne, hecc, unitTier_unitOf, unitNo_unitOf]
    simp [hpass, State.huskFound]
  simp only [scrubPart, hfind, hhold, hfailed, State.takeMeet_nil hm, hone]
  simp

/-- R217: a mark is no content and no access. -/
theorem State.mark_contentless (s : State) (h : Nat) (a b : Bool × Nat) : (s.mark h a b).contentless = s.contentless := by
  unfold State.mark
  extract_lets
  split <;> rfl

theorem State.holdAt_of_noHold {s : State} (k : s.noHold) (u : MemUnit) : s.holdAt u = s := if_neg (by simp [k u])

theorem State.readCut_calm {s : State} (h : Nat) (wb : Nat) (key : Bool × Nat) (tag : Nat) (k : s.calm) :
    (s.readCut h tierB wb key tag).1.calm := by
  unfold State.readCut
  extract_lets c a
  have ha : a.2.calm := State.access_calm _ _ _ _ _ k
  clear_value a
  split
  case h_1 =>
    dsimp only
    split
    case isTrue => exact State.calm_of_mem (State.sawUnwritten_mem ..) ha
    case isFalse => exact ha
  case h_2 => exact ha
  case h_3 => exact ha

theorem deltaBlock_calm (k : Nat) (h : p.st.calm) : (deltaBlock r pr tierB base t2 o2 p k).st.calm := by
  unfold deltaBlock
  extract_lets d i s u
  have hcut (key : Bool × Nat) : (s.readCut r.hull tierB (base / 4096 + i) key (huskTag d.tensor i)).1.calm := State.readCut_calm _ _ _ _ h
  split
  case h_1 key tb bs _ _ =>
    have hc := hcut key
    split
    case h_1 v b heq =>
      rw [heq] at hc
      extract_lets hk o x _ w
      have ho : o.st.calm := State.readRange_calm _ _ _ _ _ _ hc
      have hw : w.calm := by
        unfold w
        split
        case isTrue => exact ho
        case isFalse => exact State.calm_of_mem (s := o.st) rfl ho
      clear_value w o
      split
      case h_1 => exact Parts.fail_calm _ _ _ _ _ ho
      case h_2 =>
        exact Parts.wrote_calm (State.calm_of_units rfl rfl rfl rfl (State.writeRange_calm r.hull tb bs t2 (o2 + 8 * k) _ hw))
    case h_2 heq =>
      rw [heq] at hc
      exact Parts.fail_calm _ _ _ _ _ hc
  case h_2 => exact State.calm_of_mem (State.reject_mem ..) h
  case h_3 => exact h

end Blocks

/-! ## A clean block on the delta list -/

theorem locate_row {per : Nat} (es : List Extent) {i b : Nat} {e : Nat × Nat × Nat × Nat} (h : locate per es i b = some e) : e.2.2.2 < per := by
  induction es generalizing i b with
  | nil => cases h
  | cons x es ih =>
    simp only [locate] at h
    split at h
    case isTrue hb =>
      cases h
      exact Nat.div_lt_of_lt_mul hb
    case isFalse => exact ih h

/-- The row of a window's block is one of its unit. -/
theorem Hull.find_row {x : Hull} {tierB : Bool} {wb u row : Nat} (h : x.find tierB wb = some (u, row)) : row < blkPer tierB := by
  unfold Hull.find at h
  split at h
  case isTrue =>
    obtain ⟨e, he, heq⟩ := Option.map_eq_some_iff.mp h
    cases heq
    exact locate_row _ he
  case isFalse => cases h

section Delta

variable {s : State} {h : Nat} {tierB : Bool}

/-- R217: a block without a copy of the cut is read itself; a clean one leaves no trace. -/
theorem State.readCut_of_clean {base tensor i u row : Nat} (hm : s.mem.meets = []) (hs : s.servesAt h tierB (base / 4096 + i) u row)
    (hc : s.clean h tierB base tensor i) (hcut : s.cutMark h (tierB, blkPer tierB * u + row) = none) :
    s.readCut h tierB (base / 4096 + i) (tierB, blkPer tierB * u + row) (huskTag tensor i) =
      (s, s.blk tierB (blkPer tierB * u + row), .pass) := by
  obtain ⟨u', row', ⟨hfind', -⟩, hpass, htrace⟩ := hc
  obtain ⟨rfl, rfl⟩ : u' = u ∧ row' = row := by
    have heq := hfind'.symm.trans hs.1
    simpa using heq
  have hrow : row' < blkPer tierB := Hull.find_row hs.1
  have hpos : 0 < blkPer tierB := Nat.zero_lt_of_lt hrow
  have hdiv : (blkPer tierB * u' + row') / blkPer tierB = u' := by
    rw [Nat.mul_add_div hpos, Nat.div_eq_of_lt hrow, Nat.add_zero]
  have hmod : (blkPer tierB * u' + row') % blkPer tierB = row' := by
    rw [Nat.mul_add_mod, Nat.mod_eq_of_lt hrow]
  simp only [State.readCut, State.cutKey, hcut, hdiv, hmod, State.access_served hm hs, hpass]
  rcases htrace with ht | ht
  · simp [ht]
  · simp [State.sawUnwritten_none ht]

/-- R217: a block joins a hull's delta list; the unit that will read it for the drain has one more to read. -/
def State.deltaListed (s : State) (h : Nat) (e : Nat × Nat × Word × List Byte) : State :=
  let x := s.hull h
  (s.setHull h { x with ckpt := { x.ckpt with delta := x.ckpt.delta ++ [e] } }).drainAt h (s.drainUnit h x.ckpt.delta.length) (· + 1)

theorem State.deltaListed_mem (s : State) (h : Nat) (e : Nat × Nat × Word × List Byte) : (s.deltaListed h e).mem = s.mem := rfl

theorem State.deltaListed_served {e : Nat × Nat × Word × List Byte} {wb : Nat} (k : s.served h tierB wb) :
    (s.deltaListed h e).served h tierB wb := by
  obtain ⟨u, row, hs⟩ := k
  have hhull : (s.deltaListed h e).hull h =
      { s.hull h with ckpt := { (s.hull h).ckpt with delta := (s.hull h).ckpt.delta ++ [e] } } := State.setHull_same ..
  exact ⟨u, row, State.servesAt_of (fun _ _ => by rw [hhull]; rfl) (State.unit_of_mem (State.deltaListed_mem ..)) rfl rfl hs⟩

/-- The state after a block's entry of the list is compared: the block is listed where it differs. -/
def State.deltaNoted (s : State) (h old new : Nat) (e : Nat × Nat × Word × List Byte) : State :=
  if old = new then s else s.deltaListed h e

/-- R217: what a block of a DELTA does where the block and its entry of the list are clean. -/
theorem deltaBlock_of_clean {r : NReq} {pr : Prog} {p : Parts} {base t2 o2 k u row tb2 : Nat} {tb : Bool} (hq : p.st.quiet)
    (hplace : pr.memPlace r.desc.tensor = some (tierB, base)) (hplace2 : pr.memPlace t2 = some (tb, tb2))
    (hs : p.st.servesAt r.hull tierB (base / 4096 + (r.desc.offset / 4096 + k)) u row)
    (hc : p.st.clean r.hull tierB base r.desc.tensor (r.desc.offset / 4096 + k))
    (hcut : p.st.cutMark r.hull (tierB, blkPer tierB * u + row) = none)
    (hlist : ∀ i ∈ blocksOf (o2 + 8 * k) 8, p.st.clean r.hull tb tb2 t2 i) :
    let i := r.desc.offset / 4096 + k
    let b := p.st.blk tierB (blkPer tierB * u + row)
    let hk := b.huskFor (huskTag r.desc.tensor i)
    let old := (p.st.readRange r.hull tb tb2 t2 (o2 + 8 * k) 8).data
    let v := ((p.st.deltaNoted r.hull (fieldLe old 0 8) hk.toNat (r.desc.tensor, i, hk, b.payload)).writeRange r.hull tb tb2 t2
      (o2 + 8 * k) (natLe 8 hk.toNat)).unmark r.hull (tierB, blkPer tierB * u + row)
    deltaBlock r pr tierB base t2 o2 p k = { p with st := v } ∧ v.quiet := by
  intro i b hk old v
  have hm := hq.1
  have hkey : p.st.blockKey r.hull pr r.desc.tensor i = some (tierB, blkPer tierB * u + row) := by
    simp only [State.blockKey, hplace, hs.1, i, Option.map_some]
  obtain ⟨hst, hbad⟩ := State.readRange_clean hm hlist
  have hnoted : (p.st.deltaNoted r.hull (fieldLe old 0 8) hk.toNat (r.desc.tensor, i, hk, b.payload)).mem = p.st.mem := by
    unfold State.deltaNoted
    split <;> rfl
  have hserved (j : Nat) (hj : p.st.served r.hull tb (tb2 / 4096 + j)) :
      (p.st.deltaNoted r.hull (fieldLe old 0 8) hk.toNat (r.desc.tensor, i, hk, b.payload)).served r.hull tb (tb2 / 4096 + j) := by
    unfold State.deltaNoted
    split
    case isTrue => exact hj
    case isFalse => exact State.deltaListed_served hj
  have hv : v.quiet := by
    refine State.quiet_of_contentless (s := p.st.deltaNoted r.hull (fieldLe old 0 8) hk.toNat (r.desc.tensor, i, hk, b.payload)) ?_
      (State.quiet_of_mem hnoted hq)
    exact State.writeRange_served (hnoted ▸ hm) fun j hj => hserved j (hlist j (by rwa [natLe_length] at hj)).served
  refine ⟨?_, hv⟩
  have hread := State.readCut_of_clean hm hs hc hcut
  unfold deltaBlock
  simp only [show r.desc.offset / 4096 + k = i from rfl] at hread ⊢
  simp only [hkey, hplace2, hread, hbad, hst]
  refine Eq.trans ?_ (Parts.wrote_of_kept (p := { p with st := v }) hv.2.1)
  rfl

end Delta

/-- Settles O22: the blocks are clean, so that each block's turn leaves no trace but its result; a DELTA is performed block by block in
any case. -/
theorem nearMemoryBlockOperationsComplete : Obligations.NearMemoryBlockOperationsComplete := by
  intro raw src r pr tierB base s d bs s' t2 o2 clean
  have hm : s'.mem.meets = [] := (congrArg MemS.meets (State.nmuTake_mem s src) :)
  have hsame : s.sameMemory s' := s.nmuTake_same src
  have hquiet {v : State} (h : v.mem = s'.mem) : v.quiet :=
    State.quiet_of_mem (h.trans (State.nmuTake_mem s src)) (s := s) ⟨rfl, rfl, rfl⟩
  have hclean (hc : clean) : ∀ i ∈ bs, s'.clean r.hull tierB base d.tensor i := fun i hi => hsame.clean (hc i hi)
  refine ⟨?digest, ?verify, ?zero, ?scrub, ?snapshot, ?delta⟩
  case digest =>
    intro hready hc ws
    obtain ⟨hst, hbad⟩ := huskList_of_clean hm bs (hclean hc)
    refine congrArg Host.Outcome.next (State.nmu_done_quiet hready ?_ (hquiet (by simp)))
    refine (if_pos (by rw [List.isEmpty_iff]; exact hbad)).trans ?_
    rw [show (huskList r.hull tierB base r.desc.tensor (blocksOf r.desc.offset r.desc.length) (raw.settled.nmuTake src)).1 = s' from hst]
  case verify =>
    intro hready hc
    have hfold : bs.foldl (verifyBlock r tierB base) (s'.parts, []) = (s'.parts, []) := by
      refine List.foldlRecOn (motive := (· = (s'.parts, ([] : List Nat)))) bs _ rfl fun a ha i hi => ?_
      subst ha
      simp only [verifyBlock]
      rw [show s'.parts.st = s' from rfl, State.checkBlk_of_clean hm (hclean hc i hi)]
      rfl
    refine congrArg Host.Outcome.next (State.nmu_done_quiet hready ?_ (hquiet (by simp)))
    dsimp only
    rw [show (blocksOf r.desc.offset r.desc.length).foldl (verifyBlock r tierB base) ((raw.settled.nmuTake src).parts, []) =
      (s'.parts, []) from hfold]
    rfl
  case zero =>
    intro hready hserved
    have hzero : (s'.zeroRange r.hull tierB base d.tensor d.offset d.length).contentless = s'.contentless :=
      State.zeroRange_served hm fun i hi => (hserved i hi).imp fun u hu => hu.imp fun row hs => hsame.servesAt hs
    have hq : (s'.zeroRange r.hull tierB base d.tensor d.offset d.length).quiet := State.quiet_of_contentless hzero (hquiet rfl)
    refine congrArg Host.Outcome.next (State.nmu_done_quiet hready ?_ (State.quiet_of_mem (State.nmuEnd_mem ..) hq))
    rw [Parts.wrote_of_kept hq.2.1]
    rfl
  case scrub =>
    intro hready hc
    have hfold : bs.foldl (scrubPart r tierB base) s'.parts = s'.parts := by
      refine List.foldlRecOn (motive := (· = s'.parts)) bs _ rfl fun a ha i hi => ?_
      subst ha
      exact scrubPart_of_clean hm (hclean hc i hi)
    refine congrArg Host.Outcome.next (State.nmu_done_quiet hready ?_ (hquiet (by simp)))
    rw [show (blocksOf r.desc.offset r.desc.length).foldl (scrubPart r tierB base) (raw.settled.nmuTake src).parts = s'.parts from hfold]
    rfl
  case snapshot =>
    intro hready hmem ho2 hend
    have hnoHold : s'.noHold := State.noHold_of_units (s := s) (by simp [s']) (by simp [s']) hready.calm.1
    obtain ⟨hfold, hkept⟩ := foldl_eq_of_inv (P := fun v : State => v.contentless = s'.contentless)
      (f := fun (s : State) k => match s.blockKey r.hull pr d.tensor (d.offset / 4096 + k), s.blockKey r.hull pr t2 (o2 / 4096 + k) with
        | some a, some b => ((s.holdKey a).holdKey b).mark r.hull a b
        | _, _ => s)
      (g := fun (s : State) k => match s.blockKey r.hull pr d.tensor (d.offset / 4096 + k), s.blockKey r.hull pr t2 (o2 / 4096 + k) with
        | some a, some b => s.mark r.hull a b
        | _, _ => s)
      (upFrom 0 bs.length) (fun v hv k _ => by
        have hv' : v.noHold := fun u => (congrArg UnitS.copySource (State.unit_of_contentless hv u)).trans (hnoHold u)
        refine ⟨by simp only [State.holdKey, State.holdAt_of_noHold hv'], ?_⟩
        split
        case h_1 => exact (State.mark_contentless ..).trans hv
        case h_2 => exact hv) rfl
    refine congrArg Host.Outcome.next (State.nmu_done_quiet hready ?_
      (State.quiet_of_mem (State.nmuEnd_mem ..) (State.quiet_of_contentless hkept (hquiet rfl))))
    have hin : ¬ ((!pr.inMemory t2 || decide (o2 % 4096 ≠ 0 ∨ o2 + 4096 * bs.length > pr.bytesOf t2)) = true) := by
      simp only [hmem, ho2, Bool.not_true, Bool.false_or, decide_eq_true_eq, ne_eq, not_true_eq_false, false_or]
      exact Nat.not_lt.mpr hend
    refine (if_neg hin).trans ?_
    exact congrArg (State.nmuEnd · r sDONE) hfold
  case delta =>
    intro hready hmem hend
    have hin : ¬ ((!pr.inMemory t2 || decide (o2 + 8 * bs.length > pr.bytesOf t2)) = true) := by
      simp only [hmem, Bool.not_true, Bool.false_or, decide_eq_true_eq]
      exact Nat.not_lt.mpr hend
    have hcalm : s'.parts.st.calm := State.calm_of_mem (s := s) (State.nmuTake_mem s src) hready.calm
    have hdone : exec (.nmuDelta src []) raw =
        .next (((upFrom 0 bs.length).foldl (deltaBlock r pr tierB base t2 o2) s'.parts).close r).settled :=
      congrArg Host.Outcome.next (State.nmu_done hready (if_neg hin)
        (Parts.close_calm r (foldl_parts_calm (fun p k h => deltaBlock_calm k h) _ hcalm)))
    refine ⟨hdone, ?_⟩
    intro i u row tb b2 hone hs hc hplace2 hlist key hcut b hk x v
    obtain rfl := blocksOf_singleton hone
    have hmem' : (s'.cutMark r.hull key) = none := by
      unfold State.cutMark
      rw [State.nmuTake_mem]
      exact hcut
    obtain ⟨tb', b2', hplace2', hlist'⟩ := hlist
    obtain ⟨rfl, rfl⟩ : tb' = tb ∧ b2' = b2 := by
      have heq := hplace2'.symm.trans hplace2
      simpa using heq
    have hi : d.offset / 4096 ∈ bs := by rw [hone]; exact .head _
    obtain ⟨hblock, hq⟩ := deltaBlock_of_clean (r := r) (pr := pr) (p := s'.parts) (k := 0) (o2 := o2) (hquiet rfl) hready.2.2.2.1 hplace2
      (hsame.servesAt hs) (hsame.clean (hc _ hi)) hmem' (fun j hj => hsame.clean (hlist' j hj))
    have hread : (s'.readRange r.hull tb' b2' t2 o2 8).data = (s.readRange r.hull tb' b2' t2 o2 8).data := by
      rw [hsame.readRange rfl hlist']
    rw [hdone, hone]
    refine congrArg Host.Outcome.next ?_
    simp only [Nat.mul_zero, Nat.add_zero, show s'.parts.st = s' from rfl] at hblock hq
    rw [hread, hsame.blk] at hblock hq
    refine (congrArg (fun p => (Parts.close p r).settled) hblock).trans ?_
    exact State.settled_of_quiet (State.quiet_of_mem (State.nmuEnd_mem ..) hq)

end Sys2Proof.Machine
end

section
/-!
PROOFS. Near-memory arithmetic (R207, R209, R212–R215, R188): parts of reductions, updates and scattered additions, the place of a
contribution at its target, and the statements NearMemoryArithmeticCompletes and ContributionsTakeEffectInTheirOrder.
-/

namespace Sys2Proof.Machine

/-! ## Parts leave a calm state calm -/

section Calm

variable {s : State} {p : Parts} {tierB : Bool} {base : Nat}

theorem State.eventIf_mem (s : State) (b : Bool) (off bit id : Nat) : (if b then s.event off bit id else s).mem = s.mem := by
  split
  case isTrue => exact State.event_mem ..
  case isFalse => rfl

theorem reducePart_calm (t : RTarget) (c : List Byte) (k : Nat × Nat × Nat) (h : p.st.calm) : (reducePart t tierB base c p k).st.calm := by
  unfold reducePart
  extract_lets part put o
  have hput (v : State) (x : Option (List Byte)) (hv : v.calm) : (put v x).st.calm :=
    Parts.wrote_calm (State.writeRange_calm _ _ _ _ _ _ (State.calm_of_mem (State.eventIf_mem ..) hv))
  have ho : o.st.calm := State.readRange_calm _ _ _ _ _ _ h
  clear_value put o
  split
  case isTrue => exact hput _ _ h
  case isFalse =>
    split
    case isTrue => exact hput _ _ h
    case isFalse =>
      split
      case h_1 => exact Parts.fail_calm _ _ _ _ _ ho
      case h_2 => exact hput _ _ ho

theorem State.reduceApply_calm (t : RTarget) (c : List Byte) (h : s.calm) : (s.reduceApply t tierB base c).st.calm :=
  foldl_parts_calm (fun _ k hp => reducePart_calm t c k hp) _ h

theorem State.reduceRun_calm (n : Nat) (t : RTarget) (c : List Byte) (h : s.calm) : (State.reduceRun tierB base n s t c).1.calm := by
  induction n generalizing s t c with
  | zero => exact h
  | succ n ih =>
    unfold State.reduceRun
    extract_lets a t'
    have ha : a.st.calm := State.reduceApply_calm _ _ h
    clear_value a
    split
    case isTrue => exact ha
    case isFalse =>
      split
      case h_1 => exact ih _ _ ha
      case h_2 => exact ha

/-- R269: the feed of a twin reads blocks and sends messages. -/
theorem State.twinFeed_calm (h : Nat) (tensor off len : Nat) (k : s.calm) : (s.twinFeed h tierB base tensor off len).calm := by
  unfold State.twinFeed
  split
  case h_1 =>
    split
    case isTrue => exact k
    case isFalse =>
      split
      case h_1 =>
        extract_lets first n
        refine State.foldl_calm (fun v i hv => ?_) _ k
        extract_lets b o
        have ho : o.st.calm := State.readRange_calm _ _ _ _ _ _ hv
        clear_value o
        split
        case h_1 => exact State.calm_of_mem (State.huskStop_mem ..) ho
        case h_2 => exact State.calm_of_mem (State.send_mem ..) ho
      case h_2 => exact k
  case h_2 => exact k

theorem State.reduceDone_calm (t : RTarget) (k : s.calm) : (s.reduceDone t tierB base).calm := by
  unfold State.reduceDone
  extract_lets v
  have hv : v.calm := State.foldl_calm (fun v o hv => by
    split
    case h_1 => exact State.calm_of_mem (State.descDone_mem ..) hv
    case h_2 => exact hv) _ k
  clear_value v
  split
  case isTrue => exact hv
  case isFalse => exact State.twinFeed_calm _ _ _ _ hv

theorem State.reduceTaken_calm (src : NmuSrc) (r : NReq) (k : s.calm) : (s.reduceTaken src r tierB base).calm := by
  unfold State.reduceTaken
  extract_lets t others o
  have ho : o.1.calm := State.reduceRun_calm _ _ _ (State.calm_of_mem (State.nmuTake_mem ..) k)
  clear_value o
  split
  case isTrue => exact State.calm_of_mem (by simp) ho
  case isFalse =>
    split
    case isTrue => exact State.reduceDone_calm _ (State.calm_of_mem (s := o.1) rfl ho)
    case isFalse => exact State.calm_of_mem (s := o.1) rfl ho

theorem readAll_calm (h : Nat) (pr : Prog) (l : List (Nat × Nat × Nat)) (k : s.calm) : (readAll h pr l s).1.calm := by
  induction l generalizing s with
  | nil => exact k
  | cons q l ih =>
    obtain ⟨t, o, n⟩ := q
    unfold readAll
    extract_lets a
    have ha : a.st.calm := by
      unfold a
      split
      case h_1 => exact State.readRange_calm _ _ _ _ _ _ k
      case h_2 => exact k
    clear_value a
    split
    case h_1 => exact ha
    case h_2 => exact ih ha

theorem State.updateWrite_calm (h : Nat) (pr : Prog) (d : Desc) (out : List (Nat × Nat × Nat)) (k : s.calm) :
    (s.updateWrite h pr tierB base d out).calm := by
  unfold State.updateWrite
  extract_lets rs w v put
  have hput (v : State) (n : Nat) (f : Nat × Nat → Nat) (hv : v.calm) : (put v n f).calm := by
    unfold put
    split
    case h_1 =>
      split
      case h_1 => exact State.writeRange_calm _ _ _ _ _ _ hv
      case h_2 => exact hv
    case h_2 => exact hv
  exact hput _ _ _ (hput _ _ _ (State.writeRange_calm _ _ _ _ _ _ k))

theorem updatePart_calm (r : NReq) (pr : Prog) (residue : Option Nat) (k : Nat × Nat × Nat) (h : p.st.calm) :
    (updatePart r pr tierB base residue p k).st.calm := by
  unfold updatePart
  extract_lets _ d u a
  have ha : a.1.calm := readAll_calm _ _ _ h
  clear_value a
  split
  case h_1 => exact Parts.fail_calm _ _ _ _ _ ha
  case h_2 =>
    split
    case isTrue => exact Parts.residue_calm _ _ ha
    case isFalse => exact Parts.wrote_calm (State.updateWrite_calm _ _ _ _ ha)

theorem scatterRow_calm (r : NReq) (size fmt : Nat) (residue : Option Nat) (st : Byte) (ix : Nat × Nat) (h : p.st.calm) :
    (scatterRow r size fmt tierB base residue (p, st) ix).1.st.calm := by
  unfold scatterRow
  extract_lets d off o u _ v w
  have ho : o.st.calm := State.readRange_calm _ _ _ _ _ _ h
  have hw : w.calm := State.calm_of_mem (State.eventIf_mem ..) ho
  clear_value w v o
  split
  case isTrue => exact h
  case isFalse =>
    split
    case h_1 => exact Parts.fail_calm _ _ _ _ _ ho
    case h_2 =>
      split
      case isTrue => exact Parts.residue_calm _ _ ho
      case isFalse => exact Parts.wrote_calm (State.writeRange_calm _ _ _ _ _ _ hw)

end Calm

/-! ## A contribution at its target -/

section Reduce

variable {s : State} {src : NmuSrc} {r : NReq} {pr : Prog} {tierB : Bool} {base : Nat}

/-- What stands for a held request (R209). -/
def State.heldEntry (s : State) (src : NmuSrc) (r : NReq) : HeldReq :=
  match src with
  | .desc tile q _ => .desc tile q r.desc.image
  | .remote k => match s.jv.inbox[k]? with | some m => .msg m.srcFid m.cls m.e2e | none => .msg 0 0 0

/-- The state in which a request is held. -/
def State.reduceHeld (s : State) (e : HeldReq) : State :=
  if s.nmu.held.contains e then s else { s with nmu := { s.nmu with held := s.nmu.held ++ [e] } }

/-- A contribution that fits its target and has room there: it is staged, or takes effect. -/
def State.reduceIn (s : State) (src : NmuSrc) (r : NReq) (tierB : Bool) (base : Nat) : State :=
  let t := s.targetOf r
  let v := s.nmuTake src
  if reduceSeq r.desc.block ≠ t.next then
    { v with nmu := { v.nmu with
      targets := (s.nmu.targets.filter fun t => !t.isFor r) ++
        [{ t.ownedBy r with staged := tput (t.ownedBy r).staged (reduceSeq r.desc.block) r.data }] } }
  else s.reduceTaken src r tierB base

theorem State.residueUnit_nmuTake (src : NmuSrc) (r : NReq) (tierB : Bool) (base : Nat) (mm : Option Nat) :
    (s.nmuTake src).residueUnit r tierB base mm = s.residueUnit r tierB base mm := by
  simp only [State.residueUnit, State.unitAt, State.nmuTake_hull]

theorem RTarget.ownedBy_same (t : RTarget) (r : NReq) :
    (t.ownedBy r).next = t.next ∧ (t.ownedBy r).staged = t.staged ∧ (t.ownedBy r).count = t.count := by
  unfold RTarget.ownedBy
  split <;> exact ⟨rfl, rfl, rfl⟩

/-- R209, R212, R383: what becomes of a contribution that fits its target. -/
theorem State.reduceAt_of_fits (mm : Option Nat) (k : s.reduceFits src r pr (s.targetOf r)) :
    s.reduceAt src mm r pr tierB base =
      if s.roomFor r = false then s.reduceHeld (s.heldEntry src r)
      else match s.residueUnit r tierB base mm with
        | some u => (((s.nmuTake src).parts.residue r.hull u).close r)
        | none => s.reduceIn src r tierB base := by
  obtain ⟨hform, hseq, hcount, hfmt, hstart, hnext, hstaged, hhusk⟩ := k
  obtain ⟨ho1, ho2, ho3⟩ := (s.targetOf r).ownedBy_same r
  unfold State.reduceAt
  extract_lets b seq count fresh open_ t others wellFormed e _ v t' _ o
  have ht' : t' = (s.targetOf r).ownedBy r := by
    unfold t' RTarget.ownedBy
    cases r.at_ <;> rfl
  have hwf : wellFormed = true := by
    unfold wellFormed
    split
    case h_1 => rfl
    case h_2 h =>
      obtain ⟨hblock, hrange⟩ := hform h
      rw [hblock, decide_eq_true hrange]
      rfl
  have hrule : ¬ ((!wellFormed) = true ∨ seq ≥ count ∨ t.count ≠ count ∨ t.fmt ≠ fieldLe b 1 1 ∨ t.start ≠ reduceStart b) := by
    rintro (h | h | h | h | h)
    · simp only [hwf, Bool.not_true, Bool.false_eq_true] at h
    · exact Nat.not_lt.mpr h hseq
    · exact h hcount
    · exact h hfmt
    · exact h hstart
  have hturn : ¬ (seq < t.next ∨ (tfind t.staged seq).isSome = true) := by
    rintro (h | h)
    · exact Nat.not_lt.mpr hnext h
    · rw [show tfind t.staged seq = none from hstaged] at h
      cases h
  rw [if_neg hrule, if_neg hturn, hhusk, State.residueUnit_nmuTake]
  by_cases hroom : s.roomFor r = true
  case neg =>
    have hroom' : s.roomFor r = false := by simpa using hroom
    rw [if_pos hroom']
    exact if_pos (by rw [show s.nmuRoom t open_.isNone (decide (seq ≠ t.next)) = false from hroom']; rfl)
  case pos =>
    have hin : ¬ ((!s.nmuRoom t open_.isNone (decide (seq ≠ t.next))) = true) := by
      rw [show s.nmuRoom t open_.isNone (decide (seq ≠ t.next)) = true from hroom]
      decide
    rw [if_neg (show ¬ s.roomFor r = false by rw [hroom]; decide), if_neg hin]
    cases s.residueUnit r tierB base mm with
    | some u => rfl
    | none =>
      clear_value t'
      subst ht'
      have hnext' : ((s.targetOf r).ownedBy r).next = t.next := ho1
      unfold State.reduceIn
      by_cases hs : seq ≠ t.next
      · exact (if_pos (by rw [hnext']; exact hs)).trans (if_pos hs).symm
      · refine (if_neg (by rw [hnext']; exact hs)).trans (Eq.trans ?_ (if_neg hs).symm)
        have ho : o = State.reduceRun tierB base (t.staged.length + 1) v ((s.targetOf r).ownedBy r) r.data :=
          congrArg (fun l : Tbl (List Byte) => State.reduceRun tierB base (l.length + 1) v ((s.targetOf r).ownedBy r) r.data) ho2
        clear_value o
        subst ho
        rw [ho3]
        rfl

end Reduce

/-! ## Lengths of what a part writes -/

theorem elemsOf_length (w n : Nat) (l : List Byte) : (elemsOf w n l).length = n := by
  induction n generalizing l with
  | zero => rfl
  | succ n ih => simp [elemsOf, ih]

theorem flatMap_natLe_length {α : Type} (w : Nat) (f : α → Nat) (l : List α) : (l.flatMap fun a => natLe w (f a)).length = w * l.length := by
  induction l with
  | nil => rfl
  | cons a l ih => simp [ih, Nat.mul_succ, Nat.add_comm]

theorem slice_length (l : List Byte) (a n : Nat) : (slice l a n).length = n := by
  simp only [slice, List.length_append, zeros_length, List.length_take]
  omega

/-- A term's result is no longer than the term. -/
theorem nTerm_length_le (fmt : Nat) (x : Option (List Byte)) (c : List Byte) : (nTerm fmt x c).1.length ≤ c.length := by
  have hbound (m : Nat) (h : m ≤ c.length / nWidth fmt) : nWidth fmt * m ≤ c.length :=
    (Nat.mul_le_mul_left _ h).trans (Nat.mul_div_le ..)
  unfold nTerm
  cases x with
  | none =>
    simp only [flatMap_natLe_length, elems, elemsOf_length]
    exact hbound _ (Nat.le_refl _)
  | some t =>
    simp only [flatMap_natLe_length, List.length_map, List.length_zip, elems, elemsOf_length]
    exact hbound _ (Nat.min_le_right ..)

/-! ## Parts whose blocks pass their checks -/

section Parts

variable {p : Parts} {tierB : Bool} {base : Nat}

theorem State.event_same (s : State) (off bit id : Nat) : s.sameMemory (s.event off bit id) := by
  have hbody : (s.event off bit id).body = s.body := State.event_body ..
  exact ⟨State.event_mem s off bit id, State.of_body State.hulls (fun _ => rfl) hbody,
    State.of_body (·.nmu.failed) (fun _ => rfl) hbody, State.of_body State.board (fun _ => rfl) hbody⟩

/-- A count of an event is no matter of memory. -/
theorem State.eventIf_served {s : State} {h wb : Nat} (b : Bool) (off bit id : Nat) (k : s.served h tierB wb) :
    (if b then s.event off bit id else s).served h tierB wb := by
  cases b with
  | false => exact k
  | true =>
    obtain ⟨u, row, hs⟩ := k
    exact ⟨u, row, (State.event_same s off bit id).servesAt hs⟩

/-- A write of served blocks from a quiet state is kept. -/
theorem Parts.wrote_served {h tensor off : Nat} {bytes : List Byte} (hq : p.st.quiet)
    (k : ∀ i ∈ blocksOf off bytes.length, p.st.served h tierB (base / 4096 + i)) :
    Parts.wrote { p with st := p.st.writeRange h tierB base tensor off bytes } =
      { p with st := p.st.writeRange h tierB base tensor off bytes } :=
  Parts.wrote_of_kept (State.quiet_of_contentless (State.writeRange_served hq.1 k) hq).2.1

/-- R212: what a part of a contribution writes. -/
theorem Parts.put_served {h tensor off n : Nat} {part : List Byte} (fmt : Nat) (x : Option (List Byte)) (hq : p.st.quiet)
    (hlen : part.length = n) (k : ∀ i ∈ blocksOf off n, p.st.served h tierB (base / 4096 + i)) :
    let v := (if (nTerm fmt x part).2 then p.st.event evNmu 3 259 else p.st).writeRange h tierB base tensor off (nTerm fmt x part).1
    Parts.wrote { p with st := v } = { p with st := v } := by
  refine Parts.wrote_served (p := { p with st := if (nTerm fmt x part).2 then p.st.event evNmu 3 259 else p.st })
    (State.quiet_of_mem (State.eventIf_mem ..) hq) fun i hi => State.eventIf_served _ _ _ _ (k i (mem_blocksOf_of_le ?_ hi))
  exact hlen ▸ nTerm_length_le ..

/-- R212: a part of a target's first contribution, whose blocks are served, writes it as its start says. -/
theorem reducePart_first {t : RTarget} {c : List Byte} {k : Nat × Nat × Nat} (hq : p.st.quiet) (hnext : t.next = 0)
    (hserved : ∀ i ∈ blocksOf k.2.1 k.2.2, p.st.served t.hull tierB (base / 4096 + i)) :
    let write := fun (old : Option (List Byte)) =>
      let v := nTerm t.fmt old (slice c (k.2.1 - t.offset) k.2.2)
      ({ p with st := (if v.2 then p.st.event evNmu 3 259 else p.st).writeRange t.hull tierB base t.tensor k.2.1 v.1 } : Parts)
    (t.start = 2 → reducePart t tierB base c p k = write none) ∧
      (t.start = 1 → reducePart t tierB base c p k = write (some (zeros k.2.2))) := by
  refine ⟨fun hstart => ?_, fun hstart => ?_⟩
  · exact (if_pos ⟨hnext, hstart⟩).trans (Parts.put_served _ _ hq (slice_length ..) hserved)
  · exact (if_neg (by omega)).trans ((if_pos ⟨hnext, hstart⟩).trans (Parts.put_served _ _ hq (slice_length ..) hserved))

/-- R212: a part of any other contribution, whose blocks are clean, adds to what they hold. -/
theorem reducePart_of_clean {t : RTarget} {c : List Byte} {k : Nat × Nat × Nat} (hq : p.st.quiet)
    (h2 : ¬ (t.next = 0 ∧ t.start = 2)) (h1 : ¬ (t.next = 0 ∧ t.start = 1))
    (hclean : ∀ i ∈ blocksOf k.2.1 k.2.2, p.st.clean t.hull tierB base t.tensor i) :
    let v := nTerm t.fmt (some (p.st.readRange t.hull tierB base t.tensor k.2.1 k.2.2).data) (slice c (k.2.1 - t.offset) k.2.2)
    reducePart t tierB base c p k =
      { p with st := (if v.2 then p.st.event evNmu 3 259 else p.st).writeRange t.hull tierB base t.tensor k.2.1 v.1 } := by
  intro v
  obtain ⟨hst, hbad⟩ := State.readRange_clean hq.1 hclean
  unfold reducePart
  simp only [h2, h1, if_false, hst, hbad]
  exact Parts.put_served _ _ hq (slice_length ..) fun i hi => (hclean i hi).served

/-- R188: a row whose blocks are clean is added to what they hold. -/
theorem scatterRow_of_clean {r : NReq} {st : Byte} {size fmt j i : Nat} (hq : p.st.quiet) (hin : r.desc.offset + 32 * i + 32 ≤ size)
    (hclean : ∀ b ∈ blocksOf (r.desc.offset + 32 * i) 32, p.st.clean r.hull tierB base r.desc.tensor b) :
    let off := r.desc.offset + 32 * i
    let v := nTerm fmt (some (p.st.readRange r.hull tierB base r.desc.tensor off 32).data) (slice r.data (32 * j) 32)
    scatterRow r size fmt tierB base none (p, st) (j, i) =
      ({ p with st := (if v.2 then p.st.event evNmu 3 259 else p.st).writeRange r.hull tierB base r.desc.tensor off v.1 }, st) := by
  intro off v
  obtain ⟨hst, hbad⟩ := State.readRange_clean hq.1 hclean
  unfold scatterRow
  simp only [Nat.not_lt.mpr hin, if_false, hst, hbad]
  simp only [reduceCtorEq, if_false]
  exact congrArg (·, st) (Parts.put_served fmt _ hq (slice_length ..) fun i hi => (hclean i hi).served)

end Parts

/-! ## The operands of an update -/

section Update

variable {s : State} {h : Nat} {pr : Prog} {d : Desc}

/-- The bytes of an operand's range. -/
def State.operand (s : State) (h : Nat) (pr : Prog) (q : Nat × Nat × Nat) : List Byte :=
  match pr.memPlace q.1 with
  | some (tierB, base) => (s.readRange h tierB base q.1 q.2.1 q.2.2).data
  | none => []

/-- Operands in clean blocks are read whole. -/
theorem readAll_of_clean (hm : s.mem.meets = []) (l : List (Nat × Nat × Nat)) (k : ∀ q ∈ l, s.cleanRange h pr q.1 q.2.1 q.2.2) :
    readAll h pr l s = (s, l.map (s.operand h pr), none) := by
  induction l with
  | nil => rfl
  | cons q l ih =>
    obtain ⟨t, o, n⟩ := q
    obtain ⟨tierB, base, hplace, hclean⟩ := k _ (.head _)
    obtain ⟨hst, hbad⟩ := State.readRange_clean hm hclean
    unfold readAll
    simp only [hplace, hst, hbad, ih fun q hq => k q (.tail _ hq), List.map_cons, State.operand]

/-- The same clean blocks are the same operands. -/
theorem State.sameMemory.cleanRange {v : State} {tensor off len : Nat} (k : s.sameMemory v) (hc : s.cleanRange h pr tensor off len) :
    v.cleanRange h pr tensor off len := by
  obtain ⟨tierB, base, hplace, hclean⟩ := hc
  exact ⟨tierB, base, hplace, fun i hi => k.clean (hclean i hi)⟩

theorem State.sameMemory.operand {v : State} {q : Nat × Nat × Nat} (k : s.sameMemory v) (hm : s.mem.meets = [])
    (hc : s.cleanRange h pr q.1 q.2.1 q.2.2) : v.operand h pr q = s.operand h pr q := by
  obtain ⟨tierB, base, hplace, hclean⟩ := hc
  simp only [State.operand, hplace, k.readRange hm hclean]

/-- A moment's range holds four bytes an element. -/
theorem updateRanges_moment {k t o n : Nat} (hk : (updateRanges d)[k + 2]? = some (t, o, n)) :
    n = d.length * 4 / nWidth (fieldLe d.block 1 1) := by
  have hmem : (t, o, n) ∈ (updateRanges d).drop 2 := by
    refine List.mem_of_getElem? (i := k) ?_
    rw [List.getElem?_drop, Nat.add_comm]
    exact hk
  simp only [updateRanges, List.cons_append, List.nil_append, List.drop_succ_cons, List.drop_zero, List.mem_append] at hmem
  rcases hmem with h | h
  all_goals
    split at h
    · simp_all
    · simp_all

theorem updateOut_length (x : Hull) (ops : List (List Byte)) : (updateOut x d ops).length = d.length / nWidth (fieldLe d.block 1 1) := by
  simp [updateOut]

/-- An operand written to served blocks, no further than its range. -/
theorem State.writeOperand_served {v : State} {t o n : Nat} {tierB : Bool} {base : Nat} {bytes : List Byte} (hm : s.mem.meets = [])
    (hv : v.contentless = s.contentless) (hplace : pr.memPlace t = some (tierB, base)) (k : s.cleanRange h pr t o n) (hn : bytes.length ≤ n) :
    (v.writeRange h tierB base t o bytes).contentless = s.contentless := by
  obtain ⟨tierB', base', hplace', hclean⟩ := k
  obtain ⟨rfl, rfl⟩ : tierB' = tierB ∧ base' = base := by simpa using hplace'.symm.trans hplace
  have hmv : v.mem.meets = [] := (congrArg (·.mem.meets) hv :).trans hm
  refine (State.writeRange_served hmv fun i hi => ?_).trans hv
  exact State.served_of_contentless hv (hclean i (mem_blocksOf_of_le hn hi)).served

/-- R215: an update writes p and its moments to served blocks, and nothing else. -/
theorem State.updateWrite_served {tierB : Bool} {base : Nat} (hm : s.mem.meets = []) (hplace : pr.memPlace d.tensor = some (tierB, base))
    (k : ∀ q ∈ updateRanges d, s.cleanRange h pr q.1 q.2.1 q.2.2) (x : Hull) (ops : List (List Byte)) :
    (s.updateWrite h pr tierB base d (updateOut x d ops)).contentless = s.contentless := by
  unfold State.updateWrite
  extract_lets rs w v put
  have hv : v.contentless = s.contentless := by
    refine State.writeOperand_served hm rfl hplace (k (d.tensor, d.offset, d.length) (.head _)) ?_
    rw [flatMap_natLe_length, updateOut_length]
    exact Nat.mul_div_le ..
  have hput (v : State) (n : Nat) (f : Nat × Nat → Nat) (hv : v.contentless = s.contentless) :
      (put v (n + 2) f).contentless = s.contentless := by
    unfold put
    split
    case h_1 t o len hq =>
      split
      case h_1 tb bs hp =>
        refine State.writeOperand_served hm hv hp (k _ (List.mem_of_getElem? hq)) ?_
        rw [flatMap_natLe_length, updateOut_length, updateRanges_moment hq, Nat.mul_comm d.length 4]
        exact Nat.mul_div_le_mul_div_assoc ..
      case h_2 => exact hv
    case h_2 => exact hv
  exact hput _ 1 _ (hput _ 0 _ hv)

end Update

/-- R207: a range within one block is one part. -/
theorem partsOf_one {off len : Nat} (h : blocksOf off len = [off / 4096]) : partsOf off len = [(off / 4096, off, len)] := by
  have hend : off + len ≤ 4096 * (off / 4096 + 1) := by
    unfold blocksOf at h
    split at h
    case isTrue => cases h
    case isFalse hlen =>
      have hcount := congrArg List.length h
      rw [upFrom_length] at hcount
      simp only [List.length_cons, List.length_nil] at hcount
      omega
  have hlo : max off (4096 * (off / 4096)) = off := by omega
  have hhi : min (off + len) (4096 * (off / 4096 + 1)) - off = len := by omega
  simp only [partsOf, h, List.map_cons, List.map_nil, hlo, hhi]

/-- R215: an update within one block of p whose operands are clean writes p and its moments. -/
theorem updatePart_of_clean {p : Parts} {r : NReq} {pr : Prog} {tierB : Bool} {base : Nat} (hq : p.st.quiet)
    (hplace : pr.memPlace r.desc.tensor = some (tierB, base))
    (k : ∀ q ∈ updateRanges r.desc, p.st.cleanRange r.hull pr q.1 q.2.1 q.2.2) :
    let v := p.st.updateWrite r.hull pr tierB base r.desc
      (updateOut (p.st.hull r.hull) r.desc ((updateRanges r.desc).map (p.st.operand r.hull pr)))
    updatePart r pr tierB base none p (r.desc.offset / 4096, r.desc.offset, r.desc.length) = { p with st := v } ∧ v.quiet := by
  intro v
  have hv : v.quiet := State.quiet_of_contentless (State.updateWrite_served hq.1 hplace k _ _) hq
  refine ⟨?_, hv⟩
  unfold updatePart
  simp only [readAll_of_clean hq.1 _ k, reduceCtorEq, if_false]
  exact Parts.wrote_of_kept hv.2.1

/-! ## The statements -/

/-- Settles O24: a ready request is run as its operation says, and a part whose blocks are clean is read whole and written whole. -/
theorem nearMemoryArithmeticCompletes : Obligations.NearMemoryArithmeticCompletes := by
  refine ⟨?requests, ?reduced, ?scattered⟩
  case requests =>
    intro raw src r pr tierB base s d s'
    have htake {v : State} (h : v.calm) : (v.nmuTake src).calm := State.calm_of_mem (State.nmuTake_mem ..) h
    refine ⟨?reduce, ?update, ?scatter⟩
    case reduce =>
      intro mm hready hfits hroom hseq
      have hat := State.reduceAt_of_fits (tierB := tierB) (base := base) mm hfits
      rw [if_neg (by rw [hroom]; decide)] at hat
      refine ⟨fun hres => ?_, fun u hres => ?_⟩
      · rw [hres] at hat
        refine congrArg Host.Outcome.next (State.nmu_done hready (hat.trans ?_) (State.reduceTaken_calm src r hready.calm))
        exact if_neg (by rw [hseq]; simp)
      · rw [hres] at hat
        exact congrArg Host.Outcome.next (State.nmu_done hready hat
          (Parts.close_calm _ (Parts.residue_calm _ _ (htake hready.calm))))
    case update =>
      intro mm hready inRange
      have hquiet : s'.quiet := State.quiet_of_mem (State.nmuTake_mem ..) ⟨rfl, rfl, rfl⟩
      refine ⟨fun hwait => ?_, fun htwin hfeed => ?_⟩
      · exact congrArg Host.Outcome.next (State.nmu_done_quiet hready (if_pos (Bool.or_eq_true_iff.mpr hwait)) ⟨rfl, rfl, rfl⟩)
      have hgo : ¬ (s.twinWait r.hull d.tensor || pr.feedWait d) = true := by rw [htwin, hfeed]; decide
      refine ⟨fun hout => ?_, fun hin => ?_, fun hin hmm hone hclean => ?_⟩
      · refine congrArg Host.Outcome.next (State.nmu_done_quiet hready ((if_neg hgo).trans (if_pos ?_))
          (State.quiet_of_mem (State.nmuEnd_mem ..) hquiet))
        exact congrArg (!·) hout
      · refine congrArg Host.Outcome.next (State.nmu_done hready ((if_neg hgo).trans (if_neg ?_)) (Parts.close_calm _ ?_))
        · exact fun hout => absurd ((congrArg (!·) hin :).symm.trans hout) (by decide)
        · exact foldl_parts_calm (fun p k hp => updatePart_calm r pr mm k hp) _ (htake hready.calm)
      · intro ops
        subst hmm
        obtain ⟨-, -, -, hplace, -⟩ := id hready
        have hsame : s.sameMemory s' := State.nmuTake_same s src
        have hops : (updateRanges d).map (s'.operand r.hull pr) = ops :=
          List.map_congr_left fun q hq => hsame.operand rfl (hclean q hq)
        have hvals : updateOut (s'.hull r.hull) d ((updateRanges d).map (s'.operand r.hull pr)) = updateOut (s.hull r.hull) d ops := by
          rw [hops, State.nmuTake_hull]
        obtain ⟨hpart, hv⟩ := updatePart_of_clean (p := s'.parts) hquiet hplace fun q hq => hsame.cleanRange (hclean q hq)
        have hrun : (r.parts.foldl (updatePart r pr tierB base none) s'.parts).close r =
            (s'.updateWrite r.hull pr tierB base d (updateOut (s.hull r.hull) d ops)).nmuEnd r sDONE := by
          rw [NReq.parts, partsOf_one hone]
          exact (congrArg (Parts.close · r) hpart).trans (congrArg (fun o => (s'.updateWrite r.hull pr tierB base d o).nmuEnd r sDONE) hvals)
        refine congrArg Host.Outcome.next (State.nmu_done_quiet hready ((if_neg hgo).trans ((if_neg ?_).trans hrun)) ?_)
        · exact fun hout => absurd ((congrArg (!·) hin :).symm.trans hout) (by decide)
        · refine State.quiet_of_mem (State.nmuEnd_mem ..) ?_
          exact (congrArg (fun o => (s'.updateWrite r.hull pr tierB base d o).quiet) hvals).mp hv
    case scatter =>
      intro mm hready n tile o
      refine congrArg Host.Outcome.next (State.nmu_done hready rfl (Parts.close_calm _ ?_))
      refine List.foldlRecOn (motive := fun a : Parts × Byte => a.1.st.calm) _ _ (htake hready.calm) fun a ha ix _ => ?_
      exact scatterRow_calm r _ _ _ a.2 ix ha
  case reduced =>
    intro p t tierB base c k hq first hblocks hstart old v
    by_cases h2 : t.next = 0 ∧ t.start = 2
    case pos =>
      have hfirst : first := ⟨h2.1, by omega⟩
      have hserved i hi := (if_pos hfirst).mp (hblocks i hi)
      simp only [v, old, if_pos h2]
      exact (reducePart_first hq h2.1 hserved).1 h2.2
    case neg =>
      by_cases h1 : t.next = 0 ∧ t.start = 1
      case pos =>
        have hfirst : first := ⟨h1.1, by omega⟩
        have hserved i hi := (if_pos hfirst).mp (hblocks i hi)
        simp only [v, old, if_neg h2, if_pos h1]
        exact (reducePart_first hq h1.1 hserved).2 h1.2
      case neg =>
        have hlater : ¬ first := fun hfirst => by omega
        have hclean i hi := (if_neg hlater).mp (hblocks i hi)
        simp only [v, old, if_neg h2, if_neg h1]
        exact reducePart_of_clean hq h2 h1 hclean
  case scattered =>
    intro p r st size fmt tierB base j i hq off
    refine ⟨fun hout => ?_, fun hin hclean => scatterRow_of_clean hq hin hclean⟩
    exact if_pos hout

/-! ## Contributions in their order -/

section Order

variable {s : State} {src : NmuSrc} {r : NReq} {pr : Prog} {tierB : Bool} {base : Nat}

/-- A request found for a descriptor is that of its queue. -/
theorem State.nmuFind_desc {op t q slot : Nat} (h : s.nmuFind op (.desc t q slot) = some r) :
    r.at_ = some (t, q, slot) ∧ ((s.tile t).queue q).descs[slot]? = some r.desc := by
  simp only [State.nmuFind] at h
  split at h
  case h_1 d hd =>
    split at h
    case isTrue =>
      cases h
      exact ⟨rfl, hd⟩
    case isFalse => cases h
  case h_2 => cases h

@[simp] theorem State.descIssued_store (t q slot : Nat) : ((s.descIssued t q slot).tile t).store = (s.tile t).store := by
  simp only [State.descIssued, State.updTile, State.setTile_same]
  split <;> rfl

/-- What an entry stands for is held as that entry again (R209). -/
theorem State.heldEntry_of_heldSrc {op : Nat} {e : HeldReq} (hsrc : s.heldSrc e = some src) (hfind : s.nmuFind op src = some r) :
    s.heldEntry src r = e := by
  cases e with
  | desc t q im =>
    obtain ⟨k, hk, rfl⟩ := Option.map_eq_some_iff.mp hsrc
    obtain ⟨hlt, hd, -⟩ := List.findIdx?_eq_some_iff_getElem.mp hk
    obtain ⟨-, hdesc⟩ := State.nmuFind_desc hfind
    have hr : ((s.tile t).queue q).descs[k] = r.desc := Option.some.inj ((List.getElem?_eq_getElem hlt).symm.trans hdesc)
    rw [hr] at hd
    have him : r.desc.image = im := by simp_all
    exact congrArg (HeldReq.desc t q) him
  | msg f c e =>
    obtain ⟨k, hk, rfl⟩ := Option.map_eq_some_iff.mp hsrc
    obtain ⟨hlt, hm, -⟩ := List.findIdx?_eq_some_iff_getElem.mp hk
    simp only [Bool.and_eq_true, beq_iff_eq] at hm
    obtain ⟨⟨hf, hc⟩, he⟩ := hm
    simp only [State.heldEntry, List.getElem?_eq_getElem hlt, hf, hc, he]

/-- R209: held request `k` is offered again, as it first came. -/
def State.offerHeld (s : State) (k : Nat) : State :=
  match s.nmu.held[k]? with
  | some e =>
    let src := s.heldSrc e
    let s := { s with nmu := { s.nmu with held := dropAt s.nmu.held k } }
    match src with
    | some src => s.nmuRun 1 src fun s r pr tierB base => s.reduceAt src none r pr tierB base
    | none => s
  | none => s

theorem State.offerHeld_src {k : Nat} {e : HeldReq} (hk : s.nmu.held[k]? = some e) (hsrc : s.heldSrc e = some src) :
    s.offerHeld k = State.nmuRun { s with nmu := { s.nmu with held := dropAt s.nmu.held k } } 1 src
      fun s r pr tierB base => s.reduceAt src none r pr tierB base := by
  simp only [State.offerHeld, hk, hsrc]

/-- R214: a contribution that is there already is refused. -/
theorem State.reduceAt_of_dup {at_ : Nat × Nat × Nat} (mm : Option Nat) (hat : r.at_ = some at_)
    (hseq : reduceSeq r.desc.block < reduceCount r.desc.block) (hcount : (s.targetOf r).count = reduceCount r.desc.block)
    (hfmt : (s.targetOf r).fmt = fieldLe r.desc.block 1 1) (hstart : (s.targetOf r).start = reduceStart r.desc.block)
    (hdup : reduceSeq r.desc.block < (s.targetOf r).next ∨ (tfind (s.targetOf r).staged (reduceSeq r.desc.block)).isSome = true) :
    s.reduceAt src mm r pr tierB base = (s.nmuTake src).reduceRefuse r true := by
  unfold State.reduceAt
  extract_lets b seq count fresh open_ t others wellFormed e _ v t' _ o
  have hwf : wellFormed = true := by
    unfold wellFormed
    rw [hat]
  refine (if_neg ?_).trans (if_pos hdup)
  rintro (h | h | h | h | h)
  · rw [hwf] at h
    cases h
  · exact Nat.not_lt.mpr h hseq
  · exact h hcount
  · exact h hfmt
  · exact h hstart

theorem State.meeting_of_quiet {f : State → State} {v : State} (hf : f s.settled = v) (hv : v.quiet) : s.meeting [] f = v := by
  rw [State.meeting_done s _ (by rw [hf]; exact hv.2.2), hf, State.settled_of_quiet hv]

@[simp] theorem State.reduceHeld_mem (e : HeldReq) : (s.reduceHeld e).mem = s.mem := by
  unfold State.reduceHeld
  split <;> rfl

end Order

/-- Settles O25: a held entry is found again as the request that it was held for, and its target decides what becomes of it. -/
theorem contributionsTakeEffectInTheirOrder : Obligations.ContributionsTakeEffectInTheirOrder := by
  refine ⟨?released, ?absent, ?offered⟩
  case released =>
    intro raw k e hk s v
    have hquiet : v.quiet := ⟨rfl, rfl, rfl⟩
    have hheld : s.nmu.held[k]? = some e := hk
    refine ⟨fun hsrc => ?_, fun src r pr tierB base hsrc hready hfits => ?_⟩
    · refine congrArg Host.Outcome.next (State.meeting_of_quiet (f := (State.offerHeld · k)) (s := raw) ?_ hquiet)
      simp only [State.offerHeld, show raw.settled = s from rfl, hheld, hsrc]
      rfl
    · have hrun : s.offerHeld k = v.reduceAt src none r pr tierB base := (State.offerHeld_src hheld hsrc).trans (State.nmuRun_of_ready hready _)
      have hat := State.reduceAt_of_fits (tierB := tierB) (base := base) none hfits
      obtain ⟨hhold, hfind, -⟩ := id hready
      refine ⟨fun hroom hturn => ?_, fun hroom hnew => ?_⟩
      · rw [if_neg (by rw [hroom]; decide)] at hat
        refine congrArg Host.Outcome.next (State.meeting_of_calm (f := (State.offerHeld · k)) (hrun.trans (hat.trans ?_)) (State.reduceTaken_calm src r ⟨hhold, rfl, rfl⟩))
        exact if_neg (by rw [hturn]; simp)
      · rw [if_pos hroom, State.heldEntry_of_heldSrc (s := v) hsrc hfind] at hat
        refine congrArg Host.Outcome.next (State.meeting_of_quiet (f := (State.offerHeld · k)) (s := raw) (hrun.trans (hat.trans ?_)) ⟨rfl, rfl, rfl⟩)
        exact if_neg (by rw [hnew]; decide)
  case absent =>
    intro s k m hk
    have hheld : ({ s with mem := { s.mem with meets := m, lost := false, stuck := false } } : State).nmu.held[k]? = none := hk
    refine congrArg Host.Outcome.next (Eq.trans (b := s.meeting m (State.offerHeld · k)) rfl ?_)
    simp only [State.meeting, State.offerHeld, hheld]
    rfl
  case offered =>
    intro raw src r pr tierB base t q slot s hready hsrc g seq
    subst hsrc
    obtain ⟨-, hfind, -⟩ := id hready
    obtain ⟨hat, -⟩ := State.nmuFind_desc hfind
    refine ⟨fun hfits hroom hahead => ?_, fun hfits hroom => ?_, fun hseq hcount hfmt hstart hdup mm => ?_⟩
    · have hin := State.reduceAt_of_fits (tierB := tierB) (base := base) none hfits
      rw [if_neg (by rw [hroom]; decide)] at hin
      have hstaged := hin.trans (if_pos (Nat.ne_of_gt hahead))
      refine ⟨_, congrArg Host.Outcome.next (State.nmu_done_quiet hready hstaged ⟨rfl, rfl, rfl⟩), rfl, rfl, rfl, rfl, ?_, ?_, ?_⟩
      · intro i hi
        exact State.setTile_other s t _ hi
      · exact State.descIssued_store ..
      · refine List.mem_append_right _ ?_
        rw [RTarget.ownedBy, hat]
        exact .head _
    · have hheld := State.reduceAt_of_fits (tierB := tierB) (base := base) none hfits
      rw [if_pos hroom] at hheld
      exact congrArg Host.Outcome.next (State.nmu_done_quiet hready hheld (State.quiet_of_mem (State.reduceHeld_mem _) ⟨rfl, rfl, rfl⟩))
    · intro v x
      refine congrArg Host.Outcome.next (State.nmu_done_quiet hready
        ((State.reduceAt_of_dup mm hat hseq hcount hfmt hstart hdup).trans ?_) ?_)
      · simp only [State.reduceRefuse, hat]
        rfl
      · refine State.quiet_of_mem ((State.nmuEnd_mem ..).trans ((State.event_mem ..).trans ?_)) (s := s) ⟨rfl, rfl, rfl⟩
        rfl

end Sys2Proof.Machine
end

section
/-!
PROOFS. Ausolin engines: the operation at the head of a queue, refusals and write-back (O26, O27), and the bounds of the solver loop
(O28).
-/

namespace Sys2Proof.Machine

/-! ## Results at the head of a queue -/

section Head

variable {s : State} {a op : Nat} {c : ACmd} {st : AStruct}

/-- A command finished on changed structures is answered with them. -/
theorem State.ausFinish_structs (s : State) (a : Nat) (structs : Tbl AStruct) (c : ACmd) :
    (s.setEng a { s.eng a with structs := structs }).ausFinish a c = s.ausAnswers a structs c := by
  simp only [State.ausFinish, State.ausAnswers, State.setEng_same, State.setEng_twice]

/-- R250: a refused command is answered with the structures as they were. -/
theorem State.ausRefuse_eq (s : State) (a : Nat) (c : ACmd) :
    s.ausRefuse a c = s.ausAnswers a (s.eng a).structs { c with status := sBADPARAM, cause := 0, panel := 0xFFFFFFFF } := rfl

/-- An operation is performed on the structure that its handle names. -/
theorem State.ausOp_of_struct (f : AStruct → ACmd → List Byte → ARes) (hhead : s.ausHead a op = some c)
    (hblock : ausBlockOk c.block c.tile.isSome = true) (hst : tfind (s.eng a).structs c.handle = some st)
    (hok : ausStructOk c.block st = true) :
    s.ausOp a op .ok f =
      s.ausAnswers a (tput (s.eng a).structs c.handle (f st c (s.ausInput a c)).st) (c.withRes (f st c (s.ausInput a c))) := by
  simp only [State.ausOp, hhead, hst, hblock, hok]
  exact State.ausFinish_structs ..

/-- R250: an operation whose handle names no structure is refused. -/
theorem State.ausOp_of_empty (e : AusErr) (f : AStruct → ACmd → List Byte → ARes) (hhead : s.ausHead a op = some c)
    (hst : tfind (s.eng a).structs c.handle = none) : s.ausOp a op e f = s.ausRefuse a c := by
  simp only [State.ausOp, hhead, hst]

end Head

/-- Settles O26: by operation, each on the structure that `ausOp` finds, loads or frees. -/
theorem engineOperationsComplete : Obligations.EngineOperationsComplete := by
  intro s a op c st hhead hblock x done
  refine ⟨fun hst hok => ?performed, fun hop hparse hfree hshort => ?load, fun hop st' n hst hdelta => ?delta, fun hop hst => ?free⟩
  case performed =>
    refine ⟨?_, ?_, ?_, ?_, ?_, ?_⟩
    all_goals
      rintro rfl
      exact congrArg Host.Outcome.next (State.ausOp_of_struct _ hhead hblock hst hok)
  case load =>
    subst hop
    refine congrArg Host.Outcome.next ?_
    have hroom : ((tfind (s.eng a).structs c.handle).isSome || decide (0 < (s.eng a).loadShort st)) = false := by
      rw [hfree, hshort]
      rfl
    simp only [hhead, hblock, hparse, State.ausMeet, hroom, Bool.false_eq_true, if_false]
    exact State.ausFinish_structs ..
  case delta =>
    subst hop
    refine congrArg Host.Outcome.next ?_
    have hfind : tfind (s.eng a).structs c.handle = some st := hst
    simp only [hhead, hfind, hblock, Option.bind_some, hdelta, State.ausMeet]
    exact State.ausFinish_structs ..
  case free =>
    subst hop
    refine congrArg Host.Outcome.next ?_
    have hfind : tfind (s.eng a).structs c.handle = some st := hst
    simp only [hhead, hfind, hblock]
    exact State.ausFinish_structs ..

/-! ## Write-back -/

section Kept

variable {s : State} {a : Nat}

@[simp] theorem State.ausWriteStart_mem (s : State) (a : Nat) (c : ACmd) : (s.ausWriteStart a c).mem = s.mem := rfl

@[simp] theorem State.regOr_mem (s : State) (off x : Nat) : (s.regOr off x).mem = s.mem := rfl

@[simp] theorem State.ausCount_mem (s : State) (a : Nat) (st : Byte) (n : Nat) : (s.ausCount a st n).mem = s.mem := by
  unfold State.ausCount
  extract_lets e e' ev
  have hev (v : State) (bit id : Nat) : (ev v bit id).mem = v.mem := (State.regOr_mem ..).trans (State.event_mem ..)
  split
  case isTrue => rfl
  case isFalse =>
    split
    case isTrue => exact hev ..
    case isFalse =>
      split
      case isTrue => exact hev ..
      case isFalse =>
        split
        case isTrue => exact hev ..
        case isFalse => rfl

@[simp] theorem State.ausFinish_mem (s : State) (a : Nat) (c : ACmd) : (s.ausFinish a c).mem = s.mem := by
  unfold State.ausFinish
  extract_lets e c' v
  rw [State.ausCount_mem]
  split <;> rfl

@[simp] theorem State.ausSettle_mem (s : State) (a : Nat) : (s.ausSettle a).mem = s.mem := by
  unfold State.ausSettle
  extract_lets e
  split
  case h_1 => rfl
  case h_2 =>
    split
    case isTrue => exact State.ausFinish_mem ..
    case isFalse => rfl

/-- An engine with an empty queue is idle. -/
theorem State.ausSettle_empty (h : (s.eng a).queue = []) :
    s.ausSettle a = s.setEng a { s.eng a with fetched := [], settle := 0, phase := 0, left := 0 } := by
  unfold State.ausSettle
  extract_lets e
  split
  case h_1 => rfl
  case h_2 c rest hq => exact absurd (hq.symm.trans h) (List.cons_ne_nil _ _)

@[simp] theorem State.ausReply_mem (s : State) (a : Nat) (c : ACmd) (d : Cmd) : (s.ausReply a c d).mem = s.mem := by
  unfold State.ausReply
  split
  case isTrue => exact State.reply_mem ..
  case isFalse =>
    split
    case h_1 => exact State.reply_mem ..
    case h_2 => split <;> exact State.reply_mem ..
    case h_3 => exact State.reply_mem ..

/-- A write of a window whose blocks are served changes nothing but their content. -/
theorem State.winWrite_served {h off : Nat} {tierB : Bool} {bytes : List Byte} (hm : s.mem.meets = [])
    (k : ∀ i ∈ blocksOf off bytes.length, s.served h tierB i) : (s.winWrite h tierB off bytes).contentless = s.contentless :=
  State.foldl_served (base := 0) _
    (fun v i hv ks => State.storeBlk_served hv (by simpa only [Nat.zero_div, Nat.zero_add] using ks) ..) hm
    (fun i hi => by simpa only [Nat.zero_div, Nat.zero_add] using k i hi)

end Kept

/-! ## A finished command leaves its engine -/

section Complete

variable {s : State} {a : Nat} {c : ACmd} {rest : List ACmd}

/-- What the end of write-back does outside the engine (R248, R249, R254): the signal, the reply, or the output in the window. -/
def State.ausDeliver (s : State) (a : Nat) (c : ACmd) : State :=
  match c.tile with
  | some _ =>
    let sig := fieldLe c.block 2 1 % 2 == 1
    let home := match tfind s.sync (fieldLe c.block 4 2 % 2 ^ 14) with
      | some o => o.pod == a / 2 && o.hull == c.hull
      | none => false
    if sig && home then (s.signalCounter (fieldLe c.block 4 2 % 2 ^ 14)).1 else s
  | none =>
    match c.owed with
    | some d => s.ausReply a c d
    | none => s.winWrite c.hull true c.outOff c.output

/-- The engine turns to the next command, with the result kept of one that a tile or a reply does not take. -/
def State.ausLeave (s : State) (a : Nat) (c : ACmd) (rest : List ACmd) : State :=
  let e := s.eng a
  let c := if s.mem.lost then { c with status := sFAULT } else c
  let res := if c.tile.isNone ∧ c.owed.isNone then (c :: e.results).take 16 else e.results
  (s.setEng a { e with queue := rest, results := res }).ausSettle a

/-- ENGINE_COMPLETE of a command whose write-back has ended. -/
theorem State.engineComplete_eq {raw : State} (hruns : raw.settled.engineRuns a = true) (hq : (raw.settled.eng a).queue = c :: rest)
    (hphase : (raw.settled.eng a).phase = 3) (hleft : (raw.settled.eng a).left = 0) (hsettle : (raw.settled.eng a).settle = 0)
    {v : State} (hv : (raw.settled.ausDeliver a c).ausLeave a c rest = v) (hquiet : v.quiet) :
    exec (.engineComplete a) raw = .next v := by
  refine congrArg Host.Outcome.next (State.meeting_of_quiet ?_ hquiet)
  have hwork : ¬ ((raw.settled.eng a).phase ≠ 3 ∨ (raw.settled.eng a).left ≠ 0 ∨ (raw.settled.eng a).settle ≠ 0 ∨
      raw.settled.engineRuns a = false) := by
    simp [hphase, hleft, hsettle, hruns]
  simp only [hq, hwork, if_false]
  exact hv

theorem State.ausLeave_mem (s : State) (a : Nat) (c : ACmd) (rest : List ACmd) : (s.ausLeave a c rest).mem = s.mem :=
  State.ausSettle_mem ..

/-- A command of a tile, or one that owes a reply, keeps no result. -/
theorem State.ausLeave_taken (h : c.tile.isSome = true ∨ c.owed.isSome = true) :
    s.ausLeave a c rest = (s.setEng a { s.eng a with queue := rest }).ausSettle a := by
  unfold State.ausLeave
  extract_lets e c' res
  have hc : c'.tile = c.tile ∧ c'.owed = c.owed := by
    unfold c'
    split <;> exact ⟨rfl, rfl⟩
  obtain ⟨htile, howed⟩ := hc
  have hres : res = e.results := by
    refine if_neg ?_
    rw [htile, howed]
    rintro ⟨h1, h2⟩
    rcases h with h | h
    · rw [Option.isNone_iff_eq_none.mp h1] at h
      cases h
    · rw [Option.isNone_iff_eq_none.mp h2] at h
      cases h
  rw [hres]

/-- A command of the firmware path leaves its result. -/
theorem State.ausLeave_kept (hlost : s.mem.lost = false) (htile : c.tile = none) (howed : c.owed = none) :
    s.ausLeave a c rest = (s.setEng a { s.eng a with queue := rest, results := (c :: (s.eng a).results).take 16 }).ausSettle a := by
  unfold State.ausLeave
  extract_lets e c' res
  have hc : c' = c := if_neg (by rw [hlost]; decide)
  clear_value c'
  subst hc
  have hres : res = (c' :: e.results).take 16 := if_pos ⟨by rw [htile]; rfl, by rw [howed]; rfl⟩
  rw [hres]

end Complete

/-- Settles O27: a refusal keeps the structures, and a finished command is delivered and leaves its engine. -/
theorem engineRefusesEmptyHandlesAndWritesBack : Obligations.EngineRefusesEmptyHandlesAndWritesBack := by
  refine ⟨?refused, ?complete⟩
  case refused =>
    intro s a op c e hhead hst u
    refine ⟨?delta, ?_, ?_, ?_, ?_, ?_, ?_, ?free⟩
    case delta =>
      rintro rfl
      refine congrArg Host.Outcome.next ?_
      simp only [hhead, hst, Option.bind_none]
      rfl
    case free =>
      rintro rfl
      refine congrArg Host.Outcome.next ?_
      simp only [hhead, hst]
      rfl
    all_goals
      rintro rfl
      exact congrArg Host.Outcome.next (State.ausOp_of_empty e _ hhead hst)
  case complete =>
    intro raw a c rest s hruns hq hphase hleft hsettle hhold
    refine ⟨fun htile howed hrest hserved => ?_, fun t htile => ?_, fun d htile howed => ?_⟩
    · have hdel : s.ausDeliver a c = s.winWrite c.hull true c.outOff c.output := by
        simp only [State.ausDeliver, htile, howed]
      have hw : (s.ausDeliver a c).contentless = s.contentless := hdel ▸ State.winWrite_served rfl hserved
      have hquiet : (s.ausDeliver a c).quiet := State.quiet_of_contentless hw ⟨rfl, rfl, rfl⟩
      have heng : (s.ausDeliver a c).eng a = s.eng a := (congrArg (·.eng a) hw :)
      subst hrest
      refine ⟨_, State.engineComplete_eq hruns hq hphase hleft hsettle rfl (State.quiet_of_mem (State.ausLeave_mem ..) hquiet), ?_⟩
      generalize s.ausDeliver a c = d at *
      have hleave : (d.ausLeave a c []) = _ := (State.ausLeave_kept hquiet.2.1 htile howed).trans (State.ausSettle_empty (by rw [State.setEng_same]))
      rw [hleave, State.setEng_same, State.setEng_twice]
      refine ⟨?_, ?_, ?_, ?_, ?_, ?_, ?_, ?_⟩
      · rw [State.setEng_same]
      · rw [State.setEng_same]
      · rw [State.setEng_same, heng]
      · rw [State.setEng_same]
        exact .head _
      · exact (congrArg State.sync hw :)
      · exact (congrArg State.pods hw :)
      · exact (congrArg State.tiles hw :)
      · exact (congrArg State.hulls hw :)
    · intro id home v
      have hdel : s.ausDeliver a c = v := by
        simp only [State.ausDeliver, htile]
        exact if_congr ((Bool.and_eq_true ..).to_iff.trans (and_congr_left fun _ => beq_iff_eq)) rfl rfl
      have hmem : v.mem = s.mem := by
        unfold v
        split
        case isTrue => exact State.signalCounter_mem ..
        case isFalse => rfl
      refine State.engineComplete_eq hruns hq hphase hleft hsettle ?_ ?_
      · rw [hdel]
        exact State.ausLeave_taken (.inl (by rw [htile]; rfl))
      · exact State.quiet_of_mem ((State.ausSettle_mem ..).trans hmem) (s := s) ⟨rfl, rfl, rfl⟩
    · intro v
      have hdel : s.ausDeliver a c = v := by
        simp only [State.ausDeliver, htile, howed]
        rfl
      refine State.engineComplete_eq hruns hq hphase hleft hsettle ?_ ?_
      · rw [hdel]
        exact State.ausLeave_taken (.inr (by rw [howed]; rfl))
      · refine State.quiet_of_mem ((State.ausSettle_mem ..).trans (State.ausReply_mem ..)) (s := s) ⟨rfl, rfl, rfl⟩

/-! ## The solver loop -/

/-- What R244 says of the end of a loop of which iterate 0 was ready at `t`. -/
def LoopEnd.bounded {α : Type} (e : LoopEnd α) (itMax deadline cIter cOut t : Nat) : Prop :=
  e.k ≤ itMax ∧ e.t = t + e.k * cIter ∧ e.ret ≤ e.k ∧ (e.status = 0 → e.ret = e.k) ∧
    (deadline ≠ 0 → 0 < e.k → e.t + cOut ≤ deadline) ∧
    (e.status = 0 ∨ e.status = 0x20 ∧ (e.cause = 2 ∧ e.k = itMax ∨ e.cause = 1 ∧ deadline < e.t + cIter + cOut))

/-- The loop keeps within its bounds from any iterate that lies within them. -/
theorem loopFrom_bounded {α : Type} (next : α → Except Stop (Iter α)) {itMax deadline cIter cOut t : Nat} (fuel : Nat) {k best : Nat}
    {bi cur : Iter α} {e : LoopEnd α} (hfuel : k + fuel = itMax) (hbest : best ≤ k)
    (hdl : deadline ≠ 0 → 0 < k → t + k * cIter + cOut ≤ deadline)
    (he : loopFrom next itMax deadline cIter cOut fuel k (t + k * cIter) best bi cur = .ok e) :
    e.bounded itMax deadline cIter cOut t := by
  have hk : k ≤ itMax := by omega
  induction fuel generalizing k best bi cur with
  | zero =>
    unfold loopFrom at he
    split at he
    case isTrue =>
      cases he
      exact ⟨hk, rfl, Nat.le_refl _, fun _ => rfl, hdl, .inl rfl⟩
    case isFalse =>
      rw [if_pos (show k = itMax by omega)] at he
      cases he
      exact ⟨hk, rfl, hbest, fun h => absurd (show 0x20 = 0 from h) (by decide), hdl, .inr ⟨rfl, .inl ⟨rfl, by omega⟩⟩⟩
  | succ fuel ih =>
    rw [loopFrom] at he
    split at he
    case isTrue =>
      cases he
      exact ⟨hk, rfl, Nat.le_refl _, fun _ => rfl, hdl, .inl rfl⟩
    case isFalse =>
      rw [if_neg (show ¬ k = itMax by omega)] at he
      split at he
      case isTrue hlate =>
        cases he
        exact ⟨hk, rfl, hbest, fun h => absurd (show 0x20 = 0 from h) (by decide), hdl, .inr ⟨rfl, .inr ⟨rfl, hlate.2⟩⟩⟩
      case isFalse hintime =>
        dsimp only at he
        split at he
        case h_1 => cases he
        case h_2 it _ =>
          have hstep : t + k * cIter + cIter = t + (k + 1) * cIter := by rw [Nat.add_mul, Nat.one_mul, Nat.add_assoc]
          rw [hstep] at he
          refine ih (by omega) ?_ (fun hd _ => ?_) he (by omega)
          · split <;> omega
          · rw [← hstep]
            exact Nat.le_of_not_lt fun h => hintime ⟨hd, h⟩

/-- Settles O28, by induction on the iterations left. -/
theorem deadlineBoundsTheSolverLoop : Obligations.DeadlineBoundsTheSolverLoop := by
  intro α next itMax deadline cIter cOut t i0 e he
  refine loopFrom_bounded next itMax (Nat.zero_add _) (Nat.le_refl 0) (fun _ h => absurd h (Nat.lt_irrefl 0)) (k := 0) (bi := i0) (cur := i0) ?_
  rw [Nat.zero_mul, Nat.add_zero]
  exact he

end Sys2Proof.Machine
end

section
/-!
PROOFS. What the collectives, the exact lane and the twins do to memory: the exchange of messages leaves it as it is, and what reads or
writes tensors leaves a calm state calm (R179, R199).
-/

namespace Sys2Proof.Machine

/-! ## Messages, decisions and states of shards leave memory as it is -/

section Mem

variable {s : State}

@[simp] theorem State.offerPriv_mem (s : State) (m : Msg) : (s.offerPriv m).mem = s.mem := by
  unfold State.offerPriv
  split
  case h_1 => rfl
  case h_2 =>
    extract_lets nbs
    split
    case h_1 =>
      refine (State.emit_mem ..).trans ((State.event_mem ..).trans ?_)
      split
      case isTrue => exact State.regSat_mem ..
      case isFalse => rfl
    case h_2 => exact State.event_mem ..

@[simp] theorem State.sendPrivBody_mem (s : State) (h : Nat) (dst : BitVec 24) (body : List Byte) : (s.sendPrivBody h dst body).mem = s.mem :=
  State.offerPriv_mem ..

@[simp] theorem State.sendPriv_mem (s : State) (h : Nat) (dst : BitVec 24) (kind : Nat) (vals : List Nat) :
    (s.sendPriv h dst kind vals).mem = s.mem := State.sendPrivBody_mem ..

@[simp] theorem State.setRun_mem (s : State) (h : Nat) (r : OpRun) : (s.setRun h r).mem = s.mem := rfl

@[simp] theorem State.addEntry_mem (s : State) (h : Nat) (w : Word) : (s.addEntry h w).mem = s.mem := rfl

@[simp] theorem State.setShard_mem (s : State) (h : Nat) (sh : ShardS) : (s.setShard h sh).mem = s.mem := rfl

@[simp] theorem State.countStale_mem (s : State) (h : Nat) : (s.countStale h).mem = s.mem := rfl

@[simp] theorem State.collRec_mem (s : State) (h gid op piece sender step : Nat) : (s.collRec h gid op piece sender step).mem = s.mem :=
  State.log1_mem ..

@[simp] theorem State.collSend_mem (s : State) (c : CCtx) (dst phase stage piece : Nat) (v : Partial) :
    (s.collSend c dst phase stage piece v).mem = s.mem := by
  unfold State.collSend
  extract_lets fid trailer
  split
  case h_1 => exact State.send_mem ..
  case h_2 => exact State.foldl_mem (fun _ _ => State.send_mem ..) _ _

@[simp] theorem State.sendOnce_mem (s : State) (c : CCtx) (dst phase stage piece : Nat) (v : Partial) :
    (s.sendOnce c dst phase stage piece v).mem = s.mem := by
  unfold State.sendOnce
  extract_lets r
  split
  case isTrue => rfl
  case isFalse => exact State.collSend_mem ..

@[simp] theorem State.collDone_mem (s : State) (c : CCtx) : (s.collDone c).mem = s.mem := State.signalCounter_mem ..

@[simp] theorem State.listDeferredIn_mem (s : State) (c : CCtx) (r : OpRun) : (s.listDeferredIn c r).mem = s.mem := by
  unfold State.listDeferredIn
  split
  case h_1 => exact State.foldl_mem (fun _ _ => by split <;> rfl) _ _
  case h_2 => rfl

@[simp] theorem State.passDecision_mem (s : State) (c : CCtx) (d : Decision) (first : Bool) : (s.passDecision c d first).mem = s.mem := by
  unfold State.passDecision
  split
  case isTrue => exact State.sendPriv_mem ..
  case isFalse => exact State.foldl_mem (fun _ _ => State.sendPriv_mem ..) _ _

@[simp] theorem State.addDecision_mem (s : State) (c : CCtx) (d : Decision) : (s.addDecision c d).mem = s.mem :=
  State.foldl_mem (fun _ _ => State.addEntry_mem ..) _ _

@[simp] theorem State.announce_mem (s : State) (c : CCtx) : (s.announce c).mem = s.mem :=
  (State.passDecision_mem ..).trans (State.addDecision_mem ..)

@[simp] theorem State.announceAgain_mem (s : State) (h gid : Nat) : (s.announceAgain h gid).mem = s.mem := by
  unfold State.announceAgain
  split
  case h_1 =>
    refine State.foldl_mem (fun v e => ?_) _ _
    split
    case h_1 =>
      extract_lets r
      split
      case isTrue => exact State.announce_mem ..
      case isFalse => rfl
    case h_2 => rfl
  case h_2 => rfl

@[simp] theorem State.shardState_mem (s : State) (h : Nat) (sh : ShardS) (st : TwinState) (code : Nat) : (s.shardState h sh st code).mem = s.mem :=
  State.log1_mem ..

@[simp] theorem State.rankLost_mem (s : State) (h rank : Nat) : (s.rankLost h rank).mem = s.mem := by
  unfold State.rankLost
  split
  case h_1 p _ =>
    split
    case isTrue =>
      split
      case isTrue => rfl
      case isFalse => exact State.foldl_mem (fun _ _ => State.shardState_mem ..) _ _
    case isFalse =>
      split
      case isTrue => rfl
      case isFalse =>
        refine State.foldl_mem (fun v sh => ?_) _ _
        split
        case h_1 =>
          extract_lets w
          split
          case isTrue => exact State.shardState_mem ..
          case isFalse => exact State.shardState_mem ..
        case h_2 => rfl
  case h_2 => rfl

@[simp] theorem State.groupLoses_mem (s : State) (gid lostPos firstOp step : Nat) : (s.groupLoses gid lostPos firstOp step).mem = s.mem :=
  State.event_mem ..

@[simp] theorem State.replayReforms_mem (s : State) (h : Nat) : (s.replayReforms h).mem = s.mem := by
  unfold State.replayReforms
  extract_lets step
  split
  case h_1 =>
    refine State.foldl_mem (fun v e => ?_) _ _
    extract_lets gid pos g
    split
    case isTrue => exact (State.rankLost_mem ..).trans (State.groupLoses_mem ..)
    case isFalse => rfl
  case h_2 => rfl

@[simp] theorem State.twinCompare_mem (s : State) (h id : Nat) (owner : Bool) : (s.twinCompare h id owner).mem = s.mem := by
  unfold State.twinCompare
  split
  case h_2 => rfl
  case h_1 sh _ =>
    split
    case h_2 => rfl
    case h_1 a b _ _ =>
      split
      case isTrue => rfl
      case isFalse =>
        split
        case isTrue =>
          split
          case h_2 => rfl
          case h_1 =>
            extract_lets prob all
            split
            case isTrue => exact State.foldl_mem (fun _ _ => State.shardState_mem ..) _ _
            case isFalse => rfl
        case isFalse =>
          split
          case h_1 => exact (State.shardState_mem ..).trans (State.event_mem ..)
          case h_2 =>
            extract_lets v w sh'
            have hw : w.mem = s.mem := (State.setShard_mem ..).trans (State.event_mem ..)
            split
            case isTrue => exact (State.shardState_mem ..).trans hw
            case isFalse => exact (State.shardState_mem ..).trans hw
          case h_3 => rfl

end Mem

/-! ## Tensors of the program -/

section Calm

variable {s : State}

theorem State.collRead_calm (h : Nat) (p : Prog) (tensor off len : Nat) (k : s.calm) : (s.collRead h p tensor off len).st.calm := by
  unfold State.collRead
  split
  case h_1 => exact State.readRange_calm _ _ _ _ _ _ k
  case h_2 => exact k

theorem State.stopIfLost_calm (h tensor index : Nat) (k : s.calm) : (s.stopIfLost h tensor index).calm := by
  unfold State.stopIfLost
  split
  case isTrue => exact State.calm_of_mem (State.huskStop_mem ..) (State.calm_of_units (s := s) rfl rfl rfl rfl k)
  case isFalse => exact k

theorem State.collWrite_calm (h tensor off : Nat) (b : List Byte) (k : s.calm) : (s.collWrite h tensor off b).calm := by
  unfold State.collWrite
  split
  case h_1 => exact State.stopIfLost_calm _ _ _ (State.writeRange_calm _ _ _ _ _ _ k)
  case h_2 => exact k

theorem State.collTake_calm (h : Nat) (p : Prog) (tensor off len : Nat) (k : s.calm) : (s.collTake h p tensor off len).1.calm := by
  have ho := State.collRead_calm h p tensor off len k
  unfold State.collTake
  extract_lets o
  change o.st.calm at ho
  clear_value o
  split
  case h_1 =>
    dsimp only
    exact State.calm_of_mem (State.huskStop_mem ..) ho
  case h_2 => exact ho

/-! ## Pieces of an operation -/

theorem State.heldPiece_calm (c : CCtx) (q : Nat) (k : s.calm) : (s.heldPiece c q).1.calm := by
  unfold State.heldPiece
  extract_lets r
  split
  case h_1 =>
    split
    case h_1 => exact State.collTake_calm _ _ _ _ _ k
    case h_2 => exact k
  case h_2 => exact k

theorem State.sendHeld_calm (c : CCtx) (dst stage q : Nat) (k : s.calm) : (s.sendHeld c dst stage q).calm := by
  have hp := State.heldPiece_calm c q k
  unfold State.sendHeld
  split
  case isTrue => exact k
  case isFalse =>
    split
    case h_1 heq => exact State.calm_of_mem (State.sendOnce_mem ..) (by rw [heq] at hp; exact hp)
    case h_2 heq => rw [heq] at hp; exact hp

theorem State.heirSends_calm (c : CCtx) (k : s.calm) : (s.heirSends c).calm := by
  unfold State.heirSends
  split
  case isTrue => exact k
  case isFalse => exact State.foldl_calm (fun _ _ hv => State.foldl_calm (fun _ _ hw => State.sendHeld_calm _ _ _ _ hw) _ hv) _ k

theorem State.collComplete_calm (c : CCtx) (k : s.calm) : (s.collComplete c).calm := by
  unfold State.collComplete
  extract_lets r replay heldAll ready
  split
  case isTrue => exact k
  case isFalse =>
    refine State.heirSends_calm c (State.calm_of_mem ?_ k)
    exact (State.collDone_mem ..).trans ((State.setRun_mem ..).trans (State.listDeferredIn_mem ..))

theorem State.placePiece_calm (c : CCtx) (q : Nat) (v : Partial) (sum : Bool) (k : s.calm) : (s.placePiece c q v sum).calm := by
  unfold State.placePiece
  extract_lets b w r
  have hw : w.calm := by
    unfold w
    split
    case h_1 off _ =>
      have hc := State.collWrite_calm c.h c.e.dst off b k
      cases sum with
      | false => exact hc
      | true =>
        dsimp only [if_true]
        split
        case h_1 => exact State.twinFeed_calm _ _ _ _ hc
        case h_2 => exact hc
    case h_2 => exact k
  exact State.calm_of_mem (State.setRun_mem ..) hw

/-! ## The exact lane -/

theorem State.exactResult_calm (c : CCtx) (res : ExactRecord) (k : s.calm) : (s.exactResult c res).calm := by
  unfold State.exactResult
  extract_lets r down v x w
  split
  case isTrue => exact k
  case isFalse =>
    have hv : v.calm := State.calm_of_mem (State.foldl_mem (fun _ _ => State.sendPriv_mem ..) _ _) k
    have hw : w.calm := by
      unfold w
      split
      case isTrue =>
        split
        case h_1 => exact State.collWrite_calm _ _ _ _ (State.calm_of_mem (s := v) rfl hv)
        case h_2 => exact hv
      case isFalse => exact State.collWrite_calm _ _ _ _ hv
    exact State.calm_of_mem ((State.collDone_mem ..).trans (State.setRun_mem ..)) hw

theorem State.exactProgress_calm (c : CCtx) (k : s.calm) : (s.exactProgress c).calm := by
  unfold State.exactProgress
  extract_lets r tot tot' v
  have hv : v.calm := State.calm_of_mem (State.setRun_mem ..) k
  split
  case isTrue => exact k
  case isFalse =>
    split
    case isTrue => exact State.exactResult_calm _ _ hv
    case isFalse => exact State.calm_of_mem (State.sendPriv_mem ..) hv

/-! ## Progress -/

theorem State.reduceSteps_calm (c : CCtx) (q : Nat) (k : s.calm) : (s.reduceSteps c q).calm := by
  refine State.foldl_calm (fun v st hv => ?_) _ k
  split
  case h_2 => exact hv
  case h_1 order x _ _ =>
    extract_lets i r formed u w
    have hw : w.calm := by
      unfold w
      split
      case isTrue => exact hv
      case isFalse =>
        split
        case isTrue => exact State.calm_of_mem ((State.event_mem ..).trans (State.setRun_mem ..)) hv
        case isFalse => exact State.calm_of_mem (State.setRun_mem ..) hv
    split
    case h_1 => exact State.calm_of_mem (State.sendOnce_mem ..) hw
    case h_2 =>
      split
      case isTrue => exact State.placePiece_calm _ _ _ _ hw
      case isFalse => exact hw

theorem State.gatherSteps_calm (c : CCtx) (q : Nat) (k : s.calm) : (s.gatherSteps c q).calm := by
  unfold State.gatherSteps
  extract_lets r home dst
  split
  case isTrue => exact k
  case isFalse =>
    split
    case isTrue =>
      split
      case isTrue =>
        split
        case isTrue => exact k
        case isFalse => exact State.sendHeld_calm _ _ _ _ k
      case isFalse => exact k
    case isFalse => exact State.foldl_calm (fun _ _ hv => State.sendHeld_calm _ _ _ _ hv) _ k

theorem State.directSteps_calm (c : CCtx) (q : Nat) (k : s.calm) : (s.directSteps c q).calm := by
  unfold State.directSteps
  extract_lets r
  split
  case h_2 => exact k
  case h_1 =>
    split
    case isTrue =>
      extract_lets v
      have hv : v.calm := State.calm_of_mem (State.sendOnce_mem ..) k
      split
      case isTrue => exact State.calm_of_mem (State.sendOnce_mem ..) hv
      case isFalse => exact hv
    case isFalse =>
      split
      case isTrue => exact k
      case isFalse =>
        split
        case h_1 => exact State.placePiece_calm _ _ _ _ (State.calm_of_mem (State.eventIf_mem ..) k)
        case h_2 => exact k

theorem State.rotateSteps_calm (c : CCtx) (n : Nat) (k : s.calm) : (State.rotateSteps c n s).calm := by
  induction n generalizing s with
  | zero => exact k
  | succ n ih =>
    unfold State.rotateSteps
    extract_lets r m slot src v finish prev
    have hv : v.calm := by
      unfold v
      split
      case h_1 nx p _ _ =>
        split
        case isTrue => exact State.calm_of_mem (State.sendOnce_mem ..) k
        case isFalse =>
          split
          case isTrue => exact k
          case isFalse =>
            have ht := State.collTake_calm c.h p c.e.dst (slot (m - 1)) c.e.bytes k
            split
            case h_1 heq => exact State.calm_of_mem (State.sendOnce_mem ..) (by rw [heq] at ht; exact ht)
            case h_2 heq => rw [heq] at ht; exact ht
      case h_2 => exact k
    have hfinish (w : State) (hw : w.calm) : (finish w).calm := by
      unfold finish
      extract_lets r0 r1 u
      split
      case isTrue => exact State.calm_of_mem ((State.collDone_mem ..).trans (State.setRun_mem ..)) hw
      case isFalse => exact State.calm_of_mem ((State.signalCounter_mem ..).trans (State.setRun_mem ..)) hw
    split
    case isTrue => exact k
    case isFalse =>
      split
      case h_1 => exact ih (hfinish _ (State.collWrite_calm _ _ _ _ hv))
      case h_2 =>
        split
        case h_1 => exact ih (hfinish _ (State.collWrite_calm _ _ _ _ (State.collWrite_calm _ _ _ _ hv)))
        case h_2 => exact hv

theorem State.progressOp_calm (h op : Nat) (k : s.calm) : (s.progressOp h op).calm := by
  unfold State.progressOp
  split
  case h_1 => exact k
  case h_2 c _ =>
    extract_lets qs r u0 v
    have hg (u : State) (hu : u.calm) : (qs.foldl (fun (s : State) q => s.gatherSteps c q) u).calm :=
      State.foldl_calm (fun _ _ hw => State.gatherSteps_calm _ _ hw) _ hu
    have hv : v.calm := by
      unfold v
      split
      case h_1 => exact State.foldl_calm (fun _ _ hw => State.gatherSteps_calm _ _ (State.reduceSteps_calm _ _ hw)) _ k
      case h_2 => exact State.foldl_calm (fun _ _ hw => State.gatherSteps_calm _ _ (State.reduceSteps_calm _ _ hw)) _ k
      case h_3 =>
        refine hg u0 ?_
        unfold u0
        split
        case isTrue => exact State.placePiece_calm _ _ _ _ k
        case isFalse => exact k
      case h_4 => exact State.foldl_calm (fun _ _ hw => State.gatherSteps_calm _ _ (State.directSteps_calm _ _ hw)) _ k
      case h_5 => exact State.rotateSteps_calm _ _ k
      case h_6 => exact State.exactProgress_calm _ k
    split
    case isTrue => exact k
    case isFalse => exact State.collComplete_calm _ hv

theorem State.progressGroup_calm (h gid : Nat) (k : s.calm) : (s.progressGroup h gid).calm := by
  unfold State.progressGroup
  split
  case h_1 => exact State.foldl_calm (fun _ _ hv => State.progressOp_calm _ _ hv) _ k
  case h_2 => exact k

theorem State.landGather_calm (c : CCtx) (q : Chunk) (k : s.calm) : (s.landGather c q).calm := by
  unfold State.landGather
  extract_lets r
  split
  case isTrue => exact k
  case isFalse =>
    split
    case h_1 => exact State.placePiece_calm _ _ _ _ k
    case h_2 => exact k

theorem State.shareFinals_calm (h gid firstOp step : Nat) (k : s.calm) : (s.shareFinals h gid firstOp step).calm := by
  unfold State.shareFinals
  split
  case h_2 => exact k
  case h_1 =>
    refine State.foldl_calm (fun v e hv => ?_) _ k
    split
    case h_2 => exact hv
    case h_1 c _ =>
      split
      case isTrue => exact hv
      case isFalse =>
        refine State.foldl_calm (fun w q hw => State.foldl_calm (fun u d hu => ?_) _ hw) _ hv
        split
        case isTrue => exact hu
        case isFalse => exact State.sendHeld_calm _ _ _ _ hu

/-! ## Digests of regions -/

theorem huskList_calm {h : Nat} {tierB : Bool} {base tensor : Nat} (l : List Nat) (k : s.calm) : (huskList h tierB base tensor l s).1.calm := by
  induction l generalizing s with
  | nil => exact k
  | cons i l ih =>
    have hc := State.checkBlk_calm h tierB (base / 4096 + i) (some (huskTag tensor i)) k
    unfold huskList
    split
    case h_1 v b heq => exact ih (by rw [heq] at hc; exact hc)
    case h_2 v b ck _ heq => exact ih (by rw [heq] at hc; exact hc)

theorem State.regionDigest_calm (h : Nat) (p : Prog) (ids : List Nat) (k : s.calm) : (s.regionDigest h p ids).1.calm := by
  refine List.foldlRecOn (motive := fun a : State × List Byte => a.1.calm) _ _ k fun a ha id _ => ?_
  dsimp only
  split
  case h_1 tierB base _ =>
    have hl := huskList_calm (h := h) (tierB := tierB) (base := base) (tensor := id) (blocksOf 0 (p.bytesOf id)) ha
    dsimp only
    split
    case h_1 => exact State.calm_of_mem (State.huskStop_mem ..) hl
    case h_2 => exact hl
  case h_2 => exact ha

theorem State.twinDigests_calm (h step : Nat) (k : s.calm) : (s.twinDigests h step).calm := by
  unfold State.twinDigests
  split
  case h_2 => exact k
  case h_1 p _ =>
    refine State.foldl_calm (fun v sh hv => ?_) _ k
    split
    case h_2 => exact hv
    case h_1 d _ =>
      have hr := State.regionDigest_calm h p d.tensors hv
      extract_lets r w u
      split
      case isTrue => exact hr
      case isFalse =>
        refine State.calm_of_mem (s := r.1) ((State.twinCompare_mem ..).trans ?_) hr
        unfold u
        split
        case h_1 => exact State.sendPrivBody_mem ..
        case h_2 => rfl

end Calm

end Sys2Proof.Machine
end

section
/-!
PROOFS. Ticks and steps (R51–R55, R259–R261): what a tick's begin and a step boundary do to memory, and the statement
TicksBeginAndStepsRollBack.
-/

namespace Sys2Proof.Machine

/-! ## A tick's begin leaves memory as it is -/

section Mem

variable {s : State}

theorem State.sameMemory.trans {u v : State} (k : s.sameMemory u) (l : u.sameMemory v) : s.sameMemory v := by
  obtain ⟨k1, k2, k3, k4⟩ := k
  obtain ⟨l1, l2, l3, l4⟩ := l
  exact ⟨l1.trans k1, l2.trans k2, l3.trans k3, l4.trans k4⟩

theorem State.sameMemory.rfl : s.sameMemory s := ⟨Eq.refl _, Eq.refl _, Eq.refl _, Eq.refl _⟩

theorem State.foldl_same {α : Type} {f : State → α → State} (hf : ∀ (s : State) (x : α), s.sameMemory (f s x)) (s : State) (l : List α) :
    s.sameMemory (l.foldl f s) :=
  List.foldlRecOn (motive := fun v => s.sameMemory v) l f .rfl fun v hv x _ => hv.trans (hf v x)

theorem State.updTile_same (s : State) (t : Nat) (f : Tile → Tile) : s.sameMemory (s.updTile t f) := ⟨rfl, rfl, rfl, rfl⟩

theorem State.setPod_sameMemory (s : State) (p : Nat) (x : Pod) : s.sameMemory (s.setPod p x) := ⟨rfl, rfl, rfl, rfl⟩

theorem State.reseed_same (s : State) (h t lam rho : Nat) : s.sameMemory (s.reseed h t lam rho) := by
  unfold State.reseed
  extract_lets x
  split
  case h_1 => exact State.updTile_same ..
  case h_2 => exact .rfl

theorem State.reseedPoint_same (s : State) (t : Nat) : s.sameMemory (s.reseedPoint t) := by
  unfold State.reseedPoint
  extract_lets h x
  split
  case h_1 =>
    split
    case isTrue => exact .rfl
    case isFalse =>
      split
      case h_1 => exact State.reseed_same ..
      case h_2 => exact .rfl
  case h_2 => exact .rfl

theorem State.evalLevels_same (s : State) (owner : Nat) : s.sameMemory (s.evalLevels owner) := by
  unfold State.evalLevels
  extract_lets t held
  split
  case isTrue => exact .rfl
  case isFalse =>
    refine State.foldl_same (fun v u => ?_) _ _
    extract_lets k b old new _ w
    have hw : v.sameMemory w := ⟨rfl, rfl, rfl, rfl⟩
    split
    case isTrue => exact hw.trans (State.event_same ..)
    case isFalse => exact hw

/-- The account of scrub work over given units of both tiers. -/
def State.scrubAccrued (s : State) (unitsA unitsB : List Nat) : State :=
  let add := fun (s : State) (u : MemUnit) =>
    let n := s.scrubOwed u
    if n = 0 then s
    else
      let k := 8 * nmuOf u + s.scrubOwner u
      let b := tget (0, 0, 0) s.nmu.backlog k
      { s with nmu := { s.nmu with backlog := tset (0, 0, 0) s.nmu.backlog k (b.1 + n, b.2) } }
  let s := unitsA.foldl (fun s c => add s (.a c)) s
  let s := unitsB.foldl (fun s j => add s (.b j)) s
  { s with nmu := { s.nmu with scrubMark := s.time.gtc } }

theorem State.scrubAccrued_same (s : State) (unitsA unitsB : List Nat) : s.sameMemory (s.scrubAccrued unitsA unitsB) := by
  unfold State.scrubAccrued
  extract_lets add v w
  have hadd (v : State) (u : MemUnit) : v.sameMemory (add v u) := by
    unfold add
    extract_lets n
    split
    case isTrue => exact .rfl
    case isFalse => exact ⟨rfl, rfl, rfl, rfl⟩
  have hv : s.sameMemory v := State.foldl_same (fun v c => hadd v (.a c)) _ _
  have hw : v.sameMemory w := State.foldl_same (fun v j => hadd v (.b j)) _ _
  exact (hv.trans hw).trans ⟨rfl, rfl, rfl, rfl⟩

theorem State.accrueScrub_same (s : State) : s.sameMemory s.accrueScrub := State.scrubAccrued_same s (upFrom 0 512) (upFrom 0 64)

/-- A hull whose next tick begins now. -/
def Hull.tickOpened (x : Hull) (s : State) : Hull :=
  { x with tick := (x.tick + 1) % 2 ^ 48, tickStart := s.time.gtc,
           prog := x.prog.map fun p => { p with calls := s.gateCalls p, dirtyTick := false, throttled := decide (s.board.throttle > 0) } }

/-- R51: a tick's begin gives the hull its new tick; memory and the other hulls are as they were. -/
theorem State.openTick_same (s : State) (h rho : Nat) : (s.setHull h ((s.hull h).tickOpened s)).sameMemory (s.openTick h rho) := by
  unfold State.openTick
  extract_lets x s1 segs f s2 s3 held s4
  have h2 : s1.sameMemory s2 := by
    refine State.foldl_same (fun v t => ?_) _ _
    extract_lets w
    have hw : v.sameMemory w := State.updTile_same ..
    split
    case isTrue => exact hw.trans (State.reseed_same ..)
    case isFalse => exact hw.trans (State.reseedPoint_same ..)
  have h3 : s2.sameMemory s3 := State.foldl_same (fun _ _ => State.setPod_sameMemory ..) _ _
  have h4 : s3.sameMemory s4 := ⟨rfl, rfl, rfl, rfl⟩
  exact (h2.trans (h3.trans h4)).trans ((State.accrueScrub_same _).trans ((State.evalLevels_same _ _).trans (State.evalLevels_same _ _)))

@[simp] theorem State.openTick_mem (s : State) (h rho : Nat) : (s.openTick h rho).mem = s.mem := (State.openTick_same s h rho).1

@[simp] theorem State.forcedHold_mem {h : Nat} {go : State} (hgo : go.mem = s.mem) : (s.forcedHold h go).mem = s.mem := by
  unfold State.forcedHold
  extract_lets x
  split
  case isTrue => rfl
  case isFalse => exact hgo

@[simp] theorem State.tickSlip_mem (s : State) (h slip : Nat) (counted : Bool) : (s.tickSlip h slip counted).mem = s.mem := by
  unfold State.tickSlip
  split
  case h_1 =>
    extract_lets limit exempt over_ p' v
    split
    case isTrue => exact State.event_mem ..
    case isFalse => rfl
  case h_2 => rfl

@[simp] theorem State.logHold_mem (s : State) (h : Nat) : (s.logHold h).mem = s.mem := by
  unfold State.logHold
  extract_lets x
  split
  case h_1 =>
    split
    case isTrue => rfl
    case isFalse => exact State.event_mem ..
  case h_2 => rfl

@[simp] theorem State.logFreed_mem (s : State) (h : Nat) : (s.logFreed h).mem = s.mem := rfl

@[simp] theorem State.recordBoundary_mem (s : State) (h : Nat) : (s.recordBoundary h).mem = s.mem := rfl

@[simp] theorem State.twinBoundary_mem (s : State) (h : Nat) : (s.twinBoundary h).mem = s.mem := by
  unfold State.twinBoundary
  split
  case h_1 =>
    extract_lets on all v
    refine Eq.trans (b := v.mem) rfl ?_
    unfold v
    split
    case isTrue => exact State.foldl_mem (fun _ _ => State.shardState_mem ..) _ _
    case isFalse => rfl
  case h_2 => rfl

end Mem

/-! ## Marks, records and boundaries leave a calm state calm -/

section Calm

variable {s : State}

theorem State.mark_calm (h : Nat) (src dst : Bool × Nat) (k : s.calm) : (s.mark h src dst).calm := by
  unfold State.mark
  extract_lets hit
  split
  case isTrue => exact k
  case isFalse => exact State.calm_of_units (s := s) rfl rfl rfl rfl k

theorem State.markInto_calm (h : Nat) (p : Prog) (ids : List Nat) (base : Nat) (k : s.calm) : (s.markInto h p ids base).calm := by
  refine State.foldl_calm (fun v i hv => ?_) _ k
  dsimp only
  split
  case h_1 => exact State.mark_calm _ _ _ hv
  case h_2 => exact hv

theorem State.markUndo_calm (h : Nat) (k : s.calm) : (s.markUndo h).calm := by
  unfold State.markUndo
  split
  case h_1 =>
    split
    case h_1 => exact State.markInto_calm _ _ _ _ k
    case h_2 => exact k
  case h_2 => exact k

theorem State.winWrite_calm (h : Nat) (tierB : Bool) (off : Nat) (bytes : List Byte) (k : s.calm) : (s.winWrite h tierB off bytes).calm :=
  State.foldl_calm (fun _ _ hv => State.writePart_calm _ _ _ _ _ _ hv) _ k

theorem State.putRecord_calm (h : Nat) (p : Prog) (step : Nat) (b : List Byte) (k : s.calm) : (s.putRecord h p step b).calm :=
  State.stopIfLost_calm _ _ _ (State.winWrite_calm _ _ _ _ k)

theorem State.trailers_calm (h : Nat) (p : Prog) (k : s.calm) : (s.trailers h p).calm := by
  unfold State.trailers
  extract_lets outs t
  split
  case isTrue => exact k
  case isFalse => exact State.foldl_calm (fun _ _ hv => State.collWrite_calm _ _ _ _ hv) _ (State.regionDigest_calm _ _ _ k)

theorem State.writeStepRecord_calm (h : Nat) (k : s.calm) : (s.writeStepRecord h).calm := by
  unfold State.writeStepRecord
  split
  case h_2 => exact k
  case h_1 p _ =>
    split
    case isTrue => exact k
    case isFalse =>
      extract_lets x skipped es d b v _ w
      have hd : d.1.calm := State.regionDigest_calm _ _ _ k
      have hw : w.calm := State.calm_of_mem (State.setHull_mem ..) (State.putRecord_calm _ _ _ _ hd)
      split
      case isTrue => exact hd
      case isFalse =>
        split
        case isTrue => exact hw
        case isFalse => exact State.trailers_calm _ _ hw

theorem State.ckptCut_calm (h step : Nat) (k : s.calm) : (s.ckptCut h step).calm := by
  unfold State.ckptCut
  extract_lets x c
  split
  case h_2 => exact k
  case h_1 p _ =>
    extract_lets v _ w
    split
    case isTrue => exact k
    case isFalse =>
      split
      case isTrue => exact State.calm_of_mem (State.ckptFail_mem ..) k
      case isFalse =>
        have hv : v.calm := by
          unfold v
          split
          case h_1 => exact State.markInto_calm _ _ _ _ k
          case h_2 => exact k
        refine State.foldl_calm (fun u _ hu => ?_) _ (State.calm_of_mem (State.setHull_mem ..) hv)
        exact State.calm_of_mem (s := u) rfl hu

theorem State.openStep_calm (h : Nat) (k : s.calm) : (s.openStep h).calm := by
  unfold State.openStep
  extract_lets u
  have hu : u.calm := State.calm_of_mem (State.replayReforms_mem ..) k
  clear_value u
  split
  case h_2 => exact hu
  case h_1 p _ =>
    extract_lets d v x w
    have hd : d.1.calm := State.regionDigest_calm _ _ _ hu
    split
    case isTrue => exact hd
    case isFalse =>
      refine State.calm_of_mem (s := d.1) ((State.openTick_mem ..).trans ((State.setHull_mem ..).trans ?_)) hd
      exact State.foldl_mem (fun _ _ => State.updTile_mem ..) _ _

theorem State.openWindow_calm (h : Nat) (k : s.calm) : (s.openWindow h).calm := by
  unfold State.openWindow
  split
  case h_2 => exact k
  case h_1 =>
    split
    case h_1 =>
      extract_lets n _ v
      have hv : v.calm := State.calm_of_mem (State.setHull_mem ..) k
      exact State.calm_of_mem (State.openTick_mem v h 0) hv
    case h_2 => exact State.openStep_calm _ k

theorem State.leaveBoundary_calm (h : Nat) (k : s.calm) : (s.leaveBoundary h).calm := by
  unfold State.leaveBoundary
  extract_lets x
  split
  case h_2 => exact k
  case h_1 p _ =>
    split
    case isTrue => exact k
    case isFalse =>
      split
      case isTrue => exact State.calm_of_mem (State.logHold_mem ..) k
      case isFalse =>
        extract_lets extra b u _ v
        have hv : v.calm := by
          unfold v
          split
          case isTrue => exact k
          case isFalse => exact State.calm_of_mem (State.setHull_mem ..) (State.putRecord_calm _ _ _ _ k)
        split
        case isTrue => exact hv
        case isFalse => exact State.openWindow_calm _ (State.calm_of_mem ((State.logFreed_mem ..).trans (State.tickSlip_mem ..)) hv)

theorem State.passBoundary_calm (h : Nat) (k : s.calm) : (s.passBoundary h).calm := by
  have hw : (s.writeStepRecord h).calm := State.writeStepRecord_calm h k
  unfold State.passBoundary
  extract_lets v x u y step
  change v.calm at hw
  split
  case h_2 => exact hw
  case h_1 =>
    extract_lets bad
    have hu : u.calm := State.calm_of_mem (State.twinBoundary_mem ..) (State.twinDigests_calm _ _ (State.ckptCut_calm _ _ hw))
    split
    case h_2 => exact hu
    case h_1 =>
      extract_lets w w' w''
      have hw0 : w.calm := State.calm_of_mem (State.setHull_mem ..) hu
      have hstop (reason : Nat) (st : Byte) (b : Bool) : (w.stopHull h reason st b).calm := State.calm_of_mem (State.stopHull_mem ..) hw0
      split
      case isTrue => exact State.calm_of_mem (State.raise_mem ..) (hstop ..)
      case isFalse =>
        split
        case isTrue => exact hstop ..
        case isFalse =>
          split
          case isTrue => exact hstop ..
          case isFalse =>
            have hw' : w'.calm := by
              unfold w'
              split
              case h_1 =>
                split
                case isTrue => exact State.calm_of_mem (s := w) rfl hw0
                case isFalse => exact hw0
              case h_2 => exact hw0
            have hw'' : w''.calm := State.calm_of_mem (State.recordBoundary_mem ..) (State.markUndo_calm _ hw')
            split
            case isTrue => exact State.calm_of_mem (State.setHull_mem ..) hw''
            case isFalse => exact hw''

theorem State.restoreUndo_quiet (h : Nat) (k : s.quiet) : (s.restoreUndo h).quiet := by
  unfold State.restoreUndo
  extract_lets keys mine copies v
  have hv : v.contentless = s.contentless :=
    List.foldlRecOn (motive := fun v : State => v.contentless = s.contentless) _ _ rfl fun v hv m _ =>
      (State.setBlk_contentless ..).trans hv
  exact State.quiet_of_contentless (s := s) ((rfl : _ = v.contentless).trans hv) k

end Calm

/-! ## A tick's begin, case by case -/

section Begin

/-- A tick of an evaluation run that is over: the next of the run, or what follows the run (R54). -/
def State.evalTickOver (s : State) (h : Nat) (p : Prog) (slip k n : Nat) : State :=
  let s := s.tickSlip h slip false
  if n > 1 then
    let s := s.setHull h { s.hull h with prog := (s.hull h).prog.map fun p =>
      { p with evalRun := some (k, n - 1), evalTicks := p.evalTicks + 1 } }
    s.forcedHold h (s.openTick h (p.evalTicks + 1))
  else
    let s := s.setHull h { s.hull h with prog := (s.hull h).prog.map fun p =>
      { p with evalRun := none, evalsDone := min (p.evalsDone + 1) 0xFFFFFFFF } }
    s.openWindow h

/-- What follows a boundary that has passed. -/
def State.boundaryLeft (s : State) (h : Nat) : State :=
  match (s.hull h).prog, (s.hull h).state with
  | some p, .running => if p.between = 1 then s.leaveBoundary h else s
  | _, _ => s

/-- A tick of a step that is over: the next tick of the step, or the boundary once it may pass (R51, R53). -/
def State.stepTickOver (s : State) (h : Nat) (p : Prog) (slip : Nat) : State :=
  if p.tickInStep + 1 < p.ticks then
    let s := s.tickSlip h slip true
    let s := s.setHull h { s.hull h with prog := (s.hull h).prog.map fun p => { p with tickInStep := p.tickInStep + 1 } }
    s.forcedHold h (s.openTick h (p.tickInStep + 1))
  else if !s.boundaryReady h then s
  else
    let q := { p with slipNs := min (p.slipNs + slip) 0xFFFFFFFF }
    ((s.setHull h { s.hull h with prog := some q }).passBoundary h).boundaryLeft h

/-- A tick whose period is over, the markers reached (R51). -/
def State.tickOver (s : State) (h : Nat) (p : Prog) (slip : Nat) : State :=
  match p.evalRun with
  | some (k, n) => s.evalTickOver h p slip k n
  | none => s.stepTickOver h p slip

/-- The begin of a hull's next tick. -/
def State.tickWork (s : State) (h : Nat) (p : Prog) : State :=
  let x := s.hull h
  if p.state ≠ 3 ∨ !x.free then s
  else if p.stops.any (·.1) then s.stopHull h 1 sDONE false
  else if p.between = 2 then
    if s.time.gtc < x.launch then s
    else if x.logFull then s.logHold h
    else (((s.logFreed h).markUndo h).recordBoundary h).openStep h
  else if s.time.gtc < x.tickStart + 1000 * s.periodUs then s
  else if p.between = 1 ∧ p.evalRun.isNone then s.leaveBoundary h
  else if !s.markersDone h then s
  else s.tickOver h p (s.time.gtc - (x.tickStart + 1000 * s.periodUs))

/-- TICK_BEGIN's work: of a running hull that has a program. -/
def State.tickBegun (s : State) (h : Nat) : State :=
  match (s.hull h).prog, (s.hull h).state with
  | some p, .running => s.tickWork h p
  | _, _ => s

theorem exec_tickBegin (h : Nat) (s : State) : exec (.tickBegin h []) s = .next (s.meeting [] (State.tickBegun · h)) := rfl

variable {raw : State} {h : Nat} {p : Prog} {v : State}

theorem State.tickBegun_of_running {s : State} (hprog : (s.hull h).prog = some p) (hrun : (s.hull h).state = .running) :
    s.tickBegun h = s.tickWork h p := by
  simp only [State.tickBegun, hprog, hrun]

theorem State.tickBegin_calm (hprog : (raw.settled.hull h).prog = some p) (hrun : (raw.settled.hull h).state = .running)
    (hwork : raw.settled.tickWork h p = v) (hv : v.calm) : exec (.tickBegin h []) raw = .next v.settled :=
  congrArg Host.Outcome.next (State.meeting_of_calm ((State.tickBegun_of_running hprog hrun).trans hwork) hv)

theorem State.tickBegin_quiet (hprog : (raw.settled.hull h).prog = some p) (hrun : (raw.settled.hull h).state = .running)
    (hwork : raw.settled.tickWork h p = v) (hv : v.quiet) : exec (.tickBegin h []) raw = .next v :=
  congrArg Host.Outcome.next (State.meeting_of_quiet ((State.tickBegun_of_running hprog hrun).trans hwork) hv)

end Begin

theorem State.boundaryLeft_calm {s : State} (h : Nat) (k : s.calm) : (s.boundaryLeft h).calm := by
  unfold State.boundaryLeft
  split
  case h_1 =>
    split
    case isTrue => exact State.leaveBoundary_calm _ k
    case isFalse => exact k
  case h_2 => exact k

/-- Settles O29: a begin is followed through its conditions to the case that it meets. -/
theorem ticksBeginAndStepsRollBack : Obligations.TicksBeginAndStepsRollBack := by
  refine ⟨fun raw h p => ?_, fun s h rho => ?opened⟩
  · intro s x slip hprog hrun
    have hquiet : s.quiet := ⟨rfl, rfl, rfl⟩
    refine ⟨fun hstate harmed hgtc => ?launched, fun hstate hfree hhold => ?begun, fun v hverdict heager hskip hback hdone hhold => ?rolledBack⟩
    case launched =>
      have hprog' : (raw.hull h).prog = some p := hprog
      refine congrArg Host.Outcome.next ?_
      simp only [hprog']
      exact if_pos ⟨hrun, hstate, harmed, hgtc⟩
    case begun =>
      have hcalm : s.calm := ⟨hhold, rfl, rfl⟩
      have hgo : ¬ (p.state ≠ 3 ∨ (!x.free) = true) := by
        rw [hstate, hfree]
        decide
      have hno (hstops : (p.stops.any fun c => c.1) = false) : ¬ p.stops.any (·.1) = true := by
        rw [hstops]
        decide
      refine ⟨fun hstops => ?_, fun hstops hbetween hlaunch => ?first, fun hstops hbetween hperiod => ?later⟩
      · exact State.tickBegin_calm hprog hrun ((if_neg hgo).trans (if_pos hstops)) (State.calm_of_mem (State.stopHull_mem ..) hcalm)
      case first =>
        have hwork : s.tickWork h p =
            if x.logFull then s.logHold h else (((s.logFreed h).markUndo h).recordBoundary h).openStep h :=
          (if_neg hgo).trans ((if_neg (hno hstops)).trans ((if_pos hbetween).trans (if_neg (Nat.not_lt.mpr hlaunch))))
        refine ⟨fun hfull => ?_, fun hfull => ?_⟩
        · exact State.tickBegin_quiet hprog hrun (hwork.trans (if_pos hfull)) (State.quiet_of_mem (State.logHold_mem ..) hquiet)
        · refine State.tickBegin_calm hprog hrun (hwork.trans (if_neg (by rw [hfull]; decide))) (State.openStep_calm _ ?_)
          exact State.calm_of_mem (State.recordBoundary_mem ..) (State.markUndo_calm _ (State.calm_of_mem (State.logFreed_mem ..) hcalm))
      case later =>
        have hwork : s.tickWork h p = if p.between = 1 ∧ p.evalRun.isNone then s.leaveBoundary h
            else if !s.markersDone h then s else s.tickOver h p slip :=
          (if_neg hgo).trans ((if_neg (hno hstops)).trans ((if_neg hbetween).trans (if_neg (Nat.not_lt.mpr hperiod))))
        have hover (hin : ¬ (p.between = 1 ∧ p.evalRun.isNone = true)) (hmark : s.markersDone h = true) : s.tickWork h p = s.tickOver h p slip :=
          hwork.trans ((if_neg hin).trans (if_neg (by rw [hmark]; decide)))
        refine ⟨fun hbet hev => ?_, fun hin hmark => ?_, fun k n hev hn hmark => ?evalTick, fun hbet hev hmark => ?stepTick⟩
        · exact State.tickBegin_calm hprog hrun (hwork.trans (if_pos ⟨hbet, by rw [hev]; rfl⟩)) (State.leaveBoundary_calm _ hcalm)
        · refine State.tickBegin_quiet hprog hrun (hwork.trans ((if_neg ?_).trans (if_pos (by rw [hmark]; rfl)))) hquiet
          rintro ⟨hbet, hnone⟩
          have hsome := hin hbet
          rw [Option.isNone_iff_eq_none.mp hnone] at hsome
          cases hsome
        case evalTick =>
          intro v w
          have hin : ¬ (p.between = 1 ∧ p.evalRun.isNone = true) := by
            rw [hev]
            rintro ⟨-, hnone⟩
            cases hnone
          have htick : s.tickOver h p slip = w.forcedHold h (w.openTick h (p.evalTicks + 1)) := by
            simp only [State.tickOver, hev]
            exact if_pos hn
          refine State.tickBegin_quiet hprog hrun ((hover hin hmark).trans htick) (State.quiet_of_mem ?_ hquiet)
          exact (State.forcedHold_mem (State.openTick_mem ..)).trans ((State.setHull_mem ..).trans (State.tickSlip_mem ..))
        case stepTick =>
          have hin : ¬ (p.between = 1 ∧ p.evalRun.isNone = true) := fun hb => by omega
          have htick : s.tickOver h p slip = s.stepTickOver h p slip := by
            simp only [State.tickOver, hev]
          have hstep := (hover hin hmark).trans htick
          refine ⟨fun hmore => ?_, fun hlast hready => ?_, fun hlast hready => ?_⟩
          · intro v w
            refine State.tickBegin_quiet hprog hrun (hstep.trans (if_pos hmore)) (State.quiet_of_mem ?_ hquiet)
            exact (State.forcedHold_mem (State.openTick_mem ..)).trans ((State.setHull_mem ..).trans (State.tickSlip_mem ..))
          · exact State.tickBegin_quiet hprog hrun
              (hstep.trans ((if_neg (Nat.not_lt.mpr hlast)).trans (if_pos (by rw [hready]; rfl)))) hquiet
          · intro v
            refine State.tickBegin_calm hprog hrun
              (hstep.trans ((if_neg (Nat.not_lt.mpr hlast)).trans (if_neg (by rw [hready]; decide)))) (State.boundaryLeft_calm _ ?_)
            exact State.passBoundary_calm _ (State.calm_of_mem (State.setHull_mem ..) hcalm)
    case rolledBack =>
      intro u
      refine congrArg Host.Outcome.next (State.meeting_of_quiet ?_ (State.quiet_of_mem (State.setHull_mem ..) (State.restoreUndo_quiet h hquiet)))
      have hgo : ¬ ((!p.image.eager) = true ∨ (!v.skipped) = true ∨ p.rollback = true ∨ (!s.updatesDone h) = true) := by
        rw [heager, hskip, hback, hdone]
        decide
      have hprog' : (raw.settled.hull h).prog = some p := hprog
      have hverdict' : (raw.settled.hull h).verdict = some v := hverdict
      have hrun' : (raw.settled.hull h).state = .running := hrun
      simp only [hprog', hverdict', hrun']
      exact if_neg hgo
  case opened =>
    obtain ⟨hmem, hhulls, -, -⟩ := State.openTick_same s h rho
    have hhull (g : Nat) : (s.openTick h rho).hull g = (s.setHull h ((s.hull h).tickOpened s)).hull g :=
      congrArg (fun l : Tbl Hull => tget Hull.init l g) hhulls
    refine ⟨?_, ?_, hmem, fun g hg => (hhull g).trans (State.setHull_other _ _ _ hg)⟩
    · rw [hhull, State.setHull_same]
      rfl
    · rw [hhull, State.setHull_same]
      rfl

end Sys2Proof.Machine
end

section
/-!
PROOFS. Checkpoints (R360–R365): the extraction of a cut leaves a calm state calm, a segment sent changes only how far the drain is; the
statement CheckpointDrainCompletes.
-/

namespace Sys2Proof.Machine

/-! ## Extraction -/

section Calm

variable {s : State}

theorem State.unmark_calm (h : Nat) (key : Bool × Nat) (k : s.calm) : (s.unmark h key).calm := State.calm_of_units (s := s) rfl rfl rfl rfl k

@[simp] theorem State.drainAt_mem (s : State) (h u : Nat) (f : Nat → Nat) : (s.drainAt h u f).mem = s.mem := rfl

theorem State.extractBlock_calm (h : Nat) (p : Prog) (full : Bool) (ref : List (Nat × Nat × Word)) (b : Nat × Nat) (k : s.calm) :
    (s.extractBlock h p full ref b).1.calm := by
  unfold State.extractBlock
  split
  case h_2 => exact k
  case h_1 tierB base key _ _ =>
    extract_lets tag
    have hr := State.readCut_calm (tierB := tierB) h (base / 4096 + b.2) key tag k
    split
    case h_1 v blk heq =>
      have hv : v.calm := by rw [heq] at hr; exact hr
      extract_lets hk same w
      change w.calm
      unfold w
      split
      case isTrue => exact hv
      case isFalse => exact State.unmark_calm _ _ hv
    case h_2 v blk c _ heq =>
      have hv : v.calm := by rw [heq] at hr; exact hr
      exact State.calm_of_mem (State.huskFail_mem ..) hv

theorem State.extractAll_calm (h : Nat) (p : Prog) (full : Bool) (ref : List (Nat × Nat × Word)) (l : List (Nat × Nat))
    (acc : List (Nat × Nat × Word × List Byte)) (k : s.calm) : (State.extractAll h p full ref l s acc).1.calm := by
  induction l generalizing s acc with
  | nil => exact k
  | cons b l ih =>
    have hb := State.extractBlock_calm h p full ref b k
    unfold State.extractAll
    split
    case h_1 v hk pay heq => exact ih _ (State.calm_of_mem (State.drainAt_mem ..) (by rw [heq] at hb; exact hb))
    case h_2 v heq => exact ih _ (by rw [heq] at hb; exact hb)
    case h_3 v heq => rw [heq] at hb; exact hb

theorem State.windowRead_calm (src h : Nat) (tierB : Bool) (off len : Nat) (k : s.calm) : (s.windowRead src h tierB off len).1.calm := by
  refine List.foldlRecOn (motive := fun a : State × Option (List Byte) => a.1.calm) _ _ k fun a ha i _ => ?_
  split
  case h_1 => exact ha
  case h_2 d _ =>
    have hc := State.checkBlk_calm h tierB i none ha
    split
    case h_1 heq => rw [heq] at hc; exact hc
    case h_2 heq => exact State.calm_of_mem (State.huskFail_mem ..) (by rw [heq] at hc; exact hc)

theorem State.readRecords_calm (h : Nat) (p : Prog) (steps : List Nat) (k : s.calm) : (s.readRecords h p steps).1.calm := by
  refine List.foldlRecOn (motive := fun a : State × Option (List (List Byte)) => a.1.calm) _ _ k fun a ha n _ => ?_
  dsimp only
  split
  case h_1 => exact ha
  case h_2 => exact State.windowRead_calm _ _ _ _ _ ha

end Calm

/-! ## The drain -/

/-- What a drain's progress leaves as it is. -/
def State.drainKept (s : State) : MemS × Tbl Tile × Tbl Pod × List ErrRec := (s.mem, s.tiles, s.pods, s.log)

/-- A checkpoint with its next segment sent, if one is left. -/
def Ckpt.sentOn (c : Ckpt) (trailer : Bool) : Ckpt :=
  { c with sent := if c.sent < c.segments then c.sent + 1 else c.sent, trailer := trailer }

theorem Ckpt.sentOn_of_more {c : Ckpt} (h : c.sent < c.segments) (trailer : Bool) :
    c.sentOn trailer = { c with sent := c.sent + 1, trailer := trailer } := by
  simp only [Ckpt.sentOn, h, if_true]

theorem Ckpt.sentOn_of_done {c : Ckpt} (h : ¬ c.sent < c.segments) (trailer : Bool) : c.sentOn trailer = { c with trailer := trailer } := by
  simp only [Ckpt.sentOn, h, if_false]

theorem Ckpt.sentOn_sent (c : Ckpt) (trailer : Bool) : (c.sentOn trailer).sent = if c.sent < c.segments then c.sent + 1 else c.sent := by
  rw [Ckpt.sentOn]

theorem Ckpt.segments_of_object {c d : Ckpt} (h : c.object = d.object) : c.segments = d.segments := by
  unfold Ckpt.segments
  rw [h]

theorem Ckpt.sentOn_segments (c : Ckpt) (trailer : Bool) : (c.sentOn trailer).segments = c.segments :=
  Ckpt.segments_of_object (by rw [Ckpt.sentOn])

theorem Ckpt.sentOn_eq (c : Ckpt) (trailer : Bool) :
    c.sentOn trailer = { c with sent := if c.sent < c.segments then c.sent + 1 else c.sent, trailer := trailer } := rfl

/-- Two segments sent of a drain that begins. -/
theorem Ckpt.sentOn_twice {c : Ckpt} (h0 : c.sent = 0) (t1 t2 : Bool) :
    (c.sentOn t1).sentOn t2 = { c with sent := min 2 c.segments, trailer := t2 } := by
  have hcount : (if (c.sentOn t1).sent < (c.sentOn t1).segments then (c.sentOn t1).sent + 1 else (c.sentOn t1).sent) = min 2 c.segments := by
    rw [Ckpt.sentOn_sent, Ckpt.sentOn_segments, h0]
    generalize c.segments = n
    split_ifs <;> omega
  rw [Ckpt.sentOn_eq (c.sentOn t1) t2, hcount, Ckpt.sentOn_eq c t1]

/-- R364: a segment sent, or the trailer, changes only how far the drain is. -/
theorem State.sendSegment_facts (s : State) (h : Nat) :
    (∃ trailer, ((s.sendSegment h).hull h).ckpt = (s.hull h).ckpt.sentOn trailer) ∧ (s.sendSegment h).drainKept = s.drainKept := by
  unfold State.sendSegment
  extract_lets x c v w
  split
  case isTrue hmore =>
    have hv : (v.hull h).ckpt = c.sentOn c.trailer := by
      rw [Ckpt.sentOn_of_more hmore, State.setHull_same]
    have hw {γ : Type} (g : State → γ) (hg : ∀ s u f, g (State.drainAt s h u f) = g s) : g w = g v := foldl_keeps (fun _ _ => hg ..) _ _
    refine ⟨⟨c.trailer, ?_⟩, ?_⟩
    · exact (hw (fun s => (s.hull h).ckpt) fun _ _ _ => rfl).trans hv
    · exact hw State.drainKept fun _ _ _ => rfl
  case isFalse hdone =>
    split
    case isTrue =>
      refine ⟨⟨true, ?_⟩, rfl⟩
      refine Eq.trans (b := (State.hull (s.setHull h { x with ckpt := { c with trailer := true } }) h).ckpt) rfl ?_
      rw [Ckpt.sentOn_of_done hdone, State.setHull_same]
    case isFalse =>
      refine ⟨⟨c.trailer, ?_⟩, rfl⟩
      exact (Ckpt.sentOn_of_done hdone c.trailer).symm

/-- Two segments sent: what the checkpoint was, but for how far its drain is. -/
theorem State.sendSegment_twice (s : State) (h : Nat) {c : Ckpt} (hc : (s.hull h).ckpt = c) (hsent : c.sent = 0) :
    (∃ n trailer, (((s.sendSegment h).sendSegment h).hull h).ckpt = { c with sent := n, trailer := trailer } ∧ n = min 2 c.segments) ∧
      ((s.sendSegment h).sendSegment h).drainKept = s.drainKept := by
  obtain ⟨⟨t1, hc1⟩, hk1⟩ := State.sendSegment_facts s h
  obtain ⟨⟨t2, hc2⟩, hk2⟩ := State.sendSegment_facts (s.sendSegment h) h
  refine ⟨⟨_, t2, ?_, rfl⟩, hk2.trans hk1⟩
  rw [hc2, hc1, hc, Ckpt.sentOn_twice hsent]

theorem State.drainKept_iff (s v : State) :
    v.drainKept = s.drainKept ↔ v.mem = s.mem ∧ v.tiles = s.tiles ∧ v.pods = s.pods ∧ v.log = s.log := by
  simp only [State.drainKept, Prod.mk.injEq]

/-- How far a drain is does not change the object. -/
theorem Ckpt.drained_facts {c d : Ckpt} {n : Nat} {trailer : Bool} (hd : d = { c with sent := n, trailer := trailer }) :
    (d.state = c.state ∧ d.object = c.object ∧ d.delta = c.delta ∧ d.sent = n) ∧ d.segments = c.segments := by
  refine ⟨?_, Ckpt.segments_of_object (by rw [hd])⟩
  rw [hd]
  exact ⟨rfl, rfl, rfl, rfl⟩

/-- A drain that begins: the object stands, two of its segments are sent. -/
theorem State.drainBegun (s : State) (h : Nat) {c : Ckpt} (hc : (s.hull h).ckpt = c) (hsent : c.sent = 0) :
    ∃ v, v = (s.sendSegment h).sendSegment h ∧
      ((v.hull h).ckpt.state = c.state ∧ (v.hull h).ckpt.object = c.object ∧ (v.hull h).ckpt.delta = c.delta ∧
        (v.hull h).ckpt.sent = min 2 (v.hull h).ckpt.segments) ∧
      v.mem = s.mem ∧ v.tiles = s.tiles ∧ v.pods = s.pods ∧ v.log = s.log := by
  obtain ⟨⟨n, trailer, hckpt, hn⟩, hkept⟩ := State.sendSegment_twice s h hc hsent
  obtain ⟨⟨hstate, hobject, hdelta, hsent⟩, hsegments⟩ := Ckpt.drained_facts hckpt
  exact ⟨_, rfl, ⟨hstate, hobject, hdelta, by rw [hsegments, hsent, hn]⟩, (State.drainKept_iff ..).mp hkept⟩

/-! ## The statement -/

/-- The checkpoint of a hull whose object is formed (R364). -/
def Ckpt.formed (c : Ckpt) (gtc : Nat) (object : List Byte) (delta : List (Nat × Nat × Word × List Byte)) : Ckpt :=
  { c with
    state := 3, object := object, sent := 0, acked := [], trailer := false, lastAckGtc := gtc, delta := delta,
    reference := (c.reference.filter fun r => !(delta.any fun d => d.1 == r.1 && d.2.1 == r.2.1)) ++ delta.map fun d => (d.1, d.2.1, d.2.2.1) }

/-- The end of an extraction, by what the blocks, the records and the target came to. -/
def State.extractEnd (h : Nat) (p : Prog) (c : Ckpt) (o : State × Option (List (Nat × Nat × Word × List Byte)))
    (r : State × Option (List (List Byte))) (w : State × Option (List Byte)) : State :=
  match o.2, r.2, w.2 with
  | none, _, _ => o.1.ckptFail h 7
  | _, none, _ => r.1.ckptFail h 7
  | _, _, none => w.1.ckptFail h 7
  | some delta, some recs, some target =>
    let s := w.1
    let object := (objParts (s.hull h) h p c delta recs).bytes
    let s := s.setHull h { s.hull h with ckpt := c.formed s.time.gtc object delta }
    if object.length > fieldLe target 0x28 8 then s.ckptFail h 2 else (s.sendSegment h).sendSegment h

/-- EXTRACTION_COMPLETE's work for a hull with a program. -/
def State.extracted (s : State) (h : Nat) (p : Prog) : State :=
  let c := (s.hull h).ckpt
  if c.state ≠ 2 then s
  else
    let o := State.extractAll h p c.full (if c.full then [] else c.reference) (p.blocks p.persistent) (s.drainClear h) []
    let r := o.1.readRecords h p (p.undrained.filter fun n => decide (n ≤ c.step))
    State.extractEnd h p c o r (r.1.windowRead 0x0600 h true c.target 48)

theorem exec_extractionComplete (h : Nat) (s : State) :
    exec (.extractionComplete h []) s = .next (s.meeting [] fun s => match (s.hull h).prog with | some p => s.extracted h p | none => s) := rfl

/-- Settles O30: the object is formed from what was read, and two segments are sent. -/
theorem checkpointDrainCompletes : Obligations.CheckpointDrainCompletes := by
  intro raw h s x c
  refine ⟨fun p hprog hstate hhold => ?extract, fun hstate => ⟨fun htrailer => ?_, fun i hi hacked hne => ?_, fun hlate => ?_, fun port hport => ?_⟩⟩
  case extract =>
    intro o r w
    have ho : o.1.calm := State.extractAll_calm _ _ _ _ _ _ (State.calm_of_mem (State.drainClear_mem ..) ⟨hhold, rfl, rfl⟩)
    have hw : w.1.calm := State.windowRead_calm _ _ _ _ _ (State.readRecords_calm _ _ _ ho)
    have hexec {v : State} (hv : State.extractEnd h p c o r w = v) (hcalm : v.calm) : exec (.extractionComplete h []) raw = .next v.settled := by
      refine congrArg Host.Outcome.next (State.meeting_of_calm ?_ hcalm)
      have hprog' : (raw.settled.hull h).prog = some p := hprog
      simp only [hprog']
      exact (if_neg (not_not_intro hstate)).trans hv
    clear_value w r o
    refine ⟨fun hnone => ?_, fun delta recs target hdelta hrecs htarget => ?_⟩
    · refine hexec ?_ (State.calm_of_mem (State.ckptFail_mem ..) ho)
      simp only [State.extractEnd, hnone]
    · intro object hfits
      let v := w.1.setHull h { w.1.hull h with ckpt := c.formed w.1.time.gtc object delta }
      have hend : State.extractEnd h p c o r w = (v.sendSegment h).sendSegment h := by
        simp only [State.extractEnd, hdelta, hrecs, htarget]
        exact if_neg (Nat.not_lt.mpr hfits)
      clear_value object
      have hv : (v.hull h).ckpt = c.formed w.1.time.gtc object delta := by rw [State.setHull_same]
      have hvmem : v.mem = w.1.mem := State.setHull_mem ..
      have hvtiles : v.tiles = w.1.tiles := State.setHull_tiles ..
      have hvpods : v.pods = w.1.pods := State.setHull_pods ..
      have hvlog : v.log = w.1.log := State.setHull_log ..
      clear_value v
      obtain ⟨u, hu, ⟨hst, hobject, hdel, hsent⟩, hmem, htiles, hpods, hlog⟩ := State.drainBegun v h hv rfl
      refine ⟨_, hexec (hend.trans hu.symm) (State.calm_of_mem (hmem.trans hvmem) hw), hst, hobject, hdel, hsent, ?_, htiles.trans hvtiles, hpods.trans hvpods,
        hlog.trans hvlog⟩
      exact congrArg (fun m : MemS => { m with meets := [], lost := false, stuck := false }) (hmem.trans hvmem)
  · exact congrArg Host.Outcome.next ((if_neg (not_not_intro hstate)).trans (if_pos ⟨rfl, htrailer⟩))
  · refine congrArg Host.Outcome.next ((if_neg (not_not_intro hstate)).trans ((if_neg (fun h => hne h.1)).trans (if_neg ?_)))
    rintro (h | h)
    · exact Nat.not_lt.mpr h hi
    · exact absurd (hacked.symm.trans h) (by decide)
  · exact congrArg Host.Outcome.next (if_pos ⟨hstate, hlate⟩)
  · exact congrArg Host.Outcome.next (if_pos ⟨hstate, hport⟩)

end Sys2Proof.Machine
end

section
/-!
PROOFS. Flits and messages of JV links (R284–R291): what a received flit does by its form and type, and the statement
FlitsAndMessagesAreTakenInOrder.
-/

namespace Sys2Proof.Machine

section Flits

/-- A flit's form is good (R284). -/
def flitGood (f : Flit) : Bool := f.bytes.length == 252 && f.crc == crc32c f.bytes && !f.uncorrectable && decide (flitType f < 3)

theorem flitGood_iff (f : Flit) :
    flitGood f = true ↔ f.bytes.length = 252 ∧ f.crc = crc32c f.bytes ∧ f.uncorrectable = false ∧ flitType f < 3 := by
  simp only [flitGood, Bool.and_eq_true, beq_iff_eq, Bool.not_eq_true', decide_eq_true_eq, and_assoc]

/-- The credits that a CONTROL flit returns. -/
def Bundle.credited (x : Bundle) (f : Flit) : Bundle :=
  { x with credits := (upFrom 0 4).map fun c => min (x.credits.getD c 0 + f.credits.getD c 0) (fullCredits.getD c 0) }

/-- The counts of a replay, where the flit's NAK asks for one. -/
def Bundle.replayed (x : Bundle) (f : Flit) : Bundle :=
  if (x.replayOf f).isEmpty then x else { x with replays := min (x.replays + 1) 0xFFFF, msReplays := x.msReplays + 1 }

/-- The bundle after a flit that is taken, by its type. -/
def Bundle.afterFlit (x : Bundle) (f : Flit) : Bundle :=
  let x := if flitType f = 1 then { x with rxSeq := (x.rxSeq + 1) % 4096 } else x
  if flitType f = 2 then (x.credited f).replayed f else x

/-- A flit that is taken, the bundle with its acknowledgement taken (R286, R288). -/
def State.flitTaken (s : State) (b : Nat) (f : Flit) (x : Bundle) : State :=
  let x := x.afterFlit f
  let s := s.setBundle b x
  let s := if flitType f = 2 ∧ !(x.replayOf f).isEmpty then s.emit (.replay b (x.replayOf f)) else s
  s.pump b

/-- A flit that comes in on a bundle with its counts taken. -/
def State.flitIn (s : State) (b : Nat) (f : Flit) (x : Bundle) : State :=
  let inOrder := flitType f ≠ 1 ∨ flitSeq f = x.rxSeq
  if !flitGood f ∨ !inOrder then (s.setBundle b x).emit (.nak b (BitVec.ofNat 12 x.rxSeq))
  else s.flitTaken b f (x.acked (flitAck f))

/-- FLIT_RECEIVE's work (R284): only an UP bundle takes flits. -/
def State.flitReceived (s : State) (b : Nat) (f : Flit) : State :=
  match (s.bundle b).state with
  | .up => s.flitIn b f ((s.bundle b).counted f s.time.gtc)
  | _ => s

theorem exec_flitReceive (s : State) (b : Nat) (f : Flit) : exec (.flitReceive b f) s = .next (s.flitReceived b f) := rfl

variable {s : State} {b : Nat} {f : Flit} {x : Bundle}

theorem State.flitReceive_up (hup : (s.bundle b).state = .up) :
    exec (.flitReceive b f) s = .next (s.flitIn b f ((s.bundle b).counted f s.time.gtc)) := by
  rw [exec_flitReceive]
  simp only [State.flitReceived, hup]

theorem Bundle.counted_rxSeq (x : Bundle) (f : Flit) (gtc : Nat) : (x.counted f gtc).rxSeq = x.rxSeq := by
  unfold Bundle.counted Bundle.window
  split <;> rfl

theorem State.flitIn_taken (hgood : flitGood f = true) (horder : flitType f ≠ 1 ∨ flitSeq f = x.rxSeq) :
    s.flitIn b f x = s.flitTaken b f (x.acked (flitAck f)) := by
  refine if_neg ?_
  rw [hgood, decide_eq_true horder]
  decide

/-- A flit that is no CONTROL flit replays nothing. -/
theorem State.flitTaken_plain (h : flitType f ≠ 2) :
    s.flitTaken b f x = (s.setBundle b (if flitType f = 1 then { x with rxSeq := (x.rxSeq + 1) % 4096 } else x)).pump b := by
  simp only [State.flitTaken, Bundle.afterFlit, h, if_false, false_and]

theorem Bundle.replayOf_replayed (x : Bundle) (f : Flit) : (x.replayed f).replayOf f = x.replayOf f := by
  unfold Bundle.replayed
  split <;> rfl

/-- A CONTROL flit returns credits; its NAK has flits replayed. -/
theorem State.flitTaken_control {y : Bundle} (h : flitType f = 2) (hy : y = x.credited f) :
    s.flitTaken b f x =
      if y.replayOf f = [] then (s.setBundle b y).pump b
      else ((s.setBundle b { y with replays := min (y.replays + 1) 0xFFFF, msReplays := y.msReplays + 1 }).emit
        (.replay b (y.replayOf f))).pump b := by
  have hafter : x.afterFlit f = y.replayed f := by
    rw [hy, Bundle.afterFlit, if_pos h, if_neg (by omega)]
  unfold State.flitTaken
  rw [hafter]
  dsimp only
  rw [Bundle.replayOf_replayed]
  by_cases hr : y.replayOf f = []
  case pos =>
    have he : (y.replayOf f).isEmpty = true := List.isEmpty_iff.mpr hr
    rw [if_pos hr, if_neg (by rw [he]; simp), Bundle.replayed, if_pos he]
  case neg =>
    have he : ¬ (y.replayOf f).isEmpty = true := fun he => hr (List.isEmpty_iff.mp he)
    rw [if_neg hr, if_pos ⟨h, by simpa using he⟩, Bundle.replayed, if_neg he]

end Flits

/-- Settles O32: a flit is taken or refused by its form, its type and its number; a message by whom it names and what was delivered. -/
theorem flitsAndMessagesAreTakenInOrder : Obligations.FlitsAndMessagesAreTakenInOrder := by
  intro s b hup
  refine ⟨fun f => ?flit, fun m hlen hcls hdev howner hfid => ?msg⟩
  case flit =>
    intro x good
    have hseq : x.rxSeq = (s.bundle b).rxSeq := Bundle.counted_rxSeq ..
    have hexec := State.flitReceive_up (f := f) hup
    refine ⟨fun hgood htype horder => ?data, fun hgood htype => ?idle, fun hgood htype => ?control, fun hbad => ?refused⟩
    case data =>
      intro y
      rw [hexec, State.flitIn_taken ((flitGood_iff f).mpr hgood) (.inr (horder.trans hseq.symm)), State.flitTaken_plain (by omega), if_pos htype]
    case idle =>
      rw [hexec, State.flitIn_taken ((flitGood_iff f).mpr hgood) (.inl (by omega)), State.flitTaken_plain (by omega), if_neg (by omega)]
    case control =>
      intro y credits y'
      rw [hexec, State.flitIn_taken ((flitGood_iff f).mpr hgood) (.inl (by omega)), State.flitTaken_control htype rfl]
      rfl
    case refused =>
      rw [hexec, ← hseq]
      refine congrArg Host.Outcome.next (if_pos ?_)
      rcases hbad with hform | ⟨htype, horder⟩
      · refine .inl ?_
        rw [Bool.not_eq_true', ← Bool.not_eq_true, flitGood_iff]
        exact hform
      · refine .inr ?_
        have hout : ¬ (flitType f ≠ 1 ∨ flitSeq f = x.rxSeq) := by
          rintro (h | h)
          · exact h htype
          · exact horder (h.trans hseq)
        rw [decide_eq_false hout]
        rfl
  case msg =>
    intro v x
    have hgo : ¬ ((s.bundle b).state ≠ .up ∨ m.body.length > 69632 ∨ m.cls > 4 ∨ (s.rst.dev = .recovering ∧ m.cls < 4)) := by
      rintro (h | h | h | h)
      · exact h hup
      · omega
      · omega
      · exact hdev h.1
    have hours : ¬ (m.cls < 4 ∧ (s.bundle b).owner ≠ m.dstHull) := fun h => h.2 howner
    have hexec {w : State} (hw : (if s.delivered m then s
        else
          if m.cls = 4 then v
          else if m.cls < 3 ∧ m.pgen ≠ (v.hull m.dstHull).pgen then
            v.setHull m.dstHull { v.hull m.dstHull with stale := min ((v.hull m.dstHull).stale + 1) 0xFFFFFFFF }
          else { v with jv := { v.jv with inbox := v.jv.inbox ++ [m] } }) = w) : exec (.messageReceive b m) s = .next w :=
      congrArg Host.Outcome.next ((if_neg hgo).trans ((if_neg hours).trans ((if_neg (not_not_intro hfid)).trans hw)))
    refine ⟨fun hdel => hexec (if_pos hdel), fun hdel hgen => hexec ?_, fun hdel hcls' hgen => hexec ?_⟩
    · have hnew : ¬ s.delivered m = true := by rw [hdel]; decide
      refine (if_neg hnew).trans ((if_neg (by omega)).trans (if_neg ?_))
      rintro ⟨h3, hne⟩
      rcases hgen with h | h
      · omega
      · exact hne h
    · have hnew : ¬ s.delivered m = true := by rw [hdel]; decide
      exact (if_neg hnew).trans ((if_neg (by omega)).trans (if_pos ⟨by omega, hgen⟩))

end Sys2Proof.Machine
end

section
/-!
PROOFS. What an access of the program's own machinery leaves alone: the time, and the contributions deferred into the step (R34). Then
the statement CollectiveOperationsTakeTheirInputs (R310, R315–R318, R322).
-/

namespace Sys2Proof.Machine

/-! ## The time and the deferred contributions -/

/-- The clocks, and the contributions deferred into each hull's step. -/
def State.clockAndDeferred (s : State) : TimeS × (Nat → Option (List (Nat × Nat × Nat))) :=
  (s.time, fun h => (s.hull h).prog.map (·.deferred))

section Kept

variable {s v : State}

theorem State.clockAndDeferred_body (s : State) : s.body.clockAndDeferred = s.clockAndDeferred := rfl

theorem State.clockAndDeferred_of_body (h : v.body = s.body) : v.clockAndDeferred = s.clockAndDeferred :=
  State.of_body State.clockAndDeferred State.clockAndDeferred_body h

theorem State.clockAndDeferred_of_contentless (e : v.contentless = s.contentless) : v.clockAndDeferred = s.clockAndDeferred :=
  (congrArg State.clockAndDeferred e :)

theorem State.deferredIn_of_kept (k : v.clockAndDeferred = s.clockAndDeferred) (c : CCtx) (pos : Nat) : v.deferredIn c pos = s.deferredIn c pos := by
  have hd : (v.hull c.h).prog.map (·.deferred) = (s.hull c.h).prog.map (·.deferred) := congrFun (Prod.mk.inj k).2 c.h
  have hof (w : State) : w.deferredIn c pos = ((w.hull c.h).prog.map (·.deferred)).any fun l => l.contains (c.e.op, c.gid, pos) := by
    unfold State.deferredIn
    cases (w.hull c.h).prog <;> rfl
  rw [hof, hof, hd]

/-- A hull replaced keeps its deferred contributions. -/
theorem State.setHull_clockAndDeferred {h : Nat} {x : Hull} (hx : x.prog.map (·.deferred) = (s.hull h).prog.map (·.deferred)) :
    (s.setHull h x).clockAndDeferred = s.clockAndDeferred := by
  refine Prod.ext rfl (funext fun g => ?_)
  dsimp only [State.clockAndDeferred]
  by_cases hg : g = h
  case pos =>
    subst hg
    rw [State.setHull_same, hx]
  case neg => rw [State.setHull_other _ _ _ hg]

theorem State.ringFault_clockAndDeferred (s : State) (r : Nat) : (s.ringFault r).clockAndDeferred = s.clockAndDeferred := by
  have hv (v : State) : (v.hevent r).clockAndDeferred = v.clockAndDeferred := by
    unfold State.hevent
    split <;> rfl
  cases hx : (s.ring r).state with
  | running | draining =>
    simp only [State.ringFault, hx]
    exact hv _
  | disabled | fault => simp only [State.ringFault, hx]

theorem State.reply_clockAndDeferred (s : State) (c : Cmd) (op : Nat) (st : Byte) (f : Params) :
    (s.reply c op st f).clockAndDeferred = s.clockAndDeferred := by
  unfold State.reply
  split
  case isTrue => rfl
  case isFalse =>
    cases c.org with
    | udp e => simp only []; split <;> rfl
    | ring n =>
      cases hx : (s.ring n).state with
      | running | draining =>
        simp only [State.emit_ring, hx]
        split
        case isTrue => exact State.ringFault_clockAndDeferred ..
        case isFalse => split <;> rfl
      | disabled | fault =>
        simp only [State.emit_ring, hx]
        rfl

theorem State.ckptFail_clockAndDeferred (s : State) (h cause : Nat) : (s.ckptFail h cause).clockAndDeferred = s.clockAndDeferred := by
  unfold State.ckptFail
  extract_lets x c v
  have hv : v.clockAndDeferred = s.clockAndDeferred := State.setHull_clockAndDeferred rfl
  have hd : (v.drainClear h).clockAndDeferred = v.clockAndDeferred := foldl_keeps (fun _ _ => by rfl) v _
  exact (State.clockAndDeferred_of_body (State.log1_body ..)).trans (hd.trans hv)

/-- R335: the stop of a program leaves it with its deferred contributions. -/
theorem State.stopHull_clockAndDeferred (s : State) (h reason : Nat) (st : Byte) (freeze : Bool) :
    (s.stopHull h reason st freeze).clockAndDeferred = s.clockAndDeferred := by
  unfold State.stopHull
  extract_lets +onlyGivenNames x
  split
  case h_2 => rfl
  case h_1 p _ hp =>
    extract_lets _ tilesHalted tilesFrozen podsIdle _ withdrawn granted ckptFailed
    have hhalted : tilesHalted.clockAndDeferred = s.clockAndDeferred := foldl_keeps (fun _ _ => by rfl) s _
    have hfrozen : tilesFrozen.clockAndDeferred = tilesHalted.clockAndDeferred := by
      unfold tilesFrozen
      split
      case isTrue => exact foldl_keeps (fun _ _ => by exact foldl_keeps (fun _ _ => by rfl) _ _) _ _
      case isFalse => rfl
    have hidle : podsIdle.clockAndDeferred = tilesFrozen.clockAndDeferred := foldl_keeps (fun _ _ => by rfl) _ _
    have hwithdrawn : withdrawn.clockAndDeferred = s.clockAndDeferred := (hidle.trans (hfrozen.trans hhalted) :)
    have hgranted : granted.clockAndDeferred = withdrawn.clockAndDeferred := by
      refine State.setHull_clockAndDeferred ?_
      have hx := congrFun (Prod.mk.inj hwithdrawn).2 h
      change (s.hull h).prog = some p at hp
      rw [hx, hp]
      rfl
    have hckpt : ckptFailed.clockAndDeferred = granted.clockAndDeferred := by
      unfold ckptFailed
      split
      case isTrue => exact State.ckptFail_clockAndDeferred ..
      case isFalse => rfl
    calc _ = ckptFailed.clockAndDeferred := foldl_keeps (fun _ _ => State.reply_clockAndDeferred ..) _ _
      _ = s.clockAndDeferred := by rw [hckpt, hgranted, hwithdrawn]

theorem State.huskFail_clockAndDeferred (s : State) (src h pod tile tensor index : Nat) (c : Check) :
    (s.huskFail src h pod tile tensor index c).clockAndDeferred = s.clockAndDeferred := by
  cases c with
  | pass | uncorr => rfl
  | fail code want stored =>
    dsimp only [State.huskFail]
    refine (State.clockAndDeferred_of_body ((State.log1_body ..).trans (State.event_body ..))).trans ?_
    refine (State.setHull_clockAndDeferred ?_).trans ?_
    · rw [Option.map_map]
      rfl
    · exact State.clockAndDeferred_of_body (by split <;> exact State.regSat_body ..)

theorem State.huskStop_clockAndDeferred (s : State) (src h pod tile tensor index : Nat) (c : Check) :
    (s.huskStop src h pod tile tensor index c).clockAndDeferred = s.clockAndDeferred :=
  (State.clockAndDeferred_of_body (State.raise_body ..)).trans
    ((State.stopHull_clockAndDeferred ..).trans (State.huskFail_clockAndDeferred ..))

end Kept

/-! ## Reads and writes of a calm state -/

section Accesses

variable {s : State}

theorem State.reject_clockAndDeferred (s : State) (h : Nat) (tierB write : Bool) (off : Nat) :
    (s.reject h tierB write off).clockAndDeferred = s.clockAndDeferred :=
  State.clockAndDeferred_of_body (s := s.free.2) (State.log1_body ..)

theorem State.physReject_clockAndDeferred (s : State) (src h : Nat) (write : Bool) (a size : Nat) :
    (s.physReject src h write a size).clockAndDeferred = s.clockAndDeferred :=
  State.clockAndDeferred_of_body ((State.event_body ..).trans ((State.setReg_body ..).trans (State.log1_body ..)))

theorem State.access_clockAndDeferred (hull : Nat) (u : MemUnit) (row : Nat) (write whole : Bool) (k : s.calm) :
    (s.access hull u row write whole).2.clockAndDeferred = s.clockAndDeferred := by
  obtain ⟨hhold, hmeets, -⟩ := k
  rw [State.access_nil hmeets, hhold u]
  split
  case isTrue =>
    dsimp only
    exact State.physReject_clockAndDeferred ..
  case isFalse =>
    simp only [Bool.false_eq_true, if_false]
    split <;> rfl

theorem State.sawUnwritten_clockAndDeferred (s : State) (h : Nat) (tierB : Bool) (wb : Nat) :
    (s.sawUnwritten h tierB wb).clockAndDeferred = s.clockAndDeferred := by
  unfold State.sawUnwritten
  extract_lets x f
  split
  case isTrue => rfl
  case isFalse => exact State.setHull_clockAndDeferred (by cases tierB <;> rfl)

theorem State.fetchBlk_clockAndDeferred (hull : Nat) (tierB : Bool) (wb : Nat) (k : s.calm) :
    (s.fetchBlk hull tierB wb).1.clockAndDeferred = s.clockAndDeferred := by
  unfold State.fetchBlk
  split
  case h_1 => exact State.reject_clockAndDeferred ..
  case h_2 u row _ =>
    have ha := State.access_clockAndDeferred hull (unitOf tierB u) row false false k
    extract_lets
    split
    case h_1 =>
      dsimp only
      split
      case isTrue => exact (State.sawUnwritten_clockAndDeferred ..).trans ha
      case isFalse => exact ha
    case h_2 => exact ha
    case h_3 => exact ha

theorem State.checkBlk_clockAndDeferred (hull : Nat) (tierB : Bool) (wb : Nat) (tag : Option Nat) (k : s.calm) :
    (s.checkBlk hull tierB wb tag).1.clockAndDeferred = s.clockAndDeferred := by
  have hf := State.fetchBlk_clockAndDeferred hull tierB wb k
  unfold State.checkBlk
  split
  case h_1 heq => rwa [heq] at hf
  case h_2 heq => rwa [heq] at hf

theorem readBlocks_clockAndDeferred (hull : Nat) (tierB : Bool) (base tensor : Nat) (l : List Nat) (o : ReadOut) (k : o.st.calm) :
    (readBlocks hull tierB base tensor l o).st.clockAndDeferred = o.st.clockAndDeferred := by
  induction l generalizing o with
  | nil => rfl
  | cons i r ih =>
    have hc := State.checkBlk_calm hull tierB (base + i) (some (huskTag tensor i)) k
    have hkept := State.checkBlk_clockAndDeferred hull tierB (base + i) (some (huskTag tensor i)) k
    unfold readBlocks
    split
    case h_1 => rfl
    case h_2 =>
      split
      case h_1 heq =>
        rw [heq] at hc hkept
        exact (ih _ hc).trans hkept
      case h_2 heq => rwa [heq] at hkept

theorem State.collRead_clockAndDeferred (h : Nat) (p : Prog) (tensor off len : Nat) (k : s.calm) :
    (s.collRead h p tensor off len).st.clockAndDeferred = s.clockAndDeferred := by
  unfold State.collRead
  split
  case h_1 => exact readBlocks_clockAndDeferred _ _ _ _ _ _ k
  case h_2 => rfl

theorem State.collTake_clockAndDeferred (h : Nat) (p : Prog) (tensor off len : Nat) (k : s.calm) :
    (s.collTake h p tensor off len).1.clockAndDeferred = s.clockAndDeferred := by
  have ho := State.collRead_clockAndDeferred h p tensor off len k
  unfold State.collTake
  extract_lets o
  change o.st.clockAndDeferred = s.clockAndDeferred at ho
  clear_value o
  split
  case h_1 =>
    dsimp only
    exact (State.huskStop_clockAndDeferred ..).trans ho
  case h_2 => exact ho

theorem State.storeBlk_clockAndDeferred (hull : Nat) (tierB : Bool) (wb lo : Nat) (whole : Bool) (f : Blk → Blk) (k : s.calm) :
    (s.storeBlk hull tierB wb lo whole f).clockAndDeferred = s.clockAndDeferred := by
  unfold State.storeBlk
  split
  case h_1 => exact State.reject_clockAndDeferred ..
  case h_2 u row _ =>
    have ha := State.access_clockAndDeferred hull (unitOf tierB u) row true whole k
    generalize s.access hull (unitOf tierB u) row true whole = r at ha
    dsimp only
    split
    case h_1 => exact (State.clockAndDeferred_of_contentless (State.putBlk_contentless ..)).trans ha
    case h_2 => exact ha
    case h_3 => exact ha

theorem State.writeRange_clockAndDeferred (hull : Nat) (tierB : Bool) (base tensor off : Nat) (bytes : List Byte) (k : s.calm) :
    (s.writeRange hull tierB base tensor off bytes).clockAndDeferred = s.clockAndDeferred := by
  refine (List.foldlRecOn (motive := fun v : State => v.calm ∧ v.clockAndDeferred = s.clockAndDeferred) _ _ ⟨k, rfl⟩ fun v hv i _ => ?_).2
  exact ⟨State.writePart_calm _ _ _ _ _ _ hv.1, (State.storeBlk_clockAndDeferred _ _ _ _ _ _ hv.1).trans hv.2⟩

theorem State.collWrite_clockAndDeferred (h tensor off : Nat) (b : List Byte) (k : s.calm) :
    (s.collWrite h tensor off b).clockAndDeferred = s.clockAndDeferred := by
  unfold State.collWrite
  split
  case h_1 tierB base _ =>
    have hw := State.writeRange_clockAndDeferred h tierB base tensor off b k
    unfold State.stopIfLost
    split
    case isTrue => exact (State.huskStop_clockAndDeferred ..).trans hw
    case isFalse => exact hw
  case h_2 => rfl

end Accesses

/-! ## A start takes its inputs (R310, R322) -/

/-- The state after a start has taken START_AMOUNT from its counter. -/
def State.startTaken (s : State) (c : CCtx) (o : SyncObj) : State :=
  { s with sync := tput s.sync c.e.startId ({ o with value := o.value - c.e.startAmount } : SyncObj).advance }

/-- What a start does once its counter `o` holds START_AMOUNT: it takes that, reads SRC, and takes what is deferred into the operation. -/
def State.collAcquired (s : State) (h op : Nat) (c : CCtx) (p : Prog) (o : SyncObj) : State :=
  let r := s.opRun h op
  let s := s.startTaken c o
  let src := s.collRead h p c.e.src 0 c.srcBytes
  let need := c.e.kind != ckRotate || r.starts == 0
  match (if need then src.bad else none) with
  | some (i, k) => src.st.huskStop 0x0600 h 0xFF 0xFF c.e.src i k
  | none =>
    let late := s.decidedOf c r
    let s := if need then src.st else s
    let s := if late = some 1 then s.collWrite h c.e.defer 0 src.data else s
    let due := s.deferredIn c c.me && c.e.defer != 0 && decide (c.e.kind ≠ ckRotate)
    let dr := if due then s.collTake h p c.e.defer 0 c.srcBytes else (s, none)
    if due && dr.2.isNone then dr.1
    else
      let s := dr.1
      let r := { r with starts := r.starts + 1, contrib := if need then src.data else r.contrib,
                        deferIn := if late.isSome then none else dr.2,
                        openGtc := if r.starts = 0 then s.time.gtc else r.openGtc,
                        records := if c.e.kind = ckExact then r.records ++ [c.ownRecord src.data] else r.records }
      (s.setRun h r).progressGroup h c.gid

/-- A start of an operation of a running hull. -/
def State.collStarted (s : State) (h op : Nat) (c : CCtx) (p : Prog) : State :=
  let r := s.opRun h op
  let more := if c.e.kind = ckRotate then decide (r.starts < c.e.defer % 65536 ∧ r.starts = r.rounds) else r.starts == 0
  if !more then s
  else if c.g.state ≠ 2 ∨ c.g.hull ≠ h then (((s.stopHull h 3 sFAULT true).collRec h c.gid op 0 0 c.step).raise 98)
  else
    match tfind s.sync c.e.startId with
    | some o =>
      let ready := o.kind == 0 && o.hull == h && o.waiters.isEmpty && decide (c.e.startAmount ≤ o.value)
      if !ready then s else s.collAcquired h op c p o
    | none => s

/-- A command on an operation of a hull's program. -/
def State.collOp (s : State) (h op : Nat) (f : State → CCtx → Prog → State) : State :=
  match s.cctx h op, (s.hull h).prog, (s.hull h).state with
  | some c, some p, .running => f s c p
  | _, _, _ => s

theorem exec_collOpStart (h op : Nat) (raw : State) :
    exec (.collOpStart h op []) raw = .next (raw.meeting [] fun s => s.collOp h op fun s c p => s.collStarted h op c p) := rfl

section Start

variable {raw s v : State} {h op : Nat} {c : CCtx} {p : Prog}

theorem State.collOp_of_running (hc : s.cctx h op = some c) (hp : (s.hull h).prog = some p) (hr : (s.hull h).state = .running)
    (f : State → CCtx → Prog → State) : s.collOp h op f = f s c p := by
  simp only [State.collOp, hc, hp, hr]

/-- A first start begins where its group is as it must be and its counter holds enough. -/
theorem State.collStarted_first (hstarts : (s.opRun h op).starts = 0)
    (hrotate : c.e.kind = ckRotate → 0 < c.e.defer % 65536 ∧ (s.opRun h op).rounds = 0) :
    s.collStarted h op c p =
      if c.g.state ≠ 2 ∨ c.g.hull ≠ h then (((s.stopHull h 3 sFAULT true).collRec h c.gid op 0 0 c.step).raise 98)
      else
        match tfind s.sync c.e.startId with
        | some o =>
          if !(o.kind == 0 && o.hull == h && o.waiters.isEmpty && decide (c.e.startAmount ≤ o.value)) then s else s.collAcquired h op c p o
        | none => s := by
  have hmore : (if c.e.kind = ckRotate then decide ((s.opRun h op).starts < c.e.defer % 65536 ∧ (s.opRun h op).starts = (s.opRun h op).rounds)
      else (s.opRun h op).starts == 0) = true := by
    split
    case isTrue hk =>
      obtain ⟨hd, hr⟩ := hrotate hk
      simp only [hstarts, hr, hd, and_self, decide_true]
    case isFalse => simp only [hstarts, beq_self_eq_true]
  unfold State.collStarted
  dsimp only
  rw [hmore]
  rfl

/-- A range of clean blocks reads whole, before and after a change that leaves memory alone. -/
theorem State.collRead_of_clean {tensor off len : Nat} (hm : s.mem.meets = []) (hc : s.cleanRange h p tensor off len) (k : s.sameMemory v) :
    v.collRead h p tensor off len = { st := v, data := (s.collRead h p tensor off len).data, bad := none } := by
  obtain ⟨tierB, base, hplace, hclean⟩ := hc
  simp only [State.collRead, hplace]
  exact k.readRange hm hclean

/-- The records of a run with this member's own, in an exact operation. -/
theorem OpRun.records_acquired (r : OpRun) (data : List Byte) :
    (if c.e.kind = ckExact then r.records ++ [c.ownRecord data] else r.records) =
      r.records ++ (if c.e.kind = ckExact then some (c.ownRecord data) else none).toList := by
  split <;> simp

/-- A contribution is deferred into this member's operation, and there is a tensor for it. -/
def State.deferDue (s : State) (c : CCtx) : Bool := s.deferredIn c c.me && c.e.defer != 0 && decide (c.e.kind ≠ ckRotate)

/-- This member's own record of an exact operation. -/
def CCtx.ownRecord? (c : CCtx) (data : List Byte) : Option ExactRecord := if c.e.kind = ckExact then some (c.ownRecord data) else none

/-- A first start whose SRC reads whole: a contribution decided as deferred goes to DEFER (`w`), then the one deferred into the
operation is taken (`dr`). -/
theorem State.collAcquired_read {o : SyncObj} (hm : s.mem.meets = []) (hstarts : (s.opRun h op).starts = 0)
    (hsrc : s.cleanRange h p c.e.src 0 c.e.bytes) {data : List Byte} (hdata : (s.collRead h p c.e.src 0 c.e.bytes).data = data) {w : State}
    (hw : (if s.decidedOf c (s.opRun h op) = some 1 then (s.startTaken c o).collWrite h c.e.defer 0 data else s.startTaken c o) = w)
    {dr : State × Option (List Byte)} (hdr : (if w.deferDue c then w.collTake h p c.e.defer 0 c.e.bytes else (w, none)) = dr) :
    s.collAcquired h op c p o =
      if w.deferDue c && dr.2.isNone then dr.1
      else (dr.1.setRun h ((s.opRun h op).acquired dr.1.time.gtc data (if (s.decidedOf c (s.opRun h op)).isSome then none else dr.2)
        (c.ownRecord? data))).progressGroup h c.gid := by
  have hread : (s.startTaken c o).collRead h p c.e.src 0 c.srcBytes = { st := s.startTaken c o, data := data, bad := none } := by
    rw [← hdata]
    exact State.collRead_of_clean hm hsrc ⟨rfl, rfl, rfl, rfl⟩
  have hneed : (c.e.kind != ckRotate || (s.opRun h op).starts == 0) = true := by simp only [hstarts, beq_self_eq_true, Bool.or_true]
  subst hdr hw
  unfold State.collAcquired
  dsimp only
  rw [hread, hneed]
  dsimp only [if_true]
  rw [OpRun.records_acquired]
  rfl

/-- A contribution that is not decided as deferred is taken in with what is deferred into the operation. -/
theorem State.collAcquired_kept {o : SyncObj} (hm : s.mem.meets = []) (hstarts : (s.opRun h op).starts = 0)
    (hsrc : s.cleanRange h p c.e.src 0 c.e.bytes) {data : List Byte} (hdata : (s.collRead h p c.e.src 0 c.e.bytes).data = data)
    (hdecided : s.decidedOf c (s.opRun h op) ≠ some 1) (hdefer : s.deferDue c = true → s.cleanRange h p c.e.defer 0 c.e.bytes) :
    s.collAcquired h op c p o = ((s.startTaken c o).setRun h ((s.opRun h op).acquired s.time.gtc data
      (if s.deferDue c = true ∧ s.decidedOf c (s.opRun h op) = none then some (s.collRead h p c.e.defer 0 c.e.bytes).data else none)
      (c.ownRecord? data))).progressGroup h c.gid := by
  have hdue : (s.startTaken c o).deferDue c = s.deferDue c := rfl
  rw [State.collAcquired_read hm hstarts hsrc hdata (if_neg hdecided) rfl, hdue]
  cases hd : s.deferDue c with
  | false =>
    simp only [Bool.false_eq_true, if_false, Bool.false_and, false_and, ite_self]
    rfl
  | true =>
    have htake : (s.startTaken c o).collTake h p c.e.defer 0 c.e.bytes =
        (s.startTaken c o, some (s.collRead h p c.e.defer 0 c.e.bytes).data) := by
      rw [State.collTake, State.collRead_of_clean hm (hdefer hd) (v := s.startTaken c o) ⟨rfl, rfl, rfl, rfl⟩]
    rw [if_pos rfl, htake]
    cases hk : s.decidedOf c (s.opRun h op) <;> simp [State.startTaken]

/-- A contribution decided as deferred goes to DEFER. -/
theorem State.collAcquired_deferred {o : SyncObj} (k : s.calm) (hstarts : (s.opRun h op).starts = 0)
    (hsrc : s.cleanRange h p c.e.src 0 c.e.bytes) {data : List Byte} (hdata : (s.collRead h p c.e.src 0 c.e.bytes).data = data)
    (hdecided : s.decidedOf c (s.opRun h op) = some 1) {w : State} (hw : (s.startTaken c o).collWrite h c.e.defer 0 data = w) :
    (s.deferDue c = false → s.collAcquired h op c p o =
      (w.setRun h ((s.opRun h op).acquired s.time.gtc data none (c.ownRecord? data))).progressGroup h c.gid) ∧
    (s.deferDue c = true → (w.collTake h p c.e.defer 0 c.e.bytes).2 ≠ none → s.collAcquired h op c p o =
      ((w.collTake h p c.e.defer 0 c.e.bytes).1.setRun h
        ((s.opRun h op).acquired s.time.gtc data none (c.ownRecord? data))).progressGroup h c.gid) := by
  have hcalm : w.calm := hw ▸ State.collWrite_calm _ _ _ _ (State.calm_of_mem (s := s) rfl k)
  have hkept : w.clockAndDeferred = s.clockAndDeferred :=
    hw ▸ State.collWrite_clockAndDeferred (s := s.startTaken c o) _ _ _ _ (State.calm_of_mem (s := s) rfl k)
  have htime : w.time = s.time := (Prod.mk.inj hkept).1
  have hdue : w.deferDue c = s.deferDue c := by
    unfold State.deferDue
    rw [State.deferredIn_of_kept hkept]
  rw [State.collAcquired_read k.meets hstarts hsrc hdata ((if_pos hdecided).trans hw) rfl, hdue, hdecided]
  constructor
  · intro hd
    simp only [hd, Bool.false_eq_true, if_false, Bool.false_and, Option.isSome_some, if_true, htime]
  · intro hd hsome
    have htaken : (w.collTake h p c.e.defer 0 c.e.bytes).1.time = s.time :=
      (Prod.mk.inj ((State.collTake_clockAndDeferred h p c.e.defer 0 c.e.bytes hcalm).trans hkept)).1
    simp only [hd, if_true, Bool.true_and, Option.isNone_iff_eq_none, hsome, if_false, Option.isSome_some, htaken]

/-- A start ends in a calm state. -/
theorem State.acquired_calm (r : OpRun) (gid : Nat) (k : s.calm) : ((s.setRun h r).progressGroup h gid).calm :=
  State.progressGroup_calm _ _ (State.calm_of_mem (State.setRun_mem ..) k)

/-- A start whose counter holds enough. -/
theorem State.collStarted_ready {o : SyncObj} (hstarts : (s.opRun h op).starts = 0)
    (hrotate : c.e.kind = ckRotate → 0 < c.e.defer % 65536 ∧ (s.opRun h op).rounds = 0) (hactive : c.g.state = 2) (hhull : c.g.hull = h)
    (ho : tfind s.sync c.e.startId = some o) (hkind : o.kind = 0) (howner : o.hull = h) (hwaiters : o.waiters = [])
    (henough : c.e.startAmount ≤ o.value) : s.collStarted h op c p = s.collAcquired h op c p o := by
  rw [State.collStarted_first hstarts hrotate, if_neg (by simp [hactive, hhull]), ho]
  simp [hkind, howner, hwaiters, henough]

end Start

/-! ## A chunk lands (R58, R316–R318) -/

/-- What the chunks `q` of a message do to an operation of the current EPOCH. -/
def State.chunkTaken (s : State) (h : Nat) (c : CCtx) (q : ChunkIn) : State :=
  match chunkBad c q with
  | some (i, ck) => s.huskStop 0x0600 h 0xFF 0xFF c.e.dst i ck
  | none =>
    let r := s.opRun h q.op
    let dup := r.chunks.any fun e => e.phase == q.chunk.phase && e.stage == q.chunk.stage && e.piece == q.chunk.piece
      && e.chunk == q.chunk.chunk && e.sender == q.chunk.sender
    let r := { r with chunks := if dup then r.chunks else r.chunks ++ [q.chunk],
                      firstMsgGtc := some (r.firstMsgGtc.getD s.time.gtc) }
    let s := s.setRun h r
    if r.digestBad c q.chunk then
      ((((s.event evColl 2 514).collRec h c.gid q.op q.chunk.piece q.chunk.sender c.step).stopHull h 3 sFAULT true).raise 98)
    else ((s.landGather c q.chunk).progressGroup h c.gid)

/-- What message `m` of the inbox, at place `k`, does to a hull. -/
def State.chunkIn (s : State) (h k : Nat) (m : Msg) : State :=
  let q := readChunk m
  if m.cls ≠ 0 ∨ m.dstHull ≠ h ∨ m.body.length < 32 ∨ (m.body.length - 32) % 4104 ≠ 0 ∨ (s.hull h).state ≠ .running then s
  else if s.msgStale m then s.dropStale k h
  else
    match s.cctx h q.op with
    | none => s
    | some c =>
      let s := s.takeInbox k
      let g := s.group q.gid
      if c.gid ≠ q.gid then s
      else if q.epoch ≠ g.epoch ∧ !newer 8 q.epoch.toNat g.epoch.toNat then
        s.setGroup q.gid { g with stale := min (g.stale + 1) 0xFFFF }
      else s.chunkTaken h c q

theorem exec_chunkReceive (h k : Nat) (raw : State) :
    exec (.chunkReceive h k []) raw = .next (raw.meeting [] fun s => match s.jv.inbox[k]? with | some m => s.chunkIn h k m | none => s) := rfl

/-- A record of an exact operation, at a member of its group. -/
def State.exactIn (s : State) (h : Nat) (c : CCtx) (r : ExactRecord) : State :=
  let run := s.opRun h r.op
  if c.gid ≠ r.group ∨ c.e.kind ≠ ckExact ∨ r.step ≠ c.step ∨ (s.hull h).state ≠ .running then s
  else if c.alive c.me ∧ c.me ≠ c.root ∧ r.pos = c.parent c.me ∧ !r.heir then (s.exactResult c r).progressGroup h c.gid
  else if !c.alive c.me then
    if c.posOf (c.heirOf c.me) = some r.pos then (s.exactResult c r).progressGroup h c.gid else s
  else if run.records.any fun k => k.pos == r.pos && k.heir == r.heir then s
  else (s.setRun h { run with records := run.records ++ [r] }).progressGroup h c.gid

theorem exec_exactRecord (h : Nat) (e : ExactRecord) (raw : State) :
    exec (.exactRecord h e) raw = .next (raw.meeting [] fun s => match s.cctx h e.op with | some c => s.exactIn h c e | none => s) := rfl

section Chunks

variable {s : State} {h k op : Nat} {m : Msg} {c : CCtx} {q : ChunkIn}

/-- A message that is a chunk for a running hull. -/
theorem State.chunkIn_of_chunk (hcls : m.cls = 0) (hdst : m.dstHull = h) (hlen : 32 ≤ m.body.length)
    (hmod : (m.body.length - 32) % 4104 = 0) (hrun : (s.hull h).state = .running) (hc : s.cctx h (readChunk m).op = some c)
    (hgid : (readChunk m).gid = c.gid) :
    s.chunkIn h k m =
      if m.pgen ≠ (s.hull h).pgen then (s.takeInbox k).countStale h
      else if (readChunk m).epoch ≠ (s.group c.gid).epoch ∧ newer 8 (readChunk m).epoch.toNat (s.group c.gid).epoch.toNat = false then
        (s.takeInbox k).setGroup c.gid { s.group c.gid with stale := min ((s.group c.gid).stale + 1) 0xFFFF }
      else (s.takeInbox k).chunkTaken h c (readChunk m) := by
  have hstale : (s.msgStale m = true) = (m.pgen ≠ (s.hull h).pgen) := by
    unfold State.msgStale
    rw [hdst, bne_iff_ne]
  have hgroup (g : Nat) : (s.takeInbox k).group g = s.group g := rfl
  unfold State.chunkIn
  rw [if_neg (by simp only [hcls, hdst, hmod, hrun, ne_eq, not_true_eq_false, false_or, or_false]; omega)]
  simp only [hstale, hc, hgid, ne_eq, not_true_eq_false, if_false, hgroup, Bool.not_eq_true']
  rfl

/-- A chunk's blocks, and its piece's digest, decide what it does. -/
theorem State.chunkTaken_of_good (hop : q.op = op) (hgood : chunkBad c q = none) :
    s.chunkTaken h c q =
      if ((s.opRun h op).received q.chunk s.time.gtc).digestBad c q.chunk then
        (((((s.setRun h ((s.opRun h op).received q.chunk s.time.gtc)).event evColl 2 514).collRec h c.gid op q.chunk.piece q.chunk.sender
          c.step).stopHull h 3 sFAULT true).raise 98)
      else ((s.setRun h ((s.opRun h op).received q.chunk s.time.gtc)).landGather c q.chunk).progressGroup h c.gid := by
  simp only [State.chunkTaken, hgood, hop]
  rfl

end Chunks

section Records

variable {s : State} {h : Nat} {c : CCtx} {e : ExactRecord}

/-- A record that is the result of its operation at this member: from the parent, or at a lost position from its heir. -/
def CCtx.resultHere (c : CCtx) (e : ExactRecord) : Bool :=
  if c.alive c.me then decide (c.me ≠ c.root ∧ e.pos = c.parent c.me ∧ e.heir = false) else decide (c.posOf (c.heirOf c.me) = some e.pos)

/-- R315: a record of this step is the result, or is dropped as known, or is kept. -/
theorem State.exactIn_of_step (hgroup : e.group = c.gid) (hkind : c.e.kind = ckExact) (hstep : e.step = c.step)
    (hrun : (s.hull h).state = .running) :
    s.exactIn h c e =
      if c.resultHere e then (s.exactResult c e).progressGroup h c.gid
      else if c.alive c.me = false ∨ ((s.opRun h e.op).records.any fun k => k.pos == e.pos && k.heir == e.heir) then s
      else (s.setRun h { s.opRun h e.op with records := (s.opRun h e.op).records ++ [e] }).progressGroup h c.gid := by
  unfold State.exactIn CCtx.resultHere
  rw [if_neg (by simp only [hgroup, hkind, hstep, hrun, ne_eq, not_true_eq_false, or_self, not_false_eq_true])]
  cases halive : c.alive c.me with
  | false => simp
  | true => simp

end Records

/-- Settles O34: a start whose SRC reads whole takes its contribution in, deferred ones going where they are due; a chunk of the current
EPOCH and generation lands, a stale one is counted; a record of the exact lane is kept, or is the result. -/
theorem collectiveOperationsTakeTheirInputs : Obligations.CollectiveOperationsTakeTheirInputs := by
  unfold Obligations.CollectiveOperationsTakeTheirInputs
  intro raw h op c p hhold s hc hp hrun r
  have kcalm : s.calm := State.settled_calm hhold
  refine ⟨?start, ?chunk, ?record⟩
  case start =>
    intro o hstarts hrotate
    have hexec {v : State} (hv : s.collStarted h op c p = v) (k : v.calm) : exec (.collOpStart h op []) raw = .next v.settled := by
      rw [exec_collOpStart]
      exact congrArg Host.Outcome.next (State.meeting_of_calm ((State.collOp_of_running hc hp hrun _).trans hv) k)
    refine ⟨?inactive, ?ready⟩
    case inactive =>
      intro hg
      refine hexec ((State.collStarted_first hstarts hrotate).trans (if_pos hg)) (State.calm_of_mem ?_ kcalm)
      exact (State.raise_mem ..).trans ((State.collRec_mem ..).trans (State.stopHull_mem ..))
    case ready =>
      intro hactive hhull ho hkind howner hwaiters henough hsrc v data own due
      have hstarted := State.collStarted_ready hstarts hrotate hactive hhull ho hkind howner hwaiters henough (p := p)
      refine ⟨?kept, ?deferred⟩
      case kept =>
        intro hdecided hdefer
        exact hexec (hstarted.trans (State.collAcquired_kept kcalm.meets hstarts hsrc rfl hdecided hdefer))
          (State.acquired_calm _ _ (State.calm_of_mem (s := s) rfl kcalm))
      case deferred =>
        intro hdecided w dr
        obtain ⟨hnone, hdue⟩ := State.collAcquired_deferred (o := o) kcalm hstarts hsrc rfl hdecided rfl
        have kw : w.calm := State.collWrite_calm _ _ _ _ (State.calm_of_mem (s := s) rfl kcalm)
        refine ⟨fun hd => hexec (hstarted.trans (hnone hd)) (State.acquired_calm _ _ kw), fun hd hsome => ?_⟩
        exact hexec (hstarted.trans (hdue hd hsome)) (State.acquired_calm _ _ (State.collTake_calm _ _ _ _ _ kw))
  case chunk =>
    intro k m hm hcls hdst hlen hmod q hop hgid v g old w
    subst hop
    have hin := State.chunkIn_of_chunk (k := k) hcls hdst hlen hmod hrun hc hgid
    have kv : v.calm := State.calm_of_mem (s := s) rfl kcalm
    have hexec {u : State} (hu : s.chunkIn h k m = u) (ku : u.calm) : exec (.chunkReceive h k []) raw = .next u.settled := by
      rw [exec_chunkReceive]
      refine congrArg Host.Outcome.next (State.meeting_of_calm ?_ ku)
      change (match s.jv.inbox[k]? with | some m => s.chunkIn h k m | none => s) = u
      rw [hm]
      exact hu
    refine ⟨?stale, ?old, ?taken⟩
    case stale =>
      intro hgen
      exact hexec (hin.trans (if_pos hgen)) (State.calm_of_mem (State.countStale_mem ..) kv)
    case old =>
      intro hgen hold
      exact hexec (hin.trans ((if_neg (not_not_intro hgen)).trans (if_pos hold))) (State.calm_of_mem (s := v) rfl kv)
    case taken =>
      intro hgen hnew
      have htaken := hin.trans ((if_neg (not_not_intro hgen)).trans (if_neg hnew))
      have kw : w.calm := State.calm_of_mem (State.setRun_mem ..) kv
      refine ⟨?bad, ?digest, ?good⟩
      case bad =>
        intro i ck hbad
        refine hexec (htaken.trans ?_) (State.calm_of_mem (State.huskStop_mem ..) kv)
        rw [State.chunkTaken, hbad]
      case digest =>
        intro hgood hdigest
        refine hexec (htaken.trans ((State.chunkTaken_of_good rfl hgood).trans (if_pos hdigest))) (State.calm_of_mem ?_ kw)
        exact (State.raise_mem ..).trans ((State.stopHull_mem ..).trans ((State.collRec_mem ..).trans (State.event_mem ..)))
      case good =>
        intro hgood hdigest
        refine hexec (htaken.trans ((State.chunkTaken_of_good rfl hgood).trans (if_neg (Bool.eq_false_iff.mp hdigest)))) ?_
        exact State.progressGroup_calm _ _ (State.landGather_calm _ _ kw)
  case record =>
    intro e hop hgroup hkind hstep result known
    have hexec {u : State} (hu : s.exactIn h c e = u) (ku : u.calm) : exec (.exactRecord h e) raw = .next u.settled := by
      rw [exec_exactRecord]
      refine congrArg Host.Outcome.next (State.meeting_of_calm ?_ ku)
      change (match s.cctx h e.op with | some c => s.exactIn h c e | none => s) = u
      rw [hop, hc]
      exact hu
    have hin := State.exactIn_of_step hgroup hkind hstep hrun
    rw [hop] at hin
    refine ⟨?result, ?dropped, ?kept⟩
    case result =>
      intro hr
      exact hexec (hin.trans (if_pos hr)) (State.progressGroup_calm _ _ (State.exactResult_calm _ _ kcalm))
    case dropped =>
      intro hr hdrop
      exact hexec (u := s) (hin.trans ((if_neg (Bool.eq_false_iff.mp hr)).trans (if_pos hdrop.symm))) kcalm
    case kept =>
      intro hr hknown halive
      have hkeep : ¬ (c.alive c.me = false ∨ known = true) := by simp [hknown, halive]
      exact hexec (hin.trans ((if_neg (Bool.eq_false_iff.mp hr)).trans (if_neg hkeep))) (State.acquired_calm _ _ kcalm)

end Sys2Proof.Machine
end

section
/-!
PROOFS. Late and lost members, re-forms and twins: the statements LateAndLostMembersAreDecided (R319–R323) and ReformsAndTwinsTakeEffect
(R269–R277, R324–R326).
-/

namespace Sys2Proof.Machine

section Context

variable {s : State} {h op : Nat} {c : CCtx}

/-- The context of an operation is that of its hull and entry. -/
theorem State.cctx_names (hc : s.cctx h op = some c) : c.h = h ∧ c.e.op = op := by
  unfold State.cctx at hc
  obtain ⟨e, he, rfl⟩ := Option.map_eq_some_iff.mp hc
  obtain ⟨p, hp, hcoll⟩ := Option.bind_eq_some_iff.mp he
  exact ⟨rfl, beq_iff_eq.mp (List.find?_some hcoll :)⟩

/-- A run replaced leaves the deferred contributions of its hull. -/
theorem State.setRun_clockAndDeferred (s : State) (h : Nat) (r : OpRun) : (s.setRun h r).clockAndDeferred = s.clockAndDeferred := by
  refine State.setHull_clockAndDeferred ?_
  rw [Option.map_map]
  rfl

end Context

/-! ## Decisions (R319–R321) -/

/-- What LATE_DECISION does to an operation of a program. -/
def State.lateDecided (s : State) (h op : Nat) (c : CCtx) (p : Prog) : State :=
  let r := s.opRun h op
  let late := match r.firstMsgGtc with | some g => decide (s.time.gtc - g ≥ 1000 * c.g.lateUs) | none => false
  let reducing := c.e.kind = ckAllReduce ∨ c.e.kind = ckReduceScatter ∨ c.e.kind = ckDirect
  if p.isReplay ∨ c.g.policy = 0 ∨ !reducing ∨ r.starts ≠ 0 ∨ r.decided.isSome ∨ !late ∨ (s.hull h).state ≠ .running then s
  else
    let s := (s.setRun h { r with decided := some c.g.policy, openGtc := s.time.gtc }).event evColl 0 512
    (s.announce c).progressGroup h c.gid

theorem exec_lateDecision (h op : Nat) (raw : State) :
    exec (.lateDecision h op) raw = .next (raw.meeting [] fun s =>
      match s.cctx h op, (s.hull h).prog with | some c, some p => s.lateDecided h op c p | _, _ => s) := rfl

/-- What a decision's message does to an operation. -/
def State.decisionIn (s : State) (h : Nat) (d : Decision) (c : CCtx) : State :=
  let r := s.opRun h d.op
  let known := r.decisions.contains d
  let old := d.epoch ≠ c.g.epoch.toNat ∧ !newer 8 d.epoch c.g.epoch.toNat
  if c.gid ≠ d.group ∨ d.step ≠ c.step ∨ old ∨ !c.alive d.pos ∨ (s.hull h).state ≠ .running then s
  else
    let s := if known then s else s.addDecision c d
    (s.passDecision c d (!known)).progressGroup h c.gid

theorem exec_decisionMessage (h : Nat) (d : Decision) (raw : State) :
    exec (.decisionMessage h d) raw = .next (raw.meeting [] fun s =>
      match s.cctx h d.op with | some c => s.decisionIn h d c | none => s) := rfl

section Decisions

variable {s : State} {h op : Nat} {c : CCtx} {p : Prog} {d : Decision}

/-- A decision made now is this member's own, whatever has been noted of the run. -/
theorem State.announce_of_kept {v : State} (hc : s.cctx h op = some c) (k : v.clockAndDeferred = s.clockAndDeferred) :
    v.announce c =
      (v.addDecision c { group := c.gid, op := op, step := c.step, epoch := c.g.epoch.toNat, pos := c.me,
                         kinds := (if c.g.policy = 1 then 1 else 2) :: (if s.deferredIn c c.me then [2] else []) }).passDecision c
        { group := c.gid, op := op, step := c.step, epoch := c.g.epoch.toNat, pos := c.me,
          kinds := (if c.g.policy = 1 then 1 else 2) :: (if s.deferredIn c c.me then [2] else []) } true := by
  obtain ⟨-, rfl⟩ := State.cctx_names hc
  rw [State.announce, State.ownDecision, State.deferredIn_of_kept k]

theorem State.announced_calm (gid : Nat) (first : Bool) (k : s.calm) :
    (((s.addDecision c d).passDecision c d first).progressGroup h gid).calm :=
  State.progressGroup_calm _ _ (State.calm_of_mem ((State.passDecision_mem ..).trans (State.addDecision_mem ..)) k)

/-- R319, R320: what makes a contribution late. -/
theorem State.lateDecided_of_late {g : Nat} (hrun : (s.hull h).state = .running) (hreplay : p.isReplay = false)
    (hpolicy : c.g.policy ≠ 0) (hkind : c.e.kind = ckAllReduce ∨ c.e.kind = ckReduceScatter ∨ c.e.kind = ckDirect)
    (hstarts : (s.opRun h op).starts = 0) (hopen : (s.opRun h op).decided = none) (hmsg : (s.opRun h op).firstMsgGtc = some g)
    (hlate : 1000 * c.g.lateUs ≤ s.time.gtc - g) :
    s.lateDecided h op c p =
      ((((s.setRun h { s.opRun h op with decided := some c.g.policy, openGtc := s.time.gtc }).event evColl 0 512).announce c).progressGroup
        h c.gid) := by
  unfold State.lateDecided
  refine if_neg ?_
  simp [hreplay, hpolicy, hkind, hstarts, hopen, hmsg, hlate, hrun]

/-- R321: a decision of this step about a member that takes part is taken once, and passed on. -/
theorem State.decisionIn_of_open (hrun : (s.hull h).state = .running) (hgroup : d.group = c.gid) (hstep : d.step = c.step)
    (hepoch : d.epoch = c.g.epoch.toNat) (halive : c.alive d.pos = true) :
    s.decisionIn h d c =
      if (s.opRun h d.op).decisions.contains d then (s.passDecision c d false).progressGroup h c.gid
      else ((s.addDecision c d).passDecision c d true).progressGroup h c.gid := by
  unfold State.decisionIn
  rw [if_neg (by simp [hrun, hgroup, hstep, hepoch, halive])]
  cases (s.opRun h d.op).decisions.contains d <;> rfl

/-- R321: a decision of an older EPOCH, or about a member that a re-form excludes, is void. -/
theorem State.decisionIn_of_void
    (hvoid : c.alive d.pos = false ∨ (d.epoch ≠ c.g.epoch.toNat ∧ newer 8 d.epoch c.g.epoch.toNat = false)) : s.decisionIn h d c = s := by
  unfold State.decisionIn
  refine if_pos ?_
  rcases hvoid with hdead | hold
  · exact .inr (.inr (.inr (.inl (by simp [hdead]))))
  · exact .inr (.inr (.inl (by simpa using hold)))

end Decisions

/-! ## Heartbeats and suspicion (R323) -/

section Beats

variable {s : State} {h group : Nat} {c : CCtx}

/-- The hull of an open operation's context is the hull it was asked for. -/
theorem State.openOp_hull (hc : s.openOp h group = some c) : c.h = h := by
  unfold State.openOp at hc
  split at hc
  case h_1 p _ =>
    obtain ⟨e, -, he⟩ := Option.bind_eq_some_iff.mp hc
    exact (State.cctx_names he).1
  case h_2 => cases hc

/-- Offering a message to the links acts on reports and on the link layer alone. -/
theorem State.of_offerPriv {γ : Type} (g : State → γ) (hg : ∀ s : State, g s.body = g s) (hjv : ∀ (s : State) j, g { s with jv := j } = g s)
    (s : State) (m : Msg) : g (s.offerPriv m) = g s := by
  have hbody {v w : State} (k : v.body = w.body) : g v = g w := State.of_body g hg k
  unfold State.offerPriv
  split
  case h_1 => exact hbody (State.emit_body ..)
  case h_2 =>
    extract_lets nbs
    split
    case h_1 =>
      refine hbody ((State.emit_body ..).trans ((State.event_body ..).trans ?_))
      split
      case isTrue => exact State.regSat_body ..
      case isFalse => rfl
    case h_2 => exact (hbody (State.event_body ..)).trans (hjv ..)

theorem State.offerPriv_time (s : State) (m : Msg) : (s.offerPriv m).time = s.time :=
  State.of_offerPriv State.time (fun _ => rfl) (fun _ _ => rfl) s m

/-- A privileged message acts on reports and on the link layer alone. -/
theorem State.of_sendPriv {γ : Type} (g : State → γ) (hg : ∀ s : State, g s.body = g s) (hjv : ∀ (s : State) j, g { s with jv := j } = g s)
    (s : State) (h : Nat) (dst : BitVec 24) (kind : Nat) (vals : List Nat) : g (s.sendPriv h dst kind vals) = g s :=
  (State.of_offerPriv g hg hjv _ _).trans (hjv s _)

theorem State.sendPriv_time (s : State) (h : Nat) (dst : BitVec 24) (kind : Nat) (vals : List Nat) :
    (s.sendPriv h dst kind vals).time = s.time := State.offerPriv_time ..

/-- R323: a neighbour that is silent for too long is proposed as lost, up the tree that its loss leaves. -/
theorem State.suspected {pos : Nat} (hc : s.openOp h group = some c) :
    (if (s.event evColl 4 516).inReplay h then s.event evColl 4 516 else (s.event evColl 4 516).sendProposal c pos c.me) =
      if s.inReplay h = true ∨ c.me = treeRoot c.n (pos :: c.g.lost.map fun l => l.1) then s.event evColl 4 516
      else (s.event evColl 4 516).sendPriv h (c.fid (treeParent c.n (pos :: c.g.lost.map fun l => l.1) 8 c.me)) pkProposal
        [c.gid, pos, c.me] := by
  have hreplay : (s.event evColl 4 516).inReplay h = s.inReplay h := State.of_body (fun s => s.inReplay h) (fun _ => rfl) (State.event_body ..)
  rw [hreplay, State.sendProposal, State.openOp_hull hc]
  cases s.inReplay h <;> simp

end Beats

/-- Settles O35: each clause is the branch of its command that the hypotheses name. -/
theorem lateAndLostMembersAreDecided : Obligations.LateAndLostMembersAreDecided := by
  unfold Obligations.LateAndLostMembersAreDecided
  refine ⟨?decisions, ?beats⟩
  case decisions =>
    intro raw h op c p hhold s hc hp hrun r
    have kcalm : s.calm := State.settled_calm hhold
    have hmessage {d : Decision} (hop : d.op = op) {v : State} (hv : s.decisionIn h d c = v) (k : v.calm) :
        exec (.decisionMessage h d) raw = .next v.settled := by
      rw [exec_decisionMessage]
      refine congrArg Host.Outcome.next (State.meeting_of_calm ?_ k)
      change (match s.cctx h d.op with | some c => s.decisionIn h d c | none => s) = v
      rw [hop, hc]
      exact hv
    refine ⟨?late, ?taken, ?void⟩
    case late =>
      intro g hreplay hpolicy hkind hstarts hopen hmsg hlate d v
      have kv : v.clockAndDeferred = s.clockAndDeferred :=
        (State.clockAndDeferred_of_body (State.event_body ..)).trans (State.setRun_clockAndDeferred ..)
      have hv : v.calm := State.calm_of_mem ((State.event_mem ..).trans (State.setRun_mem ..)) kcalm
      rw [exec_lateDecision]
      refine congrArg Host.Outcome.next (State.meeting_of_calm ?_ (State.announced_calm _ _ hv))
      change (match s.cctx h op, (s.hull h).prog with | some c, some p => s.lateDecided h op c p | _, _ => s) = _
      rw [hc, hp]
      refine (State.lateDecided_of_late hrun hreplay hpolicy hkind hstarts hopen hmsg hlate).trans ?_
      exact congrArg (State.progressGroup · h c.gid) (State.announce_of_kept hc kv)
    case taken =>
      intro d hop hgroup hstep hepoch halive
      have hin := State.decisionIn_of_open hrun hgroup hstep hepoch halive (h := h)
      rw [hop] at hin
      split
      case isTrue hknown =>
        exact hmessage hop (hin.trans (if_pos hknown)) (State.progressGroup_calm _ _ (State.calm_of_mem (State.passDecision_mem ..) kcalm))
      case isFalse hnew => exact hmessage hop (hin.trans (if_neg hnew)) (State.announced_calm _ _ kcalm)
    case void =>
      intro d hop _ _ hvoid
      exact hmessage (v := s) hop (State.decisionIn_of_void hvoid) kcalm
  case beats =>
    intro s h group c hc
    refine ⟨?beat, ?suspect⟩
    case beat =>
      intro v
      have htime : v.time = s.time := foldl_keeps (fun _ _ => State.sendPriv_time ..) s _
      rw [← htime]
      refine congrArg Host.Outcome.next ?_
      simp only [hc]
      rfl
    case suspect =>
      intro pos hneighbour hsilent v lost
      refine congrArg Host.Outcome.next ?_
      simp only [hc]
      rw [if_neg (by simp only [hneighbour, Bool.not_true, Bool.false_eq_true, false_or]; omega)]
      exact State.suspected hc

/-! ## Re-forms (R324–R326) -/

/-- What a proposal does to a group, at a member that is not the root of the tree and at the root. -/
def State.proposalIn (s : State) (h group lostPos proposer : Nat) (votes : List Nat) (p : Prog) (c : CCtx) : State :=
  let ops := p.image.coll.filter fun e => e.group == group
  let lost := c.g.lost.map (·.1)
  let survivors := (upFrom 0 c.n).filter fun q => q != lostPos && !lost.contains q
  if lost.contains lostPos ∨ lost.contains c.me ∨ c.me = lostPos ∨ lostPos ≥ c.n ∨ !(proposer < c.n)
      ∨ (s.hull h).state ≠ .running ∨ p.isReplay then s
  else if c.me ≠ treeRoot c.n (lostPos :: lost) then s.sendProposal c lostPos proposer
  else
    let heir := (c.g.roster.getD lostPos (0, 0, 0)).2.2
    let heirLost := lost.any fun q => (c.g.roster.getD q (0, 0, 0)).1 == heir
    if heirLost ∨ survivors.isEmpty then s.event evColl 3 515
    else
      let v := maxOf (s.votesOf h group :: votes)
      let first := if v < ops.length then ((ops.getD v c.e).op, (s.hull h).step) else (c.e.op, (s.hull h).step + 1)
      (survivors ++ [lostPos]).foldl (fun s q =>
        if q = c.me then s else s.sendPriv h (c.fid q) pkReform [group, lostPos, first.1, first.2]) s

theorem exec_reformProposal (h group lostPos proposer : Nat) (votes : List Nat) (s : State) :
    exec (.reformProposal h group lostPos proposer votes) s = .next (
      match (s.hull h).prog with
      | some p =>
        match (p.image.coll.filter fun e => e.group == group).head?.bind fun e => s.cctx h e.op with
        | some c => s.proposalIn h group lostPos proposer votes p c
        | none => s
      | none => s) := rfl

/-- What a decision on a loss does to a group of a running program. -/
def State.reformed (s : State) (h group lostPos firstOp step : Nat) (p : Prog) : State :=
  let g := s.group group
  let x := s.hull h
  if g.state ≠ 2 ∨ g.hull ≠ h ∨ x.state ≠ .running ∨ p.isReplay ∨ (g.lost.any fun l => l.1 == lostPos) then s
  else if g.myPos = lostPos then (s.stopHull h 3 sFAULT true).raise 98
  else
    let s := s.groupLoses group lostPos firstOp step
    let redo := fun (r : OpRun) =>
      let mine := p.image.coll.any fun e => e.op == r.op && e.group == group
      if mine && !r.done && notBefore x.step r.op step firstOp then
        { r with chunks := [], sent := [], pieces := [], lateCount := 0, decisions := [],
                 records := r.records.filter fun k => k.pos == g.myPos }
      else r
    let first := if step < x.step then 0 else firstOp
    let s := s.setHull h { x with prog := some { p with
      ops := p.ops.map redo, entries := if step ≤ x.step then p.entries.filter fun e => !voidEntry group first e else p.entries } }
    let s := (s.shareFinals h group firstOp step).announceAgain h group
    (s.rankLost h (g.roster.getD lostPos (0, 0, 0)).1).progressGroup h group

theorem exec_reformDecision (h group lostPos firstOp step : Nat) (raw : State) :
    exec (.reformDecision h group lostPos firstOp step) raw = .next (raw.meeting [] fun s =>
      match (s.hull h).prog with | some p => s.reformed h group lostPos firstOp step p | none => s) := rfl

/-- The loss goes on where the group is active and knows nothing of it. -/
theorem State.reformed_of_new {s : State} {h group lostPos : Nat} {p : Prog} (hrun : (s.hull h).state = .running)
    (hreplay : p.isReplay = false) (hactive : (s.group group).state = 2) (hhull : (s.group group).hull = h)
    (hnew : ((s.group group).lost.any fun l => l.1 == lostPos) = false) :
    ¬ ((s.group group).state ≠ 2 ∨ (s.group group).hull ≠ h ∨ (s.hull h).state ≠ .running ∨ p.isReplay ∨
      ((s.group group).lost.any fun l => l.1 == lostPos)) := by
  simp only [hactive, hhull, hrun, hreplay, hnew, ne_eq, not_true_eq_false, Bool.false_eq_true, or_self, not_false_eq_true]

/-! ## Twins (R269–R277) -/

/-- The first block of a feed whose husk is not that of what it carries. -/
def feedBad (m : Msg) : Option (Nat × Check) :=
  let tensor := m.tag.toNat % 2 ^ 20
  let first := m.tag.toNat / 2 ^ 20 % 2 ^ 32
  let n := m.body.length / 4104
  let payload := m.body.take (4096 * n)
  (upFrom 0 n).findSome? fun i =>
    let want := huskOf (slice payload (4096 * i) 4096) (huskTag tensor (first + i))
    let got := BitVec.ofNat 64 (fieldLe m.body (4096 * n + 8 * i) 8)
    if want.toNat % 2 ^ 32 ≠ got.toNat % 2 ^ 32 then some (first + i, Check.fail 1 want got)
    else if want ≠ got then some (first + i, Check.fail 2 want got) else none

/-- What message `m` of the inbox, at place `k`, does as a feed. -/
def State.feedIn (s : State) (h k : Nat) (m : Msg) (p : Prog) : State :=
  let tensor := m.tag.toNat % 2 ^ 20
  let first := m.tag.toNat / 2 ^ 20 % 2 ^ 32
  let n := m.body.length / 4104
  if m.cls ≠ 1 ∨ m.dstHull ≠ h ∨ n = 0 ∨ m.body.length % 4104 ≠ 0 ∨ !p.isTwinTensor tensor ∨ (s.hull h).state ≠ .running then s
  else if s.msgStale m then s.dropStale k h
  else
    let s := s.takeInbox k
    match feedBad m with
    | some b => s.huskStop 0x0600 h 0xFF 0xFF tensor b.1 b.2
    | none =>
      let s := s.collWrite h tensor (4096 * first) (m.body.take (4096 * n))
      s.setHull h { s.hull h with prog := (s.hull h).prog.map fun p =>
        { p with fed := p.fed ++ (upFrom first n).map fun i => (tensor, i) } }

theorem exec_twinFeed (h k : Nat) (raw : State) :
    exec (.twinFeed h k []) raw = .next (raw.meeting [] fun s =>
      match s.jv.inbox[k]?, (s.hull h).prog with | some m, some p => s.feedIn h k m p | _, _ => s) := rfl

/-- A feed whose husks are all right lands whole. -/
theorem feedBad_of_good {m : Msg}
    (hgood : ∀ i, i < m.body.length / 4104 →
      huskOf (slice (m.body.take (4096 * (m.body.length / 4104))) (4096 * i) 4096)
        (huskTag (m.tag.toNat % 2 ^ 20) (m.tag.toNat / 2 ^ 20 % 2 ^ 32 + i)) =
      BitVec.ofNat 64 (fieldLe m.body (4096 * (m.body.length / 4104) + 8 * i) 8)) : feedBad m = none := by
  refine List.findSome?_eq_none_iff.mpr fun i hi => ?_
  have hlt : i < m.body.length / 4104 := by
    have := mem_upFrom.mp hi
    omega
  simp only [hgood i hlt, ne_eq, not_true_eq_false, if_false]

/-- The copies of a program that are being taken over and miss layers. -/
def Prog.missing (p : Prog) : List ShardS := p.shards.filter fun q => q.state == .onboarding && decide (q.layersCopied < p.layers q.id)

/-- What the copy of a layer does to a program whose copies are being taken over. -/
def State.layerCopied (s : State) (h shard layer step : Nat) (p : Prog) : State :=
  let next := (ascending (p.missing.map (·.id))).head?
  match p.missing.find? (fun q => q.id == shard), p.shard shard with
  | some sh, some d =>
    let tensor := d.tensors.getD layer 0
    let bytes := p.bytesOf tensor
    let fits := decide (p.copiedBytes = 0) || !p.twinOnly || decide (p.copiedBytes + bytes ≤ p.rehomeBytes)
    if next ≠ some shard ∨ layer ≠ sh.layersCopied ∨ !fits ∨ (p.twinOnly && decide (step < p.rehomeStart)) then s
    else
      let s := s.setShard h { sh with layersCopied := layer + 1, copiedStep := step }
      let s := s.setHull h { s.hull h with prog := (s.hull h).prog.map fun p => { p with copiedBytes := p.copiedBytes + bytes } }
      if p.twinOnly then s
      else
        match p.memPlace tensor with
        | some (tierB, base) => s.twinFeed h tierB base tensor 0 bytes
        | none => s
  | _, _ => s

/-- What LAYER_COPY does to a hull. -/
def State.layerCopy (s : State) (h shard layer : Nat) : State :=
  let x := s.hull h
  match x.prog with
  | some p =>
    if x.state ≠ .running then s
    else
      let begin_ := !p.twinOnly && (p.shards.any fun q => q.owner && q.state == .single) && !(p.shards.any fun q => q.state == .onboarding)
      let s := if begin_ then
          (p.shards.filter fun q => q.owner && q.state == .single).foldl (fun s q =>
            (s.setShard h { q with layersCopied := 0 }).shardState h { q with layersCopied := 0 } .onboarding (twinCode .onboarding)) s
        else s
      match (s.hull h).prog with
      | some p => s.layerCopied h shard layer x.step p
      | none => s
  | none => s

theorem exec_layerCopy (h shard layer : Nat) (raw : State) :
    exec (.layerCopy h shard layer []) raw = .next (raw.meeting [] fun s => s.layerCopy h shard layer) := rfl

/-- The next layer of the copy that is next: it is counted, and its blocks go out from the survivor. -/
theorem State.layerCopy_of_next {s : State} {h shard : Nat} {p : Prog} {sh : ShardS} {d : ShardDecl} (hp : (s.hull h).prog = some p)
    (hrun : (s.hull h).state = .running) (hnext : (ascending (p.missing.map (·.id))).head? = some shard)
    (hfind : p.missing.find? (fun q => q.id == shard) = some sh) (hdecl : p.shard shard = some d)
    (hfits : p.twinOnly = true → p.rehomeStart ≤ (s.hull h).step ∧
      (p.copiedBytes = 0 ∨ p.copiedBytes + p.bytesOf (d.tensors.getD sh.layersCopied 0) ≤ p.rehomeBytes)) {v w : State}
    (hv : s.setShard h { sh with layersCopied := sh.layersCopied + 1, copiedStep := (s.hull h).step } = v)
    (hw : v.setHull h { v.hull h with prog := (v.hull h).prog.map fun (q : Prog) =>
      { q with copiedBytes := q.copiedBytes + p.bytesOf (d.tensors.getD sh.layersCopied 0) } } = w) :
    s.layerCopy h shard sh.layersCopied =
      if p.twinOnly then w
      else
        match p.memPlace (d.tensors.getD sh.layersCopied 0) with
        | some (tierB, base) => w.twinFeed h tierB base (d.tensors.getD sh.layersCopied 0) 0 (p.bytesOf (d.tensors.getD sh.layersCopied 0))
        | none => w := by
  have honboarding : (p.shards.any fun q => q.state == .onboarding) = true := by
    have hmem : sh ∈ p.missing := List.mem_of_find?_eq_some hfind
    obtain ⟨hsh, hstate⟩ := List.mem_filter.mp hmem
    exact List.any_eq_true.mpr ⟨sh, hsh, (Bool.and_eq_true_iff.mp hstate).1⟩
  have hbegin : (!p.twinOnly && (p.shards.any fun q => q.owner && q.state == .single) && !(p.shards.any fun q => q.state == .onboarding)) =
      false := by rw [honboarding, Bool.not_true, Bool.and_false]
  have hin : ¬ ((ascending (p.missing.map (·.id))).head? ≠ some shard ∨ sh.layersCopied ≠ sh.layersCopied ∨
      !(decide (p.copiedBytes = 0) || !p.twinOnly ||
        decide (p.copiedBytes + p.bytesOf (d.tensors.getD sh.layersCopied 0) ≤ p.rehomeBytes)) ∨
      (p.twinOnly && decide ((s.hull h).step < p.rehomeStart))) := by
    cases htwin : p.twinOnly with
    | false => simp [hnext]
    | true =>
      obtain ⟨hstart, hbytes⟩ := hfits htwin
      simpa [hnext, hstart, or_iff_not_imp_left] using hbytes
  subst hw hv
  unfold State.layerCopy
  simp only [hp, hrun, hbegin, ne_eq, not_true_eq_false, if_false, Bool.false_eq_true]
  unfold State.layerCopied
  simp only [hfind, hdecl]
  exact if_neg hin

/-- Settles O36: each clause is the branch of its command that the hypotheses name. -/
theorem reformsAndTwinsTakeEffect : Obligations.ReformsAndTwinsTakeEffect := by
  unfold Obligations.ReformsAndTwinsTakeEffect
  intro raw h p s hp x
  have hraw : (raw.hull h).prog = some p := hp
  refine ⟨?proposal, ?decision, ?feed, ?digest, ?layer, ?lost⟩
  case proposal =>
    intro group lostPos proposer votes c hrun hreplay ops hc lost survivors root hlost hme hother hpos hproposer heirLost v first
    have hh : c.h = h := by
      obtain ⟨e, -, he⟩ := Option.bind_eq_some_iff.mp hc
      exact (State.cctx_names he).1
    have hctx : ((p.image.coll.filter fun e => e.group == group).head?.bind fun e => raw.cctx h e.op) = some c := hc
    have hin : ¬ (lost.contains lostPos ∨ lost.contains c.me ∨ c.me = lostPos ∨ lostPos ≥ c.n ∨ !(proposer < c.n)
        ∨ (raw.hull h).state ≠ .running ∨ p.isReplay) := by
      have hr : (raw.hull h).state = .running := hrun
      simp only [hlost, hme, hother, hr, hreplay, hproposer, Nat.not_le.mpr hpos, decide_true, Bool.not_true, ne_eq,
        not_true_eq_false, Bool.false_eq_true, or_self, not_false_eq_true]
    rw [exec_reformProposal]
    refine congrArg Host.Outcome.next ?_
    rw [hraw]
    dsimp only
    rw [hctx]
    refine (if_neg hin).trans ?_
    by_cases hroot : c.me = treeRoot c.n (lostPos :: lost)
    case neg =>
      rw [if_pos hroot, if_pos hroot, State.sendProposal, hh]
      exact if_neg hroot
    case pos =>
      rw [if_neg (not_not_intro hroot), if_neg (not_not_intro hroot)]
      exact if_congr (or_congr_right List.isEmpty_iff) rfl rfl
  case decision =>
    intro group lostPos firstOp step hhold hrun hreplay g hactive hhull hnew
    have kcalm : s.calm := State.settled_calm hhold
    have hexec {u : State} (hu : s.reformed h group lostPos firstOp step p = u) (k : u.calm) :
        exec (.reformDecision h group lostPos firstOp step) raw = .next u.settled := by
      rw [exec_reformDecision]
      refine congrArg Host.Outcome.next (State.meeting_of_calm ?_ k)
      change (match (s.hull h).prog with | some p => s.reformed h group lostPos firstOp step p | none => s) = u
      rw [hp]
      exact hu
    have hin := State.reformed_of_new hrun hreplay hactive hhull hnew
    refine ⟨?mine, ?other⟩
    case mine =>
      intro hmine
      refine hexec ((if_neg hin).trans (if_pos hmine)) (State.calm_of_mem ?_ kcalm)
      exact (State.raise_mem ..).trans (State.stopHull_mem ..)
    case other =>
      intro hmine g' v w
      have kw : w.calm := State.calm_of_mem ((State.setHull_mem ..).trans (State.event_mem ..)) kcalm
      refine hexec ((if_neg hin).trans (if_neg hmine)) (State.progressGroup_calm _ _ (State.calm_of_mem ?_ (State.shareFinals_calm h group firstOp step kw)))
      exact (State.rankLost_mem ..).trans (State.announceAgain_mem ..)
  case feed =>
    intro k m hhold hrun hm hcls hdst hpos hmod hgen tensor first n htwin hgood v
    have kcalm : s.calm := State.settled_calm hhold
    have kv : v.calm := State.collWrite_calm _ _ _ _ (State.calm_of_mem (s := s) rfl kcalm)
    have hfresh : s.msgStale m = false := by
      rw [State.msgStale, hdst]
      exact bne_eq_false_iff_eq.mpr hgen
    rw [exec_twinFeed]
    refine congrArg Host.Outcome.next (State.meeting_of_calm ?_ (State.calm_of_mem (State.setHull_mem ..) kv))
    change (match s.jv.inbox[k]?, (s.hull h).prog with | some m, some p => s.feedIn h k m p | _, _ => s) = _
    rw [hm, hp]
    have hin : ¬ (m.cls ≠ 1 ∨ m.dstHull ≠ h ∨ n = 0 ∨ m.body.length % 4104 ≠ 0 ∨ !p.isTwinTensor tensor ∨ (s.hull h).state ≠ .running) := by
      have hr : (s.hull h).state = .running := hrun
      have hn : n ≠ 0 := Nat.pos_iff_ne_zero.mp hpos
      simp only [hcls, hdst, hmod, htwin, hr, hn, ne_eq, not_true_eq_false, Bool.not_true, Bool.false_eq_true,
        or_self, not_false_eq_true]
    refine (if_neg hin).trans ((if_neg (by rw [hfresh]; exact Bool.false_ne_true)).trans ?_)
    rw [feedBad_of_good hgood]
  case digest =>
    intro shard role step digest sh hrun hrole hcopy
    refine congrArg Host.Outcome.next ?_
    have hr : (raw.hull h).state = .running := hrun
    simp only [hraw, Option.bind_some, hcopy, hr]
    exact if_neg (by simp; omega)
  case layer =>
    intro shard sh d hhold hrun todo hnext hfind hdecl tensor bytes v w
    have kcalm : s.calm := State.settled_calm hhold
    have hw : w.mem = s.mem := (State.setHull_mem ..).trans (State.setShard_mem ..)
    rw [exec_layerCopy]
    refine ⟨?spare, ?survivor⟩
    case spare =>
      intro htwin hstart hbytes
      refine congrArg Host.Outcome.next (State.meeting_of_calm ?_ (State.calm_of_mem hw kcalm))
      exact (State.layerCopy_of_next hp hrun hnext hfind hdecl (fun _ => ⟨hstart, hbytes⟩) rfl rfl).trans (if_pos htwin)
    case survivor =>
      intro htwin
      have hnot : ¬ p.twinOnly = true := by simp [htwin]
      have hcopy := State.layerCopy_of_next hp hrun hnext hfind hdecl (fun ht => absurd ht hnot) (v := v) (w := w) rfl rfl
      rw [if_neg hnot] at hcopy
      refine congrArg Host.Outcome.next (State.meeting_of_calm hcopy ?_)
      change State.calm (match p.memPlace tensor with | some (tierB, base) => w.twinFeed h tierB base tensor 0 bytes | none => w)
      split
      case h_1 => exact State.twinFeed_calm _ _ _ _ (State.calm_of_mem hw kcalm)
      case h_2 => exact State.calm_of_mem hw kcalm
  case lost =>
    refine congrArg Host.Outcome.next ?_
    simp only [hraw]

end Sys2Proof.Machine
end

section
/-!
PROOFS. Folds, reclaims and destruction (R338–R351): the statement ReclaimsRunTheirCourse.
-/

namespace Sys2Proof.Machine

/-! ## A reclaim's course (R341–R344, R350) -/

section Reclaims

variable {s : State} {h : Nat} {r : Reclaim} {rest : List Reclaim}

/-- R341: a reclaim that cannot wait for a step boundary is forced. -/
theorem execReclaimForceTimeout_late (hr : (s.hull h).reclaims = r :: rest) (hrun : (s.hull h).state = .running)
    (hforced : (s.hull h).foldForced = false) (hhold : (s.hull h).holds.getLsbD 0 = false) (hphase : r.phase = 1)
    (hlate : r.forceNow = true ∨ r.gtc + 1000000 * r.forceMs ≤ s.time.gtc) :
    execReclaimForceTimeout h s = .next ((s.setHull h { s.hull h with
      reclaims := { r with forced := true } :: rest, lastForced := true, foldForced := true, halted := false,
      holds := if r.forceNow then (s.hull h).holds ||| 1 else (s.hull h).holds }).event evHull 1 81) := by
  refine congrArg Host.Outcome.next ?_
  rw [if_neg (by simp only [hrun, hforced, hhold, ne_eq, not_true_eq_false, Bool.false_eq_true, or_self, not_false_eq_true])]
  simp only [hr, hphase]
  exact if_pos ⟨trivial, hlate.imp id decide_eq_true⟩

/-- R342: a GRANTED hull folds at once. -/
theorem execFoldPoint_granted (hr : (s.hull h).reclaims = r :: rest) (hstate : (s.hull h).state = .granted) (hphase : r.phase = 1)
    (hcopy : s.copyingIn h r = false) : execFoldPoint h s = .next (s.foldFinish h 0 []) := by
  refine congrArg Host.Outcome.next ?_
  simp only [hstate, hr]
  exact if_pos ⟨hphase, by rw [hcopy]; rfl⟩

theorem execEvacuationComplete_running {p : Prog} (hr : (s.hull h).reclaims = r :: rest) (hrun : (s.hull h).state = .running)
    (hp : (s.hull h).prog = some p) (hphase : r.phase = 2) (hcopy : s.copyingIn h r = false) :
    execEvacuationComplete h s = .next (match s.foldTarget h p with
      | some t => s.foldFinish h t.1 t.2
      | none => (s.foldStop h true).foldRest h (s.goingPods h)) := by
  refine congrArg Host.Outcome.next ?_
  simp only [hr, hrun, hp, hcopy, hphase]
  cases s.foldTarget h p <;> rfl

/-- R344, R350: what a reclaim removed is scrubbed; a loan goes back, and the next reclaim is served. -/
theorem execScrubComplete_removed (hr : (s.hull h).reclaims = r :: rest) (hstate : (s.hull h).state ≠ .scrubbing) (hphase : r.phase = 4)
    (fa fb : List Nat) {v : State} (hv : (s.scrubRemoved r fa fb).event evHull 4 84 = v) {w : State × Bool}
    (hw : (v.setHull h { v.hull h with reclaims := rest }).returnLoan r.grant = w) :
    execScrubComplete h fa fb s = .next (((w.1.setHull h { w.1.hull h with lastReturned := w.2 }).serveReclaim h).event evHull 2 82) := by
  subst hv hw
  refine congrArg Host.Outcome.next ?_
  dsimp only
  rw [hr]
  cases hx : (s.hull h).state with
  | scrubbing => exact absurd hx hstate
  | free | granted | running | draining => exact if_neg (not_not_intro hphase)

/-- R351: a hull that drains is scrubbed once none of its engines has work and no unit is being mapped out. -/
theorem execDrainEnd_idle (hstate : (s.hull h).state = .draining) (hcut : (s.hull h).ckpt.state ≠ 2) (hdrain : (s.hull h).ckpt.state ≠ 3)
    (hidle : ((s.podsOf h).all fun p => (s.eng (2 * p)).queue.isEmpty && (s.eng (2 * p + 1)).queue.isEmpty) = true)
    (hmapout : s.mem.mapout = none) : execDrainEnd h s = .next (s.setHull h { s.hull h with state := .scrubbing }) := by
  refine congrArg Host.Outcome.next ?_
  have hwork : ((s.podsOf h).any fun p => !(s.eng (2 * p)).queue.isEmpty || !(s.eng (2 * p + 1)).queue.isEmpty) = false := by
    refine List.any_eq_false.mpr fun p hp => ?_
    have hp := List.all_eq_true.mp hidle p hp
    simpa using hp
  simp only [hmapout, hwork]
  exact if_neg (by simp [hstate, hcut, hdrain])

end Reclaims

/-! ## The fold point of a running hull (R338, R342) -/

section FoldPoint

variable {s : State} {h : Nat}

theorem execFoldPoint_notDue (hrun : (s.hull h).state = .running) (hhold : (s.hull h).holds.getLsbD 0 = true) (hdue : s.foldDue h = false) :
    execFoldPoint h s = .next (s.setHull h { s.hull h with holds := (s.hull h).holds &&& 0b11110, foldForced := false }) := by
  refine congrArg Host.Outcome.next ?_
  simp only [hrun, hhold, hdue]
  rfl

/-- What a running hull at its fold point does, its halt ended. -/
def State.foldNow (s : State) (h : Nat) : State :=
  let x := s.hull h
  match x.prog with
  | none => s
  | some p =>
    let stays : Bool := match x.foldReclaim, p.image.ckptAreas with
      | some r, some a => decide (p.areaA + a.1 ≤ x.limitAfter false r.grant ∧ a.2.1 + a.2.2 ≤ x.limitAfter true r.grant)
      | _, _ => true
    if x.ckpt.state = 2 ∧ stays then s
    else
      match s.foldTarget h p with
      | none => (s.foldStop h x.foldReclaim.isSome).foldRest h (s.goingPods h)
      | some (f, spill) =>
        match x.foldReclaim with
        | some r =>
          if r.phase = 2 then s
          else if (spill.all p.spilled.contains) ∧ !s.copyingIn h r then s.foldFinish h f spill
          else s.setHull h { x with reclaims := { r with phase := 2, foldGtc := s.time.gtc } :: x.reclaims.drop 1 }
        | none => s.foldFinish h f spill

theorem execFoldPoint_due (hrun : (s.hull h).state = .running) (hhold : (s.hull h).holds.getLsbD 0 = true) (hdue : s.foldDue h = true) :
    execFoldPoint h s = .next ((s.setHull h { s.hull h with halted := false }).foldNow h) := by
  refine congrArg Host.Outcome.next ?_
  simp only [hrun, hhold, hdue]
  rfl

/-- A hull that owes nothing to a reclaim folds to what remains. -/
theorem State.foldNow_kept {p : Prog} {f : Nat} {spill : List Nat} (hp : (s.hull h).prog = some p) (hr : (s.hull h).reclaims = [])
    (hcut : (s.hull h).ckpt.state ≠ 2) (htarget : s.foldTarget h p = some (f, spill)) : s.foldNow h = s.foldFinish h f spill := by
  have hreclaim : (s.hull h).foldReclaim = none := by
    rw [Hull.foldReclaim]
    simp only [hr]
  simp only [State.foldNow, hp, hcut, hreclaim, false_and, if_false, htarget]

end FoldPoint

/-! ## Scrubbed units (R350) -/

section Scrub

variable {s : State} {u : MemUnit}

/-- The content of a unit's tier and of the other one after a scrub. -/
theorem State.scrubUnit_blk (s : State) (u : MemUnit) (tierB : Bool) (k : Nat) :
    (s.scrubUnit u false).blk tierB k =
      if tierB = unitTier u ∧ k / blkPer (unitTier u) = unitNo u then Blk.unwritten else s.blk tierB k := by
  have hunit (v : State) (x : UnitS) : (v.setUnit u x).blk tierB k = v.blk tierB k := by
    rw [State.blk, State.blk, State.setUnit_memA, State.setUnit_memB]
  have hfilter (per : Nat) (t : Tbl Blk) : tget Blk.unwritten (t.filter fun kv => !(kv.1 / per == unitNo u)) k =
      if k / per = unitNo u then Blk.unwritten else tget Blk.unwritten t k := by
    rw [tget, tfind_filter_key (fun k => !(k / per == unitNo u)), tget]
    by_cases hk : k / per = unitNo u <;> simp [hk]
  unfold State.scrubUnit
  extract_lets tb gone _ v
  have hv : v.blk tierB k = if tierB = unitTier u ∧ k / blkPer (unitTier u) = unitNo u then Blk.unwritten else s.blk tierB k := by
    cases htier : unitTier u with
    | false => cases tierB <;> simp [v, tb, gone, State.blk, htier, hfilter]
    | true => cases tierB <;> simp [v, tb, gone, State.blk, htier, hfilter]
  split
  case isTrue => exact hv
  case isFalse => exact (hunit v _).trans hv

end Scrub

/-- Where a module stands for a position of the tree, as a resend request asks it. -/
theorem CCtx.under_eq (c : CCtx) (fid : BitVec 24) (p : Nat) :
    (((upFrom 0 c.n).find? fun q => c.fid q == fid).elim false fun q => q == p || ({ c with g := { c.g with myPos := p } }).below q 8) =
      c.under fid p := by
  unfold CCtx.under
  split
  case h_1 heq => rw [heq]; rfl
  case h_2 heq => rw [heq]; rfl

/-- Settles O37: each clause is the branch of its command that the hypotheses name; a scrub takes away the blocks of its unit. -/
theorem reclaimsRunTheirCourse : Obligations.ReclaimsRunTheirCourse := by
  unfold Obligations.ReclaimsRunTheirCourse
  refine ⟨?reclaim, ?fold, ?scrub, ?tree, ?setting⟩
  case reclaim =>
    intro s h r rest hr x
    refine ⟨fun hrun hforced hhold hphase hlate => ?force, fun hstate hphase hcopy => ?granted, fun p hrun hp hphase hcopy => ?evacuated,
      fun hrun hphase hlate => ?evacuation, fun hphase => ?quiesced, fun fa fb hstate hphase => ?scrubbed⟩
    case force => exact execReclaimForceTimeout_late hr hrun hforced hhold hphase hlate
    case granted => exact execFoldPoint_granted hr hstate hphase hcopy
    case evacuated => exact execEvacuationComplete_running hr hrun hp hphase hcopy
    case evacuation =>
      refine congrArg Host.Outcome.next ?_
      simp only [hr]
      exact if_pos ⟨hphase, hlate, hrun⟩
    case quiesced =>
      refine congrArg Host.Outcome.next ?_
      simp only [hr]
      exact if_pos hphase
    case scrubbed =>
      intro v w
      exact execScrubComplete_removed hr hstate hphase fa fb rfl rfl
  case fold =>
    intro s h x t
    refine ⟨fun p f spill hrun hhold hdue hp hr hcut htarget => ?due, fun hrun hhold hdue => execFoldPoint_notDue hrun hhold hdue,
      fun fa fb hstate => ?freed, fun hstate hcut hdrain hidle hmapout => execDrainEnd_idle hstate hcut hdrain hidle hmapout⟩
    case due =>
      have hhull : t.hull h = { x with halted := false } := State.setHull_same ..
      refine (execFoldPoint_due hrun hhold hdue).trans (congrArg Host.Outcome.next (State.foldNow_kept ?_ ?_ ?_ htarget))
      · exact (congrArg Hull.prog hhull).trans hp
      · exact (congrArg Hull.reclaims hhull).trans hr
      · exact fun hc => hcut ((congrArg (·.ckpt.state) hhull).symm.trans hc)
    case freed =>
      refine congrArg Host.Outcome.next ?_
      have hstate : (s.hull h).state = .scrubbing := hstate
      simp only [hstate]
  case scrub =>
    intro s u k
    refine ⟨fun hk => ?own, fun hk => ?others, ?tier⟩
    case own => rw [State.scrubUnit_blk, if_pos ⟨rfl, hk⟩]; rfl
    case others => rw [State.scrubUnit_blk, if_neg fun hc => hk hc.2]
    case tier => rw [State.scrubUnit_blk, if_neg fun hc => Bool.not_ne_self _ hc.1]
  case tree =>
    intro s h c hc
    refine ⟨fun gens forced hroot => ?request, fun fid g step => ?resend⟩
    case request =>
      intro g step
      refine congrArg Host.Outcome.next ?_
      simp only [hc]
      exact if_neg (not_not_intro hroot)
    case resend =>
      intro vals v w
      refine congrArg Host.Outcome.next ?_
      simp only [hc, CCtx.under_eq, Bool.not_eq_true']
      rfl
  case setting =>
    intro s h g step hh hstate
    exact congrArg Host.Outcome.next (if_pos ⟨hh, hstate⟩)

end Sys2Proof.Machine
end

section
/-!
PROOFS. Probe runs, hang timers and vendor programs (R392, R403, R450), and the phases of a reset (R402–R414): the statements
ProbesAndHangTimersEnd and ResetsRunTheirPhases.
-/

namespace Sys2Proof.Machine

/-! ## Hang timers (R403) -/

section Timers

variable {s : State} {t h : Nat}

/-- R403 trigger 1: a wait on one queue past its limit. -/
theorem execQueueTimeout_late {q n : Nat} (ht : s.timersOf t = true) (hwait : (s.tile t).wait = some (.queue q n))
    (hlate : 18 * 1000000 * s.regF 0x0D0010 15 0 ≤ (s.tile t).waited) :
    execQueueTimeout t s = .next (s.trigger
      { trigger := 1, slot := 5, hull := (s.pod (podOf t)).hull, tile := some t, queue := q, syncId := 0, source := (s.tile t).lam,
        start := (s.tile t).stallGtc, limitNs := 1000000 * s.regF 0x0D0010 15 0 } true) := by
  refine congrArg Host.Outcome.next ?_
  have hrun : ¬ ((!s.timersOf t) = true ∨ (s.tile t).waited < 18 * 1000000 * s.regF 0x0D0010 15 0) := by
    rw [ht]
    exact fun hc => hc.elim Bool.false_ne_true (Nat.not_lt.mpr hlate)
  refine (if_neg hrun).trans ?_
  simp only [hwait]

/-- R403 trigger 2: a wait on a sync object past its TIMEOUT. -/
theorem execSyncTimeout_late {id ns : Nat} (ht : s.timersOf t = true) (hwait : (s.tile t).syncWait.bind Wait.object = some id)
    (hns : 1000 * s.periodUs * (match tfind s.sync id with | some o => o.timeout | none => 4) = ns) (hlate : 18 * ns ≤ (s.tile t).waited) :
    execSyncTimeout t s = .next (s.trigger
      { trigger := 2, slot := 6, hull := (s.pod (podOf t)).hull, tile := some t, queue := 0, syncId := id, source := (s.tile t).lam,
        start := (s.tile t).stallGtc, limitNs := ns } true) := by
  subst hns
  refine congrArg Host.Outcome.next ?_
  simp only [hwait]
  refine if_neg ?_
  rw [ht]
  exact fun hc => hc.elim Bool.false_ne_true (Nat.not_lt.mpr hlate)

/-- R403 trigger 3: bundles issued in a tick without its end. -/
theorem execRunaway_late (ht : s.timersOf t = true) (hholds : (s.hull (s.pod (podOf t)).hull).holds = 0) (heot : (s.tile t).eot = false)
    (hwait : (s.tile t).wait = none) (hsync : (s.tile t).syncWait = none)
    (hlate : s.periodUs * 1200 + s.regF 0x0D0010 31 16 * 1000 < (s.tile t).issued) :
    execRunaway t s = .next (s.trigger
      { trigger := 3, slot := 0xFF, hull := (s.pod (podOf t)).hull, tile := some t, queue := 0, syncId := 0, source := (s.tile t).lam,
        start := (s.hull (s.pod (podOf t)).hull).tickStart, limitNs := 0 } true) := by
  refine congrArg Host.Outcome.next (if_neg ?_)
  simp only [ht, hholds, heot, hwait, hsync, Nat.not_le.mpr hlate, bne_self_eq_false, Bool.false_and, Bool.not_true, Option.isSome_none,
    Bool.false_eq_true, or_self, not_false_eq_true]

/-- R403 trigger 4: a run of overruns. -/
theorem execOverrunRun_late {p : Prog} (hh : isHull h = true) (hp : (s.hull h).prog = some p) (hrun : (s.hull h).state = .running)
    (hholds : (s.hull h).holds = 0) (hlimit : 0 < s.regF 0x0D0010 39 32) (hlate : s.regF 0x0D0010 39 32 ≤ p.overruns) :
    execOverrunRun h s = .next (s.trigger
      { trigger := 4, slot := 0xFF, hull := h, tile := none, queue := 0, syncId := 0, source := (Config.unstated 33 [4, 4]).toNat % 128,
        start := (s.hull h).tickStart, limitNs := 0 } true) := by
  refine congrArg Host.Outcome.next ?_
  simp only [hp]
  refine if_neg ?_
  simp only [hh, hrun, hholds, Nat.pos_iff_ne_zero.mp hlimit, Nat.not_lt.mpr hlate, ne_eq, not_true_eq_false, or_self, and_false,
    Bool.not_true, Bool.false_eq_true, not_false_eq_true]

end Timers

/-- Settles O38: each clause is the branch of its command that the hypotheses name. -/
theorem probesAndHangTimersEnd : Obligations.ProbesAndHangTimersEnd := by
  unfold Obligations.ProbesAndHangTimersEnd
  intro s
  refine ⟨fun tile check hq => ⟨?passed, ?failed⟩, fun hq hlate => ⟨s.free.1.toNat % 2 ^ 32, ?late⟩, fun t ht => ?timers,
    fun h p hh hp hrun hholds hlimit hlate => ⟨_, ?source, execOverrunRun_late hh hp hrun hholds hlimit hlate⟩, fun h hh hend => ?vendor⟩
  case passed => exact congrArg Host.Outcome.next ((if_neg (not_not_intro hq)).trans (if_pos rfl))
  case failed => exact congrArg Host.Outcome.next ((if_neg (not_not_intro hq)).trans (if_neg Bool.false_ne_true))
  case late => exact congrArg Host.Outcome.next (if_pos ⟨hq, hlate⟩)
  case timers =>
    intro x h ms
    refine ⟨fun q n hwait hlate => execQueueTimeout_late ht hwait hlate, fun id hwait => ?sync,
      fun hholds heot hwait hsync hlate => execRunaway_late ht hholds heot hwait hsync hlate⟩
    case sync =>
      intro ns hlate
      exact execSyncTimeout_late ht hwait rfl hlate
  case source => exact Nat.mod_lt _ (by decide)
  case vendor => exact congrArg Host.Outcome.next (if_pos ⟨hh, hend⟩)

/-! ## The phases of a reset (R405–R413) -/

section Phases

variable {s : State}

/-- R405 steps 3 and 4: the captured device is reset, and recovers or leaves service. -/
theorem execCaptureComplete_frozen {trig n : Nat} {take esc : Bool} (hhang : s.rst.hang = some (trig, take, n, esc))
    (hdev : s.rst.dev = .recovering) (hphase : s.rst.phase = 1) {v w : State} (hv : (if take then s.capture else s) = v)
    (hw : (if trig ≤ 5 then v.countReset else v).warmReset = w) :
    execCaptureComplete s = .next (if esc then w.outOfService else { w with rst := { w.rst with phase := 4 } }) := by
  subst hw hv
  refine congrArg Host.Outcome.next ?_
  simp only [hhang]
  exact if_neg (by simp only [hdev, hphase, ne_eq, not_true_eq_false, or_self, not_false_eq_true])

/-- R410, R411: a recovery in time, its firmware checked, goes through its phases. -/
theorem execRecoveryComplete_ok {tr : Training} (hdev : s.rst.dev = .recovering) (hphase : s.rst.phase = 4) (hok : tr.firmwareOk = true)
    (htime : s.rst.hang = none ∨ s.time.gtc ≤ s.reg 0x0D0028 + 12000000000) {w : State}
    (hw : (upFrom 0 5).foldl State.vendorEnd ((((s.extend 1 tr.firmwareDigest).freshNonce).train tr).clearPods) = w) :
    execRecoveryComplete tr s =
      .next (((({ w with board := { w.board with standby := false } }).rootLock).decide_).event evRst 0 704) := by
  subst hw
  refine congrArg Host.Outcome.next ((if_neg ?_).trans (if_neg ?_))
  · simp only [hdev, hphase, ne_eq, not_true_eq_false, or_self, not_false_eq_true]
  · simp only [hok, Bool.not_true, Bool.false_eq_true, false_or]
    rintro ⟨hsome, hlate⟩
    rcases htime with hnone | hin
    · rw [hnone] at hsome
      exact Bool.false_ne_true hsome
    · omega

theorem execRecoveryComplete_bad {tr : Training} (hdev : s.rst.dev = .recovering) (hphase : s.rst.phase = 4) (hbad : tr.firmwareOk = false) :
    execRecoveryComplete tr s = .next s.countReset.outOfService := by
  refine congrArg Host.Outcome.next ((if_neg ?_).trans (if_pos (.inl (by rw [hbad]; rfl))))
  simp only [hdev, hphase, ne_eq, not_true_eq_false, or_self, not_false_eq_true]

/-- R403 trigger 5: the watchdog in service, or in the freeze of a hang. -/
theorem execFwWatchdog_late (hlate : s.wdogLate 1000000000 = true) (hdev : s.rst.dev ≠ .recovering ∨ s.freezing = true) :
    execFwWatchdog s = .next (s.trigger
      { trigger := 5, slot := 0xFF, hull := 0, tile := none, queue := 0, syncId := 0, source := 0x0600,
        start := s.time.gtc - 1000000000, limitNs := 1000000000 } true) := by
  refine congrArg Host.Outcome.next ((if_neg (by rw [hlate]; exact Bool.false_ne_true)).trans (if_neg ?_))
  rintro ⟨hrec, hfree⟩
  rcases hdev with hd | hf
  · exact hd hrec
  · rw [hf] at hfree
    exact Bool.false_ne_true hfree

end Phases

/-! ## What a reset leaves (R411, R414) -/

section Reset

variable {s v : State}

/-- What lasts through a reset: memory and host memory, the probe content and its versions, the fixed part, and the GTC. -/
def State.lasting (s : State) := (s.keptPart, s.time.gtc)

theorem State.lasting_of_body (h : v.body = s.body) : v.lasting = s.lasting := State.of_body State.lasting (fun _ => rfl) h

theorem State.ckptFail_lasting (s : State) (h cause : Nat) : (s.ckptFail h cause).lasting = s.lasting := by
  unfold State.ckptFail
  extract_lets x c v
  have hd : (v.drainClear h).lasting = v.lasting := foldl_keeps (fun _ _ => by rfl) v _
  exact (State.lasting_of_body (State.log1_body ..)).trans hd

theorem State.fallCoarse_lasting (s : State) : s.fallCoarse.lasting = s.lasting := by
  unfold State.fallCoarse
  extract_lets _ v
  refine (foldl_keeps (g := State.lasting) (fun w h => ?_) v hullNos).trans rfl
  extract_lets x
  split
  case isTrue => exact (State.lasting_of_body (State.event_body ..)).trans rfl
  case isFalse => rfl

/-- The rings made anew, and the root's alignment, are a matter of registers, rings and the alignment. -/
theorem State.relock_same {γ : Type} (g : State → γ) (hr : ∀ (s : State) r, g { s with rings := r } = g s) (hset : ∀ (s : State) o v, g (s.setReg o v) = g s)
    (ho : ∀ (s : State) o, g (s.emit o) = g s) (ht : ∀ (s : State) a, g { s with time := { s.time with align := a, offset := 0 } } = g s) (s : State) :
    g s.warmRings.rootLock = g s := by
  have hrings : g s.warmRings = g s := by
    unfold State.warmRings State.hevent
    split
    case isTrue => exact hr _ _
    case isFalse => exact (ho _ _).trans ((hset _ _ _).trans (hr _ _))
  unfold State.rootLock
  split
  case isTrue => exact (ht _ _).trans hrings
  case isFalse => exact hrings

/-- What a reset discards, and what it keeps, before firmware makes the rings anew. -/
def State.discarded (s : State) (probe : ProbeS) : State :=
  { s with
    tiles := [], pods := tmap Pod.warm s.pods, sync := [], spine := []
    mem := { s.mem with marks := [], usableA := 0, usableB := 0, trained := false, hot := 0, temp := [], unitsA := tmap UnitS.warm s.mem.unitsA, unitsB := tmap UnitS.warm s.mem.unitsB }
    nmu := { s.nmu with targets := [], held := [], level := [], backlog := [], scrubCorrected := [], failed := [] }
    aus := [], hulls := tmap Hull.warm s.hulls
    time := { s.time with offset := 0, slew := 0, slewAcc := 0 }
    jv := { s.jv with bundles := tmap Bundle.warm s.jv.bundles, waiting := [], privWait := [], inbox := [], rotation := [] }
    groups := tmap Group.warm s.groups
    endpoints := [], irqs := [], cores := []
    probe := if s.probe.active then probe else { probe with nmu := false, target := 0, slot := 0, version := 0, gtc := 0, hull := 0, share := 0, durationMs := 0 }
    regs := s.regs.filter fun r => regSurvives r.1
    board := { s.board with wdogGtc := s.time.gtc, throttle := 0, throttleGtc := none, powerMw := 0, tj := 0, tjDie := [] }
    sec := { s.sec with nonce := 0 } }

theorem State.discarded_lasting (s : State) (probe : ProbeS) : (s.discarded probe).lasting = s.lasting := rfl

/-- Checkpoints in extraction or drain fail with the reset (R365). -/
def State.drainsFailed (s : State) : State :=
  hullNos.foldl (fun (s : State) h => if (s.hull h).ckpt.state = 2 ∨ (s.hull h).ckpt.state = 3 then s.ckptFail h 5 else s) s

theorem State.drainsFailed_lasting (s : State) : s.drainsFailed.lasting = s.lasting := by
  refine foldl_keeps (fun v h => ?_) s hullNos
  split
  case isTrue => exact State.ckptFail_lasting ..
  case isFalse => rfl

theorem State.warmReset_eq (s : State) :
    s.warmReset = (s.drainsFailed.fallCoarse.discarded
      { s.drainsFailed.probe with state := if s.drainsFailed.probe.active then 5 else 0 }).warmRings.rootLock := by
  unfold State.warmReset State.drainsFailed State.discarded
  rfl

theorem tfind_tmap {α : Type} (f : α → α) (t : Tbl α) (k : Nat) : tfind (tmap f t) k = (tfind t k).map f := by
  induction t with
  | nil => rfl
  | cons kv t ih =>
    obtain ⟨j, v⟩ := kv
    unfold tmap at *
    simp only [List.map_cons, tfind]
    split
    case isTrue => rfl
    case isFalse => exact ih

end Reset

/-- Settles O39: each clause of the phases is the branch of its command that the hypotheses name; what the reset leaves is read off its
definition. -/
theorem resetsRunTheirPhases : Obligations.ResetsRunTheirPhases := by
  unfold Obligations.ResetsRunTheirPhases
  refine ⟨fun s => ⟨fun cap hs => ?refused, fun cap hs => ⟨(Config.unstated 33 [6, 5, s.time.gtc]).toNat, ?frozen⟩, fun trig take n esc hhang hdev hphase => ?captured,
    fun tr hdev hphase => ⟨fun hok htime => ?recovered, fun hbad => execRecoveryComplete_bad hdev hphase hbad⟩, fun hdev => ?timeout,
    fun hdev => ?readmit, fun hdev => ?notOut, fun hdev => ?released, fun hlate hdev => execFwWatchdog_late hlate hdev,
    fun hlate hdev => ?warned⟩, fun s => ?reset⟩
  case refused => exact congrArg Host.Outcome.next (if_neg (by rw [hs]; exact Bool.false_ne_true))
  case frozen => exact congrArg Host.Outcome.next (if_pos hs)
  case captured =>
    intro v w
    exact execCaptureComplete_frozen hhang hdev hphase rfl rfl
  case recovered =>
    intro v w
    exact execRecoveryComplete_ok hdev hphase hok htime rfl
  case timeout => exact congrArg Host.Outcome.next (if_neg (not_not_intro hdev))
  case readmit => exact congrArg Host.Outcome.next (if_pos hdev)
  case notOut => exact congrArg Host.Outcome.next (if_neg hdev)
  case released => exact congrArg Host.Outcome.next (if_neg hdev)
  case warned =>
    refine congrArg Host.Outcome.next (if_neg ?_)
    rw [hlate]
    exact fun hc => hc.elim Bool.false_ne_true hdev
  case reset =>
    intro u
    obtain ⟨v, probe, hu, hlasting⟩ : ∃ v probe, u = (State.discarded v probe).warmRings.rootLock ∧ v.lasting = s.lasting :=
      ⟨_, _, State.warmReset_eq s, (State.fallCoarse_lasting _).trans (State.drainsFailed_lasting s)⟩
    have hsame {γ : Type} (g : State → γ) (hr : ∀ (s : State) r, g { s with rings := r } = g s)
        (hset : ∀ (s : State) o v, g (s.setReg o v) = g s) (ho : ∀ (s : State) o, g (s.emit o) = g s)
        (ht : ∀ (s : State) a, g { s with time := { s.time with align := a, offset := 0 } } = g s) : g u = g (v.discarded probe) :=
      (congrArg g hu).trans (State.relock_same g hr hset ho ht _)
    have hkept : u.lasting = s.lasting :=
      (hsame State.lasting (fun _ _ => rfl) (fun _ _ _ => rfl) (fun _ _ => rfl) fun _ _ => rfl).trans
        ((State.discarded_lasting v probe).trans hlasting)
    have hhull (h : Nat) : (u.hull h).prog = none := by
      have hh : u.hulls = tmap Hull.warm v.hulls :=
        (hsame State.hulls (fun _ _ => rfl) (fun _ _ _ => rfl) (fun _ _ => rfl) fun _ _ => rfl).trans rfl
      rw [State.hull, tget, hh, tfind_tmap]
      cases tfind v.hulls h <;> rfl
    have hpart : u.keptPart = s.keptPart := (Prod.mk.inj hkept).1
    refine ⟨congrArg (·.1.2.2.2.1) hpart, congrArg (·.1.2.2.2.2.1) hpart, (Prod.mk.inj hkept).2, congrArg (·.1.2.2.2.2.2) hpart,
      congrArg (·.1.2.1) hpart, congrArg (·.1.2.2.1) hpart, (Keeps.upd (Keeps.refl s) hpart).fixed, ?_, ?_, ?_, hhull⟩
    · exact (hsame State.tiles (fun _ _ => rfl) (fun _ _ _ => rfl) (fun _ _ => rfl) fun _ _ => rfl).trans rfl
    · exact (hsame State.sync (fun _ _ => rfl) (fun _ _ _ => rfl) (fun _ _ => rfl) fun _ _ => rfl).trans rfl
    · exact (hsame State.aus (fun _ _ => rfl) (fun _ _ _ => rfl) (fun _ _ => rfl) fun _ _ => rfl).trans rfl

end Sys2Proof.Machine
end

section
/-!
PROOFS. Power, start-up, pins and readings (R471–R482): the statement PowerAndPinsTakeEffect.
-/

namespace Sys2Proof.Machine

section Pins

variable {s : State}

/-- R471, R480: PWR_EN high takes a device without power to INIT. -/
theorem execPwrEnHigh_off (sel : Bool) (slot : BitVec 6) (hoff : s.board.pwrEn = false) {w : State}
    (hw : ({ s.coldState with
      board := { s.coldState.board with pwrEn := true, pwrGood := true, refclkSel := sel, slotId := slot }
      rst := { s.coldState.rst with dev := .init, startPhase := 1 } } : State).emit (.pin "PWR_GOOD" true) = w) :
    execPwrEnHigh sel slot s = .next (if s.board.leakN then w else (w.envRec 2 0).event evDev 1 103) := by
  subst hw
  exact congrArg Host.Outcome.next (if_neg (by rw [hoff]; exact Bool.false_ne_true))

/-- R481: start-up runs while the device is in INIT, its boundary-scan port unused. -/
theorem State.startingUp (hdev : s.rst.dev = .init) (hphase : s.rst.startPhase ≠ 0) (hscan : s.rst.bscanUsed = false) :
    ¬ (s.rst.dev ≠ .init ∨ s.rst.startPhase = 0 ∨ s.rst.bscanUsed) := by
  simp only [hdev, hphase, hscan, ne_eq, not_true_eq_false, Bool.false_eq_true, or_self, not_false_eq_true]

/-- A level of a pin falls. -/
theorem fell_iff {old level : Bool} {p : Prop} : ((old && !level) = true ∧ p) ↔ (old = true ∧ level = false ∧ p) := by
  cases old <;> cases level <;> simp

/-- R479: a trip powers the device down, its record sent. -/
theorem execThermalTrip_hot {die : Nat} {tj outlet : Byte} (hdev : s.rst.dev ≠ .cold) (hdie : die < 3)
    (hhot : 120 ≤ tj.toNat ∨ 65 ≤ outlet.toNat) {v w : State} (hv : s.setTj die tj = v)
    (hw : (({ v with board := { v.board with outletC := outlet } } : State).envRec 4 3).emit (.pin "THERMTRIP_N" false) = w) :
    execThermalTrip die tj outlet s = .next (State.removePower { w with board := { w.board with thermtripN := false } }) := by
  subst hw hv
  refine congrArg Host.Outcome.next (if_neg ?_)
  rintro (hc | hd | ht)
  · exact hdev hc
  · omega
  · omega

/-- R478, R479: the coolant's readings, in and out of limits. -/
theorem execCoolant_powered (hdev : s.rst.dev ≠ .cold) (inlet outlet : Byte) (flow kpa : Half) {bad : Bool}
    (hbad : decide (45 < inlet.toNat ∨ flow.toNat < 1500) = bad) {v : State}
    (hv : { s with board := { s.board with inletC := inlet, outletC := outlet, flow := flow, kpa := kpa, coolBad := bad } } = v) :
    execCoolant inlet outlet flow kpa s = .next (if bad then (v.envRec 1 0).event evDev 0 102 else v) := by
  subst hv hbad
  exact congrArg Host.Outcome.next (if_neg hdev)

end Pins

/-- What a device without power keeps and loses (R473). -/
theorem State.removePower_eq (s : State) : ∃ v : State, s.removePower = v.coldState ∧ v.board.pwrGood = false ∧ v.fixed = s.fixed ∧
    v.maxVersion = s.maxVersion ∧ v.bypass = s.bypass ∧ v.host = s.host := by
  unfold State.removePower
  refine ⟨_, rfl, rfl, ?_⟩
  split <;> exact ⟨rfl, rfl, rfl, rfl⟩

/-- Settles O40: each clause is the branch of its command that the hypotheses name; what power removal leaves is read off its
definition. -/
theorem powerAndPinsTakeEffect : Obligations.PowerAndPinsTakeEffect := by
  unfold Obligations.PowerAndPinsTakeEffect
  refine ⟨fun s => ⟨fun sel slot hoff => ?high, fun tr hdev hphase hscan => ?startUp, rfl, rfl, fun die tj outlet hdev hdie hhot => ?trip,
    fun hgood => ?rail, fun level => ?perst, fun level => ?leak, fun hdev => ⟨fun inlet outlet flow kpa => ?coolant,
      fun up => ⟨?eth0, ?eth1⟩, fun i => ?tap⟩⟩, fun s => ?removed⟩
  case high =>
    intro v w
    exact execPwrEnHigh_off sel slot hoff rfl
  case startUp =>
    intro v
    have hin := State.startingUp hdev hphase hscan
    exact ⟨congrArg Host.Outcome.next (if_neg hin), _, _, congrArg Host.Outcome.next (if_neg hin)⟩
  case trip =>
    intro v w
    exact execThermalTrip_hot hdev hdie hhot rfl rfl
  case rail => exact congrArg Host.Outcome.next (if_pos hgood)
  case perst => exact congrArg Host.Outcome.next (if_congr fell_iff rfl rfl)
  case leak => exact congrArg Host.Outcome.next (if_congr fell_iff rfl rfl)
  case coolant =>
    intro bad v
    exact execCoolant_powered hdev inlet outlet flow kpa rfl rfl
  case eth0 => exact congrArg Host.Outcome.next (if_neg hdev)
  case eth1 => exact congrArg Host.Outcome.next (if_neg hdev)
  case tap =>
    intro v
    refine ⟨?idcode, ?extest, ?other⟩
    case idcode =>
      rintro rfl
      exact congrArg Host.Outcome.next (if_neg hdev)
    case extest => rintro (rfl | rfl | rfl) <;> exact congrArg Host.Outcome.next (if_neg hdev)
    case other => rintro (rfl | rfl | ⟨n, rfl⟩) <;> exact congrArg Host.Outcome.next (if_neg hdev)
  case removed =>
    intro u
    obtain ⟨v, hu, hgood, hfixed, hversion, hbypass, hhost⟩ := State.removePower_eq s
    have hcold : u = v.coldState := hu
    rw [hcold]
    exact ⟨rfl, hgood, hfixed, hversion, hbypass, hhost, rfl, rfl, rfl, rfl, rfl, rfl⟩

end Sys2Proof.Machine
end

section
/-!
PROOFS. Register accesses (R7, R8, R12): the bits of a word that is written, and the statement RegisterAccessesFollowTheFieldTypes.
-/

namespace Sys2Proof.Machine

/-! ## Sums and differences of masked words -/

/-- Numbers without a common bit add as they are joined. -/
theorem add_eq_or_of_and_eq_zero {a b : Nat} (h : a &&& b = 0) : a + b = a ||| b := by
  have ha : a < 2 ^ (a + b) := Nat.lt_of_le_of_lt (Nat.le_add_right a b) Nat.lt_two_pow_self
  have hb : b < 2 ^ (a + b) := Nat.lt_of_le_of_lt (Nat.le_add_left b a) Nat.lt_two_pow_self
  have hbits : BitVec.ofNat (a + b) a &&& BitVec.ofNat (a + b) b = 0#(a + b) := by
    rw [← BitVec.ofNat_and, h]
  have hsum := BitVec.toNat_add_of_and_eq_zero hbits
  rw [BitVec.add_eq_or_of_and_eq_zero _ _ hbits, BitVec.toNat_or] at hsum
  simpa only [BitVec.toNat_ofNat, Nat.mod_eq_of_lt ha, Nat.mod_eq_of_lt hb] using hsum.symm

/-- A number without the bits of a mask. -/
theorem testBit_sub_and (a m i : Nat) : (a - (a &&& m)).testBit i = (a.testBit i && !m.testBit i) := by
  have hdisjoint : (a ^^^ (a &&& m)) &&& (a &&& m) = 0 := by
    refine Nat.eq_of_testBit_eq fun i => ?_
    simp only [Nat.testBit_and, Nat.testBit_xor, Nat.zero_testBit]
    cases a.testBit i <;> cases m.testBit i <;> rfl
  have hsum : (a ^^^ (a &&& m)) + (a &&& m) = a := by
    rw [add_eq_or_of_and_eq_zero hdisjoint]
    refine Nat.eq_of_testBit_eq fun i => ?_
    simp only [Nat.testBit_or, Nat.testBit_and, Nat.testBit_xor]
    cases a.testBit i <;> cases m.testBit i <;> rfl
  have hsub : a - (a &&& m) = a ^^^ (a &&& m) := by omega
  rw [hsub, Nat.testBit_xor, Nat.testBit_and]
  cases a.testBit i <;> cases m.testBit i <;> rfl

/-- A word whose bits under a mask take a value. -/
theorem testBit_masked (w v m i : Nat) : ((w - (w &&& m)) + (v &&& m)).testBit i = if m.testBit i then v.testBit i else w.testBit i := by
  have hdisjoint : (w - (w &&& m)) &&& (v &&& m) = 0 := by
    refine Nat.eq_of_testBit_eq fun i => ?_
    simp only [Nat.testBit_and, testBit_sub_and, Nat.zero_testBit]
    cases m.testBit i <;> simp
  rw [add_eq_or_of_and_eq_zero hdisjoint, Nat.testBit_or, testBit_sub_and, Nat.testBit_and]
  cases m.testBit i <;> simp

/-! ## Words -/

section Words

variable {s : State}

theorem State.reg_lt (s : State) (off : Nat) : s.reg off < 2 ^ 64 := BitVec.isLt _

theorem State.setReg_reg (s : State) (off v : Nat) : (s.setReg off v).reg off = v % 2 ^ 64 := by
  rw [State.reg, State.setReg, tget_tput_same, BitVec.toNat_ofNat]

/-- The word that a write leaves: RW fields take the value, ones clear W1C bits. -/
def RReg.written (r : RReg) (w v : Nat) : Nat :=
  let w' := (w - (w &&& r.maskOf .rw)) + (v &&& r.maskOf .rw)
  w' - (w' &&& (v &&& r.maskOf .w1c))

theorem State.writeWord_eq (s : State) (r : RReg) (off v : Nat) :
    s.writeWord r off v = if r.written (s.reg off) v = s.reg off then s else s.setReg off (r.written (s.reg off) v) := rfl

/-- R12: bit by bit what a write leaves in a word. -/
theorem RReg.testBit_written (r : RReg) (w v i : Nat) (hmask : r.maskOf .rw &&& r.maskOf .w1c = 0) :
    (r.written w v).testBit i =
      if (r.maskOf .rw).testBit i then v.testBit i
      else if (r.maskOf .w1c).testBit i then w.testBit i && !v.testBit i else w.testBit i := by
  have hbit : ((r.maskOf .rw).testBit i && (r.maskOf .w1c).testBit i) = false := by
    rw [← Nat.testBit_and, hmask, Nat.zero_testBit]
  unfold RReg.written
  rw [testBit_sub_and, testBit_masked, Nat.testBit_and]
  cases hrw : (r.maskOf .rw).testBit i <;> cases hw1c : (r.maskOf .w1c).testBit i <;> simp [hrw, hw1c] at hbit ⊢

theorem State.writeWord_reg (s : State) (r : RReg) (off v : Nat) : (s.writeWord r off v).reg off = r.written (s.reg off) v % 2 ^ 64 := by
  rw [State.writeWord_eq]
  split
  case isTrue h => rw [h, Nat.mod_eq_of_lt (s.reg_lt off)]
  case isFalse => exact State.setReg_reg ..

end Words

/-! ## Plain words (R12) -/

/-- A register that every write changes as a word. -/
def RegName.plain : RegName → Bool
  | .timeAlignCfg | .timeEvent | .hullEvent | .pwrEvent | .memaEvent | .membEvent | .nmuEvent | .nmuBgcfg | .ausEvent | .jvEvent | .jvCfg
  | .collEvent | .intgEvent | .rstEvent | .dbgEvent | .secEvent | .devEvent => true
  | _ => false

theorem plain_of_mem_wordRegs {off : Nat} (h : off ∈ wordRegs) {r : RReg} (hr : regAt off = some r) : r.name.plain = true := by
  have hall : wordRegs.all (fun o => match regAt o with | some r => r.name.plain | none => true) = true := by decide
  have hoff := List.all_eq_true.mp hall off h
  rw [hr] at hoff
  exact hoff

theorem State.writeReg_plain {s : State} {a : Accessor} {off : Nat} {v : Word} {r : RReg} (hr : regAt off = some r)
    (hplain : r.name.plain = true) : s.writeReg a off v = s.writeWord r off v.toNat := by
  unfold State.writeReg State.fusedReg
  rw [hr]
  dsimp only
  cases hn : r.name with
  | timeAlignCfg | timeEvent | hullEvent | pwrEvent | memaEvent | membEvent | nmuEvent | nmuBgcfg | ausEvent | jvEvent | jvCfg | collEvent
  | intgEvent | rstEvent | dbgEvent | secEvent | devEvent => rfl
  | _ =>
    rw [hn] at hplain
    cases hplain

/-! ## Reads (R8, R12) -/

section Reads

variable {s : State} {a : Accessor} {off : Nat} {r : RReg}

/-- No accessor reaches a block without power. -/
theorem State.powered_of_reaches (h : s.reaches a off = true) : s.rst.dev ≠ .cold := by
  intro hcold
  cases a with
  | host => simp [State.reaches, State.blockOpen, hcold] at h
  | core c => simp [State.reaches, hcold] at h

theorem State.readClear_none (hr : regAt off = none) : s.readClear a off = s.emit (.regRead a off 0) := by
  unfold State.readClear
  rw [hr]

/-- A read of a register without RC fields answers its word, and changes nothing. -/
theorem State.readClear_kept (hr : regAt off = some r) (hrc : r.maskOf .rc = 0) (hclaim : r.name ≠ .icClaim) :
    s.readClear a off = s.emit (.regRead a off (BitVec.ofNat 64 (s.imageReg off))) := by
  unfold State.readClear
  rw [hr]
  dsimp only
  split
  case h_1 heq => exact absurd heq hclaim
  case h_2 heq => exact absurd heq hclaim
  case h_3 => exact if_pos (.inr hrc)

end Reads

/-- Settles O41: the bits of a written word are those of the value under its RW fields, and of the word elsewhere, less the W1C bits
written as 1; the other clauses are branches of the access. -/
theorem registerAccessesFollowTheFieldTypes : Obligations.RegisterAccessesFollowTheFieldTypes := by
  unfold Obligations.RegisterAccessesFollowTheFieldTypes
  refine ⟨?access, ?closed, ?word, ?invalid⟩
  case access =>
    intro s a off hreach halign
    have hread : exec (.rcRead a off) s = .next (s.readClear a off.toNat) := by
      refine congrArg Host.Outcome.next ((if_neg ?_).trans (if_pos hreach))
      simp only [halign, State.powered_of_reaches hreach, ne_eq, not_true_eq_false, or_self, not_false_eq_true]
    have hwrite (v : Word) : exec (.registerWrite a off v) s = .next (s.writeReg a off.toNat v) :=
      congrArg Host.Outcome.next (if_pos ⟨hreach, halign⟩)
    refine ⟨hread, fun hr => hread.trans (congrArg Host.Outcome.next (State.readClear_none hr)),
      fun r hr hrc hclaim => hread.trans (congrArg Host.Outcome.next (State.readClear_kept hr hrc hclaim)), hwrite, fun v r hoff hr => ?_⟩
    exact (hwrite v).trans (congrArg Host.Outcome.next (State.writeReg_plain hr (plain_of_mem_wordRegs hoff hr)))
  case closed =>
    intro s off halign hpower hclosed
    refine congrArg Host.Outcome.next ((if_neg ?_).trans (if_neg ?_))
    · simp only [halign, hpower, ne_eq, not_true_eq_false, or_self, not_false_eq_true]
    · exact Bool.eq_false_iff.mp hclosed
  case word =>
    intro s r off v hmask u
    have hu : u = if r.written (s.reg off) v = s.reg off then s else s.setReg off (r.written (s.reg off) v) := State.writeWord_eq ..
    refine ⟨fun i => ?bits, fun o ho => ?others, ?rest⟩
    case bits =>
      rw [State.writeWord_reg, Nat.testBit_mod_two_pow, RReg.testBit_written r _ _ _ hmask]
      by_cases hi : i < 64
      case pos => simp only [hi, decide_true, Bool.true_and, Bool.and_true]
      case neg =>
        have hreg : (s.reg off).testBit i = false :=
          Nat.testBit_lt_two_pow (Nat.lt_of_lt_of_le (s.reg_lt off) (Nat.pow_le_pow_right (by decide) (Nat.not_lt.mp hi)))
        simp only [hi, hreg, decide_false, Bool.false_and, Bool.and_false, ite_self]
    case others =>
      rw [hu]
      split
      case isTrue => rfl
      case isFalse => exact State.setReg_other _ _ _ ho
    case rest =>
      rw [hu]
      split <;> rfl
  case invalid =>
    intro s addr size write hpower hbad v
    refine congrArg Host.Outcome.next (if_neg ?_)
    rintro (hcold | ⟨halign, hsize⟩)
    · exact hpower hcold
    · exact hbad.elim (fun h => h halign) fun h => h hsize

end Sys2Proof.Machine
end

section
/-!
PROOFS. Configurations and attestation (R90, R333, R359, R414, R447, R449): the statement ConfigurationsAreTakenInRange.
-/

namespace Sys2Proof.Machine

/-- The low field of a word. -/
theorem bitsOf_low (v hi : Nat) : bitsOf v hi 0 = v % 2 ^ (hi + 1) := by
  rw [bitsOf, Nat.pow_zero, Nat.div_one, Nat.sub_zero]

theorem State.event_log (s : State) (off bit id : Nat) : (s.event off bit id).log = s.log := by
  have hlatch (s : State) : s.icLatch.log = s.log := foldl_keeps (g := State.log) (fun _ _ => by split <;> rfl) s _
  rw [State.event, State.raise, State.signal]
  exact hlatch _

section Configurations

variable {s : State}

/-- R90: a share is taken where the shares leave room for it and it covers the charges. -/
theorem execPwrHshare_open {h : Nat} (v : Word) (hh : isHull h = true) (ho : s.blockOpen 0x030040 = true) {n others need : Nat}
    (hn : v.toNat % 2 ^ 13 = n) (hothers : sumOf ((hullNos.filter fun k => k != h).map fun k => (s.hull k).share) = others)
    (hneed : (match (s.hull h).prog with
      | some _ => (s.hull h).standing + sumOf ((s.podsOf h).map fun p => (s.pod p).share)
      | none => 0) = need) :
    execPwrHshare h v s =
      .next (if others + n ≤ 5600 ∧ need ≤ n then s.setHull h { s.hull h with share := n } else s.event evPwr 8 97) := by
  subst hothers hneed
  rw [← bitsOf_low v.toNat 12] at hn
  subst hn
  refine congrArg Host.Outcome.next ((if_pos ⟨hh, ho⟩).trans ?_)
  rw [State.hshareWrite, ← ite_not]
  exact if_congr (not_or.trans (and_congr Nat.not_lt Nat.not_lt)) rfl rfl

/-- R449: a report is begun where none is and the number names a hull in use. -/
theorem execAttGo_open (h : BitVec 3) (ho : s.blockOpen 0x0F0020 = true) : execAttGo h s = .next (
    if s.sec.att = none ∧ isHull h.toNat = true ∧ (s.hull h.toNat).state ≠ .free then { s with sec := { s.sec with att := some h.toNat } }
    else s.regOr evSec 4) := by
  refine congrArg Host.Outcome.next ((if_pos ho).trans ?_)
  rw [State.attGoWrite, ← ite_not]
  refine if_congr ?_ rfl rfl
  rw [not_or, not_or, Option.not_isSome_iff_eq_none, Bool.not_eq_true', Bool.not_eq_false]

end Configurations

/-- The bytes of a report's signature, which no rule states (log entry 36). -/
def State.attSignature (s : State) : List Byte := (upFrom 0 12).flatMap fun i => natLe 8 (Config.unstated 36 [s.fresh, i]).toNat

/-- The state after a report's bytes are written, its event aside. -/
def State.attWritten (s : State) (h : Nat) : State :=
  { s.hostWrite (s.reg 0x0F0048) (s.attBody h ++ s.attSignature) with sec := { s.sec with att := none }, fresh := s.fresh + 1 }

/-- What a write of host memory changes, and what it leaves. -/
theorem State.hostWritten (s : State) (a : Nat) (b : List Byte) (x : SecS) (n : Nat) :
    let v := ({ s.hostWrite a b with sec := x, fresh := n } : State)
    v.host = putBytes s.host a b ∧ v.sec = x ∧ v.mem = s.mem ∧ v.hulls = s.hulls ∧ v.tiles = s.tiles ∧ v.log = s.log :=
  ⟨rfl, rfl, rfl, rfl, rfl, rfl⟩

theorem execAttDone_begun {s : State} {h : Nat} (hatt : s.sec.att = some h) : execAttDone s = .next ((s.attWritten h).event evSec 0 800) := by
  refine congrArg Host.Outcome.next ?_
  rw [hatt]
  rfl

/-- Settles O42: each clause is the branch of its command that the hypotheses name. -/
theorem configurationsAreTakenInRange : Obligations.ConfigurationsAreTakenInRange := by
  unfold Obligations.ConfigurationsAreTakenInRange
  intro s
  refine ⟨fun v ho => ?coll, fun v ho => ?hull, fun v hdev => ?rst, fun h v hh ho => ?share, fun v ho => ?sec, fun h ho => execAttGo_open h ho,
    fun h hatt => ?done⟩
  case coll =>
    intro beat loss
    refine congrArg Host.Outcome.next ((if_pos ho).trans ?_)
    rw [State.collCfgWrite, bitsOf_low]
    rfl
  case hull =>
    intro force evac
    refine congrArg Host.Outcome.next ((if_pos ho).trans ?_)
    rw [State.hullCfgWrite, bitsOf_low]
    rfl
  case rst =>
    intro wait grace
    refine congrArg Host.Outcome.next ?_
    rw [State.rstCfgWrite, bitsOf_low, bitsOf_low]
    exact if_neg hdev
  case share =>
    intro x n others need
    exact execPwrHshare_open v hh ho rfl rfl rfl
  case sec =>
    intro m d u
    exact congrArg Host.Outcome.next (if_pos ho)
  case done =>
    refine ⟨s.attSignature, ?length, (s.attWritten h).event evSec 0 800, execAttDone_begun hatt, ?_⟩
    case length => rw [State.attSignature, flatMap_natLe_length, upFrom_length]
    have hbody {γ : Type} (g : State → γ) (hg : ∀ s, g s.body = g s) : g ((s.attWritten h).event evSec 0 800) = g (s.attWritten h) :=
      State.of_body g hg (State.event_body ..)
    obtain ⟨hhost, hsec, hmem, hhulls, htiles, hlog⟩ := State.hostWritten s (s.reg 0x0F0048) (s.attBody h ++ s.attSignature)
      { s.sec with att := none } (s.fresh + 1)
    refine ⟨(hbody State.host fun _ => rfl).trans hhost, (hbody State.sec fun _ => rfl).trans hsec, ?bit,
      (hbody State.mem fun _ => rfl).trans hmem, (hbody State.hulls fun _ => rfl).trans hhulls, (hbody State.tiles fun _ => rfl).trans htiles,
      (State.event_log ..).trans hlog⟩
    case bit =>
      have hbit := State.event_bit (s.attWritten h) evSec 0 800 (by decide)
      rw [bitOf, beq_iff_eq] at hbit
      rw [Nat.testBit_eq_decide_div_mod_eq, decide_eq_true_eq]
      exact hbit

end Sys2Proof.Machine
end

section
/-!
PROOFS. Host rings and endpoints (R417–R426, R444): the statement RingsAndEndpointsTakeCommands.
-/

namespace Sys2Proof.Machine

/-! ## Rings (R419–R423) -/

section Rings

variable {s : State} {r : Nat}

/-- A configuration written with ENABLE 1. -/
theorem bitOf_or_one (v : Word) : bitOf (v ||| 1).toNat 0 = true := by
  have hbit : (v ||| 1).toNat.testBit 0 = true := by simp
  rw [Nat.testBit_eq_decide_div_mod_eq, decide_eq_true_eq] at hbit
  rw [bitOf, hbit]
  rfl

/-- A configuration written with ENABLE 0. -/
theorem bitOf_and_not_one (v : Word) : bitOf (v &&& ~~~1).toNat 0 = false := by
  have hbit : (v &&& ~~~1).toNat.testBit 0 = false := by simp
  rw [Nat.testBit_eq_decide_div_mod_eq, decide_eq_false_iff_not] at hbit
  rw [bitOf]
  exact beq_eq_false_iff_ne.mpr hbit

/-- R420: a doorbell within the ring's size. -/
theorem execDoorbell_open (v : Word) (hr : r < 8) (ho : s.blockOpen 0x051000 = true) {t : State}
    (ht : (s.setRing r { s.ring r with ctail := v.setWidth 32 }).signal (privKey (s.ring r).core (8 + r)) = t) :
    execDoorbell r v s =
      .next (if (v.setWidth 32 - (s.ring r).chead).toNat ≤ 2 ^ (s.ring r).cmdLog2 then t else t.ringFault r) := by
  subst ht
  refine congrArg Host.Outcome.next ((if_pos ⟨hr, ho⟩).trans ?_)
  rw [State.ctailWrite, ← ite_not]
  exact if_congr Nat.not_lt rfl rfl

/-- R420: RHEAD within the replies written. -/
theorem execCmdRhead_open (v : Word) (hr : r < 8) (ho : s.blockOpen 0x051018 = true) {t : State}
    (ht : s.setRing r { s.ring r with rhead := v.setWidth 32 } = t) :
    execCmdRhead r v s =
      .next (if (v.setWidth 32 - (s.ring r).rhead).toNat ≤ ((s.ring r).rtail - (s.ring r).rhead).toNat then t else t.ringFault r) := by
  subst ht
  refine congrArg Host.Outcome.next ((if_pos ⟨hr, ho⟩).trans ?_)
  rw [State.rheadWrite, ← ite_not]
  exact if_congr Nat.not_lt rfl rfl

/-- R423: a DISABLED ring in rule runs, empty. -/
theorem State.rcfgWrite_enable {n : Nat} {y : Ring} (hy : (s.ring r).cfg n = y) (hen : bitOf n 0 = true) (hstate : (s.ring r).state = .disabled)
    (hcmd : 4 ≤ y.cmdLog2) (hcmd' : y.cmdLog2 ≤ 12) (hrpl : 4 ≤ y.rplLog2) (hrpl' : y.rplLog2 ≤ 12) (hcaller : callerOk y.caller = true) :
    s.rcfgWrite r n = s.setRing r { y with en := true, state := .running, ctail := 0, chead := 0, rtail := 0, rhead := 0 } := by
  subst hy
  simp only [State.rcfgWrite, hstate, hen, Bool.not_true, Bool.false_eq_true, if_false]
  exact if_pos ⟨hcmd, hcmd', hrpl, hrpl', hcaller⟩

theorem State.rcfgWrite_disabled {n : Nat} (hen : bitOf n 0 = false) (hstate : (s.ring r).state = .disabled) :
    s.rcfgWrite r n = s.setRing r { (s.ring r).cfg n with en := false } := by
  simp only [State.rcfgWrite, hstate, hen]
  rfl

/-- R423: a RUNNING ring drains. -/
theorem State.rcfgWrite_drain {n : Nat} (hen : bitOf n 0 = false) (hstate : (s.ring r).state = .running) (hsame : (s.ring r).cfg n = s.ring r) :
    s.rcfgWrite r n = s.setRing r (Ring.settle { s.ring r with en := false, state := .draining }) := by
  simp only [State.rcfgWrite, hstate, hen]
  exact if_neg (not_not_intro hsame)

theorem State.rcfgWrite_refused {n : Nat} (hstate : (s.ring r).state = .running) (hother : (s.ring r).cfg n ≠ s.ring r) :
    s.rcfgWrite r n = s.hevent 10 := by
  simp only [State.rcfgWrite, hstate]
  exact if_pos hother

/-- R420: an entry is fetched where the ring runs and there is room for its reply. -/
theorem State.fetch_room {e : Bool} {img : Option Image} {objs : List (List Byte)} {m : List Meet} (hstate : (s.ring r).state = .running)
    (hserves : s.serves (s.ring r).core = true) (hentry : (s.ring r).chead ≠ (s.ring r).ctail)
    (hroom : ((s.ring r).rtail - (s.ring r).rhead).toNat + (s.ring r).inProgress.length < 2 ^ (s.ring r).rplLog2)
    (hfew : (s.ring r).inProgress.length < 64) {p : Nat × Cmd}
    (hp : packetOf (.ring r) (getBytes s.host ((s.ring r).cbase.toNat + 64 * ((s.ring r).chead.toNat % 2 ^ (s.ring r).cmdLog2)) 64) [] m = p) :
    s.fetch r e img objs m =
      if e = true ∨ s.board.perstN = false then s.ringFault r
      else s.setRing r { s.ring r with
        chead := (s.ring r).chead + 1, inProgress := (s.ring r).inProgress ++ [(p.2, p.1)]
        held := (s.ring r).held ++ [{ cmd := p.2, op := p.1, gtc := s.time.gtc, img := img, objects := objs }] } := by
  subst hp
  have hin : ¬ (!s.serves (s.ring r).core ∨ (s.ring r).chead = (s.ring r).ctail ∨
      ixDiff (s.ring r).rtail (s.ring r).rhead + (s.ring r).inProgress.length ≥ 2 ^ (s.ring r).rplLog2 ∨ (s.ring r).inProgress.length ≥ 64) := by
    rw [hserves]
    rintro (hs | he | hd | hn)
    · exact Bool.false_ne_true hs
    · exact hentry he
    · exact Nat.not_le.mpr hroom hd
    · exact Nat.not_le.mpr hfew hn
  simp only [State.fetch, hstate]
  refine (if_neg hin).trans (if_congr (or_congr_right ?_) rfl rfl)
  rw [Bool.not_eq_true']

end Rings

/-! ## Endpoints (R425, R426, R444) -/

section Endpoints

variable {s : State} {e : Nat}

theorem State.ecfgWrite_disabled {n : Nat} (hoff : (s.endp e).enable = false)
    (hok : ((s.endp e).cfg n).enable = true → callerOk ((s.endp e).cfg n).caller = true ∧ ((s.endp e).cfg n).prefixLen ≤ 128) :
    s.ecfgWrite e n = s.setEndp e ((s.endp e).cfg n) := by
  unfold State.ecfgWrite
  refine (if_neg ?_).trans (if_neg ?_)
  · rw [hoff]
    exact fun hc => Bool.false_ne_true hc.1
  · rintro ⟨hen, hbad⟩
    obtain ⟨hcaller, hlen⟩ := hok hen
    rw [hcaller] at hbad
    rcases hbad with hb | hb
    · exact Bool.false_ne_true hb
    · exact Nat.not_lt.mpr hlen hb

theorem State.ecfgWrite_refused {n : Nat} (hon : (s.endp e).enable = true) (hother : { (s.endp e).cfg n with enable := true } ≠ s.endp e) :
    s.ecfgWrite e n = s.hevent 10 := by
  unfold State.ecfgWrite
  exact if_pos ⟨hon, by rw [hon]; exact hother⟩

section Datagrams

variable {src : BitVec 128} {sport : Half} {bytes : List Byte} {m : List Meet}

/-- What R425 lets an endpoint accept: a source of its network part, and the bytes that the packet's header tells. -/
def Endpoint.accepts (x : Endpoint) (src : BitVec 128) (bytes : List Byte) : Prop :=
  x.inPrefix src = true ∧ fieldLe bytes 8 2 ≤ 1024 ∧ bytes.length = 64 + fieldLe bytes 8 2

theorem Endpoint.refuses_iff (x : Endpoint) :
    (!x.inPrefix src ∨ fieldLe bytes 8 2 > 1024 ∨ bytes.length ≠ 64 + fieldLe bytes 8 2) ↔ ¬ x.accepts src bytes := by
  rw [Endpoint.accepts, ← not_iff_not, not_not, not_or, not_or, Bool.not_eq_true', Bool.not_eq_false, Nat.not_lt, not_not]

theorem State.endpoint_serves (he : e < 16) (hon : (s.endp e).enable = true) (hcold : s.rst.dev ≠ .cold) (hrec : s.rst.dev ≠ .recovering)
    (hsec : s.sec.state ≠ 2) :
    ¬ (e ≥ 16 ∨ !(s.endp e).enable ∨ s.rst.dev = .cold ∨ s.rst.dev = .recovering ∨ s.sec.state = 2) := by
  simp only [Nat.not_le.mpr he, hon, hcold, hrec, hsec, Bool.not_true, Bool.false_eq_true, or_self, not_false_eq_true]

/-- A datagram that fails its endpoint's filter is counted, with its event. -/
theorem execDatagramArrival_dropped (hin : ¬ (e ≥ 16 ∨ !(s.endp e).enable ∨ s.rst.dev = .cold ∨ s.rst.dev = .recovering ∨ s.sec.state = 2))
    (hbad : ¬ (s.endp e).accepts src bytes) : execDatagramArrival e src sport bytes m s =
      .next ((s.setEndp e { s.endp e with dropped := min 0xFFFF ((s.endp e).dropped + 1) }).hevent 9) :=
  congrArg Host.Outcome.next ((if_neg hin).trans (if_pos ((Endpoint.refuses_iff _).mpr hbad)))

variable {p : Nat × Cmd} {v : State}

/-- A datagram whose tag is new is evaluated. -/
theorem execDatagramArrival_new (hin : ¬ (e ≥ 16 ∨ !(s.endp e).enable ∨ s.rst.dev = .cold ∨ s.rst.dev = .recovering ∨ s.sec.state = 2))
    (hgood : (s.endp e).accepts src bytes) (hp : packetOf (.udp e) (bytes.take 64) (bytes.drop 64) m = p)
    (hv : (s.setEndp e { s.endp e with accepted := min 0xFFFFFFFF ((s.endp e).accepted + 1) }).signal (privKey (s.endp e).core (16 + e)) = v)
    (hq : (v.endp e).recent.find? (fun q => q.1 == p.2.tag) = none) :
    execDatagramArrival e src sport bytes m s = .next (State.startSome 8 [] (v.setEndp e { v.endp e with
      recent := ((p.2.tag, none, src, sport) :: (v.endp e).recent).take 64
      held := (v.endp e).held ++ [{ cmd := p.2, op := p.1, gtc := v.time.gtc, img := none, objects := [] }] })) := by
  refine congrArg Host.Outcome.next ((if_neg hin).trans ((if_neg fun hc => (Endpoint.refuses_iff _).mp hc hgood).trans ?_))
  dsimp only
  rw [hv, hp, hq]

/-- A datagram whose tag is known is answered as it was. -/
theorem execDatagramArrival_again (hin : ¬ (e ≥ 16 ∨ !(s.endp e).enable ∨ s.rst.dev = .cold ∨ s.rst.dev = .recovering ∨ s.sec.state = 2))
    (hgood : (s.endp e).accepts src bytes) (hp : packetOf (.udp e) (bytes.take 64) (bytes.drop 64) m = p)
    (hv : (s.setEndp e { s.endp e with accepted := min 0xFFFFFFFF ((s.endp e).accepted + 1) }).signal (privKey (s.endp e).core (16 + e)) = v)
    {q : Word32 × Option (List Byte) × BitVec 128 × Half} (hq : (v.endp e).recent.find? (fun q => q.1 == p.2.tag) = some q) {w : State}
    (hw : v.setEndp e { v.endp e with duplicates := min 0xFFFF ((v.endp e).duplicates + 1) } = w) :
    execDatagramArrival e src sport bytes m s = .next (match q.2.1 with | some b => w.emit (.datagram e src sport b) | none => w) := by
  refine congrArg Host.Outcome.next ((if_neg hin).trans ((if_neg fun hc => (Endpoint.refuses_iff _).mp hc hgood).trans ?_))
  dsimp only
  rw [hv, hp, hq]
  subst hw
  obtain ⟨tag, answer, source⟩ := q
  cases answer <;> rfl

end Datagrams

end Endpoints

/-- Settles O44: each clause is the branch of its access that the hypotheses name. -/
theorem ringsAndEndpointsTakeCommands : Obligations.RingsAndEndpointsTakeCommands := by
  unfold Obligations.RingsAndEndpointsTakeCommands
  intro s
  refine ⟨fun r hr => ?ring, fun e he => ?endpoint⟩
  case ring =>
    intro x
    refine ⟨fun v ho => ?bell, fun v ho => ?head, fun v ho => ?config, fun e img objs m hstate hserves hentry hroom hfew => ?fetch⟩
    case bell =>
      intro w t
      exact execDoorbell_open v hr ho rfl
    case head =>
      intro w t
      exact execCmdRhead_open v hr ho rfl
    case config =>
      intro y z
      have hen {u : State} (h : s.rcfgWrite r (v ||| 1).toNat = u) : exec (.ringEnable r v) s = .next u :=
        congrArg Host.Outcome.next ((if_pos ⟨hr, ho⟩).trans h)
      have hdis {u : State} (h : s.rcfgWrite r (v &&& ~~~1).toNat = u) : exec (.ringDisable r v) s = .next u :=
        congrArg Host.Outcome.next ((if_pos ⟨hr, ho⟩).trans h)
      refine ⟨fun hstate h1 h2 h3 h4 hcaller => hen (State.rcfgWrite_enable rfl (bitOf_or_one v) hstate h1 h2 h3 h4 hcaller),
        fun hstate => hdis (State.rcfgWrite_disabled (bitOf_and_not_one v) hstate),
        fun hstate hsame => hdis (State.rcfgWrite_drain (bitOf_and_not_one v) hstate hsame),
        fun hstate hother => hdis (State.rcfgWrite_refused hstate hother)⟩
    case fetch =>
      intro p k
      exact congrArg Host.Outcome.next ((if_pos hr).trans (congrArg _ (State.fetch_room hstate hserves hentry hroom hfew rfl)))
  case endpoint =>
    intro x
    refine ⟨fun v ho => ?config, fun src sport bytes m hon hcold hrec hsec => ?datagram⟩
    case config =>
      intro y
      have hwrite {u : State} (h : s.ecfgWrite e v.toNat = u) : exec (.endpointEnable e v) s = .next u :=
        congrArg Host.Outcome.next ((if_pos ⟨he, ho⟩).trans h)
      exact ⟨fun hoff hok => hwrite (State.ecfgWrite_disabled hoff hok), fun hon hother => hwrite (State.ecfgWrite_refused hon hother)⟩
    case datagram =>
      intro n good p v y old k
      have hin := State.endpoint_serves he hon hcold hrec hsec
      change (¬ (s.endp e).accepts src bytes → execDatagramArrival e src sport bytes m s = _) ∧
        ((s.endp e).accepts src bytes → old = none → execDatagramArrival e src sport bytes m s = _) ∧
        (∀ q, (s.endp e).accepts src bytes → old = some q → execDatagramArrival e src sport bytes m s = _)
      refine ⟨fun hbad => ?dropped, fun hgood hold => ?new, fun q hgood hold => ?again⟩
      case dropped => rw [execDatagramArrival_dropped hin hbad]
      case new => rw [execDatagramArrival_new hin hgood rfl rfl hold]
      case again =>
        obtain ⟨tag, answer, source⟩ := q
        cases answer <;> rw [execDatagramArrival_again hin hgood rfl rfl hold rfl]

end Sys2Proof.Machine
end

section
/-!
PROOFS. Program commands (R51, R54, R60, R61, R87, R88, R387, R428, R429, R432, R433, R436): the statement ProgramCommandsTakeEffect.
-/

namespace Sys2Proof.Machine

/-! ## What a command's end keeps of memory -/

section Packets

variable {s v : State} {c : Cmd} {op : Nat} {f : State → State}

/-- A served command whose rules come to a state with the same memory ends with it. -/
theorem State.packet_ends (h : s.serving c op) (hf : f (s.settled.begin_ c op) = v) (hv : v.mem = (s.settled.begin_ c op).mem) :
    (.next (s.packet c op f) : Outcome) = .next v := by
  subst hf
  rw [State.packet_of_mem_kept h hv]

theorem State.packet_ends_settled (h : s.serving c op) (hf : f (s.settled.begin_ c op) = v) (hv : v.mem = (s.settled.begin_ c op).mem) :
    (.next (s.packet c op f) : Outcome) = .next v.settled := by
  rw [State.settled_of_quiet (State.quiet_of_mem hv (State.settled_begin_quiet ..))]
  exact State.packet_ends h hf hv

/-- A served command whose rules come to a calm state ends with it, and nothing noted. -/
theorem State.packet_ends_calm (h : s.serving c op) (hf : f (s.settled.begin_ c op) = v) (hv : v.calm) :
    (.next (s.packet c op f) : Outcome) = .next v.settled := by
  subst hf
  rw [State.packet_done s c op f h hv.2.2]

theorem State.settled_begin_calm (c : Cmd) (op : Nat) (h : s.noHold) : (s.settled.begin_ c op).calm :=
  State.calm_of_mem (State.begin_mem ..) (State.settled_calm h)

theorem State.settled_begin_meets (s : State) (c : Cmd) (op : Nat) : (s.settled.begin_ c op).mem.meets = [] := by
  rw [State.begin_mem]
  rfl

end Packets

theorem not_bnot {b : Bool} (hb : b = true) : ¬ (!b) = true := by
  rw [hb]
  exact Bool.false_ne_true

section Memory

variable (s : State) (h : Nat)

@[simp] theorem State.dropCalls_mem : (s.dropCalls h).mem = s.mem := by
  unfold State.dropCalls
  split
  · exact State.foldl_mem (fun _ _ => State.reply_mem ..) _ _
  · rfl

@[simp] theorem State.setShares_mem (p : Prog) : (s.setShares h p).mem = s.mem := by
  unfold State.setShares
  exact State.foldl_mem (fun _ _ => by rfl) _ _

@[simp] theorem State.createSync_mem (i : Image) : (s.createSync h i).mem = s.mem := by
  unfold State.createSync
  exact (State.foldl_mem (fun _ _ => by rfl) _ _).trans rfl

@[simp] theorem State.claimEngines_mem (p : Prog) : (s.claimEngines h p).mem = s.mem := by
  unfold State.claimEngines
  exact State.foldl_mem (fun _ _ => by rfl) _ _

/-- Seating acts on pods and tiles alone. -/
theorem State.of_seat {γ : Type} (g : State → γ) (hpod : ∀ (s : State) pd x, g (s.setPod pd x) = g s)
    (htile : ∀ (s : State) t x, g (s.setTile t x) = g s) (p : Prog) : g (s.seat h p) = g s := by
  unfold State.seat
  exact (foldl_keeps (g := g) (fun _ _ => by exact htile ..) _ _).trans
    ((foldl_keeps (g := g) (fun _ _ => by exact htile ..) _ _).trans (foldl_keeps (g := g) (fun _ _ => by exact hpod ..) _ _))

@[simp] theorem State.seat_mem (p : Prog) : (s.seat h p).mem = s.mem := State.of_seat s h State.mem (fun _ _ _ => rfl) (fun _ _ _ => rfl) p

theorem State.seat_hulls (p : Prog) : (s.seat h p).hulls = s.hulls := State.of_seat s h State.hulls (fun _ _ _ => rfl) (fun _ _ _ => rfl) p

theorem State.createSync_hulls (i : Image) : (s.createSync h i).hulls = s.hulls := by
  unfold State.createSync
  exact (foldl_keeps (g := State.hulls) (fun _ _ => by rfl) _ _).trans rfl

theorem State.claimEngines_hulls (p : Prog) : (s.claimEngines h p).hulls = s.hulls := by
  unfold State.claimEngines
  exact foldl_keeps (g := State.hulls) (fun _ _ => by rfl) _ _

@[simp] theorem State.placementRound_mem (forced wait : Bool) : (s.placementRound h forced wait).mem = s.mem := by
  simp only [State.placementRound]
  split
  case h_1 => rfl
  case h_2 => split <;> split <;> simp

/-- A placement round changes neither a hull's state nor its step. -/
theorem State.placementRound_hull (forced : Bool) :
    ((s.placementRound h forced false).hull h).state = (s.hull h).state ∧ ((s.placementRound h forced false).hull h).step = (s.hull h).step := by
  unfold State.placementRound
  dsimp only
  split
  case h_1 =>
    have hset (g : Word32) : (s.setGen h g).hull h = { s.hull h with pgen := g, setting := none } := State.setHull_same ..
    rw [hset]
    exact ⟨rfl, rfl⟩
  case h_2 c =>
    rw [if_neg Bool.false_ne_true]
    split
    case isTrue => exact ⟨rfl, rfl⟩
    case isFalse =>
      have hkept {dst : BitVec 24} {kind : Nat} {vals : List Nat} : (s.sendPriv h dst kind vals).hull h = s.hull h :=
        State.of_sendPriv (fun s => s.hull h) (fun _ => rfl) (fun _ _ => rfl) s h dst kind vals
      rw [hkept]
      exact ⟨rfl, rfl⟩

end Memory

/-! ## PROG_LOAD -/

section Windows

variable {s : State} {h off len : Nat}

/-- What firmware reads in a clean range of a window. -/
theorem State.windowRead_clean (hm : s.mem.meets = []) (hc : s.windowClean h off len) (src : Nat) :
    s.windowRead src h true off len =
      (s, some ((((blocksOf off len).flatMap fun i => (s.winBlk h true i).payload).drop (off % 4096)).take len)) := by
  have hstep (i : Nat) (hi : i ∈ blocksOf off len) : s.checkBlk h true i none = (s, s.winBlk h true i, .pass) := by
    obtain ⟨u, row, hs, hpass, hdbg⟩ := hc i hi
    rw [hs.winBlk, State.checkBlk, State.fetchBlk_served hm hs]
    rcases hdbg with hw | hd
    · simp [hw, hpass]
    · simp [State.sawUnwritten_none hd, hpass]
  have hfold (l : List Nat) (hl : ∀ i ∈ l, s.checkBlk h true i none = (s, s.winBlk h true i, .pass)) (d : List Byte) :
      l.foldl (fun (acc : State × Option (List Byte)) i =>
        match acc.2 with
        | none => acc
        | some d =>
          match acc.1.checkBlk h true i none with
          | (s, b, .pass) => (s, some (d ++ b.payload))
          | (s, b, k) =>
            let tag := b.husk.toNat / 2 ^ 32
            (s.huskFail src h 0xFF 0xFF (tag % 2 ^ 20) (tag / 2 ^ 20) k, none)) (s, some d) =
        (s, some (d ++ l.flatMap fun i => (s.winBlk h true i).payload)) := by
    induction l generalizing d with
    | nil => simp
    | cons i l ih =>
      rw [List.foldl_cons]
      simp only [hl i (.head _), ih (fun j hj => hl j (.tail _ hj)), List.flatMap_cons, List.append_assoc]
  have hread := hfold _ hstep []
  rw [List.nil_append] at hread
  unfold State.windowRead
  dsimp only
  exact (congrArg (fun r : State × Option (List Byte) => (r.1, r.2.map fun d => (d.drop (off % 4096)).take len)) hread).trans rfl

/-- It is the same on every path. -/
theorem State.windowRead_bytes (hm : s.mem.meets = []) (hc : s.windowClean h off len) (src : Nat) :
    s.windowRead src h true off len = (s, some (s.windowBytes h off len)) := by
  rw [State.windowBytes, State.windowRead_clean hm hc, State.windowRead_clean hm hc]
  rfl

end Windows

section Load

variable {u : State} {c : Cmd} {img : Image} {h fl off len f pods : Nat} {q : FoldPlan} {spill : List Nat × Nat}

/-- What a load leaves of the calls, the program, the shares and the sync objects. -/
def State.loaded (u : State) (h : Nat) (i : Image) (f : Nat) (spill : List Nat) (pods : Nat) : State :=
  let x := u.hull h
  let v := u.dropCalls h
  let p := Prog.loaded i f (v.geometryDigest i) (i.geometry.groups.map fun g => (g.id, groupContent (v.group g.id))) spill pods
    (x.limitA, x.limitB) x.share
  ((v.setHull h { v.hull h with prog := some p, standing := v.standingOf h }).setShares h p).createSync h i

theorem State.loaded_mem (i : Image) (pods : Nat) : (u.loaded h i f spill.1 pods).mem = u.mem := by
  unfold State.loaded
  simp

/-- PROG_LOAD of a program that passes every check. -/
theorem State.progLoad_fits (hm : u.mem.meets = []) (h0 : pf c.params 0 1 = h) (h1 : pf c.params 1 1 = fl) (h8 : pf c.params 8 8 = off)
    (h16 : pf c.params 0x10 8 = len) (hh : isHull h = true) (hfl : fl < 2) (h2 : pf c.params 2 6 = 0) (hz : restZero c 0x18 = true)
    (hlen : len ≠ 0) (hoff : off % 4096 = 0) (hwin : u.inWindow h true off len = true) (howns : u.ownsHull c h = true)
    (hstate : (u.hull h).state = .granted) (hclean : u.windowClean h off len) {i : Image}
    (hi : { img with digest := sha256 (u.windowBytes h off len) } = i) (hok : u.imgOk h i = true) (hpods : (u.podsOf h).length = pods)
    (hfold : imgChooseFold i pods = some f) (hplan : imgFold i f = some q) (hf : q.foldLog2 = f) (hlevel : u.levelShort h i q = none)
    (hspill : (annexPrefix i i.annex (imgNeedA i f - (u.hull h).limitA)).getD ([], 0) = spill) :
    u.progLoad c (some img) =
      (if fl = 1 then u else u.loaded h i f spill.1 pods).reply c 0x0300 sDONE
        (mkFields [(1, 1, f), (2, 2, spill.1.length), (0x10, 8, spill.2)]) := by
  subst h0 h1 h8 h16 hpods hf
  have hin : ¬ ((!isHull (pf c.params 0 1)) = true ∨ pf c.params 1 1 ≥ 2 ∨ pf c.params 2 6 ≠ 0 ∨ (!restZero c 0x18) = true ∨
      pf c.params 0x10 8 = 0 ∨ pf c.params 8 8 % 4096 ≠ 0 ∨ (!u.inWindow (pf c.params 0 1) true (pf c.params 8 8) (pf c.params 0x10 8)) = true) := by
    simp [hh, hfl, h2, hz, hlen, hoff, hwin]
  refine (if_neg hin).trans ((if_neg (not_bnot howns)).trans ((if_neg (not_not_intro hstate)).trans ?_))
  dsimp only
  rw [State.windowRead_bytes hm hclean]
  dsimp only
  rw [hi, hok, Bool.not_true, if_neg Bool.false_ne_true, hfold, Option.bind_some, hplan]
  dsimp only
  rw [hlevel]
  dsimp only
  have hannex : i.annex = img.annex := by rw [← hi]
  rw [← hannex]
  generalize annexPrefix i i.annex _ = a at hspill ⊢
  have hgroups : i.geometry = img.geometry := by rw [← hi]
  rw [← hgroups]
  cases a <;> subst hspill <;> exact (apply_ite (fun v : State => v.reply c 0x0300 sDONE _) _ _ _).symm

end Load

/-! ## PROG_START, PROG_STOP, PROG_EVAL and TIME_SET_LAUNCH -/

section Start

variable {u : State} {c : Cmd} {p : Prog} {h fl step g : Nat}

/-- A start from a hull and a program as it sets them. -/
def State.startOn (v : State) (h : Nat) (x : Hull) (q : Prog) : State :=
  let s := (v.setHull h x).seat h q
  let s := (s.tilesOf h).foldl (fun s t => s.updTile t Tile.counted0) s
  let s := (s.createSync h q.image).claimEngines h q
  if q.twinOnly then s else s.placementRound h false false

theorem State.startProg_eq (hprog : (u.hull h).prog = some p) (step launch : Nat) (timed : Bool) (recs : List (List Byte)) (home : List Byte) :
    ∃ x q, x.state = .running ∧ x.step = step ∧ u.startProg h step launch timed recs home = (u.dropCalls h).startOn h x q := by
  simp only [State.startProg, hprog]
  exact ⟨_, _, rfl, rfl, rfl⟩

theorem State.startOn_mem (v : State) (h : Nat) (x : Hull) (q : Prog) : (v.startOn h x q).mem = v.mem := by
  have htiles (w : State) (l : List Nat) : (l.foldl (fun s t => s.updTile t Tile.counted0) w).mem = w.mem :=
    State.foldl_mem (fun _ _ => by rfl) w l
  simp only [State.startOn]
  split <;> simp [htiles]

theorem State.startOn_hull (v : State) (h : Nat) (x : Hull) (q : Prog) :
    ((v.startOn h x q).hull h).state = x.state ∧ ((v.startOn h x q).hull h).step = x.step := by
  have hof {v w : State} (k : v.hulls = w.hulls) : v.hull h = w.hull h := by
    unfold State.hull
    rw [k]
  have htiles (w : State) (l : List Nat) : (l.foldl (fun s t => s.updTile t Tile.counted0) w).hulls = w.hulls :=
    foldl_keeps (g := State.hulls) (fun _ _ => by rfl) w l
  have hseated (l : List Nat) (i : Image) :
      (((l.foldl (fun s t => s.updTile t Tile.counted0) ((v.setHull h x).seat h q)).createSync h i).claimEngines h q).hull h = x :=
    (hof ((State.claimEngines_hulls ..).trans ((State.createSync_hulls ..).trans ((htiles ..).trans (State.seat_hulls ..))))).trans
      (State.setHull_same ..)
  simp only [State.startOn]
  split
  case isTrue => rw [hseated]; exact ⟨rfl, rfl⟩
  case isFalse =>
    obtain ⟨hstate, hstep⟩ := State.placementRound_hull
      ((((((v.setHull h x).seat h q).tilesOf h).foldl (fun s t => s.updTile t Tile.counted0) ((v.setHull h x).seat h q)).createSync h
        q.image).claimEngines h q) h false
    rw [hstate, hstep, hseated]
    exact ⟨rfl, rfl⟩

theorem State.startProg_mem (hprog : (u.hull h).prog = some p) (step launch : Nat) (timed : Bool) (recs : List (List Byte)) (home : List Byte) :
    (u.startProg h step launch timed recs home).mem = u.mem := by
  obtain ⟨x, q, -, -, heq⟩ := State.startProg_eq hprog step launch timed recs home
  rw [heq, State.startOn_mem, State.dropCalls_mem]

/-- A started program runs from the step it was given. -/
theorem State.startProg_hull (hprog : (u.hull h).prog = some p) (step launch : Nat) (timed : Bool) (recs : List (List Byte)) (home : List Byte) :
    ((u.startProg h step launch timed recs home).hull h).state = .running ∧ ((u.startProg h step launch timed recs home).hull h).step = step := by
  obtain ⟨x, q, hstate, hstep, heq⟩ := State.startProg_eq hprog step launch timed recs home
  rw [heq, ← hstate, ← hstep]
  exact State.startOn_hull ..

/-- No records are in rule. -/
theorem recordsOk_nil (p : Prog) (key : Word) (first : Nat) : recordsOk p key first [] = true := rfl

/-- R432: a start with neither records nor a re-home block. -/
theorem State.progStart_plain (h0 : pf c.params 0 1 = h) (h1 : pf c.params 1 1 = fl) (h8 : pf c.params 8 8 = step) (hh : isHull h = true)
    (hfl : fl < 2) (h2 : pf c.params 2 6 = 0) (hstep : step ≤ maxStep) (h16 : pf c.params 0x10 8 = 0) (h24 : pf c.params 0x18 8 = 0)
    (howns : u.ownsHull c h = true) (hstate : (u.hull h).state = .granted) (hprog : (u.hull h).prog = some p)
    (hrestored : p.restored = true → step = 0) (hbusy : u.engineBusy h p = false) (hshrunk : u.shrunk h p = false)
    (hperiod : p.image.tickPeriodUs = u.periodUs) {a : Nat} (ha : (u.time.gtc + 999) / 1000 * 1000 + 100000 = a) :
    u.progStart c = (u.startProg h (if p.restored then (u.hull h).step else step) a (fl == 1) [] []).reply c 0x0301 sDONE
      (mkFields [(0, 8, if fl = 1 then 0 else a)]) := by
  subst h0 h1 h8 ha
  have hreplay : pf c.params 1 1 / 2 % 2 = 0 := by omega
  have hrehome : pf c.params 1 1 / 4 % 2 = 0 := by omega
  have htimed : pf c.params 1 1 % 2 = pf c.params 1 1 := Nat.mod_eq_of_lt hfl
  have hno : ((0 : Nat) == 1) = false := rfl
  have hnone : upFrom 0 (([] : List Byte).length / 512) = [] := rfl
  simp only [State.progStart, hprog, hreplay, hrehome, htimed, h16, h24, hno, Bool.false_eq_true, if_false, hnone, List.map_nil,
    recordsOk_nil, Bool.not_false, Bool.true_or, Bool.true_and, beq_self_eq_true, Bool.and_self, Bool.not_true, or_false, false_or]
  have hin : ¬ ((!isHull (pf c.params 0 1)) = true ∨ pf c.params 1 1 ≥ 8 ∨ pf c.params 2 6 ≠ 0 ∨ pf c.params 8 8 > maxStep ∨
      (p.restored && pf c.params 8 8 != 0) = true) := by
    simp only [hh, h2, Nat.not_le.mpr (show pf c.params 1 1 < 8 by omega), Nat.not_lt.mpr hstep, Bool.not_true,
      Bool.false_eq_true, ne_eq, not_true_eq_false, false_or, Bool.and_eq_true, bne_iff_ne, not_and, not_not]
    exact hrestored
  have hfree : ¬ (u.engineBusy (pf c.params 0 1) p = true ∨ u.shrunk (pf c.params 0 1) p = true) := by simp [hbusy, hshrunk]
  refine (if_neg hin).trans ((if_neg (not_bnot howns)).trans ?_)
  rw [hstate]
  refine (if_neg hfree).trans ?_
  simp only [hperiod, beq_self_eq_true, Bool.not_true, Bool.false_eq_true, if_false, beq_iff_eq]

/-- R433: a stop is noted, and performed at once where nothing holds it. -/
theorem State.progStop_running (h0 : pf c.params 0 1 = h) (h1 : pf c.params 1 1 = fl) (hh : isHull h = true) (hfl : fl < 2)
    (hz : restZero c 2 = true) (howns : u.ownsHull c h = true) (hstate : (u.hull h).state = .running) (hprog : (u.hull h).prog = some p)
    {v : State} (hv : u.setHull h { u.hull h with prog := some { p with stops := p.stops ++ [(fl == 0, c)] } } = v) :
    u.progStop c = if p.state = 2 ∨ fl = 0 ∧ (u.hull h).holds &&& 0b01111 = 0 ∨ fl = 1 ∧ p.logWait = true then v.stopHull h 1 sDONE false
      else v := by
  subst h0 h1 hv
  have hin : ¬ ((!isHull (pf c.params 0 1)) = true ∨ pf c.params 1 1 ≥ 2 ∨ (!restZero c 2) = true) := by simp [hh, hfl, hz]
  refine (if_neg hin).trans ((if_neg (not_bnot howns)).trans ?_)
  simp only [hstate, hprog]
  exact if_congr (by simp) rfl rfl

/-- R436: an evaluation run that fits the window's budget is admitted. -/
theorem State.progEval_admits {k : Nat} (h0 : pf c.params 0 1 = h) (h1 : pf c.params 1 1 = k) (hh : isHull h = true) (hk : k < 16)
    (hz : restZero c 2 = true) (howns : u.ownsHull c h = true) (hstate : (u.hull h).state = .running) (hprog : (u.hull h).prog = some p)
    (hknown : k < p.image.evals.length) (hrun : p.state = 3) (hfits : p.evalTicksOf (p.evals ++ [k]) ≤ p.image.evalBudget) :
    u.progEval c = (u.setHull h { u.hull h with prog := some { p with evals := p.evals ++ [k] } }).reply c 0x0305 sACCEPTED
      (mkFields [(0, 8, (u.hull h).step), (8, 2, p.evals.length)]) := by
  subst h0 h1
  have hroom : ¬ (p.state ≠ 3 ∨ p.evalTicksOf (p.evals ++ [pf c.params 1 1]) > p.image.evalBudget) := by simp [hrun, hfits]
  simp only [State.progEval, hprog, hknown, decide_true]
  have hin : ¬ ((!isHull (pf c.params 0 1)) = true ∨ pf c.params 1 1 ≥ 16 ∨ (!restZero c 2) = true ∨ (!true) = true) := by
    simp [hh, hk, hz]
  refine (if_neg hin).trans ((if_neg (not_bnot howns)).trans ?_)
  rw [hstate]
  exact if_neg hroom

/-- A hull whose launch is given up. -/
theorem Hull.disarmed (x : Hull) :
    (if x.armed then x.disarm else x) = { x with armed := false, launch := if x.armed then x.lastLaunch else x.launch } := by
  cases harmed : x.armed
  case true => rfl
  case false =>
    cases x
    dsimp only at harmed
    subst harmed
    rfl

/-- R60, R61: a launch is armed at a time far enough ahead, or given up. -/
theorem State.setLaunch_waiting (h0 : pf c.params 0 1 = h) (h8 : pf c.params 8 8 = g) (hh : isHull h = true) (h1 : pf c.params 1 7 = 0)
    (hz : restZero c 16 = true) (howns : u.ownsHull c h = true) (hstate : (u.hull h).state = .running) (hprog : (u.hull h).prog = some p)
    (hwait : p.state = 2) (hlocked : u.time.align = .locked) (hlate : (u.hull h).armed = true → u.time.gtc + 2000000 ≤ (u.hull h).launch)
    (hfar : g ≤ u.time.gtc + 60000000000) (hsoon : g ≠ 0 → u.time.gtc + 2000000 ≤ g) {y : Hull}
    (hy : (if g = 0 then if (u.hull h).armed then (u.hull h).disarm else u.hull h
      else { u.hull h with armed := true, launch := g }) = y) :
    u.setLaunch c = (u.setHull h y).reply c 0x0110 sACCEPTED (mkFields [(0, 8, u.time.gtc), (8, 8, if y.armed then y.launch else 0)]) := by
  subst h0 h8
  have hin : ¬ ((!isHull (pf c.params 0 1)) = true ∨ pf c.params 1 7 ≠ 0 ∨ (!restZero c 16) = true ∨
      pf c.params 8 8 > u.time.gtc + 60000000000) := by simp [hh, h1, hz, hfar]
  have hnear : ¬ (pf c.params 8 8 ≠ 0 ∧ pf c.params 8 8 < u.time.gtc + 2000000) := fun hc => Nat.not_lt.mpr (hsoon hc.1) hc.2
  have harmed : ¬ ((u.hull (pf c.params 0 1)).armed = true ∧ (u.hull (pf c.params 0 1)).launch < u.time.gtc + 2000000) :=
    fun hc => Nat.not_lt.mpr (hlate hc.1) hc.2
  refine (if_neg hin).trans ((if_neg (not_bnot howns)).trans ((if_neg ?waiting).trans
    ((if_neg hnear).trans ((if_neg harmed).trans ?armed))))
  case waiting => simp [hstate, hprog, hwait, hlocked]
  case armed =>
    have hreply : (u.setHull (pf c.params 0 1) y).reply c 0x0110 sACCEPTED (mkFields [(0, 8, u.time.gtc),
          (8, 8, if ((u.setHull (pf c.params 0 1) y).hull (pf c.params 0 1)).armed then ((u.setHull (pf c.params 0 1) y).hull (pf c.params 0 1)).launch
            else 0)]) =
        (u.setHull (pf c.params 0 1) y).reply c 0x0110 sACCEPTED (mkFields [(0, 8, u.time.gtc), (8, 8, if y.armed then y.launch else 0)]) := by
      rw [State.setHull_same]
    rw [← hreply]
    by_cases hzero : pf c.params 8 8 = 0
    · rw [if_pos hzero] at hy
      subst hy
      exact if_pos hzero
    · rw [if_neg hzero] at hy
      subst hy
      exact if_neg hzero

end Start

/-! ## Services -/

section Services

variable {u : State} {c : Cmd} {p : Prog} {d : ServiceDecl} {h fl : Nat}

/-- R428: a request goes into its slot, and its counter is signalled. -/
theorem State.svcCall_lands (h0 : pf c.params 0 1 = h) (h1 : pf c.params 1 1 = fl) (hh : isHull h = true) (hfl : fl < 16)
    (hz : restZero c 2 = true) (howns : u.ownsHull c h = true) (hstate : (u.hull h).state = .running) (hprog : (u.hull h).prog = some p)
    (hd : p.image.services[fl]? = some d) (hrun : p.state = 3) {k : Nat} (hk : tget 0 p.nextK fl = k)
    (hfree : (p.calls.all fun q => q.svc != fl || q.k + d.slots != k || q.replied) = true) {v : State}
    (hv : u.collWrite h d.reqTensor (4096 * (k % d.slots)) (requestBlock k c.tail) = v) :
    u.svcCall c = ((v.setHull h { v.hull h with prog := (v.hull h).prog.map fun (p : Prog) =>
      { p with calls := p.calls ++ [{ svc := fl, k := k, cmd := c, landed := v.time.gtc, replied := false, dirty := false }],
               nextK := tput p.nextK fl ((k + 1) % 2 ^ 32) } }).signalCounter d.reqSem).1 := by
  subst h0 h1 hk hv
  obtain ⟨hknown, -⟩ := List.getElem?_eq_some_iff.mp hd
  have hclosed : (p.calls.any fun q => q.svc == pf c.params 1 1 && q.k + d.slots == tget 0 p.nextK (pf c.params 1 1) && !q.replied) = false := by
    refine List.any_eq_false.mpr fun q hq hopen => ?_
    have hdone := List.all_eq_true.mp hfree q hq
    simp only [Bool.and_eq_true, Bool.or_eq_true, beq_iff_eq, bne_iff_ne, Bool.not_eq_true'] at hdone hopen
    obtain ⟨⟨hsvc, hslot⟩, hreplied⟩ := hopen
    simp [hsvc, hslot, hreplied] at hdone
  simp only [State.svcCall, hprog, hknown, decide_true]
  have hin : ¬ ((!isHull (pf c.params 0 1)) = true ∨ pf c.params 1 1 ≥ 16 ∨ (!restZero c 2) = true ∨ (!true) = true) := by
    simp [hh, hfl, hz]
  refine (if_neg hin).trans ((if_neg (not_bnot howns)).trans ?_)
  rw [hstate]
  dsimp only
  rw [hd]
  dsimp only
  rw [hclosed, Bool.and_false]
  exact (if_neg (not_not_intro hrun)).trans (if_neg Bool.false_ne_true)

theorem State.coreAcquire_eq {id : Nat} {v : State} (h : u.coreAcquire id = some v) : ∃ t, v = { u with sync := t } := by
  unfold State.coreAcquire at h
  split at h
  case h_1 =>
    split at h
    case isTrue => cases h
    case isFalse =>
      obtain ⟨a, -, rfl⟩ := Option.map_eq_some_iff.mp h
      exact ⟨_, rfl⟩
  case h_2 => cases h

variable {s v w : State} {call : Call} {svc : Nat}

/-- What a service does with the oldest request of its program once its counter is acquired, in the state `w` without the call. -/
def State.answered (w : State) (h : Nat) (p : Prog) (d : ServiceDecl) (call : Call) : State :=
  if call.replied then w
  else
    let r := w.collRead h p d.ansTensor (4096 * (call.k % d.slots)) 4096
    let s := match r.bad with
      | some b => r.st.huskFail (w.cmdSrc call.cmd) h 0xFF 0xFF d.ansTensor b.1 b.2
      | none => r.st
    let len := fieldLe r.data 0 4
    let fin := fun (st : Byte) (cause : Nat) (tail : List Byte) =>
      s.reply call.cmd 0x0304 st (svcFields cause call.k call.landed s.time.gtc) tail
    if r.bad.isSome ∨ p.dirtyTick ∨ call.dirty then fin sFAULT 1 []
    else if len > 1024 then fin sFAULT 3 []
    else
      let tr := if d.provenance then s.provTrailer h p else (s, [])
      if (tr.1.hull h).state ≠ .running ∧ d.provenance then
        tr.1.reply call.cmd 0x0304 sFAULT (svcFields 1 call.k call.landed s.time.gtc)
      else tr.1.reply call.cmd 0x0304 sDONE (svcFields 0 call.k call.landed s.time.gtc) (slice r.data 0x40 len ++ tr.2)

/-- The state as its oldest request is answered: the counter acquired, the call gone. -/
def State.withoutCall (v : State) (h : Nat) (call : Call) : State :=
  v.setHull h { v.hull h with prog := (v.hull h).prog.map fun (p : Prog) => { p with calls := p.calls.erase call } }

/-- The work of SERVICE_ANSWER. -/
def State.serviceAnswered (s : State) (h svc : Nat) : State :=
  match (s.hull h).prog with
  | some p =>
    match p.calls.find? (fun q => q.svc == svc), p.image.services[svc]? with
    | some call, some d =>
      match s.coreAcquire d.ansSem with
      | none => s
      | some v => (v.withoutCall h call).answered h p d call
    | _, _ => s
  | none => s

theorem exec_serviceAnswer : exec (.serviceAnswer h svc []) s = .next (s.meeting [] (State.serviceAnswered · h svc)) := rfl

theorem State.serviceAnswered_oldest (hprog : (s.hull h).prog = some p) (hcall : p.calls.find? (fun q => q.svc == svc) = some call)
    (hd : p.image.services[svc]? = some d) (hv : s.coreAcquire d.ansSem = some v) :
    s.serviceAnswered h svc = (v.withoutCall h call).answered h p d call := by
  unfold State.serviceAnswered
  rw [hprog]
  dsimp only
  rw [hcall, hd]
  dsimp only
  rw [hv]

/-- R428, R429: what the oldest request's answer is where it reads whole. -/
theorem State.answered_whole {data : List Byte} (hreplied : call.replied = false)
    (hread : w.collRead h p d.ansTensor (4096 * (call.k % d.slots)) 4096 = { st := w, data := data, bad := none }) :
    w.answered h p d call =
      if p.dirtyTick = true ∨ call.dirty = true then w.reply call.cmd 0x0304 sFAULT (svcFields 1 call.k call.landed w.time.gtc)
      else if 1024 < fieldLe data 0 4 then w.reply call.cmd 0x0304 sFAULT (svcFields 3 call.k call.landed w.time.gtc)
      else
        let tr := if d.provenance then w.provTrailer h p else (w, [])
        if (tr.1.hull h).state ≠ .running ∧ d.provenance = true then
          tr.1.reply call.cmd 0x0304 sFAULT (svcFields 1 call.k call.landed w.time.gtc)
        else tr.1.reply call.cmd 0x0304 sDONE (svcFields 0 call.k call.landed w.time.gtc) (slice data 0x40 (fieldLe data 0 4) ++ tr.2) := by
  rw [State.answered, hreplied, if_neg Bool.false_ne_true, hread]
  exact if_congr (by simp) rfl rfl

/-- Where nothing that an access to memory finds differs, a clean range stays clean. -/
theorem State.cleanRange_of {tensor off len : Nat} (hfind : ∀ tierB wb, (v.hull h).find tierB wb = (s.hull h).find tierB wb)
    (hdbg : (v.hull h).dbg = (s.hull h).dbg) (hunit : ∀ u, v.unit u = s.unit u) (hblk : ∀ tierB key, v.blk tierB key = s.blk tierB key)
    (hfailed : v.nmu.failed = s.nmu.failed) (hboard : v.board = s.board) (k : s.cleanRange h p tensor off len) :
    v.cleanRange h p tensor off len := by
  obtain ⟨tierB, base, hplace, hclean⟩ := k
  refine ⟨tierB, base, hplace, fun i hi => ?_⟩
  obtain ⟨u, row, hs, hpass, hlist⟩ := hclean i hi
  exact ⟨u, row, State.servesAt_of hfind hunit hfailed hboard hs, by rwa [hblk], by rwa [hblk, hdbg]⟩

theorem State.withoutCall_cleanRange {tensor off len : Nat} (hv : s.settled.coreAcquire d.ansSem = some v)
    (k : s.cleanRange h p tensor off len) : (v.withoutCall h call).cleanRange h p tensor off len := by
  obtain ⟨t, rfl⟩ := State.coreAcquire_eq hv
  have hhull : (State.withoutCall { s.settled with sync := t } h call).hull h =
      { s.hull h with prog := (s.hull h).prog.map fun (p : Prog) => { p with calls := p.calls.erase call } } := State.setHull_same ..
  refine State.cleanRange_of (s := s) (fun _ _ => ?find) ?dbg (fun u => ?unit) (fun _ _ => rfl) rfl rfl k
  case find => rw [hhull]; rfl
  case dbg => rw [hhull]
  case unit => exact State.settled_unit s u

theorem State.withoutCall_mem (hv : s.settled.coreAcquire d.ansSem = some v) : (v.withoutCall h call).mem = s.settled.mem := by
  obtain ⟨t, rfl⟩ := State.coreAcquire_eq hv
  rfl

theorem State.withoutCall_time (hv : s.settled.coreAcquire d.ansSem = some v) : (v.withoutCall h call).time = s.time := by
  obtain ⟨t, rfl⟩ := State.coreAcquire_eq hv
  rfl

theorem State.provTrailer_calm (h : Nat) (p : Prog) (k : s.calm) : (s.provTrailer h p).1.calm := State.regionDigest_calm _ _ _ k

/-- R429: a request past its deadline fails as late, and its answer is taken as replied. -/
theorem execServiceDeadline_late (hprog : (s.hull h).prog = some p) (hd : p.image.services[svc]? = some d)
    (hcall : p.calls.find? (fun q => q.svc == svc && !q.replied && decide (q.landed + 1000 * d.deadlineUs ≤ s.time.gtc)) = some call) :
    exec (.serviceDeadline h svc) s = .next ((s.setHull h { s.hull h with prog := some { p with
      calls := p.calls.map fun q => if q = call then { q with replied := true } else q } }).reply call.cmd 0x0304 sFAULT
        (svcFields 2 call.k call.landed 0)) := by
  change execServiceDeadline h svc s = _
  unfold execServiceDeadline
  simp only [hprog, hd, hcall]

end Services

/-- Settles O48: each command's rules come to the branch that the hypotheses name, and its end keeps what they did. -/
theorem programCommandsTakeEffect : Obligations.ProgramCommandsTakeEffect := by
  unfold Obligations.ProgramCommandsTakeEffect
  intro s c h fl
  refine ⟨fun img f q _ hs hh hfl h2 hz => ?load, fun p hs hh hfl h2 => ?start, fun p hs hh hfl hz => ?stop, fun p hs hh hfl hz => ?eval,
    fun p hs hh h1 hz => ?launch, fun p d hcalm hs hh hfl hz => ?call, fun h svc p call d v hcalm hprog hcall hd hv => ?answer,
    fun h svc p call d hprog hd hcall => execServiceDeadline_late hprog hd hcall⟩
  case load =>
    intro off len hlen hoff u x i pods hwin howns hstate hclean hok hfold hplan hf hlevel spill done v p
    have hm : u.mem.meets = [] := State.settled_begin_meets s c 0x0300
    have hload := State.progLoad_fits hm rfl rfl rfl rfl hh hfl h2 hz hlen hoff hwin howns hstate hclean rfl hok rfl hfold hplan hf hlevel rfl
    refine ⟨fun h1 => ?check, fun h0 => ?loaded⟩
    case check =>
      rw [if_pos h1] at hload
      exact State.packet_ends hs hload (State.reply_mem ..)
    case loaded =>
      rw [if_neg (by rw [show pf c.params 1 1 = 0 from h0]; decide)] at hload
      exact State.packet_ends hs hload ((State.reply_mem ..).trans (State.loaded_mem ..))
  case start =>
    intro step hstep h16 h24 u x howns hstate hprog hrestored hbusy hshrunk hperiod a v
    have hstart := State.progStart_plain rfl rfl rfl hh hfl h2 hstep h16 h24 howns hstate hprog hrestored hbusy hshrunk hperiod rfl
    exact ⟨State.packet_ends hs hstart ((State.reply_mem ..).trans (State.startProg_mem hprog ..)), State.startProg_hull hprog ..⟩
  case stop =>
    intro u x howns hstate hprog v now
    have hstop := State.progStop_running rfl rfl hh hfl hz howns hstate hprog rfl
    refine ⟨fun hnow => ?_, fun hlater => ?_⟩
    · rw [if_pos hnow] at hstop
      exact State.packet_ends_settled hs hstop ((State.stopHull_mem ..).trans rfl)
    · rw [if_neg hlater] at hstop
      exact State.packet_ends hs hstop rfl
  case eval =>
    intro u x howns hstate hprog hknown hrun hfits
    exact State.packet_ends hs (State.progEval_admits rfl rfl hh hfl hz howns hstate hprog hknown hrun hfits) (State.reply_mem ..)
  case launch =>
    intro g u x now howns hstate hprog hwait hlocked hlate
    have hends {y : Hull} (hset : u.setLaunch c = (u.setHull h y).reply c 0x0110 sACCEPTED
        (mkFields [(0, 8, u.time.gtc), (8, 8, if y.armed then y.launch else 0)])) :=
      State.packet_ends (f := (State.setLaunch · c)) hs hset ((State.reply_mem ..).trans rfl)
    refine ⟨fun hsoon hfar => ?armed, fun hzero => ?given⟩
    case armed =>
      have hset : ¬ g = 0 := by omega
      exact hends (State.setLaunch_waiting rfl rfl hh h1 hz howns hstate hprog hwait hlocked hlate hfar (fun _ => hsoon) (if_neg hset))
    case given =>
      have hfar : g ≤ now + 60000000000 := by omega
      exact hends (State.setLaunch_waiting rfl rfl hh h1 hz howns hstate hprog hwait hlocked hlate hfar (fun hc => absurd hzero hc)
        ((if_pos hzero).trans x.disarmed))
  case call =>
    intro u howns hstate hprog hd hrun k hfree v call
    have hcall := State.svcCall_lands rfl rfl hh hfl hz howns hstate hprog hd hrun rfl hfree rfl
    exact State.packet_ends_calm hs hcall
      (State.calm_of_mem ((State.signalCounter_mem ..).trans rfl) (State.collWrite_calm _ _ _ _ (State.settled_begin_calm c 0x0304 hcalm)))
  case answer =>
    intro w at_
    have hwork := State.serviceAnswered_oldest (s := s.settled) hprog hcall hd hv
    have hm : w.mem = s.settled.mem := State.withoutCall_mem hv
    have htime : w.time = s.time := State.withoutCall_time hv
    have hend {x : State} (hx : w.answered h p d call = x) (hxm : x.mem = w.mem) : exec (.serviceAnswer h svc []) s = .next x :=
      exec_serviceAnswer.trans (congrArg Host.Outcome.next
        (State.meeting_of_mem_kept (f := (State.serviceAnswered · h svc)) (hwork.trans hx) (hxm.trans hm)))
    refine ⟨fun hreplied => hend (if_pos hreplied) rfl, fun hreplied hclean => ?unanswered⟩
    case unanswered =>
      intro data fault
      have hwclean : w.cleanRange h p d.ansTensor at_ 4096 := State.withoutCall_cleanRange hv hclean
      have hans := State.answered_whole hreplied (State.collRead_of_clean (by rw [hm]; rfl) hwclean .rfl)
      have hfault {cause : Nat} (hx : w.answered h p d call = w.reply call.cmd 0x0304 sFAULT (svcFields cause call.k call.landed w.time.gtc)) :
          exec (.serviceAnswer h svc []) s = .next (fault cause) := by
        rw [htime] at hx
        exact hend hx (State.reply_mem ..)
      refine ⟨fun hdirty => hfault (hans.trans (if_pos hdirty)), fun hp hcl hlong => ?long, fun hp hcl hfits => ?fits⟩
      case long =>
        exact hfault (hans.trans ((if_neg (by simp [hp, hcl])).trans (if_pos hlong)))
      case fits =>
        have hshort := hans.trans ((if_neg (by simp [hp, hcl])).trans (if_neg (Nat.not_lt.mpr hfits)))
        rw [htime] at hshort
        refine ⟨fun hprov => ?plain, fun tr htr hrun hprov => ?trailer⟩
        case plain =>
          rw [hprov] at hshort
          refine hend (hshort.trans ((if_neg fun hc => Bool.false_ne_true hc.2).trans ?_)) (State.reply_mem ..)
          rw [if_neg Bool.false_ne_true, List.append_nil]
        case trailer =>
          rw [hprov, if_pos rfl, htr] at hshort
          have hw : w.calm := State.calm_of_mem hm (State.settled_calm hcalm)
          have htrailer : tr.1.calm := by
            rw [← htr]
            exact State.provTrailer_calm _ _ hw
          exact exec_serviceAnswer.trans (congrArg Host.Outcome.next
            (State.meeting_of_calm (f := (State.serviceAnswered · h svc)) (hwork.trans (hshort.trans (if_neg fun hc => hc.1 hrun)))
              (State.calm_of_mem (State.reply_mem ..) htrailer)))

end Sys2Proof.Machine
end

section
/-!
PROOFS. Copies, fills, groups and link plans by command (R201–R203, R301, R330, R331): the statement MemoryGroupAndLinkCommandsTakeEffect.
-/

namespace Sys2Proof.Machine

/-! ## Writes where nothing is marked -/

section Unmarked

variable {s v : State} {h : Nat} {tierB : Bool}

/-- Without marks a write of a block is that alone. -/
theorem State.putBlk_of_unmarked (hmarks : s.mem.marks = []) (tierB : Bool) (key : Nat) (b : Blk) : s.putBlk tierB key b = s.setBlk tierB key b := by
  have hcopy : State.copyOut (s.mem.marks.length + 1) tierB key s = s := by
    unfold State.copyOut
    rw [hmarks]
    rfl
  rw [State.putBlk, hcopy]

@[simp] theorem State.setBlk_marks (s : State) (tierB : Bool) (key : Nat) (b : Blk) : (s.setBlk tierB key b).mem.marks = s.mem.marks := by
  cases tierB <;> rfl

theorem State.setBlk_blk_other (s : State) {tierB tb : Bool} {key k : Nat} (b : Blk) (hne : tb = tierB → k ≠ key) :
    (s.setBlk tierB key b).blk tb k = s.blk tb k := by
  cases tierB <;> cases tb
  case false.false => exact tget_tset_other _ _ _ (hne rfl)
  case true.true => exact tget_tset_other _ _ _ (hne rfl)
  case false.true => rfl
  case true.false => rfl

/-- What a write of one block of a window leaves: no marks, every other block, and whatever is no block. -/
def State.wroteAt (s v : State) (h : Nat) (tierB : Bool) (wb : Nat) : Prop :=
  v.contentless = s.contentless ∧ v.mem.marks = [] ∧
    ∀ tb u row, (tb = tierB → (s.hull h).find tierB wb ≠ some (u, row)) → row < blkPer tb → v.blk tb (blkPer tb * u + row) = s.blk tb (blkPer tb * u + row)

theorem State.wroteAt.rfl {wb : Nat} (hmarks : s.mem.marks = []) : s.wroteAt s h tierB wb := ⟨Eq.refl _, hmarks, fun _ _ _ _ _ => Eq.refl _⟩

theorem State.hull_of_contentless (e : v.contentless = s.contentless) (h : Nat) : v.hull h = s.hull h :=
  (congrArg (fun s : State => s.hull h) e :)

theorem State.wroteAt.trans {w : State} {wb : Nat} (k : s.wroteAt v h tierB wb) (l : v.wroteAt w h tierB wb) : s.wroteAt w h tierB wb := by
  obtain ⟨hv, -, hvb⟩ := k
  obtain ⟨hw, hmarks, hwb⟩ := l
  refine ⟨hw.trans hv, hmarks, fun tb u row hne hrow => ?_⟩
  exact (hwb tb u row (by rwa [State.hull_of_contentless hv]) hrow).trans (hvb tb u row hne hrow)

/-- Unit and row together are a block's key. -/
theorem blkKey_inj {per u row u' row' : Nat} (hr : row < per) (hr' : row' < per) (he : per * u + row = per * u' + row') : (u, row) = (u', row') := by
  have hu : u = u' := by
    have hdiv := congrArg (· / per) he
    have hpos : 0 < per := by omega
    simpa [Nat.mul_add_div hpos, Nat.div_eq_of_lt hr, Nat.div_eq_of_lt hr'] using hdiv
  subst hu
  rw [Nat.add_left_cancel he]

theorem State.storeBlk_wroteAt (hm : s.mem.meets = []) (hmarks : s.mem.marks = []) {wb : Nat} (k : s.served h tierB wb) (lo : Nat) (whole : Bool)
    (f : Blk → Blk) : s.wroteAt (s.storeBlk h tierB wb lo whole f) h tierB wb := by
  refine ⟨State.storeBlk_served hm k lo whole f, ?marks, fun tb u' row' hne hrow => ?other⟩
  all_goals
    obtain ⟨u, row, hs⟩ := k
    simp only [State.storeBlk, hs.1, State.access_served hm hs, State.putBlk_of_unmarked hmarks]
  case marks => rw [State.setBlk_marks, hmarks]
  case other =>
    refine State.setBlk_blk_other _ _ fun htb hkey => ?_
    subst htb
    exact hne rfl (hs.1.trans (congrArg some (blkKey_inj hrow (Hull.find_row hs.1) hkey).symm))

end Unmarked

/-! ## MEM_COPY -/

section Copy

variable {s v : State} {h tensor : Nat}

theorem State.calm_of_contentless (e : v.contentless = s.contentless) (k : s.calm) : v.calm := by
  obtain ⟨hhold, hmeets, hstuck⟩ := k
  exact ⟨fun u => by rw [State.unit_of_contentless e]; exact hhold u, (congrArg (·.mem.meets) e :).trans hmeets,
    (congrArg (·.mem.stuck) e :).trans hstuck⟩

/-- Up to a block's bytes from its start lie in it. -/
theorem eq_of_mem_blocksOf {i j len : Nat} (hlen : len ≤ 4096) (hj : j ∈ blocksOf (4096 * i) len) : j = i := by
  unfold blocksOf at hj
  split at hj
  case isTrue => cases hj
  case isFalse hpos =>
    rw [mem_upFrom] at hj
    omega

/-- The blocks of a range from the start on. -/
theorem lt_of_mem_blocksOf {i m : Nat} (hi : i ∈ blocksOf 0 (4096 * m)) : i < m := by
  unfold blocksOf at hi
  split at hi
  case isTrue => cases hi
  case isFalse =>
    rw [mem_upFrom] at hi
    omega

theorem State.writeRange_wroteAt {tierB : Bool} {base i : Nat} {bytes : List Byte} (hm : s.mem.meets = []) (hmarks : s.mem.marks = [])
    (hlen : bytes.length ≤ 4096) (k : s.served h tierB (base / 4096 + i)) :
    s.wroteAt (s.writeRange h tierB base tensor (4096 * i) bytes) h tierB (base / 4096 + i) := by
  refine List.foldlRecOn (motive := fun v => s.wroteAt v h tierB (base / 4096 + i)) _ _ (.rfl hmarks) fun v hv j hj => ?_
  obtain rfl := eq_of_mem_blocksOf hlen hj
  obtain ⟨hless, hunmarked, -⟩ := id hv
  have hmeets : v.mem.meets = [] := (congrArg (·.mem.meets) hless :).trans hm
  exact hv.trans (State.storeBlk_wroteAt hmeets hunmarked (State.served_of_contentless hless k) _ _ _)

/-- A clean block stays clean where another is written. -/
theorem State.wroteAt.clean {tb tierB : Bool} {base wb i : Nat} (k : s.wroteAt v h tierB wb)
    (hapart : tb = tierB → (s.hull h).find tb (base / 4096 + i) ≠ (s.hull h).find tierB wb) (hc : s.clean h tb base tensor i) :
    v.clean h tb base tensor i := by
  obtain ⟨hless, -, hother⟩ := k
  obtain ⟨u, row, hs, hpass, hdbg⟩ := hc
  have hblk := hother tb u row (fun htb he => hapart htb (hs.1.trans he.symm)) (Hull.find_row hs.1)
  have hhull := State.hull_of_contentless hless h
  exact ⟨u, row, State.servesAt_of (fun _ _ => by rw [hhull]) (State.unit_of_contentless hless) (congrArg (·.nmu.failed) hless :)
    (congrArg State.board hless :) hs, by rwa [hblk], by rwa [hblk, hhull]⟩

/-- Every block that a copy reads is clean. -/
def CopySide.reads (s : State) (h tensor a n : Nat) : CopySide → Prop
  | .host => True
  | .window tb => ∀ i, i < n → s.clean h tb a tensor i

/-- Every block that a copy writes is served. -/
def CopySide.takes (s : State) (h a n : Nat) : CopySide → Prop
  | .host => True
  | .window tb => ∀ i, i < n → s.served h tb (a / 4096 + i)

/-- A copy between windows writes no block that it reads, and nothing is marked. -/
def CopySide.apart (s : State) (h sa da n : Nat) : CopySide → CopySide → Prop
  | .window tb, .window tb' => s.mem.marks = [] ∧ ∀ i j, i < n → j < n → tb = tb' →
      (s.hull h).find tb (sa / 4096 + i) ≠ (s.hull h).find tb' (da / 4096 + j)
  | _, _ => True

/-- Each block of a copy can be read and written. -/
def State.copyReady (s : State) (h tensor : Nat) (src dst : CopySide) (sa da n : Nat) : Prop :=
  s.calm ∧ s.mem.lost = false ∧ src.reads s h tensor sa n ∧ dst.takes s h da n ∧ src.apart s h sa da n dst

variable {src dst : CopySide} {sa da n i : Nat}

/-- A block that reads whole is written as read. -/
theorem State.copyBlock_reads (hm : s.mem.meets = []) (hi : i < n) (hreads : src.reads s h tensor sa n) : ∃ data : List Byte, data.length ≤ 4096 ∧
    s.copyBlock h tensor src .host sa da i = (s.hostWrite (da + 4096 * i) data, true, none) ∧
    ∀ tb, s.copyBlock h tensor src (.window tb) sa da i =
      (s.writeRange h tb da tensor (4096 * i) data, !(s.writeRange h tb da tensor (4096 * i) data).mem.lost, none) := by
  cases src with
  | host => exact ⟨s.hostRead (sa + 4096 * i) 4096, (getBytes_length ..).le, rfl, fun _ => rfl⟩
  | window tb =>
    have hclean : ∀ j ∈ blocksOf (4096 * i) 4096, s.clean h tb sa tensor j := fun j hj => by
      rw [eq_of_mem_blocksOf le_rfl hj]
      exact hreads i hi
    obtain ⟨data, hlen, hread⟩ : ∃ data : List Byte, data.length ≤ 4096 ∧
        s.readRange h tb sa tensor (4096 * i) 4096 = { st := s, data := data, bad := none } :=
      ⟨_, List.length_take_le _ _, State.readRange_of_clean hm hclean⟩
    refine ⟨data, hlen, ?_, fun _ => ?_⟩
    all_goals simp only [State.copyBlock, hread]

/-- Each block of such a copy arrives, and the rest can still be copied. -/
theorem State.copyBlock_ready (hi : i < n) (k : s.copyReady h tensor src dst sa da n) :
    ∃ w, s.copyBlock h tensor src dst sa da i = (w, true, none) ∧ w.copyReady h tensor src dst sa da n := by
  obtain ⟨hcalm, hlost, hreads, htakes, hapart⟩ := k
  obtain ⟨data, hlen, hhost, hwindow⟩ := State.copyBlock_reads (da := da) hcalm.meets hi hreads
  cases dst with
  | host =>
    have hsame : s.sameMemory (s.hostWrite (da + 4096 * i) data) := ⟨rfl, rfl, rfl, rfl⟩
    refine ⟨_, hhost, State.calm_of_mem hsame.1 hcalm, hlost, ?_, trivial, by cases src <;> trivial⟩
    cases src with
    | host => trivial
    | window tb => exact fun j hj => hsame.clean (hreads j hj)
  | window tb =>
    have hblock (j : Nat) (hj : j ∈ blocksOf (4096 * i) data.length) : s.served h tb (da / 4096 + j) := by
      rw [eq_of_mem_blocksOf hlen hj]
      exact htakes i hi
    have hless := State.writeRange_served (tensor := tensor) hcalm.meets hblock
    generalize hw : s.writeRange h tb da tensor (4096 * i) data = w at hless
    have hkept : w.mem.lost = false := (congrArg (·.mem.lost) hless :).trans hlost
    refine ⟨w, by rw [hwindow, hw, hkept]; rfl, State.calm_of_contentless hless hcalm, hkept, ?reads,
      fun j hj => State.served_of_contentless hless (htakes j hj), ?apart⟩
    case reads =>
      cases src with
      | host => trivial
      | window tb' =>
        obtain ⟨hmarks, hne⟩ := hapart
        have hwrote := State.writeRange_wroteAt (tensor := tensor) hcalm.meets hmarks hlen (htakes i hi)
        rw [hw] at hwrote
        exact fun j hj => hwrote.clean (hne j i hj hi) (hreads j hj)
    case apart =>
      cases src with
      | host => trivial
      | window tb' =>
        obtain ⟨hmarks, hne⟩ := hapart
        have hwrote := State.writeRange_wroteAt (tensor := tensor) hcalm.meets hmarks hlen (htakes i hi)
        rw [hw] at hwrote
        exact ⟨hwrote.2.1, fun j l hj hl => by rw [State.hull_of_contentless hless]; exact hne j l hj hl⟩

/-- All its blocks arrive. -/
theorem State.copyBlocks_ready (m : Nat) (hi : i + m = n) (k : s.copyReady h tensor src dst sa da n) :
    ∃ w, State.copyBlocks h tensor src dst sa da m i s = (w, n, none) ∧ w.calm := by
  induction m generalizing s i with
  | zero =>
    subst hi
    exact ⟨s, rfl, k.1⟩
  | succ m ih =>
    obtain ⟨w, hw, hready⟩ := State.copyBlock_ready (i := i) (by omega) k
    obtain ⟨x, hx, hcalm⟩ := ih (i := i + 1) (by omega) hready
    exact ⟨x, by rw [State.copyBlocks, hw]; exact hx, hcalm⟩

theorem and_eq_false_of_imp {a b : Bool} (hab : a = true → b = false) : (a && b) = false := by
  cases a
  case false => rfl
  case true => exact hab rfl

theorem inside_side {u : State} {host : Prop} [Decidable host] {tb : Bool} {a len : Nat} (hin : host ∨ u.inWindow h tb a len = true) :
    (match (if host then CopySide.host else .window tb) with
      | .host => true
      | .window tb => u.inWindow h tb a len) = true := by
  by_cases hhost : host
  · rw [if_pos hhost]
  · rw [if_neg hhost]
    exact hin.resolve_left hhost

/-- R201: a copy in rule, whose blocks can all be read and written. -/
theorem State.memCopy_ready {u : State} {c : Cmd} {fl len : Nat} (h0 : pf c.params 0 1 = h) (h1 : pf c.params 1 1 = fl)
    (h4 : pf c.params 4 4 = tensor) (h8 : pf c.params 8 8 = sa) (h16 : pf c.params 0x10 8 = da) (h24 : pf c.params 0x18 8 = len)
    (hh : isHull h = true) (hfl : fl < 16) (hdir : fl % 4 ≠ 3) (hfrom : fl % 4 = 0 → bitOf fl 2 = false) (hto : fl % 4 = 1 → bitOf fl 3 = false)
    (h2 : pf c.params 2 2 = 0) (htag : tagOk tensor = true) (hsa : sa % 4096 = 0) (hda : da % 4096 = 0) (hlen : copyLenOk len = true)
    (hsrc : (if fl % 4 = 0 then CopySide.host else .window (bitOf fl 2)) = src) (hdst : (if fl % 4 = 1 then CopySide.host else .window (bitOf fl 3)) = dst)
    (howns : u.ownsHull c h = true) (hwork : (u.hull h).workable = true) (hsrcIn : fl % 4 = 0 ∨ u.inWindow h (bitOf fl 2) sa len = true)
    (hdstIn : fl % 4 = 1 ∨ u.inWindow h (bitOf fl 3) da len = true) {w : State} {k : Option Check}
    (hcopy : State.copyBlocks h tensor src dst sa da (len / 4096) 0 u = (w, len / 4096, k)) :
    u.memCopy c = w.reply c 0x0400 sDONE (mkFields [(0, 8, len), (8, 8, 0xFFFFFFFFFFFFFFFF)]) := by
  subst h0 h1 h4 h8 h16 h24 hsrc hdst
  have hfrom' : (pf c.params 1 1 % 4 == 0 && bitOf (pf c.params 1 1) 2) = false := and_eq_false_of_imp fun he => hfrom (beq_iff_eq.mp he)
  have hto' : (pf c.params 1 1 % 4 == 1 && bitOf (pf c.params 1 1) 3) = false := and_eq_false_of_imp fun he => hto (beq_iff_eq.mp he)
  have hsize : decide (pf c.params 1 1 ≥ 16 ∨ pf c.params 1 1 % 4 = 3) = false := decide_eq_false fun hc => hc.elim (by omega) hdir
  have halign : decide (pf c.params 8 8 % 4096 ≠ 0 ∨ pf c.params 0x10 8 % 4096 ≠ 0) = false :=
    decide_eq_false fun hc => hc.elim (· hsa) (· hda)
  simp only [State.memCopy, hh, hfrom', hto', hsize, h2, htag, halign, hlen, howns, hwork, hcopy, Nat.lt_irrefl, Bool.not_true, bne_self_eq_false,
    Bool.or_false, Bool.false_eq_true, if_false]
  exact if_neg (not_or.mpr ⟨not_bnot (inside_side hsrcIn), not_bnot (inside_side hdstIn)⟩)

end Copy

/-! ## MEM_FILL -/

section Fill

variable {u : State} {c : Cmd} {h fl tensor off len : Nat}

/-- A fill of served blocks writes all of them. -/
theorem State.fillBlocks_served {s : State} {tierB : Bool} {pattern : Option (List Byte)} {n i : Nat} (m : Nat) (hi : i + m = n)
    (hpattern : ∀ b, pattern = some b → b.length ≤ 4096) (hcalm : s.calm) (hlost : s.mem.lost = false)
    (k : ∀ j, j < n → s.served h tierB (off / 4096 + j)) :
    ∃ w, State.fillBlocks h tierB off tensor pattern m i s = (w, n) ∧ w.calm := by
  induction m generalizing s i with
  | zero =>
    subst hi
    exact ⟨s, rfl, hcalm⟩
  | succ m ih =>
    have hblock {l : Nat} (hl : l ≤ 4096) : ∀ j ∈ blocksOf (4096 * i) l, s.served h tierB (off / 4096 + j) := fun j hj => by
      rw [eq_of_mem_blocksOf hl hj]
      exact k i (by omega)
    unfold State.fillBlocks
    extract_lets w
    have hless : w.contentless = s.contentless := by
      unfold w
      cases pattern with
      | some b => exact State.writeRange_served hcalm.meets (hblock (hpattern b rfl))
      | none => exact State.zeroRange_served hcalm.meets (hblock le_rfl)
    clear_value w
    have hkept : w.mem.lost = false := (congrArg (·.mem.lost) hless :).trans hlost
    rw [if_neg (by rw [hkept]; exact Bool.false_ne_true)]
    exact ih (by omega) (State.calm_of_contentless hless hcalm) hkept fun j hj => State.served_of_contentless hless (k j hj)

/-- A pattern of 512 words fills a block. -/
theorem pattern_length (v : Nat) : (List.replicate 512 (natLe 8 v)).flatten.length = 4096 := by
  rw [List.length_flatten, List.map_replicate, natLe_length, List.sum_replicate]
  rfl

/-- R202: a fill in rule whose blocks can all be written. -/
theorem State.memFill_ready {w : State} (h0 : pf c.params 0 1 = h) (h1 : pf c.params 1 1 = fl) (h4 : pf c.params 4 4 = tensor)
    (h8 : pf c.params 8 8 = off) (h16 : pf c.params 0x10 8 = len) (hh : isHull h = true) (hfl : fl < 4) (h2 : pf c.params 2 2 = 0)
    (hwhat : if bitOf fl 1 then tagOk tensor = true else tensor = 0 ∧ pf c.params 0x18 8 = 0) (hoff : off % 4096 = 0) (hlen : copyLenOk len = true)
    (howns : u.ownsHull c h = true) (hwork : (u.hull h).workable = true) (hin : u.inWindow h (bitOf fl 0) off len = true)
    (hfill : State.fillBlocks h (bitOf fl 0) off tensor
      (if bitOf fl 1 then some (List.replicate 512 (natLe 8 (pf c.params 0x18 8))).flatten else none) (len / 4096) 0 u = (w, len / 4096)) :
    u.memFill c = w.reply c 0x0401 sDONE (mkFields [(0, 8, 4096 * (len / 4096))]) := by
  subst h0 h1 h4 h8 h16
  have hsize : decide (pf c.params 1 1 ≥ 4) = false := decide_eq_false (Nat.not_le.mpr hfl)
  have halign : decide (pf c.params 8 8 % 4096 ≠ 0) = false := decide_eq_false (not_not_intro hoff)
  have hpattern : (if bitOf (pf c.params 1 1) 1 then !tagOk (pf c.params 4 4) else pf c.params 4 4 != 0 || pf c.params 0x18 8 != 0) = false := by
    split at hwhat
    case isTrue hbit => simp [hbit, hwhat]
    case isFalse hbit => simp [hbit, hwhat]
  simp only [State.memFill, hh, hsize, h2, hpattern, halign, hlen, howns, hwork, hin, hfill, Nat.lt_irrefl, Bool.not_true, bne_self_eq_false,
    Bool.or_false, Bool.false_eq_true, if_false]

end Fill

/-! ## Groups and link plans -/

section Groups

variable {u : State} {c : Cmd} {h fl : Nat}

/-- R330: an entry in rule is written, its roster in the hull's window. -/
theorem State.grpWrite_in_rule {gid n : Nat} {g : Group} {bytes : List Byte} {w : State} (h0 : pf c.params 0 1 = h)
    (hgid : pf c.params 2 2 = gid) (hn : pf c.params 4 2 + 1 = n) (hg : u.group gid = g) (hbytes : getBytes u.host (pf c.params 16 8) (8 * n) = bytes)
    (hok : u.grpFieldsOk c = true) (howns : u.ownsHull c h = true) (hidle : g.state ≠ 2) (hours : g.state = 1 → g.hull = h)
    (hroster : rosterOk (rosterOf bytes n) (bitOf (pf c.params 1 1) 1) (pf c.params 6 2) (u.jv.plan.map fun p => p.fid) = true)
    (hw : u.writeRange h true (pf c.params 24 8) 0xFFFFE 0 (slice bytes 0 (4096 * rosterBlocks n)) = w) (hkept : w.mem.lost = false) :
    u.grpWrite c = (w.setGroup gid
      { g with state := 1, hull := h, compat := bitOf (pf c.params 1 1) 0, world := bitOf (pf c.params 1 1) 1, policy := pf c.params 1 1 / 4 % 4,
               members := n, myPos := pf c.params 6 2, n1 := pf c.params 8 1, n2 := pf c.params 9 1, n3 := pf c.params 10 2,
               chunkLog2 := pf c.params 12 1, share := pf c.params 13 1, lateUs := pf c.params 14 2, rosterOff := pf c.params 24 8,
               roster := (rosterOf bytes n).map fun e => e.1, epoch := 0, lost := [], heard := [] }).reply c 0x0500 sDONE
        (mkFields [(0, 8, 8 * n)]) := by
  subst h0 hgid hn hg hbytes
  refine (if_neg (not_bnot hok)).trans ((if_neg (not_bnot howns)).trans ((if_neg ?busy).trans ((if_neg (not_bnot hroster)).trans ?_)))
  case busy => exact fun hc => hc.elim hidle fun hc => hc.2 (hours hc.1)
  unfold State.hostRead
  rw [← hw] at hkept ⊢
  exact if_neg (by rw [hkept]; exact Bool.false_ne_true)

/-- R331: a group of the hull is activated or put to rest. -/
theorem State.grpActivate_in_rule {gid : Nat} {g : Group} (h0 : pf c.params 0 1 = h) (h1 : pf c.params 1 1 = fl) (hgid : pf c.params 2 2 = gid)
    (hg : u.group gid = g) (hh : isHull h = true) (hnum : gid < 4096) (hz : restZero c 4 = true) (howns : u.ownsHull c h = true)
    (hours : g.hull = h) :
    (fl = 0 → g.state = 1 → u.groupChanged h gid = false → (g.world = true → u.otherWorld h gid = false) → u.shareUsed h + g.share ≤ 64 →
      u.grpActivate c = (u.setGroup gid { g with state := 2 }).reply c 0x0501 sDONE
        (mkFields [(0, 1, (u.setGroup gid { g with state := 2 }).shareUsed h)])) ∧
    (fl = 1 → g.state = 2 → u.openOp h gid = none →
      u.grpActivate c = (u.setGroup gid { g with state := 1 }).reply c 0x0501 sDONE
        (mkFields [(0, 1, (u.setGroup gid { g with state := 1 }).shareUsed h)])) := by
  subst h0 hgid hg
  have hin (hfl : fl < 2) : ¬ ((!isHull (pf c.params 0 1)) = true ∨ pf c.params 1 1 ≥ 2 ∨ pf c.params 2 2 ≥ 4096 ∨ (!restZero c 4) = true) := by
    rw [h1]
    simp [hh, hfl, hnum, hz]
  have hallowed : ¬ ((!u.ownsHull c (pf c.params 0 1)) = true ∨
      (u.group (pf c.params 2 2)).state ≠ 0 ∧ (u.group (pf c.params 2 2)).hull ≠ pf c.params 0 1) := by simp [howns, hours]
  refine ⟨fun hfl hstate hsame hworld hroom => ?on, fun hfl hstate hidle => ?off⟩
  case on =>
    have hrest : ¬ pf c.params 1 1 = 1 := by omega
    have hfits : ¬ (u.groupChanged (pf c.params 0 1) (pf c.params 2 2) = true ∨
        (u.group (pf c.params 2 2)).world = true ∧ u.otherWorld (pf c.params 0 1) (pf c.params 2 2) = true) := by
      rw [hsame]
      exact fun hc => hc.elim Bool.false_ne_true fun hc => Bool.false_ne_true ((hworld hc.1).symm.trans hc.2)
    exact (if_neg (hin (by omega))).trans ((if_neg hallowed).trans ((if_neg hrest).trans ((if_neg (not_not_intro hstate)).trans
      ((if_neg hfits).trans (if_neg (Nat.not_lt.mpr hroom))))))
  case off =>
    have hclosed : ¬ ((u.group (pf c.params 2 2)).state ≠ 2 ∨ (u.openOp (pf c.params 0 1) (pf c.params 2 2)).isSome = true) := by
      simp [hstate, hidle]
    exact (if_neg (hin (by omega))).trans ((if_neg hallowed).trans ((if_pos (h1.trans hfl)).trans (if_neg hclosed)))

@[simp] theorem State.sendMsg_mem (s : State) (m : Msg) : (s.sendMsg m).mem = s.mem := (congrArg State.mem (State.sendMsg_linkless s m) :)

@[simp] theorem State.leave_mem (s : State) (b : Nat) (st : BState) : (s.leave b st).mem = s.mem := by
  unfold State.leave
  extract_lets x was msgs y v w
  have hw : w.mem = s.mem := by
    unfold w
    split
    case isTrue => exact (State.log1_mem ..).trans rfl
    case isFalse => rfl
  exact (State.foldl_mem State.sendMsg_mem w _).trans hw

@[simp] theorem State.flushWaiting_mem (s : State) : s.flushWaiting.mem = s.mem :=
  State.foldl_mem State.sendMsg_mem _ _

@[simp] theorem State.rootLock_mem (s : State) : s.rootLock.mem = s.mem := by
  unfold State.rootLock
  split <;> rfl

@[simp] theorem State.installPlan_mem (s : State) (p : Plan) : (s.installPlan p).mem = s.mem := by
  unfold State.installPlan
  rw [State.rootLock_mem, State.flushWaiting_mem]
  refine (State.foldl_mem (fun v b => ?_) _ _).trans rfl
  dsimp only
  split
  case isTrue =>
    split
    case isTrue => rfl
    case isFalse => exact State.leave_mem ..
  case isFalse => rfl

/-- R301: a plan in rule is installed, or only checked. -/
theorem State.linkPlan_in_rule {src len r : Nat} {head b : List Byte} (h0 : pf c.params 0 1 = fl) (hfl : fl < 2) (h1 : pf c.params 1 7 = 0)
    (hz : restZero c 0x14 = true) (h8 : pf c.params 8 8 = src) (hsrc : src % 4096 = 0) (hring : c.org = .ring r) (h16 : pf c.params 0x10 4 = len)
    (hhead : getBytes u.host src 64 = head) (hb : getBytes u.host src len = b) (hlen : len = 64 + 8 * (36 + fieldLe head 2 1 + fieldLe head 0xA 2))
    (hfree : (hullNos.all fun h => (u.hull h).state == .free) = true) (hgood : planBad b = none) :
    u.linkPlan c = (if fl = 1 then u else u.installPlan (planOf b)).reply c 0x0510 sDONE
      (mkFields [(0, 4, fieldLe head 0xC 4), (4, 4, 0xFFFFFFFF)]) := by
  subst h0 h8 h16 hhead hb
  have hin : ¬ (pf c.params 0 1 ≥ 2 ∨ pf c.params 1 7 ≠ 0 ∨ (!restZero c 0x14) = true ∨ pf c.params 8 8 % 4096 ≠ 0 ∨
      pf c.params 0x10 4 ≠ 64 + 8 * (36 + fieldLe (u.hostRead (pf c.params 8 8) 64) 2 1 + fieldLe (u.hostRead (pf c.params 8 8) 64) 0xA 2)) := by
    rw [State.hostRead, ← hlen]
    simp [hfl, h1, hz, hsrc]
  have hlink : isHostLink c = true := by rw [isHostLink, hring]
  have hunused : ¬ (hullNos.any fun h => (u.hull h).state != .free) = true := by
    rw [Bool.not_eq_true, List.any_eq_false]
    intro h hh
    simpa using List.all_eq_true.mp hfree h hh
  refine (if_neg hin).trans ((if_neg (not_bnot hlink)).trans ((if_neg hunused).trans ?_))
  dsimp only
  rw [State.hostRead, State.hostRead, hgood]

end Groups


/-- Settles O49: each command's rules come to its last branch, and each access it makes is of a block that takes it. -/
theorem memoryGroupAndLinkCommandsTakeEffect : Obligations.MemoryGroupAndLinkCommandsTakeEffect := by
  unfold Obligations.MemoryGroupAndLinkCommandsTakeEffect
  intro s c f h fl
  refine ⟨fun hcalm hs hh hfl hdir hfrom hto h2 htag hsa hda hlen => ?copy, fun hcalm hs hh hfl h2 hwhat hoff hlen => ?fill,
    fun hcalm hs => ?write, fun hs hh hnum hz => ?activate, fun hs hfl h1 hz hsrc hring => ?plan⟩
  case copy =>
    intro u src dst howns hwork hsrcIn hdstIn n r hclean hserved hapart
    have hready : u.copyReady h (f 4 4) src dst (f 8 8) (f 0x10 8) n := by
      refine ⟨State.settled_begin_calm c 0x0400 hcalm, congrArg MemS.lost (State.begin_mem ..), ?reads, ?takes, ?apart⟩
      case reads =>
        unfold src
        split
        case isTrue => trivial
        case isFalse hdir => exact hclean hdir
      case takes =>
        unfold dst
        split
        case isTrue => trivial
        case isFalse hdir => exact hserved hdir
      case apart =>
        unfold src dst
        split
        case isTrue => trivial
        case isFalse hfrom' =>
          split
          case isTrue => trivial
          case isFalse hto' =>
            obtain ⟨hmarks, hne⟩ := hapart (by omega)
            exact ⟨hmarks, hne⟩
    obtain ⟨w, hw, hwcalm⟩ := State.copyBlocks_ready n (Nat.zero_add n) hready
    have hr : r = (w, n, none) := hw
    rw [hr]
    have hcopy := State.memCopy_ready rfl rfl rfl rfl rfl rfl hh hfl hdir hfrom hto h2 htag hsa hda hlen rfl rfl howns hwork hsrcIn hdstIn hw
    exact ⟨State.packet_ends_calm hs hcopy (State.calm_of_mem (State.reply_mem ..) hwcalm), rfl⟩
  case fill =>
    intro u howns hwork hin n r hserved
    have hpattern : ∀ b, (if bitOf fl 1 then some (List.replicate 512 (natLe 8 (f 0x18 8))).flatten else none) = some b → b.length ≤ 4096 := by
      intro b hb
      split at hb
      case isTrue =>
        cases hb
        exact (pattern_length _).le
      case isFalse => cases hb
    obtain ⟨w, hw, hwcalm⟩ := State.fillBlocks_served (tensor := f 4 4) n (Nat.zero_add n) hpattern (State.settled_begin_calm c 0x0401 hcalm)
      (congrArg MemS.lost (State.begin_mem ..)) hserved
    have hr : r = (w, n) := hw
    rw [hr]
    have hfill := State.memFill_ready rfl rfl rfl rfl rfl hh hfl h2 hwhat hoff hlen howns hwork hin hw
    exact ⟨State.packet_ends_calm hs hfill (State.calm_of_mem (State.reply_mem ..) hwcalm), rfl⟩
  case write =>
    intro u n g bytes roster hok howns hidle hours hroster hserved
    have hless : (u.writeRange h true (f 24 8) 0xFFFFE 0 (slice bytes 0 (4096 * rosterBlocks n))).contentless = u.contentless := by
      refine State.writeRange_served (State.settled_begin_meets s c 0x0500) fun i hi => hserved i ?_
      rw [slice_length] at hi
      exact lt_of_mem_blocksOf hi
    have hquiet := State.quiet_of_contentless hless (State.settled_begin_quiet s c 0x0500)
    have hwrite := State.grpWrite_in_rule rfl rfl rfl rfl rfl hok howns hidle hours hroster rfl hquiet.2.1
    exact State.packet_replies_after hs hwrite (State.quiet_of_mem (State.setGroup_mem ..) hquiet)
  case activate =>
    intro u g howns hours on off
    obtain ⟨hon, hoff⟩ := State.grpActivate_in_rule rfl rfl rfl rfl hh hnum hz howns hours
    exact ⟨fun hfl hstate hsame hworld hroom => State.packet_ends hs (hon hfl hstate hsame hworld hroom) ((State.reply_mem ..).trans rfl),
      fun hfl hstate hidle => State.packet_ends hs (hoff hfl hstate hidle) ((State.reply_mem ..).trans rfl)⟩
  case plan =>
    intro u head b hlen hfree hgood
    obtain ⟨r, hr⟩ := hring
    have hplan := State.linkPlan_in_rule rfl hfl h1 hz rfl hsrc hr rfl rfl rfl hlen hfree hgood
    refine State.packet_ends hs hplan ((State.reply_mem ..).trans ?_)
    split
    case isTrue => rfl
    case isFalse => exact State.installPlan_mem ..

end Sys2Proof.Machine
end

section
/-!
PROOFS. Commands on engines, checkpoints and shards (R252–R256, R279, R370, R374): the statement EngineAndCheckpointCommandsTakeEffect.
-/

namespace Sys2Proof.Machine

@[simp] theorem State.ausStart_mem (s : State) (a : Nat) : (s.ausStart a).mem = s.mem := by
  unfold State.ausStart
  split
  case isTrue => exact State.ausSettle_mem ..
  case isFalse => rfl

@[simp] theorem State.auPut_mem (s : State) (a : Nat) (k : ACmd) : (s.auPut a k).mem = s.mem := State.ausStart_mem ..

section Engines

variable {u : State} {c : Cmd} {h a hd src len : Nat} {st : AStruct} {b : List Byte}

/-- R252: a structure in rule is queued, with its bytes. -/
theorem State.auStructLoad_load (hm : u.mem.meets = []) (h0 : pf c.params 0 1 = h) (h1 : pf c.params 1 1 = a) (h2 : pf c.params 2 1 = hd)
    (h8 : pf c.params 8 8 = src) (h16 : pf c.params 0x10 8 = len) (hh : isHull h = true) (ha : a < 16) (hhd : hd < 64)
    (h3 : pf c.params 3 1 = 0) (h4 : pf c.params 4 1 = 0) (h5 : pf c.params 5 1 = 0) (h6 : pf c.params 6 2 = 0) (hz : restZero c 0x18 = true)
    (hsrc : src % 64 = 0) (hlen : len ≠ 0) (hwin : u.inWindow h true src len = true) (hclean : u.windowClean h src len)
    (hb : u.windowBytes h src len = b) (hparse : parseStruct b = some st) (hgate : u.auGate c h a true = none)
    (hempty : tfind (u.eng a).structs hd = none) (hidle : ((u.eng a).queue.any fun q => q.op == 1 && q.handle == hd) = false)
    (hfits : (u.eng a).ahead.loadShort st = 0) (htokens : u.auTokensShort h a = false) :
    u.auStructLoad c = (u.setEng a (u.eng a)).auPut a { ACmd.fresh (auBlock 1 hd len) none h b 0 0 with owed := some c } := by
  subst h0 h1 h2 h8 h16
  have hfree : bitOf 0 0 = false := rfl
  have hset : bitOf 0 1 = false := rfl
  have hsize : decide (pf c.params 1 1 ≥ 16 ∨ pf c.params 2 1 ≥ 64 ∨ (0 : Nat) ≥ 4) = false := decide_eq_false (by omega)
  have halign : decide (pf c.params 8 8 % 64 ≠ 0 ∨ pf c.params 0x10 8 = 0) = false := decide_eq_false (by omega)
  simp only [State.auStructLoad, h3, h4, h5, h6, hz, hfree, hset, hh, hwin, hsize, halign, State.windowRead_bytes hm hclean, hb, hparse, hgate,
    hempty, hidle, hfits, htokens, Bool.not_true, Bool.not_false, Bool.false_eq_true, Bool.or_false, Bool.and_false,
    or_false, if_false, bne_self_eq_false, Option.bind_some, Option.isSome_some, Option.isNone_some, Option.isSome_none, Option.getD_some,
    Bool.false_and, Nat.lt_irrefl]

/-- R252: a structure to be freed is queued. -/
theorem State.auStructLoad_free (h0 : pf c.params 0 1 = h) (h1 : pf c.params 1 1 = a) (h2 : pf c.params 2 1 = hd) (hh : isHull h = true)
    (ha : a < 16) (hhd : hd < 64) (h3 : pf c.params 3 1 = 1) (h4 : pf c.params 4 1 = 0) (h5 : pf c.params 5 1 = 0) (h6 : pf c.params 6 2 = 0)
    (hz : restZero c 0x18 = true) (h8 : pf c.params 8 8 = 0) (h16 : pf c.params 0x10 8 = 0) (hgate : u.auGate c h a true = none)
    (hst : tfind (u.eng a).structs hd = some st) :
    u.auStructLoad c = u.auPut a { ACmd.fresh (auBlock 9 hd 0) none h [] 0 0 with owed := some c } := by
  subst h0 h1 h2
  have hfree : bitOf 1 0 = true := rfl
  have hset : bitOf 1 1 = false := rfl
  have hsize : decide (pf c.params 1 1 ≥ 16 ∨ pf c.params 2 1 ≥ 64 ∨ (1 : Nat) ≥ 4) = false := decide_eq_false (by omega)
  simp only [State.auStructLoad, h3, h4, h5, h6, h8, h16, hz, hfree, hset, hh, hsize, hgate, hst, Bool.not_true, Bool.false_eq_true,
    Bool.or_false, Bool.false_and, true_or, if_false, if_true, bne_self_eq_false, Option.bind_none, Option.isNone_some,
    Option.isSome_none]

/-- R253: a delta in rule is queued, with its bytes. -/
theorem State.auDelta_queues {st' : AStruct × Nat} (hm : u.mem.meets = []) (h0 : pf c.params 0 1 = h) (h1 : pf c.params 1 1 = a)
    (h2 : pf c.params 2 1 = hd) (h8 : pf c.params 8 8 = src) (h16 : pf c.params 0x10 8 = len) (hh : isHull h = true) (ha : a < 16) (hhd : hd < 64)
    (h3 : pf c.params 3 5 = 0) (hz : restZero c 0x18 = true) (hwin : u.inWindow h true src len = true) (hclean : u.windowClean h src len)
    (hb : u.windowBytes h src len = b) (hpacket : packetOk b = true) (hst : tfind (u.eng a).structs hd = some st)
    (hdelta : st.delta b = some st') (hgate : u.auGate c h a true = none) (htokens : u.auTokensShort h a = false) :
    u.auDelta c = u.auPut a { ACmd.fresh (auBlock 2 hd len) none h b 0 0 with owed := some c } := by
  subst h0 h1 h2 h8 h16
  simp only [State.auDelta, h3, hz, hh, hwin, State.windowRead_bytes hm hclean, hb, hpacket, hst, hdelta, hgate, htokens,
    Nat.not_le.mpr ha, Nat.not_le.mpr hhd, Bool.not_true, Bool.false_eq_true, Bool.or_false, Option.isNone_some, or_self, ne_eq, not_true_eq_false,
    if_false]

/-- R254: a solver block in rule is queued, with its input, and its ticket is the reply. -/
theorem State.auSolve_queues {at_ inn out op n t : Nat} (hm : u.mem.meets = []) (h0 : pf c.params 0 1 = h) (h1 : pf c.params 1 1 = a)
    (h8 : pf c.params 8 8 = at_) (h16 : pf c.params 0x10 8 = inn) (h24 : pf c.params 0x18 8 = out) (hh : isHull h = true) (ha : a < 16)
    (h2 : pf c.params 2 6 = 0) (hat : at_ % 64 = 0) (hinn : inn % 64 = 0) (hout : out % 4096 = 0) (hwin : u.inWindow h true at_ 64 = true)
    (hclean : u.windowClean h at_ 64) (hb : u.windowBytes h at_ 64 = b) (hop : fieldLe b 0 1 = op) (hn : fieldLe b 0x10 4 = n)
    (hst : tfind (u.eng a).structs (fieldLe b 1 1) = some st) (hblock : ausBlockOk b false = true) (h3 : 3 ≤ op) (h8' : op ≤ 8)
    (hbit : bitOf (fieldLe b 2 1) 0 = false) (hstruct : ausStructOk b st = true) (hnone : n = 0 → inn = 0)
    (hinWin : u.inWindow h true inn n = true) (houtWin : u.inWindow h true out (64 + 8 * ausPayload op (fieldLe b 3 1) st) = true)
    (hgate : u.auGate c h a true = none) (hinClean : u.windowClean h inn n) (htokens : u.auTokensShort h a = false)
    (ht : (u.eng a).nextTicket = t) :
    u.auSolve c = ((u.setEng a { u.eng a with nextTicket := if t = 0xFFFFFFFF then 1 else t + 1 }).auPut a
      (ACmd.fresh b none h (u.windowBytes h inn n) out t)).reply c 0x0602 sACCEPTED (mkFields [(0, 4, t)]) := by
  subst h0 h1 h8 h16 h24 hop hn ht
  have hsize : decide (pf c.params 1 1 ≥ 16) = false := decide_eq_false (Nat.not_le.mpr ha)
  have halign : decide (pf c.params 8 8 % 64 ≠ 0 ∨ pf c.params 0x10 8 % 64 ≠ 0 ∨ pf c.params 0x18 8 % 4096 ≠ 0) = false :=
    decide_eq_false (by omega)
  have hrange : decide (fieldLe b 0 1 < 3 ∨ 8 < fieldLe b 0 1) = false := decide_eq_false (by omega)
  have hinput : (fieldLe b 0x10 4 == 0 && pf c.params 0x10 8 != 0) = false :=
    and_eq_false_of_imp fun he => by rw [hnone (beq_iff_eq.mp he)]; rfl
  simp only [State.auSolve, h2, hh, hsize, halign, hwin, State.windowRead_bytes hm hclean, State.windowRead_bytes hm hinClean, hb, Option.getD_some,
    hst, hblock, hrange, hbit, hstruct, hinput, hinWin, houtWin, hgate, htokens, Bool.not_true, Bool.false_eq_true, Bool.or_false, Bool.and_false,
    or_self, if_false, bne_self_eq_false, Option.isSome_some, Option.isNone_some]

end Engines

/-! ## CKPT_BEGIN -/

theorem State.markInto_stuck (s : State) (h : Nat) (p : Prog) (ids : List Nat) (base : Nat) :
    (s.markInto h p ids base).mem.stuck = s.mem.stuck := by
  refine foldl_keeps (g := fun s : State => s.mem.stuck) (fun v k => ?_) s _
  dsimp only
  split
  case h_1 =>
    unfold State.mark
    extract_lets hit
    split <;> rfl
  case h_2 => rfl

/-- R361: a cut accesses no block, so that no map-out holds it. -/
theorem State.ckptCut_stuck (s : State) (h step : Nat) : (s.ckptCut h step).mem.stuck = s.mem.stuck := by
  unfold State.ckptCut
  extract_lets x c
  split
  case h_2 => rfl
  case h_1 p _ =>
    extract_lets v _ w
    split
    case isTrue => rfl
    case isFalse =>
      split
      case isTrue => exact congrArg MemS.stuck (State.ckptFail_mem ..)
      case isFalse =>
        have hv : v.mem.stuck = s.mem.stuck := by
          unfold v
          split
          case h_1 => exact State.markInto_stuck ..
          case h_2 => rfl
        exact (foldl_keeps (g := fun s : State => s.mem.stuck) (fun _ _ => by rfl) w _).trans hv

/-- R370: a checkpoint in rule is armed; in a record-log wait it cuts at once. -/
theorem State.ckptBegin_arms {u : State} {c : Cmd} {h fl step target : Nat} {x : Hull} {v : State} (h0 : pf c.params 0 1 = h)
    (h1 : pf c.params 1 1 = fl) (h8 : pf c.params 8 8 = step) (h24 : pf c.params 0x18 8 = target) (hx : u.hull h = x) (hh : isHull h = true)
    (hfl : fl < 2) (h2 : pf c.params 2 6 = 0) (hmax : step ≤ maxStep) (hstep : step = 0 ∨ x.step ≤ step) (htarget : target % 64 = 0)
    (hwin : u.inWindow h true target 48 = true) (hareas : ∀ p, x.prog = some p → p.image.ckptAreas.isSome = true)
    (howns : u.ownsHull c h = true) (hstate : x.state = .running) (hidle : x.ckpt.state = 0 ∨ 3 < x.ckpt.state)
    (hv : u.setHull h { x with ckpt := { x.ckpt with
      state := 1, cause := 0, wantFull := fl == 1, full := fl == 1 || x.ckpt.mustFull, armedStep := if step = 0 then none else some step,
      step := 0, id := BitVec.ofNat 64 (pf c.params 0x10 8), target := target, object := [], sent := 0, acked := [], trailer := false } } = v) :
    u.ckptBegin c = (if x.inLogWait then v.ckptCut h (x.step - 1) else v).reply c 0x0700 sACCEPTED 0 := by
  subst h0 h1 h8 h24 hx hv
  have hok : (match (u.hull (pf c.params 0 1)).prog with | some p => p.image.ckptAreas.isSome | none => true) = true := by
    cases hprog : (u.hull (pf c.params 0 1)).prog with
    | none => rfl
    | some p => exact hareas p hprog
  have hbusy : ¬ ((u.hull (pf c.params 0 1)).state ≠ .running ∨
      (1 ≤ (u.hull (pf c.params 0 1)).ckpt.state ∧ (u.hull (pf c.params 0 1)).ckpt.state ≤ 3)) := by
    rw [hstate]
    exact fun hc => hc.elim (fun hn => hn rfl) (by omega)
  refine (if_neg ?rule).trans ((if_neg (not_bnot howns)).trans ((if_neg hbusy).trans rfl))
  rintro (hc | hc | hc | hc | hc | hc | hc | hc)
  · exact not_bnot hh hc
  · exact Nat.not_lt.mpr (Nat.lt_succ_iff.mp hfl) hc
  · exact hc h2
  · exact Nat.not_lt.mpr hmax hc
  · exact hstep.elim hc.1 (Nat.not_le.mpr hc.2)
  · exact hc htarget
  · exact not_bnot hwin hc
  · exact not_bnot hok hc

/-! ## RESTORE -/

section Restore

variable {s u : State} {c : Cmd} {h : Nat} {p : Prog}

theorem State.applyObject_calm (o : ObjIn) (only : Nat → Bool) (k : s.calm) : (s.applyObject h p o only).1.calm := by
  refine List.foldlRecOn (motive := fun a : State × Bool => a.1.calm) _ _ k fun a ha t _ => ?_
  refine List.foldlRecOn (motive := fun a : State × Bool => a.1.calm) _ _ ha fun a ha b _ => ?_
  dsimp only
  split
  case isTrue => exact ha
  case isFalse =>
    split
    case isTrue =>
      dsimp only
      exact State.calm_of_mem (State.huskFail_mem ..) ha
    case isFalse =>
      split
      case h_1 => exact State.storeBlk_calm _ _ _ _ _ _ ha
      case h_2 => exact ha

theorem State.applyObjects_calm (l : List ObjIn) (only : Nat → Bool) (k : s.calm) : (s.applyObjects h p l only).1.calm := by
  refine List.foldlRecOn (motive := fun a : State × Bool => a.1.calm) _ _ k fun a ha o _ => ?_
  split
  case isTrue => exact State.applyObject_calm _ _ ha
  case isFalse => exact ha

theorem State.applyChain_calm (own twin : List ObjIn) (k : s.calm) : (s.applyChain h p own twin).1.calm := by
  have hown : (s.applyObjects h p own fun _ => true).1.calm := State.applyObjects_calm _ _ k
  unfold State.applyChain
  dsimp only
  split
  case isTrue => exact State.applyObjects_calm _ _ hown
  case isFalse => exact hown

@[simp] theorem State.restored_mem (s : State) (h : Nat) (p : Prog) (step : Nat) (recs : List (List Byte)) :
    (s.restored h p step recs).mem = s.mem := by
  unfold State.restored
  dsimp only
  exact (State.placementRound_mem ..).trans ((State.foldl_mem (fun _ _ => State.shardState_mem ..) _ _).trans rfl)

theorem State.chainList_clean (hm : u.mem.meets = []) {list : List Byte} (hok : u.restoreOk c list = true)
    (hclean : u.windowClean (pf c.params 0 1) (pf c.params 8 8) (64 * pf c.params 2 2)) :
    u.chainList c = (u, some (u.windowBytes (pf c.params 0 1) (pf c.params 8 8) (64 * pf c.params 2 2))) := by
  simp only [State.restoreOk, Bool.and_eq_true] at hok
  obtain ⟨⟨⟨⟨⟨⟨⟨⟨⟨hh, -⟩, -⟩, -⟩, -⟩, -⟩, hwin⟩, -⟩, -⟩, -⟩ := hok
  exact (if_pos (by rw [hh, hwin]; rfl)).trans (State.windowRead_bytes hm hclean _)

/-- R374: a chain that fits is applied, and its digest agrees. -/
theorem State.restore_fits {objects : List (List Byte)} {objs : List ObjIn} {list : List Byte} {own twin : List ObjIn} {v : State × Bool}
    (hm : u.mem.meets = []) (h0 : pf c.params 0 1 = h) (hclean : u.windowClean h (pf c.params 8 8) (64 * pf c.params 2 2))
    (hlist : u.windowBytes h (pf c.params 8 8) (64 * pf c.params 2 2) = list) (hok : u.restoreOk c list = true) (howns : u.ownsHull c h = true)
    (hprog : (u.hull h).prog = some p) (hstate : (u.hull h).state = .granted) (hcount : pf c.params 2 2 ≤ objects.length)
    (hread : (objects.take (pf c.params 2 2)).map readObject = objs.map some) (hown : withRole (chainRoles c list) objs 0 = own)
    (htwin : withRole (chainRoles c list) objs 1 = twin) (hobjects : (u.hull h).objectsOk p own twin = true)
    (hv : u.applyChain h p own twin = v) (happlied : v.2 = true)
    (hdigest : (v.1.huskDigest h p p.persistent).toNat = (match own.getLast? with | some o => o.state | none => 0)) :
    u.restore c objects = (v.1.restored h p ((newestStep own).getD 0) (match own.getLast? with | some o => o.records | none => [])).reply c 0x0702
      sDONE (mkFields [(0, 8, (newestStep own).getD 0), (8, 8, sumOf ((objects.take (pf c.params 2 2)).map fun b => b.length))]) := by
  subst h0
  have hparsed : ((objs.map some).any fun o => o.isNone) = false := by simp
  have hobjs : (objs.map some).filterMap id = objs := by simp
  unfold State.restore
  rw [State.chainList_clean hm hok hclean]
  dsimp only
  rw [hlist, Option.getD_some]
  refine (if_neg (not_bnot hok)).trans ((if_neg (not_bnot howns)).trans ?_)
  rw [hprog, hstate]
  dsimp only
  refine (if_neg (by rw [Option.isNone_some]; exact Bool.false_ne_true)).trans ((if_neg (Nat.not_lt.mpr hcount)).trans ?_)
  rw [hread, hobjs, hown, htwin, hparsed, hobjects, hv, happlied]
  refine (if_neg (by simp)).trans ((if_neg ?digest).trans rfl)
  case digest => exact fun hc => hc.elim (by simp) fun hne => hne hdigest

end Restore

/-! ## SHARD_EXPORT -/

section Export

variable {s u : State} {c : Cmd} {h src : Nat} {p : Prog}

theorem State.exportBlock_calm {cut : Bool} {tensor i : Nat} {r : State × Blk × Check} (hr : s.exportBlock h p cut tensor i = some r) (k : s.calm) :
    r.1.calm := by
  unfold State.exportBlock at hr
  split at hr
  case h_1 =>
    cases hr
    split
    case isTrue => exact State.readCut_calm _ _ _ _ k
    case isFalse => exact State.checkBlk_calm _ _ _ _ k
  case h_2 => cases hr

theorem State.exportTensor_calm (cut : Bool) (tensor : Nat) (header : List Byte) (k : s.calm) :
    (s.exportTensor src h p cut tensor header).1.calm := by
  unfold State.exportTensor
  extract_lets r
  have hr : r.1.calm := by
    refine List.foldlRecOn (motive := fun a : State × List Byte × List Byte × Bool => a.1.calm) _ _ k fun a ha i _ => ?_
    split
    case isTrue => exact ha
    case isFalse =>
      split
      case h_1 heq => exact State.exportBlock_calm heq ha
      case h_2 heq => exact State.calm_of_mem (State.huskFail_mem ..) (State.exportBlock_calm heq ha)
      case h_3 => exact ha
  split <;> exact hr

theorem State.exportAll_calm (cut : Bool) (d : ShardDecl) (step : Nat) (twin : Bool) (k : s.calm) :
    (s.exportAll src h p cut d step twin).1.calm := by
  refine List.foldlRecOn (motive := fun a : State × List Byte × Bool => a.1.calm) _ _ k fun a ha t _ => ?_
  dsimp only
  split
  case isTrue => exact ha
  case isFalse => exact State.exportTensor_calm _ _ _ ha

/-- A clean block is exported as it stands. -/
theorem State.exportBlock_of_clean (hm : s.mem.meets = []) {tensor off len i : Nat} (hc : s.cleanRange h p tensor off len) (hi : i ∈ blocksOf off len) :
    ∃ b, s.exportBlock h p false tensor i = some (s, b, .pass) := by
  obtain ⟨tierB, base, hplace, hclean⟩ := hc
  obtain ⟨u, row, hs, -⟩ := id (hclean i hi)
  have hkey : s.blockKey h p tensor i = some (tierB, blkPer tierB * u + row) := by
    simp only [State.blockKey, hplace, hs.1, Option.map_some]
  refine ⟨s.winBlk h tierB (base / 4096 + i), ?_⟩
  simp only [State.exportBlock, hplace, hkey]
  exact congrArg some (State.checkBlk_of_clean hm (hclean i hi))

/-- A clean tensor is exported whole, and nothing is left of it in the device. -/
theorem State.exportTensor_of_clean (hm : s.mem.meets = []) {tensor : Nat} (header : List Byte) (hc : s.cleanRange h p tensor 0 (p.bytesOf tensor)) :
    (s.exportTensor src h p false tensor header).1 = s ∧ (s.exportTensor src h p false tensor header).2.2 = false := by
  unfold State.exportTensor
  extract_lets r
  have hr : r.1 = s ∧ r.2.2.2 = false := by
    refine List.foldlRecOn (motive := fun a : State × List Byte × List Byte × Bool => a.1 = s ∧ a.2.2.2 = false) _ _ ⟨rfl, rfl⟩
      fun a ha i hi => ?_
    obtain ⟨hst, hgood⟩ := ha
    obtain ⟨b, hb⟩ := State.exportBlock_of_clean hm hc hi
    rw [hgood, hst, hb]
    exact ⟨rfl, rfl⟩
  clear_value r
  obtain ⟨hst, hgood⟩ := hr
  rw [hgood]
  exact ⟨hst, rfl⟩

theorem State.exportAll_of_clean (hm : s.mem.meets = []) (d : ShardDecl) (step : Nat) (twin : Bool)
    (hc : ∀ t ∈ d.tensors, s.cleanRange h p t 0 (p.bytesOf t)) :
    (s.exportAll src h p false d step twin).1 = s ∧ (s.exportAll src h p false d step twin).2.2 = false := by
  refine List.foldlRecOn (motive := fun a : State × List Byte × Bool => a.1 = s ∧ a.2.2 = false) _ _ ⟨rfl, rfl⟩ fun a ha t ht => ?_
  obtain ⟨hst, hgood⟩ := ha
  dsimp only
  rw [hgood, hst]
  exact State.exportTensor_of_clean hm _ (hc t ht)

/-- R279: an exporting command in rule ends as its blocks and its writes did. -/
theorem State.shardExport_in_rule {k : ShardS} {d : ShardDecl} {size : Nat} {out : State × List Byte × Bool} {w : State}
    (hof : u.exportOf c = some (p, k, d)) (hok : u.exportOk c = true) (h0 : pf c.params 0 1 = h) (howns : u.ownsHull c h = true)
    (hexportable : (u.hull h).exportable p = true) (hcopied : k.state ≠ .onboarding)
    (hsize : sumOf (d.tensors.map fun t => exportSize (p.bytesOf t)) = size) (hroom : size ≤ pf c.params 0x10 8)
    (hout : u.exportAll (u.cmdSrc c) h p ((u.hull h).state == .running) d (u.hull h).exportStep (pf c.params 1 1 / 2 % 2 == 1) = out)
    (hw : (if pf c.params 1 1 % 2 = 1 then out.1.winWrite h true (pf c.params 8 8) out.2.1 else out.1.hostWrite (pf c.params 8 8) out.2.1) = w) :
    u.shardExport c = if out.2.2 = true ∨ w.mem.lost = true then w.reply c 0x0703 sFAULT 0
      else w.reply c 0x0703 sDONE (mkFields [(0, 8, size), (8, 8, (u.hull h).exportStep), (0x10, 2, d.tensors.length)]) := by
  subst h0 hsize
  unfold State.shardExport
  rw [hof]
  dsimp only
  rw [hout, hw]
  exact (if_neg (not_bnot hok)).trans ((if_neg (not_bnot howns)).trans ((if_neg (not_or.mpr ⟨not_bnot hexportable, hcopied⟩)).trans
    (if_neg (Nat.not_lt.mpr hroom))))

end Export

/-- Settles O50: each command's rules come to its last branch; what it reads is clean, and what it leaves is calm. -/
theorem engineAndCheckpointCommandsTakeEffect : Obligations.EngineAndCheckpointCommandsTakeEffect := by
  unfold Obligations.EngineAndCheckpointCommandsTakeEffect
  intro s c f h a hd
  refine ⟨fun st hcalm hs hh ha hhd h3 h4 h5 h6 hz hsrc hlen => ?load, fun st hs hh ha hhd h3 h4 h5 h6 hz h8 h16 => ?free,
    fun st st' hcalm hs hh ha hhd h3 hz => ?delta, fun st hcalm hs hh ha h2 hat hinn hout => ?solve, fun hs hh ha h2 => ?ckpt,
    fun objects objs p hcalm hs => ?restore, fun p k d hcalm hs => ?exported⟩
  case load =>
    intro u e b hwin hclean hparse hgate hempty hidle hfits htokens
    have hm : u.mem.meets = [] := State.settled_begin_meets s c 0x0600
    exact State.packet_ends hs (State.auStructLoad_load hm rfl rfl rfl rfl rfl hh ha hhd h3 h4 h5 h6 hz hsrc hlen hwin hclean rfl hparse hgate
      hempty hidle hfits htokens) ((State.auPut_mem ..).trans rfl)
  case free =>
    intro u hgate hst
    exact State.packet_ends hs (State.auStructLoad_free rfl rfl rfl hh ha hhd h3 h4 h5 h6 hz h8 h16 hgate hst) (State.auPut_mem ..)
  case delta =>
    intro u b hwin hclean hpacket hst hdelta hgate htokens
    have hm : u.mem.meets = [] := State.settled_begin_meets s c 0x0601
    exact State.packet_ends hs (State.auDelta_queues hm rfl rfl rfl rfl rfl hh ha hhd h3 hz hwin hclean rfl hpacket hst hdelta hgate htokens)
      (State.auPut_mem ..)
  case solve =>
    intro u e b op n hwin hclean hst hblock h3 h8 hbit hstruct hnone hinWin houtWin hgate hinClean htokens t
    have hm : u.mem.meets = [] := State.settled_begin_meets s c 0x0602
    exact State.packet_ends hs (State.auSolve_queues hm rfl rfl rfl rfl rfl hh ha h2 hat hinn hout hwin hclean rfl rfl rfl hst hblock h3 h8 hbit
      hstruct hnone hinWin houtWin hgate hinClean htokens rfl) ((State.reply_mem ..).trans ((State.auPut_mem ..).trans rfl))
  case ckpt =>
    intro step u x k hmax hstep htarget hwin hareas howns hstate hidle v
    have hbegin := State.ckptBegin_arms rfl rfl rfl rfl rfl hh ha h2 hmax hstep htarget hwin hareas howns hstate hidle rfl
    have hfree : (u.ckptBegin c).mem.stuck = false := by
      rw [hbegin, State.reply_mem]
      refine Eq.trans ?_ (State.settled_begin_quiet s c 0x0700).2.2
      split
      case isTrue => exact (State.ckptCut_stuck ..).trans rfl
      case isFalse => rfl
    exact congrArg Host.Outcome.next ((State.packet_done s c _ _ hs hfree).trans (congrArg State.settled hbegin))
  case restore =>
    intro u x files list own twin v hclean hok howns hprog hstate hcount hread hobjects happlied hdigest step
    have hcalmU := State.settled_begin_calm c 0x0702 hcalm
    have hrestore := State.restore_fits hcalmU.meets rfl hclean rfl hok howns hprog hstate hcount hread rfl rfl hobjects rfl happlied hdigest
    exact State.packet_ends_calm hs hrestore (State.calm_of_mem ((State.reply_mem ..).trans (State.restored_mem ..)) (State.applyChain_calm _ _ hcalmU))
  case exported =>
    intro u x size out done w hof hok howns hexportable hcopied hroom
    have hcalmU : u.calm := State.settled_begin_calm c 0x0703 hcalm
    have hexport := State.shardExport_in_rule hof hok rfl howns hexportable hcopied rfl hroom rfl rfl
    have hout : out.1.calm := State.exportAll_calm _ _ _ _ hcalmU
    have hw : w.calm := by
      unfold w
      split
      case isTrue => exact State.winWrite_calm _ _ _ _ hout
      case isFalse => exact State.calm_of_mem rfl hout
    refine ⟨fun hgood hkept => ?done, fun hbad => ?fault, fun hgranted htohost hcl => ?clean⟩
    case done =>
      exact State.packet_ends_calm hs (hexport.trans (if_neg (by rw [hgood, hkept]; simp))) (State.calm_of_mem (State.reply_mem ..) hw)
    case fault => exact State.packet_ends_calm hs (hexport.trans (if_pos hbad)) (State.calm_of_mem (State.reply_mem ..) hw)
    case clean =>
      have hout : out.1 = u ∧ out.2.2 = false := by
        have hstopped : (x.state == HullState.running) = false := by rw [hgranted]; rfl
        unfold out
        rw [hstopped]
        exact State.exportAll_of_clean hcalmU.meets d _ _ hcl
      have hw : w = u.hostWrite (f 8 8) out.2.1 := by
        unfold w
        rw [if_neg (by rw [htohost]; decide), hout.1]
      have hkept : w.mem.lost = false := by
        rw [hw]
        exact (State.settled_begin_quiet s c 0x0703).2.1
      rw [← hw]
      refine State.packet_ends hs (hexport.trans (if_neg (by rw [hout.2, hkept]; simp))) ((State.reply_mem ..).trans ?_)
      rw [hw]
      rfl

end Sys2Proof.Machine
end

section
/-!
PROOFS. Probes, bypasses, map-outs, probe content and pushes of records by command (R390–R400): the statement MaintenanceCommandsTakeEffect.
-/

namespace Sys2Proof.Machine

section Memory

variable (s : State)

@[simp] theorem State.dropWork_mem (a : Nat) : (s.dropWork a).mem = s.mem := by
  refine (State.foldl_mem (fun v k => ?_) _ _).trans rfl
  split
  case h_1 => exact State.reply_mem ..
  case h_2 => rfl

@[simp] theorem State.dropPods_mem (pods : List Nat) : (s.dropPods pods).mem = s.mem := by
  refine State.foldl_mem (fun v p => ?_) s _
  dsimp only
  exact (State.foldl_mem (fun _ _ => by rfl) _ _).trans ((State.foldl_mem State.dropWork_mem _ _).trans rfl)

@[simp] theorem State.bypassed_mem (pod : Option Nat) : (s.bypassed pod).mem = s.mem := by
  simp only [State.bypassed, State.log1_mem, State.event_mem]

@[simp] theorem State.bypassPod_mem (p : Nat) : (s.bypassPod p).mem = s.mem := by
  unfold State.bypassPod
  extract_lets bit v
  have hv : v.mem = s.mem := by
    refine State.foldl_mem (fun w h => ?_) s _
    dsimp only
    split
    case isTrue => rfl
    case isFalse => exact State.setHull_mem ..
  clear_value v
  exact (State.bypassed_mem ..).trans ((State.setPod_mem ..).trans hv)

@[simp] theorem State.enterTest_mem (pods : List Nat) : (s.enterTest pods).mem = s.mem := by
  refine State.foldl_mem (fun v p => ?_) s _
  split
  case isTrue => rfl
  case isFalse => exact State.bypassPod_mem ..

@[simp] theorem State.takePod_mem (p : Nat) : (s.takePod p).mem = s.mem := by
  unfold State.takePod
  extract_lets h
  split
  case isTrue => exact State.enterTest_mem ..
  case isFalse =>
    split
    case isTrue => rfl
    case isFalse => exact (State.enterTest_mem ..).trans (State.dropPods_mem ..)

@[simp] theorem State.setDisable_mem (v : BitVec 36) : (s.setDisable v).mem = s.mem := by
  refine (State.foldl_mem (fun w b => ?_) _ _).trans rfl
  split
  case h_1 => exact State.leave_mem ..
  case h_2 => exact State.leave_mem ..
  case h_3 => exact State.leave_mem ..
  case h_4 => exact State.leave_mem ..
  case h_5 => rfl

end Memory

/-! ## A map-out is no access -/

section MapOut

variable {s : State}

theorem State.foldl_quiet {α : Type} {f : State → α → State} (hf : ∀ s x, s.quiet → (f s x).quiet) (l : List α) (k : s.quiet) :
    (l.foldl f s).quiet := List.foldlRecOn (motive := State.quiet) l f k fun v hv x _ => hf v x hv

@[simp] theorem State.pickFw_quiet (k : s.quiet) : s.pickFw.quiet := by
  unfold State.pickFw
  split
  case isTrue => exact k
  case isFalse =>
    split
    case h_1 => exact k
    case h_2 => exact k

theorem State.mapOut_quiet (u : MemUnit) (cause trigger : Nat) (repl : Option Nat) (k : s.quiet) : (s.mapOut u cause trigger repl).quiet := by
  unfold State.mapOut
  extract_lets tb x gone _ counted shown picked
  have hgone : gone.quiet := State.setUnit_quiet _ _ k
  have hshown : shown.quiet := by
    unfold shown counted
    cases tb
    case false => exact hgone
    case true => exact hgone
  have hpicked : picked.quiet := by
    unfold picked
    split
    case isTrue => exact State.pickFw_quiet hshown
    case isFalse => exact hshown
  exact State.quiet_of_mem (State.event_mem ..) hpicked

theorem State.mapOutFail_quiet (u : MemUnit) (cause trigger : Nat) (k : s.quiet) : (s.mapOutFail u cause trigger).quiet := by
  unfold State.mapOutFail
  refine State.quiet_of_mem (State.faultHull_mem ..) (State.quiet_of_mem (State.event_mem ..) (State.mapOut_quiet _ _ _ _ ?_))
  refine State.foldl_quiet (fun v n hv => State.setUnit_quiet _ _ hv) _ (State.foldl_quiet (fun v n hv => State.setUnit_quiet _ _ hv) _ ?_)
  exact State.quiet_of_mem (State.setHull_mem ..) k

theorem State.mapOutStart_quiet (u : MemUnit) (cause trigger : Nat) (k : s.quiet) : (s.mapOutStart u cause trigger).quiet := by
  unfold State.mapOutStart
  extract_lets x
  split
  case isTrue => exact k
  case isFalse =>
    split
    case isTrue => exact State.mapOut_quiet _ _ _ _ k
    case isFalse =>
      split
      case h_1 => exact State.mapOutFail_quiet _ _ _ k
      case h_2 n _ =>
        split
        case isTrue => exact State.mapOutFail_quiet _ _ _ k
        case isFalse => exact State.setUnit_quiet _ _ (State.setUnit_quiet _ _ k)

/-- R197: a trigger starts a map-out or queues it. -/
theorem State.mapOutTrigger_quiet (u : MemUnit) (cause : Nat) (k : s.quiet) : (s.mapOutTrigger u cause).quiet := by
  unfold State.mapOutTrigger
  extract_lets x before after
  split
  case isTrue => exact k
  case isFalse =>
    split
    case isTrue => exact State.setUnit_quiet _ _ k
    case isFalse =>
      split
      case isTrue => exact k
      case isFalse => exact State.mapOutStart_quiet _ _ _ k

end MapOut

/-! ## TEST_RUN -/

section TestRun

variable {s u : State} {c : Cmd} {p : Nat} {e : SlotS}

/-- A pod that is in no hull, or that its hull can spare, can go. -/
theorem State.can_spare (hspare : (u.pod p).hull = 0 ∨ (u.hull (u.pod p).hull).prog = none ∨ (u.canSpare (u.pod p).hull).isSome = true) :
    ¬ ((u.pod p).hull ≠ 0 ∧ (u.hull (u.pod p).hull).prog.isSome = true ∧ (u.canSpare (u.pod p).hull).isNone = true) := by
  rintro ⟨hhull, hprog, hcannot⟩
  rcases hspare with h | h | h
  · exact hhull h
  · rw [h] at hprog
    cases hprog
  · rw [Option.isNone_iff_eq_none.mp hcannot] at h
    cases h

/-- R391–R393: a probe of a pod with content of its kind takes the pod. -/
theorem State.probePod_in_rule (hslot : u.slotFor (pf c.params 2 1) 0 = some e) (hp : pf c.params 1 1 = p) (hok : testFieldsOk c 1 = true)
    (hfused : u.board.fused.getLsbD p = false) (hop : u.isOperator c = true) (hidle : u.probe.active = false)
    (hspare : (u.pod p).hull = 0 ∨ (u.hull (u.pod p).hull).prog = none ∨ (u.canSpare (u.pod p).hull).isSome = true)
    (hawake : (u.pod p).asleep = false) (hshort : u.probeShort (u.pod p).hull e.share = 0) :
    u.probePod c = (State.takePod { u with probe :=
      { state := 1, nmu := false, target := p, slot := pf c.params 2 1, version := BitVec.ofNat 32 e.version, gtc := 0, hull := (u.pod p).hull,
        share := e.share, durationMs := e.durationMs } } p).reply c 0x0800 sACCEPTED 0 := by
  subst hp
  have hfree := State.can_spare hspare
  simp only [State.probePod, hslot, hok, hfused, hop, hidle, hfree, hawake, hshort, Bool.not_true, Bool.false_eq_true, or_self, false_and, if_false,
    Nat.lt_irrefl, State.wakeFor_nil]

/-- R391: a probe of a near-memory unit starts. -/
theorem State.probeNmu_in_rule (hslot : u.slotFor (pf c.params 2 1) 1 = some e) (hok : testFieldsOk c 2 = true) (hop : u.isOperator c = true)
    (hidle : u.probe.active = false) :
    u.probeNmu c = State.reply { u with probe :=
      { state := 2, nmu := true, target := pf c.params 3 1, slot := pf c.params 2 1, version := BitVec.ofNat 32 e.version, gtc := u.time.gtc,
        hull := 0, share := 0, durationMs := e.durationMs } } c 0x0800 sACCEPTED 0 := by
  simp only [State.probeNmu, hslot, hok, hop, hidle, Bool.not_true, Bool.false_eq_true, if_false]

/-- R394: a pod in no hull is bypassed, one of a hull that can spare it is taken. -/
theorem State.bypassCmd_in_rule (hp : pf c.params 1 1 = p) (hok : testFieldsOk c 3 = true) (hfused : u.board.fused.getLsbD p = false)
    (hop : u.isOperator c = true)
    (hspare : (u.pod p).hull = 0 ∨ (u.hull (u.pod p).hull).prog = none ∨ (u.canSpare (u.pod p).hull).isSome = true) :
    u.bypassCmd c = if (u.pod p).hull = 0 then (u.bypassPod p).reply c 0x0800 sDONE 0 else (u.takePod p).reply c 0x0800 sACCEPTED 0 := by
  subst hp
  exact (if_neg (not_or.mpr ⟨not_bnot hok, by rw [hfused]; exact Bool.false_ne_true⟩)).trans ((if_neg (not_bnot hop)).trans
    (if_neg (State.can_spare hspare)))

/-- R394: a bypassed pod is released. -/
theorem State.releaseCmd_in_rule (hp : pf c.params 1 1 = p) (hok : testFieldsOk c 4 = true) (hfused : u.board.fused.getLsbD p = false)
    (hop : u.isOperator c = true) (hbypassed : u.bypass.getLsbD p = true) :
    u.releaseCmd c = State.reply (State.setPod { u with bypass := u.bypass &&& ~~~(BitVec.ofNat 8 (2 ^ p)) } p
      { u.pod p with state := .idle }) c 0x0800 sDONE 0 := by
  subst hp
  exact (if_neg (not_or.mpr ⟨not_bnot hok, by rw [hfused]; exact Bool.false_ne_true⟩)).trans ((if_neg (not_bnot hop)).trans
    (if_neg (not_bnot hbypassed)))

/-- R394: a unit in service is mapped out. -/
theorem State.mapoutCmd_in_rule {n : Nat} {m : MemUnit} (hn : pf c.params 4 2 = n) (hm : (if n < 512 then MemUnit.a n else .b (n - 512)) = m)
    (hok : testFieldsOk c 5 = true) (hop : u.isOperator c = true) (hstate : (u.unit m).state ≠ 2) (hcopied : u.mem.mapout ≠ some m)
    (hqueued : (u.mem.mapoutQueue.any fun q => q.2.1 == m) = false) :
    u.mapoutCmd c = (u.mapOutTrigger m 4).reply c 0x0800 sACCEPTED 0 := by
  subst hn hm
  exact (if_neg (not_bnot hok)).trans ((if_neg (not_bnot hop)).trans
    (if_neg (not_or.mpr ⟨hstate, not_or.mpr ⟨hcopied, by rw [hqueued]; exact Bool.false_ne_true⟩⟩)))

theorem State.bundleCmd_bypass (hok : testFieldsOk c 6 = true) (hop : u.isOperator c = true) :
    u.bundleCmd c 6 = ((u.setDisable (u.jv.disable ||| BitVec.ofNat 36 (2 ^ pf c.params 6 1))).bypassed none).reply c 0x0800 sDONE 0 :=
  (if_neg (not_bnot hok)).trans ((if_neg (not_bnot hop)).trans (if_pos rfl))

theorem State.bundleCmd_release (hok : testFieldsOk c 7 = true) (hop : u.isOperator c = true) :
    u.bundleCmd c 7 = (u.setDisable (u.jv.disable &&& ~~~(BitVec.ofNat 36 (2 ^ pf c.params 6 1)))).reply c 0x0800 sDONE 0 :=
  (if_neg (not_bnot hok)).trans ((if_neg (not_bnot hop)).trans (if_neg (by decide)))

end TestRun

/-! ## Probe content and pushes -/

section Content

variable {s u : State} {c : Cmd}

/-- R390: content in rule and signed is loaded where its version is not behind. -/
theorem testContentLoad_in_rule {slot n kind ver : Nat} {head body : List Byte} (h0 : pf c.params 0 1 = slot) (h16 : pf c.params 0x10 8 = n)
    (hhead : getBytes u.host (pf c.params 8 8) 256 = head) (hbody : getBytes u.host (pf c.params 8 8 + 256) (n - 256) = body)
    (hkind : fieldLe head 2 1 = kind) (hver : fieldLe head 4 4 = ver) (hslot : slot < 8) (h1 : pf c.params 1 7 = 0) (hz : restZero c 0x18 = true)
    (h8 : pf c.params 8 8 % 4096 = 0) (hok : contentOk head n = true) (hop : u.isOperator c = true)
    (hidle : u.probe.active = true → u.probe.slot ≠ slot) (hdigest : sha384Bytes body = slice head 0x18 48)
    (hsigned : sigOk u.sec.contentKey (slice head 0x48 96) (slice head 0 0x48) = true) :
    u.testContentLoad c = if ver < tget 0 u.maxVersion kind then u.reply c 0x0801 sBADPARAM 0 else State.reply { u with
      slots := tput u.slots slot { kind := kind, version := ver, durationMs := fieldLe head 8 4, share := fieldLe head 0xC 2, bytes := n - 256 }
      maxVersion := tput u.maxVersion kind (max ver (tget 0 u.maxVersion kind)) } c 0x0801 sDONE (mkFields [(0, 4, ver)]) := by
  subst h0 h16 hhead hbody hkind hver
  refine (if_neg ?rule).trans ((if_neg (not_bnot hop)).trans ((if_neg fun hc => hidle hc.1 hc.2).trans (if_congr ?version rfl rfl)))
  case rule =>
    rintro (hc | hc | hc | hc | hc)
    · exact Nat.not_le.mpr hslot hc
    · exact hc h1
    · exact not_bnot hz hc
    · exact hc h8
    · exact not_bnot hok hc
  case version =>
    constructor
    · rintro (hc | hc | hc)
      · exact absurd hdigest hc
      · exact absurd hc (not_bnot hsigned)
      · exact hc
    · exact fun hc => Or.inr (Or.inr hc)

variable {i : Nat} {k : Collector}

/-- R398: a record that a collector has acknowledged is consumed once every collector has it. -/
theorem execRecordPushAck_taken {r : ErrRec} {v : State} (hk : s.collectors[i]? = some k) (hconf : k.configured = true) (hreach : k.reachable = true)
    (hr : s.pushNext k = some r) (hv : { s with collectors := setAt s.collectors i { k with next := r.seq + 1 } } = v) :
    exec (.recordPushAck i) s = .next ((if (v.collectors.all fun q => !q.configured || decide (r.seq < q.next)) = true
      then v.consume fun q => q.seq == r.seq else v).pushTo i) := by
  subst hv
  change execRecordPushAck i s = _
  unfold execRecordPushAck
  simp only [hk, hr, hconf, hreach, and_self, if_true]

/-- R398: a collector that answers again is pushed to. -/
theorem execCollectorRetry_found {up : Bool} {v : State} (hk : s.collectors[i]? = some k)
    (hv : { s with collectors := setAt s.collectors i { k with reachable := up } } = v) :
    exec (.collectorRetry i up) s = .next (if up = true ∧ k.reachable = false then v.pushTo i else v) := by
  subst hv
  change execCollectorRetry i up s = _
  unfold execCollectorRetry
  simp only [hk]
  exact congrArg Host.Outcome.next (if_congr (by simp) rfl rfl)

end Content

/-- Settles O51: each command's rules come to their last branch, and none of them accesses a block. -/
theorem maintenanceCommandsTakeEffect : Obligations.MaintenanceCommandsTakeEffect := by
  unfold Obligations.MaintenanceCommandsTakeEffect
  refine ⟨fun s c => ?testRun, fun s c => ?content, fun s i k hk => ?push⟩
  case testRun =>
    intro u p hs hop
    refine ⟨fun e hslot hok hfused hidle hspare hawake hshort => ?probe, fun e hslot hok hidle => ?probeNmu, fun hok hfused => ?bypass,
      fun hok hfused hbypassed => ?release, fun hok => ?mapout, ?bundle⟩
    case probe =>
      intro q
      exact State.packet_ends hs (State.probePod_in_rule hslot rfl hok hfused hop hidle hspare hawake hshort)
        ((State.reply_mem ..).trans ((State.takePod_mem ..).trans rfl))
    case probeNmu =>
      intro q
      exact State.packet_ends hs (State.probeNmu_in_rule hslot hok hop hidle) ((State.reply_mem ..).trans rfl)
    case bypass =>
      refine ⟨fun hfree => ?_, fun hheld hspare => ?_⟩
      · exact State.packet_ends hs ((State.bypassCmd_in_rule rfl hok hfused hop (Or.inl hfree)).trans (if_pos hfree))
          ((State.reply_mem ..).trans (State.bypassPod_mem ..))
      · exact State.packet_ends hs ((State.bypassCmd_in_rule rfl hok hfused hop (Or.inr hspare)).trans (if_neg hheld))
          ((State.reply_mem ..).trans (State.takePod_mem ..))
    case release => exact State.packet_ends hs (State.releaseCmd_in_rule rfl hok hfused hop hbypassed) ((State.reply_mem ..).trans rfl)
    case mapout =>
      intro n m hstate hcopied hqueued
      exact State.packet_replies_after hs (State.mapoutCmd_in_rule rfl rfl hok hop hstate hcopied hqueued)
        (State.mapOutTrigger_quiet _ _ (State.settled_begin_quiet s c 0x0800))
    case bundle =>
      intro bit
      exact ⟨fun hok => State.packet_ends hs (State.bundleCmd_bypass hok hop)
          ((State.reply_mem ..).trans ((State.bypassed_mem ..).trans (State.setDisable_mem ..))),
        fun hok => State.packet_ends hs (State.bundleCmd_release hok hop) ((State.reply_mem ..).trans (State.setDisable_mem ..))⟩
  case content =>
    intro u slot n head body kind ver hs hslot h1 hz h8 hok hop hidle hdigest hsigned
    have hload := testContentLoad_in_rule rfl rfl rfl rfl rfl rfl hslot h1 hz h8 hok hop hidle hdigest hsigned
    exact ⟨fun hnew => State.packet_ends hs (hload.trans (if_neg (Nat.not_lt.mpr hnew))) ((State.reply_mem ..).trans rfl),
      fun hold => State.packet_ends hs (hload.trans (if_pos hold)) (State.reply_mem ..)⟩
  case push =>
    refine ⟨fun r hconf hreach hr => ?_, fun up => ?_⟩
    · intro v
      exact execRecordPushAck_taken hk hconf hreach hr rfl
    · intro v
      exact execCollectorRetry_found hk rfl

end Sys2Proof.Machine
end

section
/-!
PROOFS. Debug commands (R451–R458): the statement DebugCommandsTakeEffect.
-/

namespace Sys2Proof.Machine

section Debug

variable {s u : State} {c : Cmd} {h k : Nat}

/-- R452: a class is attached or detached for a caller that may. -/
theorem State.dbgAttach_in_rule {b : List Byte} {v : State} (h0 : pf c.params 0 1 = h) (h1 : pf c.params 1 1 = k)
    (hb : getBytes u.host (pf c.params 8 8) 160 = b) (hok : attachOk c = true)
    (hallowed : (if h = 0 then u.isOperator c else u.ownsHull c h) = true) (htenant : k = 1 → u.reg 0x0F0008 % 2 = 1)
    (hlive : h ≠ 0 → (u.hull h).live = true) (htoken : k = 2 → u.tokenOk b (if h = 0 then 0 else 1) = true)
    (hv : u.setClass h k (if k = 2 then fieldLe b 8 8 else 0) = v) :
    u.dbgAttach c = v.reply c 0x0900 sDONE (mkFields [(0, 1, k), (1, 1, v.debugByte h)]) := by
  subst h0 h1 hb hv
  have hdenied : ¬ ((if pf c.params 0 1 = 0 then !u.isOperator c else !u.ownsHull c (pf c.params 0 1)) = true ∨
      (pf c.params 1 1 = 1 ∧ u.reg 0x0F0008 % 2 = 0)) := by
    rintro (hc | ⟨hk, hoff⟩)
    · by_cases hzero : pf c.params 0 1 = 0
      · rw [if_pos hzero] at hc hallowed
        exact not_bnot hallowed hc
      · rw [if_neg hzero] at hc hallowed
        exact not_bnot hallowed hc
    · rw [htenant hk] at hoff
      cases hoff
  refine (if_neg (not_bnot hok)).trans ((if_neg hdenied).trans ((if_neg ?live).trans ((if_neg ?token).trans rfl)))
  case live => exact fun hc => not_bnot (hlive hc.1) hc.2
  case token => exact fun hc => not_bnot (htoken hc.1) hc.2

/-- R454: a peek in reach copies what it reads. -/
theorem State.dbgPeek_in_rule {r : List Byte × Nat} {dst : Nat} (hr : u.peekBytes c = r) (h16 : pf c.params 0x10 8 = dst) (hok : u.peekOk c = true)
    (hreach : u.peekReach c = true) (hbusy : u.peekBusy c = false) {v : State} (hv : { u with fresh := u.fresh + 1 } = v) :
    u.dbgPeek c = (if dst = 0 then v else v.hostWrite dst r.1).reply c 0x0901 sDONE
      (mkFields [(0, 8, if dst = 0 then leNat r.1 else 0), (8, 8, pf c.params 4 4), (0x10, 4, r.2)]) := by
  subst hr h16 hv
  exact (if_neg (not_bnot hok)).trans ((if_neg (not_bnot hreach)).trans ((if_neg (by rw [hbusy]; exact Bool.false_ne_true)).trans rfl))

/-- R456: a running hull is halted, or a halted one resumed. -/
theorem State.hullHaltCmd_in_rule (resume : Bool) (h1 : pf c.params 1 1 = h) (hok : haltOk c 0 (b2n resume) = true) (hclass : u.classOf c h ≠ 0)
    (hstate : (u.hull h).state = .running) (hhalted : (u.hull h).halted = resume) :
    u.hullHaltCmd c resume = ((u.setHull h { u.hull h with halted := !resume }).event evDbg 1 769).reply c 0x0902 sDONE (mkFields [(0, 2, 0)]) := by
  subst h1
  refine (if_neg (not_bnot hok)).trans ((if_neg hclass).trans ((if_neg ?busy).trans rfl))
  rw [hhalted]
  rintro (hc | hc)
  · exact hc hstate
  · cases resume <;> cases hc

/-- R457: a control core other than the caller's own. -/
theorem State.otherCore (hother : ∀ r, c.org = .ring r → (u.ring r).core ≠ k) :
    (match c.org with | .ring r => (u.ring r).core == k | .udp _ => false : Bool) = false := by
  cases horg : c.org with
  | ring r => exact beq_eq_false_iff_ne.mpr (hother r horg)
  | udp e => rfl

/-- R457: a control core is halted, and the leases it holds are broken. -/
theorem State.coreHaltCmd_halts {leases : List Nat} {v : State} (h2 : pf c.params 2 1 = k) (hleases : u.coreLeases k = leases)
    (hv : (if leases = [] then leases.foldl (fun (s : State) id => s.breakLease id) u
      else (leases.foldl (fun (s : State) id => s.breakLease id) u).event evDbg 2 770) = v) (hclass : u.classOf c 0 ≠ 0)
    (hother : ∀ r, c.org = .ring r → (u.ring r).core ≠ k) (hok : haltOk c 1 0 = true) (hruns : (u.core k).halted = false)
    (hbreak : leases = [] ∨ bitOf (pf c.params 3 1) 1 = true) (hleft : ((upFrom 0 8).filter fun i => (u.core i).halted).length < 7) :
    u.coreHaltCmd c false = ((v.setCore k { v.core k with halted := true }).event evDbg 1 769).reply c 0x0902 sDONE
      (mkFields [(0, 2, leases.length)]) := by
  subst h2 hleases hv
  refine (if_neg (not_bnot hok)).trans ((if_neg (not_or.mpr ⟨hclass, Bool.eq_false_iff.mp (State.otherCore hother)⟩)).trans
    ((if_neg ?busy).trans ((if_neg Bool.false_ne_true).trans rfl)))
  case busy =>
    rintro (hc | ⟨-, ⟨hheld, hkeep⟩ | hmany⟩)
    · rw [hruns] at hc
      cases hc
    · exact hbreak.elim hheld fun hbit => not_bnot hbit hkeep
    · exact Nat.not_le.mpr hleft hmany

/-- R457: a halted control core is resumed, and the watchdog's limit runs anew. -/
theorem State.coreHaltCmd_resumes (h2 : pf c.params 2 1 = k) (hclass : u.classOf c 0 ≠ 0)
    (hother : ∀ r, c.org = .ring r → (u.ring r).core ≠ k) (hok : haltOk c 1 1 = true) (hhalted : (u.core k).halted = true) :
    u.coreHaltCmd c true = ((State.setCore { u with board := { u.board with wdogGtc := u.time.gtc } } k { u.core k with halted := false }).event
      evDbg 1 769).reply c 0x0902 sDONE (mkFields [(0, 2, 0)]) := by
  subst h2
  refine (if_neg (not_bnot hok)).trans ((if_neg (not_or.mpr ⟨hclass, Bool.eq_false_iff.mp (State.otherCore hother)⟩)).trans
    ((if_neg ?busy).trans ((if_pos rfl).trans rfl)))
  case busy =>
    rintro (hc | ⟨hc, -⟩)
    · rw [hhalted] at hc
      cases hc
    · cases hc

@[simp] theorem State.vendorEnd_mem (s : State) (h : Nat) : (s.vendorEnd h).mem = s.mem := by
  unfold State.vendorEnd
  split
  case isTrue =>
    split
    case isTrue => exact (State.event_mem ..).trans (State.foldl_mem (fun _ _ => by rfl) s _)
    case isFalse => rfl
  case isFalse =>
    split
    case isTrue => exact (State.event_mem ..).trans (State.setHull_mem ..)
    case isFalse => rfl

@[simp] theorem State.setClass_mem (s : State) (h k notAfter : Nat) : (s.setClass h k notAfter).mem = s.mem := by
  unfold State.setClass
  extract_lets ended _ x v w
  have hended : ended.mem = s.mem := by
    unfold ended
    split
    case isTrue => exact State.vendorEnd_mem ..
    case isFalse => rfl
  clear_value ended
  have hv : v.mem = s.mem := by
    unfold v
    split
    case isTrue => exact hended
    case isFalse => exact (State.setHull_mem ..).trans hended
  clear_value v
  refine (State.event_mem ..).trans ?_
  unfold w
  split
  case isTrue => exact hv
  case isFalse => exact hv

@[simp] theorem State.breakLease_mem (s : State) (id : Nat) : (s.breakLease id).mem = s.mem := by
  unfold State.breakLease
  split
  case h_2 => rfl
  case h_1 o _ =>
    split
    case h_2 => rfl
    case h_1 src _ =>
      split
      case isFalse => rfl
      case isTrue => exact (State.log1_mem ..).trans ((State.answers_mem ..).trans rfl)

end Debug

/-- Settles O52: each command's rules come to their last branch, and none of them accesses a block. -/
theorem debugCommandsTakeEffect : Obligations.DebugCommandsTakeEffect := by
  unfold Obligations.DebugCommandsTakeEffect
  intro s c
  refine ⟨fun hs => ?attach, fun hs => ?peek, fun hs => ?hull, fun hs => ?core⟩
  case attach =>
    intro u h k b hok hallowed htenant hlive htoken v
    exact State.packet_ends hs (State.dbgAttach_in_rule rfl rfl rfl hok hallowed htenant hlive htoken rfl)
      ((State.reply_mem ..).trans (State.setClass_mem ..))
  case peek =>
    intro u r dst hok hreach hbusy v
    refine State.packet_ends hs (State.dbgPeek_in_rule rfl rfl hok hreach hbusy rfl) ((State.reply_mem ..).trans ?_)
    split <;> rfl
  case hull =>
    intro u h x
    have hend (resume : Bool) (hok : haltOk c 0 (b2n resume) = true) (hclass : u.classOf c h ≠ 0) (hstate : x.state = .running)
        (hhalted : x.halted = resume) := State.packet_ends (f := (State.hullHaltCmd · c resume)) hs
      (State.hullHaltCmd_in_rule resume rfl hok hclass hstate hhalted)
      ((State.reply_mem ..).trans ((State.event_mem ..).trans (State.setHull_mem ..)))
    exact ⟨hend false, hend true⟩
  case core =>
    intro u k leases broken v hclass hother
    refine ⟨fun hok hruns hbreak hleft => ?halt, fun hok hhalted => ?resume⟩
    case halt =>
      have hbroken : broken.mem = u.mem := State.foldl_mem (fun v id => State.breakLease_mem v id) u leases
      have hv : v.mem = u.mem := by
        unfold v
        split
        case isTrue => exact hbroken
        case isFalse => exact (State.event_mem ..).trans hbroken
      exact State.packet_ends hs (State.coreHaltCmd_halts rfl rfl rfl hclass hother hok hruns hbreak hleft)
        ((State.reply_mem ..).trans ((State.event_mem ..).trans hv))
    case resume =>
      exact State.packet_ends hs (State.coreHaltCmd_resumes rfl hclass hother hok hhalted) ((State.reply_mem ..).trans ((State.event_mem ..).trans rfl))

end Sys2Proof.Machine
end

section
/-! PROOFS. The number formats (O54): every encoding that is no NaN is split into sign, exponent and fraction, decodes to a magnitude at its
own quantum, and is put together again without rounding. -/

namespace Sys2Proof.Machine

/-! ## The side conditions of a format -/

/-- What R141 says of a format's fields: at least two exponent bits, an IEEE format's bias in the middle of its exponents, and
E4M3 the one of its kind. -/
structure FFmt.regular (f : FFmt) : Prop where
  expBits : 4 ≤ 2 ^ f.eb
  ofIeee : f.kind = .ieee → 2 ^ f.eb = 2 * f.bias + 2
  ofE4m3 : f.kind = .e4m3 → f = Sys2Proof.Machine.e4m3

theorem regular_of_mem {f : FFmt} (h : f ∈ [fp64, fp32, fp16, bf16, e5m2, e4m3, e3m2, e2m3, e2m1]) : f.regular := by
  simp only [List.mem_cons, List.not_mem_nil, or_false] at h
  obtain rfl | rfl | rfl | rfl | rfl | rfl | rfl | rfl | rfl := h <;> exact ⟨by decide, by decide, by decide⟩

/-! ## The fields of a word -/

/-- The exponent field. -/
def FFmt.expField (f : FFmt) (w : Nat) : Nat := w / 2 ^ f.fb % 2 ^ f.eb

/-- The fraction field. -/
def FFmt.fracField (f : FFmt) (w : Nat) : Nat := w % 2 ^ f.fb

/-- The sign bit. -/
def FFmt.signField (f : FFmt) (w : Nat) : Bool := bitOf w (f.eb + f.fb)

theorem FFmt.expField_lt (f : FFmt) (w : Nat) : f.expField w < 2 ^ f.eb := Nat.mod_lt _ (Nat.two_pow_pos _)

theorem FFmt.fracField_lt (f : FFmt) (w : Nat) : f.fracField w < 2 ^ f.fb := Nat.mod_lt _ (Nat.two_pow_pos _)

theorem bitAt_top {w k : Nat} (h : w < 2 ^ (k + 1)) : bitAt (bitOf w k) k = w / 2 ^ k * 2 ^ k := by
  have hq : w / 2 ^ k < 2 := by
    rw [Nat.div_lt_iff_lt_mul (Nat.two_pow_pos k)]
    simpa [Nat.pow_succ, Nat.mul_comm] using h
  obtain h0 | h1 : w / 2 ^ k = 0 ∨ w / 2 ^ k = 1 := by revert hq; generalize w / 2 ^ k = q; omega
  · simp [bitAt, bitOf, h0]
  · simp [bitAt, bitOf, h1]

/-- A word is its sign, exponent and fraction. -/
theorem FFmt.fields_eq (f : FFmt) {w : Nat} (h : w < 2 ^ f.bits) :
    bitAt (f.signField w) (f.eb + f.fb) + f.expField w * 2 ^ f.fb + f.fracField w = w := by
  have hb : f.bits = f.eb + f.fb + 1 := by simp only [FFmt.bits]; omega
  rw [hb] at h
  have htop : w / 2 ^ (f.eb + f.fb) * 2 ^ (f.eb + f.fb) = w / 2 ^ f.fb / 2 ^ f.eb * 2 ^ f.eb * 2 ^ f.fb := by
    rw [Nat.div_div_eq_div_mul, ← Nat.pow_add, Nat.mul_assoc, ← Nat.pow_add, Nat.add_comm f.fb]
  rw [FFmt.signField, bitAt_top h, htop, ← Nat.add_mul, FFmt.expField, FFmt.fracField, Nat.div_add_mod', Nat.div_add_mod']

/-! ## Decoding -/

theorem decodeF_special {f : FFmt} {w : Nat} (hk : f.kind = .ieee) (he : f.expField w = 2 ^ f.eb - 1) :
    decodeF f w = if f.fracField w = 0 then .inf (f.signField w) else .nan := if_pos ⟨hk, he⟩

theorem decodeF_finite {f : FFmt} {w : Nat} (hi : ¬ (f.kind = .ieee ∧ f.expField w = 2 ^ f.eb - 1))
    (hn : ¬ (f.kind = .e4m3 ∧ f.expField w = 15 ∧ f.fracField w = 7)) :
    decodeF f w = if f.expField w = 0 then .fin (f.signField w) (f.fracField w) (f.emin - f.fb)
      else .fin (f.signField w) (2 ^ f.fb + f.fracField w) ((f.expField w : Int) - f.bias - f.fb) :=
  (if_neg hi).trans (if_neg hn)

/-! ## Encoding a value that lies on its quantum -/

/-- The quantum a finite value is rounded to. -/
def FFmt.quantum (f : FFmt) (m : Nat) (e : Int) : Int :=
  if f.flush then e + bitLen m - 1 - f.fb else max (e + bitLen m - 1 - f.fb) (f.emin - f.fb)

theorem roundTo_self (r : Rnd) (m : Nat) (e : Int) : roundTo r m e e = m := by simp [roundTo]

theorem magGt_eq_false {m m' : Nat} {e e' : Int} (he : e ≤ e') (h : m ≤ m' * 2 ^ (e' - e).toNat) : magGt m e m' e' = false := by
  simp [magGt, he, h]

/-- A value on its quantum, within the format's range, is encoded without rounding. -/
theorem encodeF_exact {f : FFmt} {m : Nat} {e : Int} (r : Rnd) (neg : Bool) (h0 : m ≠ 0) (hlt : m < 2 ^ (f.fb + 1))
    (hq : f.quantum m e = e) (hmax : magGt m e f.maxFin.1 f.maxFin.2 = false) :
    encodeF f r (.fin neg m e) = if m < 2 ^ f.fb then (bitAt neg (f.eb + f.fb) + m, 0)
      else if e + f.fb < f.emin then (bitAt neg (f.eb + f.fb), fFZ)
      else (bitAt neg (f.eb + f.fb) + (e + f.fb + f.bias).toNat * 2 ^ f.fb + (m - 2 ^ f.fb), 0) := by
  have hq' : (if f.flush = true then e + bitLen m - 1 - f.fb else max (e + bitLen m - 1 - f.fb) (f.emin - f.fb)) = e := hq
  simp only [encodeF, h0, if_false, hq', roundTo_self, Nat.ne_of_lt hlt, hmax, Bool.false_eq_true]

/-! ## Normal and subnormal numbers -/

theorem bitLen_of_between {m k : Nat} (hl : 2 ^ k ≤ m) (hu : m < 2 ^ (k + 1)) : bitLen m = k + 1 := by
  have h0 : m ≠ 0 := by have := Nat.two_pow_pos k; omega
  rw [bitLen, if_neg h0, (Nat.log2_eq_iff h0).2 ⟨hl, hu⟩]

theorem bitLen_le_of_lt {m k : Nat} (h : m < 2 ^ k) : bitLen m ≤ k := by
  unfold bitLen
  split
  case isTrue => exact Nat.zero_le k
  case isFalse h0 => exact (Nat.log2_lt h0).2 h

/-- The largest finite magnitude bounds every subnormal. -/
theorem FFmt.regular.subnormal_le {f : FFmt} (hf : f.regular) {m : Nat} (h : m < 2 ^ f.fb) :
    magGt m (f.emin - f.fb) f.maxFin.1 f.maxFin.2 = false := by
  have hpos (k : Nat) : 1 ≤ 2 ^ k := Nat.two_pow_pos k
  have hall : m ≤ 2 ^ (f.fb + 1) - 1 := by rw [Nat.pow_succ]; omega
  have hexp := hf.expBits
  cases hk : f.kind with
  | ieee =>
    have hb := hf.ofIeee hk
    simp only [FFmt.maxFin, hk]
    refine magGt_eq_false (by simp only [FFmt.emin]; omega) (hall.trans (Nat.le_mul_of_pos_right _ (hpos _)))
  | e4m3 =>
    obtain rfl := hf.ofE4m3 hk
    have h8 : m < 8 := h
    refine magGt_eq_false (by decide) ?_
    change m ≤ 14 * 2 ^ 14
    omega
  | finite =>
    simp only [FFmt.maxFin, hk]
    refine magGt_eq_false (by simp only [FFmt.emin]; omega) (hall.trans (Nat.le_mul_of_pos_right _ (hpos _)))

/-- The largest finite magnitude bounds every normal number that is no special. -/
theorem FFmt.regular.normal_le {f : FFmt} (hf : f.regular) {ex fr : Nat} (hex : ex < 2 ^ f.eb) (hfr : fr < 2 ^ f.fb)
    (hi : ¬ (f.kind = .ieee ∧ ex = 2 ^ f.eb - 1)) (hn : ¬ (f.kind = .e4m3 ∧ ex = 15 ∧ fr = 7)) :
    magGt (2 ^ f.fb + fr) ((ex : Int) - f.bias - f.fb) f.maxFin.1 f.maxFin.2 = false := by
  have hpos (k : Nat) : 1 ≤ 2 ^ k := Nat.two_pow_pos k
  have hall : 2 ^ f.fb + fr ≤ 2 ^ (f.fb + 1) - 1 := by rw [Nat.pow_succ]; omega
  cases hk : f.kind with
  | ieee =>
    have hb := hf.ofIeee hk
    have hne : ex ≠ 2 ^ f.eb - 1 := fun h => hi ⟨hk, h⟩
    simp only [FFmt.maxFin, hk]
    exact magGt_eq_false (by omega) (hall.trans (Nat.le_mul_of_pos_right _ (hpos _)))
  | e4m3 =>
    obtain rfl := hf.ofE4m3 hk
    have h16 : ex < 16 := hex
    have h8 : fr < 8 := hfr
    have hne : ¬ (ex = 15 ∧ fr = 7) := fun h => hn ⟨hk, h⟩
    change magGt (8 + fr) ((ex : Int) - 7 - 3) 14 5 = false
    by_cases htop : ex = 15
    · subst htop
      exact magGt_eq_false (by decide) (show 8 + fr ≤ 14 * 2 ^ 0 by omega)
    · refine magGt_eq_false (by omega) ?_
      have h2 : 2 ^ 1 ≤ 2 ^ ((5 : Int) - ((ex : Int) - 7 - 3)).toNat := Nat.pow_le_pow_right (by decide) (by omega)
      omega
  | finite =>
    simp only [FFmt.maxFin, hk]
    exact magGt_eq_false (by omega) (hall.trans (Nat.le_mul_of_pos_right _ (hpos _)))

theorem encodeF_zero (f : FFmt) (r : Rnd) (neg : Bool) (e : Int) : encodeF f r (.fin neg 0 e) = (bitAt neg (f.eb + f.fb), 0) := by
  simp only [encodeF, if_true]

/-- A subnormal number of a format that keeps them, and zero of any. -/
theorem FFmt.regular.encodeF_subnormal {f : FFmt} (hf : f.regular) (r : Rnd) (neg : Bool) {fr : Nat} (hfr : fr < 2 ^ f.fb)
    (hz : f.flush = true → fr = 0) :
    encodeF f r (.fin neg fr (f.emin - f.fb)) = (bitAt neg (f.eb + f.fb) + fr, 0) := by
  by_cases h0 : fr = 0
  · subst h0
    exact encodeF_zero ..
  · have hkeep : f.flush = false := Bool.eq_false_iff.2 fun h => h0 (hz h)
    have hlen := bitLen_le_of_lt hfr
    have hq : f.quantum fr (f.emin - f.fb) = f.emin - f.fb := by
      simp only [FFmt.quantum, hkeep, Bool.false_eq_true, if_false]
      omega
    rw [encodeF_exact r neg h0 (by rw [Nat.pow_succ]; omega) hq (hf.subnormal_le hfr), if_pos hfr]

/-- A normal number that is no special. -/
theorem FFmt.regular.encodeF_normal {f : FFmt} (hf : f.regular) (r : Rnd) (neg : Bool) {ex fr : Nat} (hex : ex < 2 ^ f.eb)
    (hfr : fr < 2 ^ f.fb) (h0 : ex ≠ 0) (hi : ¬ (f.kind = .ieee ∧ ex = 2 ^ f.eb - 1)) (hn : ¬ (f.kind = .e4m3 ∧ ex = 15 ∧ fr = 7)) :
    encodeF f r (.fin neg (2 ^ f.fb + fr) ((ex : Int) - f.bias - f.fb)) = (bitAt neg (f.eb + f.fb) + ex * 2 ^ f.fb + fr, 0) := by
  have hpos := Nat.two_pow_pos f.fb
  have hlt : 2 ^ f.fb + fr < 2 ^ (f.fb + 1) := by rw [Nat.pow_succ]; omega
  have hlen := bitLen_of_between (Nat.le_add_right _ fr) hlt
  have hq : f.quantum (2 ^ f.fb + fr) ((ex : Int) - f.bias - f.fb) = (ex : Int) - f.bias - f.fb := by
    simp only [FFmt.quantum, hlen, FFmt.emin]
    split <;> omega
  have hex' : ((ex : Int) - f.bias - f.fb + f.fb + f.bias).toNat = ex := by omega
  rw [encodeF_exact r neg (by omega) hlt hq (hf.normal_le hex hfr hi hn), if_neg (by omega),
    if_neg (by simp only [FFmt.emin]; omega), hex', Nat.add_sub_cancel_left]

/-- Settles O54: an encoding is an infinity, a subnormal (zero where the format flushes) or a normal number, and each keeps its fields. -/
theorem exactValuesKeepTheirEncoding : Obligations.ExactValuesKeepTheirEncoding := by
  unfold Obligations.ExactValuesKeepTheirEncoding
  intro f r w hmem hw hnan hflush
  have hf := regular_of_mem hmem
  have hfields := f.fields_eq hw
  by_cases hi : f.kind = .ieee ∧ f.expField w = 2 ^ f.eb - 1
  · obtain ⟨hk, he⟩ := hi
    have hdec := decodeF_special hk he
    have hfr : f.fracField w = 0 := by
      by_contra h
      exact hnan (hdec.trans (if_neg h))
    rw [hfr, he] at hfields
    rw [hdec, if_pos hfr]
    simp only [encodeF, hk, reduceCtorEq, if_false, FFmt.infCode]
    exact congrArg (·, 0) hfields
  · have hn : ¬ (f.kind = .e4m3 ∧ f.expField w = 15 ∧ f.fracField w = 7) :=
      fun h => hnan ((if_neg hi).trans (if_pos h))
    rw [decodeF_finite hi hn]
    by_cases h0 : f.expField w = 0
    · rw [if_pos h0, hf.encodeF_subnormal r _ (f.fracField_lt w) fun h => hflush h h0]
      rw [h0] at hfields
      simpa using hfields
    · rw [if_neg h0, hf.encodeF_normal r _ (f.expField_lt w) (f.fracField_lt w) h0 hi hn]
      exact congrArg (·, 0) hfields

end Sys2Proof.Machine
end

section
/-! PROOFS. Power states (R459–R462): sleep and wake of a pod, STANDBY and the way back; the statement PowerStatesChange. -/

namespace Sys2Proof.Machine

/-! ## What a pod's clearing leaves alone -/

/-- The part of the state that a reply does not change and a pod's clearing changes in that pod only. -/
def State.house (s : State) : Tbl Pod × Tbl Hull × MemS × BoardS := (s.pods, s.hulls, s.mem, s.board)

theorem State.ringFault_house (s : State) (r : Nat) : (s.ringFault r).house = s.house := by
  have hv (v : State) : (v.hevent r).house = v.house := by
    unfold State.hevent
    split <;> rfl
  cases hx : (s.ring r).state with
  | running | draining =>
    simp only [State.ringFault, hx]
    exact hv _
  | disabled | fault => simp only [State.ringFault, hx]

theorem State.reply_house (s : State) (c : Cmd) (op : Nat) (st : Byte) (f : Params) : (s.reply c op st f).house = s.house := by
  unfold State.reply
  split
  case isTrue => rfl
  case isFalse =>
    cases c.org with
    | udp e => simp only []; split <;> rfl
    | ring n =>
      cases hx : (s.ring n).state with
      | running | draining =>
        simp only [State.emit_ring, hx]
        split
        case isTrue => exact State.ringFault_house ..
        case isFalse => split <;> rfl
      | disabled | fault =>
        simp only [State.emit_ring, hx]
        rfl

theorem State.dropWork_house (s : State) (a : Nat) : (s.dropWork a).house = s.house := by
  refine (foldl_keeps (fun v k => ?_) _ _).trans rfl
  split
  case h_1 => exact State.reply_house ..
  case h_2 => rfl

theorem State.setEng_house (s : State) (a : Nat) (x : Engine) : (s.setEng a x).house = s.house := rfl

theorem State.setTile_house (s : State) (t : Nat) (x : Tile) : (s.setTile t x).house = s.house := rfl

/-- R350: a cleared pod keeps what it is besides its stores and shares; hulls, memory and the board stay. -/
theorem State.clearPod_house (s : State) (p : Nat) :
    (s.clearPod p).house = (s.setPod p { s.pod p with store := [], landings := [], reqs := [], hold := 0, share := 0, posBase := 0 }).house := by
  unfold State.clearPod
  refine (foldl_keeps (g := State.house) (fun v a => ?_) _ _).trans (foldl_keeps (g := State.house) (fun v t => ?_) _ _)
  · exact (State.setEng_house ..).trans (State.dropWork_house v a)
  · exact State.setTile_house ..

/-! ## A change made pod by pod -/

section PodByPod

variable {γ : Type} {f : State → Nat → State} {g : State → γ}

/-- Where each step of a walk over the pods changes its own pod only, and nothing that `g` reads, the walk's state of a pod is that of its
own step. -/
theorem pod_foldl_step (hother : ∀ s p q, q ≠ p → (f s p).pod q = s.pod q) (hg : ∀ s p, g (f s p) = g s) {q : Nat} :
    ∀ {l : List Nat} (s : State), l.Nodup → q ∈ l →
      ∃ w, w.pod q = s.pod q ∧ g w = g s ∧ (l.foldl f s).pod q = (f w q).pod q
  | [], _, _, hq => absurd hq List.not_mem_nil
  | p :: l, s, hnd, hq => by
    obtain ⟨hp, hl⟩ := List.nodup_cons.mp hnd
    by_cases heq : q = p
    · subst heq
      refine ⟨s, rfl, rfl, ?_⟩
      exact List.foldlRecOn (motive := fun v => v.pod q = (f s q).pod q) l f rfl
        fun v hv i hi => (hother v i q fun h => hp (h ▸ hi)).trans hv
    · obtain ⟨w, hw, hgw, hend⟩ := pod_foldl_step hother hg (f s p) hl ((List.mem_cons.mp hq).resolve_left heq)
      exact ⟨w, hw.trans (hother s p q heq), hgw.trans (hg s p), hend⟩

end PodByPod

/-! ## Sleep and wake (R459–R461) -/

@[simp] theorem State.abortSleep_mem (s : State) (p cause : Nat) : (s.abortSleep p cause).mem = s.mem := by
  unfold State.abortSleep
  refine (State.raise_mem ..).trans ?_
  split
  case h_1 => exact (State.reply_mem ..).trans (State.setPod_mem ..)
  case h_2 => exact State.setPod_mem ..

section Pods

variable {u : State} {c : Cmd} {p : Nat} {x : Pod}

theorem State.podSleep_enters (hp : pf c.params 1 1 = p) (hx : u.pod p = x) (hok : u.powerOk c 1 0 = true) (hop : u.isOperator c = true)
    (hidle : u.podState p = .idle) (hfree : u.podHeld p = false) (hentry : x.entering = false) {v : State}
    (hv : u.setPod p { x with entering := true, wakeMask := BitVec.ofNat 3 (pf c.params 3 1), wakeGtc := pf c.params 8 8, owes := some c } = v) :
    u.podSleep c = if bitOf (pf c.params 3 1) 2 = true ∧ pf c.params 8 8 ≤ u.time.gtc then v.abortSleep p 3 else v := by
  subst hp hx hv
  refine (if_neg (not_bnot hok)).trans ((if_neg (not_bnot hop)).trans ((if_neg ?_).trans rfl))
  rintro (h | h | h)
  · exact h hidle
  · rw [hfree] at h
    cases h
  · rw [hentry] at h
    cases h

theorem State.podWake_wakes (hp : pf c.params 1 1 = p) (hx : u.pod p = x) (hok : u.powerOk c 1 1 = true) (hop : u.isOperator c = true)
    (hoff : u.podState p = .off) (hstandby : x.standbyState = .off) (hwaking : x.waking = false) :
    u.podWake c = u.setPod p { x with owes := some c, waking := true, wakeCause := 4 } := by
  subst hp hx
  refine (if_neg (not_bnot hok)).trans ((if_neg (not_bnot hop)).trans ((if_neg ?_).trans ?_))
  · rintro (h | h | h)
    · exact h hoff
    · exact h hstandby
    · rw [hwaking] at h
      cases h
  · simp [State.startWake, State.setPod, State.pod]

end Pods

/-! ## The device (R462) -/

/-- One pod is powered down for STANDBY. -/
def State.standbyPod (s : State) (p : Nat) : State :=
  let x := s.pod p
  if s.podState p = .fused ∨ x.state = .off ∨ x.entering then s else s.setPod p { x with state := .off, standbyState := x.state }

/-- One pod comes back from STANDBY. -/
def State.activePod (s : State) (p : Nat) : State :=
  let st := (s.pod p).standbyState
  if st = .off then s
  else
    let s := s.clearPod p
    s.setPod p { s.pod p with state := st, standbyState := .off }

theorem State.standbyPod_fixed (s : State) (p : Nat) :
    ((s.standbyPod p).board, (s.standbyPod p).mem, (s.standbyPod p).hulls) = (s.board, s.mem, s.hulls) := by
  unfold State.standbyPod
  extract_lets +onlyGivenNames x
  split <;> rfl

theorem State.standbyPod_other (s : State) (p q : Nat) (h : q ≠ p) : (s.standbyPod p).pod q = s.pod q := by
  unfold State.standbyPod
  extract_lets +onlyGivenNames x
  split
  case isTrue => rfl
  case isFalse => exact State.setPod_other _ _ _ h

/-- A pod that is not fused is off, or still on its way to sleep. -/
theorem State.standbyPod_off {s : State} {p : Nat} (h : s.podState p ≠ .fused) :
    ((s.standbyPod p).pod p).state = .off ∨ (s.pod p).entering = true := by
  by_cases hdown : s.podState p = .fused ∨ (s.pod p).state = .off ∨ (s.pod p).entering = true
  · have hsame : s.standbyPod p = s := if_pos hdown
    rw [hsame]
    exact hdown.resolve_left h
  · have hset : s.standbyPod p = s.setPod p { s.pod p with state := .off, standbyState := (s.pod p).state } := if_neg hdown
    rw [hset, State.setPod_same]
    exact .inl rfl

theorem State.house_pod {v w : State} (h : v.house = w.house) (q : Nat) : v.pod q = w.pod q :=
  congrArg (fun t : Tbl Pod × Tbl Hull × MemS × BoardS => tget Pod.init t.1 q) h

theorem State.activePod_fixed (s : State) (p : Nat) :
    ((s.activePod p).board, (s.activePod p).mem, (s.activePod p).hulls) = (s.board, s.mem, s.hulls) := by
  unfold State.activePod
  extract_lets +onlyGivenNames st v
  split
  case isTrue => rfl
  case isFalse => exact congrArg (fun t => (t.2.2.2, t.2.2.1, t.2.1)) (State.clearPod_house s p)

theorem State.activePod_other (s : State) (p q : Nat) (h : q ≠ p) : (s.activePod p).pod q = s.pod q := by
  unfold State.activePod
  extract_lets +onlyGivenNames st v
  split
  case isTrue => rfl
  case isFalse =>
    exact (State.setPod_other _ _ _ h).trans ((State.house_pod (State.clearPod_house s p) q).trans (State.setPod_other _ _ _ h))

/-- A pod powered down is as it was before STANDBY, its stores cleared. -/
theorem State.activePod_back {s : State} {p : Nat} (h : (s.pod p).standbyState ≠ .off) :
    ((s.activePod p).pod p).state = (s.pod p).standbyState ∧ ((s.activePod p).pod p).store = [] ∧
      ((s.activePod p).pod p).standbyState = .off := by
  have hset : s.activePod p =
      (s.clearPod p).setPod p { (s.clearPod p).pod p with state := (s.pod p).standbyState, standbyState := .off } := if_neg h
  rw [hset, State.setPod_same, State.house_pod (State.clearPod_house s p) p, State.setPod_same]
  exact ⟨rfl, rfl, rfl⟩

section Device

variable {u : State} {c : Cmd}

/-- The device with STANDBY as given, once its pods were walked over. -/
def State.standbySet (f : State → Nat → State) (u : State) (b : Bool) : State :=
  let s := (upFrom 0 8).foldl f u
  { s with board := { s.board with standby := b } }

theorem State.standbySet_fixed {f : State → Nat → State} {b : Bool}
    (hf : ∀ s p, ((f s p).board, (f s p).mem, (f s p).hulls) = (s.board, s.mem, s.hulls)) :
    (u.standbySet f b).mem = u.mem ∧ (u.standbySet f b).hulls = u.hulls := by
  have h := foldl_keeps (g := fun s : State => (s.board, s.mem, s.hulls)) hf u (upFrom 0 8)
  exact ⟨congrArg (·.2.1) h, congrArg (·.2.2) h⟩

theorem State.standbySet_pod (f : State → Nat → State) (b : Bool) (q : Nat) :
    (u.standbySet f b).pod q = ((upFrom 0 8).foldl f u).pod q := rfl

theorem State.deviceStandby_done (hok : u.powerOk c 0 1 = true) (hop : u.isOperator c = true) (hmay : u.mayStandby = true) :
    u.deviceStandby c = (u.standbySet State.standbyPod true).powerDone c 1 := by
  unfold State.standbySet State.standbyPod
  exact (if_neg (not_bnot hok)).trans ((if_neg (not_bnot hop)).trans (if_neg (not_bnot hmay)))

theorem State.deviceActive_done (hok : u.powerOk c 0 0 = true) (hop : u.isOperator c = true) (hin : u.board.standby = true) :
    u.deviceActive c = (u.standbySet State.activePod false).powerDone c 0 := by
  unfold State.standbySet State.activePod
  exact (if_neg (not_bnot hok)).trans ((if_neg (not_bnot hop)).trans (if_neg (not_bnot hin)))

theorem upFrom_eight_nodup : (upFrom 0 8).Nodup := by decide

theorem State.standby_off {q : Nat} (hq : q < 8) (hfused : u.podState q ≠ .fused) :
    ((u.standbySet State.standbyPod true).pod q).state = .off ∨ (u.pod q).entering = true := by
  obtain ⟨w, hpod, hboard, hend⟩ := pod_foldl_step (g := State.board) State.standbyPod_other
    (fun s p => congrArg (·.1) (State.standbyPod_fixed s p)) u upFrom_eight_nodup (mem_upFrom.mpr ⟨Nat.zero_le q, by omega⟩)
  have hw : w.podState q ≠ .fused := by
    unfold State.podState at hfused ⊢
    rwa [hboard, hpod]
  rw [State.standbySet_pod, hend, ← hpod]
  exact State.standbyPod_off hw

theorem State.active_back {q : Nat} (hq : q < 8) (hst : (u.pod q).standbyState ≠ .off) :
    ((u.standbySet State.activePod false).pod q).state = (u.pod q).standbyState ∧
      ((u.standbySet State.activePod false).pod q).store = [] ∧ ((u.standbySet State.activePod false).pod q).standbyState = .off := by
  obtain ⟨w, hpod, -, hend⟩ := pod_foldl_step (g := fun _ => ()) State.activePod_other (fun _ _ => rfl) u upFrom_eight_nodup
    (mem_upFrom.mpr ⟨Nat.zero_le q, by omega⟩)
  rw [State.standbySet_pod, hend, ← hpod]
  rw [← hpod] at hst
  exact State.activePod_back hst

end Device

/-! ## The pods' own times -/

section Times

variable {s : State} {p : Nat} {x : Pod}

theorem sleepEntryComplete_off (hx : s.pod p = x) (hentry : x.entering = true) {v : State}
    (hv : s.setPod p { x with entering := false, state := .off, owes := none } = v) :
    execSleepEntryComplete p s =
      .next (match x.owes with | some c => v.reply c 0x0A00 sDONE (mkFields [(0, 1, 0)]) | none => v) := by
  subst hx hv
  refine congrArg Host.Outcome.next ((if_neg (not_bnot hentry)).trans ?_)
  cases (s.pod p).owes <;> rfl

theorem wakeTimer_aborts (hx : s.pod p = x) (hmask : x.wakeMask.getLsbD 2 = true) (ht : x.wakeGtc ≤ s.time.gtc)
    (hentry : x.entering = true) : execWakeTimer p s = .next (s.abortSleep p 3) := by
  subst hx
  exact congrArg Host.Outcome.next
    ((if_neg (not_or.mpr ⟨not_bnot hmask, Nat.not_lt.mpr ht⟩)).trans (if_pos hentry))

theorem wakeTimer_wakes (hx : s.pod p = x) (hmask : x.wakeMask.getLsbD 2 = true) (ht : x.wakeGtc ≤ s.time.gtc)
    (hentry : x.entering = false) (hoff : x.state = .off) (hst : x.standbyState = .off) (hwaking : x.waking = false)
    (hin : s.inService = true) : execWakeTimer p s = .next (s.setPod p { x with waking := true, wakeCause := 3 }) := by
  subst hx
  have hbusy : ¬ (s.pod p).entering = true := by simp [hentry]
  exact congrArg Host.Outcome.next ((if_neg (not_or.mpr ⟨not_bnot hmask, Nat.not_lt.mpr ht⟩)).trans
    ((if_neg hbusy).trans (if_pos ⟨hoff, hst, by simp [hwaking], hin⟩)))

theorem wakeComplete_idle (hx : s.pod p = x) (hwaking : x.waking = true) {v w : State} (hv : s.clearPod p = v)
    (hw : (v.setPod p { v.pod p with state := .idle, waking := false, wakeMask := 0, owes := none, waiting := [] }).raise 101 = w) :
    execWakeComplete p s = .next (x.waiting.foldl State.proceed
      (match x.owes with | some c => w.reply c 0x0A00 sDONE (mkFields [(0, 1, 1)]) | none => w)) := by
  subst hx hv hw
  refine congrArg Host.Outcome.next ((if_neg (not_bnot hwaking)).trans ?_)
  cases (s.pod p).owes <;> rfl

end Times

/-- Settles O53: the commands by their rules in turn, the device's two by a walk over the pods in which each pod is changed by its own step
only; the three ends of a pod's sleep and wake by their conditions. -/
theorem powerStatesChange : Obligations.PowerStatesChange := by
  unfold Obligations.PowerStatesChange
  refine ⟨fun s c hs => ?commands, fun s p => ⟨?entry, ?timer, ?wake⟩⟩
  case commands =>
    intro u p x hop
    refine ⟨?sleep, ?awake, ?standby, ?active⟩
    case sleep =>
      intro hok hidle hfree hentry v
      refine State.packet_ends hs (State.podSleep_enters rfl rfl hok hop hidle hfree hentry rfl) ?_
      split
      case isTrue => exact (State.abortSleep_mem ..).trans (State.setPod_mem ..)
      case isFalse => exact State.setPod_mem ..
    case awake =>
      intro hok hoff hst hwaking
      exact State.packet_ends hs (State.podWake_wakes rfl rfl hok hop hoff hst hwaking) (State.setPod_mem ..)
    case standby =>
      intro hok hmay
      obtain ⟨hmem, hhulls⟩ := u.standbySet_fixed (b := true) State.standbyPod_fixed
      exact ⟨u.standbySet State.standbyPod true,
        State.packet_ends hs (State.deviceStandby_done hok hop hmay) ((State.reply_mem ..).trans hmem), rfl,
        fun q hq hfused => State.standby_off hq hfused, hmem, hhulls⟩
    case active =>
      intro hok hin
      obtain ⟨hmem, hhulls⟩ := u.standbySet_fixed (b := false) State.activePod_fixed
      exact ⟨u.standbySet State.activePod false,
        State.packet_ends hs (State.deviceActive_done hok hop hin) ((State.reply_mem ..).trans hmem), rfl,
        fun q hq hst => State.active_back hq hst, hmem, hhulls⟩
  case entry => exact fun hentry => sleepEntryComplete_off rfl hentry rfl
  case timer =>
    exact fun hmask ht => ⟨wakeTimer_aborts rfl hmask ht, wakeTimer_wakes rfl hmask ht⟩
  case wake => exact fun hwaking => wakeComplete_idle rfl hwaking rfl rfl

end Sys2Proof.Machine
end
